-- ==== Sys2Proof/Word.lean ====
section
/-! DEFINITION. The words of the Vulomi: 64-bit words, bytes, halfwords, 512-bit vectors, and the shape of a sparse table. -/

namespace Sys2Proof

/-- A 64-bit scalar value (R22). -/
abbrev Word := BitVec 64
/-- A byte of memory or scratchpad (R4). -/
abbrev Byte := BitVec 8
/-- A 16-bit halfword of a code line (R32). -/
abbrev Half := BitVec 16
/-- A 512-bit vector register (R22). -/
abbrev VWord := BitVec 512

/-- A sparse table: (key, value) pairs, keys strictly rising, no value equal to the table's default. -/
abbrev Tab (α : Type) := List (Nat × α)

end Sys2Proof
end

