-- ==== Sys2Proof/Syntax.lean ====
section
/-! DEFINITION. The instructions of the Gherad set and the hardware and host steps of spec/opcode_table.json, one constructor a row. -/

namespace Sys2Proof

/-- A 6-bit register specifier (R25): x0..x47, the ports q0..q7, the environment registers e0..e7. -/
inductive Reg where
  | x (n : Fin 48)
  | q (n : Fin 8)
  | e (n : Fin 8)
deriving DecidableEq, Repr

/-- A vector register v0..v31 (R25). -/
abbrev VReg := Fin 32

/-- Element types in code order (R48). -/
inductive ElemTy where
  | s8 | s16 | s32 | s64 | w8 | w16 | w32 | w64 | f16 | bf16 | f32 | f64 | e4m3 | e5m2 | e2m1 | e8m0
deriving DecidableEq, Repr

/-- Rounding codes in code order (R49). -/
inductive Rnd where
  | rne | rtz | rdn | rup | rna | sto | odd | dyn
deriving DecidableEq, Repr

/-- Scope codes in code order (R50). -/
inductive Scope where
  | core | die | pkg | sys
deriving DecidableEq, Repr

/-- Ordering kinds in code order (R51). -/
inductive Ord where
  | plain | acq | rel | acqrel
deriving DecidableEq, Repr

/-- The atomic operations in minor order (R227). -/
inductive AmoOp where
  | add | and | or | xor | min | max | minw | maxw | swap | cas | fadd
deriving DecidableEq, Repr

/-- The memory operand of the F2m majors (R42, R46): base, index, scale exponent, signed byte offset. -/
structure MemRef where
  base : Reg
  idx : Reg
  sc : BitVec 2
  off : BitVec 12
deriving DecidableEq, Repr

/-- The mod field of an atomic (R227) or a RAMO (R232): placement code, ordering, scope, 8-byte size. -/
structure AmoMod where
  place : BitVec 2
  ord : Ord
  scope : Scope
  wide : Bool
deriving DecidableEq, Repr

/-- A namespace found on an expansion port at boot (R182, R370): what the device reports. -/
structure Namespace where
  port : Nat
  nsid : Nat
  blockBytes : Nat
  blocks : Nat
  plainFormat : Bool
deriving DecidableEq, Repr

/-- What a boot finds (R373): the five images that it checks (package controller, stack management, scrivener and
supervisor firmware, boot configuration), the routine images that the configuration names, a step that fails for another
reason than an image (0 for none), the installed far-tier bytes, the ports in root-port mode, those in CXL mode, those
whose device fails R370, the namespaces, the unusable dies, the lanes shifted in for each link, and the columns and rows
that self-test has brought in, as die, counter of R409 and number (R412). -/
structure BootReport where
  images : List (List Byte)
  routines : List (List Byte)
  failStep : Nat
  farBytes : Nat
  rootPorts : List Nat
  cxlPorts : List Nat
  badPorts : List Nat
  namespaces : List Namespace
  unusable : List Nat
  lanes : List (Nat × Nat)
  selfTest : List (Nat × Nat × Nat)
deriving DecidableEq, Repr

/-- An access, an engine operation or a channel, by number, and which of its parts (a line, an element, a beat, an add) a step
concerns. -/
structure Piece where
  id : Nat
  part : Nat
deriving DecidableEq, Repr

/-- A write to a register of BAR0: its size in bytes, and the value (R364). -/
structure BarWrite where
  size : Nat
  val : Word
deriving DecidableEq, Repr

/-- An operation that arrives at a peer port from another package (R371); a RAMO carries its placement code (R235). -/
inductive PeerReq where
  | get (addr : Word) (size : Nat)
  | put (addr : Word) (bytes : List Byte) (release : Bool) (depth : Nat)
  | ramo (op : AmoOp) (addr : Word) (wide : Bool) (place : Nat) (b expect : Word) (depth : Nat)
  | amsg (core lid : Nat) (handler : Word) (payload : List Word) (sender : Word) (depth : Nat)
deriving DecidableEq, Repr

/-- One constructor for each row of spec/opcode_table.json, in its order. The rows without an encoding are the
steps of the hardware and of the host; their arguments name the party the step concerns and what the spec leaves to
the hardware's choice or to the outside world. -/
inductive Instr where
  /-- R102: Writes xd with the sum of two 64-bit sources, wrapping. -/
  | add (d : Reg) (a : Reg) (b : Reg)
  /-- R102: Writes xd with the difference of two 64-bit sources, wrapping. -/
  | sub (d : Reg) (a : Reg) (b : Reg)
  /-- R102: Writes xd with the bitwise AND of two sources. -/
  | and (d : Reg) (a : Reg) (b : Reg)
  /-- R102: Writes xd with the bitwise OR of two sources. -/
  | or (d : Reg) (a : Reg) (b : Reg)
  /-- R102: Writes xd with the bitwise XOR of two sources. -/
  | xor (d : Reg) (a : Reg) (b : Reg)
  /-- R102: Writes xd with rs1 AND NOT rs2. -/
  | andn (d : Reg) (a : Reg) (b : Reg)
  /-- R102: Shifts rs1 left by rs2[5:0], zeros entering. -/
  | sll (d : Reg) (a : Reg) (b : Reg)
  /-- R102: Shifts rs1 right logically by rs2[5:0]. -/
  | srl (d : Reg) (a : Reg) (b : Reg)
  /-- R102: Shifts rs1 right arithmetically by rs2[5:0]. -/
  | sra (d : Reg) (a : Reg) (b : Reg)
  /-- R102: Rotates rs1 left by rs2[5:0]. -/
  | rol (d : Reg) (a : Reg) (b : Reg)
  /-- R102: Writes the lesser of two sources as s64. -/
  | min (d : Reg) (a : Reg) (b : Reg)
  /-- R102: Writes the greater of two sources as s64. -/
  | max (d : Reg) (a : Reg) (b : Reg)
  /-- R102: Writes the lesser of two sources as w64. -/
  | minw (d : Reg) (a : Reg) (b : Reg)
  /-- R102: Writes the greater of two sources as w64. -/
  | maxw (d : Reg) (a : Reg) (b : Reg)
  /-- R103: Writes the low 64 bits of the product. -/
  | mul (d : Reg) (a : Reg) (b : Reg)
  /-- R103: Writes the high 64 bits of the signed 128-bit product. -/
  | mulhs (d : Reg) (a : Reg) (b : Reg)
  /-- R103: Writes the high 64 bits of the unsigned 128-bit product. -/
  | mulhw (d : Reg) (a : Reg) (b : Reg)
  /-- R103: Writes the signed quotient, never trapping on division by zero. -/
  | div (d : Reg) (a : Reg) (b : Reg)
  /-- R103: Writes the unsigned quotient. -/
  | divw (d : Reg) (a : Reg) (b : Reg)
  /-- R103: Writes the signed remainder. -/
  | rem (d : Reg) (a : Reg) (b : Reg)
  /-- R103: Writes the unsigned remainder. -/
  | remw (d : Reg) (a : Reg) (b : Reg)
  /-- R104: Writes the count of leading zero bits. -/
  | clz (d : Reg) (a : Reg)
  /-- R104: Writes the count of trailing zero bits. -/
  | ctz (d : Reg) (a : Reg)
  /-- R104: Writes the count of one bits. -/
  | popc (d : Reg) (a : Reg)
  /-- R104: Gathers the bits of rs1 at the one positions of rs2 into the low bits. -/
  | bext (d : Reg) (a : Reg) (b : Reg)
  /-- R104: Scatters the low bits of rs1 to the one positions of rs2. -/
  | bdep (d : Reg) (a : Reg) (b : Reg)
  /-- R104: Copies rs1 to xd. -/
  | mov (d : Reg) (a : Reg)
  /-- R104: Sign-extends the low b bits of rs1. -/
  | sext (d : Reg) (a : Reg) (n : BitVec 6)
  /-- R104: Zero-extends the low b bits of rs1. -/
  | zext (d : Reg) (a : Reg) (n : BitVec 6)
  /-- R105: Writes 1 when the two sources are equal. -/
  | seq (d : Reg) (a : Reg) (b : Reg)
  /-- R105: Writes 1 when the two sources differ. -/
  | sne (d : Reg) (a : Reg) (b : Reg)
  /-- R105: Writes 1 when rs1 < rs2 as s64. -/
  | slt (d : Reg) (a : Reg) (b : Reg)
  /-- R105: Writes 1 when rs1 >= rs2 as s64. -/
  | sge (d : Reg) (a : Reg) (b : Reg)
  /-- R105: Writes 1 when rs1 < rs2 as w64. -/
  | sltw (d : Reg) (a : Reg) (b : Reg)
  /-- R105: Writes 1 when rs1 >= rs2 as w64. -/
  | sgew (d : Reg) (a : Reg) (b : Reg)
  /-- R106: Adds a sign-extended 22-bit immediate. -/
  | addi (d : Reg) (a : Reg) (k : BitVec 22)
  /-- R106: ANDs with a sign-extended immediate. -/
  | andi (d : Reg) (a : Reg) (k : BitVec 22)
  /-- R106: ORs with a sign-extended immediate. -/
  | ori (d : Reg) (a : Reg) (k : BitVec 22)
  /-- R106: XORs with a sign-extended immediate. -/
  | xori (d : Reg) (a : Reg) (k : BitVec 22)
  /-- R106: Shifts left by an immediate 0 to 63. -/
  | slli (d : Reg) (a : Reg) (k : BitVec 22)
  /-- R106: Shifts right logically by an immediate. -/
  | srli (d : Reg) (a : Reg) (k : BitVec 22)
  /-- R106: Shifts right arithmetically by an immediate. -/
  | srai (d : Reg) (a : Reg) (k : BitVec 22)
  /-- R106: Rotates left by an immediate. -/
  | roli (d : Reg) (a : Reg) (k : BitVec 22)
  /-- R106: Writes the lesser of rs1 and the immediate as s64. -/
  | mini (d : Reg) (a : Reg) (k : BitVec 22)
  /-- R106: Writes the greater of rs1 and the immediate as s64. -/
  | maxi (d : Reg) (a : Reg) (k : BitVec 22)
  /-- R106: Writes 1 when rs1 is below the immediate as s64. -/
  | slti (d : Reg) (a : Reg) (k : BitVec 22)
  /-- R106: Writes 1 when rs1 equals the immediate. -/
  | seqi (d : Reg) (a : Reg) (k : BitVec 22)
  /-- R107: Major 0x05: writes xd with a sign-extended 22-bit immediate. -/
  | li (d : Reg) (k : BitVec 22)
  /-- R107: Major 0x06 minor 0: writes xd with a sign-extended 32-bit immediate. -/
  | li32 (d : Reg) (k : BitVec 32)
  /-- R107: Writes xd with the immediate in the high 32 bits and rs1's low 32 bits. -/
  | lih (d : Reg) (a : Reg) (k : BitVec 32)
  /-- R108: Writes the effective address without access, translation or checks. -/
  | lea (d : Reg) (m : MemRef)
  /-- R109: Writes rs2 if rs1 is non-zero, else rs3, reading all three sources. -/
  | sel (d : Reg) (c : Reg) (a : Reg) (b : Reg)
  /-- R110: Branches when the two operands are equal. -/
  | beq (a : Reg) (hint : Bool) (b : Reg) (off : BitVec 21) (head : BitVec 5)
  /-- R110: Branches when the two operands differ. -/
  | bne (a : Reg) (hint : Bool) (b : Reg) (off : BitVec 21) (head : BitVec 5)
  /-- R110: Branches when xs1 < rs2 as s64. -/
  | blt (a : Reg) (hint : Bool) (b : Reg) (off : BitVec 21) (head : BitVec 5)
  /-- R110: Branches when xs1 >= rs2 as s64. -/
  | bge (a : Reg) (hint : Bool) (b : Reg) (off : BitVec 21) (head : BitVec 5)
  /-- R110: Branches when xs1 < rs2 as w64. -/
  | bltw (a : Reg) (hint : Bool) (b : Reg) (off : BitVec 21) (head : BitVec 5)
  /-- R110: Branches when xs1 >= rs2 as w64. -/
  | bgew (a : Reg) (hint : Bool) (b : Reg) (off : BitVec 21) (head : BitVec 5)
  /-- R110: Branches when the named bit of xs1 is 1. -/
  | bbs (a : Reg) (hint : Bool) (bit : BitVec 6) (off : BitVec 21) (head : BitVec 5)
  /-- R110: Branches when the named bit of xs1 is 0. -/
  | bbc (a : Reg) (hint : Bool) (bit : BitVec 6) (off : BitVec 21) (head : BitVec 5)
  /-- R110: Branches when xs1 is zero. -/
  | bz (a : Reg) (hint : Bool) (off : BitVec 21) (head : BitVec 5)
  /-- R110: Branches when xs1 is non-zero. -/
  | bnz (a : Reg) (hint : Bool) (off : BitVec 21) (head : BitVec 5)
  /-- R112: Jumps to the target of R36. -/
  | jmp (off : BitVec 27) (head : BitVec 5)
  /-- R112: Jumps and writes the sequential successor to the link register. -/
  | jal (d : Reg) (off : BitVec 27) (head : BitVec 5)
  /-- R113: Sets the program counter to a register value checked by R37. -/
  | jr (a : Reg)
  /-- R113: As jr, also informing the return predictor. -/
  | ret (a : Reg)
  /-- R114: Decrements the counter register and branches while it is non-zero. -/
  | loop (s : Reg) (off : BitVec 21) (head : BitVec 5)
  /-- R118: Adds active lanes, integer wrapping or floating rounded. -/
  | vadd (vd : VReg) (va : VReg) (vb : VReg) (m : Reg) (t : ElemTy) (rm : Rnd)
  /-- R118: Subtracts active lanes. -/
  | vsub (vd : VReg) (va : VReg) (vb : VReg) (m : Reg) (t : ElemTy) (rm : Rnd)
  /-- R118: Multiplies active lanes. -/
  | vmul (vd : VReg) (va : VReg) (vb : VReg) (m : Reg) (t : ElemTy) (rm : Rnd)
  /-- R118: Lane minimum, floating by R97. -/
  | vmin (vd : VReg) (va : VReg) (vb : VReg) (m : Reg) (t : ElemTy)
  /-- R118: Lane maximum, floating by R97. -/
  | vmax (vd : VReg) (va : VReg) (vb : VReg) (m : Reg) (t : ElemTy)
  /-- R118: Saturating integer lane add. -/
  | vadds (vd : VReg) (va : VReg) (vb : VReg) (m : Reg) (t : ElemTy)
  /-- R118: Saturating integer lane subtract. -/
  | vsubs (vd : VReg) (va : VReg) (vb : VReg) (m : Reg) (t : ElemTy)
  /-- R118: Lane absolute value. -/
  | vabs (vd : VReg) (va : VReg) (m : Reg) (t : ElemTy)
  /-- R118: Lane negation. -/
  | vneg (vd : VReg) (va : VReg) (m : Reg) (t : ElemTy)
  /-- R118: Fused multiply-add per lane, rounded once. -/
  | vfma (vd : VReg) (va : VReg) (vb : VReg) (vc : VReg) (m : Reg) (t : ElemTy) (rm : Rnd)
  /-- R118: Fused multiply-subtract per lane, rounded once. -/
  | vfms (vd : VReg) (va : VReg) (vb : VReg) (vc : VReg) (m : Reg) (t : ElemTy) (rm : Rnd)
  /-- R119: Lane bitwise AND. -/
  | vand (vd : VReg) (va : VReg) (vb : VReg) (m : Reg) (t : ElemTy)
  /-- R119: Lane bitwise OR. -/
  | vor (vd : VReg) (va : VReg) (vb : VReg) (m : Reg) (t : ElemTy)
  /-- R119: Lane bitwise XOR. -/
  | vxor (vd : VReg) (va : VReg) (vb : VReg) (m : Reg) (t : ElemTy)
  /-- R119: Lane a AND NOT b. -/
  | vandn (vd : VReg) (va : VReg) (vb : VReg) (m : Reg) (t : ElemTy)
  /-- R119: Lane shift left by b mod width. -/
  | vsll (vd : VReg) (va : VReg) (vb : VReg) (m : Reg) (t : ElemTy)
  /-- R119: Lane logical shift right. -/
  | vsrl (vd : VReg) (va : VReg) (vb : VReg) (m : Reg) (t : ElemTy)
  /-- R119: Lane arithmetic shift right. -/
  | vsra (vd : VReg) (va : VReg) (vb : VReg) (m : Reg) (t : ElemTy)
  /-- R120: Writes a mask of lanes that compare equal. -/
  | vcmpeq (d : Reg) (va : VReg) (vb : VReg) (m : Reg) (t : ElemTy)
  /-- R120: Writes a mask of lanes that differ or are unordered. -/
  | vcmpne (d : Reg) (va : VReg) (vb : VReg) (m : Reg) (t : ElemTy)
  /-- R120: Writes a mask of lanes where a < b. -/
  | vcmplt (d : Reg) (va : VReg) (vb : VReg) (m : Reg) (t : ElemTy)
  /-- R120: Writes a mask of lanes where a <= b. -/
  | vcmple (d : Reg) (va : VReg) (vb : VReg) (m : Reg) (t : ElemTy)
  /-- R120: Writes a mask of lanes where a > b. -/
  | vcmpgt (d : Reg) (va : VReg) (vb : VReg) (m : Reg) (t : ElemTy)
  /-- R120: Writes a mask of lanes where a >= b. -/
  | vcmpge (d : Reg) (va : VReg) (vb : VReg) (m : Reg) (t : ElemTy)
  /-- R120: Writes a mask of floating lanes that are unordered. -/
  | vcmpun (d : Reg) (va : VReg) (vb : VReg) (m : Reg) (t : ElemTy)
  /-- R121: Selects each lane from va or vb by the mask. -/
  | vsel (vd : VReg) (va : VReg) (vb : VReg) (m : Reg) (t : ElemTy)
  /-- R121: Copies active lanes. -/
  | vmov (vd : VReg) (va : VReg) (m : Reg) (t : ElemTy)
  /-- R121: Broadcasts a scalar into active lanes. -/
  | vbcast (vd : VReg) (xs : Reg) (m : Reg) (t : ElemTy)
  /-- R121: Extracts one lane to a scalar register. -/
  | vextr (d : Reg) (va : VReg) (xi : Reg) (t : ElemTy)
  /-- R121: Inserts a scalar into one lane. -/
  | vins (vd : VReg) (xs : Reg) (xi : Reg) (t : ElemTy)
  /-- R121: Permutes lanes by an index vector. -/
  | vperm (vd : VReg) (va : VReg) (vb : VReg) (m : Reg) (t : ElemTy)
  /-- R121: Packs active lanes to the bottom, zeroing the rest. -/
  | vcompress (vd : VReg) (va : VReg) (m : Reg) (t : ElemTy)
  /-- R121: Spreads low lanes into active positions. -/
  | vexpand (vd : VReg) (va : VReg) (m : Reg) (t : ElemTy)
  /-- R122: Reduces active lanes to a scalar sum by the fixed tree. -/
  | vredsum (d : Reg) (va : VReg) (m : Reg) (t : ElemTy) (rm : Rnd)
  /-- R122: Reduces active lanes to their maximum. -/
  | vredmax (d : Reg) (va : VReg) (m : Reg) (t : ElemTy)
  /-- R122: Reduces active lanes to their minimum. -/
  | vredmin (d : Reg) (va : VReg) (m : Reg) (t : ElemTy)
  /-- R122: Reduces active lanes to the greatest absolute value. -/
  | vamax (d : Reg) (va : VReg) (m : Reg) (t : ElemTy)
  /-- R123: Inclusive prefix add, max or min over lanes. -/
  | vscan (vd : VReg) (va : VReg) (m : Reg) (t : ElemTy) (rm : Rnd) (op : BitVec 2)
  /-- R124: Lane division, correctly rounded or rounded twice for narrow types. -/
  | vdiv (vd : VReg) (va : VReg) (vb : VReg) (m : Reg) (t : ElemTy) (rm : Rnd)
  /-- R124: Lane square root. -/
  | vsqrt (vd : VReg) (va : VReg) (m : Reg) (t : ElemTy) (rm : Rnd)
  /-- R124: Lane reciprocal square root. -/
  | vrsq (vd : VReg) (va : VReg) (m : Reg) (t : ElemTy) (rm : Rnd)
  /-- R124: Lane reciprocal. -/
  | vrcp (vd : VReg) (va : VReg) (m : Reg) (t : ElemTy) (rm : Rnd)
  /-- R124: Lane power of two. -/
  | vexp2 (vd : VReg) (va : VReg) (m : Reg) (t : ElemTy) (rm : Rnd)
  /-- R124: Lane base-2 logarithm. -/
  | vlog2 (vd : VReg) (va : VReg) (m : Reg) (t : ElemTy) (rm : Rnd)
  /-- R125: Converts one part of lanes between types. -/
  | vcvt (vd : VReg) (va : VReg) (m : Reg) (t : ElemTy) (rm : Rnd) (st : ElemTy) (part : BitVec 4) (sat : Bool)
  /-- R126: Quantises elements to MX elements under a given scale. -/
  | vpackmx (vd : VReg) (va : VReg) (xs : Reg) (m : Reg) (t : ElemTy) (rm : Rnd) (st : ElemTy) (part : BitVec 4) (sat : Bool)
  /-- R127: Expands MX elements under a scale to f16, bf16 or f32. -/
  | vunpackmx (vd : VReg) (va : VReg) (xs : Reg) (m : Reg) (t : ElemTy) (rm : Rnd) (st : ElemTy) (part : BitVec 4)
  /-- R128: Pushes indices and values of non-zero lanes to two ports. -/
  | vnzx (qi : Reg) (va : VReg) (qv : Reg) (xb : Reg) (m : Reg) (t : ElemTy)
  /-- R222: Plain load of 1 to 8 bytes, zero-extended, by object address. -/
  | load (d : Reg) (m : MemRef) (sz : BitVec 2)
  /-- R222: Plain load of 1, 2 or 4 bytes, sign-extended. -/
  | loadSigned (d : Reg) (m : MemRef) (sz : BitVec 2)
  /-- R222: Acquire load at its scope. -/
  | lda (d : Reg) (m : MemRef) (scope : Scope) (sz : BitVec 2)
  /-- R223: Plain store of 1 to 8 bytes. -/
  | store (s : Reg) (m : MemRef) (sz : BitVec 2)
  /-- R223: Release store at its scope. -/
  | stl (s : Reg) (m : MemRef) (scope : Scope) (sz : BitVec 2)
  /-- R224: Loads 64 bytes into a vector register. -/
  | ldv (v : VReg) (m : MemRef)
  /-- R224: Stores a vector register as 64 bytes. -/
  | stv (v : VReg) (m : MemRef)
  /-- R225: Strided vector load of active elements. -/
  | ldvs (v : VReg) (base : Reg) (stride : Reg) (m : Reg) (t : ElemTy)
  /-- R225: Strided vector store of active elements. -/
  | stvs (v : VReg) (base : Reg) (stride : Reg) (m : Reg) (t : ElemTy)
  /-- R225: Indexed vector gather. -/
  | ldvx (v : VReg) (base : Reg) (vi : VReg) (m : Reg) (t : ElemTy) (sc : BitVec 2)
  /-- R225: Indexed vector scatter. -/
  | stvx (v : VReg) (base : Reg) (vi : VReg) (m : Reg) (t : ElemTy) (sc : BitVec 2)
  /-- R226: Scratchpad load, zero- or sign-extended, wrapped and swizzled. -/
  | sld (d : Reg) (signed : Bool) (m : MemRef) (swz : BitVec 2) (sz : BitVec 2)
  /-- R226: Load from the record page. -/
  | sldRec (d : Reg) (signed : Bool) (m : MemRef) (sz : BitVec 2)
  /-- R226: Scratchpad store. -/
  | sst (s : Reg) (m : MemRef) (swz : BitVec 2) (sz : BitVec 2)
  /-- R226: Scratchpad vector load of 64 bytes. -/
  | sldv (v : VReg) (m : MemRef) (swz : BitVec 2)
  /-- R226: Scratchpad vector store of 64 bytes. -/
  | sstv (v : VReg) (m : MemRef) (swz : BitVec 2)
  /-- R227: Atomic add at the chosen placement. -/
  | amoadd (d : Reg) (a : Reg) (b : Reg) (md : AmoMod)
  /-- R227: Atomic AND. -/
  | amoand (d : Reg) (a : Reg) (b : Reg) (md : AmoMod)
  /-- R227: Atomic OR. -/
  | amoor (d : Reg) (a : Reg) (b : Reg) (md : AmoMod)
  /-- R227: Atomic XOR. -/
  | amoxor (d : Reg) (a : Reg) (b : Reg) (md : AmoMod)
  /-- R227: Atomic signed minimum. -/
  | amomin (d : Reg) (a : Reg) (b : Reg) (md : AmoMod)
  /-- R227: Atomic signed maximum. -/
  | amomax (d : Reg) (a : Reg) (b : Reg) (md : AmoMod)
  /-- R227: Atomic unsigned minimum. -/
  | amominw (d : Reg) (a : Reg) (b : Reg) (md : AmoMod)
  /-- R227: Atomic unsigned maximum. -/
  | amomaxw (d : Reg) (a : Reg) (b : Reg) (md : AmoMod)
  /-- R227: Atomic swap. -/
  | amoswap (d : Reg) (a : Reg) (b : Reg) (md : AmoMod)
  /-- R227: Atomic compare-and-swap against xd. -/
  | amocas (d : Reg) (a : Reg) (b : Reg) (md : AmoMod)
  /-- R227: Atomic floating add rounded by rne. -/
  | amofadd (d : Reg) (a : Reg) (b : Reg) (md : AmoMod)
  /-- R229: Orders the strand's accesses at its scope and waits by R194. -/
  | fence (scope : Scope) (ord : Ord)
  /-- R230: Prefetches a line into the L1 or home LLC without architectural effect. -/
  | pref (level : Bool) (m : MemRef)
  /-- R233: Reads 1 to 8 bytes at any home and writes them when the value returns. -/
  | get (d : Reg) (a : Reg) (pkg : Reg) (ord : Ord) (scope : Scope) (sz : BitVec 2)
  /-- R234: Writes a register value at any home, counted until acknowledged. -/
  | put (a : Reg) (v : Reg) (pkg : Reg) (ord : Ord) (scope : Scope) (sz : BitVec 2)
  /-- R234: Writes 1 to 8 scratchpad words at a home as one atomic write. -/
  | puts (a : Reg) (off : Reg) (pkg : Reg) (ord : Ord) (scope : Scope) (n : BitVec 3)
  /-- R235: Applies an atomic operation at a remote home and returns the old value. -/
  | ramo (d : Reg) (op : AmoOp) (a : Reg) (b : Reg) (pkg : Reg) (md : AmoMod)
  /-- R236: Sends an active message with four payload words to a core's porter strand. -/
  | amsg (dest : Reg) (a : Reg) (b : Reg) (c : Reg) (d : Reg) (scope : Scope) (cn : Option (BitVec 4))
  /-- R241: Starts an engine copy from own-die memory or scratchpad to any destination. -/
  | copy (st : Reg) (src : Reg) (dst : Reg) (len : Reg) (pkg : Reg) (scope : Scope) (spad : Bool) (cn : Option (BitVec 4))
  /-- R242: Starts pushing bytes into the scratchpads of launch instances, optionally by slab and arrival word. -/
  | send (st : Reg) (src : Reg) (len : Reg) (dest : Reg) (arr : Reg) (scope : Scope) (spad : Bool) (slab : Bool) (swz : BitVec 2) (cn : Option (BitVec 4))
  /-- R246: Starts a reference stream on a free reference engine. -/
  | refs (st : Reg) (base : Reg) (qin : Reg) (qout : Reg) (ring : Reg) (row : Bool) (par : BitVec 12) (cn : Option (BitVec 4))
  /-- R249: Starts reading storage blocks into memory. -/
  | sread (st : Reg) (ns : Reg) (lba : Reg) (count : Reg) (mem : Reg) (cn : Option (BitVec 4))
  /-- R249: Starts writing memory to storage blocks with force unit access. -/
  | swrite (st : Reg) (ns : Reg) (lba : Reg) (count : Reg) (mem : Reg) (cn : Option (BitVec 4))
  /-- R250: Ships a routine to the routine engine of a line's home. -/
  | fship (st : Reg) (a : Reg) (op1 : Reg) (op2 : Reg) (res : Reg) (scope : Scope) (ord : Ord) (routine : BitVec 6) (cn : Option (BitVec 4))
  /-- R251: Loads a volume element by coordinate word. -/
  | ldc (d : Reg) (h : Reg) (c : Reg) (signed : Bool)
  /-- R251: Stores a volume element, allocating an absent tile. -/
  | stc (s : Reg) (h : Reg) (c : Reg)
  /-- R252: Loads 64 aligned bytes of a tile's dimension-0 run. -/
  | ldcv (v : VReg) (h : Reg) (c : Reg)
  /-- R252: Stores 64 aligned bytes of a tile's dimension-0 run. -/
  | stcv (v : VReg) (h : Reg) (c : Reg)
  /-- R253: Writes the state of the tile holding a coordinate. -/
  | cprobe (d : Reg) (h : Reg) (c : Reg)
  /-- R253: Frees a present tile through BUSY, CLB shoot-down and pool push. -/
  | ctrim (h : Reg) (c : Reg)
  /-- R135: Writes the configuration word of a tile configuration set. -/
  | tcfg (a : Reg) (k : BitVec 6)
  /-- R136: Queues a tile operation that zeroes an accumulator. -/
  | tzero (acc : VReg)
  /-- R135: Writes the amax word address of a configuration set. -/
  | tamax (a : Reg) (k : BitVec 6)
  /-- R135: Writes the row-handler entry of a configuration set. -/
  | trowh (a : Reg) (k : BitVec 6)
  /-- R152: Supervisor resumes a stopped tile unit from ROWPROG. -/
  | tresume
  /-- R152: Supervisor discards the stopped tile operation and the slot's queued ones. -/
  | tabort
  /-- R137: Queues a 64x64 tile multiply-accumulate. -/
  | tmma (acc : VReg) (a : Reg) (b : Reg) (k : BitVec 2) (zero : Bool) (cn : Option (BitVec 4))
  /-- R137: Queues a tile multiply with scratchpad operands selected. -/
  | tmmas (acc : VReg) (a : Reg) (b : Reg) (k : BitVec 2) (zero : Bool) (sel : BitVec 2) (cn : Option (BitVec 4))
  /-- R137: Queues an MX-scaled tile multiply. -/
  | tmmax (acc : VReg) (a : Reg) (b : Reg) (sa : Reg) (sb : Reg) (k : BitVec 2) (zero : Bool) (sel : BitVec 2) (cn : Option (BitVec 4))
  /-- R142: Queues a load of rows into an accumulator. -/
  | tlacc (acc : VReg) (a : Reg) (stride : Reg) (k : BitVec 2) (spad : Bool) (cn : Option (BitVec 4))
  /-- R142: Queues a store of an accumulator's rows. -/
  | tsacc (acc : VReg) (a : Reg) (stride : Reg) (k : BitVec 2) (spad : Bool) (cn : Option (BitVec 4))
  /-- R144: Queues a drain converting accumulator rows to memory, scratchpad or a port, with optional amax. -/
  | tdrain (acc : VReg) (dest : Reg) (stride : Reg) (k : BitVec 2) (t : ElemTy) (rm : Rnd) (kind : BitVec 2) (sat : Bool) (cn : Option (BitVec 4))
  /-- R145: Queues a drain that starts a row handler per accumulator row. -/
  | tdrainHandler (acc : VReg) (dest : Reg) (stride : Reg) (arg : Reg) (k : BitVec 2) (cn : Option (BitVec 4))
  /-- R148: Row handler converts and writes its row and ends. -/
  | rowout (dest : Reg) (m : Reg) (swz : BitVec 6) (t : ElemTy) (rm : Rnd) (kind : BitVec 2) (sat : Bool)
  /-- R154: Loads merge fibre descriptors and clears MSTAT sticky bits. -/
  | mcfg (a : Reg) (n : BitVec 6)
  /-- R155: Starts a merge run to scratchpad or a port. -/
  | mrun (out : Reg) (port : Bool) (tag : BitVec 3) (cn : Option (BitVec 4))
  /-- R157: Writes the merge unit's status word. -/
  | mstat (d : Reg)
  /-- R158: Asks the active merge run to end after the coordinate in progress. -/
  | mstop
  /-- R300: Pushes a token with a 32-bit payload. -/
  | qtok (tag : BitVec 3) (port : BitVec 3) (s : Reg)
  /-- R301: Pops a data head without waiting, reporting it in xd and xf. -/
  | qtry (d : Reg) (xf : Reg) (q : Reg)
  /-- R301: Reports the head element without popping or waiting. -/
  | qpeek (d : Reg) (xf : Reg) (q : Reg)
  /-- R302: Writes the poppable count or held credits sampled at issue. -/
  | qlen (d : Reg) (q : Reg)
  /-- R303: Holds later pushes until every earlier push is poppable. -/
  | qfence
  /-- R304: Sets or clears a port's token target. -/
  | qtvec (q : Reg) (s : Reg)
  /-- R307: Adds k to a completion counter's pending count. -/
  | cpost (c : BitVec 4) (k : BitVec 22)
  /-- R307: Waits until a completion counter's pending count is at or below t. -/
  | waitc (c : BitVec 4) (k : BitVec 22)
  /-- R307: Samples a completion counter, optionally clearing underflow. -/
  | cread (d : Reg) (c : BitVec 4) (clr : Bool)
  /-- R305: Waits until every class counter is at or below its immediate. -/
  | wait (ld : BitVec 6) (st : BitVec 6) (cp : BitVec 6) (tl : BitVec 6)
  /-- R308: Acquire-waits until an arrival word reaches a total. -/
  | await (a : Reg) (t : Reg) (scope : Scope)
  /-- R309: Arrives at the stage barrier and departs when the round closes. -/
  | bar
  /-- R310: Parks until a completion counter reaches a threshold. -/
  | parkC (c : BitVec 4) (t : Reg)
  /-- R310: Parks until an arrival word reaches a total. -/
  | parkA (a : Reg) (t : Reg) (scope : Scope)
  /-- R310: Parks until a queue port holds an element. -/
  | parkQ (port : BitVec 3)
  /-- R310: Parks until e4 reaches a deadline. -/
  | parkT (t : Reg)
  /-- R311: Resets the waiting count and steps aside for other ready strands. -/
  | yield
  /-- R313: Waits for outstanding counts, then ends the strand and frees its slot. -/
  | exit
  /-- R312: Sets the strand's issue level. -/
  | sprio (n : BitVec 6)
  /-- R314: Starts a launch from a packet in scratchpad and returns its id. -/
  | launch (d : Reg) (p : Reg)
  /-- R315: Computes the strand's slice of a shape record. -/
  | slice (d : Reg) (j : Reg) (k : BitVec 6) (what : BitVec 2) (axis : Bool)
  /-- R324: Disarms and re-arms a watch over its range or a new one. -/
  | warm (w : Reg) (base : Reg) (size : Reg)
  /-- R324: Disarms a watch on every die and drops its pending triggers. -/
  | wdisarm (w : Reg)
  /-- R325: Writes a watch's summed status word. -/
  | wstat (d : Reg) (w : Reg)
  /-- R321: Ends a triggered strand's claim, re-pending the granule if changes coalesced. -/
  | wack
  /-- R360: Reads a system register. -/
  | csrr (d : Reg) (csr : BitVec 12)
  /-- R360: Writes a system register. -/
  | csrw (csr : BitVec 12) (s : Reg)
  /-- R360: Sets bits of a system register. -/
  | csrset (csr : BitVec 12) (s : Reg)
  /-- R360: Clears bits of a system register. -/
  | csrclr (csr : BitVec 12) (s : Reg)
  /-- R336: Installs or declines a translation and answers matching miss records. -/
  | tlbw (a : Reg) (b : Reg)
  /-- R340: Removes TLB entries across the partition and waits for acknowledgements. -/
  | tlbi (a : Reg) (b : Reg)
  /-- R355: Removes CLB translations across the die. -/
  | clbi (a : Reg) (b : Reg)
  /-- R342: Asks a migration engine to move a 64 KiB page. -/
  | migr (d : Reg) (a : Reg) (b : Reg)
  /-- R361: Retires and traps ECALL to the supervisor. -/
  | ecall (n : BitVec 7)
  /-- R388: Retires and traps EBREAK. -/
  | ebreak (n : BitVec 7)
  /-- R387: Ends a supervisor run: resumes, retires or abandons, and unfreezes the core. -/
  | eret
  /-- R362: Changes a quiescent core's strand mode and zeroes user slots. -/
  | repart (a : Reg)
  /-- R398: Saves a slot or core record of a pre-empted core. -/
  | ctxsave (a : Reg) (b : Reg)
  /-- R400: Checks and restores a slot or core record. -/
  | ctxrest (a : Reg) (b : Reg)
  /-- R280: A ready strand passed over for 256 clk moves to the aged level for one issue. -/
  | agedLevel (core : Nat) (slot : Nat)
  /-- R311: A yielding strand becomes ready again after 64 clk or once the others have issued. -/
  | yieldExpiry (core : Nat) (slot : Nat)
  /-- R219: A load's value is written to its destination and the ld count falls. -/
  | loadReturn (core : Nat) (slot : Nat) (seq : Piece)
  /-- R190: A write takes effect in the coherent copy and the st count falls. -/
  | storePerformed (core : Nat) (slot : Nat) (seq : Piece)
  /-- R203: A GET, PUT, PUTS or RAMO is performed at its home. -/
  | fabricPerformed (core : Nat) (slot : Nat) (seq : Nat) (ext : Word)
  /-- R203: An acknowledgement or returned value lowers the remote-acknowledgement count. -/
  | remoteAck (core : Nat) (slot : Nat) (seq : Nat)
  /-- R206: A dropped element or operation is negatively acknowledged and sets UNDELIVERABLE. -/
  | negativeAck (core : Nat) (slot : Nat) (seq : Nat)
  /-- R179: The routine engine performs a shipped atomic or routine on a line and returns its result. -/
  | shippedOperation (core : Nat) (slot : Nat) (seq : Nat)
  /-- R213: A pushed element arrives and becomes poppable in producer order. -/
  | elementPoppable (queue : Nat) (gen : Nat)
  /-- R295: A pop returns a credit to a producer core. -/
  | creditReturn (queue : Nat)
  /-- R237: An arriving AMSG is checked and run on the porter strand after the previous run. -/
  | porterRunStart (core : Nat)
  /-- R132: The tile unit begins the next accepted operation once the previous unit part ends. -/
  | tileOpStart (core : Nat)
  /-- R150: A fault stops the tile unit between steps and records ROWPROG. -/
  | tileUnitStop (core : Nat)
  /-- R132: A tile operation completes, lowering tl and its counter. -/
  | tileOpComplete (core : Nat) (op : Nat)
  /-- R144: After a drain's unit part, the far maximum to the amax word is performed or fails. -/
  | amaxAtomic (core : Nat) (op : Nat)
  /-- R145: A drain row is started as a row handler in a free reserved slot. -/
  | rowHandlerDispatch (core : Nat)
  /-- R156: The merge unit sums one coordinate across fibres and emits a pair. -/
  | mergeEmit (core : Nat)
  /-- R156: At a segment end the merge unit forwards a token or completes the run. -/
  | mergeToken (core : Nat)
  /-- R159: An uncorrectable error ends a merge run with MSTAT.fault. -/
  | mergeFault (core : Nat)
  /-- R247: The reference engine pops an index, fetches and pushes, or forwards a token and completes on eos. -/
  | referencePop (core : Nat) (op : Piece)
  /-- R248: A bad reference or locked ring write stops the stream. -/
  | referenceStop (core : Nat) (op : Nat)
  /-- R239: An engine translates and transfers its next 4 KiB sector. -/
  | sectorStep (core : Nat) (op : Piece)
  /-- R239: A declined or off-die sector stops the operation at its start. -/
  | engineStop (core : Nat) (op : Nat)
  /-- R210: A COPY, SEND or other command completes and writes its status word. -/
  | engineComplete (core : Nat) (op : Nat) (ext : Nat)
  /-- R249: An SREAD or SWRITE completes with its status. -/
  | storageComplete (core : Nat) (op : Nat) (status : Nat)
  /-- R244: A waiting transfer starts on a freed inbound channel or is refused whole. -/
  | channelTransferStart (core : Nat) (chan : Nat)
  /-- R209: A beat is written at the channel's write pointer, which advances. -/
  | beatDelivery (core : Nat) (chan : Piece)
  /-- R343: The migration engine copies the page, updates extents, removes TLB entries and writes xd. -/
  | migrationComplete (mig : Nat)
  /-- R320: A pending trigger starts a strand of the handler stage in a free reserved slot. -/
  | triggerStart (die : Nat) (entry : Nat)
  /-- R323: A 4,000 clk rate window ends and the trigger count restarts. -/
  | watchRateWindow (die : Nat) (entry : Nat)
  /-- R284: A parking strand's state is saved and its slot freed. -/
  | parkSaveComplete (core : Nat) (area : Nat)
  /-- R284: A parked strand whose condition holds is restored into a free unreserved slot. -/
  | unpark (core : Nat) (area : Nat)
  /-- R286: Every 4,096 clk the balancer samples elastic inputs and adds or retires an instance. -/
  | balancerSample (lid : Nat) (stage : Nat)
  /-- R287: A retiring elastic instance receives an eos with payload 0xFFFF_FFFF. -/
  | elasticEos (core : Nat) (slot : Nat)
  /-- R291: A launch still for 2^20 clk is stopped with code WATCHDOG. -/
  | watchdogStop (lid : Nat)
  /-- R392: The supervisor takes the WATCHDOG event for the record. -/
  | watchdog (core : Nat) (lid : Nat)
  /-- R392: The supervisor takes HOST_INTERRUPT for a stopped or reset launch. -/
  | hostInterrupt (core : Nat) (lid : Nat) (reason : Nat)
  /-- R394: The supervisor takes PREEMPT to save or restore; the core becomes or stops being pre-empted. -/
  | preempt (core : Nat) (reason : Nat)
  /-- R391: The supervisor takes the runaway event of a disarmed watch entry. -/
  | watchRunaway (core : Nat)
  /-- R390: The supervisor takes UNDELIVERABLE for a strand whose bit was set. -/
  | undeliverable (core : Nat) (slot : Nat)
  /-- R269: A waiting claim is granted; modes, rings, routes, record pages and watches are set and instances start. -/
  | claimGrant (part : Nat)
  /-- R289: A launch ends: watches disarmed, messages dropped, rectangle released, record written, done counted. -/
  | launchEnd (lid : Nat)
  /-- R255: The front end reads each enabled queue's write pointer at least once per microsecond. -/
  | frontEndPoll (queue : Nat) (fail : Nat)
  /-- R261: A LAUNCH packet loads its image and waits for its claim. -/
  | launchPacket (queue : Nat)
  /-- R266: A LAUNCH with var 1 creates the image's objects and runs nothing. -/
  | launchLoadOnly (queue : Nat)
  /-- R262: Copies host memory into device memory. -/
  | copyin (queue : Nat) (buserr : Bool)
  /-- R262: Copies device memory to host memory by posted writes. -/
  | copyout (queue : Nat)
  /-- R263: Writes a signal word as a release at pkg scope. -/
  | signalSet (queue : Nat)
  /-- R263: Adds to a signal word as a release at pkg scope. -/
  | signalAdd (queue : Nat)
  /-- R263: Waits until a signal word is at or above a value. -/
  | waitsigGe (queue : Nat)
  /-- R263: Waits until a signal word equals a value. -/
  | waitsigEq (queue : Nat)
  /-- R263: A waiting WAITSIG reads its word again each microsecond. -/
  | waitsigPoll (queue : Nat)
  /-- R263: Completes once every earlier packet has completed. -/
  | fencePacket (queue : Nat)
  /-- R263: A FENCE with var 1 completes at once as padding. -/
  | pad (queue : Nat)
  /-- R258: A packet completes: record written, done counted, interrupt raised if asked. -/
  | packetComplete (queue : Nat) (index : Nat)
  /-- R255: Writing enable 1 starts serving a queue from read pointer 0. -/
  | queueEnable (queue : Nat)
  /-- R260: Writing enable 0 stops starting packets and withdraws waiting claims. -/
  | queueDisable (queue : Nat)
  /-- R259: Writing 1 to QSTAT.halt resumes a halted queue at rptr. -/
  | queueResume (queue : Nat)
  /-- R364: A host write to a BAR0 register with no behaviour of its own. -/
  | hostRegisterWrite (off : Nat) (val : BarWrite)
  /-- R366: Returns the part, serial, package id and boot state. -/
  | ident (tag : Nat)
  /-- R366: Sets the package id while no partition exists. -/
  | setpkg (tag : Nat)
  /-- R369: Configures a partition. -/
  | partcfg (tag : Nat)
  /-- R368: Removes a partition. -/
  | partclr (tag : Nat)
  /-- R371: Sets the peer ports that reach a package id. -/
  | peermap (tag : Nat)
  /-- R366: Frees an image and the objects it created. -/
  | unload (tag : Nat)
  /-- R366: Ends a launch with code STOPPED. -/
  | stop (tag : Nat)
  /-- R366: Checks and loads a routine image into routines 16 to 63. -/
  | fwload (tag : Nat) (ok : Bool)
  /-- R374: Writes a signed attestation report. -/
  | attest (tag : Nat)
  /-- R367: Maps a BAR2 aperture to an object address. -/
  | winset (tag : Nat)
  /-- R366: Returns the oldest waiting package event. -/
  | evread (tag : Nat)
  /-- R366: Writes the certificate chains of both identity keys. -/
  | certs (tag : Nat)
  /-- R409: Writes the telemetry record of counters, temperatures and power. -/
  | telem (tag : Nat)
  /-- R366: A mailbox command finishes: results and MBSTAT written, busy cleared, INTSTAT.mbox set. -/
  | mailboxComplete
  /-- R367: A host read of a BAR2 aperture, handled as a COPYOUT. -/
  | windowRead (off : Nat) (size : Nat)
  /-- R367: A host write to a BAR2 aperture, handled as a COPYIN. -/
  | windowWrite (off : Nat) (size : Nat) (val : Nat)
  /-- R371: An operation arriving at a peer port is translated and checked in its partition or refused. -/
  | peerInbound (port : Nat) (req : PeerReq)
  /-- R373: Release of PERST# starts the six-step boot. -/
  | perstRelease (boot : BootReport)
  /-- R375: Removing 48 V or asserting PERST# ends every launch and loses volatile state. -/
  | powerOff
  /-- R376: A function-level or hot reset stops launches and clears queue, mailbox and MSI-X state. -/
  | functionLevelReset
  /-- R414: Input voltage outside 44 to 54 V for 10 us shuts the module down. -/
  | inputVoltageFault
  /-- R414: Average input power above 4,800 W limits issue and raises event 5. -/
  | inputPowerLimit (duty : Nat)
  /-- R414: Average power below 4,600 W ends the issue limit. -/
  | inputPowerRecover
  /-- R414: Inlet coolant above 40 C limits issue to keep dies below 95 C. -/
  | coolantInletLimit (die : Nat) (duty : Nat)
  /-- R414: A die reaching 95 C has its issue limited. -/
  | dieTemperatureLimit (die : Nat) (duty : Nat)
  /-- R414: A die reaching 105 C is pre-empted and its tile and vector units powered down. -/
  | dieTemperaturePreempt (die : Nat)
  /-- R414: A die falling below 90 C regains its units. -/
  | dieTemperatureRecover (die : Nat)
  /-- R414: A die reaching 115 C shuts the module down. -/
  | dieTemperatureShutdown (die : Nat)
  /-- R406: An uncorrectable DRAM error fences its 64 KiB page and raises event 3. -/
  | pageFence (line : Nat)
  /-- R410: The stack management core scrubs every line of its stack each 24 hours. -/
  | patrolScrub (stack : Nat)
  /-- R410: LLC slices scrub their lines each hour. -/
  | llcScrub (die : Nat)
  /-- R412: 64 corrections in one bank within 24 hours bring in the spare bank live. -/
  | bankSparing (stack : Nat) (chan : Nat) (bank : Nat)
  /-- R413: A lane or TSV with over 16 errors in 1 ms is replaced live within 2 us. -/
  | liveLaneRepair (link : Nat) (chan : Option Nat)
  /-- R404: An expansion port or endpoint link with an uncorrectable error retrains or is left down. -/
  | linkRetrain (port : Nat) (ok : Bool)
  /-- R399: The package controller powers down a pre-empted core whose records have been saved, losing its scratchpad, accumulators, register file and unit state. -/
  | corePowerDown (core : Nat)
deriving DecidableEq, Repr

end Sys2Proof
end

