-- ==== Sys2Proof/WellFormed.lean ====
section
/-! DEFINITION. The checks that R45, R48, R49, R51, R58 and the field tables of each chapter put on the fields of one instruction; an encoding that fails one traps ILLEGAL (R59). -/

namespace Sys2Proof

/-- Types I of R116: codes 0 to 7. -/
def ElemTy.isInt : ElemTy → Bool
  | .s8 | .s16 | .s32 | .s64 | .w8 | .w16 | .w32 | .w64 => true
  | _ => false

/-- Signed integer types (R68). -/
def ElemTy.isSigned : ElemTy → Bool
  | .s8 | .s16 | .s32 | .s64 => true
  | _ => false

/-- Types F of R116: f16, bf16, f32, f64. -/
def ElemTy.isF : ElemTy → Bool
  | .f16 | .bf16 | .f32 | .f64 => true
  | _ => false

/-- Types F32 of R116: f16, bf16, f32. -/
def ElemTy.isF32 : ElemTy → Bool
  | .f16 | .bf16 | .f32 => true
  | _ => false

/-- Types M of R116: codes 0 to 13. -/
def ElemTy.isM : ElemTy → Bool
  | .e2m1 | .e8m0 => false
  | _ => true

/-- The element types of MX blocks (R75) and of narrow tile operands: e4m3, e5m2, e2m1. -/
def ElemTy.isMx : ElemTy → Bool
  | .e4m3 | .e5m2 | .e2m1 => true
  | _ => false

/-- The types a drain or ROWOUT converts to (R143, R148): codes 8, 9, 10, 12, 13. -/
def ElemTy.isDrain : ElemTy → Bool
  | .f16 | .bf16 | .f32 | .e4m3 | .e5m2 => true
  | _ => false

/-- The width in bits of an element (R48, R101). -/
def ElemTy.width : ElemTy → Nat
  | .s8 | .w8 | .e4m3 | .e5m2 | .e8m0 => 8
  | .s16 | .w16 | .f16 | .bf16 => 16
  | .s32 | .w32 | .f32 => 32
  | .s64 | .w64 | .f64 => 64
  | .e2m1 => 4

/-- Lanes of a vector register (R101): 512 / width. -/
def ElemTy.lanes (t : ElemTy) : Nat := 512 / t.width

/-- Whether a specifier names a queue port. -/
def Reg.isPort : Reg → Bool
  | .q _ => true
  | _ => false

/-- Whether a specifier names an x register. -/
def Reg.isX : Reg → Bool
  | .x _ => true
  | _ => false

/-- x0, which reads zero (R23). -/
abbrev Reg.zero : Reg := .x 0

/-- An arithmetic instruction's rounding code: any for a floating type, rne for an integer one (R116). -/
def rmFits (t : ElemTy) (rm : Rnd) : Bool := t.isF || (t.isInt && rm == .rne)

/-- Every value of st is a value of t, infinities and NaNs included (R125). -/
def exactPair (st t : ElemTy) : Bool :=
  match st, t with
  | .s8, .s8 | .s8, .s16 | .s8, .s32 | .s8, .s64 | .s8, .f16 | .s8, .bf16 | .s8, .f32 | .s8, .f64 => true
  | .s16, .s16 | .s16, .s32 | .s16, .s64 | .s16, .f32 | .s16, .f64 => true
  | .s32, .s32 | .s32, .s64 | .s32, .f64 => true
  | .s64, .s64 => true
  | .w8, .w8 | .w8, .w16 | .w8, .w32 | .w8, .w64 | .w8, .s16 | .w8, .s32 | .w8, .s64 => true
  | .w8, .f16 | .w8, .bf16 | .w8, .f32 | .w8, .f64 => true
  | .w16, .w16 | .w16, .w32 | .w16, .w64 | .w16, .s32 | .w16, .s64 | .w16, .f32 | .w16, .f64 => true
  | .w32, .w32 | .w32, .w64 | .w32, .s64 | .w32, .f64 => true
  | .w64, .w64 => true
  | .f16, .f16 | .f16, .f32 | .f16, .f64 => true
  | .bf16, .bf16 | .bf16, .f32 | .bf16, .f64 => true
  | .f32, .f32 | .f32, .f64 => true
  | .f64, .f64 => true
  | .e4m3, .e4m3 | .e4m3, .f16 | .e4m3, .bf16 | .e4m3, .f32 | .e4m3, .f64 => true
  | .e5m2, .e5m2 | .e5m2, .f16 | .e5m2, .bf16 | .e5m2, .f32 | .e5m2, .f64 => true
  | .e2m1, .e4m3 | .e2m1, .e5m2 | .e2m1, .f16 | .e2m1, .bf16 | .e2m1, .f32 | .e2m1, .f64 => true
  | .e8m0, .bf16 | .e8m0, .f32 | .e8m0, .f64 | .e8m0, .e8m0 => true
  | _, _ => false

/-- Parts of a conversion (R125): max(ns, nd) / min(ns, nd). -/
def cvtParts (st t : ElemTy) : Nat := max st.lanes t.lanes / min st.lanes t.lanes

/-- VCVT's field rules (R125). -/
def cvtFits (t : ElemTy) (rm : Rnd) (st : ElemTy) (part : BitVec 4) (sat : Bool) : Bool :=
  (part.toNat < cvtParts st t) && !(st == .e2m1 && t == .e2m1)
    && (!exactPair st t || rm == .rne)
    && (if st.isInt && t.isInt then rm == .rne
        else if st.isInt && t != .e8m0 then !sat
        else if t.isInt then !sat
        else true)

/-- An atomic's mod field (R227, R51): placement 3 is illegal; a plain atomic has scope core. -/
def AmoMod.fits (m : AmoMod) : Bool := m.place != 3 && (m.ord != .plain || m.scope == .core)

/-- A RAMO's mod field (R235): placement far or ship. -/
def AmoMod.fitsRemote (m : AmoMod) : Bool := m.place == 1 || m.place == 2

/-- A package operand other than x0 needs scope sys (R231). -/
def pkgFits (pkg : Reg) (scope : Scope) : Bool := pkg == .zero || scope == .sys

/-- A load's ordering kind (R51). -/
def Ord.isLoad : Ord → Bool
  | .plain | .acq => true
  | _ => false

/-- A store's ordering kind (R51). -/
def Ord.isStore : Ord → Bool
  | .plain | .rel => true
  | _ => false

/-- A drain's or ROWOUT's type, rounding, kind and saturation (R143, R148). -/
def drainFits (t : ElemTy) (rm : Rnd) (kind : BitVec 2) (sat : Bool) : Bool :=
  t.isDrain && kind != 3 && (t != .f32 || (rm == .rne && !sat))

/-- The field checks of one instruction. The steps of the hardware and the host have no fields that an encoding
could get wrong. -/
def wellFormed : Instr → Bool
  | .slli _ _ k | .srli _ _ k | .srai _ _ k | .roli _ _ k => k.toNat < 64
  | .vadd _ _ _ _ t rm | .vsub _ _ _ _ t rm | .vmul _ _ _ _ t rm => rmFits t rm
  | .vmin _ _ _ _ t | .vmax _ _ _ _ t | .vabs _ _ _ t | .vneg _ _ _ t => t.isInt || t.isF
  | .vadds _ _ _ _ t | .vsubs _ _ _ _ t => t.isInt
  | .vfma _ _ _ _ _ t _ | .vfms _ _ _ _ _ t _ => t.isF
  | .vand _ _ _ _ t | .vor _ _ _ _ t | .vxor _ _ _ _ t | .vandn _ _ _ _ t | .vsll _ _ _ _ t | .vsrl _ _ _ _ t
  | .vsra _ _ _ _ t => t.isInt
  | .vcmpeq _ _ _ _ t | .vcmpne _ _ _ _ t | .vcmplt _ _ _ _ t | .vcmple _ _ _ _ t | .vcmpgt _ _ _ _ t
  | .vcmpge _ _ _ _ t => t.isInt || t.isF
  | .vcmpun _ _ _ _ t => t.isF
  | .vsel _ _ _ _ t | .vmov _ _ _ t | .vbcast _ _ _ t | .vextr _ _ _ t | .vins _ _ _ t | .vperm _ _ _ _ t
  | .vcompress _ _ _ t | .vexpand _ _ _ t => t.isM
  | .vredsum _ _ _ t rm => rmFits t rm
  | .vredmax _ _ _ t | .vredmin _ _ _ t | .vamax _ _ _ t => t.isInt || t.isF
  | .vscan _ _ _ t rm op => op != 3 && (t.isInt || t.isF) && (rm == .rne || (t.isF && op == 0))
  | .vdiv _ _ _ _ t _ | .vsqrt _ _ _ t _ => t.isF
  | .vrsq _ _ _ t _ | .vrcp _ _ _ t _ | .vexp2 _ _ _ t _ | .vlog2 _ _ _ t _ => t.isF32
  | .vcvt _ _ _ t rm st part sat => cvtFits t rm st part sat
  | .vpackmx _ _ _ _ t _ st part _ => t.isMx && st.isF32 && part.toNat < cvtParts st t
  | .vunpackmx _ _ _ _ t _ st part => t.isF32 && st.isMx && part.toNat < cvtParts st t
  | .vnzx qi _ qv _ _ t => t.isM && qi.isPort && (qv == .zero || (qv.isPort && qv != qi))
  | .loadSigned _ _ sz => sz != 3
  | .ldvs _ _ _ _ t | .stvs _ _ _ _ t | .ldvx _ _ _ _ t _ | .stvx _ _ _ _ t _ => t.isM
  | .sld _ s _ _ sz => !s || sz != 3
  | .sldRec _ s _ sz => !s || sz != 3
  | .amoadd _ _ _ m | .amoand _ _ _ m | .amoor _ _ _ m | .amoxor _ _ _ m | .amomin _ _ _ m | .amomax _ _ _ m
  | .amominw _ _ _ m | .amomaxw _ _ _ m | .amoswap _ _ _ m | .amofadd _ _ _ m => m.fits
  | .amocas d _ _ m => m.fits && d.isX
  | .fence _ ord => ord != .plain
  | .get _ _ pkg ord scope _ => ord.isLoad && pkgFits pkg scope
  | .put _ _ pkg ord scope _ => ord.isStore && pkgFits pkg scope
  | .puts _ _ pkg ord scope _ => ord.isStore && pkgFits pkg scope
  | .ramo d op _ _ pkg m => m.fitsRemote && pkgFits pkg m.scope && (op != .cas || d.isX)
  | .copy st _ _ _ pkg scope _ _ => st.isX && pkgFits pkg scope
  | .send st _ _ _ _ _ _ _ _ _ => st.isX
  | .refs st _ qin qout ring row par _ =>
      st.isX && qin.isPort && qout.isPort
        && (if row then par.toNat < 512 else par.toNat < 8 && ring == .zero)
  | .sread st _ _ _ _ _ | .swrite st _ _ _ _ _ => st.isX
  | .fship st _ _ _ res _ _ _ _ => st.isX && res.isX
  | .tcfg _ k | .tamax _ k | .trowh _ k => k.toNat < 4
  | .tmmas _ _ _ _ _ sel _ => sel != 0
  | .tdrain _ dest stride _ t rm kind sat _ =>
      drainFits t rm kind sat && (kind != 2 || (dest.isPort && stride == .zero))
  | .rowout dest _ swz t rm kind sat =>
      drainFits t rm kind sat && (if kind == 1 then swz.toNat < 4 else swz == 0) && (kind != 2 || dest.isPort)
  | .mrun out port tag _ => tag.toNat ≤ 4 && (!port || out.isPort)
  | .qtok tag _ _ => 1 ≤ tag.toNat && tag.toNat ≤ 4
  | .qtry d xf q | .qpeek d xf q => d.isX && xf.isX && q.isPort && (d != xf || d == .zero)
  | .qlen _ q | .qtvec q _ => q.isPort
  | .cpost _ k | .waitc _ k => k.toNat ≤ 4095
  | .sprio n => n.toNat < 4
  | .slice _ _ k what _ => k.toNat < 8 && what != 3
  | .warm _ base size => base != .zero || size == .zero
  | .loop s _ _ => s.isX
  | .clbi a b => a != .zero || b == .zero
  | _ => true

end Sys2Proof
end

