-- ==== Sys2Proof/Decode.lean ====
section
/-! DEFINITION. Decoding a head and its tail (R39 to R45, R58, R59), total and rejecting by name; and the encoder. -/

namespace Sys2Proof

/-- The 6-bit specifier of a register (R25). -/
def Reg.bits : Reg → BitVec 6
  | .x n => BitVec.ofNat 6 n.val
  | .q n => BitVec.ofNat 6 (48 + n.val)
  | .e n => BitVec.ofNat 6 (56 + n.val)

/-- The register a specifier names (R25). -/
def Reg.ofBits (b : BitVec 6) : Reg :=
  if h : b.toNat < 48 then .x ⟨b.toNat, h⟩
  else if h2 : b.toNat < 56 then .q ⟨b.toNat - 48, by omega⟩
  else .e ⟨b.toNat - 56, by have := b.isLt; omega⟩

/-- The field of a vector register: bits [4:0], bit [5] zero (R25). -/
def vbits (v : VReg) : BitVec 6 := BitVec.ofNat 6 v.val

/-- The vector register in bits [4:0] of a field. -/
def vreg (b : BitVec 6) : VReg := ⟨b.toNat % 32, by omega⟩

/-- Type code (R48). -/
def ElemTy.code : ElemTy → BitVec 4
  | .s8 => 0 | .s16 => 1 | .s32 => 2 | .s64 => 3 | .w8 => 4 | .w16 => 5 | .w32 => 6 | .w64 => 7
  | .f16 => 8 | .bf16 => 9 | .f32 => 10 | .f64 => 11 | .e4m3 => 12 | .e5m2 => 13 | .e2m1 => 14 | .e8m0 => 15

/-- The type of a code (R48). -/
def ElemTy.ofCode (b : BitVec 4) : ElemTy :=
  match b.toNat with
  | 0 => .s8 | 1 => .s16 | 2 => .s32 | 3 => .s64 | 4 => .w8 | 5 => .w16 | 6 => .w32 | 7 => .w64
  | 8 => .f16 | 9 => .bf16 | 10 => .f32 | 11 => .f64 | 12 => .e4m3 | 13 => .e5m2 | 14 => .e2m1 | _ => .e8m0

/-- Rounding code (R49). -/
def Rnd.code : Rnd → BitVec 3
  | .rne => 0 | .rtz => 1 | .rdn => 2 | .rup => 3 | .rna => 4 | .sto => 5 | .odd => 6 | .dyn => 7

/-- The rounding mode of a code (R49). -/
def Rnd.ofCode (b : BitVec 3) : Rnd :=
  match b.toNat with
  | 0 => .rne | 1 => .rtz | 2 => .rdn | 3 => .rup | 4 => .rna | 5 => .sto | 6 => .odd | _ => .dyn

/-- Scope code (R50). -/
def Scope.code : Scope → BitVec 2
  | .core => 0 | .die => 1 | .pkg => 2 | .sys => 3

/-- The scope of a code (R50). -/
def Scope.ofCode (b : BitVec 2) : Scope :=
  match b.toNat with
  | 0 => .core | 1 => .die | 2 => .pkg | _ => .sys

/-- Ordering code (R51). -/
def Ord.code : Ord → BitVec 2
  | .plain => 0 | .acq => 1 | .rel => 2 | .acqrel => 3

/-- The ordering kind of a code (R51). -/
def Ord.ofCode (b : BitVec 2) : Ord :=
  match b.toNat with
  | 0 => .plain | 1 => .acq | 2 => .rel | _ => .acqrel

/-- Minor of an atomic operation (R227). -/
def AmoOp.code : AmoOp → BitVec 4
  | .add => 0 | .and => 1 | .or => 2 | .xor => 3 | .min => 4 | .max => 5 | .minw => 6 | .maxw => 7
  | .swap => 8 | .cas => 9 | .fadd => 10

/-- The atomic operation of a minor (R227); minors 11 to 15 are unassigned. -/
def AmoOp.ofCode (b : BitVec 4) : Option AmoOp :=
  match b.toNat with
  | 0 => some .add | 1 => some .and | 2 => some .or | 3 => some .xor | 4 => some .min | 5 => some .max
  | 6 => some .minw | 7 => some .maxw | 8 => some .swap | 9 => some .cas | 10 => some .fadd
  | _ => none

/-- The mod field of an atomic (R227). -/
def AmoMod.bits (m : AmoMod) : BitVec 10 :=
  m.place ++ m.ord.code ++ m.scope.code ++ BitVec.ofBool m.wide ++ 0#3

/-- The parts of an atomic's mod field (R227). -/
def AmoMod.ofBits (b : BitVec 10) : AmoMod :=
  ⟨b.extractLsb' 8 2, .ofCode (b.extractLsb' 6 2), .ofCode (b.extractLsb' 4 2), b.getLsbD 3⟩

/-- A field shape d or s (R44): specifier in A[6:1], the operation bit in A[0]. -/
def aReg (r : Reg) (bit : Bool) : BitVec 7 := r.bits ++ BitVec.ofBool bit

/-- A field shape v or a (R44): register in A[5:1], A[6] zero. -/
def aVec (v : VReg) (bit : Bool) : BitVec 7 := vbits v ++ BitVec.ofBool bit

/-- A[6:1]. -/
def aSpec (a : BitVec 7) : BitVec 6 := a.extractLsb' 1 6

/-- A[0]. -/
def aBit (a : BitVec 7) : Bool := a.getLsbD 0

/-- The cnt field (R43): zero when no counter is named. -/
def cntBits (c : Option (BitVec 4)) : BitVec 4 := c.getD 0

/-- The cv bit (R43). -/
def cntFlag (c : Option (BitVec 4)) : Bool := c.isSome

/-- The counter an F3e tail names (R43). -/
def cntOf (cv : Bool) (c : BitVec 4) : Option (BitVec 4) := if cv then some c else none

/-- The mod field of the conversions (R117): source type, part, sat. -/
def cvtMod (st : ElemTy) (part : BitVec 4) (sat : Bool) : BitVec 13 := st.code ++ 0#4 ++ part ++ BitVec.ofBool sat

/-- Tail layout F0: the A field alone (R41). -/
structure F0 where
  a : BitVec 7 := 0#7
deriving DecidableEq, Repr

/-- Tail layout F1 (R41). -/
structure F1 where
  a : BitVec 7 := 0#7
  rs1 : BitVec 6 := 0#6
  rs2 : BitVec 6 := 0#6
  minor : BitVec 4 := 0#4
deriving DecidableEq, Repr

/-- The tail bits of an F1 layout. -/
def F1.tail (f : F1) : BitVec 16 :=
  f.rs1 ++ f.rs2 ++ f.minor

/-- The fields of an F1 tail. -/
def F1.ofTail (a : BitVec 7) (t : BitVec 16) : F1 :=
  ⟨a, t.extractLsb' 10 6, t.extractLsb' 4 6, t.extractLsb' 0 4⟩

/-- Tail layout F2r (R42). -/
structure F2r where
  a : BitVec 7 := 0#7
  rs1 : BitVec 6 := 0#6
  rs2 : BitVec 6 := 0#6
  rs3 : BitVec 6 := 0#6
  minor : BitVec 4 := 0#4
  mod : BitVec 10 := 0#10
deriving DecidableEq, Repr

/-- The tail bits of an F2r layout. -/
def F2r.tail (f : F2r) : BitVec 32 :=
  f.rs1 ++ f.rs2 ++ f.rs3 ++ f.minor ++ f.mod

/-- The fields of an F2r tail. -/
def F2r.ofTail (a : BitVec 7) (t : BitVec 32) : F2r :=
  ⟨a, t.extractLsb' 26 6, t.extractLsb' 20 6, t.extractLsb' 14 6, t.extractLsb' 10 4, t.extractLsb' 0 10⟩

/-- Tail layout F2i (R42). -/
structure F2i where
  a : BitVec 7 := 0#7
  rs1 : BitVec 6 := 0#6
  minor : BitVec 4 := 0#4
  imm : BitVec 22 := 0#22
deriving DecidableEq, Repr

/-- The tail bits of an F2i layout. -/
def F2i.tail (f : F2i) : BitVec 32 :=
  f.rs1 ++ f.minor ++ f.imm

/-- The fields of an F2i tail. -/
def F2i.ofTail (a : BitVec 7) (t : BitVec 32) : F2i :=
  ⟨a, t.extractLsb' 26 6, t.extractLsb' 22 4, t.extractLsb' 0 22⟩

/-- Tail layout F2m (R42). -/
structure F2m where
  a : BitVec 7 := 0#7
  base : BitVec 6 := 0#6
  idx : BitVec 6 := 0#6
  sc : BitVec 2 := 0#2
  ord : BitVec 2 := 0#2
  scope : BitVec 2 := 0#2
  sz : BitVec 2 := 0#2
  off : BitVec 12 := 0#12
deriving DecidableEq, Repr

/-- The tail bits of an F2m layout. -/
def F2m.tail (f : F2m) : BitVec 32 :=
  f.base ++ f.idx ++ f.sc ++ f.ord ++ f.scope ++ f.sz ++ f.off

/-- The fields of an F2m tail. -/
def F2m.ofTail (a : BitVec 7) (t : BitVec 32) : F2m :=
  ⟨a, t.extractLsb' 26 6, t.extractLsb' 20 6, t.extractLsb' 18 2, t.extractLsb' 16 2, t.extractLsb' 14 2, t.extractLsb' 12 2, t.extractLsb' 0 12⟩

/-- Tail layout F2m* of the scratchpad majors (R42); res is the reserved bit [14]. -/
structure F2s where
  a : BitVec 7 := 0#7
  base : BitVec 6 := 0#6
  idx : BitVec 6 := 0#6
  sc : BitVec 2 := 0#2
  swz : BitVec 2 := 0#2
  rcd : Bool := false
  res : Bool := false
  sz : BitVec 2 := 0#2
  off : BitVec 12 := 0#12
deriving DecidableEq, Repr

/-- The tail bits of an F2s layout. -/
def F2s.tail (f : F2s) : BitVec 32 :=
  f.base ++ f.idx ++ f.sc ++ f.swz ++ BitVec.ofBool f.rcd ++ BitVec.ofBool f.res ++ f.sz ++ f.off

/-- The fields of an F2s tail. -/
def F2s.ofTail (a : BitVec 7) (t : BitVec 32) : F2s :=
  ⟨a, t.extractLsb' 26 6, t.extractLsb' 20 6, t.extractLsb' 18 2, t.extractLsb' 16 2, t.getLsbD 15, t.getLsbD 14, t.extractLsb' 12 2, t.extractLsb' 0 12⟩

/-- Tail layout F2b (R42). -/
structure F2b where
  a : BitVec 7 := 0#7
  rs2 : BitVec 6 := 0#6
  off : BitVec 21 := 0#21
  head : BitVec 5 := 0#5
deriving DecidableEq, Repr

/-- The tail bits of an F2b layout. -/
def F2b.tail (f : F2b) : BitVec 32 :=
  f.rs2 ++ f.off ++ f.head

/-- The fields of an F2b tail. -/
def F2b.ofTail (a : BitVec 7) (t : BitVec 32) : F2b :=
  ⟨a, t.extractLsb' 26 6, t.extractLsb' 5 21, t.extractLsb' 0 5⟩

/-- Tail layout F2j (R42). -/
structure F2j where
  a : BitVec 7 := 0#7
  off : BitVec 27 := 0#27
  head : BitVec 5 := 0#5
deriving DecidableEq, Repr

/-- The tail bits of an F2j layout. -/
def F2j.tail (f : F2j) : BitVec 32 :=
  f.off ++ f.head

/-- The fields of an F2j tail. -/
def F2j.ofTail (a : BitVec 7) (t : BitVec 32) : F2j :=
  ⟨a, t.extractLsb' 5 27, t.extractLsb' 0 5⟩

/-- Tail layout F3v (R43). -/
structure F3v where
  a : BitVec 7 := 0#7
  vs1 : BitVec 6 := 0#6
  vs2 : BitVec 6 := 0#6
  vs3 : BitVec 6 := 0#6
  mask : BitVec 6 := 0#6
  ty : BitVec 4 := 0#4
  rm : BitVec 3 := 0#3
  minor : BitVec 4 := 0#4
  mod : BitVec 13 := 0#13
deriving DecidableEq, Repr

/-- The tail bits of an F3v layout. -/
def F3v.tail (f : F3v) : BitVec 48 :=
  f.vs1 ++ f.vs2 ++ f.vs3 ++ f.mask ++ f.ty ++ f.rm ++ f.minor ++ f.mod

/-- The fields of an F3v tail. -/
def F3v.ofTail (a : BitVec 7) (t : BitVec 48) : F3v :=
  ⟨a, t.extractLsb' 42 6, t.extractLsb' 36 6, t.extractLsb' 30 6, t.extractLsb' 24 6, t.extractLsb' 20 4, t.extractLsb' 17 3, t.extractLsb' 13 4, t.extractLsb' 0 13⟩

/-- Tail layout F3e (R43). -/
structure F3e where
  a : BitVec 7 := 0#7
  a1 : BitVec 6 := 0#6
  a2 : BitVec 6 := 0#6
  a3 : BitVec 6 := 0#6
  a4 : BitVec 6 := 0#6
  cnt : BitVec 4 := 0#4
  cv : Bool := false
  minor : BitVec 4 := 0#4
  scope : BitVec 2 := 0#2
  flags : BitVec 13 := 0#13
deriving DecidableEq, Repr

/-- The tail bits of an F3e layout. -/
def F3e.tail (f : F3e) : BitVec 48 :=
  f.a1 ++ f.a2 ++ f.a3 ++ f.a4 ++ f.cnt ++ BitVec.ofBool f.cv ++ f.minor ++ f.scope ++ f.flags

/-- The fields of an F3e tail. -/
def F3e.ofTail (a : BitVec 7) (t : BitVec 48) : F3e :=
  ⟨a, t.extractLsb' 42 6, t.extractLsb' 36 6, t.extractLsb' 30 6, t.extractLsb' 24 6, t.extractLsb' 20 4, t.getLsbD 19, t.extractLsb' 15 4, t.extractLsb' 13 2, t.extractLsb' 0 13⟩

/-- Tail layout F3k (R43). -/
structure F3k where
  a : BitVec 7 := 0#7
  rs1 : BitVec 6 := 0#6
  minor : BitVec 4 := 0#4
  mod : BitVec 6 := 0#6
  imm : BitVec 32 := 0#32
deriving DecidableEq, Repr

/-- The tail bits of an F3k layout. -/
def F3k.tail (f : F3k) : BitVec 48 :=
  f.rs1 ++ f.minor ++ f.mod ++ f.imm

/-- The fields of an F3k tail. -/
def F3k.ofTail (a : BitVec 7) (t : BitVec 48) : F3k :=
  ⟨a, t.extractLsb' 42 6, t.extractLsb' 38 4, t.extractLsb' 32 6, t.extractLsb' 0 32⟩

/-- A head and its tail, cut into the fields of the major's layout; the first argument is the major. -/
inductive Raw where
  | f0 (major : BitVec 7) (f : F0)
  | f1 (major : BitVec 7) (f : F1)
  | f2r (major : BitVec 7) (f : F2r)
  | f2i (major : BitVec 7) (f : F2i)
  | f2m (major : BitVec 7) (f : F2m)
  | f2s (major : BitVec 7) (f : F2s)
  | f2b (major : BitVec 7) (f : F2b)
  | f2j (major : BitVec 7) (f : F2j)
  | f3v (major : BitVec 7) (f : F3v)
  | f3e (major : BitVec 7) (f : F3e)
  | f3k (major : BitVec 7) (f : F3k)
deriving DecidableEq, Repr

/-- The eleven layouts of R41 to R43. -/
inductive Layout where
  | f0 | f1 | f2r | f2i | f2m | f2s | f2b | f2j | f3v | f3e | f3k
deriving DecidableEq, Repr

/-- The layout of a major by the opcode map (R58); none for the majors R59 leaves unassigned. -/
def layoutOf (major : BitVec 7) : Option Layout :=
  match major.toNat with
  | 0x48 | 0x6b | 0x7a | 0x7b | 0x7c => some .f0
  | 0x0 | 0x1 | 0x2 | 0x3 | 0x1c | 0x60 | 0x68 | 0x6a | 0x6d | 0x74 | 0x79 | 0x7d => some .f1
  | 0x8 | 0x47 | 0x50 | 0x51 | 0x52 | 0x53 | 0x66 | 0x6c | 0x70 | 0x75 | 0x76 => some .f2r
  | 0x4 | 0x5 | 0x6e | 0x78 => some .f2i
  | 0x7 | 0x40 | 0x41 | 0x42 | 0x49 => some .f2m
  | 0x44 | 0x45 | 0x46 => some .f2s
  | 0x10 | 0x11 | 0x12 | 0x13 | 0x14 | 0x15 | 0x16 | 0x17 | 0x18 | 0x19 | 0x1d => some .f2b
  | 0x1a | 0x1b => some .f2j
  | 0x20 | 0x21 | 0x22 | 0x23 | 0x24 | 0x25 | 0x26 | 0x27 | 0x28 | 0x43 => some .f3v
  | 0x54 | 0x58 | 0x59 | 0x5a | 0x5b | 0x5c | 0x5d | 0x61 | 0x62 | 0x63 | 0x64 | 0x65 | 0x69 => some .f3e
  | 0x6 | 0x6f => some .f3k
  | _ => none

/-- Tail length in halfwords of a layout (R40). -/
def Layout.tailLen : Layout → Nat
  | .f0 => 0
  | .f1 => 1
  | .f2r => 2
  | .f2i => 2
  | .f2m => 2
  | .f2s => 2
  | .f2b => 2
  | .f2j => 2
  | .f3v => 3
  | .f3e => 3
  | .f3k => 3

/-- Why a head is rejected; every case traps ILLEGAL (R59). -/
inductive DecodeError where
  /-- a major or minor that R58 does not list -/
  | unassigned
  /-- the tail field differs from the major's format (R40) -/
  | tailLength
  /-- a reserved field or bit is not zero (R45) -/
  | reserved
  /-- a field holds a value that the instruction does not accept (R45, R51, R58) -/
  | illFormed
deriving DecidableEq, Repr

/-- The fields of a head (major, A) and a tail of 48 bits under a layout. -/
def parse (l : Layout) (major : BitVec 7) (a : BitVec 7) (tail : BitVec 48) : Raw :=
  match l with
  | .f0 => .f0 major ⟨a⟩
  | .f1 => .f1 major (.ofTail a (tail.extractLsb' 0 16))
  | .f2r => .f2r major (.ofTail a (tail.extractLsb' 0 32))
  | .f2i => .f2i major (.ofTail a (tail.extractLsb' 0 32))
  | .f2m => .f2m major (.ofTail a (tail.extractLsb' 0 32))
  | .f2s => .f2s major (.ofTail a (tail.extractLsb' 0 32))
  | .f2b => .f2b major (.ofTail a (tail.extractLsb' 0 32))
  | .f2j => .f2j major (.ofTail a (tail.extractLsb' 0 32))
  | .f3v => .f3v major (.ofTail a (tail.extractLsb' 0 48))
  | .f3e => .f3e major (.ofTail a (tail.extractLsb' 0 48))
  | .f3k => .f3k major (.ofTail a (tail.extractLsb' 0 48))

/-- The head halfword of a major, a tail length and an A field (R39). -/
def headBits (major : BitVec 7) (len : BitVec 2) (a : BitVec 7) : Half := major ++ len ++ a

/-- Head and tail of the fields (R39 to R43), the tail zero-extended to 48 bits. -/
def Raw.words : Raw → Half × BitVec 48
  | .f0 mj f => (headBits mj 0 f.a, 0)
  | .f1 mj f => (headBits mj 1 f.a, f.tail.setWidth 48)
  | .f2r mj f => (headBits mj 2 f.a, f.tail.setWidth 48)
  | .f2i mj f => (headBits mj 2 f.a, f.tail.setWidth 48)
  | .f2m mj f => (headBits mj 2 f.a, f.tail.setWidth 48)
  | .f2s mj f => (headBits mj 2 f.a, f.tail.setWidth 48)
  | .f2b mj f => (headBits mj 2 f.a, f.tail.setWidth 48)
  | .f2j mj f => (headBits mj 2 f.a, f.tail.setWidth 48)
  | .f3v mj f => (headBits mj 3 f.a, f.tail)
  | .f3e mj f => (headBits mj 3 f.a, f.tail)
  | .f3k mj f => (headBits mj 3 f.a, f.tail)

/-- The fields of an instruction, by the encoding tables of its chapter; none for a step of the hardware or the host. -/
def toRaw : Instr → Option Raw
  | .add d a b => some (.f1 0x0#7 { a := aReg d false, rs1 := a.bits, rs2 := b.bits, minor := 0#4 })
  | .sub d a b => some (.f1 0x0#7 { a := aReg d false, rs1 := a.bits, rs2 := b.bits, minor := 1#4 })
  | .and d a b => some (.f1 0x0#7 { a := aReg d false, rs1 := a.bits, rs2 := b.bits, minor := 2#4 })
  | .or d a b => some (.f1 0x0#7 { a := aReg d false, rs1 := a.bits, rs2 := b.bits, minor := 3#4 })
  | .xor d a b => some (.f1 0x0#7 { a := aReg d false, rs1 := a.bits, rs2 := b.bits, minor := 4#4 })
  | .andn d a b => some (.f1 0x0#7 { a := aReg d false, rs1 := a.bits, rs2 := b.bits, minor := 5#4 })
  | .sll d a b => some (.f1 0x0#7 { a := aReg d false, rs1 := a.bits, rs2 := b.bits, minor := 6#4 })
  | .srl d a b => some (.f1 0x0#7 { a := aReg d false, rs1 := a.bits, rs2 := b.bits, minor := 7#4 })
  | .sra d a b => some (.f1 0x0#7 { a := aReg d false, rs1 := a.bits, rs2 := b.bits, minor := 8#4 })
  | .rol d a b => some (.f1 0x0#7 { a := aReg d false, rs1 := a.bits, rs2 := b.bits, minor := 9#4 })
  | .min d a b => some (.f1 0x0#7 { a := aReg d false, rs1 := a.bits, rs2 := b.bits, minor := 10#4 })
  | .max d a b => some (.f1 0x0#7 { a := aReg d false, rs1 := a.bits, rs2 := b.bits, minor := 11#4 })
  | .minw d a b => some (.f1 0x0#7 { a := aReg d false, rs1 := a.bits, rs2 := b.bits, minor := 12#4 })
  | .maxw d a b => some (.f1 0x0#7 { a := aReg d false, rs1 := a.bits, rs2 := b.bits, minor := 13#4 })
  | .mul d a b => some (.f1 0x1#7 { a := aReg d false, rs1 := a.bits, rs2 := b.bits, minor := 0#4 })
  | .mulhs d a b => some (.f1 0x1#7 { a := aReg d false, rs1 := a.bits, rs2 := b.bits, minor := 1#4 })
  | .mulhw d a b => some (.f1 0x1#7 { a := aReg d false, rs1 := a.bits, rs2 := b.bits, minor := 2#4 })
  | .div d a b => some (.f1 0x1#7 { a := aReg d false, rs1 := a.bits, rs2 := b.bits, minor := 3#4 })
  | .divw d a b => some (.f1 0x1#7 { a := aReg d false, rs1 := a.bits, rs2 := b.bits, minor := 4#4 })
  | .rem d a b => some (.f1 0x1#7 { a := aReg d false, rs1 := a.bits, rs2 := b.bits, minor := 5#4 })
  | .remw d a b => some (.f1 0x1#7 { a := aReg d false, rs1 := a.bits, rs2 := b.bits, minor := 6#4 })
  | .clz d a => some (.f1 0x2#7 { a := aReg d false, rs1 := a.bits, minor := 0#4 })
  | .ctz d a => some (.f1 0x2#7 { a := aReg d false, rs1 := a.bits, minor := 1#4 })
  | .popc d a => some (.f1 0x2#7 { a := aReg d false, rs1 := a.bits, minor := 2#4 })
  | .bext d a b => some (.f1 0x2#7 { a := aReg d false, rs1 := a.bits, rs2 := b.bits, minor := 3#4 })
  | .bdep d a b => some (.f1 0x2#7 { a := aReg d false, rs1 := a.bits, rs2 := b.bits, minor := 4#4 })
  | .mov d a => some (.f1 0x2#7 { a := aReg d false, rs1 := a.bits, minor := 5#4 })
  | .sext d a n => some (.f1 0x2#7 { a := aReg d false, rs1 := a.bits, rs2 := n, minor := 6#4 })
  | .zext d a n => some (.f1 0x2#7 { a := aReg d false, rs1 := a.bits, rs2 := n, minor := 7#4 })
  | .seq d a b => some (.f1 0x3#7 { a := aReg d false, rs1 := a.bits, rs2 := b.bits, minor := 0#4 })
  | .sne d a b => some (.f1 0x3#7 { a := aReg d false, rs1 := a.bits, rs2 := b.bits, minor := 1#4 })
  | .slt d a b => some (.f1 0x3#7 { a := aReg d false, rs1 := a.bits, rs2 := b.bits, minor := 2#4 })
  | .sge d a b => some (.f1 0x3#7 { a := aReg d false, rs1 := a.bits, rs2 := b.bits, minor := 3#4 })
  | .sltw d a b => some (.f1 0x3#7 { a := aReg d false, rs1 := a.bits, rs2 := b.bits, minor := 4#4 })
  | .sgew d a b => some (.f1 0x3#7 { a := aReg d false, rs1 := a.bits, rs2 := b.bits, minor := 5#4 })
  | .addi d a k => some (.f2i 0x4#7 { a := aReg d false, rs1 := a.bits, imm := k, minor := 0#4 })
  | .andi d a k => some (.f2i 0x4#7 { a := aReg d false, rs1 := a.bits, imm := k, minor := 1#4 })
  | .ori d a k => some (.f2i 0x4#7 { a := aReg d false, rs1 := a.bits, imm := k, minor := 2#4 })
  | .xori d a k => some (.f2i 0x4#7 { a := aReg d false, rs1 := a.bits, imm := k, minor := 3#4 })
  | .slli d a k => some (.f2i 0x4#7 { a := aReg d false, rs1 := a.bits, imm := k, minor := 4#4 })
  | .srli d a k => some (.f2i 0x4#7 { a := aReg d false, rs1 := a.bits, imm := k, minor := 5#4 })
  | .srai d a k => some (.f2i 0x4#7 { a := aReg d false, rs1 := a.bits, imm := k, minor := 6#4 })
  | .roli d a k => some (.f2i 0x4#7 { a := aReg d false, rs1 := a.bits, imm := k, minor := 7#4 })
  | .mini d a k => some (.f2i 0x4#7 { a := aReg d false, rs1 := a.bits, imm := k, minor := 8#4 })
  | .maxi d a k => some (.f2i 0x4#7 { a := aReg d false, rs1 := a.bits, imm := k, minor := 9#4 })
  | .slti d a k => some (.f2i 0x4#7 { a := aReg d false, rs1 := a.bits, imm := k, minor := 10#4 })
  | .seqi d a k => some (.f2i 0x4#7 { a := aReg d false, rs1 := a.bits, imm := k, minor := 11#4 })
  | .li d k => some (.f2i 0x5#7 { a := aReg d false, imm := k, minor := 0#4 })
  | .li32 d k => some (.f3k 0x6#7 { a := aReg d false, imm := k, minor := 0#4 })
  | .lih d a k => some (.f3k 0x6#7 { a := aReg d false, rs1 := a.bits, imm := k, minor := 1#4 })
  | .lea d m => some (.f2m 0x7#7 { a := aReg d false, base := m.base.bits, idx := m.idx.bits, sc := m.sc, off := m.off })
  | .sel d c a b => some (.f2r 0x8#7 { a := aReg d false, rs1 := c.bits, rs2 := a.bits, rs3 := b.bits, minor := 0#4 })
  | .beq a hint b off head => some (.f2b 0x10#7 { a := aReg a hint, rs2 := b.bits, off := off, head := head })
  | .bne a hint b off head => some (.f2b 0x11#7 { a := aReg a hint, rs2 := b.bits, off := off, head := head })
  | .blt a hint b off head => some (.f2b 0x12#7 { a := aReg a hint, rs2 := b.bits, off := off, head := head })
  | .bge a hint b off head => some (.f2b 0x13#7 { a := aReg a hint, rs2 := b.bits, off := off, head := head })
  | .bltw a hint b off head => some (.f2b 0x14#7 { a := aReg a hint, rs2 := b.bits, off := off, head := head })
  | .bgew a hint b off head => some (.f2b 0x15#7 { a := aReg a hint, rs2 := b.bits, off := off, head := head })
  | .bbs a hint bit off head => some (.f2b 0x16#7 { a := aReg a hint, rs2 := bit, off := off, head := head })
  | .bbc a hint bit off head => some (.f2b 0x17#7 { a := aReg a hint, rs2 := bit, off := off, head := head })
  | .bz a hint off head => some (.f2b 0x18#7 { a := aReg a hint, off := off, head := head })
  | .bnz a hint off head => some (.f2b 0x19#7 { a := aReg a hint, off := off, head := head })
  | .jmp off head => some (.f2j 0x1a#7 { off := off, head := head })
  | .jal d off head => some (.f2j 0x1b#7 { a := aReg d false, off := off, head := head })
  | .jr a => some (.f1 0x1c#7 { rs1 := a.bits, minor := 0#4 })
  | .ret a => some (.f1 0x1c#7 { rs1 := a.bits, minor := 1#4 })
  | .loop s off head => some (.f2b 0x1d#7 { a := aReg s false, off := off, head := head })
  | .vadd vd va vb m t rm => some (.f3v 0x20#7 { a := aVec vd false, vs1 := vbits va, vs2 := vbits vb, mask := m.bits, ty := t.code, rm := rm.code, minor := 0#4 })
  | .vsub vd va vb m t rm => some (.f3v 0x20#7 { a := aVec vd false, vs1 := vbits va, vs2 := vbits vb, mask := m.bits, ty := t.code, rm := rm.code, minor := 1#4 })
  | .vmul vd va vb m t rm => some (.f3v 0x20#7 { a := aVec vd false, vs1 := vbits va, vs2 := vbits vb, mask := m.bits, ty := t.code, rm := rm.code, minor := 2#4 })
  | .vmin vd va vb m t => some (.f3v 0x20#7 { a := aVec vd false, vs1 := vbits va, vs2 := vbits vb, mask := m.bits, ty := t.code, minor := 3#4 })
  | .vmax vd va vb m t => some (.f3v 0x20#7 { a := aVec vd false, vs1 := vbits va, vs2 := vbits vb, mask := m.bits, ty := t.code, minor := 4#4 })
  | .vadds vd va vb m t => some (.f3v 0x20#7 { a := aVec vd false, vs1 := vbits va, vs2 := vbits vb, mask := m.bits, ty := t.code, minor := 5#4 })
  | .vsubs vd va vb m t => some (.f3v 0x20#7 { a := aVec vd false, vs1 := vbits va, vs2 := vbits vb, mask := m.bits, ty := t.code, minor := 6#4 })
  | .vabs vd va m t => some (.f3v 0x20#7 { a := aVec vd false, vs1 := vbits va, mask := m.bits, ty := t.code, minor := 7#4 })
  | .vneg vd va m t => some (.f3v 0x20#7 { a := aVec vd false, vs1 := vbits va, mask := m.bits, ty := t.code, minor := 8#4 })
  | .vfma vd va vb vc m t rm => some (.f3v 0x21#7 { a := aVec vd false, vs1 := vbits va, vs2 := vbits vb, vs3 := vbits vc, mask := m.bits, ty := t.code, rm := rm.code, minor := 0#4 })
  | .vfms vd va vb vc m t rm => some (.f3v 0x21#7 { a := aVec vd false, vs1 := vbits va, vs2 := vbits vb, vs3 := vbits vc, mask := m.bits, ty := t.code, rm := rm.code, minor := 1#4 })
  | .vand vd va vb m t => some (.f3v 0x22#7 { a := aVec vd false, vs1 := vbits va, vs2 := vbits vb, mask := m.bits, ty := t.code, minor := 0#4 })
  | .vor vd va vb m t => some (.f3v 0x22#7 { a := aVec vd false, vs1 := vbits va, vs2 := vbits vb, mask := m.bits, ty := t.code, minor := 1#4 })
  | .vxor vd va vb m t => some (.f3v 0x22#7 { a := aVec vd false, vs1 := vbits va, vs2 := vbits vb, mask := m.bits, ty := t.code, minor := 2#4 })
  | .vandn vd va vb m t => some (.f3v 0x22#7 { a := aVec vd false, vs1 := vbits va, vs2 := vbits vb, mask := m.bits, ty := t.code, minor := 3#4 })
  | .vsll vd va vb m t => some (.f3v 0x22#7 { a := aVec vd false, vs1 := vbits va, vs2 := vbits vb, mask := m.bits, ty := t.code, minor := 4#4 })
  | .vsrl vd va vb m t => some (.f3v 0x22#7 { a := aVec vd false, vs1 := vbits va, vs2 := vbits vb, mask := m.bits, ty := t.code, minor := 5#4 })
  | .vsra vd va vb m t => some (.f3v 0x22#7 { a := aVec vd false, vs1 := vbits va, vs2 := vbits vb, mask := m.bits, ty := t.code, minor := 6#4 })
  | .vcmpeq d va vb m t => some (.f3v 0x23#7 { a := aReg d false, vs1 := vbits va, vs2 := vbits vb, mask := m.bits, ty := t.code, minor := 0#4 })
  | .vcmpne d va vb m t => some (.f3v 0x23#7 { a := aReg d false, vs1 := vbits va, vs2 := vbits vb, mask := m.bits, ty := t.code, minor := 1#4 })
  | .vcmplt d va vb m t => some (.f3v 0x23#7 { a := aReg d false, vs1 := vbits va, vs2 := vbits vb, mask := m.bits, ty := t.code, minor := 2#4 })
  | .vcmple d va vb m t => some (.f3v 0x23#7 { a := aReg d false, vs1 := vbits va, vs2 := vbits vb, mask := m.bits, ty := t.code, minor := 3#4 })
  | .vcmpgt d va vb m t => some (.f3v 0x23#7 { a := aReg d false, vs1 := vbits va, vs2 := vbits vb, mask := m.bits, ty := t.code, minor := 4#4 })
  | .vcmpge d va vb m t => some (.f3v 0x23#7 { a := aReg d false, vs1 := vbits va, vs2 := vbits vb, mask := m.bits, ty := t.code, minor := 5#4 })
  | .vcmpun d va vb m t => some (.f3v 0x23#7 { a := aReg d false, vs1 := vbits va, vs2 := vbits vb, mask := m.bits, ty := t.code, minor := 6#4 })
  | .vsel vd va vb m t => some (.f3v 0x24#7 { a := aVec vd false, vs1 := vbits va, vs2 := vbits vb, mask := m.bits, ty := t.code, minor := 0#4 })
  | .vmov vd va m t => some (.f3v 0x24#7 { a := aVec vd false, vs1 := vbits va, mask := m.bits, ty := t.code, minor := 1#4 })
  | .vbcast vd xs m t => some (.f3v 0x24#7 { a := aVec vd false, vs1 := xs.bits, mask := m.bits, ty := t.code, minor := 2#4 })
  | .vextr d va xi t => some (.f3v 0x24#7 { a := aReg d false, vs1 := vbits va, vs2 := xi.bits, ty := t.code, minor := 3#4 })
  | .vins vd xs xi t => some (.f3v 0x24#7 { a := aVec vd false, vs1 := xs.bits, vs2 := xi.bits, ty := t.code, minor := 4#4 })
  | .vperm vd va vb m t => some (.f3v 0x24#7 { a := aVec vd false, vs1 := vbits va, vs2 := vbits vb, mask := m.bits, ty := t.code, minor := 5#4 })
  | .vcompress vd va m t => some (.f3v 0x24#7 { a := aVec vd false, vs1 := vbits va, mask := m.bits, ty := t.code, minor := 6#4 })
  | .vexpand vd va m t => some (.f3v 0x24#7 { a := aVec vd false, vs1 := vbits va, mask := m.bits, ty := t.code, minor := 7#4 })
  | .vredsum d va m t rm => some (.f3v 0x25#7 { a := aReg d false, vs1 := vbits va, mask := m.bits, ty := t.code, rm := rm.code, minor := 0#4 })
  | .vredmax d va m t => some (.f3v 0x25#7 { a := aReg d false, vs1 := vbits va, mask := m.bits, ty := t.code, minor := 1#4 })
  | .vredmin d va m t => some (.f3v 0x25#7 { a := aReg d false, vs1 := vbits va, mask := m.bits, ty := t.code, minor := 2#4 })
  | .vamax d va m t => some (.f3v 0x25#7 { a := aReg d false, vs1 := vbits va, mask := m.bits, ty := t.code, minor := 3#4 })
  | .vscan vd va m t rm op => some (.f3v 0x25#7 { a := aVec vd false, vs1 := vbits va, mask := m.bits, ty := t.code, rm := rm.code, mod := 0#11 ++ op, minor := 4#4 })
  | .vdiv vd va vb m t rm => some (.f3v 0x26#7 { a := aVec vd false, vs1 := vbits va, vs2 := vbits vb, mask := m.bits, ty := t.code, rm := rm.code, minor := 0#4 })
  | .vsqrt vd va m t rm => some (.f3v 0x26#7 { a := aVec vd false, vs1 := vbits va, mask := m.bits, ty := t.code, rm := rm.code, minor := 1#4 })
  | .vrsq vd va m t rm => some (.f3v 0x26#7 { a := aVec vd false, vs1 := vbits va, mask := m.bits, ty := t.code, rm := rm.code, minor := 2#4 })
  | .vrcp vd va m t rm => some (.f3v 0x26#7 { a := aVec vd false, vs1 := vbits va, mask := m.bits, ty := t.code, rm := rm.code, minor := 3#4 })
  | .vexp2 vd va m t rm => some (.f3v 0x26#7 { a := aVec vd false, vs1 := vbits va, mask := m.bits, ty := t.code, rm := rm.code, minor := 4#4 })
  | .vlog2 vd va m t rm => some (.f3v 0x26#7 { a := aVec vd false, vs1 := vbits va, mask := m.bits, ty := t.code, rm := rm.code, minor := 5#4 })
  | .vcvt vd va m t rm st part sat => some (.f3v 0x27#7 { a := aVec vd false, vs1 := vbits va, mask := m.bits, ty := t.code, rm := rm.code, mod := cvtMod st part sat, minor := 0#4 })
  | .vpackmx vd va xs m t rm st part sat => some (.f3v 0x27#7 { a := aVec vd false, vs1 := vbits va, vs2 := xs.bits, mask := m.bits, ty := t.code, rm := rm.code, mod := cvtMod st part sat, minor := 1#4 })
  | .vunpackmx vd va xs m t rm st part => some (.f3v 0x27#7 { a := aVec vd false, vs1 := vbits va, vs2 := xs.bits, mask := m.bits, ty := t.code, rm := rm.code, mod := cvtMod st part false, minor := 2#4 })
  | .vnzx qi va qv xb m t => some (.f3v 0x28#7 { a := aReg qi false, vs1 := vbits va, vs2 := qv.bits, vs3 := xb.bits, mask := m.bits, ty := t.code, minor := 0#4 })
  | .load d m sz => some (.f2m 0x40#7 { a := aReg d false, base := m.base.bits, idx := m.idx.bits, sc := m.sc, off := m.off, sz := sz })
  | .loadSigned d m sz => some (.f2m 0x40#7 { a := aReg d true, base := m.base.bits, idx := m.idx.bits, sc := m.sc, off := m.off, sz := sz })
  | .lda d m scope sz => some (.f2m 0x40#7 { a := aReg d false, base := m.base.bits, idx := m.idx.bits, sc := m.sc, off := m.off, scope := scope.code, sz := sz, ord := 1#2 })
  | .store s m sz => some (.f2m 0x41#7 { a := aReg s false, base := m.base.bits, idx := m.idx.bits, sc := m.sc, off := m.off, sz := sz })
  | .stl s m scope sz => some (.f2m 0x41#7 { a := aReg s false, base := m.base.bits, idx := m.idx.bits, sc := m.sc, off := m.off, scope := scope.code, sz := sz, ord := 2#2 })
  | .ldv v m => some (.f2m 0x42#7 { a := aVec v false, base := m.base.bits, idx := m.idx.bits, sc := m.sc, off := m.off })
  | .stv v m => some (.f2m 0x42#7 { a := aVec v true, base := m.base.bits, idx := m.idx.bits, sc := m.sc, off := m.off })
  | .ldvs v base stride m t => some (.f3v 0x43#7 { a := aVec v false, vs1 := base.bits, vs2 := stride.bits, mask := m.bits, ty := t.code, minor := 0#4 })
  | .stvs v base stride m t => some (.f3v 0x43#7 { a := aVec v false, vs1 := base.bits, vs2 := stride.bits, mask := m.bits, ty := t.code, minor := 1#4 })
  | .ldvx v base vi m t sc => some (.f3v 0x43#7 { a := aVec v false, vs1 := base.bits, vs2 := vbits vi, mask := m.bits, ty := t.code, mod := 0#11 ++ sc, minor := 2#4 })
  | .stvx v base vi m t sc => some (.f3v 0x43#7 { a := aVec v false, vs1 := base.bits, vs2 := vbits vi, mask := m.bits, ty := t.code, mod := 0#11 ++ sc, minor := 3#4 })
  | .sld d signed m swz sz => some (.f2s 0x44#7 { a := aReg d signed, base := m.base.bits, idx := m.idx.bits, sc := m.sc, off := m.off, swz := swz, sz := sz })
  | .sldRec d signed m sz => some (.f2s 0x44#7 { a := aReg d signed, base := m.base.bits, idx := m.idx.bits, sc := m.sc, off := m.off, sz := sz, rcd := true })
  | .sst s m swz sz => some (.f2s 0x45#7 { a := aReg s false, base := m.base.bits, idx := m.idx.bits, sc := m.sc, off := m.off, swz := swz, sz := sz })
  | .sldv v m swz => some (.f2s 0x46#7 { a := aVec v false, base := m.base.bits, idx := m.idx.bits, sc := m.sc, off := m.off, swz := swz })
  | .sstv v m swz => some (.f2s 0x46#7 { a := aVec v true, base := m.base.bits, idx := m.idx.bits, sc := m.sc, off := m.off, swz := swz })
  | .amoadd d a b md => some (.f2r 0x47#7 { a := aReg d false, rs1 := a.bits, rs2 := b.bits, mod := md.bits, minor := 0#4 })
  | .amoand d a b md => some (.f2r 0x47#7 { a := aReg d false, rs1 := a.bits, rs2 := b.bits, mod := md.bits, minor := 1#4 })
  | .amoor d a b md => some (.f2r 0x47#7 { a := aReg d false, rs1 := a.bits, rs2 := b.bits, mod := md.bits, minor := 2#4 })
  | .amoxor d a b md => some (.f2r 0x47#7 { a := aReg d false, rs1 := a.bits, rs2 := b.bits, mod := md.bits, minor := 3#4 })
  | .amomin d a b md => some (.f2r 0x47#7 { a := aReg d false, rs1 := a.bits, rs2 := b.bits, mod := md.bits, minor := 4#4 })
  | .amomax d a b md => some (.f2r 0x47#7 { a := aReg d false, rs1 := a.bits, rs2 := b.bits, mod := md.bits, minor := 5#4 })
  | .amominw d a b md => some (.f2r 0x47#7 { a := aReg d false, rs1 := a.bits, rs2 := b.bits, mod := md.bits, minor := 6#4 })
  | .amomaxw d a b md => some (.f2r 0x47#7 { a := aReg d false, rs1 := a.bits, rs2 := b.bits, mod := md.bits, minor := 7#4 })
  | .amoswap d a b md => some (.f2r 0x47#7 { a := aReg d false, rs1 := a.bits, rs2 := b.bits, mod := md.bits, minor := 8#4 })
  | .amocas d a b md => some (.f2r 0x47#7 { a := aReg d false, rs1 := a.bits, rs2 := b.bits, mod := md.bits, minor := 9#4 })
  | .amofadd d a b md => some (.f2r 0x47#7 { a := aReg d false, rs1 := a.bits, rs2 := b.bits, mod := md.bits, minor := 10#4 })
  | .fence scope ord => some (.f0 0x48#7 { a := scope.code ++ ord.code ++ 0#3 })
  | .pref level m => some (.f2m 0x49#7 { a := 0#6 ++ BitVec.ofBool level, base := m.base.bits, idx := m.idx.bits, sc := m.sc, off := m.off })
  | .get d a pkg ord scope sz => some (.f2r 0x50#7 { a := aReg d false, rs1 := a.bits, rs2 := pkg.bits, mod := 0#2 ++ ord.code ++ scope.code ++ sz ++ 0#2, minor := 0#4 })
  | .put a v pkg ord scope sz => some (.f2r 0x51#7 { rs1 := a.bits, rs2 := v.bits, rs3 := pkg.bits, mod := 0#2 ++ ord.code ++ scope.code ++ sz ++ 0#2, minor := 0#4 })
  | .puts a off pkg ord scope n => some (.f2r 0x52#7 { rs1 := a.bits, rs2 := off.bits, rs3 := pkg.bits, mod := 0#2 ++ ord.code ++ scope.code ++ n ++ 0#1, minor := 0#4 })
  | .ramo d op a b pkg md => some (.f2r 0x53#7 { a := aReg d false, minor := op.code, rs1 := a.bits, rs2 := b.bits, rs3 := pkg.bits, mod := md.bits })
  | .amsg dest a b c d scope cn => some (.f3e 0x54#7 { a := aReg dest false, a1 := a.bits, a2 := b.bits, a3 := c.bits, a4 := d.bits, scope := scope.code, cnt := cntBits cn, cv := cntFlag cn, minor := 0#4 })
  | .copy st src dst len pkg scope spad cn => some (.f3e 0x58#7 { a := aReg st false, a1 := src.bits, a2 := dst.bits, a3 := len.bits, a4 := pkg.bits, scope := scope.code, flags := BitVec.ofBool spad ++ 0#12, cnt := cntBits cn, cv := cntFlag cn, minor := 0#4 })
  | .send st src len dest arr scope spad slab swz cn => some (.f3e 0x59#7 { a := aReg st false, a1 := src.bits, a2 := len.bits, a3 := dest.bits, a4 := arr.bits, scope := scope.code, flags := BitVec.ofBool spad ++ BitVec.ofBool slab ++ swz ++ 0#9, cnt := cntBits cn, cv := cntFlag cn, minor := 0#4 })
  | .refs st base qin qout ring row par cn => some (.f3e 0x5a#7 { a := aReg st false, a1 := base.bits, a2 := qin.bits, a3 := qout.bits, a4 := ring.bits, flags := BitVec.ofBool row ++ par, cnt := cntBits cn, cv := cntFlag cn, minor := 0#4 })
  | .sread st ns lba count mem cn => some (.f3e 0x5b#7 { a := aReg st false, a1 := ns.bits, a2 := lba.bits, a3 := count.bits, a4 := mem.bits, cnt := cntBits cn, cv := cntFlag cn, minor := 0#4 })
  | .swrite st ns lba count mem cn => some (.f3e 0x5c#7 { a := aReg st false, a1 := ns.bits, a2 := lba.bits, a3 := count.bits, a4 := mem.bits, cnt := cntBits cn, cv := cntFlag cn, minor := 0#4 })
  | .fship st a op1 op2 res scope ord routine cn => some (.f3e 0x5d#7 { a := aReg st false, a1 := a.bits, a2 := op1.bits, a3 := op2.bits, a4 := res.bits, scope := scope.code, flags := 0#5 ++ ord.code ++ routine, cnt := cntBits cn, cv := cntFlag cn, minor := 0#4 })
  | .tcfg a k => some (.f1 0x60#7 { rs1 := a.bits, rs2 := k, minor := 0#4 })
  | .tzero acc => some (.f1 0x60#7 { a := aVec acc false, minor := 1#4 })
  | .tamax a k => some (.f1 0x60#7 { rs1 := a.bits, rs2 := k, minor := 2#4 })
  | .trowh a k => some (.f1 0x60#7 { rs1 := a.bits, rs2 := k, minor := 3#4 })
  | .tresume => some (.f1 0x60#7 { minor := 4#4 })
  | .tabort => some (.f1 0x60#7 { minor := 5#4 })
  | .tmma acc a b k zero cn => some (.f3e 0x61#7 { a := aVec acc false, a1 := a.bits, a2 := b.bits, flags := k ++ BitVec.ofBool zero ++ 0#8 ++ 0#2, cnt := cntBits cn, cv := cntFlag cn, minor := 0#4 })
  | .tmmas acc a b k zero sel cn => some (.f3e 0x62#7 { a := aVec acc false, a1 := a.bits, a2 := b.bits, flags := k ++ BitVec.ofBool zero ++ 0#8 ++ sel, cnt := cntBits cn, cv := cntFlag cn, minor := 0#4 })
  | .tmmax acc a b sa sb k zero sel cn => some (.f3e 0x63#7 { a := aVec acc false, a1 := a.bits, a2 := b.bits, a3 := sa.bits, a4 := sb.bits, flags := k ++ BitVec.ofBool zero ++ 0#8 ++ sel, cnt := cntBits cn, cv := cntFlag cn, minor := 0#4 })
  | .tlacc acc a stride k spad cn => some (.f3e 0x64#7 { a := aVec acc false, a1 := a.bits, a2 := stride.bits, flags := k ++ 0#10 ++ BitVec.ofBool spad, cnt := cntBits cn, cv := cntFlag cn, minor := 0#4 })
  | .tsacc acc a stride k spad cn => some (.f3e 0x64#7 { a := aVec acc false, a1 := a.bits, a2 := stride.bits, flags := k ++ 0#10 ++ BitVec.ofBool spad, cnt := cntBits cn, cv := cntFlag cn, minor := 1#4 })
  | .tdrain acc dest stride k t rm kind sat cn => some (.f3e 0x65#7 { a := aVec acc false, a1 := dest.bits, a2 := stride.bits, flags := k ++ 0#1 ++ t.code ++ rm.code ++ kind ++ BitVec.ofBool sat, cnt := cntBits cn, cv := cntFlag cn })
  | .tdrainHandler acc dest stride arg k cn => some (.f3e 0x65#7 { a := aVec acc false, a1 := dest.bits, a2 := stride.bits, a3 := arg.bits, flags := k ++ 1#1 ++ 0#10, cnt := cntBits cn, cv := cntFlag cn })
  | .rowout dest m swz t rm kind sat => some (.f2r 0x66#7 { rs1 := dest.bits, rs2 := m.bits, rs3 := swz, mod := t.code ++ rm.code ++ kind ++ BitVec.ofBool sat, minor := 0#4 })
  | .mcfg a n => some (.f1 0x68#7 { rs1 := a.bits, rs2 := n, minor := 0#4 })
  | .mrun out port tag cn => some (.f3e 0x69#7 { a1 := out.bits, flags := BitVec.ofBool port ++ tag ++ 0#9, cnt := cntBits cn, cv := cntFlag cn, minor := 0#4 })
  | .mstat d => some (.f1 0x6a#7 { a := aReg d false, minor := 0#4 })
  | .mstop => some (.f0 0x6b#7 {})
  | .ldc d h c signed => some (.f2r 0x6c#7 { a := aReg d false, rs1 := h.bits, rs2 := c.bits, mod := 0#9 ++ BitVec.ofBool signed, minor := 0#4 })
  | .stc s h c => some (.f2r 0x6c#7 { a := aReg s false, rs1 := h.bits, rs2 := c.bits, minor := 1#4 })
  | .ldcv v h c => some (.f2r 0x6c#7 { a := aVec v false, rs1 := h.bits, rs2 := c.bits, minor := 2#4 })
  | .stcv v h c => some (.f2r 0x6c#7 { a := aVec v false, rs1 := h.bits, rs2 := c.bits, minor := 3#4 })
  | .cprobe d h c => some (.f2r 0x6c#7 { a := aReg d false, rs1 := h.bits, rs2 := c.bits, minor := 4#4 })
  | .ctrim h c => some (.f2r 0x6c#7 { rs1 := h.bits, rs2 := c.bits, minor := 5#4 })
  | .qtok tag port s => some (.f1 0x6d#7 { rs1 := tag ++ port, rs2 := s.bits, minor := 0#4 })
  | .qtry d xf q => some (.f1 0x6d#7 { a := aReg d false, rs2 := xf.bits, rs1 := q.bits, minor := 1#4 })
  | .qpeek d xf q => some (.f1 0x6d#7 { a := aReg d false, rs2 := xf.bits, rs1 := q.bits, minor := 2#4 })
  | .qlen d q => some (.f1 0x6d#7 { a := aReg d false, rs1 := q.bits, minor := 3#4 })
  | .qfence => some (.f1 0x6d#7 { minor := 4#4 })
  | .qtvec q s => some (.f1 0x6d#7 { rs1 := q.bits, rs2 := s.bits, minor := 5#4 })
  | .cpost c k => some (.f2i 0x6e#7 { rs1 := 0#2 ++ c, imm := k, minor := 0#4 })
  | .waitc c k => some (.f2i 0x6e#7 { rs1 := 0#2 ++ c, imm := k, minor := 1#4 })
  | .cread d c clr => some (.f2i 0x6e#7 { a := aReg d false, rs1 := 0#2 ++ c, imm := 0#21 ++ BitVec.ofBool clr, minor := 2#4 })
  | .wait ld st cp tl => some (.f3k 0x6f#7 { imm := 0#8 ++ ld ++ st ++ cp ++ tl, minor := 0#4 })
  | .await a t scope => some (.f2r 0x70#7 { rs1 := a.bits, rs2 := t.bits, mod := 0#4 ++ scope.code ++ 0#4, minor := 0#4 })
  | .bar => some (.f2r 0x70#7 { minor := 1#4 })
  | .parkC c t => some (.f2r 0x70#7 { mod := 0#2 ++ c ++ 0#4, rs1 := t.bits, minor := 2#4 })
  | .parkA a t scope => some (.f2r 0x70#7 { rs1 := a.bits, rs2 := t.bits, mod := 1#2 ++ 0#2 ++ scope.code ++ 0#4, minor := 2#4 })
  | .parkQ port => some (.f2r 0x70#7 { mod := 2#2 ++ 0#1 ++ port ++ 0#4, minor := 2#4 })
  | .parkT t => some (.f2r 0x70#7 { rs1 := t.bits, mod := 3#2 ++ 0#8, minor := 2#4 })
  | .yield => some (.f1 0x74#7 { minor := 0#4 })
  | .exit => some (.f1 0x74#7 { minor := 1#4 })
  | .sprio n => some (.f1 0x74#7 { rs2 := n, minor := 2#4 })
  | .launch d p => some (.f2r 0x75#7 { a := aReg d false, rs1 := p.bits, minor := 0#4 })
  | .slice d j k what axis => some (.f2r 0x75#7 { a := aReg d false, rs1 := j.bits, rs2 := k, mod := 0#7 ++ what ++ BitVec.ofBool axis, minor := 1#4 })
  | .warm w base size => some (.f2r 0x76#7 { rs1 := w.bits, rs2 := base.bits, rs3 := size.bits, minor := 0#4 })
  | .wdisarm w => some (.f2r 0x76#7 { rs1 := w.bits, minor := 1#4 })
  | .wstat d w => some (.f2r 0x76#7 { a := aReg d false, rs1 := w.bits, minor := 2#4 })
  | .wack => some (.f2r 0x76#7 { minor := 3#4 })
  | .csrr d csr => some (.f2i 0x78#7 { a := aReg d false, imm := 0#10 ++ csr, minor := 0#4 })
  | .csrw csr s => some (.f2i 0x78#7 { imm := 0#10 ++ csr, rs1 := s.bits, minor := 1#4 })
  | .csrset csr s => some (.f2i 0x78#7 { imm := 0#10 ++ csr, rs1 := s.bits, minor := 2#4 })
  | .csrclr csr s => some (.f2i 0x78#7 { imm := 0#10 ++ csr, rs1 := s.bits, minor := 3#4 })
  | .tlbw a b => some (.f1 0x79#7 { rs1 := a.bits, rs2 := b.bits, minor := 0#4 })
  | .tlbi a b => some (.f1 0x79#7 { rs1 := a.bits, rs2 := b.bits, minor := 1#4 })
  | .clbi a b => some (.f1 0x79#7 { rs1 := a.bits, rs2 := b.bits, minor := 2#4 })
  | .migr d a b => some (.f1 0x79#7 { a := aReg d false, rs1 := a.bits, rs2 := b.bits, minor := 3#4 })
  | .ecall n => some (.f0 0x7a#7 { a := n })
  | .ebreak n => some (.f0 0x7b#7 { a := n })
  | .eret => some (.f0 0x7c#7 {})
  | .repart a => some (.f1 0x7d#7 { rs1 := a.bits, minor := 0#4 })
  | .ctxsave a b => some (.f1 0x7d#7 { rs1 := a.bits, rs2 := b.bits, minor := 1#4 })
  | .ctxrest a b => some (.f1 0x7d#7 { rs1 := a.bits, rs2 := b.bits, minor := 2#4 })
  | _ => none

/-- The instruction that F0 fields name, reserved fields not yet checked. -/
def fromF0 (major : BitVec 7) (f : F0) : Option Instr :=
  match major.toNat with
  | 0x48 => some (.fence (.ofCode (f.a.extractLsb' 5 2)) (.ofCode (f.a.extractLsb' 3 2)))
  | 0x6b => some (.mstop)
  | 0x7a => some (.ecall f.a)
  | 0x7b => some (.ebreak f.a)
  | 0x7c => some (.eret)
  | _ => none

/-- The instruction that F1 fields name, reserved fields not yet checked. -/
def fromF1 (major : BitVec 7) (f : F1) : Option Instr :=
  match major.toNat with
  | 0x0 =>
    match f.minor.toNat with
    | 0 => some (.add (.ofBits (aSpec f.a)) (.ofBits f.rs1) (.ofBits f.rs2))
    | 1 => some (.sub (.ofBits (aSpec f.a)) (.ofBits f.rs1) (.ofBits f.rs2))
    | 2 => some (.and (.ofBits (aSpec f.a)) (.ofBits f.rs1) (.ofBits f.rs2))
    | 3 => some (.or (.ofBits (aSpec f.a)) (.ofBits f.rs1) (.ofBits f.rs2))
    | 4 => some (.xor (.ofBits (aSpec f.a)) (.ofBits f.rs1) (.ofBits f.rs2))
    | 5 => some (.andn (.ofBits (aSpec f.a)) (.ofBits f.rs1) (.ofBits f.rs2))
    | 6 => some (.sll (.ofBits (aSpec f.a)) (.ofBits f.rs1) (.ofBits f.rs2))
    | 7 => some (.srl (.ofBits (aSpec f.a)) (.ofBits f.rs1) (.ofBits f.rs2))
    | 8 => some (.sra (.ofBits (aSpec f.a)) (.ofBits f.rs1) (.ofBits f.rs2))
    | 9 => some (.rol (.ofBits (aSpec f.a)) (.ofBits f.rs1) (.ofBits f.rs2))
    | 10 => some (.min (.ofBits (aSpec f.a)) (.ofBits f.rs1) (.ofBits f.rs2))
    | 11 => some (.max (.ofBits (aSpec f.a)) (.ofBits f.rs1) (.ofBits f.rs2))
    | 12 => some (.minw (.ofBits (aSpec f.a)) (.ofBits f.rs1) (.ofBits f.rs2))
    | 13 => some (.maxw (.ofBits (aSpec f.a)) (.ofBits f.rs1) (.ofBits f.rs2))
    | _ => none
  | 0x1 =>
    match f.minor.toNat with
    | 0 => some (.mul (.ofBits (aSpec f.a)) (.ofBits f.rs1) (.ofBits f.rs2))
    | 1 => some (.mulhs (.ofBits (aSpec f.a)) (.ofBits f.rs1) (.ofBits f.rs2))
    | 2 => some (.mulhw (.ofBits (aSpec f.a)) (.ofBits f.rs1) (.ofBits f.rs2))
    | 3 => some (.div (.ofBits (aSpec f.a)) (.ofBits f.rs1) (.ofBits f.rs2))
    | 4 => some (.divw (.ofBits (aSpec f.a)) (.ofBits f.rs1) (.ofBits f.rs2))
    | 5 => some (.rem (.ofBits (aSpec f.a)) (.ofBits f.rs1) (.ofBits f.rs2))
    | 6 => some (.remw (.ofBits (aSpec f.a)) (.ofBits f.rs1) (.ofBits f.rs2))
    | _ => none
  | 0x2 =>
    match f.minor.toNat with
    | 0 => some (.clz (.ofBits (aSpec f.a)) (.ofBits f.rs1))
    | 1 => some (.ctz (.ofBits (aSpec f.a)) (.ofBits f.rs1))
    | 2 => some (.popc (.ofBits (aSpec f.a)) (.ofBits f.rs1))
    | 3 => some (.bext (.ofBits (aSpec f.a)) (.ofBits f.rs1) (.ofBits f.rs2))
    | 4 => some (.bdep (.ofBits (aSpec f.a)) (.ofBits f.rs1) (.ofBits f.rs2))
    | 5 => some (.mov (.ofBits (aSpec f.a)) (.ofBits f.rs1))
    | 6 => some (.sext (.ofBits (aSpec f.a)) (.ofBits f.rs1) f.rs2)
    | 7 => some (.zext (.ofBits (aSpec f.a)) (.ofBits f.rs1) f.rs2)
    | _ => none
  | 0x3 =>
    match f.minor.toNat with
    | 0 => some (.seq (.ofBits (aSpec f.a)) (.ofBits f.rs1) (.ofBits f.rs2))
    | 1 => some (.sne (.ofBits (aSpec f.a)) (.ofBits f.rs1) (.ofBits f.rs2))
    | 2 => some (.slt (.ofBits (aSpec f.a)) (.ofBits f.rs1) (.ofBits f.rs2))
    | 3 => some (.sge (.ofBits (aSpec f.a)) (.ofBits f.rs1) (.ofBits f.rs2))
    | 4 => some (.sltw (.ofBits (aSpec f.a)) (.ofBits f.rs1) (.ofBits f.rs2))
    | 5 => some (.sgew (.ofBits (aSpec f.a)) (.ofBits f.rs1) (.ofBits f.rs2))
    | _ => none
  | 0x1c =>
    match f.minor.toNat with
    | 0 => some (.jr (.ofBits f.rs1))
    | 1 => some (.ret (.ofBits f.rs1))
    | _ => none
  | 0x60 =>
    match f.minor.toNat with
    | 0 => some (.tcfg (.ofBits f.rs1) f.rs2)
    | 1 => some (.tzero (vreg (aSpec f.a)))
    | 2 => some (.tamax (.ofBits f.rs1) f.rs2)
    | 3 => some (.trowh (.ofBits f.rs1) f.rs2)
    | 4 => some (.tresume)
    | 5 => some (.tabort)
    | _ => none
  | 0x68 =>
    match f.minor.toNat with
    | 0 => some (.mcfg (.ofBits f.rs1) f.rs2)
    | _ => none
  | 0x6a =>
    match f.minor.toNat with
    | 0 => some (.mstat (.ofBits (aSpec f.a)))
    | _ => none
  | 0x6d =>
    match f.minor.toNat with
    | 0 => some (.qtok (f.rs1.extractLsb' 3 3) (f.rs1.extractLsb' 0 3) (.ofBits f.rs2))
    | 1 => some (.qtry (.ofBits (aSpec f.a)) (.ofBits f.rs2) (.ofBits f.rs1))
    | 2 => some (.qpeek (.ofBits (aSpec f.a)) (.ofBits f.rs2) (.ofBits f.rs1))
    | 3 => some (.qlen (.ofBits (aSpec f.a)) (.ofBits f.rs1))
    | 4 => some (.qfence)
    | 5 => some (.qtvec (.ofBits f.rs1) (.ofBits f.rs2))
    | _ => none
  | 0x74 =>
    match f.minor.toNat with
    | 0 => some (.yield)
    | 1 => some (.exit)
    | 2 => some (.sprio f.rs2)
    | _ => none
  | 0x79 =>
    match f.minor.toNat with
    | 0 => some (.tlbw (.ofBits f.rs1) (.ofBits f.rs2))
    | 1 => some (.tlbi (.ofBits f.rs1) (.ofBits f.rs2))
    | 2 => some (.clbi (.ofBits f.rs1) (.ofBits f.rs2))
    | 3 => some (.migr (.ofBits (aSpec f.a)) (.ofBits f.rs1) (.ofBits f.rs2))
    | _ => none
  | 0x7d =>
    match f.minor.toNat with
    | 0 => some (.repart (.ofBits f.rs1))
    | 1 => some (.ctxsave (.ofBits f.rs1) (.ofBits f.rs2))
    | 2 => some (.ctxrest (.ofBits f.rs1) (.ofBits f.rs2))
    | _ => none
  | _ => none

/-- The instruction that F2r fields name, reserved fields not yet checked. -/
def fromF2r (major : BitVec 7) (f : F2r) : Option Instr :=
  match major.toNat with
  | 0x8 =>
    match f.minor.toNat with
    | 0 => some (.sel (.ofBits (aSpec f.a)) (.ofBits f.rs1) (.ofBits f.rs2) (.ofBits f.rs3))
    | _ => none
  | 0x47 =>
    match f.minor.toNat with
    | 0 => some (.amoadd (.ofBits (aSpec f.a)) (.ofBits f.rs1) (.ofBits f.rs2) (AmoMod.ofBits f.mod))
    | 1 => some (.amoand (.ofBits (aSpec f.a)) (.ofBits f.rs1) (.ofBits f.rs2) (AmoMod.ofBits f.mod))
    | 2 => some (.amoor (.ofBits (aSpec f.a)) (.ofBits f.rs1) (.ofBits f.rs2) (AmoMod.ofBits f.mod))
    | 3 => some (.amoxor (.ofBits (aSpec f.a)) (.ofBits f.rs1) (.ofBits f.rs2) (AmoMod.ofBits f.mod))
    | 4 => some (.amomin (.ofBits (aSpec f.a)) (.ofBits f.rs1) (.ofBits f.rs2) (AmoMod.ofBits f.mod))
    | 5 => some (.amomax (.ofBits (aSpec f.a)) (.ofBits f.rs1) (.ofBits f.rs2) (AmoMod.ofBits f.mod))
    | 6 => some (.amominw (.ofBits (aSpec f.a)) (.ofBits f.rs1) (.ofBits f.rs2) (AmoMod.ofBits f.mod))
    | 7 => some (.amomaxw (.ofBits (aSpec f.a)) (.ofBits f.rs1) (.ofBits f.rs2) (AmoMod.ofBits f.mod))
    | 8 => some (.amoswap (.ofBits (aSpec f.a)) (.ofBits f.rs1) (.ofBits f.rs2) (AmoMod.ofBits f.mod))
    | 9 => some (.amocas (.ofBits (aSpec f.a)) (.ofBits f.rs1) (.ofBits f.rs2) (AmoMod.ofBits f.mod))
    | 10 => some (.amofadd (.ofBits (aSpec f.a)) (.ofBits f.rs1) (.ofBits f.rs2) (AmoMod.ofBits f.mod))
    | _ => none
  | 0x50 =>
    match f.minor.toNat with
    | 0 => some (.get (.ofBits (aSpec f.a)) (.ofBits f.rs1) (.ofBits f.rs2) (.ofCode (f.mod.extractLsb' 6 2)) (.ofCode (f.mod.extractLsb' 4 2)) (f.mod.extractLsb' 2 2))
    | _ => none
  | 0x51 =>
    match f.minor.toNat with
    | 0 => some (.put (.ofBits f.rs1) (.ofBits f.rs2) (.ofBits f.rs3) (.ofCode (f.mod.extractLsb' 6 2)) (.ofCode (f.mod.extractLsb' 4 2)) (f.mod.extractLsb' 2 2))
    | _ => none
  | 0x52 =>
    match f.minor.toNat with
    | 0 => some (.puts (.ofBits f.rs1) (.ofBits f.rs2) (.ofBits f.rs3) (.ofCode (f.mod.extractLsb' 6 2)) (.ofCode (f.mod.extractLsb' 4 2)) (f.mod.extractLsb' 1 3))
    | _ => none
  | 0x53 => (AmoOp.ofCode f.minor).map fun op => .ramo (.ofBits (aSpec f.a)) op (.ofBits f.rs1) (.ofBits f.rs2) (.ofBits f.rs3) (AmoMod.ofBits f.mod)
  | 0x66 =>
    match f.minor.toNat with
    | 0 => some (.rowout (.ofBits f.rs1) (.ofBits f.rs2) f.rs3 (.ofCode (f.mod.extractLsb' 6 4)) (.ofCode (f.mod.extractLsb' 3 3)) (f.mod.extractLsb' 1 2) (f.mod.getLsbD 0))
    | _ => none
  | 0x6c =>
    match f.minor.toNat with
    | 0 => some (.ldc (.ofBits (aSpec f.a)) (.ofBits f.rs1) (.ofBits f.rs2) (f.mod.getLsbD 0))
    | 1 => some (.stc (.ofBits (aSpec f.a)) (.ofBits f.rs1) (.ofBits f.rs2))
    | 2 => some (.ldcv (vreg (aSpec f.a)) (.ofBits f.rs1) (.ofBits f.rs2))
    | 3 => some (.stcv (vreg (aSpec f.a)) (.ofBits f.rs1) (.ofBits f.rs2))
    | 4 => some (.cprobe (.ofBits (aSpec f.a)) (.ofBits f.rs1) (.ofBits f.rs2))
    | 5 => some (.ctrim (.ofBits f.rs1) (.ofBits f.rs2))
    | _ => none
  | 0x70 =>
    match f.minor.toNat with
    | 0 => some (.await (.ofBits f.rs1) (.ofBits f.rs2) (.ofCode (f.mod.extractLsb' 4 2)))
    | 1 => some (.bar)
    | 2 =>
      match (f.mod.extractLsb' 8 2).toNat with
      | 0 => some (.parkC (f.mod.extractLsb' 4 4) (.ofBits f.rs1))
      | 1 => some (.parkA (.ofBits f.rs1) (.ofBits f.rs2) (.ofCode (f.mod.extractLsb' 4 2)))
      | 2 => some (.parkQ (f.mod.extractLsb' 4 3))
      | _ => some (.parkT (.ofBits f.rs1))
    | _ => none
  | 0x75 =>
    match f.minor.toNat with
    | 0 => some (.launch (.ofBits (aSpec f.a)) (.ofBits f.rs1))
    | 1 => some (.slice (.ofBits (aSpec f.a)) (.ofBits f.rs1) f.rs2 (f.mod.extractLsb' 1 2) (f.mod.getLsbD 0))
    | _ => none
  | 0x76 =>
    match f.minor.toNat with
    | 0 => some (.warm (.ofBits f.rs1) (.ofBits f.rs2) (.ofBits f.rs3))
    | 1 => some (.wdisarm (.ofBits f.rs1))
    | 2 => some (.wstat (.ofBits (aSpec f.a)) (.ofBits f.rs1))
    | 3 => some (.wack)
    | _ => none
  | _ => none

/-- The instruction that F2i fields name, reserved fields not yet checked. -/
def fromF2i (major : BitVec 7) (f : F2i) : Option Instr :=
  match major.toNat with
  | 0x4 =>
    match f.minor.toNat with
    | 0 => some (.addi (.ofBits (aSpec f.a)) (.ofBits f.rs1) f.imm)
    | 1 => some (.andi (.ofBits (aSpec f.a)) (.ofBits f.rs1) f.imm)
    | 2 => some (.ori (.ofBits (aSpec f.a)) (.ofBits f.rs1) f.imm)
    | 3 => some (.xori (.ofBits (aSpec f.a)) (.ofBits f.rs1) f.imm)
    | 4 => some (.slli (.ofBits (aSpec f.a)) (.ofBits f.rs1) f.imm)
    | 5 => some (.srli (.ofBits (aSpec f.a)) (.ofBits f.rs1) f.imm)
    | 6 => some (.srai (.ofBits (aSpec f.a)) (.ofBits f.rs1) f.imm)
    | 7 => some (.roli (.ofBits (aSpec f.a)) (.ofBits f.rs1) f.imm)
    | 8 => some (.mini (.ofBits (aSpec f.a)) (.ofBits f.rs1) f.imm)
    | 9 => some (.maxi (.ofBits (aSpec f.a)) (.ofBits f.rs1) f.imm)
    | 10 => some (.slti (.ofBits (aSpec f.a)) (.ofBits f.rs1) f.imm)
    | 11 => some (.seqi (.ofBits (aSpec f.a)) (.ofBits f.rs1) f.imm)
    | _ => none
  | 0x5 =>
    match f.minor.toNat with
    | 0 => some (.li (.ofBits (aSpec f.a)) f.imm)
    | _ => none
  | 0x6e =>
    match f.minor.toNat with
    | 0 => some (.cpost (f.rs1.extractLsb' 0 4) f.imm)
    | 1 => some (.waitc (f.rs1.extractLsb' 0 4) f.imm)
    | 2 => some (.cread (.ofBits (aSpec f.a)) (f.rs1.extractLsb' 0 4) (f.imm.getLsbD 0))
    | _ => none
  | 0x78 =>
    match f.minor.toNat with
    | 0 => some (.csrr (.ofBits (aSpec f.a)) (f.imm.extractLsb' 0 12))
    | 1 => some (.csrw (f.imm.extractLsb' 0 12) (.ofBits f.rs1))
    | 2 => some (.csrset (f.imm.extractLsb' 0 12) (.ofBits f.rs1))
    | 3 => some (.csrclr (f.imm.extractLsb' 0 12) (.ofBits f.rs1))
    | _ => none
  | _ => none

/-- The instruction that F2m fields name, reserved fields not yet checked. -/
def fromF2m (major : BitVec 7) (f : F2m) : Option Instr :=
  match major.toNat with
  | 0x7 => some (.lea (.ofBits (aSpec f.a)) ⟨.ofBits f.base, .ofBits f.idx, f.sc, f.off⟩)
  | 0x40 =>
    match f.ord.toNat with
    | 0 => if aBit f.a then some (.loadSigned (.ofBits (aSpec f.a)) ⟨.ofBits f.base, .ofBits f.idx, f.sc, f.off⟩ f.sz) else some (.load (.ofBits (aSpec f.a)) ⟨.ofBits f.base, .ofBits f.idx, f.sc, f.off⟩ f.sz)
    | 1 => some (.lda (.ofBits (aSpec f.a)) ⟨.ofBits f.base, .ofBits f.idx, f.sc, f.off⟩ (.ofCode f.scope) f.sz)
    | _ => none
  | 0x41 =>
    match f.ord.toNat with
    | 0 => some (.store (.ofBits (aSpec f.a)) ⟨.ofBits f.base, .ofBits f.idx, f.sc, f.off⟩ f.sz)
    | 2 => some (.stl (.ofBits (aSpec f.a)) ⟨.ofBits f.base, .ofBits f.idx, f.sc, f.off⟩ (.ofCode f.scope) f.sz)
    | _ => none
  | 0x42 => if aBit f.a then some (.stv (vreg (aSpec f.a)) ⟨.ofBits f.base, .ofBits f.idx, f.sc, f.off⟩) else some (.ldv (vreg (aSpec f.a)) ⟨.ofBits f.base, .ofBits f.idx, f.sc, f.off⟩)
  | 0x49 => some (.pref (aBit f.a) ⟨.ofBits f.base, .ofBits f.idx, f.sc, f.off⟩)
  | _ => none

/-- The instruction that F2s fields name, reserved fields not yet checked. -/
def fromF2s (major : BitVec 7) (f : F2s) : Option Instr :=
  match major.toNat with
  | 0x44 => if f.rcd then some (.sldRec (.ofBits (aSpec f.a)) (aBit f.a) ⟨.ofBits f.base, .ofBits f.idx, f.sc, f.off⟩ f.sz) else some (.sld (.ofBits (aSpec f.a)) (aBit f.a) ⟨.ofBits f.base, .ofBits f.idx, f.sc, f.off⟩ f.swz f.sz)
  | 0x45 => some (.sst (.ofBits (aSpec f.a)) ⟨.ofBits f.base, .ofBits f.idx, f.sc, f.off⟩ f.swz f.sz)
  | 0x46 => if aBit f.a then some (.sstv (vreg (aSpec f.a)) ⟨.ofBits f.base, .ofBits f.idx, f.sc, f.off⟩ f.swz) else some (.sldv (vreg (aSpec f.a)) ⟨.ofBits f.base, .ofBits f.idx, f.sc, f.off⟩ f.swz)
  | _ => none

/-- The instruction that F2b fields name, reserved fields not yet checked. -/
def fromF2b (major : BitVec 7) (f : F2b) : Option Instr :=
  match major.toNat with
  | 0x10 => some (.beq (.ofBits (aSpec f.a)) (aBit f.a) (.ofBits f.rs2) f.off f.head)
  | 0x11 => some (.bne (.ofBits (aSpec f.a)) (aBit f.a) (.ofBits f.rs2) f.off f.head)
  | 0x12 => some (.blt (.ofBits (aSpec f.a)) (aBit f.a) (.ofBits f.rs2) f.off f.head)
  | 0x13 => some (.bge (.ofBits (aSpec f.a)) (aBit f.a) (.ofBits f.rs2) f.off f.head)
  | 0x14 => some (.bltw (.ofBits (aSpec f.a)) (aBit f.a) (.ofBits f.rs2) f.off f.head)
  | 0x15 => some (.bgew (.ofBits (aSpec f.a)) (aBit f.a) (.ofBits f.rs2) f.off f.head)
  | 0x16 => some (.bbs (.ofBits (aSpec f.a)) (aBit f.a) f.rs2 f.off f.head)
  | 0x17 => some (.bbc (.ofBits (aSpec f.a)) (aBit f.a) f.rs2 f.off f.head)
  | 0x18 => some (.bz (.ofBits (aSpec f.a)) (aBit f.a) f.off f.head)
  | 0x19 => some (.bnz (.ofBits (aSpec f.a)) (aBit f.a) f.off f.head)
  | 0x1d => some (.loop (.ofBits (aSpec f.a)) f.off f.head)
  | _ => none

/-- The instruction that F2j fields name, reserved fields not yet checked. -/
def fromF2j (major : BitVec 7) (f : F2j) : Option Instr :=
  match major.toNat with
  | 0x1a => some (.jmp f.off f.head)
  | 0x1b => some (.jal (.ofBits (aSpec f.a)) f.off f.head)
  | _ => none

/-- The instruction that F3v fields name, reserved fields not yet checked. -/
def fromF3v (major : BitVec 7) (f : F3v) : Option Instr :=
  match major.toNat with
  | 0x20 =>
    match f.minor.toNat with
    | 0 => some (.vadd (vreg (aSpec f.a)) (vreg f.vs1) (vreg f.vs2) (.ofBits f.mask) (.ofCode f.ty) (.ofCode f.rm))
    | 1 => some (.vsub (vreg (aSpec f.a)) (vreg f.vs1) (vreg f.vs2) (.ofBits f.mask) (.ofCode f.ty) (.ofCode f.rm))
    | 2 => some (.vmul (vreg (aSpec f.a)) (vreg f.vs1) (vreg f.vs2) (.ofBits f.mask) (.ofCode f.ty) (.ofCode f.rm))
    | 3 => some (.vmin (vreg (aSpec f.a)) (vreg f.vs1) (vreg f.vs2) (.ofBits f.mask) (.ofCode f.ty))
    | 4 => some (.vmax (vreg (aSpec f.a)) (vreg f.vs1) (vreg f.vs2) (.ofBits f.mask) (.ofCode f.ty))
    | 5 => some (.vadds (vreg (aSpec f.a)) (vreg f.vs1) (vreg f.vs2) (.ofBits f.mask) (.ofCode f.ty))
    | 6 => some (.vsubs (vreg (aSpec f.a)) (vreg f.vs1) (vreg f.vs2) (.ofBits f.mask) (.ofCode f.ty))
    | 7 => some (.vabs (vreg (aSpec f.a)) (vreg f.vs1) (.ofBits f.mask) (.ofCode f.ty))
    | 8 => some (.vneg (vreg (aSpec f.a)) (vreg f.vs1) (.ofBits f.mask) (.ofCode f.ty))
    | _ => none
  | 0x21 =>
    match f.minor.toNat with
    | 0 => some (.vfma (vreg (aSpec f.a)) (vreg f.vs1) (vreg f.vs2) (vreg f.vs3) (.ofBits f.mask) (.ofCode f.ty) (.ofCode f.rm))
    | 1 => some (.vfms (vreg (aSpec f.a)) (vreg f.vs1) (vreg f.vs2) (vreg f.vs3) (.ofBits f.mask) (.ofCode f.ty) (.ofCode f.rm))
    | _ => none
  | 0x22 =>
    match f.minor.toNat with
    | 0 => some (.vand (vreg (aSpec f.a)) (vreg f.vs1) (vreg f.vs2) (.ofBits f.mask) (.ofCode f.ty))
    | 1 => some (.vor (vreg (aSpec f.a)) (vreg f.vs1) (vreg f.vs2) (.ofBits f.mask) (.ofCode f.ty))
    | 2 => some (.vxor (vreg (aSpec f.a)) (vreg f.vs1) (vreg f.vs2) (.ofBits f.mask) (.ofCode f.ty))
    | 3 => some (.vandn (vreg (aSpec f.a)) (vreg f.vs1) (vreg f.vs2) (.ofBits f.mask) (.ofCode f.ty))
    | 4 => some (.vsll (vreg (aSpec f.a)) (vreg f.vs1) (vreg f.vs2) (.ofBits f.mask) (.ofCode f.ty))
    | 5 => some (.vsrl (vreg (aSpec f.a)) (vreg f.vs1) (vreg f.vs2) (.ofBits f.mask) (.ofCode f.ty))
    | 6 => some (.vsra (vreg (aSpec f.a)) (vreg f.vs1) (vreg f.vs2) (.ofBits f.mask) (.ofCode f.ty))
    | _ => none
  | 0x23 =>
    match f.minor.toNat with
    | 0 => some (.vcmpeq (.ofBits (aSpec f.a)) (vreg f.vs1) (vreg f.vs2) (.ofBits f.mask) (.ofCode f.ty))
    | 1 => some (.vcmpne (.ofBits (aSpec f.a)) (vreg f.vs1) (vreg f.vs2) (.ofBits f.mask) (.ofCode f.ty))
    | 2 => some (.vcmplt (.ofBits (aSpec f.a)) (vreg f.vs1) (vreg f.vs2) (.ofBits f.mask) (.ofCode f.ty))
    | 3 => some (.vcmple (.ofBits (aSpec f.a)) (vreg f.vs1) (vreg f.vs2) (.ofBits f.mask) (.ofCode f.ty))
    | 4 => some (.vcmpgt (.ofBits (aSpec f.a)) (vreg f.vs1) (vreg f.vs2) (.ofBits f.mask) (.ofCode f.ty))
    | 5 => some (.vcmpge (.ofBits (aSpec f.a)) (vreg f.vs1) (vreg f.vs2) (.ofBits f.mask) (.ofCode f.ty))
    | 6 => some (.vcmpun (.ofBits (aSpec f.a)) (vreg f.vs1) (vreg f.vs2) (.ofBits f.mask) (.ofCode f.ty))
    | _ => none
  | 0x24 =>
    match f.minor.toNat with
    | 0 => some (.vsel (vreg (aSpec f.a)) (vreg f.vs1) (vreg f.vs2) (.ofBits f.mask) (.ofCode f.ty))
    | 1 => some (.vmov (vreg (aSpec f.a)) (vreg f.vs1) (.ofBits f.mask) (.ofCode f.ty))
    | 2 => some (.vbcast (vreg (aSpec f.a)) (.ofBits f.vs1) (.ofBits f.mask) (.ofCode f.ty))
    | 3 => some (.vextr (.ofBits (aSpec f.a)) (vreg f.vs1) (.ofBits f.vs2) (.ofCode f.ty))
    | 4 => some (.vins (vreg (aSpec f.a)) (.ofBits f.vs1) (.ofBits f.vs2) (.ofCode f.ty))
    | 5 => some (.vperm (vreg (aSpec f.a)) (vreg f.vs1) (vreg f.vs2) (.ofBits f.mask) (.ofCode f.ty))
    | 6 => some (.vcompress (vreg (aSpec f.a)) (vreg f.vs1) (.ofBits f.mask) (.ofCode f.ty))
    | 7 => some (.vexpand (vreg (aSpec f.a)) (vreg f.vs1) (.ofBits f.mask) (.ofCode f.ty))
    | _ => none
  | 0x25 =>
    match f.minor.toNat with
    | 0 => some (.vredsum (.ofBits (aSpec f.a)) (vreg f.vs1) (.ofBits f.mask) (.ofCode f.ty) (.ofCode f.rm))
    | 1 => some (.vredmax (.ofBits (aSpec f.a)) (vreg f.vs1) (.ofBits f.mask) (.ofCode f.ty))
    | 2 => some (.vredmin (.ofBits (aSpec f.a)) (vreg f.vs1) (.ofBits f.mask) (.ofCode f.ty))
    | 3 => some (.vamax (.ofBits (aSpec f.a)) (vreg f.vs1) (.ofBits f.mask) (.ofCode f.ty))
    | 4 => some (.vscan (vreg (aSpec f.a)) (vreg f.vs1) (.ofBits f.mask) (.ofCode f.ty) (.ofCode f.rm) (f.mod.extractLsb' 0 2))
    | _ => none
  | 0x26 =>
    match f.minor.toNat with
    | 0 => some (.vdiv (vreg (aSpec f.a)) (vreg f.vs1) (vreg f.vs2) (.ofBits f.mask) (.ofCode f.ty) (.ofCode f.rm))
    | 1 => some (.vsqrt (vreg (aSpec f.a)) (vreg f.vs1) (.ofBits f.mask) (.ofCode f.ty) (.ofCode f.rm))
    | 2 => some (.vrsq (vreg (aSpec f.a)) (vreg f.vs1) (.ofBits f.mask) (.ofCode f.ty) (.ofCode f.rm))
    | 3 => some (.vrcp (vreg (aSpec f.a)) (vreg f.vs1) (.ofBits f.mask) (.ofCode f.ty) (.ofCode f.rm))
    | 4 => some (.vexp2 (vreg (aSpec f.a)) (vreg f.vs1) (.ofBits f.mask) (.ofCode f.ty) (.ofCode f.rm))
    | 5 => some (.vlog2 (vreg (aSpec f.a)) (vreg f.vs1) (.ofBits f.mask) (.ofCode f.ty) (.ofCode f.rm))
    | _ => none
  | 0x27 =>
    match f.minor.toNat with
    | 0 => some (.vcvt (vreg (aSpec f.a)) (vreg f.vs1) (.ofBits f.mask) (.ofCode f.ty) (.ofCode f.rm) (.ofCode (f.mod.extractLsb' 9 4)) (f.mod.extractLsb' 1 4) (f.mod.getLsbD 0))
    | 1 => some (.vpackmx (vreg (aSpec f.a)) (vreg f.vs1) (.ofBits f.vs2) (.ofBits f.mask) (.ofCode f.ty) (.ofCode f.rm) (.ofCode (f.mod.extractLsb' 9 4)) (f.mod.extractLsb' 1 4) (f.mod.getLsbD 0))
    | 2 => some (.vunpackmx (vreg (aSpec f.a)) (vreg f.vs1) (.ofBits f.vs2) (.ofBits f.mask) (.ofCode f.ty) (.ofCode f.rm) (.ofCode (f.mod.extractLsb' 9 4)) (f.mod.extractLsb' 1 4))
    | _ => none
  | 0x28 =>
    match f.minor.toNat with
    | 0 => some (.vnzx (.ofBits (aSpec f.a)) (vreg f.vs1) (.ofBits f.vs2) (.ofBits f.vs3) (.ofBits f.mask) (.ofCode f.ty))
    | _ => none
  | 0x43 =>
    match f.minor.toNat with
    | 0 => some (.ldvs (vreg (aSpec f.a)) (.ofBits f.vs1) (.ofBits f.vs2) (.ofBits f.mask) (.ofCode f.ty))
    | 1 => some (.stvs (vreg (aSpec f.a)) (.ofBits f.vs1) (.ofBits f.vs2) (.ofBits f.mask) (.ofCode f.ty))
    | 2 => some (.ldvx (vreg (aSpec f.a)) (.ofBits f.vs1) (vreg f.vs2) (.ofBits f.mask) (.ofCode f.ty) (f.mod.extractLsb' 0 2))
    | 3 => some (.stvx (vreg (aSpec f.a)) (.ofBits f.vs1) (vreg f.vs2) (.ofBits f.mask) (.ofCode f.ty) (f.mod.extractLsb' 0 2))
    | _ => none
  | _ => none

/-- The instruction that F3e fields name, reserved fields not yet checked. -/
def fromF3e (major : BitVec 7) (f : F3e) : Option Instr :=
  match major.toNat with
  | 0x54 =>
    match f.minor.toNat with
    | 0 => some (.amsg (.ofBits (aSpec f.a)) (.ofBits f.a1) (.ofBits f.a2) (.ofBits f.a3) (.ofBits f.a4) (.ofCode f.scope) (cntOf f.cv f.cnt))
    | _ => none
  | 0x58 =>
    match f.minor.toNat with
    | 0 => some (.copy (.ofBits (aSpec f.a)) (.ofBits f.a1) (.ofBits f.a2) (.ofBits f.a3) (.ofBits f.a4) (.ofCode f.scope) (f.flags.getLsbD 12) (cntOf f.cv f.cnt))
    | _ => none
  | 0x59 =>
    match f.minor.toNat with
    | 0 => some (.send (.ofBits (aSpec f.a)) (.ofBits f.a1) (.ofBits f.a2) (.ofBits f.a3) (.ofBits f.a4) (.ofCode f.scope) (f.flags.getLsbD 12) (f.flags.getLsbD 11) (f.flags.extractLsb' 9 2) (cntOf f.cv f.cnt))
    | _ => none
  | 0x5a =>
    match f.minor.toNat with
    | 0 => some (.refs (.ofBits (aSpec f.a)) (.ofBits f.a1) (.ofBits f.a2) (.ofBits f.a3) (.ofBits f.a4) (f.flags.getLsbD 12) (f.flags.extractLsb' 0 12) (cntOf f.cv f.cnt))
    | _ => none
  | 0x5b =>
    match f.minor.toNat with
    | 0 => some (.sread (.ofBits (aSpec f.a)) (.ofBits f.a1) (.ofBits f.a2) (.ofBits f.a3) (.ofBits f.a4) (cntOf f.cv f.cnt))
    | _ => none
  | 0x5c =>
    match f.minor.toNat with
    | 0 => some (.swrite (.ofBits (aSpec f.a)) (.ofBits f.a1) (.ofBits f.a2) (.ofBits f.a3) (.ofBits f.a4) (cntOf f.cv f.cnt))
    | _ => none
  | 0x5d =>
    match f.minor.toNat with
    | 0 => some (.fship (.ofBits (aSpec f.a)) (.ofBits f.a1) (.ofBits f.a2) (.ofBits f.a3) (.ofBits f.a4) (.ofCode f.scope) (.ofCode (f.flags.extractLsb' 6 2)) (f.flags.extractLsb' 0 6) (cntOf f.cv f.cnt))
    | _ => none
  | 0x61 =>
    match f.minor.toNat with
    | 0 => some (.tmma (vreg (aSpec f.a)) (.ofBits f.a1) (.ofBits f.a2) (f.flags.extractLsb' 11 2) (f.flags.getLsbD 10) (cntOf f.cv f.cnt))
    | _ => none
  | 0x62 =>
    match f.minor.toNat with
    | 0 => some (.tmmas (vreg (aSpec f.a)) (.ofBits f.a1) (.ofBits f.a2) (f.flags.extractLsb' 11 2) (f.flags.getLsbD 10) (f.flags.extractLsb' 0 2) (cntOf f.cv f.cnt))
    | _ => none
  | 0x63 =>
    match f.minor.toNat with
    | 0 => some (.tmmax (vreg (aSpec f.a)) (.ofBits f.a1) (.ofBits f.a2) (.ofBits f.a3) (.ofBits f.a4) (f.flags.extractLsb' 11 2) (f.flags.getLsbD 10) (f.flags.extractLsb' 0 2) (cntOf f.cv f.cnt))
    | _ => none
  | 0x64 =>
    match f.minor.toNat with
    | 0 => some (.tlacc (vreg (aSpec f.a)) (.ofBits f.a1) (.ofBits f.a2) (f.flags.extractLsb' 11 2) (f.flags.getLsbD 0) (cntOf f.cv f.cnt))
    | 1 => some (.tsacc (vreg (aSpec f.a)) (.ofBits f.a1) (.ofBits f.a2) (f.flags.extractLsb' 11 2) (f.flags.getLsbD 0) (cntOf f.cv f.cnt))
    | _ => none
  | 0x65 => if f.flags.getLsbD 10 then some (.tdrainHandler (vreg (aSpec f.a)) (.ofBits f.a1) (.ofBits f.a2) (.ofBits f.a3) (f.flags.extractLsb' 11 2) (cntOf f.cv f.cnt)) else some (.tdrain (vreg (aSpec f.a)) (.ofBits f.a1) (.ofBits f.a2) (f.flags.extractLsb' 11 2) (.ofCode (f.flags.extractLsb' 6 4)) (.ofCode (f.flags.extractLsb' 3 3)) (f.flags.extractLsb' 1 2) (f.flags.getLsbD 0) (cntOf f.cv f.cnt))
  | 0x69 =>
    match f.minor.toNat with
    | 0 => some (.mrun (.ofBits f.a1) (f.flags.getLsbD 12) (f.flags.extractLsb' 9 3) (cntOf f.cv f.cnt))
    | _ => none
  | _ => none

/-- The instruction that F3k fields name, reserved fields not yet checked. -/
def fromF3k (major : BitVec 7) (f : F3k) : Option Instr :=
  match major.toNat with
  | 0x6 =>
    match f.minor.toNat with
    | 0 => some (.li32 (.ofBits (aSpec f.a)) f.imm)
    | 1 => some (.lih (.ofBits (aSpec f.a)) (.ofBits f.rs1) f.imm)
    | _ => none
  | 0x6f =>
    match f.minor.toNat with
    | 0 => some (.wait (f.imm.extractLsb' 18 6) (f.imm.extractLsb' 12 6) (f.imm.extractLsb' 6 6) (f.imm.extractLsb' 0 6))
    | _ => none
  | _ => none

/-- The instruction that the fields name, reserved fields not yet checked. -/
def ofRaw : Raw → Option Instr
  | .f0 mj f => fromF0 mj f
  | .f1 mj f => fromF1 mj f
  | .f2r mj f => fromF2r mj f
  | .f2i mj f => fromF2i mj f
  | .f2m mj f => fromF2m mj f
  | .f2s mj f => fromF2s mj f
  | .f2b mj f => fromF2b mj f
  | .f2j mj f => fromF2j mj f
  | .f3v mj f => fromF3v mj f
  | .f3e mj f => fromF3e mj f
  | .f3k mj f => fromF3k mj f

/-- Decode a head halfword and its tail (as written, zero-extended to 48 bits). The reserved fields are checked by
encoding the instruction again: it must give the same fields (R45). -/
def decode (head : Half) (tail : BitVec 48) : Except DecodeError Instr :=
  let major : BitVec 7 := head.extractLsb' 9 7
  let len : BitVec 2 := head.extractLsb' 7 2
  match layoutOf major with
  | none => .error .unassigned
  | some l =>
    if len.toNat ≠ l.tailLen then .error .tailLength
    else
      let raw := parse l major (head.extractLsb' 0 7) tail
      match ofRaw raw with
      | none => .error .unassigned
      | some i =>
        if toRaw i ≠ some raw then .error .reserved
        else if wellFormed i then .ok i
        else .error .illFormed

/-- Head and tail of an instruction; a step of the hardware or the host has none. -/
def encode (i : Instr) : Option (Half × BitVec 48) := (toRaw i).map Raw.words

/-- An instruction of the Gherad set: a constructor that has an encoding. -/
def Instr.isCode (i : Instr) : Bool := (toRaw i).isSome

/-- Tail length in halfwords as the head writes it (R33, R39). -/
def tailLen (head : Half) : Nat := (head.extractLsb' 7 2).toNat

/-- The head and tail that a row's bits hold. spec/opcode_table.json puts the head above the tail: a row of 32 bits has
its head in [31:16] and its tail in [15:0] (R102). A row given fewer halfwords than its head asks for has zeros in the
rest of its tail. -/
def tableWords (nbits w : Nat) : Half × BitVec 48 :=
  let k := (nbits + 15) / 16
  (BitVec.ofNat 16 (w >>> (16 * (k - 1))), BitVec.ofNat 48 (w % 2 ^ (16 * (k - 1))))

/-- What the decoder reads from a row's bits. -/
def decodeTableWord (nbits w : Nat) : Option Instr :=
  match decode (tableWords nbits w).1 (tableWords nbits w).2 with
  | .ok i => some i
  | .error _ => none

end Sys2Proof
end

