-- ==== Sys2Proof/Machine/Bits.lean ====
section
/-! DEFINITION. Bit fields, bytes in little-endian order (R4), and sign and zero extension. -/

namespace Sys2Proof.Machine

/-- Bits [hi : lo] of a word as a number. -/
def bits (w : Word) (hi lo : Nat) : Nat := w.toNat / 2 ^ lo % 2 ^ (hi + 1 - lo)

/-- Bit n of a word. -/
def bit (w : Word) (n : Nat) : Bool := w.getLsbD n

/-- A number placed at bit lo of a word. -/
def put (n lo : Nat) : Word := BitVec.ofNat 64 (n * 2 ^ lo)

/-- A flag placed at bit lo of a word. -/
def putBit (b : Bool) (lo : Nat) : Word := if b then put 1 lo else 0

/-- The n low bytes of a number, lowest first (R4). -/
def leBytes : Nat → Nat → List Byte
  | 0, _ => []
  | n + 1, v => BitVec.ofNat 8 v :: leBytes n (v / 256)

/-- The number whose bytes, lowest first, are given (R4). -/
def ofLe : List Byte → Nat
  | [] => 0
  | b :: bs => b.toNat + 256 * ofLe bs

/-- The low n bits of a number, as a signed number. -/
def signed (n v : Nat) : Int :=
  let m : Nat := v % 2 ^ n
  if 2 * m < 2 ^ n then (m : Int) else (m : Int) - (2 ^ n : Nat)

/-- sext64 of the low n bits (R6). -/
def sext (n v : Nat) : Word := BitVec.ofInt 64 (signed n v)

/-- zext64 of the low n bits (R6). -/
def zext (n v : Nat) : Word := BitVec.ofNat 64 (v % 2 ^ n)

/-- A word of 1 or 0. -/
def ofBool (b : Bool) : Word := if b then 1 else 0

/-- Byte j of a vector register (R29). -/
def vbyte (v : VWord) (j : Nat) : Byte := v.extractLsb' (8 * j) 8

/-- A vector register with byte j replaced. -/
def setVbyte (v : VWord) (j : Nat) (b : Byte) : VWord :=
  (v &&& ~~~(255#512 <<< (8 * j))) ||| (b.setWidth 512 <<< (8 * j))

/-- Lane i of width w (R29) as a number. -/
def lane (w : Nat) (v : VWord) (i : Nat) : Nat := v.toNat / 2 ^ (w * i) % 2 ^ w

/-- The vector whose lanes of width w are given, lane 0 first (R29). -/
def ofLanes (w : Nat) (ls : List Nat) : VWord :=
  BitVec.ofNat 512 (ls.foldr (fun l acc => l % 2 ^ w + 2 ^ w * acc) 0)

/-- All lanes of width w, lane 0 first. -/
def lanesOf (w : Nat) (v : VWord) : List Nat := (List.range (512 / w)).map (lane w v)

/-- ceil of a quotient. -/
def ceilDiv (a b : Nat) : Nat := (a + b - 1) / b

/-- The first n for which p holds among 0 .. k - 1, tried in ascending order. -/
def firstBelow (k : Nat) (p : Nat → Bool) : Option Nat := (List.range k).find? p

end Sys2Proof.Machine
end

