-- ==== Sys2Proof/Config.lean ====
section
/-! DEFINITION. What the spec leaves to the hardware, to firmware or to the outside world: opaque constants that no proof can evaluate, and the fixed sizes of the part. -/

namespace Sys2Proof.Config

/-- Free number (log 5): the clk that pass beyond one between two steps; the argument is the step's free counter. -/
opaque elapsed : Nat → Nat

/-- Free choice (log 7): which entry a full TLB or CLB gives up (R334); the argument is the free counter. -/
opaque victim : Nat → Nat

/-- Free 64-bit value (log 5) of the free counter: bytes of another party that the spec leaves open. -/
opaque freeWord : Nat → BitVec 64

/-- The new line that routine n (16 to 63) leaves, of the image that loaded it, the line, the address and the two operands
(R178, log 9). -/
opaque routineLine : Nat → List (BitVec 8) → List (BitVec 8) → BitVec 64 → BitVec 64 → BitVec 64 → Nat → BitVec 8

/-- The 64-bit result of routine n (16 to 63), of the image that loaded it, the line, the address and the two operands
(R178, log 9). -/
opaque routineResult : Nat → List (BitVec 8) → List (BitVec 8) → BitVec 64 → BitVec 64 → BitVec 64 → BitVec 64

/-- A byte of a core's storage that a power-down has lost (R399): free counter, position. -/
opaque lostByte : Nat → Nat → BitVec 8

/-- Whether an FSHIP of a fixed routine (0 to 10) acts on 8 bytes, rather than 4 (R178, log 9). -/
opaque fshipWide : Bool

/-- The byte that a storage device holds at boot: port, namespace, block, offset (log 13). -/
opaque diskByte : Nat → Nat → Nat → Nat → BitVec 8

/-- Bytes of a slot record or core record that the spec gives no layout (R398, R399, log 11), by the record's words
and the offset. -/
opaque recordByte : List (BitVec 64) → Nat → BitVec 8

/-- The operands of an entry of the queue, record, object or watch section of an image, which carries them "in binary"
without a layout (R66, R265, log 10): section, entry, the section's bytes. -/
opaque operands : Nat → Nat → List (BitVec 8) → List Nat

/-- The bytes that the data section gives an object (R66, log 10): object number, the section's bytes. -/
opaque objectData : Nat → List (BitVec 8) → List (BitVec 8)

/-- Whether a stage is declared park=yes (R66), for which the stage word of R275 has no bit (log 10): stage, the bytes of the
stage section. -/
opaque stagePark : Nat → List (BitVec 8) → Bool

/-- What the route section says of a queue (R273), without a layout (log 10): queue, the section's bytes. Five lists: ring
kind and ring die; producer ends and consumer ends, each a stage followed by its rank; the dies crossed; the cores
crossed. -/
opaque routeEntry : Nat → List (BitVec 8) → List (List Nat)

/-- The links of the mesh that the routes of a section cross at an origin (R273, R413, log 10). -/
opaque routeLinks : List (BitVec 8) → Nat → Nat → List Nat

/-- A place that the launch controller chooses for an object id, object memory or extent list (R266, R267, log 26); it is
taken when it is free. -/
opaque place : Nat → Nat

/-- The SHA-384 hash of some bytes, by byte (R372, R374, log 14). -/
opaque sha384 : List (BitVec 8) → Nat → BitVec 8

/-- The public key that an image carries, Ed25519 (0) or ML-DSA-65 (1) (R372, log 14). -/
opaque imageKey : Nat → List (BitVec 8) → List (BitVec 8)

/-- Whether an image's signature of a kind, Ed25519 (0) or ML-DSA-65 (1), verifies with a key (R372, log 14). -/
opaque imageVerifies : Nat → List (BitVec 8) → List (BitVec 8) → Bool

/-- The version that an image states (R372, log 14). -/
opaque imageVersion : List (BitVec 8) → Nat

/-- The ROM's SHA-384 hash of Salward's public key of a kind, by byte (R372, log 14). -/
opaque romHash : Nat → Nat → BitVec 8

/-- The fused minimum version of an image kind: package controller, stack management, scrivener and supervisor firmware,
boot configuration, routine image (R372, log 14). -/
opaque fusedMinimum : Nat → Nat

/-- The bytes that are hashed to measure the loaded routines, or a partition's PARTCFG arguments (R374, log 14): words,
images. -/
opaque measured : List (BitVec 64) → List (List (BitVec 8)) → List (BitVec 8)

/-- A byte of the signature of a message by an identity key, Ed25519 (0) or ML-DSA-65 (1) (R374, log 14): free counter,
position. -/
opaque signature : Nat → List (BitVec 8) → Nat → Nat → BitVec 8

/-- Near-tier bytes that a die loses with a retired channel (R412, log 14). -/
opaque channelShare : Nat

/-- Which of its die's two stacks holds a near-tier line (R17, R411, log 14). -/
opaque stackHalf : Nat → Fin 2

/-- Which far-tier die holds a far-tier line (R10, R409, log 14). -/
opaque farDie : Nat → Fin 2

/-- The routines that an accepted routine image loads (R366, log 14). -/
opaque imageRoutines : List (BitVec 8) → List Nat

/-- Whether a spare row is left for a row of a stack (R411, log 14). -/
opaque spareRow : Nat → Nat → Bool

/-- The units of 64 KiB that the near-tier system space leaves between the firmware code regions of consecutive dies
(R165, R329, log 14). -/
opaque firmwareGap : Nat → Fin 2096896

/-- Where the 16 MiB firmware code region of a die begins in the near-tier system space of 1 TiB, in units of 64 KiB: the
regions of two dies do not meet (R165, R329, log 14). -/
def firmwareUnit : Nat → Nat
  | 0 => (firmwareGap 0).val
  | d + 1 => firmwareUnit d + 256 + (firmwareGap (d + 1)).val

/-- The base of the firmware code region of a die, a physical address (R329, log 14). -/
def firmwareBase (die : Nat) : Nat := 65536 * firmwareUnit die

/-- Where that region begins in the die's near tier of 128 GiB, in units of 64 KiB (R17, R329, log 14). -/
opaque firmwareUnitIn : Nat → Fin 2096897

/-- The offset of that region in the die's near tier (R329, log 14). -/
def firmwareOffset (die : Nat) : Nat := 65536 * (firmwareUnitIn die).val

/-- Which of the region-table entries still free covers the firmware code region of a die (R329, log 14). -/
opaque firmwareChoice : Nat → Nat

/-- The region-table entries of the firmware code regions of the first dies: each its own (R329). -/
def firmwareEntries : Nat → List Nat
  | 0 => []
  | d + 1 =>
    let taken := firmwareEntries d
    let free := (List.range 64).filter fun e => !taken.contains e
    taken ++ [free.getD (firmwareChoice d % free.length) 0]

/-- The region-table entry that covers the firmware code region of a die (R329). -/
def firmwareEntry (die : Nat) : Nat := (firmwareEntries 8).getD die 0

/-- Where the head that boot step 5 puts into SVEC of a core stands in the firmware code region (R329, R373, log 14). -/
opaque svecOffset : Nat → Fin 16777216

/-- The head address that boot step 5 puts into SVEC of a core of a die (R37, R329, R373). -/
def svec (die core : Nat) : BitVec 64 := 0xFFFF000000000000#64 + BitVec.ofNat 64 (firmwareBase die + (svecOffset core).val)

/-- The other region-table entries that the boot configuration and the package controller set up, by number and the
retired channels, each a stack and a channel (R172, R412, log 14). -/
opaque regionEntry : Nat → List (Nat × Nat) → BitVec 64 × BitVec 64

/-- The bytes of the firmware code region of a die, by offset (R329, log 14). -/
opaque firmwareByte : Nat → Nat → BitVec 8

/-- The serial number of the part (R366, log 14). -/
opaque serial : BitVec 64

/-- Bytes of a certificate chain or of a sensor's value in a telemetry record (R366, R409, log 14, log 31): command, byte
offset, free counter. -/
opaque reportByte : Nat → Nat → Nat → BitVec 8

/-- The length in bytes of the certificate chains after their first byte: they are not empty and end within 4 GiB (R366, log 14). -/
opaque certsMore : Fin 4294967296

/-- The length in bytes of the certificate chains (R366, log 14). -/
def certsLength : Nat := certsMore.val + 1

/-- Near-tier capacity of a die in bytes: 128 GiB (R17). -/
def nearBytes : Nat := 137438953472

/-- User scratchpad of a core (R163). -/
def spadBytes : Nat := 524288

/-- Offset of the porter allocation in the model's scratchpad storage of a core (R163). -/
def porterBase : Nat := 524288

/-- Offset of the supervisor strand's allocation in the model's scratchpad storage of a core (R385). -/
def supervisorBase : Nat := 528384

end Sys2Proof.Config
end

