-- ==== Sys2Proof/Machine/Tab.lean ====
section
/-! DEFINITION. Sparse tables as lists of (key, value) pairs in one canonical form: keys strictly rising, no value equal to what an unlisted key reads as. -/

namespace Sys2Proof

/-- The value listed under a key. -/
def Tab.find {α : Type} (k : Nat) : Tab α → Option α
  | [] => none
  | (k', v) :: t => if k = k' then some v else Tab.find k t

/-- The value under a key; an unlisted key reads as d. -/
def Tab.get {α : Type} (d : α) (k : Nat) (t : Tab α) : α := (Tab.find k t).getD d

/-- Lists v under k, in key order. -/
def Tab.insert {α : Type} (k : Nat) (v : α) : Tab α → Tab α
  | [] => [(k, v)]
  | (k', v') :: t =>
    if k < k' then (k, v) :: (k', v') :: t
    else if k = k' then (k, v) :: t
    else (k', v') :: Tab.insert k v t

/-- Removes the key. -/
def Tab.erase {α : Type} (k : Nat) : Tab α → Tab α
  | [] => []
  | (k', v') :: t => if k = k' then Tab.erase k t else (k', v') :: Tab.erase k t

/-- Writes v under k; the default is not listed. -/
def Tab.set {α : Type} [DecidableEq α] (d : α) (k : Nat) (v : α) (t : Tab α) : Tab α :=
  if v = d then Tab.erase k t else Tab.insert k v t

/-- The canonical form, below which every key of the table lies. -/
def Tab.wfFrom {α : Type} [DecidableEq α] (d : α) : Nat → Tab α → Bool
  | _, [] => true
  | lo, (k, v) :: t => decide (lo ≤ k) && decide (v ≠ d) && Tab.wfFrom d (k + 1) t

/-- The canonical form: keys strictly rising, no value equal to the default. -/
def Tab.wf {α : Type} [DecidableEq α] (d : α) (t : Tab α) : Bool := Tab.wfFrom d 0 t

end Sys2Proof
end

