-- ==== Sys2Proof/Machine/State.lean ====
section
/-! DEFINITION. The state of the whole package as plain data, the reasons a step can stop, and the state right after reset. -/

namespace Sys2Proof.Machine

/-- Why the machine stops with a fault. -/
inductive Fault where
  /-- Raised by the step when the agenda's or cursor's core number names no core (neither the mesh nor a scrivener). Safe:
  the hardware has no such core (R12, R14). -/
  | noSuchCore
deriving DecidableEq, Repr

/-- Why the machine refuses an instruction. -/
inductive Refusal where
  /-- Raised by the dispatch for an instruction without a meaning. Safe: nothing is claimed of it. -/
  | notModelled (mnemonic : String)
deriving DecidableEq, Repr

/-- The kinds of strand (R380). -/
inductive StrandKind where
  | inst | handler | triggered | porter | supervisor
deriving DecidableEq, Repr

/-- A strand's port binding (R52), its producer or consumer rank, and its token target (R304; 0 for none). -/
structure Port where
  queue : Nat
  out : Bool
  target : Word := 0
deriving DecidableEq, Repr

/-- A completion counter (R306): pending count and underflow. -/
structure Counter where
  pending : Nat := 0
  under : Bool := false
deriving DecidableEq, Repr

/-- Where an access or operation puts its result. -/
inductive Dest where
  | none
  | x (n : Nat)
  | v (n : Nat)
  | port (n : Nat)
deriving DecidableEq, Repr

/-- An active message under way (R236): handler offset, payload, sender's core and package, launch id, chain depth, the
partition it runs in, the core of this package that sent it (none for another package), and the access of the sender that
its end acknowledges. -/
structure Message where
  handler : Nat
  payload : List Word
  sender : Nat
  senderPkg : Nat
  lid : Nat
  depth : Nat
  part : Option Nat
  source : Option Nat
  gen : Nat
  seq : Nat
deriving DecidableEq, Repr

/-- What an outstanding access does when it is performed; `chunk` is the bytes of one element of a vector access (R225), and
a store is performed element by element. -/
inductive AccOp where
  | load (size : Nat) (signed : Bool)
  | loadVec (chunk : Nat)
  | store (chunk : Nat)
  | atomic (op : AmoOp) (wide : Bool) (place : Nat) (b expect : Word)
  | get (size : Nat)
  | put (block : Bool)
  | ramo (op : AmoOp) (wide : Bool) (place : Nat) (b expect : Word)
  | amsg (m : Message) (core : Nat) (pkg : Nat) (cn : Option Nat)
  | push (queue : Nat)
  | fship (routine : Nat) (op1 op2 : Word) (st : Nat) (cn : Option Nat)
  | trim (slot tile pool oid key : Nat)
deriving DecidableEq, Repr

/-- An outstanding access of a strand, issued and not yet complete (R189, R190, R219). `reads` pairs a byte of the
result with a memory cell, and `got` pairs one with the byte that has been read; `writes` pairs a memory cell with the byte
to write. Parts that are performed leave `reads` and `writes` (R170, R220). `spans` are the object addresses and lengths. -/
structure Access where
  seq : Nat
  op : AccOp
  addr : Word
  ord : Ord
  scope : Scope
  reads : List (Nat × Nat)
  writes : List (Nat × Byte)
  got : List (Nat × Byte) := []
  spans : List (Word × Nat) := []
  dest : Dest
  base : VWord
  pkg : Option Nat
  performed : Bool
  dropped : Bool
  value : Word
  /-- the value read has an uncorrectable error (R382) -/
  bad : Bool := false
  /-- an AMSG has reached its core, and its run has not ended (R236) -/
  arrived : Bool := false
deriving DecidableEq, Repr

/-- What a strand that cannot go on waits for besides the conditions that its next instruction tests itself. -/
inductive Wait where
  /-- a TLB fill of a page (R334) -/
  | fill (page : Nat)
  /-- the closing of the barrier round that the strand arrived at (R309) -/
  | barrier
  /-- the departure from a closed round -/
  | depart
  /-- the acknowledgements of a removal of TLB or CLB entries (R340, R355) -/
  | removal
  /-- the issue of the others after YIELD, or a clk (R311); none until the step has taken who is ready -/
  | yielding (others : Option (List Nat)) (till : Nat)
deriving DecidableEq, Repr

/-- What a coordinate store has in hand between its steps: a tile taken from a pool and filled, for the parent entry of a
volume at a physical address (R351). -/
inductive TreeWork where
  | tile (oid slot tile pool : Nat)
deriving DecidableEq, Repr

/-- A ctrim that has turned its leaf BUSY and waits for the rest of the trim before it retires (R354): its address and
coordinate word, the sequence number of the trim, and the pool. -/
structure Trimming where
  pc : Word
  coord : Word
  seq : Nat
  pool : Nat
deriving DecidableEq, Repr

/-- The wake condition of a parked strand (R310, R283). -/
inductive Wake where
  | counter (c : Nat) (t : Word)
  | word (addr : Word) (total : Word)
  | queue (port : Nat)
  | clock (t : Word)
  | fill (page : Nat)
deriving DecidableEq, Repr

/-- How far the balancer's retirement of an elastic strand has come (R287). -/
inductive Retiring where
  | no | marked | closed | eos | spent
deriving DecidableEq, Repr

/-- Strand state (R22), with the state the later chapters give a strand. -/
structure Strand where
  kind : StrandKind
  gen : Nat
  stage : Nat
  rank : Nat
  lid : Nat
  xs : Tab Word := []
  vs : Tab VWord := []
  ports : Tab Port := []
  e5 : Word := 0
  counters : Tab Counter := []
  ld : Nat := 0
  st : Nat := 0
  cp : Nat := 0
  tl : Nat := 0
  remote : Nat := 0
  pc : Word := 0
  fstat : Word := 0
  srcnt : Word := 0
  /-- poisoned registers (x n as n, v n as 64 + n) with ECAUSE.detail and EVALUE (R382) -/
  poison : Tab (Nat × Word) := []
  /-- registers that an access or engine still owes a value (x n as n, v n as 64 + n) -/
  owed : List Nat := []
  undeliverable : Bool := false
  drops : Nat := 0
  firstDrop : Word := 0
  level : Nat := 0
  /-- the clk since which the strand has been ready and passed over (R280) -/
  since : Option Nat := none
  aged : Bool := false
  /-- a PARK has found no free park area: the strand waits in its slot for the same condition (R283) -/
  staying : Bool := false
  depth : Nat := 0
  /-- claim of a triggered strand: die, entry, position, still held (R320, R321) -/
  claim : Option (Nat × Nat × Nat) := none
  /-- drain of a row handler: operation id and row (R146) -/
  drain : Option (Nat × Nat) := none
  /-- the strand whose ports a row handler uses (R146) -/
  acts : Option Nat := none
  message : Option Message := none
  pend : List Access := []
  nextSeq : Nat := 0
  wait : Option Wait := none
  /-- the pages that the instruction in hand has been declined, with each decline's ans, until it takes effect or traps
  (R336) -/
  declines : List (Nat × Nat) := []
  wake : Option Wake := none
  work : Option TreeWork := none
  /-- the ctrim that has begun and not retired (R354) -/
  trimming : Option Trimming := none
  spadBase : Nat := 0
  spadSize : Nat := 4096
  /-- a QFENCE holds back later pushes until the earlier ones have arrived (R303) -/
  qfence : Bool := false
  retiring : Retiring := .no
  elastic : Bool := false
  /-- the program counter was written by ERET and is yet to be checked by R37 (R387) -/
  resumed : Bool := false
deriving DecidableEq, Repr

/-- A translation in a TLB (R335); obase, pbase and limit in bytes; for a volume pbase is its descriptor's address. -/
structure TlbEntry where
  oid : Nat
  obase : Nat
  sc : Nat
  kind : Nat
  rd : Bool
  wr : Bool
  ex : Bool
  pbase : Nat
  limit : Nat
deriving DecidableEq, Repr

/-- A CLB translation (R353): volume object id, tile key, tile address. -/
structure ClbEntry where
  oid : Nat
  key : Nat
  tile : Nat
deriving DecidableEq, Repr

/-- A miss record (R337); page = object id * 2^32 + offset [47:16]. -/
structure Miss where
  page : Nat
  need : Nat
  num : Nat
  waiters : Nat
  read : Bool
deriving DecidableEq, Repr

/-- A cluster (R14): second-level TLB and the scrivener's pending records, oldest first. -/
structure Cluster where
  tlb : List TlbEntry := []
  misses : List Miss := []
deriving DecidableEq, Repr

/-- A valid range-lock entry (R207) and the operation that holds it. -/
structure RangeLock where
  index : Nat
  op : Nat
  written : Bool
  spad : Bool
  chan : Option Nat
  slot : Nat
  engine : Nat
  first : Nat
  span : Nat
  base : Nat := 0
  size : Nat := 0
deriving DecidableEq, Repr

/-- A beat on its way to a channel (R211), with the cells of the arrival word that it adds to. -/
structure Beat where
  bytes : List Byte
  arr : List Nat := []
deriving DecidableEq, Repr

/-- The strand that issued a SEND, as its writes are ordered (R189, R204): generation, the place of the SEND in its program
order, and whether it was a porter strand. -/
structure Issuer where
  gen : Nat
  seq : Nat
  porter : Bool
deriving DecidableEq, Repr

/-- An arrival-word add that a delivered beat has left (R211): source core, operation and issuer, the word's address and
cells, count, scope, chain depth. -/
structure Add where
  srcCore : Nat
  op : Nat
  issuer : Issuer
  arr : Word
  cells : List Nat
  count : Nat
  scope : Scope
  depth : Nat
deriving DecidableEq, Repr

/-- A SEND transfer into a channel (R244): its source operation and issuer, destination strand and bytes that have
arrived. -/
structure Transfer where
  srcCore : Nat
  op : Nat
  issuer : Issuer
  gen : Nat
  slot : Nat
  off : Nat
  total : Nat
  swz : Nat
  arr : Word
  scope : Scope
  depth : Nat
  beats : List Beat
  dest : Nat := 0
deriving DecidableEq, Repr

/-- An inbound channel (R244); adds that its delivered beats have left are performed in any order (R211). -/
structure Channel where
  busy : Bool := false
  slot : Nat := 0
  stop : Nat := 0
  wp : Nat := 0
  current : Option Transfer := none
  waiting : List Transfer := []
  adds : List Add := []
deriving DecidableEq, Repr

/-- What the spill buffer of a pre-empted core holds, in arrival order (R396): a message, or beats for a channel. -/
inductive Spill where
  | message (m : Message)
  | beats (chan : Nat) (t : Transfer)
deriving DecidableEq, Repr

/-- The kinds of tile operation (R132). -/
inductive TileKind where
  | zero | mma | mmas | mmax | lacc | sacc | drain | drainHandler
deriving DecidableEq, Repr

/-- A tile operation from acceptance to completion (R132): the values it took, and its progress. -/
structure TileOp where
  id : Nat
  slot : Nat
  gen : Nat
  kind : TileKind
  acc : Nat
  a : Word := 0
  b : Word := 0
  sa : Word := 0
  sb : Word := 0
  cfg : Word := 0
  amax : Word := 0
  handler : Word := 0
  zero : Bool := false
  sel : Nat := 0
  dest : Nat := 0
  queue : Nat := 0
  dtype : ElemTy := .f32
  rm : Rnd := .rne
  sat : Bool := false
  pc : Word := 0
  srcnt : Word := 0
  seed : Word := 0
  cn : Option Nat := none
  depth : Nat := 0
  spadBase : Nat := 0
  spadSize : Nat := 0
  seq : Nat := 0
  stage : Nat := 0
  lid : Nat := 0
  rank : Nat := 0
  level : Nat := 0
  ports : Tab Port := []
  row : Nat := 0
  chunk : Nat := 0
  /-- elements of the row that have been pushed (R144) -/
  part : Nat := 0
  /-- the elements of A, when every row repeats them, of B and the scales of B that the chunk uses (R140) -/
  bufA : List Nat := []
  bufB : List Nat := []
  bufS : List Nat := []
  max : BitVec 32 := 0
  amaxDone : Bool := true
  amaxFault : Option Word := none
  rowsDone : Nat := 0
  wait : Option (Nat × Nat) := none
deriving DecidableEq, Repr

/-- The tile unit of a dense core (R131): accumulators by 4096 a + 64 i + j, configuration words by 3 k + {0, 1, 2}, the
accepted operations (the head is the one the unit works on), the operations whose unit part has ended, and a fault found
and not yet recorded. -/
structure TileUnit where
  acc : Tab (BitVec 32) := []
  tset : Tab Word := []
  rowprog : Word := 0
  queue : List TileOp := []
  ended : List TileOp := []
  fault : Option Word := none
  stopValue : Word := 0
  /-- the stop has been taken as a trap (R151, R395) -/
  taken : Bool := false
  bad : List Nat := []
deriving DecidableEq, Repr

/-- A fibre of the merge unit (R154). -/
structure Fibre where
  isQueue : Bool
  queue : Nat
  gen : Nat
  port : Nat
  count : Nat
  off : Nat
  pos : Nat := 0
  last : Option Nat := none
deriving DecidableEq, Repr

/-- The active merge run (R155). -/
structure MergeRun where
  slot : Nat
  gen : Nat
  op : Nat
  toPort : Bool
  out : Nat
  tag : Nat
  cn : Option Nat
  spadBase : Nat
  spadSize : Nat
  seq : Nat
  rank : Nat
  /-- the coordinate in progress, the fibre it has come to, and the sum so far (R156) -/
  cur : Option Nat := none
  fibre : Nat := 0
  sum : Option (BitVec 32) := none
  fault : Option Word := none
deriving DecidableEq, Repr

/-- The merge unit of a sparse core (R153, R157). -/
structure MergeUnit where
  fibres : List Fibre := []
  spadBase : Nat := 0
  spadSize : Nat := 4096
  stopped : Bool := false
  order : Bool := false
  mismatch : Bool := false
  fault : Bool := false
  segs : Nat := 0
  pairs : Nat := 0
  stopAsked : Bool := false
  run : Option MergeRun := none
  /-- runs that an error has ended and whose strand has not yet trapped (R159) -/
  failed : List MergeRun := []
deriving DecidableEq, Repr

/-- A destination of a SEND (R242, R243): block dealing by (d, nd, bsize), and whether its transfer has ended. -/
structure SendDest where
  core : Nat
  slot : Nat
  gen : Nat
  chan : Nat
  off : Nat
  total : Nat
  d : Nat
  nd : Nat
  bsize : Nat
  ended : Bool := false
deriving DecidableEq, Repr

/-- A reference in flight (R247): its index, the cells that it names, the offsets of the lines still to be read, and what the
others held. -/
structure Fetch where
  idx : Word
  cells : List Nat
  unread : List Nat
  flight : List (Nat × List Byte) := []
deriving DecidableEq, Repr

/-- The engine commands that work in steps (R238). -/
inductive EngineKind where
  | copy | send | refs | sread | swrite
deriving DecidableEq, Repr

/-- An engine operation in progress (R238 to R249). -/
structure EngineOp where
  id : Nat
  kind : EngineKind
  slot : Nat
  gen : Nat
  lid : Nat
  seq : Nat
  reg : Nat
  cn : Option Nat
  scope : Scope
  depth : Nat
  spadBase : Nat
  spadSize : Nat
  src : Word := 0
  fromSpad : Bool := false
  dst : Word := 0
  len : Nat := 0
  pkg : Option Nat := none
  arr : Word := 0
  swz : Nat := 0
  dests : List SendDest := []
  size : Nat := 0
  signed : Bool := false
  row : Bool := false
  qin : Nat := 0
  qout : Nat := 0
  ring : Nat := 0
  slots : Nat := 1
  placed : Nat := 0
  port : Nat := 0
  nsid : Nat := 0
  lba : Nat := 0
  count : Nat := 0
  sector : Nat := 0
  bytes : Nat := 0
  cause : Nat := 0
  detail : Nat := 0
  stop : Option Word := none
  dead : Bool := false
  /-- the fault has been taken: the operation resumes at the next ERET (R239) -/
  taken : Bool := false
  rank : Nat := 0
  /-- the port of a stream's index queue -/
  portIn : Nat := 0
  /-- the sector in progress: source and destination cells, the cells of the arrival word (R245), the beats that are still
  to be read, and those read and not yet written (R239, R241) -/
  srcCells : List Nat := []
  dstCells : List Nat := []
  arrCells : List Nat := []
  unread : List Nat := []
  flight : List (Nat × List Byte) := []
  /-- a stream's references in flight, oldest first, of the indices at the head of its index queue (R17, R247) -/
  fetches : List Fetch := []
  /-- arrival-word adds that are still to be performed (R210), and whether one met an uncorrectable error (R240) -/
  adds : Nat := 0
  lost : Bool := false
  wait : Option (Nat × Nat) := none
deriving DecidableEq, Repr

/-- An event held for the supervisor (R389). -/
inductive HeldEvent where
  | watchdog (lid : Nat)
  | hostInterrupt (lid reason : Nat)
  | preempt (lid reason : Nat)
  | runaway (value : Word)
  | undeliverable (slot : Nat)
deriving DecidableEq, Repr

/-- An entry of a core's route table (R273): the ring kind and die of a queue, its producer and consumer ends as (stage, rank)
pairs, and the dies and cores its elements cross, relative to the rectangle's origin. -/
structure RouteEntry where
  kind : Nat
  die : Nat
  producers : List (Nat × Nat)
  consumers : List (Nat × Nat)
  dies : List Nat
  cores : List Nat
deriving DecidableEq, Repr

/-- Core state (R30) with the units, engines and buffers of the core. -/
structure Core where
  ecause : Word := 0
  evalue : Word := 0
  epc : Word := 0
  estrand : Word := 0
  wide : Bool := false
  svec : Word := 0
  rlocksel : Nat := 0
  wsel : Nat := 0
  vhandle : Word := 0
  locks : List RangeLock := []
  tlb : List TlbEntry := []
  clb : List ClbEntry := []
  channels : Tab Channel := []
  tile : TileUnit := {}
  merge : MergeUnit := {}
  ops : List EngineOp := []
  nextOp : Nat := 0
  /-- user scratchpad by position, then the porter and the supervisor allocation (R163, R385) -/
  spad : Tab Byte := []
  /-- record page (R164) -/
  recPage : Tab Byte := []
  /-- scratchpad and record-page bytes with an uncorrectable error (R404): position, 2^20 + offset for the page -/
  bad : List Nat := []
  frozen : Bool := false
  halted : Bool := false
  preempted : Bool := false
  supRunning : Bool := false
  held : List HeldEvent := []
  inbox : List Message := []
  /-- the page that the check of the next message's handler waits for, or its decline (R236, R336) -/
  porterWait : Option (Nat × Nat) := none
  spill : List Spill := []
  /-- the launch that holds the core -/
  lid : Option Nat := none
  /-- reserved slots (R270): slot number to stage id -/
  reserved : Tab Nat := []
  /-- scratchpad allocation of each slot (R163): base and size -/
  alloc : Tab (Nat × Nat) := []
  /-- the route table that the launch controller loads (R273) -/
  routes : List RouteEntry := []
  /-- strands whose state is being saved to a park area: area and the slot still busy (R284) -/
  parking : List (Nat × Nat) := []
  /-- slots whose strand a context save has vacated (R398) -/
  vacated : List Nat := []
  /-- the core's copies of the saved strands' slot records, by slot (R398) -/
  copies : Tab (List Byte) := []
  /-- a PREEMPT with reason 2 is being handled: its ERET ends pre-emption (R394) -/
  restoring : Bool := false
  /-- pre-emption has ended, and what waited to start is to start before a strand of the core issues (R401) -/
  resuming : Bool := false
  /-- the cause in hand is WATCHDOG or HOST_INTERRUPT, where act has no effect (R392) -/
  noAct : Bool := false
  /-- where the round robin of a level goes on: the slot after the one that issued last, by level; 4 is the aged level
  (R280) -/
  turns : Tab Nat := []
  poweredDown : Bool := false
  /-- its tile and vector units are powered down (R414) -/
  unitsDown : Bool := false
deriving DecidableEq, Repr

/-- A tracked granule (R319): what its trigger reports, and the changes coalesced after its start. -/
structure Track where
  pos : Nat
  granule : Nat
  overflow : Bool
  running : Bool
  stamp : Nat
  count : Nat
  sat : Bool
  word : Nat
  before : Word
  after : Word
  marks : Nat
  depth : Nat
  lateCount : Nat := 0
  lateSat : Bool := false
  lateWord : Nat := 0
  lateBefore : Word := 0
  lateAfter : Word := 0
  lateMarks : Nat := 0
  lateDepth : Nat := 0
deriving DecidableEq, Repr

/-- A watch-table entry (R316) with its tracking and counts (R319, R323, R325). -/
structure WatchEntry where
  start : Word
  granules : Nat
  climit : Nat
  rate : Nat
  lid : Nat
  stage : Nat
  number : Nat
  armed : Bool
  why : Nat
  /-- when `why` was set, to tell the most recent disarm of a watch (R325) -/
  whyAt : Nat := 0
  ovf : Bool
  ovfCount : Nat
  ovfDepth : Nat
  /-- the granules of the range homed on this die: cell of the first byte, object address -/
  cells : List (Nat × Word)
  tracks : List Track
  silent : Nat
  dropped : Nat
  started : Nat
  coalesced : Nat
  window : Nat
  windowCount : Nat
deriving DecidableEq, Repr

/-- A compute die: watch table, issue duty in quarters and the limits that set it, by power (0), coolant (1) and
temperature (2) (R414, R415), thermal state, capacity (R412), counters (R409). Dies 8 and 9 are the far-tier dies, of which
only the last parts are used. -/
structure Die where
  watch : Tab WatchEntry := []
  duty : Nat := 4
  limits : Tab Nat := []
  unitsDown : Bool := false
  unusable : Bool := false
  near : Nat := 137438953472
  counters : Tab Nat := []
  scrubs : Nat := 0
deriving DecidableEq, Repr

/-- A partition (R330, R369). -/
structure Partition where
  dies : Nat
  carve : Nat
  otbase : Nat
  otcount : Nat
  partreg : Word
  peers : Nat
  ports : Nat
  queues : Word
  /-- the argument words of the PARTCFG that set it (R374) -/
  args : List Word := []
  nextLid : Nat := 1
  /-- memory that the launch controller has given out (R267): physical base, length, owner image -/
  taken : List (Nat × Nat × Nat) := []
deriving DecidableEq, Repr

/-- An element of a queue (R9, R294): tag, data (none while a load still owes it), producer generation, and for a token
the consumers that have not taken it (R297). -/
structure Elem where
  tag : Nat
  data : Option Word
  gen : Nat
  rank : Nat
  seq : Nat
  left : List Nat := []
  bad : Bool := false
  /-- pushed by an engine, not by an instruction of the strand (R303) -/
  engine : Bool := false
  /-- how many elements after it become visible with it (R129) -/
  batch : Nat := 0
  /-- the handler drain whose rows keep their order in the queue (R148) -/
  drain : Option Nat := none
deriving DecidableEq, Repr

/-- A producer that waits for a credit (R295): rank, generation, and the operation of an engine that pushes for it. -/
structure Waiter where
  rank : Nat
  gen : Nat
  op : Option Nat := none
deriving DecidableEq, Repr

/-- A queue (R293 to R297). -/
structure Queue where
  gen : Nat
  lid : Nat
  kind : Nat
  die : Nat
  depth : Nat
  ring : List Elem := []
  /-- pushed and not yet arrived, oldest first -/
  transit : List Elem := []
  /-- held behind a producer's own token (R288), oldest first -/
  held : List Elem := []
  /-- the set of producers and of consumers: generation and rank -/
  producers : List (Nat × Nat) := []
  /-- generations of the producers that have exited: what they pushed is still theirs (R288) -/
  gone : List Nat := []
  consumers : List (Nat × Nat) := []
  /-- tokens pushed since the last one of their tag passed (R288) -/
  round : List Elem := []
  coalesce : Bool := false
  credits : Nat := 0
  returning : Nat := 0
  /-- producers that wait for a credit, credits granted to a generation, rank served last (R295) -/
  waiters : List Waiter := []
  grants : List Nat := []
  lastRank : Nat := 0
  ended : Bool := false
  /-- the core of the consumer that left last, where a dropped push was to go (R206, R390) -/
  dest : Nat := 0
  /-- producers one of whose pushes was dropped (R206) -/
  cut : List Nat := []
  nextSeq : Nat := 0
deriving DecidableEq, Repr

/-- A stage of a launch: its stage word and entry (R265, R275), its cores E and the balancer's samples (R286). -/
structure StageInfo where
  entry : Nat
  spad : Nat
  kind : Nat
  least : Nat
  most : Nat
  elastic : Bool
  wide : Bool
  prio : Nat
  reserve : Nat
  park : Bool
  cores : List Nat := []
  above : Nat := 0
  below : Nat := 0
  /-- the last sample's number (R286) -/
  sampled : Nat := 0
deriving DecidableEq, Repr

/-- A queue directive of an image (R66, R293). -/
structure QueueInfo where
  fromStage : Nat
  fromPort : Nat
  toStage : Nat
  toPort : Nat
  depth : Nat
deriving DecidableEq, Repr

/-- An object or volume directive of an image (R66): rights, home, placement, data, and a volume's shape. For a volume
that passed R347, `size` is its tree depth and `stride` its dimension count. -/
structure ObjectInfo where
  isVolume : Bool
  size : Nat
  writable : Bool
  far : Bool
  home : List Nat
  stride : Nat
  carve : Bool
  llc : Nat
  ship : Bool
  watchable : Bool
  data : List Byte
  fields : List Nat := []
  extent : List Nat := []
  elem : Nat := 0
  tile : List Nat := []
  background : Word := 0
  pool : Nat := 0
deriving DecidableEq, Repr

/-- A watch directive of an image (R66). -/
structure WatchInfo where
  object : Nat
  offset : Nat
  size : Nat
  handler : Nat
  coalesce : Nat
  rate : Nat
deriving DecidableEq, Repr

/-- A pipeline image as the launch controller reads it (R265). -/
structure Image where
  width : Nat
  height : Nat
  stages : List StageInfo
  queues : List QueueInfo
  /-- shape records: record number, object number, then the 64-byte record's words with the address word 0 (R276) -/
  records : List (Nat × Nat × List Word)
  /-- the operands of the shape records (R66) -/
  recordFields : List (List Nat) := []
  objects : List ObjectInfo
  watches : List WatchInfo
  code : List Byte
  /-- the route section (R273) -/
  routes : List Byte
deriving DecidableEq, Repr

/-- An image whose objects exist (R266): partition, image object address, code object id, object addresses. -/
structure Loaded where
  part : Nat
  addr : Word
  code : Nat
  objects : List Word
deriving DecidableEq, Repr

/-- A round of a stage's barrier (R309): participants, arrivals, by generation. -/
structure Round where
  stage : Nat
  members : List Nat
  arrived : List Nat
deriving DecidableEq, Repr

/-- Where a launch stands. -/
inductive Phase where
  | waiting | running | ending
deriving DecidableEq, Repr

/-- A launch (R261, R268, R269), from its packet to its end. -/
structure Launch where
  lid : Nat
  part : Nat
  image : Word
  seed : Word
  status : Word
  /-- host queue and packet number, or none for a launch of a strand (R314) -/
  packet : Option (Nat × Nat)
  auto : Bool
  px : Nat
  py : Nat
  args : List Word
  phase : Phase
  code : Nat := 0
  img : Image
  stages : List StageInfo := []
  codeOid : Nat := 0
  objects : List Word := []
  queues : List Nat := []
  rounds : List Round := []
  /-- bytes of ring and spill buffer taken from each die's carve (R272) -/
  carve : Tab Nat := []
  /-- links that the routes cross (R273, R413) -/
  links : List Nat := []
  started : Nat := 0
  /-- clk at which its first strand started (R264) -/
  ran : Option Nat := none
  /-- clk of the launch's last movement (R290) -/
  moved : Nat := 0
deriving DecidableEq, Repr

/-- A page move in a migration engine (R342, R343): requester, target register, page, new physical page. -/
structure Move where
  id : Nat
  engine : Nat
  part : Nat
  core : Nat
  gen : Nat
  reg : Nat
  addr : Word
  oid : Nat
  off : Nat
  target : Nat
  code : Nat
deriving DecidableEq, Repr

/-- A started packet of a host queue (R258). -/
structure Packet where
  num : Nat
  op : Nat
  var : Bool
  intr : Bool
  words : List Word
  finished : Bool
  silent : Bool := false
deriving DecidableEq, Repr

/-- A host command queue (R255). -/
structure HostQueue where
  qbase : Word := 0
  enable : Bool := false
  lsize : Nat := 0
  ptra : Word := 0
  rptr : Nat := 0
  halt : Bool := false
  hcode : Nat := 0
  lerr : Nat := 0
  done : Nat := 0
  /-- the write pointer as last read; none before the first poll -/
  wptr : Option Nat := none
  packets : List Packet := []
  nextNum : Nat := 0
deriving DecidableEq, Repr

/-- A window write that waits (R181, R367): aperture, the object address and partition that it found, and its bytes. -/
structure StalledWrite where
  aperture : Nat
  addr : Word
  part : Nat
  bytes : List Byte
deriving DecidableEq, Repr

/-- The endpoint and the mailbox (R364 to R366). -/
structure HostSide where
  queues : Tab HostQueue := []
  mbd : Tab Word := []
  busy : Bool := false
  lost : Bool := false
  tag : Nat := 0
  detail : Nat := 0
  code : Nat := 0
  /-- results of the command in progress: code, detail, data words -/
  result : Option (Nat × Nat × List (Nat × Word)) := none
  cmdTag : Nat := 0
  intMbox : Bool := false
  intEvent : Bool := false
  /-- MSI-X table words by offset, vectors pending under a mask, vectors raised since reset -/
  msix : Tab Word := []
  msixPending : List Nat := []
  raised : List Nat := []
  /-- window apertures: object address and partition (R367) -/
  windows : Tab (Word × Nat) := []
  /-- what the last window read returned -/
  readData : List Byte := []
  /-- window writes that wait for a page to finish moving, oldest first (R181, R367) -/
  stalled : List StalledWrite := []
  /-- host memory, the environment's -/
  mem : List Host.Cell := []
deriving DecidableEq, Repr

/-- A package event (R366): code, word 1, detail. -/
structure PkgEvent where
  code : Nat
  word : Word
  detail : Word
deriving DecidableEq, Repr

/-- An entry of a stack's repair record (R411). -/
structure Repair where
  kind : Nat
  row : Nat
deriving DecidableEq, Repr

/-- The package controller's state and what boot fixed. -/
structure Package where
  boot : Nat := 0
  id : Nat := 0
  peermap : Tab Nat := []
  events : List PkgEvent := []
  overflow : Bool := false
  farBytes : Nat := 0
  cxlPorts : List Nat := []
  rootPorts : List Nat := []
  portsDown : List Nat := []
  namespaces : List Namespace := []
  /-- storage contents by (port, nsid, block): the part's view of the devices -/
  disk : List (Nat × Nat × Nat × List Byte) := []
  fences : List Nat := []
  /-- loaded routines, each with the image that loaded it (R178) -/
  routines : Tab (List Byte) := []
  repairs : Tab (List Repair) := []
  /-- spare banks and TSVs that boot has brought in for good (R411) -/
  applied : Tab (List Repair) := []
  /-- channels whose spare bank is in use, TSVs shifted by channel, and lanes shifted by link (R412); a channel is
  64 · stack + channel -/
  spared : List Nat := []
  tsvs : Tab Nat := []
  lanes : Tab Nat := []
  /-- corrections of a row, by stack · 2^32 + page (R411) -/
  rowErrors : Tab Nat := []
  halfLinks : List Nat := []
  downLinks : List Nat := []
  bootClk : Nat := 0
  /-- what the boot in progress or the last one has found (R373) -/
  report : Option BootReport := none
  /-- answers to inbound peer operations, oldest first: accepted, value (R371) -/
  peerReplies : List (Bool × Word) := []
  /-- inbound operations that wait, for a page to finish moving or for room, oldest first: port and operation (R181, R396) -/
  stalledPeers : List (Nat × PeerReq) := []
deriving DecidableEq, Repr

/-- An error in a memory or on a hop (R404): a corrected error, replay or retry of a counter of R409; a corrected error in a
row of HBM; a parity error in an entry of an L1 or second-level TLB or of a CLB; uncorrectable errors in a register, a queue's
element, a byte of a scratchpad or of the record page, an accumulator element, a range-lock entry, a reference engine's
buffer, and in the only copy of a line. -/
inductive Upset where
  | corrected (die counter : Nat)
  | row (addr : Nat)
  | tlb (core entry : Nat)
  | clusterTlb (cluster entry : Nat)
  | clb (core entry : Nat)
  | register (core place reg : Nat)
  | element (queue index : Nat)
  | scratch (core pos : Nat)
  | accumulator (core index : Nat)
  | lock (core : Nat)
  | reference (core op : Nat)
  | line (addr : Nat)
deriving DecidableEq, Repr

/-- What moves next (log 4): an event, a core's arbiter (R280), a scrivener's answer (R339), the next step of boot (R373),
a host or peer write that waited (R181), the host's write of its own memory, a new value of a region-table entry (R175), or
an error (R404). -/
inductive Act where
  | event (i : Instr)
  | arbiter (core : Nat)
  | scrivener (cluster : Nat)
  | boot
  | stalled
  | host (addr : Nat) (bytes : List Byte)
  | region (entry : Nat) (a b : Word)
  | upset (u : Upset)
deriving DecidableEq, Repr

/-- The core whose arbiter is next when the agenda is empty, the slot it tries, the header of the line that is executed,
and whether the last instruction tried was not ready; `others` marks the turn of everything that is no issue, and `turn`
counts those turns (log 4). -/
structure Cursor where
  core : Nat := 0
  slot : Nat := 0
  header : Half := 0
  stalled : Bool := false
  others : Bool := false
  turn : Nat := 0
deriving DecidableEq, Repr

/-- What a core record holds of a core: its number, its units and its local queues (R399). -/
structure SavedCore where
  core : Nat
  state : Core
  queues : Tab Queue
deriving DecidableEq, Repr

/-- The state of the package. Strands are listed by core * 256 + place: slots 0 to 17, 32 + a for park area a, 128 + s
for the strand saved from slot s. Memory cells are listed by home: (tier * 16 + member) * 2^48 + offset. -/
structure State where
  strands : Tab Strand := []
  cores : Tab Core := []
  clusters : Tab Cluster := []
  dies : Tab Die := []
  parts : Tab Partition := []
  launches : List Launch := []
  loaded : List Loaded := []
  queues : Tab Queue := []
  mem : List Host.Cell := []
  poisoned : List Nat := []
  regions : Tab (Word × Word) := []
  moves : List Move := []
  /-- what each core record saved of the units of its core, by the tag of its bytes (R399, log 11) -/
  records : Tab SavedCore := []
  /-- parked strands whose wake condition holds, in the order it came to hold (R284) -/
  woken : List Nat := []
  host : HostSide := {}
  pkg : Package := {}
  clk : Nat := 0
  nextGen : Nat := 1
  nextQueue : Nat := 0
  stamp : Nat := 0
  free : Nat := 0
  agenda : List Act := []
  cursor : Cursor := {}
deriving DecidableEq, Repr

/-- The state right after reset (R375): PERST# asserted, nothing powered kept; log 1 and log 3. -/
def State.reset : State := {}

end Sys2Proof.Machine
end

