-- ==== Sys2Proof/Machine/Ops.lean ====
section
/-! DEFINITION. The named operations over cores, strands, registers, scratchpad and memory cells, and the taking of traps and events. -/

namespace Sys2Proof.Machine

/-! Geometry (R10 to R16). Mesh core (px, py) is core py * 64 + px; the scrivener of cluster c of die d is 2048 + 16 d + c. -/

/-- Number of cores, scriveners included (R17). -/
def coreCount : Nat := 2176

/-- Scrivener cores run supervisor firmware only (R14). -/
def isScrivener (c : Nat) : Bool := 2048 ≤ c

/-- Core column (R12). -/
def pxOf (c : Nat) : Nat := c % 64

/-- Core row (R12). -/
def pyOf (c : Nat) : Nat := c / 64

/-- A dense core has an even px and a tile unit (R13). -/
def isDense (c : Nat) : Bool := !isScrivener c && c % 2 == 0

/-- A sparse core has an odd px and a merge unit (R13). -/
def isSparse (c : Nat) : Bool := !isScrivener c && c % 2 == 1

/-- The compute die of a core (R12). -/
def dieOf (c : Nat) : Nat :=
  if isScrivener c then (c - 2048) / 16 else pyOf c / 16 * 4 + pxOf c / 16

/-- The cluster of a core, counted over the package: die * 16 + cluster (R14). -/
def clusterOf (c : Nat) : Nat :=
  if isScrivener c then c - 2048 else dieOf c * 16 + pyOf c % 16 / 4 * 4 + pxOf c % 16 / 4

/-- e2 of a core (R15); a scrivener has no coordinates and reads 0. -/
def e2Of (c : Nat) : Nat := if isScrivener c then 0 else pyOf c * 256 + pxOf c

/-- The mesh cores of a die, in raster order (R270). -/
def coresOfDie (d : Nat) : List Nat :=
  (List.range 16).flatMap fun y => (List.range 16).map fun x => (d / 4 * 16 + y) * 64 + (d % 4 * 16 + x)

/-! Cores and strands. -/

/-- A core's state. -/
def State.core (s : State) (c : Nat) : Core := s.cores.get {} c

/-- Writes a core's state. -/
def State.setCore (s : State) (c : Nat) (v : Core) : State := { s with cores := s.cores.insert c v }

/-- A die's state. -/
def State.die (s : State) (d : Nat) : Die := s.dies.get {} d

/-- Writes a die's state. -/
def State.setDie (s : State) (d : Nat) (v : Die) : State := { s with dies := s.dies.insert d v }

/-- A cluster's state. -/
def State.cluster (s : State) (k : Nat) : Cluster := s.clusters.get {} k

/-- Writes a cluster's state. -/
def State.setCluster (s : State) (k : Nat) (v : Cluster) : State := { s with clusters := s.clusters.insert k v }

/-- The place number of a slot, park area or saved slot of a core. -/
def placeKey (core place : Nat) : Nat := core * 256 + place

/-- Slot of the porter strand (R380). -/
def porterSlot : Nat := 16

/-- Slot of the supervisor strand (R380). -/
def supervisorSlot : Nat := 17

/-- Place of park area a. -/
def parkPlace (a : Nat) : Nat := 32 + a

/-- Place of the strand saved from slot t. -/
def savedPlace (t : Nat) : Nat := 128 + t

/-- The supervisor strand as it stands before its first run (R385, log 3). -/
def supervisorStrand : Strand :=
  { kind := .supervisor, gen := 0, stage := 255, rank := 0, lid := 0,
    spadBase := Config.supervisorBase, spadSize := 4096 }

/-- The strand at a place; the supervisor slot always holds its strand (R385). -/
def State.strand (s : State) (core place : Nat) : Option Strand :=
  match s.strands.find (placeKey core place) with
  | some x => some x
  | none => if place = supervisorSlot then some supervisorStrand else none

/-- Puts a strand at a place. -/
def State.setStrand (s : State) (core place : Nat) (x : Strand) : State :=
  { s with strands := s.strands.insert (placeKey core place) x }

/-- Empties a place. -/
def State.dropStrand (s : State) (core place : Nat) : State :=
  { s with strands := s.strands.erase (placeKey core place) }

/-- The place and strand of a core's strand of a generation, wherever it stands: slot, park area or saved. Generation 0 is
the supervisor strand's; every other strand of the package has a generation of its own. -/
def State.byGen (s : State) (core gen : Nat) : Option (Nat × Strand) :=
  if gen = 0 then (s.strand core supervisorSlot).map fun x => (supervisorSlot, x)
  else match s.strands.find? (fun e => decide (e.1 / 256 = core) && decide (e.2.gen = gen)) with
  | some (k, x) => some (k % 256, x)
  | none => none

/-- The place and strand of a core's live strand of a generation; what an ended one has left outstanding is none (R206,
R387). -/
def State.liveGen (s : State) (core gen : Nat) : Option (Nat × Strand) := (s.byGen core gen).filter fun x => decide (x.1 < 160)

/-- Applies a change to a core's strand of a generation, if it is live (R284). -/
def State.onGen (s : State) (core gen : Nat) (f : Strand → Strand) : State :=
  match s.byGen core gen with
  | some (place, x) => s.setStrand core place (f x)
  | none => s

/-- The live strands of the package with core and place. -/
def State.live (s : State) : List (Nat × Nat × Strand) :=
  s.strands.map fun e => (e.1 / 256, e.1 % 256, e.2)

/-- User slots of a core by its mode (R24). -/
def userSlots (c : Core) : Nat := if c.wide then 8 else 16

/-- Whether a user slot of a core is free: it holds no strand, none is vacated from it (R398), no parking strand is
still being saved from it (R284), and the core is not frozen (R384). -/
def slotFree (s : State) (core slot : Nat) : Bool :=
  (s.strands.find (placeKey core slot)).isNone && !(s.core core).vacated.contains slot && !(s.core core).frozen
    && !(s.core core).parking.any (·.2 == slot)

/-- Number of parked strands of a core (R31). -/
def parkedCount (s : State) (core : Nat) : Nat :=
  (s.strands.filter fun e => e.1 / 256 == core && 32 ≤ e.1 % 256 && e.1 % 256 < 96).length

/-- STRANDCFG (R31): a slot from which a parked strand is still being saved is not occupied (the model's choice, log 87). -/
def strandcfg (s : State) (core : Nat) : Word :=
  let c := s.core core
  let occ := (List.range (userSlots c)).foldl (fun w t =>
    if (s.strands.find (placeKey core t)).isSome then w + 2 ^ t else w) 0
  put occ 24 ||| put (parkedCount s core) 8
    ||| putBit (s.strands.find (placeKey core porterSlot)).isSome 2 ||| putBit c.wide 0

/-! Launches and partitions. -/

/-- The launch of an id. -/
def State.launch (s : State) (part lid : Nat) : Option Launch :=
  s.launches.find? fun l => l.lid == lid && l.part == part && l.phase != .waiting

/-- The partition of a die (R330). -/
def partOfDie (s : State) (d : Nat) : Option Nat :=
  (s.parts.find? fun e => e.2.dies.testBit d).map (·.1)

/-- The partition of a core. -/
def partOf (s : State) (core : Nat) : Option Nat := partOfDie s (dieOf core)

/-- The launch that holds a core (R269). -/
def launchOf (s : State) (core : Nat) : Option Launch :=
  match (s.core core).lid, partOf s core with
  | some l, some p => s.launch p l
  | _, _ => none

/-- Replaces a launch. -/
def State.setLaunch (s : State) (l : Launch) : State :=
  { s with launches := s.launches.map fun m => if m.lid == l.lid && m.part == l.part && m.phase != .waiting then l else m }

/-- Notes a movement of a launch (R290): the watchdog's count of still clk starts again. -/
def noteLaunchMoved (s : State) (part lid : Nat) : State :=
  match s.launch part lid with
  | some l => s.setLaunch { l with moved := s.clk }
  | none => s

/-- Notes that a strand of a launch starts: its first one begins the count of its completion record (R264). -/
def noteRan (s : State) (l : Launch) : State :=
  s.setLaunch { l with ran := some (l.ran.getD s.clk) }

/-- Notes a movement of the launch that holds a core (R290). -/
def noteMoved (s : State) (core : Nat) : State :=
  match launchOf s core with
  | some l => s.setLaunch { l with moved := s.clk }
  | none => s

/-- Live instances of a stage of a launch in a partition (e7, R27); parked and saved strands are live. -/
def instanceCount (s : State) (part lid stage : Nat) : Nat :=
  (s.strands.filter fun e => e.2.kind == .inst && e.2.lid == lid && e.2.stage == stage
    && partOf s (e.1 / 256) == some part).length

/-! Registers (R22 to R28). -/

/-- An x register; x0 reads zero (R23). -/
def Strand.x (st : Strand) (n : Nat) : Word := if n = 0 then 0 else st.xs.get 0 n

/-- Writes an x register and clears its poison; a write to x0 is discarded (R23, R382). -/
def Strand.setX (st : Strand) (n : Nat) (v : Word) : Strand :=
  if n = 0 then st else { st with xs := st.xs.set 0 n v, poison := st.poison.erase n }

/-- A vector register. -/
def Strand.v (st : Strand) (n : Nat) : VWord := st.vs.get 0 n

/-- Writes a vector register and clears its poison. -/
def Strand.setV (st : Strand) (n : Nat) (v : VWord) : Strand :=
  { st with vs := st.vs.set 0 n v, poison := st.poison.erase (64 + n) }

/-- Whether a strand of this kind is a user strand (R327). -/
def Strand.isUser (st : Strand) : Bool := st.kind != .supervisor

/-- Whether the strand's registers have W8 shape (R24). -/
def wideShape (c : Core) (st : Strand) : Bool :=
  match st.kind with
  | .porter | .supervisor => false
  | _ => c.wide

/-- Whether a scalar specifier names a register that the shape has (R25). -/
def Reg.present (wide : Bool) : Reg → Bool
  | .x n => wide || n.val < 24
  | _ => true

/-- Whether a vector specifier names a register that the shape has (R25). -/
def vPresent (wide : Bool) (v : VReg) : Bool := wide || v.val < 16

/-- The environment registers (R27). -/
def envReg (s : State) (core : Nat) (st : Strand) (n : Nat) : Word :=
  let belongs := st.kind != .porter && st.kind != .supervisor
  let l := launchOf s core
  match n with
  | 0 => if belongs then BitVec.ofNat 64 st.rank else 0
  | 1 => if belongs then BitVec.ofNat 64 st.stage else 255
  | 2 => BitVec.ofNat 64 (e2Of core)
  | 3 => if belongs then BitVec.ofNat 64 st.lid else match l with | some l => BitVec.ofNat 64 l.lid | none => 0
  | 4 => match l with | some l => BitVec.ofNat 64 (s.clk - l.started) | none => 0
  | 5 => st.e5
  | 6 => BitVec.ofNat 64 (dieOf core)
  | _ => if belongs then BitVec.ofNat 64 (instanceCount s ((partOf s core).getD 0) st.lid st.stage) else 0

/-- A completion counter of a strand. -/
def Strand.counter (st : Strand) (n : Nat) : Counter := st.counters.get {} n

/-- Writes a completion counter. -/
def Strand.setCounter (st : Strand) (n : Nat) (c : Counter) : Strand :=
  { st with counters := st.counters.set {} n c }

/-- A completion subtracts 1 from the counter it names; at 0 it sets underflow (R306). -/
def Strand.complete (st : Strand) (cn : Option Nat) : Strand :=
  match cn with
  | none => st
  | some n =>
    let c := st.counter n
    if c.pending = 0 then st.setCounter n { c with under := true }
    else st.setCounter n { c with pending := c.pending - 1 }

/-! Scratchpad (R163, R187). -/

/-- The swizzle of a wrapped position (R187). -/
def swizzle (mode o : Nat) : Nat :=
  match mode with
  | 0 => o
  | 1 => o ^^^ (o / 128 % 8 * 16)
  | 2 => o ^^^ (o / 256 % 8 * 32)
  | _ => o ^^^ (o / 1024 % 16 * 64)

/-- The storage position of byte o of an allocation under a swizzle mode (R163, R187). -/
def spadPos (base size mode o : Nat) : Nat := base + swizzle mode (o % size)

/-- Reads n bytes of an allocation from offset o. -/
def spadRead (c : Core) (base size mode o n : Nat) : List Byte :=
  (List.range n).map fun i => c.spad.get 0 (spadPos base size mode (o + i))

/-- The storage positions of n bytes of an allocation from offset o. -/
def spadPlaces (base size mode o n : Nat) : List Nat := (List.range n).map fun i => spadPos base size mode (o + i)

/-- Writes bytes to an allocation from offset o: a store, a delivered beat, a row or a pair. An error mark goes with the value
that is written over (logs 47, 107). -/
def spadWrite (c : Core) (base size mode o : Nat) (bs : List Byte) : Core :=
  { c with
    spad := (bs.zipIdx.foldl (fun t p => t.set 0 (spadPos base size mode (o + p.2)) p.1) c.spad)
    bad := c.bad.filter fun p => !(spadPlaces base size mode o bs.length).contains p }

/-- The first byte of an access that has an uncorrectable error (R382, detail 1), as a wrapped offset. -/
def spadBad (c : Core) (base size mode o n : Nat) : Option Nat :=
  ((List.range n).find? fun i => c.bad.contains (spadPos base size mode (o + i))).map fun i => (o + i) % size

/-- Clears an allocation to zero (R163). -/
def spadClear (c : Core) (base size : Nat) : Core :=
  { c with spad := c.spad.filter fun e => e.1 < base || base + size ≤ e.1 }

/-! Memory cells and homes (R165, R168, R172 to R174). -/

/-- The cell number of an offset in a member's memory of a tier (0 near, 1 carve, 2 far). -/
def cellOf (tier member off : Nat) : Nat := (tier * 16 + member) * 2 ^ 48 + off

/-- The member that a cell lies in: die 0 to 7, or 8 for the far tier. -/
def memberOf (cell : Nat) : Nat := cell / 2 ^ 48 % 16

/-- The configured carve of a die in bytes (R168). -/
def carveOf (s : State) (d : Nat) : Nat :=
  match partOfDie s d with
  | some p => match s.parts.find p with
    | some q => q.carve * 16777216
    | none => 0
  | none => 0

/-- The end of a member's memory of a tier (R173). -/
def memberEnd (s : State) (tier member : Nat) : Nat :=
  match tier with
  | 0 => (s.die member).near
  | 1 => 67108864 + carveOf s member
  | _ => s.pkg.farBytes

/-- Members of a region entry, ascending (R172). -/
def members (a : Word) : List Nat := (List.range 9).filter fun k => bit a (40 + k)

/-- First system address of a region entry (R172). -/
def regionBase (a : Word) : Nat := bits a 31 0 * 65536

/-- Size in bytes of a region entry (R172). -/
def regionSize (b : Word) : Nat := bits b 63 32 * 65536

/-- Whether an entry is in use and passes R173. -/
def regionValid (s : State) (e : Word × Word) : Bool :=
  let (a, b) := e
  let tier := bits a 59 58
  let stride := bits a 53 49
  let ms := members a
  let count := ms.length
  let size := regionSize b
  let lbase := bits b 31 0 * 65536
  bit a 63 && decide (tier ≠ 3) && decide (bits a 57 56 ≠ 3) && decide (8 ≤ stride) && decide (stride ≤ 21)
    && !ms.isEmpty && !(bit a 48 && decide (1 < count)) && ((tier == 2) == (ms == [8]))
    && decide (size % (count * 2 ^ stride) = 0)
    && (ms.all fun m => decide (lbase + size / count ≤ memberEnd s tier m))
    && !(tier == 1 && decide (lbase < 67108864))

/-- The lowest-numbered valid entry that covers a system address (R173, R174). -/
def regionOf (s : State) (a : Nat) : Option (Nat × Word × Word) :=
  s.regions.find? fun e => regionValid s e.2 && decide (regionBase e.2.1 ≤ a)
    && decide (a < regionBase e.2.1 + regionSize e.2.2)

/-- home(a) (R174) within an entry: the cell of a system address. -/
def homeIn (e : Word × Word) (a : Nat) : Nat :=
  let (wa, wb) := e
  let ms := members wa
  let n := ms.length
  let t := 2 ^ bits wa 53 49
  let d := a - regionBase wa
  let m := d / t
  cellOf (bits wa 59 58) (ms.getD (m % n) 0) (bits wb 31 0 * 65536 + m / n * t + d % t)

/-- The cell of a physical address (R174). -/
def cellAt (s : State) (a : Nat) : Option Nat :=
  match regionOf s a with
  | some (_, e) => some (homeIn e a)
  | none => none

/-- Reserved ranges of the physical map, and the parts of it that do not respond (R165). -/
def reservedAddr (s : State) (a : Nat) : Bool :=
  if a < 0x010000000000 then false
  else if a < 0x020000000000 then true
  else if a < 0x020100000000 then
    decide (67108864 + carveOf s ((a - 0x020000000000) / 0x20000000) ≤ (a - 0x020000000000) % 0x20000000)
  else if a < 0x100000000000 then true
  else if a < 0x180000000000 then decide (s.pkg.farBytes ≤ a - 0x100000000000)
  else true

/-- Length of a firmware code region (R329). -/
def firmwareBytes : Nat := 16777216

/-- Whether the package has loaded its firmware (R373, step 5). -/
def firmwareLoaded (s : State) : Bool := decide (6 ≤ s.pkg.boot) && decide (s.pkg.boot ≤ 7)

/-- Whether a physical address lies in the firmware code region of a die (R329). -/
def inFirmware (s : State) (d a : Nat) : Bool :=
  firmwareLoaded s && decide (Config.firmwareBase d ≤ a) && decide (a < Config.firmwareBase d + firmwareBytes)

/-- Whether a physical address lies in some firmware code region. -/
def inAnyFirmware (s : State) (a : Nat) : Bool :=
  firmwareLoaded s && (List.range 8).any fun d => inFirmware s d a

/-- What a byte of memory reads as: the listed byte, or 0 (log 2). -/
def State.cell (s : State) (k : Nat) : Byte := Tab.get 0 k s.mem

/-- Writes a byte of memory in canonical form. -/
def State.setCell (s : State) (k : Nat) (b : Byte) : State := { s with mem := Tab.set 0 k b s.mem }

/-- The firmware code region that a cell lies in: die and offset (R329). -/
def firmwareCell (s : State) (k : Nat) : Option (Nat × Nat) :=
  if firmwareLoaded s then
    (firstBelow 8 fun d => decide (cellOf 0 d (Config.firmwareOffset d) ≤ k)
      && decide (k < cellOf 0 d (Config.firmwareOffset d) + firmwareBytes)).map
      fun d => (d, k - cellOf 0 d (Config.firmwareOffset d))
  else none

/-- The byte that a read of a cell returns: firmware where it is loaded (log 14), else memory. -/
def State.byteAt (s : State) (k : Nat) : Byte :=
  match firmwareCell s k with
  | some (d, o) => Config.firmwareByte d o
  | none => s.cell k

/-- Whether the line of a cell carries the poison marker (R405). -/
def isPoisoned (s : State) (k : Nat) : Bool := s.poisoned.contains (k / 64)

/-- Reads n bytes of physical memory, little-endian, as a number; a byte without home reads 0. -/
def physRead (s : State) (a n : Nat) : Nat :=
  ofLe ((List.range n).map fun i => match cellAt s (a + i) with
    | some k => s.byteAt k
    | none => 0)

/-- Writes bytes to physical memory, without watch or rights: the launch and package controllers' own writes. -/
def physWrite (s : State) (a : Nat) (bs : List Byte) : State :=
  bs.zipIdx.foldl (fun s p => match cellAt s (a + p.2) with
    | some k => s.setCell k p.1
    | none => s) s

/-! Traps and events (R378 to R392). -/

/-- The trap causes (R378). -/
inductive Cause where
  | illegal | lineMalformed | targetBad | falloff | privilege | misaligned | nonlocal | objBounds | objPermission
  | objAbsent | volRange | volPoolEmpty | volRemote | rangeLocked | counterOverflow | queueUnbound | tokenNoTarget
  | engineFault | memUncorrectable | ecall | ebreak | watchRunaway | undeliverable | repartBusy | handlerBlocked
  | watchdog | preempt | hostInterrupt
deriving DecidableEq, Repr

/-- The code of a cause (R378). -/
def Cause.code : Cause → Nat
  | .illegal => 0x01 | .lineMalformed => 0x02 | .targetBad => 0x03 | .falloff => 0x04 | .privilege => 0x05
  | .misaligned => 0x06 | .nonlocal => 0x07 | .objBounds => 0x08 | .objPermission => 0x09 | .objAbsent => 0x0A
  | .volRange => 0x0B | .volPoolEmpty => 0x0C | .volRemote => 0x0D | .rangeLocked => 0x0E | .counterOverflow => 0x0F
  | .queueUnbound => 0x10 | .tokenNoTarget => 0x11 | .engineFault => 0x12 | .memUncorrectable => 0x13
  | .ecall => 0x14 | .ebreak => 0x15 | .watchRunaway => 0x16 | .undeliverable => 0x17 | .repartBusy => 0x18
  | .handlerBlocked => 0x19 | .watchdog => 0x1A | .preempt => 0x20 | .hostInterrupt => 0x21

/-- ECAUSE (R379): act, detail, nest, async, cause. -/
def ecauseWord (act detail : Nat) (nest async : Bool) (c : Cause) : Word :=
  put act 62 ||| put detail 16 ||| putBit nest 11 ||| putBit async 10 ||| put c.code 0

/-- The kind code of a strand (R380). -/
def StrandKind.code : StrandKind → Nat
  | .inst => 0 | .handler => 1 | .triggered => 2 | .porter => 3 | .supervisor => 4

/-- ESTRAND for a strand in a slot (R380). -/
def estrandWord (st : Strand) (slot : Nat) : Word :=
  put (st.gen % 2 ^ 32) 32 ||| put st.stage 24 ||| put st.kind.code 16 ||| put slot 0

/-- ESTRAND for an event of no strand (R389): kind 15, slot 31. -/
def estrandNone : Word := put 15 16 ||| put 31 0

/-- Whether a vector is masked by its MSI-X table entry; entries are masked after reset (R365, log 27). -/
def vectorMasked (h : HostSide) (v : Nat) : Bool := bit (h.msix.get (put 1 32) (16 * v + 8)) 32

/-- Raises an MSI-X vector, or leaves it pending under its mask (R365). -/
def raiseVector (s : State) (v : Nat) : State :=
  let h := s.host
  if vectorMasked h v then { s with host := { h with msixPending := (v :: h.msixPending).dedup } }
  else { s with host := { h with raised := h.raised ++ [v] } }

/-- Raises a package event (R366): bit 1 of INTSTAT and vector 65; a full queue reports its overflow once. -/
def raiseEvent (s : State) (e : PkgEvent) : State :=
  let p := s.pkg
  let p := if p.events.length < 256 then { p with events := p.events ++ [e] }
    else if p.overflow then p
    else { p with events := p.events ++ [⟨7, 0, 0⟩], overflow := true }
  let s := { s with pkg := p }
  if s.host.intEvent then s else raiseVector { s with host := { s.host with intEvent := true } } 65

/-- Marks a launch for its end with a code; the first code stands (R264, R289). -/
def endLaunch (s : State) (part lid code : Nat) : State :=
  { s with launches := s.launches.map fun l =>
      if l.lid == lid && l.part == part && l.phase == .running then { l with phase := .ending, code := code } else l }

/-- Raises event 2 for a core: the launch that holds it is abandoned (R366, R386). -/
def raiseAbandoned (s : State) (core : Nat) : State :=
  raiseEvent s ⟨2, put ((partOf s core).getD 0) 32 ||| put ((s.core core).lid.getD 0) 0, put (e2Of core) 0⟩

/-- Abandons the launch that holds a core: code ABANDONED, every strand of the rectangle stops (R386, R387). -/
def abandon (s : State) (core : Nat) : State :=
  match partOf s core, (s.core core).lid with
  | some p, some l => raiseAbandoned (endLaunch s p l 10) core
  | _, _ => s

/-- A double trap (R386): the core halts, its launch is abandoned, event 2 is raised. -/
def doubleTrap (s : State) (core : Nat) : State :=
  let c := s.core core
  let s := s.setCore core { c with halted := true, frozen := true, supRunning := false }
  if (partOf s core).isSome && c.lid.isSome then abandon s core else raiseAbandoned s core

/-- Whether SVEC passes R37 for a core: a head address in its die's firmware code region (R329). -/
def svecGood (s : State) (core : Nat) : Bool :=
  let v := (s.core core).svec
  let a := bits v 47 0
  let line := a - a % 64
  let hdr := physRead s line 2
  let k := a % 64 / 2
  decide (bits v 63 48 = 0xFFFF) && inFirmware s (dieOf core) a && decide (a % 2 = 0)
    && decide (1 ≤ k) && decide (k ≤ hdr / 2048)

/-- Starts the supervisor strand at SVEC; only its program counter changes (R385). -/
def startSupervisor (s : State) (core : Nat) : State :=
  if svecGood s core then
    match s.strand core supervisorSlot with
    | some v =>
      let s := s.setCore core { s.core core with supRunning := true }
      s.setStrand core supervisorSlot { v with pc := (s.core core).svec, wait := none }
    | none => s
  else doubleTrap s core

/-- Writes the four exception registers, freezes the core and starts the supervisor (R380, R383, R385). -/
def enterSupervisor (s : State) (core : Nat) (ecause evalue epc estrand : Word) : State :=
  let c := s.core core
  startSupervisor
    (s.setCore core { c with ecause := ecause, evalue := evalue, epc := epc, estrand := estrand, frozen := true }) core

/-- A strand of a core takes a trap (R381, R383, R386). -/
def takeTrap (s : State) (core slot : Nat) (st : Strand) (c : Cause) (detail : Nat) (epc evalue : Word) : State :=
  if st.kind = .supervisor then
    let k := s.core core
    if bit k.ecause 11 then doubleTrap s core
    else enterSupervisor s core (ecauseWord 0 detail true false c) evalue epc (estrandWord st slot)
  else enterSupervisor s core (ecauseWord 0 detail false false c) evalue epc (estrandWord st slot)

/-- A core takes an event between instructions (R389): freeze, async set. -/
def takeEvent (s : State) (core : Nat) (c : Cause) (epc evalue estrand : Word) : State :=
  enterSupervisor s core (ecauseWord 0 0 false true c) evalue epc estrand

/-- Holds an event for the supervisor of a core (R389). -/
def holdEvent (s : State) (core : Nat) (e : HeldEvent) : State :=
  let c := s.core core
  s.setCore core { c with held := c.held ++ [e] }

/-- The place of an event among those held (R389). -/
def HeldEvent.order : HeldEvent → Nat
  | .watchdog _ => 0
  | .hostInterrupt _ _ => 1
  | .preempt _ _ => 2
  | .runaway _ => 3
  | .undeliverable k => 4 + k

/-- The events a core holds, the undeliverable bits of the strands in its slots among them (R389, R390). -/
def heldEvents (s : State) (core : Nat) : List HeldEvent :=
  (s.core core).held ++ ((List.range 18).filter fun t => (s.strand core t).any (·.undeliverable)).map .undeliverable

/-- The held event that is taken next (R389). -/
def nextHeld (s : State) (core : Nat) : Option HeldEvent :=
  let es := heldEvents s core
  es.find? fun e => es.all fun f => decide (e.order ≤ f.order)

end Sys2Proof.Machine
end

