-- ==== Sys2Proof/Machine/Access.lean ====
section
/-! DEFINITION. Translation, the checks of a memory access in the order of R221, range locks, and the performing of reads and writes. -/

namespace Sys2Proof.Machine

/-- Why an access cannot be made now: a miss on a page for a need (R334, R337), a trap with EVALUE, or a wait. -/
inductive Fail where
  | miss (page need : Nat)
  | trap (c : Cause) (value : Word)
  | wait
deriving DecidableEq, Repr

/-- Who makes an access: the core, its level, and the declines that the accessing strand or engine has been given: page and
ans. -/
structure Party where
  core : Nat
  sup : Bool
  declined : List (Nat × Nat) := []
deriving DecidableEq, Repr

/-- The party of a strand. -/
def partyOf (core : Nat) (st : Strand) : Party :=
  { core := core, sup := st.kind == .supervisor, declined := st.declines }

/-- The homes an access may reach (R169): the issuing die, any compute die in a shippable region, any home. -/
inductive Reach where
  | die | ship | any
deriving DecidableEq, Repr

/-- Object id of an address (R161). -/
def oidOf (a : Word) : Nat := bits a 63 48

/-- Offset of an address (R161). -/
def offOf (a : Word) : Nat := bits a 47 0

/-- The 64 KiB page of an address, as R337 numbers it. -/
def pageOf (a : Word) : Nat := a.toNat / 65536

/-- Whether a translation serves an address (R335). -/
def TlbEntry.covers (e : TlbEntry) (a : Word) : Bool :=
  e.oid == oidOf a && (e.kind == 1 || (decide (e.obase ≤ offOf a) && decide (offOf a < e.obase + 2 ^ (16 + e.sc))))

/-- The translation of an address in the L1 TLB, else in the cluster's (R334). -/
def lookup (s : State) (core : Nat) (a : Word) : Option TlbEntry :=
  match (s.core core).tlb.find? (·.covers a) with
  | some e => some e
  | none => (s.cluster (clusterOf core)).tlb.find? (·.covers a)

/-- Gives up one entry of a full table, chosen by the hardware (R334, log 7). -/
def makeRoom {α : Type} (s : State) (cap : Nat) (t : List α) : List α :=
  if t.length < cap then t else t.eraseIdx (Config.victim s.free % t.length)

/-- A hit in the second level copies the entry into the L1 TLB (R334). -/
def touch (s : State) (core : Nat) (a : Word) : State :=
  let c := s.core core
  match c.tlb.find? (·.covers a), (s.cluster (clusterOf core)).tlb.find? (·.covers a) with
  | none, some e =>
    let s' := s.setCore core { c with tlb := makeRoom s 384 c.tlb ++ [e] }
    { s' with free := s.free + 1 }
  | _, _ => s

/-- How a page stands for a party: translated, missing, or declined with an ans (R336). -/
inductive PageState where
  | entry (e : TlbEntry)
  | missing
  | declined (ans : Nat)
deriving DecidableEq, Repr

/-- The standing of the page of an address. -/
def pageState (s : State) (p : Party) (a : Word) : PageState :=
  match p.declined.find? fun d => d.1 == pageOf a with
  | some d => .declined d.2
  | none => match lookup s p.core a with
    | some e => .entry e
    | none => .missing

/-- Whether a page is being moved, so that writes stall (R181, R343). -/
def isMoving (s : State) (core : Nat) (a : Word) : Bool :=
  s.moves.any fun m => m.code == 0 && some m.part == partOf s core && m.oid == oidOf a && m.off / 65536 == offOf a / 65536

/-- Whether n bytes from an address overlap a valid range-lock entry over memory (R208); readOnly restricts to entries
registered as read by another operation. -/
def memLocked (c : Core) (a : Word) (n : Nat) (readBy : Option Nat) : Bool :=
  c.locks.any fun l => !l.spad && decide (l.first ≤ a.toNat + n - 1) && decide (a.toNat ≤ l.first + l.span)
    && (match readBy with | none => true | some op => !l.written && l.op != op)

/-- The 1 KiB blocks of wrapped offsets that a range of an allocation touches (R208). -/
def spadBlocks (size first n : Nat) : List Nat :=
  if size ≤ n then List.range (size / 1024)
  else (List.range ((first % size % 1024 + n + 1023) / 1024)).map fun i => (first % size / 1024 + i) % (size / 1024)

/-- Whether n bytes from offset o of an allocation overlap a range-lock entry by blocks (R208). -/
def spadLocked (c : Core) (base size o n : Nat) (readBy : Option Nat) : Bool :=
  c.locks.any fun l => l.spad && l.base == base
    && (spadBlocks size o n).any (fun k => (spadBlocks l.size l.first (l.span + 1)).contains k)
    && (match readBy with | none => true | some op => !l.written && l.op != op)

/-- The address i bytes after another. -/
def after (a : Word) (i : Nat) : Word := a + BitVec.ofNat 64 i

/-- The physical address that a translation gives an object address (R335). -/
def physOf (e : TlbEntry) (a : Word) : Nat := e.pbase + (offOf a - e.obase)

/-- Whether a translation's limit or span ends before an address (R335). -/
def beyond (e : TlbEntry) (a : Word) : Bool :=
  e.kind != 1 && e.limit != 0 && decide (e.obase + e.limit ≤ offOf a)

/-- Whether a translation gives the rights of an access: dense, or a readable code object for a load (R220); an atomic
both reads and writes. -/
def permits (e : TlbEntry) (write reads code : Bool) : Bool :=
  (e.kind == 0 && (!write || e.wr) && (!reads || e.rd)) || (code && e.kind == 2 && !write && e.rd)

/-- Whether the present translation of an address is a volume's: its kind is decided before its bounds (R220, R221). -/
def isVolume (s : State) (p : Party) (a : Word) : Bool :=
  match pageState s p a with
  | .entry e => e.kind == 1
  | _ => false

/-- Whether the kind of the object of an address is not known yet. -/
def kindMissing (s : State) (p : Party) (a : Word) : Bool := pageState s p a == .missing

/-- Whether a range of physical addresses has a byte in a reserved range or one that does not respond (R165): its ends and
the points where such parts begin tell. -/
def reservedRange (s : State) (a n : Nat) : Bool :=
  let marks := [a, 0x010000000000, 0x020100000000, 0x100000000000 + s.pkg.farBytes, 0x180000000000]
    ++ (List.range 8).map fun d => 0x020000000000 + 0x20000000 * d + 67108864 + carveOf s d
  marks.any fun m => decide (a ≤ m) && decide (m < a + n) && reservedAddr s m

/-- Whether a range of physical addresses has a byte in a firmware code region (R329). -/
def firmwareRange (s : State) (a n : Nat) : Bool :=
  firmwareLoaded s && (List.range 8).any fun d =>
    decide (a < Config.firmwareBase d + firmwareBytes) && decide (Config.firmwareBase d < a + n)

/-- Home checks of the bytes of an access (R169, R170, R173): cells in address order. A home on a die of another partition
is out of reach (R330); it traps NONLOCAL (log 78). -/
def homeCells (s : State) (core : Nat) (reach : Reach) (a : Word) (phys : List Nat) : Except Fail (List Nat) :=
  let rs := phys.map fun p => regionOf s p
  if rs.any (·.isNone) then .error (.trap .objAbsent a)
  else if reach == .ship && rs.any (fun r => match r with | some (_, w) => !bit w.1 55 | none => true) then
    .error (.trap .objPermission a)
  else
    let cells := phys.map fun p => (cellAt s p).getD 0
    let abroad := fun (k : Nat) => memberOf k != 8 && partOfDie s (memberOf k) != partOf s core
    let off := match reach with
      | .any => cells.findIdx? abroad
      | .ship => cells.findIdx? fun k => memberOf k == 8 || abroad k
      | .die => cells.findIdx? fun k => memberOf k != dieOf core
    match off with
    | some i => .error (.trap .nonlocal (after a i))
    | none => .ok cells

/-- Whether a page's translation has been declined. -/
def PageState.isDeclined : PageState → Bool
  | .declined _ => true
  | _ => false

/-- Steps 2 to 6 of R221 for n bytes at an address, and the cells they lie in. An access that has been declined a page
raises its cause now, and does not wait for the page of its other end (R336). -/
def accessCells (s : State) (p : Party) (reach : Reach) (write locked : Bool) (a : Word) (n : Nat)
    (reads : Bool := !write) (code : Bool := false) : Except Fail (List Nat) :=
  let all := (List.range n).map (after a)
  if oidOf a = 0 then .error (.trap .objBounds a)
  else if oidOf a = 0xFFFF then
    if !p.sup || decide (2 ^ 48 < offOf a + n) then .error (.trap .objBounds a)
    else if reservedRange s (offOf a) n then .error (.trap .objBounds a)
    else if write && firmwareRange s (offOf a) n then .error (.trap .objPermission a)
    else homeCells s p.core reach a (all.map offOf)
  else if 2 ^ 48 < offOf a + n then
    .error (if kindMissing s p a then .miss (pageOf a) (if write then 1 else 0)
      else .trap (if isVolume s p a then .objPermission else .objBounds) a)
  else
    let ends := [a, after a (n - 1)]
    let ps := ends.map (pageState s p)
    if (ends.any fun b => match pageState s p b with | .entry e => beyond e b | .declined k => k == 2 | _ => false) then
      .error (.trap .objBounds a)
    else match ends.find? (fun b => pageState s p b == .missing && !ps.any (·.isDeclined)) with
    | some b => .error (.miss (pageOf b) (if write then 1 else 0))
    | none =>
      if ps.any (fun q => match q with | .entry e => !permits e write reads code | _ => false) then .error (.trap .objPermission a)
      else if ps.any (·.isDeclined) then .error (.trap .objAbsent a)
      else if write && ends.any (isMoving s p.core) then .error .wait
      else
        let phys := all.map fun b => match pageState s p b with | .entry e => physOf e b | _ => 0
        if write && phys.any (inAnyFirmware s) then .error (.trap .objPermission a)
        else match homeCells s p.core reach a phys with
        | .error f => .error f
        | .ok cells =>
          if write && locked && !p.sup && memLocked (s.core p.core) a n none then .error (.trap .rangeLocked a)
          else .ok cells

/-- Steps 2 and 3 of R221 alone, over a whole range, as an engine command is checked at issue (R238): bounds by the
object's pages, then rights; the pages that matter are the first and the last. -/
def rangeCheck (s : State) (p : Party) (write : Bool) (a : Word) (n : Nat) : Except Fail Unit :=
  if oidOf a = 0 then .error (.trap .objBounds a)
  else if oidOf a = 0xFFFF then
    if !p.sup || decide (2 ^ 48 < offOf a + n) || reservedRange s (offOf a) n then .error (.trap .objBounds a)
    else if write && firmwareRange s (offOf a) n then .error (.trap .objPermission a)
    else .ok ()
  else if 2 ^ 48 < offOf a + n then
    .error (if kindMissing s p a then .miss (pageOf a) (if write then 1 else 0)
      else .trap (if isVolume s p a then .objPermission else .objBounds) a)
  else
    let ends := [a, after a (n - 1)]
    if (ends.any fun b => match pageState s p b with | .entry e => beyond e b | .declined k => k == 2 | _ => false) then
      .error (.trap .objBounds a)
    else match ends.find? (fun b => pageState s p b == .missing) with
    | some b => .error (.miss (pageOf b) (if write then 1 else 0))
    | none =>
      if (ends.any fun b => match pageState s p b with | .entry e => !permits e write (!write) false | _ => false) then
        .error (.trap .objPermission a)
      else .ok ()

/-- Joins the pending record of a page, or opens one if the scrivener has a free record (R337). -/
def joinMiss (s : State) (core page need : Nat) : Option State :=
  let k := clusterOf core
  let cl := s.cluster k
  if cl.misses.any (·.page == page) then
    some (s.setCluster k { cl with misses := cl.misses.map fun m =>
      if m.page == page then { m with waiters := Nat.min 127 (m.waiters + 1) } else m })
  else if cl.misses.length < 64 then
    let num := (firstBelow 64 fun n => cl.misses.all (·.num != n)).getD 0
    some (s.setCluster k { cl with misses := cl.misses ++ [⟨page, need, num, 1, false⟩] })
  else none

/-- Whether a page's record is still pending in a core's cluster. -/
def missPending (s : State) (core page : Nat) : Bool :=
  (s.cluster (clusterOf core)).misses.any (·.page == page)

/-- The bytes that a read of cells returns. -/
def readCells (s : State) (cells : List Nat) : List Byte := cells.map s.byteAt

/-! Code lines (R32 to R37). -/

/-- Why a code line cannot be read. -/
inductive LineFail where
  | miss (page : Nat)
  | bounds
  | permission
  | absent
  | poisoned
deriving DecidableEq, Repr

/-- Halfword k of a line of 64 bytes (R32). -/
def halfAt (line : List Byte) (k : Nat) : Half := (line.getD (2 * k + 1) 0) ++ (line.getD (2 * k) 0)

/-- The 64 bytes of the line of an address, as instruction fetch reads it: from a code object with execute right, or at
supervisor level from the firmware code region of the core's die (R36, R37, R329). -/
def codeLine (s : State) (p : Party) (a : Word) : Except LineFail (List Byte) :=
  let line := a - BitVec.ofNat 64 (a.toNat % 64)
  if oidOf a = 0 then .error .bounds
  else if oidOf a = 0xFFFF then
    if !p.sup then .error .bounds
    else if !inFirmware s (dieOf p.core) (offOf line) then .error .bounds
    else match cellAt s (offOf line) with
      | none => .error .absent
      | some k => if isPoisoned s k then .error .poisoned else .ok (readCells s ((List.range 64).map (k + ·)))
  else match pageState s p line with
    | .declined 2 => .error .bounds
    | .declined _ => .error .absent
    | .missing => .error (.miss (pageOf line))
    | .entry e =>
      if beyond e line then .error .bounds
      else if e.kind != 2 || !e.ex then .error .permission
      else match cellAt s (physOf e line) with
        | none => .error .absent
        | some k => if isPoisoned s k then .error .poisoned else .ok (readCells s ((List.range 64).map (k + ·)))

/-- Head count of a line header (R32). -/
def headCount (h : Half) : Nat := h.toNat / 2048

/-- The stop bit of a line header (R32). -/
def stopBit (h : Half) : Bool := h.getLsbD 10

/-- S(k): tail halfwords of heads 1 to k, by the tail codes as written (R33). -/
def tailSum (line : List Byte) (k : Nat) : Nat :=
  ((List.range k).map fun j => (halfAt line (j + 1)).toNat / 128 % 4).foldl (· + ·) 0

/-- Whether a line is malformed (R34). -/
def malformed (line : List Byte) : Bool :=
  let h := halfAt line 0
  let n := headCount h
  let t := tailSum line n
  n == 0 || h.toNat % 1024 != 0 || decide (32 < 1 + n + t)
    || (List.range 32).any fun k => decide (n < k) && decide (k < 32 - t) && halfAt line k != 0

/-- The tail of head k (R33), zero-extended to 48 bits. -/
def tailOf (line : List Byte) (k : Nat) : BitVec 48 :=
  let len := (halfAt line k).toNat / 128 % 4
  let at0 := 32 - tailSum line k
  BitVec.ofNat 48 (((List.range len).map fun j => (halfAt line (at0 + j)).toNat * 2 ^ (16 * j)).foldl (· + ·) 0)

/-- The verdict of R37 on a 64-bit value: a head address, or the page that is missing, or no head address; `bad` is a
malformed target line (R34), and whether the value is a head address of it by R37. -/
inductive HeadCheck where
  | good
  | bad
  | malformed (line : Word) (holds : Bool)
  | miss (page : Nat)
deriving DecidableEq, Repr

/-- R37 for a value that a jump, return, diversion, ERET or message start takes as its target. The head count of a poisoned
line is left to the fetch of its head (R382, detail 3). A line whose page is declined, absent or fenced, is no line of a
code object here, so the value is no head address (TARGET_BAD), where a taken branch traps OBJ_ABSENT by R336 (log 77). -/
def checkHead (s : State) (p : Party) (v : Word) : HeadCheck :=
  let line := v - BitVec.ofNat 64 (v.toNat % 64)
  match codeLine s p v with
  | .error (.miss page) => .miss page
  | .error .poisoned => if v.toNat % 2 == 0 && v.toNat % 64 != 0 then .good else .bad
  | .error _ => .bad
  | .ok bytes =>
    let k := v.toNat % 64 / 2
    let holds := decide (v.toNat % 2 = 0) && decide (1 ≤ k) && decide (k ≤ headCount (halfAt bytes 0))
    if malformed bytes then .malformed line holds else if holds then .good else .bad

end Sys2Proof.Machine
end

