-- ==== Sys2Proof/Machine/Watch.lean ====
section
/-! DEFINITION. Watches (R316 to R325): the comparison of every write at its home slice, tracking, coalescing, runaways, claims; and the performing of writes. -/

namespace Sys2Proof.Machine

/-- Greatest chain depth of a trigger (R322). -/
def maxDepth : Nat := 4

/-- Word w of a 64-byte granule. -/
def wordOf (line : List Byte) (w : Nat) : Word := BitVec.ofNat 64 (ofLe ((line.drop (8 * w)).take 8))

/-- The words of a granule that a write changed, as a mask (R318). -/
def changedWords (old new : List Byte) : Nat :=
  (List.range 8).foldl (fun m w => if wordOf old w == wordOf new w then m else m + 2 ^ w) 0

/-- The lowest changed word (R318). -/
def firstWord (marks : Nat) : Nat := (firstBelow 8 fun w => marks.testBit w).getD 0

/-- One more change of a count that stops at C: count and sat (R319). -/
def countUp (climit count : Nat) (sat : Bool) : Nat × Bool :=
  if climit ≤ count then (count, true) else (count + 1, sat)

/-- Restarts the trigger count when its 4,000 clk window has ended (R323). -/
def rollWindow (clk : Nat) (e : WatchEntry) : WatchEntry :=
  if e.window + 4000 ≤ clk then { e with window := clk - (clk - e.window) % 4000, windowCount := 0 } else e

/-- The lowest free tracking position of an entry (R319). -/
def freePos (e : WatchEntry) : Option Nat := firstBelow 64 fun p => e.tracks.all (·.pos != p)

/-- Disarms an entry: pending triggers, a held overflow count and changes coalesced into running claims are dropped
(R323, R324). `extra` counts the runaway itself. Gives the entry and how many triggers were dropped. -/
def disarm (e : WatchEntry) (why extra stamp : Nat) : WatchEntry × Nat :=
  let n := extra + (e.tracks.filter fun t => !t.running).length + (if e.ovf then 1 else 0)
    + (e.tracks.filter fun t => t.running && t.lateCount != 0).length
  let keep := (e.tracks.filter (·.running)).map fun t =>
    { t with lateCount := 0, lateSat := false, lateWord := 0, lateBefore := 0, lateAfter := 0, lateMarks := 0,
             lateDepth := 0 }
  ({ e with armed := false, why := why, whyAt := stamp, ovf := false, ovfCount := 0, ovfDepth := 0, tracks := keep,
            dropped := e.dropped + n }, n)

/-- A change coalesced into a pending trigger (R319, R320). -/
def coalescePending (e : WatchEntry) (t : Track) (new : List Byte) (marks depth : Nat) : WatchEntry :=
  let (c, sat) := countUp e.climit t.count t.sat
  let t' := { t with count := c, sat := sat, marks := t.marks ||| marks, depth := Nat.max t.depth depth,
                     after := if t.overflow then 0 else wordOf new t.word }
  { e with coalesced := e.coalesced + 1, tracks := e.tracks.map fun u => if u.pos == t.pos then t' else u }

/-- A change coalesced into a running claim (R319, R321). -/
def coalesceRunning (e : WatchEntry) (t : Track) (old new : List Byte) (marks depth : Nat) : WatchEntry :=
  let (c, sat) := countUp e.climit t.lateCount t.lateSat
  let w := if t.lateCount == 0 then firstWord marks else t.lateWord
  let t' := { t with lateCount := c, lateSat := sat, lateWord := w,
                     lateBefore := if t.lateCount == 0 then wordOf old w else t.lateBefore,
                     lateAfter := wordOf new w, lateMarks := t.lateMarks ||| marks,
                     lateDepth := Nat.max t.lateDepth depth }
  { e with coalesced := e.coalesced + 1, tracks := e.tracks.map fun u => if u.pos == t.pos then t' else u }

/-- A change of a granule at an armed entry (R319, R322, R323): the entry, and the dropped count and why of a runaway. -/
def entryChange (e0 : WatchEntry) (clk stamp granule : Nat) (old new : List Byte) (depth0 : Nat) :
    WatchEntry × Option (Nat × Nat) :=
  let e := rollWindow clk e0
  let marks := changedWords old new
  let depth := depth0 + 1
  let runaway := fun (why : Nat) => let r := disarm e why 1 stamp; (r.1, some (r.2, why))
  if maxDepth < depth then runaway 2
  else match e.tracks.find? fun t => t.granule == granule && !t.overflow with
  | some t =>
    if t.running then (coalesceRunning e t old new marks depth, none)
    else (coalescePending e t new marks depth, none)
  | none => match freePos e with
    | some p =>
      if e.rate ≤ e.windowCount then runaway 3
      else
        let w := firstWord marks
        let t : Track := { pos := p, granule := granule, overflow := false, running := false, stamp := stamp, count := 1,
                           sat := false, word := w, before := wordOf old w, after := wordOf new w, marks := marks,
                           depth := depth }
        ({ e with tracks := e.tracks ++ [t], windowCount := e.windowCount + 1 }, none)
    | none => match e.tracks.find? (·.overflow) with
      | some t =>
        if t.running then (coalesceRunning e t old new 0 depth, none)
        else (coalescePending e t new 0 depth, none)
      | none =>
        ({ e with ovf := true, ovfCount := (countUp e.climit e.ovfCount false).1, ovfDepth := Nat.max e.ovfDepth depth,
                  coalesced := if e.ovf then e.coalesced + 1 else e.coalesced }, none)

/-- The first core of a stage's E on a die, in raster order (R320, R323). -/
def firstCoreOn (s : State) (part lid stage d : Nat) : Option Nat :=
  match s.launch part lid with
  | some l => ((l.stages[stage]?).map (·.cores)).bind fun cs => cs.find? fun c => dieOf c == d
  | none => none

/-- Raises WATCH_RUNAWAY for an entry (R323, R391). -/
def raiseRunaway (s : State) (d idx : Nat) (e : WatchEntry) (dropped why : Nat) : State :=
  match firstCoreOn s ((partOfDie s d).getD 0) e.lid e.stage d with
  | some c => holdEvent s c (.runaway (put (dropped % 2 ^ 32) 32 ||| put e.number 16 ||| put idx 8 ||| put why 0))
  | none => s

/-- Writes a watch-table entry. -/
def setEntry (s : State) (d idx : Nat) (e : WatchEntry) : State :=
  let x := s.die d
  s.setDie d { x with watch := x.watch.insert idx e }

/-- The entry of a die's watch table that tracks a granule, with the object address of the granule. -/
def granuleOf (e : WatchEntry) (cell : Nat) : Option Word := (e.cells.find? fun c => c.1 == cell).map (·.2)

/-- A write's effect on the watches of one granule (R318): silent or a change, at every armed entry that holds it. -/
def noteGranule (s : State) (cell : Nat) (old new : List Byte) (depth : Nat) : State :=
  let d := memberOf cell
  (s.die d).watch.foldl (fun s en =>
    match granuleOf en.2 cell, (s.die d).watch.find en.1 with
    | some addr, some e =>
      if !e.armed then s
      else if old == new then setEntry s d en.1 { e with silent := e.silent + 1 }
      else
        match entryChange e s.clk s.stamp addr.toNat old new depth with
        | (e', none) => { setEntry s d en.1 e' with stamp := s.stamp + 1 }
        | (e', some (n, why)) => raiseRunaway { setEntry s d en.1 e' with stamp := s.stamp + 1 } d en.1 e' n why
    | _, _ => s) s

/-- The granules that a list of cell writes touches, in order. -/
def granulesOf (ws : List (Nat × Byte)) : List Nat := (ws.map fun w => w.1 / 64 * 64).dedup

/-- The bytes of a granule after a list of cell writes. -/
def applyTo (cell : Nat) (line : List Byte) (ws : List (Nat × Byte)) : List Byte :=
  ws.foldl (fun l w => if w.1 / 64 * 64 == cell then l.set (w.1 % 64) w.2 else l) line

/-- Writes cells, no watch regarded. -/
def writeCells (s : State) (ws : List (Nat × Byte)) : State := ws.foldl (fun s w => s.setCell w.1 w.2) s

/-- Performs a write at its homes: the watch comparison of each granule it touches, then the bytes (R190, R318). -/
def storeCells (s : State) (ws : List (Nat × Byte)) (depth : Nat) : State :=
  let gs := granulesOf ws
  let noted := gs.foldl (fun t g =>
    let old := (List.range 64).map fun i => s.cell (g + i)
    noteGranule t g old (applyTo g old ws) depth) s
  writeCells noted ws

/-- An overflow trigger takes a freed position, unless its creation is a runaway (R319, R323). -/
def overflowTrigger (clk stamp : Nat) (e0 : WatchEntry) : WatchEntry × Option (Nat × Nat) :=
  let e := rollWindow clk e0
  if !e.ovf then (e, none)
  else match freePos e with
  | none => (e, none)
  | some p =>
    if e.rate ≤ e.windowCount then let r := disarm { e with ovf := false } 3 1 stamp; (r.1, some (r.2, 3))
    else
      let t : Track := { pos := p, granule := 0, overflow := true, running := false, stamp := stamp, count := e.ovfCount,
                         sat := false, word := 0, before := 0, after := 0, marks := 0, depth := e.ovfDepth }
      ({ e with tracks := e.tracks ++ [t], windowCount := e.windowCount + 1, ovf := false, ovfCount := 0,
                ovfDepth := 0 }, none)

/-- Ends the claim on a tracking position (R321): pending again when changes coalesced after the start, else freed. -/
def endClaim (s : State) (d idx pos : Nat) : State :=
  match (s.die d).watch.find idx with
  | none => s
  | some e => match e.tracks.find? fun t => t.pos == pos && t.running with
    | none => s
    | some t =>
      if t.lateCount != 0 then
        let t' := { t with running := false, stamp := s.stamp, count := t.lateCount, sat := t.lateSat,
                           word := t.lateWord, before := if t.overflow then 0 else t.lateBefore,
                           after := if t.overflow then 0 else t.lateAfter, marks := t.lateMarks, depth := t.lateDepth,
                           lateCount := 0, lateSat := false, lateWord := 0, lateBefore := 0, lateAfter := 0,
                           lateMarks := 0, lateDepth := 0 }
        { setEntry s d idx { e with tracks := e.tracks.map fun u => if u.pos == pos then t' else u } with
          stamp := s.stamp + 1 }
      else
        match overflowTrigger s.clk s.stamp { e with tracks := e.tracks.filter fun u => u.pos != pos } with
        | (e', none) => { setEntry s d idx e' with stamp := s.stamp + 1 }
        | (e', some (n, why)) => raiseRunaway { setEntry s d idx e' with stamp := s.stamp + 1 } d idx e' n why

/-- The word w3 of an entry and the other three (R316). -/
def watchWord (e : WatchEntry) (k : Nat) : Word :=
  match k with
  | 0 => e.start
  | 1 => put e.granules 32 ||| put e.climit 16 ||| put e.rate 0
  | 2 => put e.lid 32 ||| put e.stage 24 ||| put e.number 16
  | _ => putBit e.armed 63 ||| put e.why 61 ||| putBit e.ovf 60 ||| put e.tracks.length 48

end Sys2Proof.Machine
end

