-- ==== Sys2Proof/Machine/Queues.lean ====
section
/-! DEFINITION. Queues (R53, R206, R212, R213, R285 to R288, R293 to R304): heads, pops, credits, pushes, arrival and coalescing. -/

namespace Sys2Proof.Machine

/-- A strand's binding of a port (R52). -/
def portOf (st : Strand) (k : Nat) : Option Port := st.ports.find k

/-- Whether a port is bound as a consumer end. -/
def isConsumer (st : Strand) (k : Nat) : Bool := (portOf st k).any fun p => !p.out

/-- Whether a port is bound as a producer end. -/
def isProducer (st : Strand) (k : Nat) : Bool := (portOf st k).any (·.out)

/-- A queue of the package. -/
def State.queue (s : State) (q : Nat) : Option Queue := s.queues.find q

/-- Writes a queue. -/
def State.setQueue (s : State) (q : Nat) (v : Queue) : State := { s with queues := s.queues.insert q v }

/-- The generation by which a strand stands among a queue's consumers: a row handler uses its issuer's place (R146). -/
def Strand.queueGen (st : Strand) : Nat := st.acts.getD st.gen

/-- The input of an elastic strand: its lowest-numbered consumer port (R285). -/
def inputPort (st : Strand) : Option Nat := (st.ports.find? fun e => !e.2.out).map (·.1)

/-- The head element of a queue for a consumer: the first data element, or an earlier token that it has not taken,
with no data before it (R297). -/
def headFor (ring : List Elem) (gen : Nat) : Option Elem :=
  ring.find? fun e => e.tag == 0 || e.left.contains gen

/-- The eos that the balancer gives a retiring instance (R287). -/
def retireEos : Elem := { tag := 4, data := some 0xFFFFFFFF, gen := 0, rank := 0, seq := 0 }

/-- The head element of a port as its strand sees it (R213, R287, R297). -/
def headOf (s : State) (st : Strand) (k : Nat) : Option Elem :=
  if inputPort st == some k && st.retiring == .eos then some retireEos
  else if inputPort st == some k && (st.retiring == .closed || st.retiring == .spent) then none
  else match portOf st k with
    | some p => (s.queue p.queue).bind fun q => headFor q.ring st.queueGen
    | none => none

/-- Elements of a queue that a consumer can pop (R302). -/
def poppable (q : Queue) (gen : Nat) : Nat := (q.ring.filter fun e => e.tag == 0 || e.left.contains gen).length

/-- Removes the head element of a consumer: data leaves the ring; a token leaves it when every consumer has taken it
(R297). Each element that leaves returns a credit (R295). -/
def popRing (gen : Nat) : List Elem → List Elem × Nat
  | [] => ([], 0)
  | e :: es =>
    if e.tag == 0 then (es, 1)
    else if e.left.contains gen then
      let l := e.left.erase gen
      if l.isEmpty then (es, 1) else ({ e with left := l } :: es, 0)
    else let r := popRing gen es; (e :: r.1, r.2)

/-- Pops a queue for a consumer. -/
def popQueue (s : State) (q gen : Nat) : State :=
  match s.queue q with
  | some v => let r := popRing gen v.ring; s.setQueue q { v with ring := r.1, returning := v.returning + r.2 }
  | none => s

/-- Pops a port of a strand; a marked elastic instance that takes a token is closed after it (R287). -/
def popPort (s : State) (st : Strand) (k : Nat) : State × Strand :=
  if inputPort st == some k && st.retiring == .eos then (s, { st with retiring := .spent })
  else match portOf st k with
    | some p =>
      let tok := (headOf s st k).any fun e => e.tag != 0
      (popQueue s p.queue st.queueGen,
        if tok && inputPort st == some k && st.retiring == .marked then { st with retiring := .closed } else st)
    | none => (s, st)

/-- Whether the head that a consumer now sees is a data element; a run or stream that its strand started pops for it. -/
def headForGen (s : State) (core gen port qn : Nat) : Option Elem :=
  match s.byGen core gen with
  | some (_, st) => headOf s st port
  | none => (s.queue qn).bind fun q => headFor q.ring gen

/-- Pops a port for a run or stream of a strand (R154, R247), with the retirement of an elastic instance (R287). -/
def popForGen (s : State) (core gen port qn : Nat) : State :=
  match s.byGen core gen with
  | some (place, st) => let r := popPort s st port; r.1.setStrand core place r.2
  | none => popQueue s qn gen

/-- Credits that a producer holds for a queue (R295, R302). Which core holds the credits that no waiting producer has been
granted is open: they form one pool, which every producer may take and QLEN shows to each (log 109). -/
def creditsOf (q : Queue) (gen : Nat) : Nat := q.credits + (q.grants.filter (· == gen)).length

/-- Takes a credit: one granted to the producer first. -/
def takeCredit (q : Queue) (gen : Nat) : Queue :=
  if q.grants.contains gen then { q with grants := q.grants.erase gen }
  else { q with credits := q.credits - 1 }

/-- Notes a producer that waits for room, a strand or the operation of an engine that pushes for it (R295). -/
def awaitCredit (s : State) (qn : Nat) (w : Waiter) : State :=
  match s.queue qn with
  | some q => if q.waiters.contains w then s else s.setQueue qn { q with waiters := q.waiters ++ [w] }
  | none => s

/-- A strand that does something else waits for no room any more (R295). -/
def stopWaiting (s : State) (gen : Nat) : State :=
  { s with queues := s.queues.map fun (e : Nat × Queue) =>
      (e.1, { e.2 with waiters := e.2.waiters.filter fun w => !(w.gen == gen && w.op.isNone) }) }

/-- Whether a producer still waits: a strand in a slot, or an operation that a unit or engine of its core still works on
(R295). -/
def stillWaits (s : State) (w : Waiter) : Bool :=
  match w.op with
  | none => s.strands.any fun e => e.2.gen == w.gen && decide (e.1 % 256 < 18)
  | some op => s.cores.any fun c =>
      c.2.ops.any (fun o => o.gen == w.gen && o.id == op && o.stop.isNone)
        || c.2.merge.run.any (fun r => r.gen == w.gen && r.op == op)
        || c.2.tile.queue.any fun o => o.gen == w.gen && o.id == op

/-- The producer whose turn is next in round robin by rank (R295). -/
def nextRank (q : Queue) : Option Waiter :=
  let later := q.waiters.filter (q.lastRank < ·.rank)
  let pool := if later.isEmpty then q.waiters else later
  pool.find? fun w => pool.all fun v => decide (w.rank ≤ v.rank)

/-- A credit comes back (R295). -/
def returnCredit (q : Queue) : Queue :=
  if q.returning = 0 then q
  else match nextRank q with
  | some r => { q with returning := q.returning - 1, grants := q.grants ++ [r.gen], waiters := q.waiters.erase r,
                       lastRank := r.rank }
  | none => { q with returning := q.returning - 1, credits := q.credits + 1 }

/-- Puts an element on its way to a queue; data may still be owed by a load. Its producer waits for no room any more. -/
def sendElem (s : State) (qn : Nat) (e : Elem) : State :=
  match s.queue qn with
  | some q => s.setQueue qn { takeCredit q e.gen with
      transit := q.transit ++ [e], waiters := q.waiters.filter fun w => !(w.gen == e.gen && w.op.isSome == e.engine) }
  | none => s

/-- A push of a strand to a producer port (R57, R212): the element leaves with the strand's next sequence number; a push
to a cross-die ring counts in the remote-acknowledgement count (R203). `batch` elements follow that become visible with it
(R129). -/
def pushPort (s : State) (st : Strand) (k tag : Nat) (data : Option Word) (batch : Nat := 0) (drain : Option Nat := none) :
    State × Strand :=
  match portOf st k with
  | none => (s, st)
  | some p =>
    let s := sendElem s p.queue { tag := tag, data := data, gen := st.gen, rank := st.rank, seq := st.nextSeq,
                                   batch := batch, drain := drain }
    let cross := (s.queue p.queue).any fun q => q.kind == 2
    if cross then
      let a : Access := { seq := st.nextSeq, op := .push p.queue, addr := 0, ord := .plain, scope := .pkg, reads := [],
                          writes := [], dest := .none, base := 0, pkg := none, performed := false, dropped := false,
                          value := 0 }
      (s, { st with nextSeq := st.nextSeq + 1, remote := st.remote + 1, pend := st.pend ++ [a] })
    else (s, { st with nextSeq := st.nextSeq + 1 })

/-- Adds an element to the ring; a token is for every consumer (R297). -/
def intoRing (q : Queue) (e : Elem) : Queue :=
  if e.tag == 0 then { q with ring := q.ring ++ [e] }
  else if q.consumers.isEmpty then { q with returning := q.returning + 1 }
  else { q with ring := q.ring ++ [{ e with left := q.consumers.map (·.1) }] }

/-- Whether a generation is, or was, a member of the set of producers (R288). -/
def isMember (q : Queue) (gen : Nat) : Bool := q.producers.any (fun p => p.1 == gen) || q.gone.contains gen

/-- Whether every live producer has pushed a token of a tag in this round (R288); what an exited one still has on the way
comes first (log 20). -/
def roundClosed (q : Queue) (tag : Nat) : Bool :=
  q.round.any (fun r => r.tag == tag)
    && (q.producers.all fun p => q.round.any fun r => r.tag == tag && r.gen == p.1)
    && q.gone.all fun g => q.round.any (fun r => r.tag == tag && r.gen == g) || !q.transit.any fun e => e.gen == g

/-- Passes the coalesced token of a tag: the payload is the lowest-ranked producer's, and the credits of the tokens that
do not pass come back (R288, log 20). -/
def passToken (q : Queue) (tag : Nat) : Queue :=
  let mine := q.round.filter fun r => r.tag == tag
  let q := { q with round := q.round.filter (fun r => r.tag != tag), returning := q.returning + (mine.length - 1) }
  match mine.find? fun r => mine.all fun o => decide (r.rank ≤ o.rank) with
  | some r => intoRing q r
  | none => q

/-- Whether an element is held behind what its producer pushed before it (R288): data behind every token that has not passed, a
token behind data that is held and behind an earlier token of its tag. -/
def isBlocked (round held : List Elem) (e : Elem) : Bool :=
  let mine := fun (f : Elem) => f.gen == e.gen
  if e.tag == 0 then (round ++ held).any mine
  else held.any (fun f => mine f && (f.tag == 0 || f.tag == e.tag)) || round.any fun f => mine f && f.tag == e.tag

/-- The oldest held element that nothing holds back any more, if there is one. -/
def freed (q : Queue) : Option Elem :=
  (q.held.zipIdx.find? fun e => !isBlocked q.round (q.held.take e.2) e.1).map (·.1)

/-- Accepts an element whose producer is not held back: data enters the ring, a token joins its round (R288). -/
def acceptElem (q : Queue) (e : Elem) : Queue :=
  if q.coalesce && e.tag != 0 && isMember q e.gen then
    { q with round := q.round ++ [e] }
  else intoRing q e

/-- Lets held elements in and passes every closed round, until nothing more moves (R288). -/
def settle : Nat → Queue → Queue
  | 0, q => q
  | fuel + 1, q =>
    match freed q with
    | some e => settle fuel (acceptElem { q with held := q.held.erase e } e)
    | none =>
      match [1, 2, 3, 4].find? (roundClosed q) with
      | some t => settle fuel (passToken q t)
      | none => q

/-- An element arrives at the consumer end in its producer's order (R213, R288). -/
def arrive (q : Queue) (e : Elem) : Queue :=
  if q.coalesce && isMember q e.gen && isBlocked q.round q.held e then { q with held := q.held ++ [e] }
  else let q := acceptElem q e; settle (2 * (q.held.length + q.round.length) + 4) q

/-- A strand leaves a queue's producer and consumer sets (R288, R297, R313); the last consumer's exit ends the queue's
generation (R206). Its turn among the producers that wait ends, and a credit granted to it comes back (R295). -/
def leaveQueue (q : Queue) (core gen : Nat) : Queue :=
  let wasConsumer := q.consumers.any fun c => c.1 == gen
  let wasProducer := q.producers.any fun p => p.1 == gen
  let q := { q with producers := q.producers.filter (fun p => p.1 != gen),
                    consumers := q.consumers.filter (fun p => p.1 != gen),
                    waiters := q.waiters.filter (fun w => w.gen != gen),
                    grants := q.grants.filter (· != gen),
                    returning := q.returning + (q.grants.filter (· == gen)).length,
                    gone := if wasProducer then gen :: q.gone else q.gone }
  let ring := q.ring.map fun e => if e.tag == 0 then e else { e with left := e.left.erase gen }
  let keep := ring.filter fun e => e.tag == 0 || !e.left.isEmpty
  let q := { q with ring := keep, returning := q.returning + (ring.length - keep.length),
                    ended := q.ended || (wasConsumer && q.consumers.isEmpty),
                    dest := if wasConsumer then core else q.dest }
  settle (2 * (q.held.length + q.round.length) + 4) q

/-- Marks the cross-die pushes to a queue that have become poppable as performed (R203, R212). -/
def notePushes (s : State) (qn : Nat) : State :=
  match s.queue qn with
  | none => s
  | some q =>
    if q.kind != 2 then s
    else
    let under := fun (gen seq : Nat) => (q.transit ++ q.held ++ q.round).any fun e => e.gen == gen && e.seq == seq
    { s with strands := s.strands.map fun e =>
        if e.2.pend.any (fun a => a.op == .push qn && !a.performed && !a.dropped && !under e.2.gen a.seq) then
          (e.1, { e.2 with pend := e.2.pend.map fun a =>
            if a.op == .push qn && !a.dropped && !under e.2.gen a.seq then { a with performed := true } else a })
        else e }

/-- A strand of a core leaves every queue. -/
def leaveQueues (s : State) (core gen : Nat) : State :=
  let s := { s with queues := s.queues.map fun (e : Nat × Queue) => (e.1, leaveQueue e.2 core gen) }
  s.queues.foldl (fun (s : State) (e : Nat × Queue) => notePushes s e.1) s

/-- Whether a push of a strand is not yet poppable: on its way to a queue, held behind a token, or a token of a round that
is still open (R213, R288). -/
def pushUnperformed (q : Queue) (gen seq : Nat) : Bool :=
  q.transit.any late || q.held.any late || q.round.any late
where
  /-- an earlier push of an instruction of the strand -/
  late (e : Elem) : Bool := e.gen == gen && decide (e.seq < seq) && !e.engine

end Sys2Proof.Machine
end

