-- ==== Sys2Proof/Machine/Engine.lean ====
section
/-! DEFINITION. What the engines share: status words, completion, the range-lock table, faults delivered at sync points, parking and the end of a strand. -/

namespace Sys2Proof.Machine

/-- Whether an operation reads (R189). -/
def AccOp.reads : AccOp → Bool
  | .load _ _ | .loadVec _ | .get _ | .atomic .. | .ramo .. => true
  | _ => false

/-- Whether an operation writes (R189). -/
def AccOp.writes : AccOp → Bool
  | .store _ | .atomic .. | .ramo .. | .put _ | .amsg .. | .trim .. => true
  | _ => false

/-- The status word of an engine command (R238). -/
def statusWord (ok : Bool) (cause detail bytes : Nat) : Word :=
  put (bytes % 2 ^ 32) 32 ||| put detail 8 ||| put cause 1 ||| putBit ok 0

/-- A register that an engine or access owed is written and no longer owed (R210, R219). -/
def Strand.deliverX (st : Strand) (n : Nat) (v : Word) : Strand :=
  { (st.setX n v) with owed := st.owed.erase n }

/-- Releases every range-lock entry of an operation (R207). -/
def releaseLocks (c : Core) (op : Nat) : Core := { c with locks := c.locks.filter fun l => l.op != op }

/-- Registers ranges in free entries of the table (R207); none when there are not enough. -/
def takeLocks (c : Core) (ls : List RangeLock) : Option Core :=
  let free := (List.range 32).filter fun k => c.locks.all (·.index != k)
  if free.length < ls.length then none
  else some { c with locks := c.locks ++ (ls.zip free).map fun p => { p.1 with index := p.2 } }

/-- The lower of two causes, of those that are causes at all (R238). -/
def lowerCause (a b : Nat) : Nat := if a = 0 then b else if b = 0 then a else Nat.min a b

/-- An engine command completes: status word, counters, range locks (R210, R219, R306). -/
def completeEngine (s : State) (core : Nat) (o : EngineOp) (ok : Bool) (cause detail : Nat) : State :=
  let c := s.core core
  let s := s.setCore core { releaseLocks c o.id with ops := c.ops.filter fun p => p.id != o.id }
  s.onGen core o.gen fun st =>
    { (st.deliverX o.reg (statusWord ok cause detail o.bytes)).complete o.cn with cp := st.cp - 1 }

/-- A tile operation completes (R132). -/
def completeTile (s : State) (core : Nat) (o : TileOp) : State :=
  let c := releaseLocks (s.core core) o.id
  let t := c.tile
  let s := s.setCore core { c with tile := { t with queue := t.queue.filter (fun p => p.id != o.id),
                                                    ended := t.ended.filter fun p => p.id != o.id } }
  s.onGen core o.gen fun st => { st.complete o.cn with tl := st.tl - 1 }

/-- A merge run completes (R155, R156). -/
def completeMerge (s : State) (core : Nat) (r : MergeRun) : State :=
  let c := releaseLocks (s.core core) r.op
  let m := c.merge
  let m' := if m.run.any (fun q => q.op == r.op) then { m with run := none, stopAsked := false }
    else { m with failed := m.failed.filter fun f => f.op != r.op }
  let s := s.setCore core { c with merge := m' }
  s.onGen core r.gen fun st => { st.complete r.cn with tl := st.tl - 1 }

/-- How an instruction is a sync point for stopped operations (R151, R239), besides its naming a status register. -/
inductive Sync where
  | none
  | tile
  | wait (tl cp : Nat)
  | counter (n t : Nat)
  | all
deriving DecidableEq, Repr

/-- Whether an instruction is a sync point for an operation in class tl naming a counter. -/
def syncsTile (y : Sync) (st : Strand) (cn : Option Nat) (isTile : Bool) : Bool :=
  match y with
  | .none => false
  | .tile => isTile
  | .wait tl _ => decide (tl < st.tl)
  | .counter n t => cn == some n && decide (t < (st.counter n).pending)
  | .all => true

/-- Whether an instruction is a sync point for an engine command. -/
def syncsEngine (y : Sync) (st : Strand) (cn : Option Nat) : Bool :=
  match y with
  | .wait _ cp => decide (cp < st.cp)
  | .counter n t => cn == some n && decide (t < (st.counter n).pending)
  | .all => true
  | _ => false

/-- Whether beats or arrival-word adds of an operation are still on their way or waiting at a destination (R210). -/
def sendOut (s : State) (core : Nat) (o : EngineOp) : Bool :=
  let mine := fun (t : Transfer) => t.srcCore == core && t.op == o.id && !t.beats.isEmpty
  o.adds != 0 || s.cores.any fun c =>
    (c.2.channels.any fun h => (h.2.current.toList ++ h.2.waiting).any mine)
      || c.2.spill.any fun e => match e with | .beats _ t => mine t | .message _ => false

/-- The fault that a sync point takes (R144, R151, R159, R239, R240): EVALUE, and the state with an operation that cannot
resume completed; a send's writes and arrival-word adds come before its completion (R210). -/
def engineFault (s : State) (core : Nat) (st : Strand) (y : Sync) (named : List Nat) : Option (Word × State) :=
  let c := s.core core
  let t := c.tile
  match t.queue.head? with
  | some o =>
    if bit t.rowprog 63 && o.gen == st.gen && syncsTile y st o.cn true then
      some (t.stopValue, s.setCore core { c with tile := { t with taken := true } })
    else rest c t
  | none => rest c t
where
  /-- a failed amax atomic, a failed merge run, a stopped command -/
  rest (c : Core) (t : TileUnit) : Option (Word × State) :=
    match t.ended.find? fun o => o.gen == st.gen && o.amaxFault.isSome && syncsTile y st o.cn true with
    | some o => some (o.amaxFault.getD 0, completeTile s core o)
    | none =>
      match c.merge.failed.find? fun r => r.gen == st.gen && syncsTile y st r.cn false with
      | some r => some (r.fault.getD 0, completeMerge s core r)
      | none => command c
  /-- a stopped COPY, SEND, REFS or failed storage command -/
  command (c : Core) : Option (Word × State) :=
    match c.ops.find? fun o => o.gen == st.gen && o.stop.isSome && !(o.dead && sendOut s core o)
        && (syncsEngine y st o.cn || (o.reg != 0 && named.contains o.reg)) with
    | some o =>
      some (o.stop.getD 0, if o.dead then completeEngine s core o false (lowerCause o.cause 4) 0
        else s.setCore core { c with ops := c.ops.map fun p => if p.id == o.id then { p with taken := true } else p })
    | none => none

/-! Parking (R283, R284) and the end of a strand (R313). -/

/-- A free park area of a core (R283): the lowest, which is the model's choice (log 86). -/
def freeArea (s : State) (core : Nat) : Option Nat :=
  firstBelow 64 fun a => (s.strands.find (placeKey core (parkPlace a))).isNone

/-- A strand parks in a free area: its state goes there, and its slot stays busy until the save completes (R283,
R284). -/
def parkIn (s : State) (core slot area : Nat) (st : Strand) (w : Wake) : State :=
  let s := (s.dropStrand core slot).setStrand core (parkPlace area) { st with wake := some w, wait := none }
  let c := s.core core
  s.setCore core { c with parking := c.parking ++ [(area, slot)] }

/-- Removes a strand from its stage's barrier rounds (R309, R313). -/
def leaveRounds (s : State) (gen : Nat) : State :=
  { s with launches := s.launches.map fun l => { l with rounds := l.rounds.map fun r =>
      { r with members := r.members.erase gen, arrived := r.arrived.erase gen } } }

/-- Closes the rounds of which every participant has arrived or exited: the arrived strands depart (R309). -/
def closeRounds (s : State) : State :=
  let closed := fun (r : Round) => r.members.all r.arrived.contains
  let gone := (s.launches.flatMap (·.rounds)).filter closed
  if gone.isEmpty then s
  else
    { s with
      launches := s.launches.map fun l => { l with rounds := l.rounds.filter fun r => !closed r }
      strands := s.strands.map fun e =>
        if e.2.wait == some .barrier && gone.any (fun r => r.arrived.contains e.2.gen) then
          (e.1, { e.2 with wait := some .depart })
        else e }

/-- Counts a row of a handler drain as done (R147, R149). -/
def rowDone (s : State) (core : Nat) (drain : Option (Nat × Nat)) : State :=
  match drain with
  | none => s
  | some (op, _) =>
    let c := s.core core
    let f := fun (o : TileOp) => if o.id == op then { o with rowsDone := o.rowsDone + 1 } else o
    s.setCore core { c with tile := { c.tile with queue := c.tile.queue.map f, ended := c.tile.ended.map f } }

/-- The sender's access of a message is acknowledged: performed at the end of its run (R236); a message of another
package is answered through its peer port (R371). -/
def acknowledge (s : State) (m : Message) (dropped : Bool) : State :=
  match m.source with
  | none => { s with pkg := { s.pkg with peerReplies := s.pkg.peerReplies ++ [(!dropped, 0)] } }
  | some core => s.onGen core m.gen fun st =>
      { st with pend := st.pend.map fun a => if a.seq == m.seq then { a with performed := !dropped, dropped := dropped } else a }

/-- A place for the outstanding accesses of a strand that has ended: the first free one from 160 on. -/
def ghostPlace (s : State) (core : Nat) : Option Nat :=
  (firstBelow 96 fun k => (s.strands.find (placeKey core (160 + k))).all (·.pend.isEmpty)).map (160 + ·)

/-- What is left of a strand that has ended with accesses outstanding: its issued writes, which are still performed (R148,
R387, log 48). -/
def ghostOf (st : Strand) : Strand :=
  { kind := if st.kind == .porter then .porter else .handler, gen := st.gen, stage := 255, rank := st.rank, lid := 0, depth := st.depth, ports := st.ports,
    drain := st.drain, spadBase := st.spadBase, spadSize := st.spadSize, nextSeq := st.nextSeq
    pend := st.pend.filter fun a => !(a.op.reads && !a.op.writes) }

/-- Keeps the outstanding writes of a strand that has ended. -/
def leaveGhost (s : State) (core : Nat) (st : Strand) : State :=
  let g := ghostOf st
  if g.pend.isEmpty then s else s.setStrand core ((ghostPlace s core).getD 160) g

/-- The end of a strand (EXIT step 3, R313; ROWOUT, R148; retire, R387): claim, rounds, queues, row, message, slot,
allocation. -/
def endStrand (s : State) (core place : Nat) (st : Strand) : State :=
  let s := s.dropStrand core place
  let s := leaveQueues (closeRounds (leaveRounds s st.gen)) core st.gen
  let s := match st.claim with | some (d, e, p) => endClaim s d e p | none => s
  let s := leaveGhost (rowDone s core st.drain) core st
  match st.message with | some m => acknowledge s m false | none => s

end Sys2Proof.Machine
end

