-- ==== Sys2Proof/Machine/Operands.lean ====
section
/-! DEFINITION. The issue of one instruction: the order of its conditions (R60), its operands (R25, R53 to R57, R99), and its retirement. -/

namespace Sys2Proof.Machine

/-- The strand that issues, and its core and slot. -/
structure Ctx where
  core : Nat
  slot : Nat
  st : Strand
deriving DecidableEq, Repr

/-- What an instruction names and is, as the checks before its own effect need it (R60). -/
structure Uses where
  src : List Reg := []
  vsrc : List VReg := []
  dst : List Reg := []
  vdst : List VReg := []
  /-- ports used by the instruction's own rule: number, and which end it must be (none: either) -/
  named : List (Nat × Option Bool) := []
  illegal : Bool := false
  /-- registers on whose values an ILLEGAL of the instruction depends, and whether the values are illegal (R60) -/
  operands : List Reg := []
  invalid : (Reg → Word) → Bool := fun _ => false
  privileged : Bool := false
  blocking : Bool := false
  sync : Sync := .none

/-- The operand values of an issued instruction. -/
structure Vals where
  s : State
  cx : Ctx
  x : Reg → Word
  v : VReg → VWord

/-- Why an instruction does not take effect: a trap before it, a condition not met, a TLB miss, or a state that it leaves
while it waits. -/
inductive Stop where
  | trap (c : Cause) (value : Word)
  | detail (c : Cause) (d : Nat) (value : Word)
  | stall
  | miss (page need : Nat)
  | keep (s : State)

/-- What an instruction does when it retires: the state and strand with its own effects, its register results, flags,
whether it drew stochastic bits (R85), a taken target, the trap that follows it, whether the strand ends, parks (in which
area, until when) or stands aside (R311). -/
structure Done where
  s : State
  st : Strand
  xs : List (Reg × Word) := []
  vs : List (VReg × VWord) := []
  flags : Word := 0
  sto : Bool := false
  jump : Option Word := none
  trap : Option (Cause × Nat × Word) := none
  ends : Bool := false
  parks : Option (Nat × Wake) := none
  waits : Option Wait := none

/-- The distinct source ports of an instruction, ascending (R53, R55). -/
def sourcePorts (u : Uses) : List Nat := (List.range 8).filter fun k => u.src.any fun r => r == .q (BitVec.ofNat 3 k).toFin

/-- The destination ports of an instruction. -/
def destPorts (u : Uses) : List Nat :=
  u.dst.filterMap fun r => match r with | .q k => some k.val | _ => none

/-- The scoreboard numbers of the registers an instruction reads. -/
def readNums (u : Uses) : List Nat :=
  (u.src.filterMap fun r => match r with | .x n => some n.val | _ => none) ++ u.vsrc.map fun v => 64 + v.val

/-- The scoreboard numbers of the registers an instruction writes. -/
def writeNums (u : Uses) : List Nat :=
  (u.dst.filterMap fun r => match r with | .x n => some n.val | _ => none) ++ u.vdst.map fun v => 64 + v.val

/-- EVALUE of ILLEGAL and PRIVILEGE: the head and tail as written (R59, log 17). -/
def headTail (i : Instr) : Word :=
  match encode i with
  | some (h, t) => t ++ h
  | none => 0

/-- An unknown register, an e destination (R26), or the instruction's own reason. -/
def isIllegal (s : State) (cx : Ctx) (u : Uses) : Bool :=
  let w := wideShape (s.core cx.core) cx.st
  u.illegal || !(u.src ++ u.dst).all (Reg.present w) || !(u.vsrc ++ u.vdst).all (vPresent w)
    || u.dst.any fun r => match r with | .e _ => true | _ => false

/-- Row handlers and porter strands do not block (R147, R237). -/
def isBlockedKind (st : Strand) : Bool := st.kind == .handler || st.kind == .porter

/-- The first port that is not bound as the instruction needs (R52). The spec names no order where several are not: source
ports ascending, then destinations, then ports used by the instruction's own rule (log 38). -/
def unboundPort (st : Strand) (u : Uses) : Option Nat :=
  match (sourcePorts u).find? fun k => !isConsumer st k with
  | some k => some k
  | none => match (destPorts u).find? fun k => !isProducer st k with
    | some k => some k
    | none => (u.named.find? fun p => match p.2 with
        | some true => !isProducer st p.1
        | some false => !isConsumer st p.1
        | none => (portOf st p.1).isNone).map (·.1)

/-- The value of a scalar operand (R23, R27, R53). -/
def readReg (s : State) (cx : Ctx) : Reg → Word
  | .x n => cx.st.x n.val
  | .q k => ((headOf s cx.st k.val).bind (·.data)).getD 0
  | .e n => envReg s cx.core cx.st n.val

/-- Whether a reference stream or merge run of a core holds an end of a queue (R154, R246): the consumer end of its input,
the producer end of a stream's output. -/
def endHeld (c : Core) (q : Nat) (out : Bool) : Bool :=
  c.ops.any (fun o => o.kind == .refs && (if out then o.qout else o.qin) == q)
    || (!out && c.merge.run.isSome && c.merge.fibres.any fun f => f.isQueue && f.queue == q)

/-- Whether a port named by an instruction is held by a stream or run, of whatever core: any strand that names it waits. -/
def portHeld (s : State) (cx : Ctx) (k : Nat) : Bool :=
  (portOf cx.st k).any fun p => s.cores.any fun c => endHeld c.2 p.queue p.out

/-- e5 after a diversion (R28). -/
def divertWord (k : Nat) (e : Elem) : Word :=
  put ((e.data.getD 0).toNat % 2 ^ 32) 32 ||| put k 3 ||| put e.tag 0

/-- Leaves the strand where it stands, marked as not ready (log 4). -/
def stall (s : State) : State := { s with cursor := { s.cursor with stalled := true } }

/-- A strand waits for a TLB fill (R334): its miss joins or opens a record; a strand of a park=yes stage parks (R283). -/
def waitFill (s : State) (cx : Ctx) (page need : Nat) : State :=
  match joinMiss s cx.core page need with
  | none => stall s
  | some s =>
    let st := { cx.st with wait := some (.fill page) }
    let parks := cx.st.kind != .porter && cx.st.kind != .supervisor
      && (launchOf s cx.core).any fun l => (l.stages[cx.st.stage]?).any (·.park)
    match freeArea s cx.core with
    | some a => if parks then stall (parkIn s cx.core cx.slot a st (.fill page))
      else stall (s.setStrand cx.core cx.slot st)
    | none => stall (s.setStrand cx.core cx.slot st)

/-- A trap taken before the instruction, at its head (R381). -/
def trapAt (s : State) (cx : Ctx) (c : Cause) (d : Nat) (value : Word) : State :=
  let st := { cx.st with wait := none, declines := [], staying := false, resumed := false }
  takeTrap (s.setStrand cx.core cx.slot st) cx.core cx.slot st c d cx.st.pc value

/-- The state that an instruction which does not take effect leaves. -/
def stopped (s : State) (cx : Ctx) : Stop → State
  | .trap c v => trapAt s cx c 0 v
  | .detail c d v => trapAt s cx c d v
  | .stall => stall s
  | .miss page need => waitFill s cx page need
  | .keep s' => s'

/-- The trap or wait of a failed access. -/
def Fail.stop : Fail → Stop
  | .miss p n => .miss p n
  | .trap c v => .trap c v
  | .wait => .stall

/-- A token at a source head diverts the strand (R55, R56): popped into e5, the pc at the port's target. -/
def divert (s : State) (cx : Ctx) (k : Nat) (e : Elem) : Stop :=
  let t := ((portOf cx.st k).map (·.target)).getD 0
  if t = 0 then .trap .tokenNoTarget (BitVec.ofNat 64 k)
  else match checkHead s (partyOf cx.core cx.st) t with
    | .bad => .trap .targetBad t
    | .malformed line _ => .trap .lineMalformed line
    | .miss page => .miss page 2
    | .good =>
      let (s, st) := popPort s cx.st k
      .keep (stopWaiting (s.setStrand cx.core cx.slot
        { st with e5 := divertWord k e, pc := t, wait := none, declines := [], staying := false }) st.gen)

/-- Whether pushes of the strand are held back behind a QFENCE (R303). -/
def fenced (s : State) (st : Strand) : Bool :=
  st.qfence && s.queues.any fun e => pushUnperformed e.2 st.gen st.nextSeq

/-- Room for one push to a port (R53, R295), within the remote-acknowledgement count (R22). -/
def hasRoom (s : State) (st : Strand) (k n : Nat) : Bool :=
  match portOf st k with
  | some p => match s.queue p.queue with
    | some q => decide (n ≤ creditsOf q st.gen) && (q.kind != 2 || decide (st.remote + n ≤ 4095))
    | none => false
  | none => false

/-- Notes that the strand waits for room at a port. -/
def waitRoom (s : State) (st : Strand) (k : Nat) : State :=
  match portOf st k with
  | some p => stall (awaitCredit s p.queue { rank := st.rank, gen := st.gen })
  | none => stall s

/-- Whether the ports that an instruction pushes to hold its elements: n to each occurrence, those of cross-die queues
together within the remote-acknowledgement count (R22, R53, R129). -/
def portFull (s : State) (st : Strand) (ports : List Nat) (n : Nat) : Option Nat :=
  let far := ports.filter fun k => (portOf st k).any fun p => (s.queue p.queue).any (·.kind == 2)
  ports.find? fun k => !hasRoom s st k (n * ports.count k) || (far.contains k && decide (4095 < st.remote + n * far.length))

/-- Whether an operation is a shipped routine, which can be an acquire (R250). -/
def AccOp.ships : AccOp → Bool
  | .fship .. => true
  | _ => false

/-- Whether an access is an acquire whose read is not yet performed (R196, R250). -/
def Access.acquires (a : Access) : Bool := (a.op.reads || a.op.ships) && (a.ord == .acq || a.ord == .acqrel) && !a.performed

/-- Whether an acquire read of the strand is outstanding: no later read may be performed (R196). -/
def Strand.acquiring (st : Strand) : Bool := st.pend.any Access.acquires

/-- Whether source reads of a copy, send or swrite are still to be performed: they are reads of its strand (R189). -/
def EngineOp.readsLeft (o : EngineOp) : Bool :=
  (o.kind == .copy || o.kind == .send || o.kind == .swrite)
    && o.cause != 8 && o.cause != 11 && o.cause != 4 && (decide (4096 * o.sector < o.len) || !o.unread.isEmpty)

/-- The engine operations that a strand issued before a sequence number. -/
def earlierOps (s : State) (core gen seq : Nat) : List EngineOp :=
  (s.core core).ops.filter fun o => o.gen == gen && decide (o.seq < seq)

/-- Whether a read of the strand is outstanding: no later write may be performed (R189, R191). -/
def strandReading (s : State) (core : Nat) (st : Strand) : Bool :=
  (st.pend.any fun a => a.op.reads && !a.performed) || (earlierOps s core st.gen st.nextSeq).any EngineOp.readsLeft

/-- Whether the tile and vector units of a core are powered down (R414): they went down with the pre-emption of a die that
was too hot, and its temperature has not fallen since. -/
def unitsOff (s : State) (core : Nat) : Bool := (s.core core).unitsDown

/-- The first source port that holds a token diverts the strand (R55); the pop of an element with an uncorrectable error
traps (R407), so such an element at a port that does not pop is no trap. Of no effect when every source port pops good
data. -/
def takeToken (s : State) (cx : Ctx) (heads : List (Nat × Option Elem)) : Option Stop :=
  let bad := fun (k : Nat) => Stop.detail .memUncorrectable 1 (putBit true 63 ||| put k 0)
  match heads.find? fun h => h.2.any fun e => e.tag != 0 with
  | some (k, h) => some (if h.any (·.bad) then bad k else divert s cx k (h.getD retireEos))
  | none => (heads.find? fun h => h.2.any (·.bad)).map fun h => bad h.1

/-- The scoreboard numbers of the registers on which an ILLEGAL depends. -/
def operandNums (u : Uses) : List Nat := u.operands.filterMap fun r => match r with | .x n => some n.val | _ => none

/-- Whether every source port holds good data that the strand may pop now. -/
def portsKnown (s : State) (cx : Ctx) (u : Uses) : Bool :=
  !cx.st.acquiring && (sourcePorts u).all fun k =>
    isConsumer cx.st k && !portHeld s cx k && (headOf s cx.st k).any fun e => e.tag == 0 && !e.bad

/-- Whether the values on which an ILLEGAL depends are there: good data at the ports, no poisoned register. -/
def operandsKnown (s : State) (cx : Ctx) (u : Uses) : Bool :=
  ((u.operands.all fun r => match r with | .q _ => false | _ => true) || portsKnown s cx u)
    && (operandNums u).all fun n => (cx.st.poison.find n).isNone

/-- The conditions of an instruction before its own effect, in the order of R60, then readiness (R53, R99), diversion
(R55), poison (R382) and room. A diversion waits for what R53 and R99 name: source registers and source elements; the
destinations hold back only an instruction that takes effect. Of several poisoned sources the first in operand order is
reported, x registers before v registers (log 75). -/
def gate (s : State) (i : Instr) (cx : Ctx) (u : Uses) : Except Stop Vals :=
  let st := cx.st
  if isIllegal s cx u then .error (.trap .illegal (headTail i))
  else if (operandNums u).any st.owed.contains then .error .stall
  else if operandsKnown s cx u && u.invalid (readReg s cx) then .error (.trap .illegal (headTail i))
  else if u.privileged && st.isUser then .error (.trap .privilege (headTail i))
  else if isBlockedKind st && (u.blocking || !(sourcePorts u).isEmpty) then
    .error (.trap .handlerBlocked (headTail i))
  else match unboundPort st u with
  | some k => .error (.trap .queueUnbound (BitVec.ofNat 64 k))
  | none =>
  match engineFault s cx.core st u.sync (readNums u ++ writeNums u) with
  | some (v, s') => .error (.keep (trapAt s' { cx with st := ((s'.strand cx.core cx.slot).getD st) } .engineFault 0 v))
  | none =>
  if (readNums u).any st.owed.contains then .error .stall
  else if (sourcePorts u).any (portHeld s cx) then .error .stall
  else if !(sourcePorts u).isEmpty && st.acquiring then .error .stall
  else
    let heads := (sourcePorts u).map fun k => (k, headOf s st k)
    if heads.any fun h => h.2.isNone then .error .stall
    else match takeToken s cx heads with
    | some e => .error e
    | none =>
    if (writeNums u).any st.owed.contains then .error .stall
    else if !(u.vsrc.isEmpty && u.vdst.isEmpty) && unitsOff s cx.core then .error .stall
    else if (destPorts u ++ u.named.map (·.1)).any (portHeld s cx) then .error .stall
    else match (readNums u).find? fun n => (st.poison.find n).isSome with
    | some n =>
      let p := (st.poison.find n).getD (0, 0)
      .error (.detail .memUncorrectable p.1 p.2)
    | none =>
    if !(destPorts u).isEmpty && fenced s st then .error .stall
    else match portFull s st (destPorts u) 1 with
    | some k => .error (.keep (waitRoom s st k))
    | none => .ok { s := s, cx := cx, x := readReg s cx, v := fun r => st.v r.val }

/-- The address of the next head in sequence (R35); none after the last head of a line with the stop bit. -/
def nextPc (header : Half) (pc : Word) : Option Word :=
  let k := pc.toNat % 64 / 2
  if k < headCount header then some (pc + 2)
  else if stopBit header then none
  else some (pc - BitVec.ofNat 64 (pc.toNat % 64) + 66)

/-- The sequential successor of R36, whatever the stop bit says. -/
def successor (header : Half) (pc : Word) : Word :=
  (nextPc header pc).getD (pc - BitVec.ofNat 64 (pc.toNat % 64) + 66)

/-- Writes a scalar result: a register, or a push of a data element (R57). -/
def writeReg (p : State × Strand) : Reg × Word → State × Strand
  | (.x n, v) => (p.1, p.2.setX n.val v)
  | (.q k, v) => pushPort p.1 p.2 k.val 0 (some v)
  | (.e _, _) => p

/-- Retirement (R54, R85, R90, R99): pops, results, flags, SRCNT, the program counter; then the end of the strand, the
trap after the instruction, or FALLOFF (R35, R361, R388). A PARK that is the last head of a line with the stop bit set
falls off and does not park: the spec does not order the two (log 36). -/
def retire (cx : Ctx) (u : Uses) (d : Done) : State :=
  let header := d.s.cursor.header
  let line := cx.st.pc - BitVec.ofNat 64 (cx.st.pc.toNat % 64)
  let (s, st) := (sourcePorts u).foldl (fun p k => popPort p.1 p.2 k) (d.s, d.st)
  let (s, st) := d.xs.foldl writeReg (s, st)
  let st := d.vs.foldl (fun st w => st.setV w.1.val w.2) st
  let st := { st with fstat := st.fstat ||| d.flags, srcnt := if d.sto then st.srcnt + 1 else st.srcnt, wait := d.waits,
                      declines := [], staying := false,
                      qfence := st.qfence && (destPorts u).isEmpty, resumed := false,
                      trimming := none,
                      pc := d.jump.getD (successor header cx.st.pc) }
  if d.ends then endStrand s cx.core cx.slot st
  else
    let s := s.setStrand cx.core cx.slot st
    match d.trap with
    | some (c, det, v) => takeTrap s cx.core cx.slot st c det (successor header cx.st.pc) v
    | none =>
      if d.jump.isNone && (nextPc header cx.st.pc).isNone then takeTrap s cx.core cx.slot st .falloff 0 (line + 66) line
      else match d.parks with
      | some (a, w) => parkIn s cx.core cx.slot a st w
      | none => s

/-- The strand at the cursor, if it may issue: its core is neither halted nor frozen for it and holds no event that is to
be taken first (R389), its launch runs, and it does not wait for an event (R279, R383, R394). -/
def current (s : State) : Option Ctx :=
  let core := s.cursor.core
  let slot := s.cursor.slot
  let c := s.core core
  match s.strand core slot with
  | none => none
  | some st =>
    let may := if slot = supervisorSlot then c.supRunning && !c.halted
      else decide (slot ≤ porterSlot) && !c.frozen && !c.halted && !c.preempted && (nextHeld s core).isNone
        && ((launchOf s core).all fun l => l.phase == .running)
    let waits := match st.wait with
      | some (.fill page) => missPending s core page
      | some (.yielding _ _) => true
      | _ => false
    if may && !waits then some { core := core, slot := slot, st := st } else none

/-- Issues one instruction: what its conditions and its own effect make of the state. -/
def issue (i : Instr) (uses : Ctx → Uses) (s : State) (body : Vals → Except Stop Done) :
    Host.Outcome State Fault Refusal :=
  match current s with
  | none => .next (stall s)
  | some cx =>
    match gate s i cx (uses cx) with
    | .error e => .next (stopped s cx e)
    | .ok v => match body v with
      | .error e => .next (stopped s cx e)
      | .ok d => .next (retire cx (uses cx) d)

/-- The result of an instruction that only writes registers. -/
def results (v : Vals) (xs : List (Reg × Word)) : Except Stop Done := .ok { s := v.s, st := v.cx.st, xs := xs }

end Sys2Proof.Machine
end

