-- ==== Sys2Proof/Machine/Order.lean ====
section
/-! DEFINITION. When an outstanding access may be performed: the order kept within a strand (R191, R196, R200 to R205), the waits of a release (R194, R212), and the value a read returns. -/

namespace Sys2Proof.Machine

/-- Whether an operation is a fabric operation (R202). -/
def AccOp.isFabric : AccOp → Bool
  | .get _ | .put _ | .ramo .. => true
  | _ => false

/-- Whether an access is a release write (R196, R205). -/
def Access.releases (a : Access) : Bool :=
  match a.op with
  | .amsg .. => true
  | _ => a.ord == .rel || a.ord == .acqrel

/-- The bytes an access reaches: cells, or addresses at another package. -/
def Access.cells (a : Access) : List Nat := a.reads.map (·.2) ++ a.writes.map (·.1)

/-- Whether two accesses reach a common byte. -/
def Access.overlaps (a b : Access) : Bool := a.pkg == b.pkg && a.cells.any b.cells.contains

/-- Whether a release at a scope need not wait for an earlier outstanding access (R194). -/
def passesRelease (scope : Scope) (a : Access) : Bool :=
  let wide := scope == .pkg || scope == .sys
  match a.op with
  | .load _ _ | .loadVec _ | .store _ | .atomic .. | .trim .. => false
  | .get _ => a.performed
  | .ramo .. => a.performed && !wide
  | .put _ | .amsg .. | .push _ => !wide
  | .fship .. => true

/-- The queue kinds whose pushes a release at a scope waits for (R194). -/
def ringsOf : Scope → List Nat
  | .core => [0]
  | .die => [0, 1]
  | _ => [0, 1, 2]

/-- Whether the waits of a release at a scope are met for what the strand issued before a sequence number (R189, R194). -/
def releaseReady (s : State) (core : Nat) (st : Strand) (seq : Nat) (scope : Scope) : Bool :=
  (st.pend.all fun a => decide (seq ≤ a.seq) || passesRelease scope a)
    && (s.queues.all fun e => !(ringsOf scope).contains e.2.kind || !pushUnperformed e.2 st.gen seq)
    && ((earlierOps s core st.gen seq).all fun o =>
      !o.readsLeft && (scope == .core || !(o.kind == .copy || o.kind == .send)))

/-- Whether arrival-word adds of a SEND are still to be performed (R211, R245). -/
def EngineOp.addsLeft (o : EngineOp) : Bool :=
  o.kind == .send && o.arr != 0
    && (o.adds != 0 || (!o.dead && (decide (4096 * o.sector < o.len) || !o.unread.isEmpty)))

/-- Whether the waits of the releases that the strand issued before a sequence number are met: until then no later write is
performed (R194). The arrival-word adds of a SEND are releases too (R211). -/
def releasesMet (s : State) (core : Nat) (st : Strand) (seq : Nat) : Bool :=
  (st.pend.all fun r => decide (seq ≤ r.seq) || !r.releases || r.performed || r.arrived || r.dropped
      || releaseReady s core st r.seq r.scope)
    && (earlierOps s core st.gen seq).all fun o => !o.addsLeft || releaseReady s core st o.seq o.scope

/-- The scope of a queue kind (R212). -/
def queueScope (kind : Nat) : Scope := if kind = 0 then .core else if kind = 1 then .die else .pkg

/-- The waits of a push as a release at its queue's scope: not for pushes to other queues (R212). -/
def pushReady (s : State) (core : Nat) (st : Strand) (seq kind : Nat) : Bool :=
  (st.pend.all fun a => decide (seq ≤ a.seq) || (match a.op with | .push _ => true | _ => passesRelease (queueScope kind) a))
    && ((earlierOps s core st.gen seq).all fun o => !o.readsLeft && (kind == 0 || !(o.kind == .copy || o.kind == .send)))
    && releasesMet s core st seq

/-- Whether the waits of the pushes on their way that the strand issued before a sequence number are met: a push, too, is a
release (R194, R212). -/
def pushesMet (s : State) (core : Nat) (st : Strand) (seq : Nat) : Bool :=
  s.queues.all fun q => q.2.transit.all fun e =>
    !(e.gen == st.gen && !e.engine && decide (e.seq < seq)) || pushReady s core st e.seq q.2.kind

/-- Whether two ranges of object addresses have a byte in common. -/
def rangesMeet (a : Word) (m : Nat) (b : Word) (n : Nat) : Bool :=
  decide (0 < m) && decide (0 < n) && bits a 63 48 == bits b 63 48 && decide (bits a 47 0 < bits b 47 0 + n) && decide (bits b 47 0 < bits a 47 0 + m)

/-- Whether an operation has yet to read some byte of a range of object addresses (R189). -/
def EngineOp.sourceLeft (o : EngineOp) (a : Word) (n : Nat) : Bool :=
  o.readsLeft && !o.fromSpad
    && (rangesMeet (o.src + BitVec.ofNat 64 (4096 * o.sector)) (o.len - 4096 * o.sector) a n
      || o.unread.any fun b => rangesMeet (o.src + BitVec.ofNat 64 b) (Nat.min 64 (o.len - b)) a n)

/-- Whether an operation writes to memory of the issuing package. -/
def EngineOp.writesMemory (o : EngineOp) : Bool := (o.kind == .copy && o.pkg.isNone) || o.kind == .sread

/-- Whether an operation has yet to write some byte of a range of object addresses (R189). -/
def EngineOp.destLeft (o : EngineOp) (a : Word) (n : Nat) : Bool :=
  o.writesMemory && o.cause == 0
    && (rangesMeet (o.dst + BitVec.ofNat 64 (4096 * o.sector)) (o.len - 4096 * o.sector) a n
      || (o.unread ++ o.flight.map (·.1)).any fun b => rangesMeet (o.dst + BitVec.ofNat 64 b) (Nat.min 64 (o.len - b)) a n)

/-- Whether an operation has yet to add to an arrival word in a range of object addresses (R189, R211). -/
def EngineOp.arrLeft (o : EngineOp) (a : Word) (n : Nat) : Bool := o.addsLeft && rangesMeet o.arr 8 a n

/-- Whether two ranges of wrapped offsets of an allocation have a byte in common. -/
def wrapsMeet (size a m b n : Nat) : Bool :=
  decide (0 < m) && decide (0 < n)
    && (decide ((b % size + size - a % size) % size < m) || decide ((a % size + size - b % size) % size < n))

/-- The offsets of a destination that a SEND has yet to write: from the write pointer of its channel on, once the transfer has
started (R209). -/
def sendLeft (s : State) (core : Nat) (o : EngineOp) (d : SendDest) : Nat × Nat :=
  let h := (s.core d.core).channels.get {} d.chan
  if h.current.any fun t => t.srcCore == core && t.op == o.id && t.dest == d.d then (h.wp, h.stop - h.wp) else (d.off, d.total)

/-- Whether a SEND has yet to write some byte of a range of a strand's allocation (R189). -/
def EngineOp.spadLeft (s : State) (core : Nat) (o : EngineOp) (gen size off n : Nat) : Bool :=
  o.kind == .send && o.dests.any fun d =>
    !d.ended && d.gen == gen && wrapsMeet size (sendLeft s core o d).1 (sendLeft s core o d).2 off n

/-- Whether every earlier read of the strand, and the waits of its earlier releases and pushes, let a write at a sequence
number be performed (R191, R194, R212). -/
def writeLet (s : State) (core : Nat) (st : Strand) (seq : Nat) : Bool :=
  (st.pend.all fun a => decide (seq ≤ a.seq) || !a.op.reads || a.performed)
    && ((earlierOps s core st.gen seq).all fun o => !o.readsLeft)
    && releasesMet s core st seq && pushesMet s core st seq

/-- Whether a scratchpad store of the strand must wait (R191, R194, R219): it is performed at its issue, after every earlier
read, and after the bytes that a SEND of the strand to itself is still to write there. -/
def spadStoreWaits (s : State) (core : Nat) (st : Strand) (off n : Nat) : Bool :=
  !writeLet s core st st.nextSeq
    || (earlierOps s core st.gen st.nextSeq).any fun o => o.spadLeft s core st.gen st.spadSize off n

/-- Whether an access reaches a range of object addresses in the issuing package. -/
def Access.meets (a : Access) (f : Word → Nat → Bool) : Bool := a.pkg.isNone && a.spans.any fun r => f r.1 r.2

/-- Whether an earlier access b of the strand lets a later one a be performed (R191, R196, R202, R205). -/
def lets (b a : Access) : Bool :=
  !b.acquires
    && !(a.op.writes && b.op.reads && !b.performed)
    && (!b.overlaps a
      || (match b.op, a.op with
        | .store _, .load _ _ => true
        | .store _, .loadVec _ => true
        | .push _, _ => true
        | .fship .., _ => b.performed
        | _, _ => if b.op.isFabric && a.op.isFabric then false else b.performed))
    && (match b.op, a.op with
      | .amsg _ c p _, .amsg _ c' p' _ => b.performed || b.arrived || b.dropped || c != c' || p != p'
      | _, _ => true)

/-- Whether the engine operations that the strand issued before an access let it be performed (R189, R191): their source
reads come before every later write, and before a later read of the same bytes; their destination writes come before a
later fabric operation on the same bytes, their arrival-word adds before any later access to the word. A load of a
destination returns old or new bytes (R208). -/
def opsLet (s : State) (core : Nat) (st : Strand) (a : Access) : Bool :=
  (earlierOps s core st.gen a.seq).all fun o =>
    !(a.op.writes && o.readsLeft) && !(a.op.reads && a.meets o.sourceLeft) && !(a.op.isFabric && a.meets o.destLeft)
      && !a.meets o.arrLeft

/-- Whether an access of a strand, or the part of it that is given, may be performed now. -/
def mayPerform (s : State) (core : Nat) (st : Strand) (a : Access) : Bool :=
  !a.performed && !a.arrived && !a.dropped && (st.pend.all fun b => decide (a.seq ≤ b.seq) || lets b a)
    && opsLet s core st a
    && (!a.op.writes || (releasesMet s core st a.seq && pushesMet s core st a.seq))
    && (!a.releases || releaseReady s core st a.seq a.scope)

/-! The parts of an access (R170, R220, R225): one for each line, and for each element of a vector access. -/

/-- The part of a whole-register access that a byte belongs to: its aligned 8-byte unit when the access covers it whole, else
the byte alone (R220). -/
def unitPart (cells : List Nat) (cell : Nat) : Nat :=
  if (cells.filter fun k => k / 8 == cell / 8).length == 8 then cell / 8 * 8 else cell

/-- The part that a byte of a read belongs to: element and line, or the unit of a whole-register load. -/
def Access.readKey (a : Access) (r : Nat × Nat) : Nat × Nat :=
  match a.op with
  | .loadVec 64 => (0, unitPart (a.reads.map (·.2)) r.2)
  | .loadVec chunk => (r.1 / Nat.max chunk 1, r.2 / 64)
  | _ => (0, r.2 / 64)

/-- The parts of an access that are still to be read. -/
def Access.readParts (a : Access) : List (Nat × Nat) := (a.reads.map a.readKey).dedup

/-- One part of a read: k counts the parts that are left. -/
def Access.readPart (a : Access) (k : Nat) : Access :=
  match a.readParts[k % Nat.max a.readParts.length 1]? with
  | some key => { a with reads := a.reads.filter fun r => a.readKey r == key }
  | none => a

/-- The rest of a read after a part has been performed with the bytes it returned. -/
def Access.afterRead (a p : Access) (bs : List (Nat × Byte)) (bad : Bool) : Access :=
  { a with reads := a.reads.filter (fun r => !p.reads.contains r), got := a.got ++ bs, bad := a.bad || bad }

/-- Whether an earlier element of the same access has yet to read one of the bytes of a part (R191, R225). -/
def Access.inOrder (a p : Access) : Bool :=
  match p.reads.head? with
  | none => true
  | some h => a.reads.all fun r =>
      decide ((a.readKey h).1 ≤ (a.readKey r).1) || !p.reads.any fun q => q.2 == r.2

/-- The element that a store performs next: elements are performed in ascending lane order (R225). -/
def Access.element (a : Access) : List (Nat × Byte) :=
  match a.op with
  | .store chunk => a.writes.take ((a.writes.length - 1) % Nat.max chunk 1 + 1)
  | _ => a.writes

/-- The part of a store that a cell belongs to: its line, or the unit of a whole-register store (R220). -/
def Access.writeKey (a : Access) (cell : Nat) : Nat :=
  match a.op with
  | .store 64 => unitPart (a.element.map (·.1)) cell
  | _ => cell / 64

/-- One part of a store: k counts the parts of the element that are left. -/
def Access.writePart (a : Access) (k : Nat) : Access :=
  let parts := (a.element.map fun w => a.writeKey w.1).dedup
  match parts[k % Nat.max parts.length 1]? with
  | some l => { a with writes := a.element.filter fun w => a.writeKey w.1 == l }
  | none => a

/-- The rest of a store after a part has been performed. -/
def Access.afterWrite (a p : Access) : Access :=
  { a with writes := a.element.filter (fun w => !p.writes.contains w) ++ a.writes.drop a.element.length }

/-- The byte that a read of the strand returns for a cell: its own latest earlier store that is not yet performed, else
the byte in the coherent copy (R190, R191). -/
def seenByte (s : State) (st : Strand) (seq cell : Nat) : Byte :=
  let own := st.pend.filter fun b => decide (b.seq < seq) && (match b.op with | .store _ => true | _ => false)
  match (own.flatMap (·.writes)).reverse.find? (fun w => w.1 == cell) with
  | some w => w.2
  | none => s.byteAt cell

/-- Adds an outstanding access with the strand's next sequence number. -/
def Strand.begin (st : Strand) (a : Access) : Strand :=
  { st with pend := st.pend ++ [{ a with seq := st.nextSeq }], nextSeq := st.nextSeq + 1 }

/-- Ends an outstanding access. -/
def Strand.finish (st : Strand) (a : Access) : Strand :=
  { st with pend := st.pend.filter fun b => !(b.seq == a.seq && b.op == a.op) }

/-- An access with no effect, to be filled in. -/
def noAccess (op : AccOp) : Access :=
  { seq := 0, op := op, addr := 0, ord := .plain, scope := .core, reads := [], writes := [], dest := .none, base := 0,
    pkg := none, performed := false, dropped := false, value := 0 }

/-- Reserves the destination of a value that comes later: a register becomes owed, a port gets an element without data
(R219, R222). The element takes the access's own sequence number. -/
def reserve (s : State) (st : Strand) (d : Reg) : State × Strand × Dest :=
  match d with
  | .x n => if n.val = 0 then (s, st, .none) else (s, { st with owed := st.owed ++ [n.val] }, .x n.val)
  | .q k =>
    let r := pushPort s st k.val 0 none
    (r.1, { r.2 with nextSeq := st.nextSeq }, .port k.val)
  | .e _ => (s, st, .none)

/-- Reserves a vector register (R224). -/
def reserveV (st : Strand) (v : VReg) : Strand × Dest := ({ st with owed := st.owed ++ [64 + v.val] }, .v v.val)

/-- Fills the data of an element on its way (R57). -/
def fillElem (s : State) (queue gen seq : Nat) (v : Word) (bad : Bool) : State :=
  match s.queue queue with
  | some q => s.setQueue queue { q with transit := q.transit.map fun e =>
      if e.gen == gen && e.seq == seq && e.data.isNone then { e with data := some v, bad := bad } else e }
  | none => s

/-- Delivers a scalar value to its destination; `bad` marks data with an uncorrectable error (R382, R407). -/
def deliver (s : State) (st : Strand) (a : Access) (v : Word) (bad : Bool) : State × Strand :=
  match a.dest with
  | .none => (s, st)
  | .x n =>
    if bad then (s, { st with owed := st.owed.erase n, poison := st.poison.insert n (0, a.addr) })
    else (s, st.deliverX n v)
  | .v _ => (s, st)
  | .port k => match portOf st k with
    | some p => (fillElem s p.queue st.gen a.seq v bad, st)
    | none => (s, st)

/-- Delivers a vector value. -/
def deliverV (st : Strand) (a : Access) (v : VWord) (bad : Bool) : Strand :=
  match a.dest with
  | .v n =>
    if bad then { st with owed := st.owed.erase (64 + n), poison := st.poison.insert (64 + n) (0, a.addr) }
    else { (st.setV n v) with owed := st.owed.erase (64 + n) }
  | _ => st

end Sys2Proof.Machine
end

