-- ==== Sys2Proof/Machine/Alu.lean ====
section
/-! DEFINITION. The 64-bit integer operations of majors 0x00 to 0x08 and of the atomics (R102 to R109, R227). -/

namespace Sys2Proof.Machine

/-- Shift amounts use bits [5:0] (R102). -/
def amount (b : Word) : Nat := b.toNat % 64

/-- The lesser as s64 (R102). -/
def minS (a b : Word) : Word := if a.toInt ≤ b.toInt then a else b

/-- The greater as s64 (R102). -/
def maxS (a b : Word) : Word := if a.toInt ≤ b.toInt then b else a

/-- The lesser as w64 (R102). -/
def minW (a b : Word) : Word := if a.toNat ≤ b.toNat then a else b

/-- The greater as w64 (R102). -/
def maxW (a b : Word) : Word := if a.toNat ≤ b.toNat then b else a

/-- High half of the signed product (R103). -/
def mulHighS (a b : Word) : Word := BitVec.ofInt 64 (a.toInt * b.toInt / 2 ^ 64)

/-- High half of the unsigned product (R103). -/
def mulHighW (a b : Word) : Word := BitVec.ofNat 64 (a.toNat * b.toNat / 2 ^ 64)

/-- Signed quotient: all ones for a divisor of 0; the quotient toward zero, wrapping (R103). -/
def quoS (a b : Word) : Word := if b = 0 then BitVec.allOnes 64 else BitVec.ofInt 64 (a.toInt.tdiv b.toInt)

/-- Signed remainder, of the dividend's sign; the dividend for a divisor of 0 (R103). -/
def remS (a b : Word) : Word := if b = 0 then a else BitVec.ofInt 64 (a.toInt.tmod b.toInt)

/-- Unsigned quotient (R103). -/
def quoW (a b : Word) : Word := if b = 0 then BitVec.allOnes 64 else BitVec.ofNat 64 (a.toNat / b.toNat)

/-- Unsigned remainder (R103). -/
def remW (a b : Word) : Word := if b = 0 then a else BitVec.ofNat 64 (a.toNat % b.toNat)

/-- Leading zero bits; 64 for 0 (R104). -/
def countLeading (a : Word) : Word := BitVec.ofNat 64 ((firstBelow 64 fun k => bit a (63 - k)).getD 64)

/-- Trailing zero bits; 64 for 0 (R104). -/
def countTrailing (a : Word) : Word := BitVec.ofNat 64 ((firstBelow 64 fun k => bit a k).getD 64)

/-- One bits (R104). -/
def countOnes (a : Word) : Word := BitVec.ofNat 64 ((List.range 64).filter (bit a)).length

/-- The positions of the one bits of a mask, ascending. -/
def onePositions (m : Word) : List Nat := (List.range 64).filter (bit m)

/-- The bits of a at the one positions of m, packed into the low bits (R104). -/
def gatherBits (a m : Word) : Word :=
  BitVec.ofNat 64 (((onePositions m).zipIdx.map fun p => if bit a p.1 then 2 ^ p.2 else 0).foldl (· + ·) 0)

/-- The low bits of a, scattered to the one positions of m (R104). -/
def scatterBits (a m : Word) : Word :=
  BitVec.ofNat 64 (((onePositions m).zipIdx.map fun p => if bit a p.2 then 2 ^ p.1 else 0).foldl (· + ·) 0)

/-- Sign extension of a 22-bit immediate (R106). -/
def imm22 (k : BitVec 22) : Word := k.signExtend 64

/-- Sign extension of a 32-bit immediate (R107). -/
def imm32 (k : BitVec 32) : Word := k.signExtend 64

end Sys2Proof.Machine
end

