-- ==== Sys2Proof/Machine/Scalar.lean ====
section
/-! DEFINITION. Scalar integer and address instructions (R102 to R109). -/

namespace Sys2Proof.Machine

/-- An instruction that writes a function of its sources to one destination. -/
def compute (i : Instr) (d : Reg) (src : List Reg) (s : State) (f : (Reg → Word) → Word) :
    Host.Outcome State Fault Refusal :=
  issue i (fun _ => { src := src, dst := [d] }) s fun v => results v [(d, f v.x)]

/-- The effective address of a memory operand (R46). -/
def effective (m : MemRef) (x : Reg → Word) : Word :=
  x m.base + (if m.idx = Reg.zero then 0 else x m.idx <<< m.sc.toNat) + m.off.signExtend 64

/-- The registers of a memory operand. -/
def memRegs (m : MemRef) : List Reg := [m.base, m.idx]

/-- R102: sum, wrapping. -/
def execAdd (d a b : Reg) (s : State) : Host.Outcome State Fault Refusal :=
  compute (.add d a b) d [a, b] s fun x => x a + x b

/-- R102: difference, wrapping. -/
def execSub (d a b : Reg) (s : State) : Host.Outcome State Fault Refusal :=
  compute (.sub d a b) d [a, b] s fun x => x a - x b

/-- R102: bitwise AND. -/
def execAnd (d a b : Reg) (s : State) : Host.Outcome State Fault Refusal :=
  compute (.and d a b) d [a, b] s fun x => x a &&& x b

/-- R102: bitwise OR. -/
def execOr (d a b : Reg) (s : State) : Host.Outcome State Fault Refusal :=
  compute (.or d a b) d [a, b] s fun x => x a ||| x b

/-- R102: bitwise XOR. -/
def execXor (d a b : Reg) (s : State) : Host.Outcome State Fault Refusal :=
  compute (.xor d a b) d [a, b] s fun x => x a ^^^ x b

/-- R102: AND NOT. -/
def execAndn (d a b : Reg) (s : State) : Host.Outcome State Fault Refusal :=
  compute (.andn d a b) d [a, b] s fun x => x a &&& ~~~x b

/-- R102: left shift. -/
def execSll (d a b : Reg) (s : State) : Host.Outcome State Fault Refusal :=
  compute (.sll d a b) d [a, b] s fun x => x a <<< amount (x b)

/-- R102: logical right shift. -/
def execSrl (d a b : Reg) (s : State) : Host.Outcome State Fault Refusal :=
  compute (.srl d a b) d [a, b] s fun x => x a >>> amount (x b)

/-- R102: arithmetic right shift. -/
def execSra (d a b : Reg) (s : State) : Host.Outcome State Fault Refusal :=
  compute (.sra d a b) d [a, b] s fun x => (x a).sshiftRight (amount (x b))

/-- R102: left rotation. -/
def execRol (d a b : Reg) (s : State) : Host.Outcome State Fault Refusal :=
  compute (.rol d a b) d [a, b] s fun x => (x a).rotateLeft (amount (x b))

/-- R102: lesser as s64. -/
def execMin (d a b : Reg) (s : State) : Host.Outcome State Fault Refusal :=
  compute (.min d a b) d [a, b] s fun x => minS (x a) (x b)

/-- R102: greater as s64. -/
def execMax (d a b : Reg) (s : State) : Host.Outcome State Fault Refusal :=
  compute (.max d a b) d [a, b] s fun x => maxS (x a) (x b)

/-- R102: lesser as w64. -/
def execMinw (d a b : Reg) (s : State) : Host.Outcome State Fault Refusal :=
  compute (.minw d a b) d [a, b] s fun x => minW (x a) (x b)

/-- R102: greater as w64. -/
def execMaxw (d a b : Reg) (s : State) : Host.Outcome State Fault Refusal :=
  compute (.maxw d a b) d [a, b] s fun x => maxW (x a) (x b)

/-- R103: low half of the product. -/
def execMul (d a b : Reg) (s : State) : Host.Outcome State Fault Refusal :=
  compute (.mul d a b) d [a, b] s fun x => x a * x b

/-- R103: high half of the signed product. -/
def execMulhs (d a b : Reg) (s : State) : Host.Outcome State Fault Refusal :=
  compute (.mulhs d a b) d [a, b] s fun x => mulHighS (x a) (x b)

/-- R103: high half of the unsigned product. -/
def execMulhw (d a b : Reg) (s : State) : Host.Outcome State Fault Refusal :=
  compute (.mulhw d a b) d [a, b] s fun x => mulHighW (x a) (x b)

/-- R103: signed quotient. -/
def execDiv (d a b : Reg) (s : State) : Host.Outcome State Fault Refusal :=
  compute (.div d a b) d [a, b] s fun x => quoS (x a) (x b)

/-- R103: unsigned quotient. -/
def execDivw (d a b : Reg) (s : State) : Host.Outcome State Fault Refusal :=
  compute (.divw d a b) d [a, b] s fun x => quoW (x a) (x b)

/-- R103: signed remainder. -/
def execRem (d a b : Reg) (s : State) : Host.Outcome State Fault Refusal :=
  compute (.rem d a b) d [a, b] s fun x => remS (x a) (x b)

/-- R103: unsigned remainder. -/
def execRemw (d a b : Reg) (s : State) : Host.Outcome State Fault Refusal :=
  compute (.remw d a b) d [a, b] s fun x => remW (x a) (x b)

/-- R104: leading zeros. -/
def execClz (d a : Reg) (s : State) : Host.Outcome State Fault Refusal :=
  compute (.clz d a) d [a] s fun x => countLeading (x a)

/-- R104: trailing zeros. -/
def execCtz (d a : Reg) (s : State) : Host.Outcome State Fault Refusal :=
  compute (.ctz d a) d [a] s fun x => countTrailing (x a)

/-- R104: one bits. -/
def execPopc (d a : Reg) (s : State) : Host.Outcome State Fault Refusal :=
  compute (.popc d a) d [a] s fun x => countOnes (x a)

/-- R104: bits gathered by a mask. -/
def execBext (d a b : Reg) (s : State) : Host.Outcome State Fault Refusal :=
  compute (.bext d a b) d [a, b] s fun x => gatherBits (x a) (x b)

/-- R104: bits scattered by a mask. -/
def execBdep (d a b : Reg) (s : State) : Host.Outcome State Fault Refusal :=
  compute (.bdep d a b) d [a, b] s fun x => scatterBits (x a) (x b)

/-- R104: copy. -/
def execMov (d a : Reg) (s : State) : Host.Outcome State Fault Refusal :=
  compute (.mov d a) d [a] s fun x => x a

/-- R104: sign extension of the low n + 1 bits. -/
def execSext (d a : Reg) (n : BitVec 6) (s : State) : Host.Outcome State Fault Refusal :=
  compute (.sext d a n) d [a] s fun x => sext (n.toNat + 1) (x a).toNat

/-- R104: zero extension of the low n + 1 bits. -/
def execZext (d a : Reg) (n : BitVec 6) (s : State) : Host.Outcome State Fault Refusal :=
  compute (.zext d a n) d [a] s fun x => zext (n.toNat + 1) (x a).toNat

/-- R105: equal. -/
def execSeq (d a b : Reg) (s : State) : Host.Outcome State Fault Refusal :=
  compute (.seq d a b) d [a, b] s fun x => ofBool (x a == x b)

/-- R105: not equal. -/
def execSne (d a b : Reg) (s : State) : Host.Outcome State Fault Refusal :=
  compute (.sne d a b) d [a, b] s fun x => ofBool (x a != x b)

/-- R105: below as s64. -/
def execSlt (d a b : Reg) (s : State) : Host.Outcome State Fault Refusal :=
  compute (.slt d a b) d [a, b] s fun x => ofBool ((x a).slt (x b))

/-- R105: at or above as s64. -/
def execSge (d a b : Reg) (s : State) : Host.Outcome State Fault Refusal :=
  compute (.sge d a b) d [a, b] s fun x => ofBool !((x a).slt (x b))

/-- R105: below as w64. -/
def execSltw (d a b : Reg) (s : State) : Host.Outcome State Fault Refusal :=
  compute (.sltw d a b) d [a, b] s fun x => ofBool ((x a).ult (x b))

/-- R105: at or above as w64. -/
def execSgew (d a b : Reg) (s : State) : Host.Outcome State Fault Refusal :=
  compute (.sgew d a b) d [a, b] s fun x => ofBool !((x a).ult (x b))

/-- R106: sum with k. -/
def execAddi (d a : Reg) (k : BitVec 22) (s : State) : Host.Outcome State Fault Refusal :=
  compute (.addi d a k) d [a] s fun x => x a + imm22 k

/-- R106: AND with k. -/
def execAndi (d a : Reg) (k : BitVec 22) (s : State) : Host.Outcome State Fault Refusal :=
  compute (.andi d a k) d [a] s fun x => x a &&& imm22 k

/-- R106: OR with k. -/
def execOri (d a : Reg) (k : BitVec 22) (s : State) : Host.Outcome State Fault Refusal :=
  compute (.ori d a k) d [a] s fun x => x a ||| imm22 k

/-- R106: XOR with k. -/
def execXori (d a : Reg) (k : BitVec 22) (s : State) : Host.Outcome State Fault Refusal :=
  compute (.xori d a k) d [a] s fun x => x a ^^^ imm22 k

/-- R106: left shift by k. -/
def execSlli (d a : Reg) (k : BitVec 22) (s : State) : Host.Outcome State Fault Refusal :=
  compute (.slli d a k) d [a] s fun x => x a <<< k.toNat

/-- R106: logical right shift by k. -/
def execSrli (d a : Reg) (k : BitVec 22) (s : State) : Host.Outcome State Fault Refusal :=
  compute (.srli d a k) d [a] s fun x => x a >>> k.toNat

/-- R106: arithmetic right shift by k. -/
def execSrai (d a : Reg) (k : BitVec 22) (s : State) : Host.Outcome State Fault Refusal :=
  compute (.srai d a k) d [a] s fun x => (x a).sshiftRight k.toNat

/-- R106: left rotation by k. -/
def execRoli (d a : Reg) (k : BitVec 22) (s : State) : Host.Outcome State Fault Refusal :=
  compute (.roli d a k) d [a] s fun x => (x a).rotateLeft k.toNat

/-- R106: lesser of the source and k as s64. -/
def execMini (d a : Reg) (k : BitVec 22) (s : State) : Host.Outcome State Fault Refusal :=
  compute (.mini d a k) d [a] s fun x => minS (x a) (imm22 k)

/-- R106: greater of the source and k as s64. -/
def execMaxi (d a : Reg) (k : BitVec 22) (s : State) : Host.Outcome State Fault Refusal :=
  compute (.maxi d a k) d [a] s fun x => maxS (x a) (imm22 k)

/-- R106: 1 when below k as s64. -/
def execSlti (d a : Reg) (k : BitVec 22) (s : State) : Host.Outcome State Fault Refusal :=
  compute (.slti d a k) d [a] s fun x => ofBool ((x a).slt (imm22 k))

/-- R106: 1 when equal to k. -/
def execSeqi (d a : Reg) (k : BitVec 22) (s : State) : Host.Outcome State Fault Refusal :=
  compute (.seqi d a k) d [a] s fun x => ofBool (x a == imm22 k)

/-- R107: the sign-extended 22-bit immediate. -/
def execLi (d : Reg) (k : BitVec 22) (s : State) : Host.Outcome State Fault Refusal :=
  compute (.li d k) d [] s fun _ => imm22 k

/-- R107: the sign-extended 32-bit immediate. -/
def execLi32 (d : Reg) (k : BitVec 32) (s : State) : Host.Outcome State Fault Refusal :=
  compute (.li32 d k) d [] s fun _ => imm32 k

/-- R107: the immediate above the low half of the source. -/
def execLih (d a : Reg) (k : BitVec 32) (s : State) : Host.Outcome State Fault Refusal :=
  compute (.lih d a k) d [a] s fun x => k ++ (x a).setWidth 32

/-- R108: the effective address, nothing accessed. -/
def execLea (d : Reg) (m : MemRef) (s : State) : Host.Outcome State Fault Refusal :=
  compute (.lea d m) d (memRegs m) s fun x => effective m x

/-- R109: one of two sources by a third; all three are read. -/
def execSel (d c a b : Reg) (s : State) : Host.Outcome State Fault Refusal :=
  compute (.sel d c a b) d [c, a, b] s fun x => if x c = 0 then x b else x a

end Sys2Proof.Machine
end

