-- ==== Sys2Proof/Machine/Flags.lean ====
section
/-! DEFINITION. FSTAT and its flags (R88 to R90), the rounding mode in force (R49), and the bits of stochastic rounding (R84). -/

namespace Sys2Proof.Machine

/-- FSTAT bit nx (R88): inexact. -/
def flagNx : Nat := 1
/-- FSTAT bit uf (R88): underflow. -/
def flagUf : Nat := 2
/-- FSTAT bit of (R88): overflow. -/
def flagOf : Nat := 4
/-- FSTAT bit dz (R88): division by zero. -/
def flagDz : Nat := 8
/-- FSTAT bit nv (R88): invalid operation. -/
def flagNv : Nat := 16

/-- A flag when a condition holds. -/
def flagIf (b : Bool) (f : Nat) : Nat := if b then f else 0

/-- The rounding mode of a code (R49). -/
def rndOf (k : Nat) : Rnd :=
  match k with
  | 0 => .rne | 1 => .rtz | 2 => .rdn | 3 => .rup | 4 => .rna | 5 => .sto | 6 => .odd | _ => .dyn

/-- dyn is the mode in FSTAT (R49, R88). -/
def resolveRnd (st : Strand) (rm : Rnd) : Rnd := if rm = .dyn then rndOf (bits st.fstat 10 8) else rm

/-- FSTAT after a write (R88): a write of 7 to rm leaves rm; reserved bits read zero. -/
def writeFstat (old new : Word) : Word :=
  put (bits new 4 0) 0 ||| put (if bits new 10 8 = 7 then bits old 10 8 else bits new 10 8) 8

/-- mix64 (R84). -/
def mix64 (z0 : Word) : Word :=
  let z1 := (z0 ^^^ (z0 >>> 31)) * 0x7FB5D329728EA185
  let z2 := (z1 ^^^ (z1 >>> 27)) * 0x81DADEF4BC2DD44D
  z2 ^^^ (z2 >>> 33)

/-- sr_bits (R84): the 32 random bits of an element. -/
def srBits (seed pc : Word) (idx : Nat) (cnt : Word) : Nat :=
  let h1 := mix64 (seed ^^^ 0x53414C5700000001)
  let h2 := mix64 (h1 ^^^ pc)
  let h3 := mix64 (h2 ^^^ cnt)
  let h4 := mix64 (h3 ^^^ BitVec.ofNat 64 idx)
  bits h4 63 32

/-- The launch seed of a core; free on a core that no launch holds (R84, log 5). -/
def seedOf (s : State) (core : Nat) : Word :=
  match launchOf s core with
  | some l => l.seed
  | none => Config.freeWord s.free

/-- The random bits of element idx of the instruction that issues. -/
def drawOf (s : State) (cx : Ctx) (idx : Nat) : Nat := srBits (seedOf s cx.core) cx.st.pc idx cx.st.srcnt

end Sys2Proof.Machine
end

