-- ==== Sys2Proof/Machine/Float.lean ====
section
/-! DEFINITION. Floating-point formats, rounding, overflow and conversion (R68 to R83). -/

namespace Sys2Proof.Machine

/-- A floating-point format (R70, R72): width, precision with the leading bit, bias, the greatest finite significand (in
units of 2^(emax - p + 1)), emax, infinities, NaNs, and the canonical NaN. -/
structure Fmt where
  w : Nat
  p : Nat
  bias : Nat
  emax : Nat
  top : Nat
  hasInf : Bool
  hasNan : Bool
  nan : Nat
deriving DecidableEq, Repr

/-- The format of a floating-point type (R70, R72); other types have no format. -/
def fmtOf : ElemTy → Fmt
  | .f64 => ⟨64, 53, 1023, 1023, 2 ^ 53 - 1, true, true, 0x7FF8000000000000⟩
  | .f16 => ⟨16, 11, 15, 15, 2 ^ 11 - 1, true, true, 0x7E00⟩
  | .bf16 => ⟨16, 8, 127, 127, 2 ^ 8 - 1, true, true, 0x7FC0⟩
  | .e5m2 => ⟨8, 3, 15, 15, 7, true, true, 0x7E⟩
  | .e4m3 => ⟨8, 4, 7, 8, 14, false, true, 0x7F⟩
  | .e2m1 => ⟨4, 2, 1, 2, 3, false, false, 0⟩
  | _ => ⟨32, 24, 127, 127, 2 ^ 24 - 1, true, true, 0x7FC00000⟩

/-- Least exponent of a normal number (R70). -/
def Fmt.emin (f : Fmt) : Int := 1 - (f.bias : Int)

/-- The value of an encoding (R71): a NaN, an infinity, or (-1)^neg * m * 2^e, with its sign; `more` says that the exact
magnitude lies strictly between m * 2^e and (m + 1) * 2^e. -/
inductive FVal where
  | nan (neg signalling : Bool)
  | inf (neg : Bool)
  | fin (neg : Bool) (m : Nat) (e : Int) (more : Bool)
deriving DecidableEq, Repr

/-- Width of an element type in bits (R48); e2m1 elements have 4. -/
def widthOf : ElemTy → Nat
  | .s8 | .w8 | .e4m3 | .e5m2 | .e8m0 => 8
  | .s16 | .w16 | .f16 | .bf16 => 16
  | .s32 | .w32 | .f32 => 32
  | .s64 | .w64 | .f64 => 64
  | .e2m1 => 4

/-- Codes 8 to 14: the floating-point types. -/
def isFloat : ElemTy → Bool
  | .f16 | .bf16 | .f32 | .f64 | .e4m3 | .e5m2 | .e2m1 => true
  | _ => false

/-- Signed integer types. -/
def isSignedTy : ElemTy → Bool
  | .s8 | .s16 | .s32 | .s64 => true
  | _ => false

/-- Integer types (R48). -/
def isIntTy : ElemTy → Bool
  | .s8 | .s16 | .s32 | .s64 | .w8 | .w16 | .w32 | .w64 => true
  | _ => false

/-- The integer value of bits as sN or wN (R68). -/
def ival (t : ElemTy) (b : Nat) : Int := if isSignedTy t then signed (widthOf t) b else (b % 2 ^ widthOf t : Nat)

/-- The value of a floating-point encoding (R71, R72). -/
def fvalFmt (t : ElemTy) (b : Nat) : FVal :=
  let f := fmtOf t
  let fw := f.p - 1
  let neg := b / 2 ^ (f.w - 1) % 2 == 1
  let ex := b / 2 ^ fw % 2 ^ (f.w - f.p)
  let fr := b % 2 ^ fw
  let ones := 2 ^ (f.w - f.p) - 1
  if f.hasInf && ex == ones then
    if fr == 0 then .inf neg else .nan neg (fr / 2 ^ (fw - 1) % 2 == 0)
  else if f.hasNan && !f.hasInf && ex == ones && fr == 2 ^ fw - 1 then .nan neg false
  else if ex == 0 then .fin neg fr (f.emin - fw) false
  else .fin neg (2 ^ fw + fr) ((ex : Int) - f.bias - fw) false

/-- fval (R101): the value of bits by R71 and R74; an integer type by its value. -/
def fval (t : ElemTy) (b : Nat) : FVal :=
  if t = .e8m0 then (if b % 256 = 255 then .nan false false else .fin false 1 ((b % 256 : Nat) - 127 : Int) false)
  else if isIntTy t then .fin (decide (ival t b < 0)) (ival t b).natAbs 0 false
  else fvalFmt t b

/-- The sign bit of a format, when set. -/
def signBit (f : Fmt) (neg : Bool) : Nat := if neg then 2 ^ (f.w - 1) else 0

/-- floor(log2 of m * 2^e). -/
def topExp (m : Nat) (e : Int) : Int := (Nat.log2 m : Int) + e

/-- A magnitude rounded to a multiple of 2^qe (R78): the multiple, and whether it is inexact. -/
def roundUnits (neg : Bool) (m : Nat) (e : Int) (more : Bool) (qe : Int) (rm : Rnd) (rnd : Nat) : Nat × Bool :=
  let sh := (qe - e).toNat
  let up := (e - qe).toNat
  let k := m * 2 ^ up
  let lo := k / 2 ^ sh
  let rest := k % 2 ^ sh
  if rest = 0 ∧ more = false then (lo, false)
  else
    let half := 2 * rest
    let above := decide (2 ^ sh < half) || (half == 2 ^ sh && more)
    let tie := half == 2 ^ sh && !more
    let away := match rm with
      | .rne | .dyn => above || (tie && lo % 2 == 1)
      | .rna => above || tie
      | .rtz => false
      | .rdn => neg
      | .rup => !neg
      | .odd => lo % 2 == 0
      | .sto => decide (2 ^ 32 ≤ rest * 2 ^ 32 / 2 ^ sh + rnd)
    (if away then lo + 1 else lo, true)

/-- Overflow (R79). -/
def overflow (f : Fmt) (neg : Bool) (rm : Rnd) (sat : Bool) : Nat × Nat :=
  let fl := flagOf + flagNx
  let max := f.top + ((f.emax : Int) - f.emin).toNat * 2 ^ (f.p - 1)
  let inf := (2 ^ (f.w - f.p) - 1) * 2 ^ (f.p - 1)
  let sg := signBit f neg
  if sat then (sg + max, fl)
  else if !f.hasInf then (if f.hasNan then (sg + f.nan, fl) else (sg + max, fl))
  else if rm = .rtz ∨ rm = .odd ∨ (rm = .rdn ∧ neg = false) ∨ (rm = .rup ∧ neg = true) then (sg + max, fl)
  else (sg + inf, fl)

/-- round_real (R78) of a finite value, encoded. -/
def roundFin (t : ElemTy) (neg : Bool) (m : Nat) (e : Int) (more : Bool) (rm : Rnd) (sat : Bool) (rnd : Nat) :
    Nat × Nat :=
  let f := fmtOf t
  let sg := signBit f neg
  if m = 0 ∧ more = false then (sg, 0)
  else
    let top := topExp m e
    let qmin := f.emin - (f.p : Int) + 1
    let qe := if top < f.emin then qmin else top - (f.p : Int) + 1
    let (y, nx) := roundUnits neg m e more qe rm rnd
    let qtop := (f.emax : Int) - (f.p : Int) + 1
    if decide (qtop < qe) || (qe == qtop && decide (f.top < y)) then overflow f neg rm sat
    else (sg + (qe - qmin).toNat * 2 ^ (f.p - 1) + y,
          flagIf nx flagNx ||| flagIf (nx && decide (top < f.emin)) flagUf)

/-- The encoding of a value in a floating-point type (R78, R81, R82): the conversion of a float, and the end of every
floating-point operation. -/
def roundTo (t : ElemTy) (v : FVal) (rm : Rnd) (sat : Bool) (rnd : Nat) : Nat × Nat :=
  let f := fmtOf t
  let max := f.top + ((f.emax : Int) - f.emin).toNat * 2 ^ (f.p - 1)
  match v with
  | .nan _ sg => if f.hasNan then (f.nan, flagIf sg flagNv) else (0, flagNv)
  | .inf neg =>
    if f.hasInf then (signBit f neg + (2 ^ (f.w - f.p) - 1) * 2 ^ (f.p - 1), 0)
    else if sat || !f.hasNan then (signBit f neg + max, flagNv)
    else (signBit f neg + f.nan, flagNv)
  | .fin neg m e more => roundFin t neg m e more rm sat rnd

/-- Float to integer (R82): rounded with q = 1, clamped with nv. -/
def roundInt (t : ElemTy) (v : FVal) (rm : Rnd) (rnd : Nat) : Nat × Nat :=
  let w := widthOf t
  let hi : Int := if isSignedTy t then 2 ^ (w - 1) - 1 else 2 ^ w - 1
  let lo : Int := if isSignedTy t then -(2 ^ (w - 1)) else 0
  let enc := fun (i : Int) => (i % 2 ^ w).toNat
  match v with
  | .nan _ _ => (0, flagNv)
  | .inf neg => (enc (if neg then lo else hi), flagNv)
  | .fin neg m e more =>
    if e > 128 ∧ m ≠ 0 then (enc (if neg then lo else hi), flagNv)
    else
      let (y, nx) := roundUnits neg m e more 0 rm rnd
      let i : Int := if neg then -(y : Int) else y
      if hi < i then (enc hi, flagNv) else if i < lo then (enc lo, flagNv) else (enc i, flagIf nx flagNx)

/-- Conversion to e8m0 (R83); an infinity by R82, as the target has none (log 21). -/
def roundE8m0 (v : FVal) (rm : Rnd) (sat : Bool) (rnd : Nat) : Nat × Nat :=
  match v with
  | .nan _ _ => (255, flagNv)
  | .inf neg => (if sat && !neg then 254 else 255, flagNv)
  | .fin neg m e more =>
    if neg then (255, flagNv)
    else if m = 0 then (0, flagUf ||| flagNx)
    else
      let k := topExp m e
      let p := 2 ^ Nat.log2 m
      let exact := m == p && !more
      let rest := m - p
      let field := k + 127
      let away := !exact && match rm with
        | .rtz | .rdn => false
        | .rup => true
        | .rne | .dyn => decide (p < 2 * rest) || (2 * rest == p && (more || field % 2 == 1))
        | .rna => decide (p ≤ 2 * rest)
        | .odd => field % 2 == 0
        | .sto => decide (2 ^ 32 ≤ rest * 2 ^ 32 / p + rnd)
      let r := if away then field + 1 else field
      if r < 0 then (0, flagUf ||| flagNx)
      else if 254 < r then (if sat then 254 else 255, flagOf ||| flagNx)
      else (r.toNat, flagIf (!exact) flagNx)

/-- Integer to integer (R125): the low bits, or clamped under sat. -/
def convertInt (st dt : ElemTy) (b : Nat) (sat : Bool) : Nat :=
  let w := widthOf dt
  let hi : Int := if isSignedTy dt then 2 ^ (w - 1) - 1 else 2 ^ w - 1
  let lo : Int := if isSignedTy dt then -(2 ^ (w - 1)) else 0
  let v := ival st b
  ((if sat then Max.max lo (Min.min hi v) else v) % 2 ^ w).toNat

/-- convert (R125): the result bits and flags. -/
def convert (st dt : ElemTy) (b : Nat) (rm : Rnd) (sat : Bool) (rnd : Nat) : Nat × Nat :=
  if isIntTy st && isIntTy dt then (convertInt st dt b sat, 0)
  else if dt = .e8m0 then roundE8m0 (fval st b) rm sat rnd
  else if isIntTy dt then roundInt dt (fval st b) rm rnd
  else roundTo dt (fval st b) rm (sat && !isIntTy st) rnd

/-! Exact arithmetic (R77, R80, R81). An operation gives its exact result and whether it is invalid. -/

/-- Whether a value is a signalling NaN. -/
def FVal.signals : FVal → Bool
  | .nan _ s => s
  | _ => false

/-- Whether a value is a NaN. -/
def FVal.isNan : FVal → Bool
  | .nan _ _ => true
  | _ => false

/-- The value with its sign inverted. -/
def FVal.neg : FVal → FVal
  | .nan n s => .nan n s
  | .inf n => .inf !n
  | .fin n m e k => .fin (!n) m e k

/-- A signed magnitude over 2^e. -/
def scaled (neg : Bool) (m : Nat) (e low : Int) : Int :=
  let k : Int := m * 2 ^ (e - low).toNat
  if neg then -k else k

/-- The exact sum; the sign of an exact zero by R80. -/
def addVal (a b : FVal) (rm : Rnd) : FVal × Bool :=
  match a, b with
  | .nan _ _, _ => (.nan false false, a.signals || b.signals)
  | _, .nan _ _ => (.nan false false, a.signals || b.signals)
  | .inf x, .inf y => if x = y then (.inf x, false) else (.nan false false, true)
  | .inf x, _ => (.inf x, false)
  | _, .inf y => (.inf y, false)
  | .fin nx mx ex _, .fin ny my ey _ =>
    let low := if ex ≤ ey then ex else ey
    let z := scaled nx mx ex low + scaled ny my ey low
    if z = 0 then
      (.fin (if mx = 0 ∧ my = 0 ∧ nx = ny then nx else decide (rm = .rdn)) 0 0 false, false)
    else (.fin (decide (z < 0)) z.natAbs low false, false)

/-- The exact product. -/
def mulVal (a b : FVal) : FVal × Bool :=
  match a, b with
  | .nan _ _, _ => (.nan false false, a.signals || b.signals)
  | _, .nan _ _ => (.nan false false, a.signals || b.signals)
  | .inf x, .inf y => (.inf (x != y), false)
  | .inf x, .fin y m _ _ => if m = 0 then (.nan false false, true) else (.inf (x != y), false)
  | .fin x m _ _, .inf y => if m = 0 then (.nan false false, true) else (.inf (x != y), false)
  | .fin nx mx ex _, .fin ny my ey _ => (.fin (nx != ny) (mx * my) (ex + ey) false, false)

/-- a * b + c, exact (R77, R81). -/
def fmaVal (a b c : FVal) (rm : Rnd) : FVal × Bool :=
  let p := mulVal a b
  let r := addVal p.1 c rm
  (r.1, p.2 || r.2 || a.signals || b.signals || c.signals)

/-- An exact result rounded once, with its flags. -/
def finish (t : ElemTy) (r : FVal × Bool) (rm : Rnd) (rnd : Nat) : Nat × Nat :=
  let o := roundTo t r.1 rm false rnd
  (o.1, o.2 ||| flagIf r.2 flagNv)

/-- The order of two values that are not NaN: -1, 0 or 1. -/
def cmpVal (a b : FVal) : Int :=
  let sgn := fun (n : Bool) => if n then (-1 : Int) else 1
  match a, b with
  | .inf x, .inf y => if x = y then 0 else sgn x
  | .inf x, _ => sgn x
  | _, .inf y => -sgn y
  | .fin nx mx ex _, .fin ny my ey _ =>
    let low := if ex ≤ ey then ex else ey
    let d := scaled nx mx ex low - scaled ny my ey low
    if d < 0 then -1 else if d = 0 then 0 else 1
  | _, _ => 0

/-- Whether a value carries a minus sign. -/
def FVal.isNeg : FVal → Bool
  | .nan n _ => n
  | .inf n => n
  | .fin n _ _ _ => n

/-- Floating minimum or maximum of two encodings (R97). -/
def fminmax (t : ElemTy) (greatest : Bool) (a b : Nat) : Nat × Nat :=
  let x := fval t a
  let y := fval t b
  if x.isNan || y.isNan then ((fmtOf t).nan, flagIf (x.signals || y.signals) flagNv)
  else
    let c := cmpVal x y
    let less := decide (c < 0) || (c == 0 && x.isNeg && !y.isNeg)
    (if less = greatest then b else a, 0)

end Sys2Proof.Machine
end

