-- ==== Sys2Proof/Machine/FloatFn.lean ====
section
/-! DEFINITION. Division and the functions of R91 to R93. -/

namespace Sys2Proof.Machine

/-- Integer square root by bits: fuel k gives the root of a number below 4^k. -/
def isqrt : Nat → Nat → Nat
  | 0, _ => 0
  | k + 1, n =>
    let r := 2 * isqrt k (n / 4)
    if (r + 1) * (r + 1) ≤ n then r + 1 else r

/-- The exact quotient of two finite non-zero magnitudes, to 192 bits below its leading bit. -/
def quotient (neg : Bool) (ma : Nat) (ea : Int) (mb : Nat) (eb : Int) : FVal :=
  let k := 192 + Nat.log2 mb
  let n := ma * 2 ^ k
  .fin neg (n / mb) (ea - eb - k) (n % mb != 0)

/-- a / b (R91, R93): the exact result and the flags of special operands. -/
def divVal (a b : FVal) : FVal × Nat :=
  match a, b with
  | .nan _ _, _ => (.nan false false, flagIf (a.signals || b.signals) flagNv)
  | _, .nan _ _ => (.nan false false, flagIf (a.signals || b.signals) flagNv)
  | .inf _, .inf _ => (.nan false false, flagNv)
  | .inf x, .fin y _ _ _ => (.inf (x != y), 0)
  | .fin x _ _ _, .inf y => (.fin (x != y) 0 0 false, 0)
  | .fin x ma ea _, .fin y mb eb _ =>
    if mb = 0 then (if ma = 0 then (.nan false false, flagNv) else (.inf (x != y), flagDz))
    else if ma = 0 then (.fin (x != y) 0 0 false, 0)
    else (quotient (x != y) ma ea mb eb, 0)

/-- A magnitude with an even exponent. -/
def evenExp (m : Nat) (e : Int) : Nat × Int := if e % 2 = 0 then (m, e) else (2 * m, e - 1)

/-- Square root (R91, R93). -/
def sqrtVal (a : FVal) : FVal × Nat :=
  match a with
  | .nan _ s => (.nan false false, flagIf s flagNv)
  | .inf n => if n then (.nan false false, flagNv) else (.inf false, 0)
  | .fin n m e _ =>
    if m = 0 then (.fin n 0 0 false, 0)
    else if n then (.nan false false, flagNv)
    else
      let (m, e) := evenExp m e
      let x := m * 4 ^ 128
      let r := isqrt 192 x
      (.fin false r (e / 2 - 128) (r * r != x), 0)

/-- Reciprocal square root (R91, R93). -/
def rsqVal (a : FVal) : FVal × Nat :=
  match a with
  | .nan _ s => (.nan false false, flagIf s flagNv)
  | .inf n => if n then (.nan false false, flagNv) else (.fin false 0 0 false, 0)
  | .fin n m e _ =>
    if m = 0 then (.inf n, flagDz)
    else if n then (.nan false false, flagNv)
    else
      let (m, e) := evenExp m e
      let r := isqrt 260 (4 ^ 256 / m)
      (.fin false r (-(e / 2) - 256) (m * (r * r) != 4 ^ 256), 0)

/-- Reciprocal (R91, R93). -/
def rcpVal (a : FVal) : FVal × Nat := divVal (.fin false 1 0 false) a

/-- Fraction bits of the fixed-point working of VEXP2 and VLOG2 (log 8). -/
def fixBits : Nat := 448

/-- ln 2 in fixed point: the sum of 1 / (k 2^k). -/
def lnTwo : Nat :=
  (List.range fixBits).foldl (fun acc k => acc + 2 ^ fixBits / ((k + 1) * 2 ^ (k + 1))) 0

/-- exp of a fixed-point number below 1, by its power series. -/
def expSeries (x : Nat) : Nat :=
  ((List.range 112).foldl (fun (p : Nat × Nat) k =>
    let term := p.2 * x / 2 ^ fixBits / (k + 1)
    (p.1 + term, term)) (2 ^ fixBits, 2 ^ fixBits)).1

/-- 2 to the power of a value (R91, R93); a power whose exponent is no integer is irrational, so its expansion never
ends (log 8). -/
def exp2Val (a : FVal) : FVal × Nat :=
  match a with
  | .nan _ s => (.nan false false, flagIf s flagNv)
  | .inf n => (if n then .fin false 0 0 false else .inf false, 0)
  | .fin n m e _ =>
    if m = 0 then (.fin false 1 0 false, 0)
    else if 16 ≤ topExp m e then
      (if n then .fin false (2 ^ 64) (-70000) true else .fin false 1 70000 false, 0)
    else
      let k := m * 2 ^ ((fixBits : Int) + e).toNat / 2 ^ (-((fixBits : Int) + e)).toNat
      let x : Int := if n then -(k : Int) else k
      let whole := x / 2 ^ fixBits
      let fr := (x % 2 ^ fixBits).toNat
      if fr = 0 then (.fin false 1 whole false, 0)
      else (.fin false (expSeries (fr * lnTwo / 2 ^ fixBits) / 2 ^ 16) (whole - fixBits + 16) true, 0)

/-- The natural logarithm of y / 2^fixBits from 1 to 2, by the series of the inverse hyperbolic tangent. -/
def logSeries (y : Nat) : Nat :=
  let one := 2 ^ fixBits
  let z := (y - one) * one / (y + one)
  let z2 := z * z / one
  2 * ((List.range 160).foldl (fun (p : Nat × Nat) k => (p.1 + p.2 / (2 * k + 1), p.2 * z2 / one)) (0, z)).1

/-- Base-2 logarithm (R91, R93); exact only for a power of two (log 8). -/
def log2Val (a : FVal) : FVal × Nat :=
  match a with
  | .nan _ s => (.nan false false, flagIf s flagNv)
  | .inf n => if n then (.nan false false, flagNv) else (.inf false, 0)
  | .fin n m e _ =>
    if m = 0 then (.inf true, flagDz)
    else if n then (.nan false false, flagNv)
    else
      let k := topExp m e
      let p := 2 ^ Nat.log2 m
      if m = p then (.fin (decide (k < 0)) k.natAbs 0 false, 0)
      else
        let y := m * 2 ^ fixBits / p
        let v : Int := k * 2 ^ fixBits + (logSeries y * 2 ^ fixBits / lnTwo : Nat)
        (.fin (decide (v < 0)) (v.natAbs / 2 ^ 16) (16 - (fixBits : Int)) true, 0)

/-- The exact result of a function rounded to the type: once for f32 and f64, twice for f16 and bf16 (R91, R92). -/
def roundFn (t : ElemTy) (r : FVal × Nat) (rm : Rnd) (rnd : Nat) : Nat × Nat :=
  if t = .f16 ∨ t = .bf16 then
    let a := roundTo .f32 r.1 .rne false 0
    let b := roundTo t (fval .f32 a.1) rm false rnd
    (b.1, a.2 ||| b.2 ||| r.2)
  else
    let o := roundTo t r.1 rm false rnd
    (o.1, o.2 ||| r.2)

end Sys2Proof.Machine
end

