-- ==== Sys2Proof/Machine/Vector.lean ====
section
/-! DEFINITION. Vector instructions (R116 to R129). -/

namespace Sys2Proof.Machine

/-- Lane count of a type (R101). -/
def laneCount (t : ElemTy) : Nat := 512 / widthOf t

/-- Whether a lane is active under a mask operand (R29, R101). -/
def active (v : Vals) (m : Reg) (i : Nat) : Bool := m == Reg.zero || bit (v.x m) i

/-- The random bits of lane i when the mode draws any (R84). -/
def draw (v : Vals) (rm : Rnd) (i : Nat) : Nat := if rm = .sto then drawOf v.s v.cx i else 0

/-- The union of flags. -/
def unionFlags (fs : List Nat) : Nat := fs.foldl (· ||| ·) 0

/-- Lanes of width w: an active lane takes its result, an inactive one keeps its old value (R116). -/
def mergeLanes (w : Nat) (old : VWord) (act : Nat → Bool) (f : Nat → Nat × Nat) : VWord × Nat :=
  let rs := (List.range (512 / w)).map fun i => if act i then f i else (lane w old i, 0)
  (ofLanes w (rs.map (·.1)), unionFlags (rs.map (·.2)))

/-- An instruction that writes one vector register, with its flags and its draw of stochastic bits (R85, R90). -/
def vectorOp (i : Instr) (vd : VReg) (vsrc : List VReg) (src : List Reg) (rm : Rnd) (s : State)
    (f : Vals → Rnd → VWord × Nat) : Host.Outcome State Fault Refusal :=
  issue i (fun _ => { src := src, vsrc := vsrc, vdst := [vd] }) s fun v =>
    let mode := resolveRnd v.cx.st rm
    let r := f v mode
    .ok { s := v.s, st := v.cx.st, vs := [(vd, r.1)], flags := BitVec.ofNat 64 r.2, sto := mode == .sto }

/-- An instruction that writes one scalar from vector lanes. -/
def scalarOp (i : Instr) (d : Reg) (vsrc : List VReg) (src : List Reg) (rm : Rnd) (s : State)
    (f : Vals → Rnd → Word × Nat) : Host.Outcome State Fault Refusal :=
  issue i (fun _ => { src := src, vsrc := vsrc, dst := [d] }) s fun v =>
    let mode := resolveRnd v.cx.st rm
    let r := f v mode
    .ok { s := v.s, st := v.cx.st, xs := [(d, r.1)], flags := BitVec.ofNat 64 r.2, sto := mode == .sto }

/-- A lane operation of two vectors; the function takes the mode, the random bits and the lanes. -/
def lanes2 (i : Instr) (vd va vb : VReg) (m : Reg) (t : ElemTy) (rm : Rnd) (s : State)
    (f : Rnd → Nat → Nat → Nat → Nat × Nat) : Host.Outcome State Fault Refusal :=
  vectorOp i vd [va, vb] [m] rm s fun v mode =>
    let w := widthOf t
    mergeLanes w (v.cx.st.v vd.val) (active v m) fun i => f mode (draw v mode i) (lane w (v.v va) i) (lane w (v.v vb) i)

/-- A lane operation of one vector. -/
def lanes1 (i : Instr) (vd va : VReg) (m : Reg) (t : ElemTy) (rm : Rnd) (s : State)
    (f : Rnd → Nat → Nat → Nat × Nat) : Host.Outcome State Fault Refusal :=
  vectorOp i vd [va] [m] rm s fun v mode =>
    let w := widthOf t
    mergeLanes w (v.cx.st.v vd.val) (active v m) fun i => f mode (draw v mode i) (lane w (v.v va) i)

/-- A lane operation of three vectors. -/
def lanes3 (i : Instr) (vd va vb vc : VReg) (m : Reg) (t : ElemTy) (rm : Rnd) (s : State)
    (f : Rnd → Nat → Nat → Nat → Nat → Nat × Nat) : Host.Outcome State Fault Refusal :=
  vectorOp i vd [va, vb, vc] [m] rm s fun v mode =>
    let w := widthOf t
    mergeLanes w (v.cx.st.v vd.val) (active v m) fun i =>
      f mode (draw v mode i) (lane w (v.v va) i) (lane w (v.v vb) i) (lane w (v.v vc) i)

/-- An integer as bits of a type, wrapping (R68). -/
def wrapInt (t : ElemTy) (x : Int) : Nat := (x % 2 ^ widthOf t).toNat

/-- An integer clamped to a type (R69). -/
def clampInt (t : ElemTy) (x : Int) : Nat :=
  let w := widthOf t
  let hi : Int := if isSignedTy t then 2 ^ (w - 1) - 1 else 2 ^ w - 1
  let lo : Int := if isSignedTy t then -(2 ^ (w - 1)) else 0
  wrapInt t (Max.max lo (Min.min hi x))

/-- Lane sum (R118). -/
def laneAdd (t : ElemTy) (rm : Rnd) (r a b : Nat) : Nat × Nat :=
  if isFloat t then finish t (addVal (fval t a) (fval t b) rm) rm r else (wrapInt t (ival t a + ival t b), 0)

/-- Lane difference (R118). -/
def laneSub (t : ElemTy) (rm : Rnd) (r a b : Nat) : Nat × Nat :=
  if isFloat t then finish t (addVal (fval t a) (fval t b).neg rm) rm r else (wrapInt t (ival t a - ival t b), 0)

/-- Lane product (R118). -/
def laneMul (t : ElemTy) (rm : Rnd) (r a b : Nat) : Nat × Nat :=
  if isFloat t then finish t (mulVal (fval t a) (fval t b)) rm r else (wrapInt t (ival t a * ival t b), 0)

/-- Lane minimum (R118, R97). -/
def laneMin (t : ElemTy) (a b : Nat) : Nat × Nat :=
  if isFloat t then fminmax t false a b else (if ival t b < ival t a then b else a, 0)

/-- Lane maximum (R118, R97). -/
def laneMax (t : ElemTy) (a b : Nat) : Nat × Nat :=
  if isFloat t then fminmax t true a b else (if ival t a < ival t b then b else a, 0)

/-- Lane absolute value (R118). -/
def laneAbs (t : ElemTy) (a : Nat) : Nat × Nat :=
  if isFloat t then
    if (fval t a).isNan then ((fmtOf t).nan, flagIf (fval t a).signals flagNv) else (a % 2 ^ (widthOf t - 1), 0)
  else (wrapInt t (ival t a).natAbs, 0)

/-- Lane negation (R118). -/
def laneNeg (t : ElemTy) (a : Nat) : Nat × Nat :=
  if isFloat t then
    if (fval t a).isNan then ((fmtOf t).nan, flagIf (fval t a).signals flagNv) else (a ^^^ 2 ^ (widthOf t - 1), 0)
  else (wrapInt t (-ival t a), 0)

/-- Arithmetic right shift of a lane of width w (R119). -/
def laneSra (w a b : Nat) : Nat := (signed w a / 2 ^ (b % w) % 2 ^ w).toNat

/-- A comparison of two lanes (R120): the order -1, 0, 1, or none when unordered, and its flags. -/
def laneOrder (t : ElemTy) (a b : Nat) : Option Int × Nat :=
  if isFloat t then
    let x := fval t a
    let y := fval t b
    (if x.isNan || y.isNan then none else some (cmpVal x y), flagIf (x.signals || y.signals) flagNv)
  else (some (if ival t a < ival t b then -1 else if ival t a = ival t b then 0 else 1), 0)

/-- A vector comparison (R120): bit i is set when lane i is active and the condition holds. -/
def compare (i : Instr) (d : Reg) (va vb : VReg) (m : Reg) (t : ElemTy) (s : State) (p : Option Int → Bool) :
    Host.Outcome State Fault Refusal :=
  scalarOp i d [va, vb] [m] .rne s fun v _ =>
    let w := widthOf t
    let rs := (List.range (laneCount t)).map fun i =>
      if active v m i then
        let o := laneOrder t (lane w (v.v va) i) (lane w (v.v vb) i)
        (if p o.1 then 2 ^ i else 0, o.2)
      else (0, 0)
    (BitVec.ofNat 64 ((rs.map (·.1)).foldl (· + ·) 0), unionFlags (rs.map (·.2)))

/-- One level of the tree of R95: the nodes of a level from their pairs, from node i on. -/
def pairUp (op : Nat → Nat → Nat → Nat × Nat) : Nat → List Nat → List Nat × Nat
  | i, a :: b :: rest =>
    let r := op i a b
    let q := pairUp op (i + 1) rest
    (r.1 :: q.1, r.2 ||| q.2)
  | _, l => (l, 0)

/-- The tree of R95 over k levels, from level lev; a node's element index is (lev - 1) * 64 + i. -/
def tree (op : Nat → Nat → Nat → Nat × Nat) : Nat → Nat → List Nat → Nat × Nat
  | 0, _, l => (l.headD 0, 0)
  | k + 1, lev, l =>
    let p := pairUp (fun i => op ((lev - 1) * 64 + i)) 0 l
    let r := tree op k (lev + 1) p.1
    (r.1, p.2 ||| r.2)

/-- The identity of a sum (R95). -/
def sumIdentity (t : ElemTy) : Nat := if isFloat t then 2 ^ (widthOf t - 1) else 0

/-- The encoding of an infinity of a type. -/
def infinity (t : ElemTy) (neg : Bool) : Nat :=
  let f := fmtOf t
  signBit f neg + (2 ^ (f.w - f.p) - 1) * 2 ^ (f.p - 1)

/-- The identity of a maximum (R95). -/
def maxIdentity (t : ElemTy) : Nat :=
  if isFloat t then infinity t true else if isSignedTy t then 2 ^ (widthOf t - 1) else 0

/-- The identity of a minimum (R95). -/
def minIdentity (t : ElemTy) : Nat :=
  if isFloat t then infinity t false
  else if isSignedTy t then 2 ^ (widthOf t - 1) - 1 else 2 ^ widthOf t - 1

/-- A scalar from a lane: sN sign-extended, every other type zero-extended (R121, R122). -/
def extend (t : ElemTy) (b : Nat) : Word := if isSignedTy t then sext (widthOf t) b else zext (widthOf t) b

/-- The lanes of a vector, inactive ones replaced by an identity (R95). -/
def activeLanes (v : Vals) (m : Reg) (t : ElemTy) (va : VReg) (ident : Nat) : List Nat :=
  (List.range (laneCount t)).map fun i => if active v m i then lane (widthOf t) (v.v va) i else ident

/-- A reduction (R122). -/
def reduce (i : Instr) (d : Reg) (va : VReg) (m : Reg) (t : ElemTy) (rm : Rnd) (ident : Nat) (s : State)
    (pre : Nat → Nat) (op : Rnd → Nat → Nat → Nat → Nat × Nat) (ext : Nat → Word) : Host.Outcome State Fault Refusal :=
  scalarOp i d [va] [m] rm s fun v mode =>
    let r := tree (fun i => op mode (draw v mode i)) (Nat.log2 (laneCount t)) 1
      ((activeLanes v m t va ident).map pre)
    (ext r.1, r.2)

/-- The running results of R96 from lane i on, with flags. -/
def scanFrom (op : Nat → Nat → Nat → Nat × Nat) : Nat → Nat → List Nat → List Nat × Nat
  | _, _, [] => ([], 0)
  | i, acc, x :: xs =>
    let r := op i acc x
    let q := scanFrom op (i + 1) r.1 xs
    (r.1 :: q.1, r.2 ||| q.2)

/-- The inclusive prefix of R96: lane 0 as it stands, and every later lane combined with the result before it (the model's choice for a
NaN in lane 0, log 68). -/
def scan (op : Nat → Nat → Nat → Nat × Nat) : List Nat → List Nat × Nat
  | [] => ([], 0)
  | x :: xs => let q := scanFrom op 1 x xs; (x :: q.1, q.2)

/-- The active elements of one part of a conversion (R125): a function of the destination element and the source bits. -/
def convertPart (old src : VWord) (st t : ElemTy) (part : Nat) (act : Nat → Bool) (f : Nat → Nat → Nat × Nat) :
    VWord × Nat :=
  let ns := laneCount st
  let nd := laneCount t
  let cnt := Nat.min ns nd
  let base := if ns < nd then part * cnt else 0
  let rs := (List.range nd).map fun di =>
    if base ≤ di ∧ di < base + cnt ∧ act (di - base) then
      f di (lane (widthOf st) src (di - base + if nd < ns then part * cnt else 0))
    else (lane (widthOf t) old di, 0)
  (ofLanes (widthOf t) (rs.map (·.1)), unionFlags (rs.map (·.2)))

/-- A value times a power of two. -/
def FVal.scale (v : FVal) (k : Int) : FVal :=
  match v with
  | .fin n m e more => .fin n m (e + k) more
  | .nan n g => .nan n g
  | .inf n => .inf n

/-- Whether a lane is non-zero for VNZX (R128). -/
def laneNonzero (t : ElemTy) (b : Nat) : Bool :=
  if isFloat t then b % 2 ^ (widthOf t - 1) != 0 else b != 0

/-- The number of a port specifier. -/
def portNum : Reg → Nat
  | .q k => k.val
  | _ => 0

/-- R118: lane sum. -/
def execVadd (vd va vb : VReg) (m : Reg) (t : ElemTy) (rm : Rnd) (s : State) : Host.Outcome State Fault Refusal :=
  lanes2 (.vadd vd va vb m t rm) vd va vb m t rm s (laneAdd t)

/-- R118: lane difference. -/
def execVsub (vd va vb : VReg) (m : Reg) (t : ElemTy) (rm : Rnd) (s : State) : Host.Outcome State Fault Refusal :=
  lanes2 (.vsub vd va vb m t rm) vd va vb m t rm s (laneSub t)

/-- R118: lane product. -/
def execVmul (vd va vb : VReg) (m : Reg) (t : ElemTy) (rm : Rnd) (s : State) : Host.Outcome State Fault Refusal :=
  lanes2 (.vmul vd va vb m t rm) vd va vb m t rm s (laneMul t)

/-- R118: lane minimum. -/
def execVmin (vd va vb : VReg) (m : Reg) (t : ElemTy) (s : State) : Host.Outcome State Fault Refusal :=
  lanes2 (.vmin vd va vb m t) vd va vb m t .rne s fun _ _ => laneMin t

/-- R118: lane maximum. -/
def execVmax (vd va vb : VReg) (m : Reg) (t : ElemTy) (s : State) : Host.Outcome State Fault Refusal :=
  lanes2 (.vmax vd va vb m t) vd va vb m t .rne s fun _ _ => laneMax t

/-- R118: saturating lane sum. -/
def execVadds (vd va vb : VReg) (m : Reg) (t : ElemTy) (s : State) : Host.Outcome State Fault Refusal :=
  lanes2 (.vadds vd va vb m t) vd va vb m t .rne s fun _ _ a b => (clampInt t (ival t a + ival t b), 0)

/-- R118: saturating lane difference. -/
def execVsubs (vd va vb : VReg) (m : Reg) (t : ElemTy) (s : State) : Host.Outcome State Fault Refusal :=
  lanes2 (.vsubs vd va vb m t) vd va vb m t .rne s fun _ _ a b => (clampInt t (ival t a - ival t b), 0)

/-- R118: lane absolute value. -/
def execVabs (vd va : VReg) (m : Reg) (t : ElemTy) (s : State) : Host.Outcome State Fault Refusal :=
  lanes1 (.vabs vd va m t) vd va m t .rne s fun _ _ => laneAbs t

/-- R118: lane negation. -/
def execVneg (vd va : VReg) (m : Reg) (t : ElemTy) (s : State) : Host.Outcome State Fault Refusal :=
  lanes1 (.vneg vd va m t) vd va m t .rne s fun _ _ => laneNeg t

/-- R118: a * b + c, rounded once. -/
def execVfma (vd va vb vc : VReg) (m : Reg) (t : ElemTy) (rm : Rnd) (s : State) : Host.Outcome State Fault Refusal :=
  lanes3 (.vfma vd va vb vc m t rm) vd va vb vc m t rm s fun mode r a b c =>
    finish t (fmaVal (fval t a) (fval t b) (fval t c) mode) mode r

/-- R118: a * b - c, rounded once. -/
def execVfms (vd va vb vc : VReg) (m : Reg) (t : ElemTy) (rm : Rnd) (s : State) : Host.Outcome State Fault Refusal :=
  lanes3 (.vfms vd va vb vc m t rm) vd va vb vc m t rm s fun mode r a b c =>
    finish t (fmaVal (fval t a) (fval t b) (fval t c).neg mode) mode r

/-- R119: lane AND. -/
def execVand (vd va vb : VReg) (m : Reg) (t : ElemTy) (s : State) : Host.Outcome State Fault Refusal :=
  lanes2 (.vand vd va vb m t) vd va vb m t .rne s fun _ _ a b => (a &&& b, 0)

/-- R119: lane OR. -/
def execVor (vd va vb : VReg) (m : Reg) (t : ElemTy) (s : State) : Host.Outcome State Fault Refusal :=
  lanes2 (.vor vd va vb m t) vd va vb m t .rne s fun _ _ a b => (a ||| b, 0)

/-- R119: lane XOR. -/
def execVxor (vd va vb : VReg) (m : Reg) (t : ElemTy) (s : State) : Host.Outcome State Fault Refusal :=
  lanes2 (.vxor vd va vb m t) vd va vb m t .rne s fun _ _ a b => (a ^^^ b, 0)

/-- R119: lane AND NOT. -/
def execVandn (vd va vb : VReg) (m : Reg) (t : ElemTy) (s : State) : Host.Outcome State Fault Refusal :=
  lanes2 (.vandn vd va vb m t) vd va vb m t .rne s fun _ _ a b => (a ^^^ (a &&& b), 0)

/-- R119: lane left shift. -/
def execVsll (vd va vb : VReg) (m : Reg) (t : ElemTy) (s : State) : Host.Outcome State Fault Refusal :=
  lanes2 (.vsll vd va vb m t) vd va vb m t .rne s fun _ _ a b => (a * 2 ^ (b % widthOf t), 0)

/-- R119: lane logical right shift. -/
def execVsrl (vd va vb : VReg) (m : Reg) (t : ElemTy) (s : State) : Host.Outcome State Fault Refusal :=
  lanes2 (.vsrl vd va vb m t) vd va vb m t .rne s fun _ _ a b => (a / 2 ^ (b % widthOf t), 0)

/-- R119: lane arithmetic right shift. -/
def execVsra (vd va vb : VReg) (m : Reg) (t : ElemTy) (s : State) : Host.Outcome State Fault Refusal :=
  lanes2 (.vsra vd va vb m t) vd va vb m t .rne s fun _ _ a b => (laneSra (widthOf t) a b, 0)

/-- R120: mask of lanes that compare equal. -/
def execVcmpeq (d : Reg) (va vb : VReg) (m : Reg) (t : ElemTy) (s : State) : Host.Outcome State Fault Refusal :=
  compare (.vcmpeq d va vb m t) d va vb m t s fun o => o == some 0

/-- R120: mask of lanes that compare different or unordered. -/
def execVcmpne (d : Reg) (va vb : VReg) (m : Reg) (t : ElemTy) (s : State) : Host.Outcome State Fault Refusal :=
  compare (.vcmpne d va vb m t) d va vb m t s fun o => o != some 0

/-- R120: mask of lanes that compare below. -/
def execVcmplt (d : Reg) (va vb : VReg) (m : Reg) (t : ElemTy) (s : State) : Host.Outcome State Fault Refusal :=
  compare (.vcmplt d va vb m t) d va vb m t s fun o => o == some (-1)

/-- R120: mask of lanes that compare at or below. -/
def execVcmple (d : Reg) (va vb : VReg) (m : Reg) (t : ElemTy) (s : State) : Host.Outcome State Fault Refusal :=
  compare (.vcmple d va vb m t) d va vb m t s fun o => o == some (-1) || o == some 0

/-- R120: mask of lanes that compare above. -/
def execVcmpgt (d : Reg) (va vb : VReg) (m : Reg) (t : ElemTy) (s : State) : Host.Outcome State Fault Refusal :=
  compare (.vcmpgt d va vb m t) d va vb m t s fun o => o == some 1

/-- R120: mask of lanes that compare at or above. -/
def execVcmpge (d : Reg) (va vb : VReg) (m : Reg) (t : ElemTy) (s : State) : Host.Outcome State Fault Refusal :=
  compare (.vcmpge d va vb m t) d va vb m t s fun o => o == some 1 || o == some 0

/-- R120: mask of lanes that compare unordered. -/
def execVcmpun (d : Reg) (va vb : VReg) (m : Reg) (t : ElemTy) (s : State) : Host.Outcome State Fault Refusal :=
  compare (.vcmpun d va vb m t) d va vb m t s fun o => o == none

/-- R121: each lane from va or vb by the mask. -/
def execVsel (vd va vb : VReg) (m : Reg) (t : ElemTy) (s : State) : Host.Outcome State Fault Refusal :=
  vectorOp (.vsel vd va vb m t) vd [va, vb] [m] .rne s fun v _ =>
    let w := widthOf t
    mergeLanes w (v.v vb) (active v m) fun i => (lane w (v.v va) i, 0)

/-- R121: copies active lanes. -/
def execVmov (vd va : VReg) (m : Reg) (t : ElemTy) (s : State) : Host.Outcome State Fault Refusal :=
  lanes1 (.vmov vd va m t) vd va m t .rne s fun _ _ a => (a, 0)

/-- R121: a scalar into active lanes. -/
def execVbcast (vd : VReg) (xs m : Reg) (t : ElemTy) (s : State) : Host.Outcome State Fault Refusal :=
  vectorOp (.vbcast vd xs m t) vd [] [xs, m] .rne s fun v _ =>
    mergeLanes (widthOf t) (v.cx.st.v vd.val) (active v m) fun _ => ((v.x xs).toNat, 0)

/-- R121: one lane, extended. -/
def execVextr (d : Reg) (va : VReg) (xi : Reg) (t : ElemTy) (s : State) : Host.Outcome State Fault Refusal :=
  scalarOp (.vextr d va xi t) d [va] [xi] .rne s fun v _ =>
    (extend t (lane (widthOf t) (v.v va) ((v.x xi).toNat % laneCount t)), 0)

/-- R121: a scalar into one lane. -/
def execVins (vd : VReg) (xs xi : Reg) (t : ElemTy) (s : State) : Host.Outcome State Fault Refusal :=
  vectorOp (.vins vd xs xi t) vd [] [xs, xi] .rne s fun v _ =>
    mergeLanes (widthOf t) (v.cx.st.v vd.val) (fun i => i == (v.x xi).toNat % laneCount t) fun _ => ((v.x xs).toNat, 0)

/-- R121: lanes of va chosen by the lanes of vb. -/
def execVperm (vd va vb : VReg) (m : Reg) (t : ElemTy) (s : State) : Host.Outcome State Fault Refusal :=
  vectorOp (.vperm vd va vb m t) vd [va, vb] [m] .rne s fun v _ =>
    let w := widthOf t
    mergeLanes w (v.cx.st.v vd.val) (active v m) fun i => (lane w (v.v va) (lane w (v.v vb) i % laneCount t), 0)

/-- R121: active lanes packed to the bottom, the rest zero. -/
def execVcompress (vd va : VReg) (m : Reg) (t : ElemTy) (s : State) : Host.Outcome State Fault Refusal :=
  vectorOp (.vcompress vd va m t) vd [va] [m] .rne s fun v _ =>
    let w := widthOf t
    (ofLanes w (((List.range (laneCount t)).filter (active v m)).map (lane w (v.v va))), 0)

/-- R121: low lanes spread to the active positions. -/
def execVexpand (vd va : VReg) (m : Reg) (t : ElemTy) (s : State) : Host.Outcome State Fault Refusal :=
  vectorOp (.vexpand vd va m t) vd [va] [m] .rne s fun v _ =>
    let w := widthOf t
    mergeLanes w (v.cx.st.v vd.val) (active v m) fun i =>
      (lane w (v.v va) ((List.range i).filter (active v m)).length, 0)

/-- R122: sum by the fixed tree. -/
def execVredsum (d : Reg) (va : VReg) (m : Reg) (t : ElemTy) (rm : Rnd) (s : State) : Host.Outcome State Fault Refusal :=
  reduce (.vredsum d va m t rm) d va m t rm (sumIdentity t) s id (laneAdd t) (extend t)

/-- R122: greatest lane. -/
def execVredmax (d : Reg) (va : VReg) (m : Reg) (t : ElemTy) (s : State) : Host.Outcome State Fault Refusal :=
  reduce (.vredmax d va m t) d va m t .rne (maxIdentity t) s id (fun _ _ => laneMax t) (extend t)

/-- R122: least lane. -/
def execVredmin (d : Reg) (va : VReg) (m : Reg) (t : ElemTy) (s : State) : Host.Outcome State Fault Refusal :=
  reduce (.vredmin d va m t) d va m t .rne (minIdentity t) s id (fun _ _ => laneMin t) (extend t)

/-- R122: greatest absolute value; an integer magnitude is unsigned. -/
def execVamax (d : Reg) (va : VReg) (m : Reg) (t : ElemTy) (s : State) : Host.Outcome State Fault Refusal :=
  reduce (.vamax d va m t) d va m t .rne 0 s
    (fun a => if isFloat t then a % 2 ^ (widthOf t - 1) else (ival t a).natAbs)
    (fun _ _ a b => if isFloat t then fminmax t true a b else (Nat.max a b, 0)) (zext (widthOf t))

/-- R123: inclusive prefix add, max or min. -/
def execVscan (vd va : VReg) (m : Reg) (t : ElemTy) (rm : Rnd) (op : BitVec 2) (s : State) : Host.Outcome State Fault Refusal :=
  vectorOp (.vscan vd va m t rm op) vd [va] [m] rm s fun v mode =>
    let ident := if op = 0 then sumIdentity t else if op = 1 then maxIdentity t else minIdentity t
    let f := fun i a b => if op = 0 then laneAdd t mode (draw v mode i) a b else if op = 1 then laneMax t a b else laneMin t a b
    let r := scan f (activeLanes v m t va ident)
    ((mergeLanes (widthOf t) (v.cx.st.v vd.val) (active v m) fun i => (r.1.getD i 0, 0)).1, r.2)

/-- R124: lane quotient. -/
def execVdiv (vd va vb : VReg) (m : Reg) (t : ElemTy) (rm : Rnd) (s : State) : Host.Outcome State Fault Refusal :=
  lanes2 (.vdiv vd va vb m t rm) vd va vb m t rm s fun mode r a b => roundFn t (divVal (fval t a) (fval t b)) mode r

/-- R124: lane square root. -/
def execVsqrt (vd va : VReg) (m : Reg) (t : ElemTy) (rm : Rnd) (s : State) : Host.Outcome State Fault Refusal :=
  lanes1 (.vsqrt vd va m t rm) vd va m t rm s fun mode r a => roundFn t (sqrtVal (fval t a)) mode r

/-- R124: lane reciprocal square root. -/
def execVrsq (vd va : VReg) (m : Reg) (t : ElemTy) (rm : Rnd) (s : State) : Host.Outcome State Fault Refusal :=
  lanes1 (.vrsq vd va m t rm) vd va m t rm s fun mode r a => roundFn t (rsqVal (fval t a)) mode r

/-- R124: lane reciprocal. -/
def execVrcp (vd va : VReg) (m : Reg) (t : ElemTy) (rm : Rnd) (s : State) : Host.Outcome State Fault Refusal :=
  lanes1 (.vrcp vd va m t rm) vd va m t rm s fun mode r a => roundFn t (rcpVal (fval t a)) mode r

/-- R124: lane power of two. -/
def execVexp2 (vd va : VReg) (m : Reg) (t : ElemTy) (rm : Rnd) (s : State) : Host.Outcome State Fault Refusal :=
  lanes1 (.vexp2 vd va m t rm) vd va m t rm s fun mode r a => roundFn t (exp2Val (fval t a)) mode r

/-- R124: lane base-2 logarithm. -/
def execVlog2 (vd va : VReg) (m : Reg) (t : ElemTy) (rm : Rnd) (s : State) : Host.Outcome State Fault Refusal :=
  lanes1 (.vlog2 vd va m t rm) vd va m t rm s fun mode r a => roundFn t (log2Val (fval t a)) mode r

/-- R125: converts one part of the lanes. -/
def execVcvt (vd va : VReg) (m : Reg) (t : ElemTy) (rm : Rnd) (st : ElemTy) (part : BitVec 4) (sat : Bool) (s : State) : Host.Outcome State Fault Refusal :=
  vectorOp (.vcvt vd va m t rm st part sat) vd [va] [m] rm s fun v mode =>
    convertPart (v.cx.st.v vd.val) (v.v va) st t part.toNat (active v m) fun di a => convert st t a mode sat (draw v mode di)

/-- R126: quantises to MX elements under the block scale; a NaN scale by R76. -/
def execVpackmx (vd va : VReg) (xs m : Reg) (t : ElemTy) (rm : Rnd) (st : ElemTy) (part : BitVec 4) (sat : Bool) (s : State) : Host.Outcome State Fault Refusal :=
  vectorOp (.vpackmx vd va xs m t rm st part sat) vd [va] [xs, m] rm s fun v mode =>
    let e := (v.x xs).toNat % 256
    convertPart (v.cx.st.v vd.val) (v.v va) st t part.toNat (active v m) fun di a =>
      if e = 255 then ((fmtOf t).nan, flagIf (t == .e2m1) flagNv)
      else roundTo t ((fval st a).scale (127 - (e : Int))) mode sat (draw v mode di)

/-- R127: expands MX elements under the block scale. -/
def execVunpackmx (vd va : VReg) (xs m : Reg) (t : ElemTy) (rm : Rnd) (st : ElemTy) (part : BitVec 4) (s : State) : Host.Outcome State Fault Refusal :=
  vectorOp (.vunpackmx vd va xs m t rm st part) vd [va] [xs, m] rm s fun v mode =>
    let e := (v.x xs).toNat % 256
    convertPart (v.cx.st.v vd.val) (v.v va) st t part.toNat (active v m) fun di a =>
      if e = 255 then ((fmtOf t).nan, 0) else roundTo t ((fval st a).scale ((e : Int) - 127)) mode false (draw v mode di)

/-- R128, R129: pushes the indices and contents of the non-zero lanes. -/
def execVnzx (qi : Reg) (va : VReg) (qv xb m : Reg) (t : ElemTy) (s : State) : Host.Outcome State Fault Refusal :=
  issue (.vnzx qi va qv xb m t)
    (fun _ => { src := [xb, m], vsrc := [va],
                named := (portNum qi, some true) :: if qv = Reg.zero then [] else [(portNum qv, some true)] }) s fun v =>
    let w := widthOf t
    let hits := (List.range (laneCount t)).filter fun i => active v m i && laneNonzero t (lane w (v.v va) i)
    let k := hits.length
    let st := v.cx.st
    let ports := portNum qi :: if qv = Reg.zero then [] else [portNum qv]
    if k ≠ 0 ∧ fenced v.s st then .error .stall
    else match if k = 0 then none else portFull v.s st ports k with
    | some p => .error (.keep (waitRoom v.s st p))
    | none =>
      let pushAll := fun (p : State × Strand) (port : Nat) (f : Nat → Word) =>
        hits.zipIdx.foldl (fun p i => pushPort p.1 p.2 port 0 (some (f i.1)) (batch := k - 1 - i.2)) p
      let p := pushAll (v.s, st) (portNum qi) fun i => v.x xb + BitVec.ofNat 64 i
      let p := if qv = Reg.zero then p else pushAll p (portNum qv) fun i => BitVec.ofNat 64 (lane w (v.v va) i)
      .ok { s := p.1, st := { p.2 with qfence := p.2.qfence && k == 0 } }

end Sys2Proof.Machine
end

