-- ==== Sys2Proof/Machine/Memory.lean ====
section
/-! DEFINITION. Loads, stores, scratchpad, atomics, fences and prefetch (R219 to R230). -/

namespace Sys2Proof.Machine

/-- Bytes of an access size code (R222). -/
def sizeOf (sz : BitVec 2) : Nat := 2 ^ sz.toNat

/-- Raises the ld count; none when it would pass 63 (R219). -/
def countLd (st : Strand) : Option Strand := if st.ld < 63 then some { st with ld := st.ld + 1 } else none

/-- Raises the st count. -/
def countSt (st : Strand) : Option Strand := if st.st < 63 then some { st with st := st.st + 1 } else none

/-- Raises the remote-acknowledgement count; none when it would pass 4,095 (R203). -/
def countRemote (st : Strand) : Option Strand :=
  if st.remote < 4095 then some { st with remote := st.remote + 1 } else none

/-- The addresses of an access that its core's L1 TLB now holds (R334). -/
def touchEnds (s : State) (core : Nat) (a : Word) (n : Nat) : State := touch (touch s core a) core (after a (n - 1))

/-- A number of bytes paired with the cells they go to. -/
def pairWrites (cells : List Nat) (v : Nat) : List (Nat × Byte) := cells.zip (leBytes cells.length v)

/-- A load by object address, up to its issue (R222). -/
def loadAt (v : Vals) (d : Reg) (a : Word) (n : Nat) (signed : Bool) (ord : Ord) (scope : Scope) : Except Stop Done :=
  match countLd v.cx.st with
  | none => .error .stall
  | some st =>
    if ord ≠ .plain ∧ a.toNat % n ≠ 0 then .error (.trap .misaligned a)
    else match accessCells v.s (partyOf v.cx.core v.cx.st) .die false false a n (code := true) with
    | .error f => .error f.stop
    | .ok cells =>
      let (s, st, dest) := reserve (touchEnds v.s v.cx.core a n) st d
      let acc := { noAccess (.load n signed) with addr := a, ord := ord, scope := scope, dest := dest,
                                                  spans := [(a, n)], reads := cells.zipIdx.map fun c => (c.2, c.1) }
      .ok { s := s, st := st.begin acc }

/-- A store by object address, up to its issue (R223). -/
def storeAt (v : Vals) (a : Word) (n val : Nat) (ord : Ord) (scope : Scope) : Except Stop Done :=
  match countSt v.cx.st with
  | none => .error .stall
  | some st =>
    if ord ≠ .plain ∧ a.toNat % n ≠ 0 then .error (.trap .misaligned a)
    else match accessCells v.s (partyOf v.cx.core v.cx.st) .die true true a n with
    | .error f => .error f.stop
    | .ok cells =>
      let acc := { noAccess (.store n) with addr := a, ord := ord, scope := scope, spans := [(a, n)], writes := pairWrites cells val }
      .ok { s := touchEnds v.s v.cx.core a n, st := st.begin acc }

/-- A vector load of the cells given with their places in the register, in elements of `chunk` bytes (R224, R225). -/
def loadVecAt (v : Vals) (s : State) (vd : VReg) (a : Word) (chunk : Nat) (spans : List (Word × Nat))
    (reads : List (Nat × Nat)) : Except Stop Done :=
  match countLd v.cx.st with
  | none => .error .stall
  | some st =>
    let (st, dest) := reserveV st vd
    let acc := { noAccess (.loadVec chunk) with addr := a, dest := dest, spans := spans, reads := reads, base := v.cx.st.v vd.val }
    .ok { s := s, st := st.begin acc }

/-- The cells of the active elements of a vector access, lane 0 first; the first lane that fails decides (R221, R225). -/
def elementCells (v : Vals) (write : Bool) (n : Nat) : List (Nat × Word) → Except Fail (List (Nat × List Nat))
  | [] => .ok []
  | (i, a) :: rest =>
    match accessCells v.s (partyOf v.cx.core v.cx.st) .die write true a n (code := true) with
    | .error f => .error f
    | .ok cells => match elementCells v write n rest with
      | .error f => .error f
      | .ok more => .ok ((i, cells) :: more)

/-- The L1 TLB after the active elements of a vector access. -/
def touchAll (s : State) (core n : Nat) (as : List (Nat × Word)) : State :=
  as.foldl (fun s a => touchEnds s core a.2 n) s

/-- A strided or indexed load (R225). -/
def loadElements (v : Vals) (vd : VReg) (t : ElemTy) (as : List (Nat × Word)) : Except Stop Done :=
  let n := widthOf t / 8
  match elementCells v false n as with
  | .error f => .error f.stop
  | .ok es =>
    loadVecAt v (touchAll v.s v.cx.core n as) vd ((as.head?.map (·.2)).getD 0) n (as.map fun a => (a.2, n))
      (es.flatMap fun e => e.2.zipIdx.map fun c => (n * e.1 + c.2, c.1))

/-- A strided or indexed store: elements in ascending lane order (R225). -/
def storeLanes (v : Vals) (n : Nat) (val : Nat → Nat) (as : List (Nat × Word)) : Except Stop Done :=
  match countSt v.cx.st with
  | none => .error .stall
  | some st => match elementCells v true n as with
    | .error f => .error f.stop
    | .ok es =>
      let acc := { noAccess (.store n) with
        addr := (as.head?.map (·.2)).getD 0
        spans := as.map fun a => (a.2, n)
        writes := es.flatMap fun e => pairWrites e.2 (val e.1) }
      .ok { s := touchAll v.s v.cx.core n as, st := st.begin acc }

/-- A store of elements of a vector register at addresses (R225). -/
def storeElements (v : Vals) (vs : VReg) (t : ElemTy) (as : List (Nat × Word)) : Except Stop Done :=
  storeLanes v (widthOf t / 8) (fun i => lane (widthOf t) (v.v vs) i) as

/-- The active lanes with their strided addresses (R225). -/
def strided (v : Vals) (base stride m : Reg) (t : ElemTy) : List (Nat × Word) :=
  ((List.range (laneCount t)).filter (active v m)).map fun i => (i, v.x base + BitVec.ofNat 64 i * v.x stride)

/-- The active lanes with their indexed addresses (R225). -/
def indexed (v : Vals) (base : Reg) (vi : VReg) (m : Reg) (t : ElemTy) (sc : BitVec 2) : List (Nat × Word) :=
  ((List.range (laneCount t)).filter (active v m)).map fun i =>
    (i, v.x base + BitVec.ofNat 64 (lane (widthOf t) (v.v vi) i * 2 ^ sc.toNat))

/-- The number that n bytes of the record page from an offset hold, or the first byte with an error (R164, R382). -/
def recordRead (c : Core) (o n : Nat) : Except Nat Nat :=
  let ps := (List.range n).map fun i => (o + i) % 4096
  match ps.find? fun p => c.bad.contains (2 ^ 20 + p) with
  | some p => .error p
  | none => .ok (ofLe (ps.map (c.recPage.get 0)))

/-- The number that n bytes of the strand's scratchpad hold, or the wrapped offset of a byte with an error
(R226, R382); it waits for an outstanding acquire (R196). -/
def spadLoad (v : Vals) (o n mode : Nat) : Except Stop Nat :=
  let c := v.s.core v.cx.core
  let st := v.cx.st
  if st.acquiring then .error .stall
  else match spadBad c st.spadBase st.spadSize mode o n with
  | some w => .error (.detail .memUncorrectable 1 (BitVec.ofNat 64 w))
  | none => .ok (ofLe (spadRead c st.spadBase st.spadSize mode o n))

/-- A scratchpad store (R208, R226); it is performed at once, so it waits for the reads before it and for the waits of
the releases before it (R191, R194, R219). -/
def spadStore (v : Vals) (o n mode val : Nat) : Except Stop Done :=
  let c := v.s.core v.cx.core
  let st := v.cx.st
  if st.isUser && spadLocked c st.spadBase st.spadSize o n none then
    .error (.trap .rangeLocked (BitVec.ofNat 64 (o % st.spadSize)))
  else if spadStoreWaits v.s v.cx.core st o n then .error .stall
  else
    .ok { s := v.s.setCore v.cx.core (spadWrite c st.spadBase st.spadSize mode o (leBytes n val)), st := st }

/-- A value extended by a load's sign bit (R222). -/
def extendTo (n : Nat) (sgn : Bool) (x : Nat) : Word := if sgn then sext (8 * n) x else zext (8 * n) x

/-- The new value of an atomic (R227): operation, 8-byte size, old value, operand, expected value. -/
def amoNew (op : AmoOp) (wide : Bool) (old b expect : Word) : Word :=
  let n := if wide then 64 else 32
  let cut := fun (w : Word) => w.toNat % 2 ^ n
  let r : Nat := match op with
    | .add => cut old + cut b
    | .and => cut (old &&& b)
    | .or => cut (old ||| b)
    | .xor => cut (old ^^^ b)
    | .min => if signed n (cut b) < signed n (cut old) then cut b else cut old
    | .max => if signed n (cut old) < signed n (cut b) then cut b else cut old
    | .minw => Nat.min (cut old) (cut b)
    | .maxw => Nat.max (cut old) (cut b)
    | .swap => cut b
    | .cas => if cut old = cut expect then cut b else cut old
    | .fadd =>
      let t := if wide then ElemTy.f64 else ElemTy.f32
      (finish t (addVal (fval t (cut old)) (fval t (cut b)) .rne) .rne 0).1
  BitVec.ofNat 64 (r % 2 ^ n)

/-- How far an atomic reaches by its placement (R228). -/
def placeReach (place : Nat) : Reach := if place = 2 then .ship else .die

/-- An atomic, up to its issue (R227, R228); amocas reads xd. -/
def atomic (i : Instr) (op : AmoOp) (d a b : Reg) (md : AmoMod) (s : State) : Host.Outcome State Fault Refusal :=
  issue i (fun _ => { src := if op = .cas then [a, b, d] else [a, b], dst := [d] }) s fun v =>
    let n := if md.wide then 8 else 4
    let addr := v.x a
    match countSt v.cx.st with
    | none => .error .stall
    | some st =>
      if addr.toNat % n ≠ 0 then .error (.trap .misaligned addr)
      else match accessCells v.s (partyOf v.cx.core v.cx.st) (placeReach md.place.toNat) true true addr n true with
      | .error f => .error f.stop
      | .ok cells =>
        let (s, st, dest) := reserve (touchEnds v.s v.cx.core addr n) st d
        let acc := { noAccess (.atomic op md.wide md.place.toNat (v.x b) (if op = .cas then v.x d else 0)) with
          addr := addr, ord := md.ord, scope := md.scope, dest := dest, spans := [(addr, n)]
          reads := cells.zipIdx.map (fun c => (c.2, c.1)), writes := cells.map fun c => (c, 0) }
        .ok { s := s, st := st.begin acc }

/-- R222: plain load, zero-extended. -/
def execLoad (d : Reg) (m : MemRef) (sz : BitVec 2) (s : State) : Host.Outcome State Fault Refusal :=
  issue (.load d m sz) (fun _ => { src := memRegs m, dst := [d] }) s fun v =>
    loadAt v d (effective m v.x) (sizeOf sz) false .plain .core

/-- R222: plain load, sign-extended. -/
def execLoadSigned (d : Reg) (m : MemRef) (sz : BitVec 2) (s : State) : Host.Outcome State Fault Refusal :=
  issue (.loadSigned d m sz) (fun _ => { src := memRegs m, dst := [d] }) s fun v =>
    loadAt v d (effective m v.x) (sizeOf sz) true .plain .core

/-- R222: acquire load. -/
def execLda (d : Reg) (m : MemRef) (scope : Scope) (sz : BitVec 2) (s : State) : Host.Outcome State Fault Refusal :=
  issue (.lda d m scope sz) (fun _ => { src := memRegs m, dst := [d] }) s fun v =>
    loadAt v d (effective m v.x) (sizeOf sz) false .acq scope

/-- R223: plain store. -/
def execStore (r0 : Reg) (m : MemRef) (sz : BitVec 2) (s : State) : Host.Outcome State Fault Refusal :=
  issue (.store r0 m sz) (fun _ => { src := r0 :: memRegs m }) s fun v =>
    storeAt v (effective m v.x) (sizeOf sz) (v.x r0).toNat .plain .core

/-- R223: release store. -/
def execStl (r0 : Reg) (m : MemRef) (scope : Scope) (sz : BitVec 2) (s : State) : Host.Outcome State Fault Refusal :=
  issue (.stl r0 m scope sz) (fun _ => { src := r0 :: memRegs m }) s fun v =>
    storeAt v (effective m v.x) (sizeOf sz) (v.x r0).toNat .rel scope

/-- R224: loads 64 bytes into a vector register. -/
def execLdv (vd : VReg) (m : MemRef) (s : State) : Host.Outcome State Fault Refusal :=
  issue (.ldv vd m) (fun _ => { src := memRegs m, vdst := [vd] }) s fun v =>
    let a := effective m v.x
    match accessCells v.s (partyOf v.cx.core v.cx.st) .die false false a 64 (code := true) with
    | .error f => .error f.stop
    | .ok cells => loadVecAt v (touchEnds v.s v.cx.core a 64) vd a 64 [(a, 64)] (cells.zipIdx.map fun c => (c.2, c.1))

/-- R224: stores a vector register as 64 bytes. -/
def execStv (vs : VReg) (m : MemRef) (s : State) : Host.Outcome State Fault Refusal :=
  issue (.stv vs m) (fun _ => { src := memRegs m, vsrc := [vs] }) s fun v =>
    storeAt v (effective m v.x) 64 (v.v vs).toNat .plain .core

/-- R225: strided load of the active elements. -/
def execLdvs (vd : VReg) (base stride m : Reg) (t : ElemTy) (s : State) : Host.Outcome State Fault Refusal :=
  issue (.ldvs vd base stride m t) (fun _ => { src := [base, stride, m], vdst := [vd] }) s fun v =>
    loadElements v vd t (strided v base stride m t)

/-- R225: strided store of the active elements. -/
def execStvs (vs : VReg) (base stride m : Reg) (t : ElemTy) (s : State) : Host.Outcome State Fault Refusal :=
  issue (.stvs vs base stride m t) (fun _ => { src := [base, stride, m], vsrc := [vs] }) s fun v =>
    storeElements v vs t (strided v base stride m t)

/-- R225: indexed load of the active elements. -/
def execLdvx (vd : VReg) (base : Reg) (vi : VReg) (m : Reg) (t : ElemTy) (sc : BitVec 2) (s : State) : Host.Outcome State Fault Refusal :=
  issue (.ldvx vd base vi m t sc) (fun _ => { src := [base, m], vsrc := [vi], vdst := [vd] }) s fun v =>
    loadElements v vd t (indexed v base vi m t sc)

/-- R225: indexed store of the active elements. -/
def execStvx (vs : VReg) (base : Reg) (vi : VReg) (m : Reg) (t : ElemTy) (sc : BitVec 2) (s : State) : Host.Outcome State Fault Refusal :=
  issue (.stvx vs base vi m t sc) (fun _ => { src := [base, m], vsrc := [vs, vi] }) s fun v =>
    storeElements v vs t (indexed v base vi m t sc)

/-- R226: scratchpad load. -/
def execSld (d : Reg) (sgn : Bool) (m : MemRef) (swz sz : BitVec 2) (s : State) : Host.Outcome State Fault Refusal :=
  issue (.sld d sgn m swz sz) (fun _ => { src := memRegs m, dst := [d] }) s fun v =>
    match spadLoad v (effective m v.x).toNat (sizeOf sz) swz.toNat with
    | .error e => .error e
    | .ok x => results v [(d, extendTo (sizeOf sz) sgn x)]

/-- R226, R164: load from the record page. -/
def execSldRec (d : Reg) (sgn : Bool) (m : MemRef) (sz : BitVec 2) (s : State) : Host.Outcome State Fault Refusal :=
  issue (.sldRec d sgn m sz) (fun _ => { src := memRegs m, dst := [d] }) s fun v =>
    match recordRead (v.s.core v.cx.core) (effective m v.x).toNat (sizeOf sz) with
    | .error p => .error (.detail .memUncorrectable 1 (BitVec.ofNat 64 p))
    | .ok x => results v [(d, extendTo (sizeOf sz) sgn x)]

/-- R226: scratchpad store. -/
def execSst (r0 : Reg) (m : MemRef) (swz sz : BitVec 2) (s : State) : Host.Outcome State Fault Refusal :=
  issue (.sst r0 m swz sz) (fun _ => { src := r0 :: memRegs m }) s fun v =>
    spadStore v (effective m v.x).toNat (sizeOf sz) swz.toNat (v.x r0).toNat

/-- R226: scratchpad vector load. -/
def execSldv (vd : VReg) (m : MemRef) (swz : BitVec 2) (s : State) : Host.Outcome State Fault Refusal :=
  issue (.sldv vd m swz) (fun _ => { src := memRegs m, vdst := [vd] }) s fun v =>
    match spadLoad v (effective m v.x).toNat 64 swz.toNat with
    | .error e => .error e
    | .ok x => .ok { s := v.s, st := v.cx.st, vs := [(vd, BitVec.ofNat 512 x)] }

/-- R226: scratchpad vector store. -/
def execSstv (vs : VReg) (m : MemRef) (swz : BitVec 2) (s : State) : Host.Outcome State Fault Refusal :=
  issue (.sstv vs m swz) (fun _ => { src := memRegs m, vsrc := [vs] }) s fun v =>
    spadStore v (effective m v.x).toNat 64 swz.toNat (v.v vs).toNat

/-- R227: atomic add. -/
def execAmoadd (d a b : Reg) (md : AmoMod) (s : State) : Host.Outcome State Fault Refusal :=
  atomic (.amoadd d a b md) .add d a b md s

/-- R227: atomic AND. -/
def execAmoand (d a b : Reg) (md : AmoMod) (s : State) : Host.Outcome State Fault Refusal :=
  atomic (.amoand d a b md) .and d a b md s

/-- R227: atomic OR. -/
def execAmoor (d a b : Reg) (md : AmoMod) (s : State) : Host.Outcome State Fault Refusal :=
  atomic (.amoor d a b md) .or d a b md s

/-- R227: atomic XOR. -/
def execAmoxor (d a b : Reg) (md : AmoMod) (s : State) : Host.Outcome State Fault Refusal :=
  atomic (.amoxor d a b md) .xor d a b md s

/-- R227: atomic signed minimum. -/
def execAmomin (d a b : Reg) (md : AmoMod) (s : State) : Host.Outcome State Fault Refusal :=
  atomic (.amomin d a b md) .min d a b md s

/-- R227: atomic signed maximum. -/
def execAmomax (d a b : Reg) (md : AmoMod) (s : State) : Host.Outcome State Fault Refusal :=
  atomic (.amomax d a b md) .max d a b md s

/-- R227: atomic unsigned minimum. -/
def execAmominw (d a b : Reg) (md : AmoMod) (s : State) : Host.Outcome State Fault Refusal :=
  atomic (.amominw d a b md) .minw d a b md s

/-- R227: atomic unsigned maximum. -/
def execAmomaxw (d a b : Reg) (md : AmoMod) (s : State) : Host.Outcome State Fault Refusal :=
  atomic (.amomaxw d a b md) .maxw d a b md s

/-- R227: atomic swap. -/
def execAmoswap (d a b : Reg) (md : AmoMod) (s : State) : Host.Outcome State Fault Refusal :=
  atomic (.amoswap d a b md) .swap d a b md s

/-- R227: atomic compare and swap. -/
def execAmocas (d a b : Reg) (md : AmoMod) (s : State) : Host.Outcome State Fault Refusal :=
  atomic (.amocas d a b md) .cas d a b md s

/-- R227: atomic floating add. -/
def execAmofadd (d a b : Reg) (md : AmoMod) (s : State) : Host.Outcome State Fault Refusal :=
  atomic (.amofadd d a b md) .fadd d a b md s

/-- R229: waits until its ordering holds (R194, R196); an acquire part for earlier reads. -/
def execFence (scope : Scope) (ord : Ord) (s : State) : Host.Outcome State Fault Refusal :=
  issue (.fence scope ord) (fun _ => { blocking := false }) s fun v =>
    let st := v.cx.st
    let acq := ord == .acq || ord == .acqrel
    let rel := ord == .rel || ord == .acqrel
    if acq ∧ strandReading v.s v.cx.core st = true then .error .stall
    else if rel ∧ releaseReady v.s v.cx.core st st.nextSeq scope = false then .error .stall
    else results v []

/-- R230: no architectural effect; the caches are no state (log 12). -/
def execPref (level : Bool) (m : MemRef) (s : State) : Host.Outcome State Fault Refusal :=
  issue (.pref level m) (fun _ => { src := memRegs m }) s fun v => results v []

end Sys2Proof.Machine
end

