-- ==== Sys2Proof/Machine/Volumes.lean ====
section
/-! DEFINITION. Sparse volumes: descriptors, the tile tree, the pool, the CLB, and the coordinate instructions (R185, R217, R251 to R253, R345 to R355). -/

namespace Sys2Proof.Machine

/-- A volume descriptor (R346). -/
structure Volume where
  dims : Nat
  depth : Nat
  esz : Nat
  fw : List Nat
  ts : List Nat
  extent : List Nat
  background : Word
  root : Nat
  pool : Nat
deriving DecidableEq, Repr

/-- The descriptor at a physical address (R346). -/
def readVolume (s : State) (p : Nat) : Volume :=
  let w := fun k => BitVec.ofNat 64 (physRead s (p + 8 * k) 8)
  let w0 := w 0
  { dims := bits w0 63 62 + 1, depth := bits w0 61 59, esz := bits w0 58 57,
    fw := [bits w0 34 28, bits w0 41 35, bits w0 48 42, bits w0 55 49],
    ts := [bits w0 15 12, bits w0 19 16, bits w0 23 20, bits w0 27 24],
    extent := [(w 1).toNat, (w 2).toNat, (w 3).toNat, (w 4).toNat], background := w 5, root := bits (w 6) 47 0,
    pool := bits (w 7) 47 0 }

/-- Element size in bytes. -/
def Volume.elem (d : Volume) : Nat := 2 ^ d.esz

/-- Width of the tile key (R347). -/
def Volume.keyWidth (d : Volume) : Nat := ((List.range 4).map fun k => d.fw.getD k 0 - d.ts.getD k 0).foldl (· + ·) 0

/-- A valid descriptor (R347); the depth is 1 to 5 (R346). -/
def Volume.valid (d : Volume) : Bool :=
  let dim := List.range 4
  (dim.all fun k => decide (k < d.dims) || (d.fw.getD k 0 == 0 && d.ts.getD k 0 == 0))
    && decide (d.fw.foldl (· + ·) 0 ≤ 64) && (dim.all fun k => decide (d.ts.getD k 0 ≤ d.fw.getD k 0))
    && d.ts.foldl (· + ·) d.esz == 12
    && (dim.all fun k => decide (1 ≤ d.extent.getD k 0) && decide (d.extent.getD k 0 ≤ 2 ^ d.fw.getD k 0))
    && decide (d.keyWidth ≤ 9 * d.depth) && decide (1 ≤ d.depth) && decide (d.depth ≤ 5)

/-- The lowest bit of a dimension's field (R252). -/
def Volume.fieldAt (d : Volume) (k : Nat) : Nat := (d.fw.take k).foldl (· + ·) 0

/-- The coordinate of a dimension in a coordinate word. -/
def Volume.coord (d : Volume) (c : Word) (k : Nat) : Nat := c.toNat / 2 ^ d.fieldAt k % 2 ^ d.fw.getD k 0

/-- Whether a coordinate word lies in the volume (R251). -/
def Volume.inRange (d : Volume) (c : Word) : Bool :=
  (List.range 4).all (fun k => decide (d.coord c k < d.extent.getD k 0)) && decide (c.toNat < 2 ^ d.fieldAt 4)

/-- key_of (R348). -/
def Volume.key (d : Volume) (c : Word) : Nat :=
  ((List.range 4).foldl (fun (acc : Nat × Nat) k =>
    (acc.1 + d.coord c k / 2 ^ d.ts.getD k 0 * 2 ^ acc.2, acc.2 + d.fw.getD k 0 - d.ts.getD k 0)) (0, 0)).1

/-- The byte of an element within its tile (R252). -/
def Volume.byteIn (d : Volume) (c : Word) : Nat :=
  let l := fun k => d.coord c k % 2 ^ d.ts.getD k 0
  let t := fun k => 2 ^ d.ts.getD k 0
  d.elem * (l 0 + t 0 * (l 1 + t 1 * (l 2 + t 2 * l 3)))

/-- The entry index of a level (R348). -/
def Volume.index (d : Volume) (key lev : Nat) : Nat := key / 2 ^ (9 * (d.depth - lev - 1)) % 512

/-- The cells of n bytes at a physical address, when all lie on a die (R345). -/
def cellsOnDie (s : State) (die p n : Nat) : Option (List Nat) :=
  let cs := (List.range n).map fun i => cellAt s (p + i)
  if cs.all fun c => c.any fun k => memberOf k == die then some (cs.map (·.getD 0)) else none

/-- Whether a 4 KiB tile lies on a die. -/
def tileOnDie (s : State) (die p : Nat) : Bool :=
  (List.range 16).all fun i => (cellAt s (p + 256 * i)).any fun k => memberOf k == die

/-- A tree entry as a walk reads it (R349). -/
inductive Entry where
  | absent
  | busy (addr : Nat)
  | present (addr : Nat)
  | bad
  | poisoned
deriving DecidableEq, Repr

/-- Reads the entry at a physical address; a misplaced or malformed one is bad (R345, R349). -/
def readEntry (s : State) (die p : Nat) : Entry :=
  match cellsOnDie s die p 8 with
  | none => .bad
  | some cells =>
    if cells.any (isPoisoned s) then .poisoned
    else
      let w := BitVec.ofNat 64 (ofLe (readCells s cells))
      let a := bits w 47 0
      if bits w 61 48 ≠ 0 ∨ a % 4096 ≠ 0 then .bad
      else match bits w 63 62 with
        | 0 => .absent
        | 1 => .busy a
        | 2 => .present a
        | _ => .bad

/-- Where a walk ends: the leaf entry's address and state, or the first absent level (R351). -/
inductive Walk where
  | leaf (slot : Nat) (e : Entry)
  | absent
  | busy
  | bad
  | poisoned
deriving DecidableEq, Repr

/-- A walk that allocates nothing, from a node over the levels left (R351). -/
def walk (s : State) (die : Nat) (d : Volume) (key : Nat) : Nat → Nat → Nat → Walk
  | 0, _, _ => .bad
  | left + 1, lev, node =>
    let slot := node + 8 * d.index key lev
    match readEntry s die slot with
    | .bad => .bad
    | .poisoned => .poisoned
    | e =>
      if left = 0 then .leaf slot e
      else match e with
        | .absent => .absent
        | .busy _ => .busy
        | .present a => walk s die d key left (lev + 1) a
        | _ => .bad

/-- The pool header (R352): lost, cap, top. -/
def poolHeader (s : State) (p : Nat) : Nat × Nat × Nat :=
  let w := BitVec.ofNat 64 (physRead s p 8)
  (bits w 63 48, bits w 47 24, bits w 23 0)

/-- Writes the pool header. -/
def setPool (s : State) (p lost cap top : Nat) : State :=
  physWrite s p (leBytes 8 (lost * 2 ^ 48 + cap * 2 ^ 24 + top))

/-- Whether the header of a pool, and the stack entry that a pop (or, with `more` 1, a push) reaches, lie on a die (R345). -/
def poolOnDie (s : State) (die p more : Nat) : Bool :=
  let top := (poolHeader s p).2.2
  (cellsOnDie s die p 64).isSome
    && ((top == 0 && more == 0) || (more == 1 && top == (poolHeader s p).2.1)
      || (cellsOnDie s die (p + 64 + 8 * (top + more - 1)) 8).isSome)

/-- Whether the header of a pool, or the stack entry that a pop reaches, has an uncorrectable error (R405). -/
def poolPoisoned (s : State) (p : Nat) : Bool :=
  let bad := fun (a : Nat) => (cellAt s a).any (isPoisoned s)
  bad p || (decide (0 < (poolHeader s p).2.2) && bad (p + 64 + 8 * ((poolHeader s p).2.2 - 1)))

/-- pool_pop (R352): none when the pool is empty. -/
def poolPop (s : State) (p : Nat) : Option (Nat × State) :=
  let (lost, cap, top) := poolHeader s p
  if top = 0 then none else some (physRead s (p + 64 + 8 * (top - 1)) 8, setPool s p lost cap (top - 1))

/-- Whether the header of a pool has an uncorrectable error (R405). -/
def headerPoisoned (s : State) (p : Nat) : Bool := (cellAt s p).any (isPoisoned s)

/-- pool_push (R352); where the header has an uncorrectable error nothing is written, and the tile is lost (R405). -/
def poolPush (s : State) (p tile : Nat) : State :=
  let (lost, cap, top) := poolHeader s p
  if headerPoisoned s p then s
  else if top = cap then setPool s p (Nat.min 65535 (lost + 1)) cap top
  else setPool (physWrite s (p + 64 + 8 * top) (leBytes 8 tile)) p lost cap (top + 1)

/-- What a walk for a store ends in (R351): the tile, an absent entry and whether it is a leaf, a wait, or a trap. -/
inductive Grown where
  | tile (a : Nat)
  | absent (slot : Nat) (leaf : Bool)
  | wait
  | trap (c : Cause)

/-- The 4 KiB that a new node or tile is filled with (R351). -/
def fillBytes (d : Volume) (leaf : Bool) : List Byte :=
  if leaf then (List.replicate (4096 / d.elem) (leBytes d.elem d.background.toNat)).flatten else List.replicate 4096 0

/-- walk_for_store over the levels left, up to the first absent entry (R351). -/
def grow (s : State) (die : Nat) (d : Volume) (key : Nat) : Nat → Nat → Nat → Grown
  | 0, _, node => .tile node
  | left + 1, lev, node =>
    let slot := node + 8 * d.index key lev
    match readEntry s die slot with
    | .bad => .trap .objAbsent
    | .poisoned => .trap .memUncorrectable
    | .busy _ => .wait
    | .present a => grow s die d key left (lev + 1) a
    | .absent => .absent slot (left == 0)

/-- Takes a tile from the pool for an absent entry and fills it (R351): the state, or the trap, with what it leaves. -/
def takeTile (s : State) (die oid : Nat) (d : Volume) (slot : Nat) (leaf : Bool) : Except (Cause × State) (State × TreeWork) :=
  if !poolOnDie s die d.pool 0 then .error (.objAbsent, s)
  else if poolPoisoned s d.pool then .error (.memUncorrectable, s)
  else match poolPop s d.pool with
  | none => .error (.volPoolEmpty, s)
  | some (t, s) =>
    if t % 4096 ≠ 0 ∨ 2 ^ 48 ≤ t ∨ tileOnDie s die t = false then .error (.objAbsent, s)
    else .ok (physWrite s t (fillBytes d leaf), .tile oid slot t d.pool)

/-- cas_release of a strand's tile into its parent entry (R217, R351): it wins while the entry is ABSENT; a loser's tile goes
back to the pool (R218). -/
def publish (s : State) (die slot tile pool : Nat) : State :=
  match readEntry s die slot with
  | .absent => physWrite s slot (leBytes 8 (2 * 2 ^ 62 + tile))
  | _ => poolPush s pool tile

/-- The trap of a volume access that meets an uncorrectable error in a descriptor, a tree node or a pool (R382, R405). -/
def volumePoison (value : Word) : Stop := .detail .memUncorrectable 0 value

/-- The volume that a handle names, after the checks of R251 up to VOL_RANGE: its id and descriptor. `value` is EVALUE for a
descriptor with an uncorrectable error: the coordinate word, or for a CSR access the handle (log 101). -/
def volumeOf (v : Vals) (h c : Word) (write : Bool) (value : Word := c) : Except Stop (Nat × Volume) :=
  let a := put (oidOf h) 48
  let p := partyOf v.cx.core v.cx.st
  let page := oidOf h * 2 ^ 32
  if oidOf h = 0 then .error (.trap .objBounds h)
  else if oidOf h = 0xFFFF then .error (.trap (if p.sup then .objPermission else .objBounds) h)
  else match pageState v.s p a with
  | .missing => .error (.miss page 3)
  | .declined k => .error (.trap (if k = 2 then .objBounds else .objAbsent) h)
  | .entry e =>
    if e.kind ≠ 1 ∨ (if write then e.wr else e.rd) = false then .error (.trap .objPermission h)
    else match cellAt v.s e.pbase with
    | none => .error (.trap .objAbsent h)
    | some k =>
      if memberOf k ≠ dieOf v.cx.core then .error (.trap .volRemote h)
      else if isPoisoned v.s k then .error (volumePoison value)
      else
        let d := readVolume v.s e.pbase
        if !d.valid then .error (.trap .objPermission h)
        else if !d.inRange c then .error (.trap .volRange c)
        else .ok (oidOf h, d)

/-- The values with the translation of a handle in the L1 TLB (R334). -/
def Vals.touched (v : Vals) (h : Word) : Vals := { v with s := touch v.s v.cx.core (put (oidOf h) 48) }

/-- The tile that a CLB translation names (R353). -/
def clbTile (c : Core) (oid key : Nat) : Option Nat :=
  (c.clb.find? fun e => e.oid == oid && e.key == key).map (·.tile)

/-- A walk that ends at a PRESENT leaf fills the CLB (R353). -/
def clbFill (s : State) (core oid key tile : Nat) : State :=
  let c := s.core core
  if (clbTile c oid key).isSome then s
  else { s.setCore core { c with clb := makeRoom s 256 c.clb ++ [⟨oid, key, tile⟩] } with free := s.free + 1 }

/-- The trap of a walk that met a bad or poisoned entry. -/
def walkTrap (poisoned : Bool) (c : Word) : Stop :=
  if poisoned then volumePoison c else .trap .objAbsent c

/-- The tile of a coordinate for a load: absent, or its address and the state with the CLB filled; it waits at BUSY
(R350, R353). -/
def tileForLoad (v : Vals) (oid : Nat) (d : Volume) (c : Word) : Except Stop (Option (Nat × State)) :=
  let key := d.key c
  let core := v.cx.core
  match clbTile (v.s.core core) oid key with
  | some t => .ok (some (t, v.s))
  | none => match walk v.s (dieOf core) d key d.depth 0 d.root with
    | .bad => .error (walkTrap false c)
    | .poisoned => .error (walkTrap true c)
    | .busy => .error .stall
    | .absent => .ok none
    | .leaf _ e => match e with
      | .present t => .ok (some (t, clbFill v.s core oid key t))
      | .busy _ => .error .stall
      | _ => .ok none

/-- The tile of a coordinate for a store. Where the path is absent the store allocates step by step before it issues: it
takes and fills a tile, then publishes it as a release at die scope, and walks again (R217, R218, R351). -/
def tileForStore (v : Vals) (oid : Nat) (d : Volume) (c : Word) : Except Stop (Nat × State) :=
  let key := d.key c
  let core := v.cx.core
  let die := dieOf core
  let st := v.cx.st
  let keep := fun (s : State) (w : Option TreeWork) =>
    Except.error (Stop.keep (stall (s.setStrand core v.cx.slot { st with work := w })))
  match st.work with
  | some (.tile _ slot tile pool) =>
    if readEntry v.s die slot = .absent ∧ releaseReady v.s core st st.nextSeq .die = false then .error .stall
    else if readEntry v.s die slot ≠ .absent ∧ headerPoisoned v.s pool = true then
      .error (.keep (stopped v.s { v.cx with st := { st with work := none } } (volumePoison c)))
    else keep (publish v.s die slot tile pool) none
  | none => match clbTile (v.s.core core) oid key with
    | some t => .ok (t, v.s)
    | none => match grow v.s die d key d.depth 0 d.root with
      | .wait => .error .stall
      | .trap .memUncorrectable => .error (walkTrap true c)
      | .trap cause => .error (.trap cause c)
      | .tile t => .ok (t, clbFill v.s core oid key t)
      | .absent slot leaf => match takeTile v.s die oid d slot leaf with
        | .ok (s, w) => keep s (some w)
        | .error (cause, s) => .error (.keep (trapAt s v.cx cause 0 c))

/-- The run rule of ldcv and stcv (R252), in the order of R251. -/
def runCheck (d : Volume) (c : Word) : Except Stop Unit :=
  let n := 64 / d.elem
  let c0 := d.coord c 0
  if d.extent.getD 0 0 < c0 + n then .error (.trap .volRange c)
  else if 2 ^ d.ts.getD 0 0 * d.elem < 64 ∨ c0 % n ≠ 0 then .error (.trap .misaligned c)
  else .ok ()

/-- The cells of n bytes of a tile; a tile off the die traps (R345). -/
def elementAt (s : State) (v : Vals) (d : Volume) (tile n : Nat) (c : Word) : Except Stop (List Nat) :=
  match cellsOnDie s (dieOf v.cx.core) (tile + d.byteIn c) n with
  | some cells => .ok cells
  | none => .error (.trap .objAbsent c)

/-- An element store, up to its issue (R251). -/
def storeElement (v : Vals) (h c : Word) (run : Bool) (val : Nat) : Except Stop Done :=
  match volumeOf v h c true with
  | .error e => .error e
  | .ok (oid, d) =>
    let v := v.touched h
    match if run then runCheck d c else .ok () with
    | .error e => .error e
    | .ok () =>
      let n := if run then 64 else d.elem
      match countSt v.cx.st with
      | none => .error .stall
      | some st => match tileForStore v oid d c with
        | .error e => .error e
        | .ok (t, s) => match elementAt s v d t n c with
          | .error e => .error e
          | .ok cells =>
            .ok { s := s, st := st.begin { noAccess (.store n) with addr := c, spans := [(put oid 48, 0)], writes := pairWrites cells val } }

/-- The CLBs of a die without the translations that a test selects (R354, R355). -/
def clbDrop (s : State) (die : Nat) (p : ClbEntry → Bool) : State :=
  { s with cores := s.cores.map fun e =>
      if dieOf e.1 == die then (e.1, { e.2 with clb := e.2.clb.filter fun t => !p t }) else e }

/-- Whether an access of a strand of the die that reaches a tile is outstanding (R354). -/
def tileInUse (s : State) (die tile : Nat) : Bool :=
  let cells := (cellAt s tile).map fun k => (k, k + 4096)
  s.live.any fun e => dieOf e.1 == die && e.2.2.pend.any fun a =>
    a.cells.any fun k => cells.any fun r => decide (r.1 ≤ k) && decide (k < r.2)

/-- R251: loads a volume element; an absent tile gives the background value (R185). -/
def execLdc (d h c : Reg) (sgn : Bool) (s : State) : Host.Outcome State Fault Refusal :=
  issue (.ldc d h c sgn) (fun _ => { src := [h, c], dst := [d] }) s fun v =>
    let w := v.x c
    match volumeOf v (v.x h) w false with
    | .error e => .error e
    | .ok (oid, vol) =>
      let v := v.touched (v.x h)
      match tileForLoad v oid vol w with
      | .error e => .error e
      | .ok none =>
        if v.cx.st.acquiring || (countLd v.cx.st).isNone then .error .stall
        else results v [(d, extendTo vol.elem sgn (vol.background.toNat % 256 ^ vol.elem))]
      | .ok (some (t, s)) => match countLd v.cx.st, elementAt s v vol t vol.elem w with
        | none, _ => .error .stall
        | _, .error e => .error e
        | some st, .ok cells =>
          let (s, st, dest) := reserve s st d
          .ok { s := s, st := st.begin { noAccess (.load vol.elem sgn) with
            addr := w, dest := dest, spans := [(put oid 48, 0)], reads := cells.zipIdx.map fun k => (k.2, k.1) } }

/-- R251: stores a volume element, allocating its tile when absent. -/
def execStc (r0 h c : Reg) (s : State) : Host.Outcome State Fault Refusal :=
  issue (.stc r0 h c) (fun _ => { src := [r0, h, c] }) s fun v => storeElement v (v.x h) (v.x c) false (v.x r0).toNat

/-- R252: loads 64 aligned bytes of a tile's run. -/
def execLdcv (vd : VReg) (h c : Reg) (s : State) : Host.Outcome State Fault Refusal :=
  issue (.ldcv vd h c) (fun _ => { src := [h, c], vdst := [vd] }) s fun v =>
    let w := v.x c
    match volumeOf v (v.x h) w false with
    | .error e => .error e
    | .ok (oid, vol) =>
      let v := v.touched (v.x h)
      match runCheck vol w with
      | .error e => .error e
      | .ok () => match tileForLoad v oid vol w with
        | .error e => .error e
        | .ok none =>
          if v.cx.st.acquiring || (countLd v.cx.st).isNone then .error .stall
          else .ok { s := v.s, st := v.cx.st, vs := [(vd, BitVec.ofNat 512 (ofLe ((fillBytes vol true).take 64)))] }
        | .ok (some (t, s)) => match elementAt s v vol t 64 w with
          | .error e => .error e
          | .ok cells => loadVecAt v s vd w 64 [(put oid 48, 0)] (cells.zipIdx.map fun k => (k.2, k.1))

/-- R252: stores 64 aligned bytes of a tile's run. -/
def execStcv (vs : VReg) (h c : Reg) (s : State) : Host.Outcome State Fault Refusal :=
  issue (.stcv vs h c) (fun _ => { src := [h, c], vsrc := [vs] }) s fun v =>
    storeElement v (v.x h) (v.x c) true (v.v vs).toNat

/-- R253: the state of the tile that holds a coordinate. -/
def execCprobe (d h c : Reg) (s : State) : Host.Outcome State Fault Refusal :=
  issue (.cprobe d h c) (fun _ => { src := [h, c], dst := [d] }) s fun v =>
    let w := v.x c
    match volumeOf v (v.x h) w false with
    | .error e => .error e
    | .ok (_, vol) =>
      let v := v.touched (v.x h)
      match walk v.s (dieOf v.cx.core) vol (vol.key w) vol.depth 0 vol.root with
      | .bad => .error (walkTrap false w)
      | .poisoned => .error (walkTrap true w)
      | .busy => .error .stall
      | .absent => if (countLd v.cx.st).isNone then .error .stall else results v [(d, 0)]
      | .leaf _ e => if (countLd v.cx.st).isNone then .error .stall else results v [(d, match e with | .busy _ => 1 | .present _ => 2 | _ => 0)]

/-- Whether the ctrim in hand is the one at the strand's program counter (R354). -/
def trimHere (st : Strand) : Option Trimming := st.trimming.filter fun t => t.pc == st.pc

/-- Whether the trim of a ctrim has been performed: its access is no longer outstanding. -/
def trimDone (st : Strand) (t : Trimming) : Bool :=
  st.pend.all fun a => a.seq != t.seq || (match a.op with | .trim .. => false | _ => true)

/-- What a ctrim names: handle and coordinate; nothing more once it has taken them (log 99). -/
def ctrimUses (cx : Ctx) (h c : Reg) : Uses := if (trimHere cx.st).isSome then {} else { src := [h, c] }

/-- Step 1 of R354: the operands are taken, the leaf turns BUSY, and the trim goes on as an access of the strand; the ctrim
waits for it. Its source ports are popped here, so that the instruction works on one element however long it waits (R54,
log 99). -/
def beginTrim (v : Vals) (u : Uses) (slot tile pool oid key : Nat) (w : Word) : State :=
  let acc := { noAccess (.trim slot tile pool oid key) with addr := w, ord := .rel, scope := .die, spans := [(put oid 48, 0)] }
  let s := physWrite v.s slot (leBytes 8 (2 ^ 62 + tile))
  let st := v.cx.st
  let p := (sourcePorts u).foldl (fun p k => popPort p.1 p.2 k) (s, { st with st := st.st + 1, declines := [] })
  stall (p.1.setStrand v.cx.core v.cx.slot
    { (p.2.begin acc) with trimming := some { pc := st.pc, coord := w, seq := st.nextSeq, pool := pool } })

/-- R253, R354: after every earlier store, frees a present tile: the leaf turns BUSY, and the trim goes on as an access of the strand; the ctrim retires when it is done. -/
def execCtrim (h c : Reg) (s : State) : Host.Outcome State Fault Refusal :=
  issue (.ctrim h c) (fun cx => ctrimUses cx h c) s fun v =>
    let w := v.x c
    let st := v.cx.st
    let die := dieOf v.cx.core
    match trimHere st with
    | some t =>
      if !trimDone st t then .error .stall
      else if headerPoisoned v.s t.pool then .error (volumePoison t.coord)
      else results v []
    | none =>
    if st.st ≠ 0 then .error .stall
    else match volumeOf v (v.x h) w true with
    | .error e => .error e
    | .ok (oid, vol) =>
      let v := v.touched (v.x h)
      let key := vol.key w
      match walk v.s die vol key vol.depth 0 vol.root with
      | .bad => .error (walkTrap false w)
      | .poisoned => .error (walkTrap true w)
      | .busy => .error .stall
      | .absent => results v []
      | .leaf slot e => match e with
        | .present t =>
          if !poolOnDie v.s die vol.pool 1 || !tileOnDie v.s die t then .error (.trap .objAbsent w)
          else if headerPoisoned v.s vol.pool then .error (volumePoison w)
          else .error (.keep (beginTrim v (ctrimUses v.cx h c) slot t vol.pool oid key w))
        | .busy _ => .error .stall
        | _ => results v []

end Sys2Proof.Machine
end

