-- ==== Sys2Proof/Machine/Fabric.lean ====
section
/-! DEFINITION. Fabric operations (R202 to R206, R231 to R237), function shipping (R178 to R180, R250), and the performing and completing of outstanding accesses. -/

namespace Sys2Proof.Machine

/-- The package that an operand names: none for the issuing package (R231). -/
def packageOf (v : Vals) (p : Reg) : Option Nat :=
  let n := (v.x p).toNat % 65536
  if p = Reg.zero ∨ n = v.s.pkg.id then none else some n

/-- The cells of a fabric access: the homes of the issuing package, or the bare addresses at another one, which checks
them itself (R231). -/
def fabricCells (v : Vals) (pkg : Option Nat) (reach : Reach) (write : Bool) (a : Word) (n : Nat) (reads : Bool) :
    Except Fail (List Nat) :=
  match pkg with
  | some _ => .ok ((List.range n).map fun i => (after a i).toNat)
  | none => accessCells v.s (partyOf v.cx.core v.cx.st) reach write true a n reads

/-- The L1 TLB after a fabric access of the issuing package. -/
def touchFabric (s : State) (core : Nat) (pkg : Option Nat) (a : Word) (n : Nat) : State :=
  if pkg.isSome then s else touchEnds s core a n

/-- A put or puts of given bytes, up to its issue (R234). -/
def putAt (v : Vals) (a : Word) (pkg : Option Nat) (bytes : List Byte) (block : Bool) (ord : Ord) (scope : Scope) :
    Except Stop Done :=
  match countRemote v.cx.st with
  | none => .error .stall
  | some st => match fabricCells v pkg .any true a bytes.length false with
    | .error f => .error f.stop
    | .ok cells =>
      let acc := { noAccess (.put block) with
        addr := a, ord := ord, scope := scope, pkg := pkg, spans := [(a, bytes.length)], writes := cells.zip bytes }
      .ok { s := touchFabric v.s v.cx.core pkg a bytes.length, st := st.begin acc }

/-- Notes a dropped operation (R390): its type and, for amsg and push, the destination core. -/
def noteDrop (st : Strand) (kind dest : Nat) : Strand :=
  { st with undeliverable := true, drops := Nat.min (st.drops + 1) (2 ^ 32 - 1),
            firstDrop := if st.drops = 0 then put kind 28 ||| put dest 0 else st.firstDrop }

/-- The type of a dropped operation (R390). -/
def dropKind : AccOp → Nat
  | .get _ => 1
  | .put false => 2
  | .put true => 3
  | .ramo .. => 4
  | .amsg .. => 5
  | .push _ => 6
  | _ => 7

/-- e2 of the destination core of a dropped amsg or push (R390). -/
def dropCore (s : State) : AccOp → Nat
  | .amsg _ c _ _ => e2Of c
  | .push q => match s.queue q with
    | some v => match s.strands.find? (fun e => v.consumers.any fun c => c.1 == e.2.gen) with
      | some e => e2Of (e.1 / 256)
      | none => e2Of v.dest
    | none => 0
  | _ => 0

/-- Whether an operation runs at a routine engine (R228). -/
def isShipped : AccOp → Bool
  | .atomic _ _ p _ _ | .ramo _ _ p _ _ => p == 2
  | .fship .. => true
  | _ => false

/-- Whether an operation for another package has a port of the issuing partition to leave by (R371). -/
def peerReaches (s : State) (core p : Nat) : Bool :=
  s.pkg.id != 0 && (match partOf s core with
    | some k => match s.parts.find k with
      | some q => (q.peers &&& s.pkg.peermap.get 0 p) != 0
      | none => false
    | none => false)

/-- Replaces an outstanding access of a strand. -/
def Strand.update (st : Strand) (a b : Access) : Strand :=
  { st with pend := st.pend.map fun c => if c.seq == a.seq && c.op == a.op then b else c }

/-- The outstanding access of a strand with a sequence number that a test selects. -/
def Strand.find (st : Strand) (seq : Nat) (p : AccOp → Bool) : Option Access :=
  st.pend.find? fun a => a.seq == seq && p a.op

/-- Runs a change on an outstanding access of the strand at a place, when there is one; else the event is not enabled
and changes nothing (log 6). -/
def onAccess (s : State) (core place seq : Nat) (p : AccOp → Bool)
    (f : Strand → Access → State) : Host.Outcome State Fault Refusal :=
  match s.strand core place with
  | none => .next s
  | some st => match st.find seq p with
    | none => .next s
    | some a => .next (f st a)

/-- The old value that an atomic reads. -/
def oldValue (s : State) (a : Access) : Word := BitVec.ofNat 64 (ofLe (readCells s (a.reads.map (·.2))))

/-- Whether an access reads a byte with an uncorrectable error. -/
def readsBad (s : State) (a : Access) : Bool := a.reads.any fun r => isPoisoned s r.2

/-- Performs the write part of an atomic on the bytes it reads. -/
def performAtomic (s : State) (a : Access) (op : AmoOp) (wide : Bool) (b expect : Word) (depth : Nat) : State :=
  storeCells s (pairWrites (a.reads.map (·.2)) (amoNew op wide (oldValue s a) b expect).toNat) depth

/-- R205, R236: whether a message finds its destination core in its partition, held by a launch of the sender's id
(R330). -/
def messageLands (s : State) (m : Message) (core : Nat) : Bool :=
  decide (core < 2048) && partOf s core == m.part && (launchOf s core).any fun l => l.lid == m.lid

/-- Whether arrivals for a core go to its spill buffer: it is pre-empted, or what spilled is still being replayed (R396). -/
def spills (c : Core) : Bool := c.preempted || !c.spill.isEmpty

/-- An arriving AMSG enters the buffer of its core, or its spill buffer (R236, R396). -/
def acceptMessage (s : State) (core : Nat) (m : Message) : State :=
  let c := s.core core
  if spills c then s.setCore core { c with spill := c.spill ++ [.message m] }
  else s.setCore core { c with inbox := c.inbox ++ [m] }

/-- Bytes used of the spill buffer of 64 KiB: 64 for each message and each beat (R396). -/
def spillUsed (c : Core) : Nat :=
  64 * (c.spill.map fun e => match e with | .message _ => 1 | .beats _ t => t.beats.length).foldl (· + ·) 0

/-- Whether a core can take another message now; in the network it waits otherwise (R396). -/
def messageRoom (c : Core) : Bool :=
  if spills c then decide (spillUsed c + 64 ≤ 65536) else decide (c.inbox.length < 64)

/-- A routine's new line and result (R178): routines 0 to 10 are the atomic operations, the others are what the image that
loaded them makes them (log 9). A fixed routine works on the aligned operand that holds its address (log 104); routine 9 stores
its first operand where the old value equals its second (log 105). -/
def runRoutine (n : Nat) (image line : List Byte) (a op1 op2 : Word) : List Byte × Word :=
  let op : Option AmoOp := match n with
    | 0 => some .add | 1 => some .and | 2 => some .or | 3 => some .xor | 4 => some .min | 5 => some .max
    | 6 => some .minw | 7 => some .maxw | 8 => some .swap | 9 => some .cas | 10 => some .fadd | _ => none
  match op with
  | some op =>
    let size := if Config.fshipWide then 8 else 4
    let at0 := a.toNat % 64 / size * size
    let old := BitVec.ofNat 64 (ofLe ((line.drop at0).take size))
    let new := leBytes size (amoNew op Config.fshipWide old op1 op2).toNat
    (line.take at0 ++ new ++ line.drop (at0 + size), old)
  | none => ((List.range 64).map (Config.routineLine n image line a op1 op2), Config.routineResult n image line a op1 op2)

/-- Whether a routine is loaded (R178). -/
def routineLoaded (s : State) (n : Nat) : Bool := decide (n ≤ 10) || (decide (16 ≤ n) && (s.pkg.routines.find n).isSome)

/-- R233: reads 1 to 8 bytes at any home, or at another package. -/
def execGet (d a pkg : Reg) (ord : Ord) (scope : Scope) (sz : BitVec 2) (s : State) : Host.Outcome State Fault Refusal :=
  issue (.get d a pkg ord scope sz) (fun _ => { src := [a, pkg], dst := [d] }) s fun v =>
    let n := sizeOf sz
    let addr := v.x a
    let p := packageOf v pkg
    match countLd v.cx.st with
    | none => .error .stall
    | some st =>
      if addr.toNat % n ≠ 0 then .error (.trap .misaligned addr)
      else match fabricCells v p .any false addr n true with
      | .error f => .error f.stop
      | .ok cells =>
        let (s, st, dest) := reserve (touchFabric v.s v.cx.core p addr n) st d
        let acc := { noAccess (.get n) with addr := addr, ord := ord, scope := scope, dest := dest, pkg := p, spans := [(addr, n)]
                                            reads := cells.zipIdx.map fun c => (c.2, c.1) }
        .ok { s := s, st := st.begin acc }

/-- R234: writes a register value at any home, or at another package. -/
def execPut (a val pkg : Reg) (ord : Ord) (scope : Scope) (sz : BitVec 2) (s : State) : Host.Outcome State Fault Refusal :=
  issue (.put a val pkg ord scope sz) (fun _ => { src := [a, val, pkg] }) s fun v =>
    let n := sizeOf sz
    if (v.x a).toNat % n ≠ 0 then .error (.trap .misaligned (v.x a))
    else putAt v (v.x a) (packageOf v pkg) (leBytes n (v.x val).toNat) false ord scope

/-- R234: writes 1 to 8 scratchpad words within one line. -/
def execPuts (a off pkg : Reg) (ord : Ord) (scope : Scope) (n : BitVec 3) (s : State) : Host.Outcome State Fault Refusal :=
  issue (.puts a off pkg ord scope n) (fun _ => { src := [a, off, pkg] }) s fun v =>
    let len := 8 * (n.toNat + 1)
    if (v.x a).toNat % 8 ≠ 0 ∨ 64 < (v.x a).toNat % 64 + len then .error (.trap .misaligned (v.x a))
    else
      let c := v.s.core v.cx.core
      let o := (v.x off).toNat
      if v.cx.st.acquiring then .error .stall
      else match putAt v (v.x a) (packageOf v pkg) (spadRead c v.cx.st.spadBase v.cx.st.spadSize 0 o len) true ord scope with
      | .error e => .error e
      | .ok d => match spadBad c v.cx.st.spadBase v.cx.st.spadSize 0 o len with
        | some w => .error (.detail .memUncorrectable 1 (BitVec.ofNat 64 w))
        | none => .ok d

/-- R235: an atomic operation at a remote home; ramocas reads xd. -/
def execRamo (d : Reg) (op : AmoOp) (a b pkg : Reg) (md : AmoMod) (s : State) : Host.Outcome State Fault Refusal :=
  issue (.ramo d op a b pkg md) (fun _ => { src := if op = .cas then [a, b, pkg, d] else [a, b, pkg], dst := [d] }) s
    fun v =>
      let n := if md.wide then 8 else 4
      let addr := v.x a
      let p := packageOf v pkg
      match countRemote v.cx.st with
      | none => .error .stall
      | some st =>
        if addr.toNat % n ≠ 0 then .error (.trap .misaligned addr)
        else match fabricCells v p (if md.place = 2 then .ship else .any) true addr n true with
        | .error f => .error f.stop
        | .ok cells =>
          let (s, st, dest) := reserve (touchFabric v.s v.cx.core p addr n) st d
          let acc := { noAccess (.ramo op md.wide md.place.toNat (v.x b) (if op = .cas then v.x d else 0)) with
            addr := addr, ord := md.ord, scope := md.scope, dest := dest, pkg := p, spans := [(addr, n)]
            reads := cells.zipIdx.map (fun c => (c.2, c.1)), writes := cells.map fun c => (c, 0) }
          .ok { s := s, st := st.begin acc }

/-- The destination core that an AMSG names; a number of no core when its coordinates are out of range (R236). -/
def amsgCore (w : Word) : Nat := if bits w 7 0 < 64 ∧ bits w 15 8 < 32 then bits w 15 8 * 64 + bits w 7 0 else 4096

/-- Whether the destination word of an AMSG is illegal at its scope (R205, R236). -/
def amsgBad (s : State) (cx : Ctx) (scope : Scope) (w : Word) : Bool :=
  (scope != .sys && bits w 31 16 != 0 && bits w 31 16 != s.pkg.id) || (scope == .core && amsgCore w != cx.core)

/-- R236: sends an active message to the porter strand of a core. -/
def execAmsg (dest a b c d : Reg) (scope : Scope) (cn : Option (BitVec 4)) (s : State) : Host.Outcome State Fault Refusal :=
  issue (.amsg dest a b c d scope cn) (fun cx => {
      src := [dest, a, b, c, d], operands := [dest], invalid := fun x => amsgBad s cx scope (x dest) }) s fun v =>
    let w := v.x dest
    let st := v.cx.st
    let pkg := bits w 31 16
    let core := amsgCore w
    if amsgBad v.s v.cx scope w then
      .error (.trap .illegal (headTail (.amsg dest a b c d scope cn)))
    else match countRemote st with
    | none => .error .stall
    | some st' =>
      let m : Message := { handler := bits w 63 32, payload := [v.x a, v.x b, v.x c, v.x d], sender := e2Of v.cx.core,
                           senderPkg := v.s.pkg.id, lid := (envReg v.s v.cx.core st 3).toNat, depth := st.depth,
                           part := partOf v.s v.cx.core, source := some v.cx.core, gen := st.gen, seq := st.nextSeq }
      let target := if scope = .sys ∧ pkg ≠ v.s.pkg.id then some pkg else none
      let acc := { noAccess (.amsg m core (target.getD v.s.pkg.id) (cn.map BitVec.toNat)) with
        addr := w, scope := scope, pkg := target }
      .ok { s := v.s, st := st'.begin acc }

/-- R250: ships a routine to the routine engine of the home of a line; an unloaded one completes at once (R180). -/
def execFship (r0 a op1 op2 res : Reg) (scope : Scope) (ord : Ord) (routine : BitVec 6) (cn : Option (BitVec 4)) (s : State) : Host.Outcome State Fault Refusal :=
  issue (.fship r0 a op1 op2 res scope ord routine cn) (fun _ => { src := [a, op1, op2], dst := [r0, res] }) s fun v =>
    let st := v.cx.st
    let num := fun (r : Reg) => match r with | .x n => n.val | _ => 0
    let line := v.x a - BitVec.ofNat 64 ((v.x a).toNat % 64)
    if 63 ≤ st.cp then .error .stall
    else match accessCells v.s (partyOf v.cx.core st) .ship true false line 64 true with
    | .error (.trap c _) => .error (.trap c (v.x a))
    | .error f => .error f.stop
    | .ok cells =>
      let (s, st, dest) := reserve (touchEnds v.s v.cx.core line 64) { st with cp := st.cp + 1 } res
      let st := { st with owed := if num r0 = 0 then st.owed else st.owed ++ [num r0] }
      let acc := { noAccess (.fship routine.toNat (v.x op1) (v.x op2) (num r0) (cn.map BitVec.toNat)) with
        addr := v.x a, ord := ord, scope := scope, dest := dest, spans := [(line, 64)], reads := cells.zipIdx.map fun c => (c.2, c.1) }
      .ok { s := s, st := st.begin acc }

/-- What a load does with the value of its last part (R222, R224). -/
def deliverLoad (s : State) (core slot : Nat) (st : Strand) (a : Access) : State :=
  let ended := { st.finish a with ld := st.ld - 1 }
  match a.op with
  | .load n sgn =>
    let bytes := (List.range n).map fun i => ((a.got.find? fun b => b.1 == i).map (·.2)).getD 0
    let r := deliver s ended a (extendTo n sgn (ofLe bytes)) a.bad
    r.1.setStrand core slot r.2
  | _ => s.setStrand core slot (deliverV ended a (a.got.foldl (fun w b => setVbyte w b.1 b.2) a.base) a.bad)

/-- R219: a part of a load is performed, the load returns with its last part, or a get returns: the destination is written and the ld count falls (R190, R220, R382). -/
def execLoadReturn (core slot : Nat) (seq : Piece) (s : State) : Host.Outcome State Fault Refusal :=
  onAccess s core slot seq.id (fun op => match op with | .load _ _ | .loadVec _ | .get _ => true | _ => false) fun st a =>
    match a.op with
    | .get _ =>
      if !a.performed then s
      else
        let r := deliver s { st.finish a with ld := st.ld - 1 } a a.value a.bad
        r.1.setStrand core slot r.2
    | _ =>
      let p := a.readPart seq.part
      if !mayPerform s core st p || !a.inOrder p then s
      else
        let b := a.afterRead p (p.reads.map fun r => (r.1, seenByte s st a.seq r.2)) (readsBad s p)
        if b.reads.isEmpty then deliverLoad s core slot st b else s.setStrand core slot (st.update a b)

/-- The rest of a ctrim, once every access through its translation is performed (R354): the shoot-down, ABSENT, the push. -/
def finishTrim (s : State) (core slot : Nat) (st : Strand) (a : Access) (entry tile pool oid key : Nat) : State :=
  let done := { st.finish a with st := st.st - 1 }
  let s := clbDrop (s.setStrand core slot done) (dieOf core) fun e => e.oid == oid && e.key == key
  poolPush (physWrite s entry (leBytes 8 0)) pool tile

/-- R190: a part of a store, an atomic, or the rest of a ctrim is performed, with the watch comparison of R318; the st count falls with the last part. -/
def execStorePerformed (core slot : Nat) (seq : Piece) (s : State) : Host.Outcome State Fault Refusal :=
  onAccess s core slot seq.id (fun op => match op with | .store _ | .trim .. => true | .atomic _ _ p _ _ => p != 2 | _ => false)
    fun st a =>
      let ended := { st.finish a with st := st.st - 1 }
      match a.op with
      | .store _ =>
        let p := a.writePart seq.part
        if !mayPerform s core st p then s
        else
          let b := a.afterWrite p
          storeCells (s.setStrand core slot (if b.writes.isEmpty then ended else st.update a b)) p.writes st.depth
      | .atomic op wide _ b expect =>
        if !mayPerform s core st a then s
        else if readsBad s a then
          let r := deliver s ended a 0 true
          r.1.setStrand core slot r.2
        else
          let r := deliver s ended a (oldValue s a) false
          performAtomic (r.1.setStrand core slot r.2) a op wide b expect st.depth
      | .trim entry tile pool oid key =>
        if !mayPerform s core st a || tileInUse s (dieOf core) tile then s
        else finishTrim s core slot st a entry tile pool oid key
      | _ => s

/-- R203: a get, put, puts or ramo is performed at its home; an amsg reaches its core (R205, R236). At another package the value returned is the outside world's. -/
def execFabricPerformed (core slot seq : Nat) (ext : Word) (s : State) : Host.Outcome State Fault Refusal :=
  onAccess s core slot seq
    (fun op => match op with | .get _ | .put _ | .amsg .. | .ramo .. => true | _ => false) fun st a =>
      if !mayPerform s core st a || (a.pkg.isNone && isShipped a.op) then s
      else if a.pkg.any fun p => !peerReaches s core p then s
      else
        let done := { a with performed := true }
        let keep := fun (s : State) (b : Access) => s.setStrand core slot (st.update a b)
        match a.pkg, a.op with
        | some _, .get n => keep s { done with value := zext (8 * n) ext.toNat }
        | some _, .ramo _ wide _ _ _ => keep s { done with value := zext (if wide then 64 else 32) ext.toNat }
        | some _, _ => keep s done
        | none, .get n => keep s { done with value := zext (8 * n) (oldValue s a).toNat, bad := readsBad s a }
        | none, .put _ => storeCells (keep s done) a.writes st.depth
        | none, .ramo op wide _ b expect =>
          if readsBad s a then keep s { done with bad := true }
          else performAtomic (keep s { done with value := oldValue s a }) a op wide b expect st.depth
        | none, .amsg m c _ _ =>
          if !messageLands s m c then keep s { a with dropped := true }
          else if !messageRoom (s.core c) then s
          else noteMoved (acceptMessage (keep s { a with arrived := true }) c m) c
        | none, _ => s

/-- R203: an acknowledgement or a returned value lowers the remote-acknowledgement count. -/
def execRemoteAck (core slot seq : Nat) (s : State) : Host.Outcome State Fault Refusal :=
  onAccess s core slot seq (fun op => match op with | .put _ | .ramo .. | .amsg .. | .push _ => true | _ => false)
    fun st a =>
      if !a.performed then s
      else
        let ended := { st.finish a with remote := st.remote - 1 }
        match a.op with
        | .ramo .. =>
          let (s, st) := deliver s ended a a.value a.bad
          s.setStrand core slot st
        | .amsg _ _ _ cn => s.setStrand core slot (ended.complete cn)
        | _ => s.setStrand core slot ended

/-- R206: a dropped operation is negatively acknowledged and sets UNDELIVERABLE (R390); a dropped get or ramo returns all ones (R231). What is addressed to another package can be refused there. -/
def execNegativeAck (core slot seq : Nat) (s : State) : Host.Outcome State Fault Refusal :=
  onAccess s core slot seq
    (fun op => match op with | .get _ | .put _ | .ramo .. | .amsg .. | .push _ => true | _ => false) fun st a =>
      let refused := a.pkg.isSome && mayPerform s core st a
      if !(a.dropped || refused) then s
      else
        let ended := noteDrop (st.finish a) (dropKind a.op) (dropCore s a.op)
        match a.op with
        | .get _ =>
          let (s, st) := deliver s { ended with ld := ended.ld - 1 } a (BitVec.allOnes 64) false
          s.setStrand core slot st
        | .ramo .. =>
          let (s, st) := deliver s { ended with remote := ended.remote - 1 } a (BitVec.allOnes 64) false
          s.setStrand core slot st
        | .amsg _ _ _ cn => s.setStrand core slot ({ ended with remote := ended.remote - 1 }.complete cn)
        | _ => s.setStrand core slot { ended with remote := ended.remote - 1 }

/-- R179: the routine engine performs a shipped atomic, ramo or routine on a line (R180, R250); a line with an error is left (R405). The status of an fship is written after its result, so it stays where one register takes both (log 106). -/
def execShippedOperation (core slot seq : Nat) (s : State) : Host.Outcome State Fault Refusal :=
  onAccess s core slot seq
    (fun op => match op with | .atomic _ _ p _ _ => p == 2 | .ramo _ _ p _ _ => p == 2 | .fship .. => true | _ => false)
    fun st a =>
      if !mayPerform s core st a then s
      else match a.op with
      | .atomic op wide _ b expect =>
        let ended := { st.finish a with st := st.st - 1 }
        if readsBad s a then
          let (s, st) := deliver s (noteDrop ended 7 0) a (BitVec.allOnes 64) false
          s.setStrand core slot st
        else
          let (s', st') := deliver s ended a (oldValue s a) false
          performAtomic (s'.setStrand core slot st') a op wide b expect st.depth
      | .ramo op wide _ b expect =>
        let done := { a with performed := true }
        if a.pkg.isSome then s
        else if readsBad s a then
          s.setStrand core slot (noteDrop (st.update a { done with value := BitVec.allOnes 64 }) 4 0)
        else performAtomic (s.setStrand core slot (st.update a { done with value := oldValue s a })) a op wide b expect
          st.depth
      | .fship n op1 op2 r cn =>
        let ended := { st.finish a with cp := st.cp - 1 }
        let finishWith := fun (s : State) (res status : Word) =>
          let (s, st) := deliver s ended a res false
          s.setStrand core slot ((st.deliverX r status).complete cn)
        if !routineLoaded s n then finishWith s 0 (statusWord false 9 0 0)
        else if readsBad s a then finishWith s (Config.freeWord s.free) (statusWord false 4 0 0)
        else
          let cells := a.reads.map (·.2)
          let (line, res) := runRoutine n (s.pkg.routines.get [] n) (readCells s cells) a.addr op1 op2
          storeCells (finishWith s res (statusWord true 0 0 0)) (cells.zip line) st.depth
      | _ => s

end Sys2Proof.Machine
end

