-- ==== Sys2Proof/Machine/Fetch.lean ====
section
/-! DEFINITION. Fetching the head at a strand's program counter (R32 to R37), the order of a core's arbiter (R280), and the firmware answer of a scrivener (R339). -/

namespace Sys2Proof.Machine

/-- What a fetch finds: an instruction and the header of its line, or the state that the strand is left in. -/
inductive Fetched where
  | instr (i : Instr) (header : Half)
  | stop (s : State)

/-- Fetches and decodes the head at the program counter of the strand (R34, R35, R59, R382, R387). -/
def fetch (s : State) (cx : Ctx) : Fetched :=
  let st := cx.st
  let pc := st.pc
  let line := pc - BitVec.ofNat 64 (pc.toNat % 64)
  match codeLine s (partyOf cx.core st) pc with
  | .error (.miss page) => .stop (waitFill s cx page 2)
  | .error .poisoned =>
    if st.resumed && (pc.toNat % 2 == 1 || pc.toNat % 64 == 0) then .stop (trapAt s cx .targetBad 0 pc)
    else .stop (trapAt s cx .memUncorrectable 3 line)
  | .error .bounds => .stop (trapAt s cx (if st.resumed then .targetBad else .objBounds) 0 pc)
  | .error .permission => .stop (trapAt s cx (if st.resumed then .targetBad else .objPermission) 0 pc)
  | .error .absent => .stop (trapAt s cx (if st.resumed then .targetBad else .objAbsent) 0 pc)
  | .ok bytes =>
    let k := pc.toNat % 64 / 2
    if malformed bytes then .stop (trapAt s cx .lineMalformed 0 line)
    else if pc.toNat % 2 = 1 ∨ k = 0 ∨ headCount (halfAt bytes 0) < k then .stop (trapAt s cx .targetBad 0 pc)
    else match decode (halfAt bytes k) (tailOf bytes k) with
      | .ok i => .instr i (halfAt bytes 0)
      | .error _ => .stop (trapAt s cx .illegal 0 (tailOf bytes k ++ halfAt bytes k))

/-- The state in which a fetched instruction runs: the header of its line noted, and the translation of the fetch in the L1 TLB
(R334). -/
def fetched (s : State) (cx : Ctx) (header : Half) : State :=
  touch { s with cursor := { s.cursor with header := header } } cx.core cx.st.pc

/-- The user slots of a core whose strand is at a level (4 is the aged level), in round robin from the level's turn
(R280). -/
def levelOrder (s : State) (core level : Nat) : List Nat :=
  let at_ := (List.range 16).filter fun t => (s.strand core t).any fun x => (if x.aged then 4 else x.level) == level
  let turn := (s.core core).turns.get 0 level
  at_.filter (turn ≤ ·) ++ at_.filter (· < turn)

/-- Slots of a core in the order of R280: supervisor, porter, the aged level, then levels 0 to 3. -/
def arbiterOrder (s : State) (core : Nat) : List Nat :=
  [supervisorSlot, porterSlot] ++ levelOrder s core 4 ++ [0, 1, 2, 3].flatMap (levelOrder s core)

/-- Whether a ready strand has been passed over for 256 clk (R280). -/
def passedOver (s : State) (st : Strand) : Bool := st.since.any fun c => decide (c + 256 ≤ s.clk)

/-- The ready strands of a core that have been passed over for 256 clk move to the aged level (R280). -/
def ageStrands (s : State) (core : Nat) : State :=
  { s with strands := s.strands.map fun e =>
      if e.1 / 256 == core && decide (e.1 % 256 < 16) && passedOver s e.2 then (e.1, { e.2 with aged := true }) else e }

/-! What TLBW checks (R335, R336). -/

/-- The partition of a core as its registers show it (R358). -/
def partitionOf (s : State) (core : Nat) : Option (Nat × Partition) :=
  (partOf s core).bind fun p => (s.parts.find p).map fun q => (p, q)

/-- Whether a physical span lies within region entries that a partition's PARTREG lists (R336). -/
def inPartreg (s : State) (core p n : Nat) : Bool :=
  let reg := (partitionOf s core).map fun q => q.2.partreg
  (List.range ((p % 65536 + n + 65535) / 65536)).all fun i =>
    match regionOf s ((p / 65536 + i) * 65536) with
    | some (e, _) => reg.any fun w => bit w e
    | none => false

/-- Whether the words of TLBW are illegal (R336). -/
def tlbwIllegal (a b : Word) : Bool :=
  let span := 2 ^ (16 + bits a 15 11)
  let kind := bits a 8 7
  let ans := bits a 10 9
  bits a 3 0 != 0 || ans == 3 || decide (16 < bits a 15 11) || decide (bits a 47 16 * 65536 % span ≠ 0)
    || (if ans ≠ 0 then kind != 0 || bits a 6 4 != 0 || b != 0
        else kind == 3 || (bit a 5 && bit a 4)
          || (if kind = 1 then bits a 47 16 != 0 || bits a 15 11 != 0 || bits b 63 48 != 0 || bits b 5 0 != 0
              else decide (bits b 63 32 * 65536 % span ≠ 0) || decide (span ≤ bits b 31 0)))

/-- The entry that the words of TLBW describe (R335). -/
def tlbwEntry (a b : Word) : TlbEntry :=
  let vol := bits a 8 7 == 1
  { oid := bits a 63 48, obase := bits a 47 16 * 65536, sc := bits a 15 11, kind := bits a 8 7, rd := bit a 6,
    wr := bit a 5, ex := bit a 4, pbase := if vol then bits b 47 0 else bits b 63 32 * 65536,
    limit := if vol then 0 else bits b 31 0 }

/-! The scrivener's firmware (R337, R339, R406). -/

/-- Word k of the descriptor of an object id (R331). -/
def descWord (s : State) (p : Partition) (oid k : Nat) : Word :=
  BitVec.ofNat 64 (physRead s (p.otbase + 64 * oid + 8 * k) 8)

/-- The extents of an object in list order (R332): object offset, length, physical base, in bytes. -/
def extentsOf (s : State) (p : Partition) (oid : Nat) : List (Nat × Nat × Nat) :=
  let list := bits (descWord s p oid 2) 47 0
  let count := bits (descWord s p oid 3) 31 0
  (List.range count).map fun i =>
    let a := BitVec.ofNat 64 (physRead s (list + 16 * i) 8)
    let b := BitVec.ofNat 64 (physRead s (list + 16 * i + 8) 8)
    (bits a 31 0 * 65536, bits a 63 32 * 65536, bits b 31 0 * 65536)

/-- The extent of highest index that covers an offset, with its index (R332). -/
def extentFor (xs : List (Nat × Nat × Nat)) (off : Nat) : Option ((Nat × Nat × Nat) × Nat) :=
  (xs.zipIdx.reverse).find? fun p => decide (p.1.1 ≤ off) && decide (off < p.1.1 + p.1.2.1)

/-- Whether a physical span holds a fenced page (R406). -/
def spanFenced (s : State) (phys n : Nat) : Bool :=
  s.pkg.fences.any fun f => decide (phys < f * 65536 + 65536) && decide (f * 65536 < phys + n)

/-- An answer to a miss record: install an entry, or decline with an ans (R336). -/
inductive Answer where
  | install (e : TlbEntry)
  | decline (ans : Nat)
deriving DecidableEq, Repr

/-- answer(page) (R339). Before its steps the firmware declines a page whose extent maps a fenced page, and a volume whose
descriptor lies in one (R406). -/
def answer (s : State) (p : Partition) (page : Nat) : Answer :=
  let oid := page / 2 ^ 32
  let off := page % 2 ^ 32 * 65536
  if p.otcount ≤ oid then .decline 2
  else
    let d0 := descWord s p oid 0
    let kind := bits d0 62 61
    let size := bits d0 47 0
    let desc := bits (descWord s p oid 2) 47 0
    let live := bit d0 63 && kind != 3
    let xs := if live && kind != 1 then extentsOf s p oid else []
    let found := extentFor xs off
    let fenced := match found with
      | some ((xo, _, xp), _) => spanFenced s (xp + (off - xo)) 65536
      | none => live && kind == 1 && spanFenced s desc 64
    if fenced then .decline 1
    else if !live then .decline 2
    else if kind == 1 then .install ⟨oid, 0, 0, 1, bit d0 60, bit d0 59, false, desc, 0⟩
    else if size ≤ off then .decline 2
    else match found with
      | none => .decline 1
      | some ((xo, xn, xp), idx) =>
        let fits := fun sc =>
          let n := 2 ^ (16 + sc)
          let b := off - off % n
          decide (xo ≤ b) && decide (b + n ≤ xo + xn) && decide ((xp + (b - xo)) % n = 0)
            && ((xs.drop (idx + 1)).all fun y => decide (y.1 + y.2.1 ≤ b) || decide (b + n ≤ y.1))
            && !spanFenced s (xp + (b - xo)) n
        let sc := (((List.range 17).filter fits).max?).getD 0
        let n := 2 ^ (16 + sc)
        let b := off - off % n
        .install ⟨oid, b, sc, kind, bit d0 60, bit d0 59, bit d0 58, xp + (b - xo),
          if size < b + n then size - b else 0⟩

/-- Whether the firmware can read the descriptor and the extent list of an object: no line of them has an uncorrectable
error (R405). -/
def tableReadable (s : State) (p : Partition) (oid : Nat) : Bool :=
  let good := fun (a : Nat) => !(cellAt s a).any (isPoisoned s)
  let list := bits (descWord s p oid 2) 47 0
  good (p.otbase + 64 * oid) && (bits (descWord s p oid 0) 62 61 == 1
    || (List.range (bits (descWord s p oid 3) 31 0)).all fun i => good (list + 16 * i))

/-- The cell of an object address as its translation now gives it: the TLBs', else the object table's; none where it has
none. -/
def homeAt (s : State) (core : Nat) (a : Word) : Option Nat :=
  if oidOf a = 0xFFFF then cellAt s (offOf a)
  else
    let entry := match lookup s core a with
      | some e => some e
      | none => (partitionOf s core).bind fun p => match answer s p.2 (pageOf a) with
        | .install e => some e
        | .decline _ => none
    entry.bind fun e => if beyond e a then none else cellAt s (physOf e a)

/-- Whether two spans of one object overlap. -/
def TlbEntry.overlaps (e f : TlbEntry) : Bool :=
  e.oid == f.oid && (e.kind == 1 || f.kind == 1
    || (decide (e.obase < f.obase + 2 ^ (16 + f.sc)) && decide (f.obase < e.obase + 2 ^ (16 + e.sc))))

/-- Whether a page lies in the span of an entry. -/
def TlbEntry.hasPage (e : TlbEntry) (page : Nat) : Bool :=
  e.oid == page / 2 ^ 32 && (e.kind == 1
    || (decide (e.obase ≤ page % 2 ^ 32 * 65536) && decide (page % 2 ^ 32 * 65536 < e.obase + 2 ^ (16 + e.sc))))

/-- Writes an entry into a cluster's second-level TLB, replacing what overlaps it there and in the cluster's L1 TLBs
(R336). -/
def install (s : State) (cluster : Nat) (e : TlbEntry) : State :=
  let cl := s.cluster cluster
  let keep := cl.tlb.filter fun f => !f.overlaps e
  let s := s.setCluster cluster { cl with tlb := makeRoom s 8192 keep ++ [e] }
  { s with
    free := s.free + 1
    cores := s.cores.map fun c =>
      if clusterOf c.1 == cluster then (c.1, { c.2 with tlb := c.2.tlb.filter fun f => !f.overlaps e }) else c }

/-- A strand whose fill of a page has been answered: it translates afresh, or keeps the decline (R336). -/
def Strand.answered (st : Strand) (page : Nat) (decline : Option Nat) : Strand :=
  { st with wait := none, declines := st.declines ++ (decline.map fun a => (page, a)).toList }

/-- Answers the pending records of a cluster whose page a test selects: waiting strands and engines translate afresh, or
are given the decline (R336). -/
def answerMisses (s : State) (cluster : Nat) (sel : Nat → Bool) (decline : Option Nat) : State :=
  let cl := s.cluster cluster
  let hit := fun page => sel page && cl.misses.any (·.page == page)
  let s := s.setCluster cluster { cl with misses := cl.misses.filter fun m => !sel m.page }
  let strands := s.strands.map fun e =>
    if clusterOf (e.1 / 256) != cluster then e
    else match e.2.wait with
      | some (.fill page) => if hit page then (e.1, e.2.answered page decline) else e
      | _ => match e.2.wake with
        | some (.fill page) =>
          if hit page then (e.1, { e.2.answered page decline with wake := some (.clock 0) }) else e
        | _ => e
  let engine := fun (w : Option (Nat × Nat)) => match w with
    | some (page, 0) => if hit page then decline.map fun a => (page, a) else w
    | _ => w
  let cores := s.cores.map fun c =>
    if clusterOf c.1 != cluster then c
    else (c.1, { c.2 with
      porterWait := engine c.2.porterWait
      ops := c.2.ops.map fun o => { o with wait := engine o.wait }
      tile := { c.2.tile with queue := c.2.tile.queue.map (fun o => { o with wait := engine o.wait }),
                              ended := c.2.tile.ended.map fun o => { o with wait := engine o.wait } } })
  { s with strands := strands, cores := cores }

/-- Whether TLBW takes an entry from a scrivener (R336): no span with both wr and ex, none out of alignment, and all of it
within PARTREG. -/
def tlbwTakes (s : State) (cluster : Nat) (e : TlbEntry) : Bool :=
  let vol := e.kind == 1
  let n := if vol then 64 else 2 ^ (16 + e.sc)
  !(e.wr && e.ex) && decide (e.pbase % n = 0) && decide (e.pbase < 2 ^ 48) && inPartreg s (2048 + cluster) e.pbase n

/-- The scrivener of a cluster answers its oldest pending record by firmware (R337, R339), and with it every pending record
in the span (R336). A record stays pending whose table the firmware cannot read, or whose entry TLBW does not take: what
the firmware's own trap then does is not stated (log 81). -/
def scrivenerAnswer (s : State) (cluster : Nat) : State :=
  match (s.cluster cluster).misses.head?, (partOfDie s (cluster / 16)).bind s.parts.find with
  | some m, some p =>
    if decide (m.page / 2 ^ 32 < p.otcount) && !tableReadable s p (m.page / 2 ^ 32) then s
    else match answer s p m.page with
    | .install e => if tlbwTakes s cluster e then answerMisses (install s cluster e) cluster e.hasPage none else s
    | .decline a => answerMisses s cluster (· == m.page) (some a)
  | _, _ => s

end Sys2Proof.Machine
end

