-- ==== Sys2Proof/Machine/Waiting.lean ====
section
/-! DEFINITION. Queue instructions, waits, completion counters, arrival words, barriers, parking, yielding and exit (R293 to R313). -/

namespace Sys2Proof.Machine

/-- What qtry and qpeek report of a head element: xd and xf (R301). -/
def peekResult (e : Option Elem) (popped : Bool) : Word × Word :=
  match e with
  | none => (0, 0)
  | some e =>
    let data := e.data.getD 0
    if e.tag = 0 then (data, put 1 3 ||| putBit popped 4)
    else (zext 32 data.toNat, put 1 3 ||| put e.tag 0)

/-- A pop or report of an element with an uncorrectable error (R407). -/
def badHead (k : Nat) : Stop := .detail .memUncorrectable 1 (putBit true 63 ||| put k 0)

/-- The poppable count or the credits that QLEN writes (R302); a retiring elastic instance sees its own input (R287). -/
def queueLength (s : State) (st : Strand) (k : Nat) : Nat :=
  match portOf st k with
  | none => 0
  | some p => match s.queue p.queue with
    | none => 0
    | some q =>
      if p.out then creditsOf q st.gen
      else if inputPort st == some k && (st.retiring == .eos || st.retiring == .closed || st.retiring == .spent) then
        (if st.retiring == .eos then 1 else 0)
      else poppable q st.queueGen

/-- An acquire load of an arrival word, checked as R308 says: its value now, or why it waits or traps. -/
def arrivalWord (v : Vals) (a : Word) (scope : Scope) : Except Stop Word :=
  let st := v.cx.st
  if a.toNat % 8 ≠ 0 then .error (.trap .misaligned a)
  else match accessCells v.s (partyOf v.cx.core st) .die false false a 8 (code := true) with
  | .error f => .error f.stop
  | .ok cells =>
    let acc := { noAccess (.load 8 false) with
      seq := st.nextSeq, addr := a, ord := .acq, scope := scope, spans := [(a, 8)], reads := cells.zipIdx.map fun c => (c.2, c.1) }
    if !mayPerform v.s v.cx.core st acc then .error .stall
    else if readsBad v.s acc then .error (.detail .memUncorrectable 0 a)
    else .ok (BitVec.ofNat 64 (ofLe (cells.map (seenByte v.s st st.nextSeq))))

/-- The smallest scope that contains the live instances of a stage (R309). -/
def stageScope (s : State) (part lid stage : Nat) : Scope :=
  let cores := ((s.strands.filter fun e => e.2.kind == .inst && e.2.lid == lid && e.2.stage == stage
    && partOf s (e.1 / 256) == some part).map (·.1 / 256)).dedup
  if cores.length ≤ 1 then .core
  else if ((cores.map dieOf).dedup).length ≤ 1 then .die else .pkg

/-- The live instances of a stage, by generation. -/
def stageMembers (s : State) (part lid stage : Nat) : List Nat :=
  (s.strands.filter fun e => e.2.kind == .inst && e.2.lid == lid && e.2.stage == stage
    && partOf s (e.1 / 256) == some part).map (·.2.gen)

/-- A strand's arrival at its stage's barrier (R309): the launch with the arrival counted; none while the strand must
wait for the next round. -/
def arriveBar (s : State) (l : Launch) (st : Strand) : Option Launch :=
  match l.rounds.find? fun r => r.stage == st.stage with
  | some r =>
    if r.members.contains st.gen then
      some { l with rounds := l.rounds.map fun x =>
        if x.stage == st.stage then { x with arrived := (st.gen :: x.arrived).dedup } else x }
    else none
  | none => some { l with rounds := l.rounds ++ [⟨st.stage, stageMembers s l.part l.lid st.stage, [st.gen]⟩] }

/-- Parks the strand after its instruction; when no park area is free it waits in its slot for the same condition, and
does not park later (R283). The supervisor strand has no area and waits (log 23). -/
def parkOr (v : Vals) (w : Wake) : Except Stop Done :=
  if 16 ≤ v.cx.slot ∨ v.cx.st.staying = true then .error .stall
  else match freeArea v.s v.cx.core with
  | some a => .ok { s := v.s, st := v.cx.st, parks := some (a, w) }
  | none => .error (.keep (stall (v.s.setStrand v.cx.core v.cx.slot { v.cx.st with staying := true })))

/-- A park instruction: sync point, condition, parking (R310). -/
def parkUses (src : List Reg) (named : List (Nat × Option Bool)) : Uses :=
  { src := src, named := named, blocking := true, sync := .all }

/-- R300: pushes a token. -/
def execQtok (tag port : BitVec 3) (r0 : Reg) (s : State) : Host.Outcome State Fault Refusal :=
  issue (.qtok tag port r0) (fun _ => { src := [r0], named := [(port.toNat, some true)] }) s fun v =>
    let st := v.cx.st
    if fenced v.s st then .error .stall
    else if !hasRoom v.s st port.toNat 1 then .error (.keep (waitRoom v.s st port.toNat))
    else
      let p := pushPort v.s st port.toNat tag.toNat (some (zext 32 (v.x r0).toNat))
      .ok { s := p.1, st := { p.2 with qfence := false } }

/-- R301: pops a data head without waiting for one; an outstanding acquire holds it back, as it holds every later read (R196,
R213, log 80). -/
def execQtry (d xf q : Reg) (s : State) : Host.Outcome State Fault Refusal :=
  issue (.qtry d xf q) (fun _ => { dst := [d, xf], named := [(portNum q, some false)] }) s fun v =>
    let e := headOf v.s v.cx.st (portNum q)
    if v.cx.st.acquiring then .error .stall
    else if e.any (·.bad) then .error (badHead (portNum q))
    else
      let data := e.any fun e => e.tag == 0
      let r := peekResult e data
      let p := if data then popPort v.s v.cx.st (portNum q) else (v.s, v.cx.st)
      .ok { s := p.1, st := p.2, xs := [(d, r.1), (xf, r.2)] }

/-- R301: reports the head element, after an outstanding acquire (R213, log 80). -/
def execQpeek (d xf q : Reg) (s : State) : Host.Outcome State Fault Refusal :=
  issue (.qpeek d xf q) (fun _ => { dst := [d, xf], named := [(portNum q, some false)] }) s fun v =>
    let e := headOf v.s v.cx.st (portNum q)
    if v.cx.st.acquiring then .error .stall
    else if e.any (·.bad) then .error (badHead (portNum q))
    else
      let r := peekResult e false
      results v [(d, r.1), (xf, r.2)]

/-- R302: the poppable count, after an outstanding acquire (R213, log 80), or the credits held. -/
def execQlen (d q : Reg) (s : State) : Host.Outcome State Fault Refusal :=
  issue (.qlen d q) (fun _ => { dst := [d], named := [(portNum q, none)] }) s fun v =>
    if isConsumer v.cx.st (portNum q) && v.cx.st.acquiring then .error .stall
    else results v [(d, BitVec.ofNat 64 (queueLength v.s v.cx.st (portNum q)))]

/-- R303: later pushes wait until every earlier push is poppable. -/
def execQfence  (s : State) : Host.Outcome State Fault Refusal :=
  issue .qfence (fun _ => {}) s fun v => .ok { s := v.s, st := { v.cx.st with qfence := true } }

/-- R304: sets or clears a port's token target. -/
def execQtvec (q r0 : Reg) (s : State) : Host.Outcome State Fault Refusal :=
  issue (.qtvec q r0) (fun _ => { src := [r0], named := [(portNum q, some false)] }) s fun v =>
    let x := v.x r0
    let code := match launchOf v.s v.cx.core with
      | some l => put l.codeOid 48
      | none => put (oidOf v.cx.st.pc) 48
    let t := if x = 0 then 0 else if oidOf x = 0 then code + x else x
    let st := v.cx.st
    match portOf st (portNum q) with
    | some p => .ok { s := v.s, st := { st with ports := st.ports.insert (portNum q) { p with target := t } } }
    | none => .error .stall

/-- R307: adds to a completion counter. -/
def execCpost (c : BitVec 4) (k : BitVec 22) (s : State) : Host.Outcome State Fault Refusal :=
  issue (.cpost c k) (fun _ => {}) s fun v =>
    let n := v.cx.st.counter c.toNat
    if 4095 < n.pending + k.toNat then
      .error (.trap .counterOverflow (put k.toNat 32 ||| put c.toNat 16 ||| put n.pending 0))
    else .ok { s := v.s, st := v.cx.st.setCounter c.toNat { n with pending := n.pending + k.toNat } }

/-- R307: waits until the pending count is at or below the threshold. -/
def execWaitc (c : BitVec 4) (k : BitVec 22) (s : State) : Host.Outcome State Fault Refusal :=
  issue (.waitc c k) (fun _ => { blocking := true, sync := .counter c.toNat k.toNat }) s fun v =>
    if (v.cx.st.counter c.toNat).pending ≤ k.toNat then results v [] else .error .stall

/-- R307: samples a completion counter, clearing underflow when asked. -/
def execCread (d : Reg) (c : BitVec 4) (clr : Bool) (s : State) : Host.Outcome State Fault Refusal :=
  issue (.cread d c clr) (fun _ => { dst := [d] }) s fun v =>
    let n := v.cx.st.counter c.toNat
    let st := if clr then v.cx.st.setCounter c.toNat { n with under := false } else v.cx.st
    .ok { s := v.s, st := st, xs := [(d, putBit n.under 12 ||| put n.pending 0)] }

/-- R305: waits until every class count is at or below its immediate. -/
def execWait (ld st cp tl : BitVec 6) (s : State) : Host.Outcome State Fault Refusal :=
  issue (.wait ld st cp tl) (fun _ => { blocking := true, sync := .wait tl.toNat cp.toNat }) s fun v =>
    let t := v.cx.st
    if t.ld ≤ ld.toNat ∧ t.st ≤ st.toNat ∧ t.cp ≤ cp.toNat ∧ t.tl ≤ tl.toNat then results v [] else .error .stall

/-- R308: waits until an arrival word reaches a total. -/
def execAwait (a t : Reg) (scope : Scope) (s : State) : Host.Outcome State Fault Refusal :=
  issue (.await a t scope) (fun _ => { src := [a, t], blocking := true }) s fun v =>
    match arrivalWord v (v.x a) scope with
    | .error e => .error e
    | .ok w =>
      if (v.x t).toNat ≤ w.toNat then .ok { s := touchEnds v.s v.cx.core (v.x a) 8, st := v.cx.st } else .error .stall

/-- R309: arrives at the stage barrier, and departs when the round closes; a strand that is no instance is its own round (log 23). -/
def execBar  (s : State) : Host.Outcome State Fault Refusal :=
  issue .bar (fun cx => { illegal := cx.st.kind == .triggered, blocking := true }) s fun v =>
    let st := v.cx.st
    match st.wait with
    | some .depart => results v []
    | some .barrier => .error .stall
    | _ =>
      match launchOf v.s v.cx.core with
      | none => results v []
      | some l =>
        if st.kind ≠ .inst then results v []
        else if !releaseReady v.s v.cx.core st st.nextSeq (stageScope v.s l.part l.lid st.stage) then .error .stall
        else match arriveBar v.s l st with
        | none => .error .stall
        | some l' =>
          let s := (v.s.setLaunch l').setStrand v.cx.core v.cx.slot { st with wait := some .barrier }
          let s := closeRounds s
          match s.strand v.cx.core v.cx.slot with
          | some st' => if st'.wait == some .depart then .ok { s := s, st := st' } else .error (.keep (stall s))
          | none => .error .stall

/-- R310: parks until a completion counter is at or below a threshold. -/
def execParkC (c : BitVec 4) (t : Reg) (s : State) : Host.Outcome State Fault Refusal :=
  issue (.parkC c t) (fun _ => parkUses [t] []) s fun v =>
    if (v.cx.st.counter c.toNat).pending ≤ (v.x t).toNat then results v [] else parkOr v (.counter c.toNat (v.x t))

/-- R310: parks until an arrival word reaches a total. -/
def execParkA (a t : Reg) (scope : Scope) (s : State) : Host.Outcome State Fault Refusal :=
  issue (.parkA a t scope) (fun _ => parkUses [a, t] []) s fun v =>
    match arrivalWord v (v.x a) scope with
    | .error e => .error e
    | .ok w =>
      let v := { v with s := touchEnds v.s v.cx.core (v.x a) 8 }
      if (v.x t).toNat ≤ w.toNat then results v [] else parkOr v (.word (v.x a) (v.x t))

/-- R310: parks until a queue holds an element visible to the strand. -/
def execParkQ (port : BitVec 3) (s : State) : Host.Outcome State Fault Refusal :=
  issue (.parkQ port) (fun _ => parkUses [] [(port.toNat, some false)]) s fun v =>
    if v.cx.st.acquiring then .error .stall
    else if (headOf v.s v.cx.st port.toNat).isSome then results v [] else parkOr v (.queue port.toNat)

/-- R310: parks until e4 reaches a deadline. -/
def execParkT (t : Reg) (s : State) : Host.Outcome State Fault Refusal :=
  issue (.parkT t) (fun _ => parkUses [t] []) s fun v =>
    if (v.x t).toNat ≤ (envReg v.s v.cx.core v.cx.st 4).toNat then results v [] else parkOr v (.clock (v.x t))

/-- R311: steps aside for the other ready strands, which the step takes down as it retires. -/
def execYield  (s : State) : Host.Outcome State Fault Refusal :=
  issue .yield (fun _ => { blocking := true }) s fun v =>
    .ok { s := v.s, st := { v.cx.st with since := none }, waits := some (.yielding none (v.s.clk + 64)) }

/-- R313: waits for what is outstanding, then ends the strand. -/
def execExit  (s : State) : Host.Outcome State Fault Refusal :=
  issue .exit (fun _ => { sync := .all }) s fun v =>
    let st := v.cx.st
    if st.ld = 0 ∧ st.st = 0 ∧ st.cp = 0 ∧ st.tl = 0 ∧ st.remote = 0 then .ok { s := v.s, st := st, ends := true }
    else .error .stall

/-- R312: sets the strand's issue level; not for the porter and the supervisor strand. -/
def execSprio (n : BitVec 6) (s : State) : Host.Outcome State Fault Refusal :=
  issue (.sprio n) (fun cx => { illegal := cx.st.kind == .porter || cx.st.kind == .supervisor }) s fun v =>
    .ok { s := v.s, st := { v.cx.st with level := n.toNat, since := none, aged := false } }

/-- R311: a yielding strand is ready again after 64 clk, or once the others have issued or are no longer ready. -/
def execYieldExpiry (core slot : Nat) (s : State) : Host.Outcome State Fault Refusal :=
  match s.strand core slot with
  | some st => match st.wait with
    | some (.yielding others till) =>
      if till ≤ s.clk ∨ others == some [] then .next (s.setStrand core slot { st with wait := none }) else .next s
    | _ => .next s
  | none => .next s

/-- R280: a ready strand passed over for 256 clk moves to the aged level; the arbiter does the same before it chooses. -/
def execAgedLevel (core slot : Nat) (s : State) : Host.Outcome State Fault Refusal :=
  match s.strand core slot with
  | some st =>
    if slot < 16 ∧ passedOver s st then .next (s.setStrand core slot { st with aged := true }) else .next s
  | none => .next s

/-- The owner of a push: the strand of a generation, which pushes of a generation 0 do not have (R385). -/
def ownerOf (s : State) (gen : Nat) : Option (Nat × Strand) :=
  s.strands.find? fun x => x.2.gen == gen && x.2.kind != .supervisor

/-- The next elements of a producer to become poppable: its oldest on the way, with those that become visible with it
(R129). -/
def nextBatch (q : Queue) (gen : Nat) : List Elem :=
  match q.transit.filter fun e => e.gen == gen with
  | e :: es => e :: es.take e.batch
  | [] => []

/-- Whether elements may become poppable now: their data are there, the releases that they are have no wait left (R212), and
no earlier row of their drain has a push on its way (R148). -/
def batchReady (s : State) (q : Queue) (es : List Elem) : Bool :=
  (es.all fun e => e.data.isSome)
    && (es.all fun e => match ownerOf s e.gen with
      | some (key, st) => pushReady s (key / 256) st e.seq q.kind
      | none => true)
    && es.all fun e => e.drain.isNone || (q.transit.find? fun f => f.drain == e.drain).any fun f => f.gen == e.gen

/-- Elements leave the network and are dropped: the queue's generation has ended, or an earlier push of their producer was
dropped (R206, R390). -/
def dropBatch (s : State) (qn : Nat) (q : Queue) (gen : Nat) (es : List Elem) : State :=
  let left := es.foldl (fun t e => t.erase e) q.transit
  let s := s.setQueue qn { q with transit := left, cut := (gen :: q.cut).dedup, returning := q.returning + es.length }
  es.foldl (fun s e => match ownerOf s gen with
    | none => s
    | some (key, st) => match st.find e.seq fun op => op == .push qn with
      | some a => s.setStrand (key / 256) (key % 256) (st.update a { a with dropped := true })
      | none => s.setStrand (key / 256) (key % 256) (noteDrop st 6 (dropCore s (.push qn)))) s

/-- R213: the next element of a producer arrives and becomes poppable, those of one VNZX together (R129); it is dropped when the generation of the queue has ended or an earlier one was dropped (R206). -/
def execElementPoppable (queue gen : Nat) (s : State) : Host.Outcome State Fault Refusal :=
  match s.queue queue with
  | none => .next s
  | some q =>
    let es := nextBatch q gen
    if es.isEmpty || !batchReady s q es then .next s
    else if q.ended || q.cut.contains gen then .next (dropBatch s queue q gen es)
    else
      let left := es.foldl (fun t e => t.erase e) q.transit
      let s := notePushes (s.setQueue queue (es.foldl arrive { q with transit := left })) queue
      match partOfDie s q.die with
      | some p => .next (noteLaunchMoved s p q.lid)
      | none => .next s

/-- R295: a credit comes back to a producer, one that still waits if there is any. -/
def execCreditReturn (queue : Nat) (s : State) : Host.Outcome State Fault Refusal :=
  match s.queue queue with
  | some q => .next (s.setQueue queue (returnCredit { q with waiters := q.waiters.filter (stillWaits s) }))
  | none => .next s

end Sys2Proof.Machine
end

