-- ==== Sys2Proof/Machine/Commands.lean ====
section
/-! DEFINITION. Engine commands and their steps: copies, sends and inbound channels, reference streams, storage (R207 to R211, R238 to R249). -/

namespace Sys2Proof.Machine

/-- A command that completes at once: its status word and counter (R238); it, too, would count in cp (R219). -/
def doneAtOnce (v : Vals) (r0 : Reg) (cn : Option (BitVec 4)) (ok : Bool) (cause : Nat) : Except Stop Done :=
  if 63 ≤ v.cx.st.cp then .error .stall
  else .ok { s := v.s, st := v.cx.st.complete (cn.map BitVec.toNat), xs := [(r0, statusWord ok cause 0 0)] }

/-- The number of an x register. -/
def xNum : Reg → Nat
  | .x n => n.val
  | _ => 0

/-- An engine operation of the strand that issues it, to be filled in. -/
def newOp (v : Vals) (kind : EngineKind) (r0 : Reg) (cn : Option (BitVec 4)) (scope : Scope) : EngineOp :=
  let st := v.cx.st
  { id := (v.s.core v.cx.core).nextOp, kind := kind, slot := v.cx.slot, gen := st.gen, lid := st.lid, seq := st.nextSeq,
    reg := xNum r0, cn := cn.map BitVec.toNat, scope := scope, depth := st.depth, spadBase := st.spadBase,
    spadSize := st.spadSize, rank := st.rank }

/-- A range over memory for the range-lock table (R207). -/
def memRange (o : EngineOp) (engine : Nat) (written : Bool) (a : Word) (n : Nat) : RangeLock :=
  { index := 0, op := o.id, written := written, spad := false, chan := none, slot := o.slot, engine := engine,
    first := a.toNat, span := n - 1 }

/-- A range over scratchpad for the range-lock table (R207). -/
def spadRange (o : EngineOp) (engine : Nat) (written : Bool) (off n : Nat) : RangeLock :=
  { index := 0, op := o.id, written := written, spad := true, chan := none, slot := o.slot, engine := engine,
    first := off % o.spadSize, span := Nat.min n o.spadSize - 1, base := o.spadBase, size := o.spadSize }

/-- Accepts an engine operation: range locks, cp, the status register (R207, R219, R238). -/
def accept (v : Vals) (o : EngineOp) (locks : List RangeLock) : Except Stop Done :=
  let st := v.cx.st
  if 63 ≤ st.cp then .error .stall
  else match takeLocks (v.s.core v.cx.core) locks with
  | none => .error .stall
  | some c =>
    let c := { c with ops := c.ops ++ [o], nextOp := c.nextOp + 1 }
    .ok { s := v.s.setCore v.cx.core c
          st := { st with cp := st.cp + 1, nextSeq := st.nextSeq + 1
                          owed := if o.reg = 0 then st.owed else st.owed ++ [o.reg] } }

/-- Whether some byte of a memory range is homed on the core's die (R241, R249). -/
def onDie (s : State) (core : Nat) (a : Word) (n : Nat) : Bool :=
  (List.range (n / 256 + 2)).any fun i =>
    (homeAt s core (after a (Nat.min (256 * i) (n - 1)))).any fun k => memberOf k == dieOf core

/-- A list of range checks in operand order (R238). -/
def failedRange (v : Vals) : List (Bool × Word × Nat) → Option Fail
  | [] => none
  | (write, a, n) :: rest => match rangeCheck v.s (partyOf v.cx.core v.cx.st) write a n with
    | .error f => some f
    | .ok () => failedRange v rest

/-- The ranges of a command are checked (R238), and their translations are in the L1 TLB (R334). -/
def checkRanges (v : Vals) (rs : List (Bool × Word × Nat)) : Except Stop Vals :=
  match failedRange v rs with
  | some f => .error f.stop
  | none => .ok { v with s := rs.foldl (fun s r => touchEnds s v.cx.core r.2.1 r.2.2) v.s }

/-- The slot that a place shows in wpN: a parked strand has none (log 25). -/
def shownSlot (s : State) (place : Nat) : Nat := if place < 16 then place else Config.victim s.free % 16

/-- The live instance of a stage and rank of a launch: core, place and strand (R242). -/
def instanceAt (s : State) (part lid stage rank : Nat) : Option (Nat × Nat × Strand) :=
  s.live.find? fun e => e.2.2.kind == .inst && e.2.2.lid == lid && e.2.2.stage == stage && e.2.2.rank == rank
    && partOf s e.1 == some part

/-- The bytes of one destination of a slab among the first n of a transfer (R243). -/
def dealt (d nd bsize n : Nat) : Nat :=
  ((List.range (ceilDiv n bsize)).filter fun b => b % nd == d).foldl (fun acc b => acc + Nat.min bsize (n - b * bsize)) 0

/-- The destinations of a send: those with a live instance, and whether a rank had none (R242, R243). -/
def sendDests (s : State) (part lid stage chan rank0 nd bsize off len : Nat) : List SendDest × Bool :=
  let all := (List.range nd).filterMap fun d =>
    let total := dealt d nd bsize len
    match instanceAt s part lid stage (rank0 + d) with
    | some (c, place, st) => some (some ({
        core := c, slot := shownSlot s place, gen := st.gen, chan := chan, off := off, total := total, d := d, nd := nd,
        bsize := bsize, ended := total == 0 } : SendDest))
    | none => some none
  (all.filterMap id, all.any (·.isNone))

/-- The strand of an operation. -/
def opStrand (s : State) (core : Nat) (o : EngineOp) : Option Strand := (s.byGen core o.gen).map (·.2)

/-- The party of an operation, with the decline it has been given (R336). -/
def partyOp (core : Nat) (o : EngineOp) : Party := { core := core, sup := o.slot == supervisorSlot, declined := o.wait.toList }

/-- Replaces an operation of a core. -/
def setOp (s : State) (core : Nat) (o : EngineOp) : State :=
  let c := s.core core
  s.setCore core { c with ops := c.ops.map fun p => if p.id == o.id then o else p }

/-- The operation of a core with a number. -/
def findOp (s : State) (core id : Nat) : Option EngineOp := (s.core core).ops.find? fun o => o.id == id

/-- The byte of a storage block (R183, log 13). -/
def diskByte (s : State) (port nsid blk i : Nat) : Byte :=
  match s.pkg.disk.find? fun e => e.1 == port && e.2.1 == nsid && e.2.2.1 == blk with
  | some e => e.2.2.2.getD i 0
  | none => Config.diskByte port nsid blk i

/-- Writes a storage block (R184). -/
def diskWrite (s : State) (port nsid blk : Nat) (bs : List Byte) : State :=
  { s with pkg := { s.pkg with disk :=
      (s.pkg.disk.filter fun e => !(e.1 == port && e.2.1 == nsid && e.2.2.1 == blk)) ++ [(port, nsid, blk, bs)] } }

/-- The namespace of a port (R182). -/
def namespaceAt (s : State) (port nsid : Nat) : Option Namespace :=
  s.pkg.namespaces.find? fun n => n.port == port && n.nsid == nsid

/-- What the next sector of an operation finds: the bytes that are no memory of the package, the source cells, and the cells
of its destination or arrival word; a miss, a wait, a fault with its address and cause, or an uncorrectable error (R239,
R240). -/
inductive Sector where
  | data (bytes : List Byte) (src : List Nat) (cells : List Nat)
  | miss (page need : Nat)
  | wait
  | fault (addr : Word) (cause : Nat)
  | error (addr : Word)

/-- Maps a failed check of a sector. -/
def Sector.ofFail (addr : Word) : Fail → Sector
  | .miss p n => .miss p n
  | .trap c _ => .fault addr c.code
  | .wait => .wait

/-- First byte of the next sector of an operation, and its length. -/
def sectorAt (o : EngineOp) : Nat × Nat := (4096 * o.sector, Nat.min 4096 (o.len - 4096 * o.sector))

/-- The source of the next sector: what comes from no memory of the package, or its cells. -/
def sectorSource (s : State) (core : Nat) (o : EngineOp) : Sector :=
  let (lo, n) := sectorAt o
  let a := after o.src lo
  match o.kind with
  | .sread =>
    let bb := ((namespaceAt s o.port o.nsid).map (·.blockBytes)).getD 512
    .data ((List.range n).map fun i => diskByte s o.port o.nsid (o.lba + (lo + i) / bb) ((lo + i) % bb)) [] []
  | _ =>
    if o.fromSpad then
      match spadBad (s.core core) o.spadBase o.spadSize 0 a.toNat n with
      | some _ => .error a
      | none => .data [] [] []
    else match accessCells s (partyOp core o) (if o.kind == .swrite then .any else .die) false false a n with
      | .error f => Sector.ofFail a f
      | .ok cells => if cells.any (isPoisoned s) then .error a else .data [] cells []

/-- The cells of an arrival word, translated as the operation reaches a sector (R239, R245, log 33). -/
def arrivalCells (s : State) (core : Nat) (o : EngineOp) : Sector :=
  if o.arr = 0 then .data [] [] []
  else match accessCells s (partyOp core o) .any true false o.arr 8 with
    | .error f => Sector.ofFail o.arr f
    | .ok cells => .data [] [] cells

/-- The next sector with its destination: the source is reported first when both sides fail (R239). -/
def sectorState (s : State) (core : Nat) (o : EngineOp) : Sector :=
  let (lo, n) := sectorAt o
  match sectorSource s core o with
  | .data bytes src _ =>
    if o.writesMemory then
      let a := after o.dst lo
      match accessCells s (partyOp core o) .any true false a n with
      | .error f => Sector.ofFail a f
      | .ok cells =>
        if memLocked (s.core core) a n (some o.id) then .fault a Cause.rangeLocked.code else .data bytes src cells
    else if o.kind == .send then match arrivalCells s core o with
      | .data _ _ cells => .data bytes src cells
      | r => r
    else .data bytes src []
  | r => r

/-- Whether an operation may work on: not stopped, no translation awaited, the core not pre-empted or the sector already
begun (R395), and every earlier acquire of its strand performed (R196). -/
def opMayWork (s : State) (core : Nat) (o : EngineOp) : Bool :=
  o.stop.isNone && !(o.wait.any fun w => w.2 == 0)
    && (!(s.core core).preempted || !(o.unread.isEmpty && o.flight.isEmpty && o.fetches.isEmpty))
    && (opStrand s core o).all fun st => st.pend.all fun a => decide (o.seq ≤ a.seq) || !a.acquires

/-- Whether the accesses and operations of its strand before an operation let it read a range (R191, R207): writes to the
range are performed, a SEND's writes among them, and reads of it but for those of a stream; before a swrite every store
(R184). -/
def opMayRead (s : State) (core : Nat) (o : EngineOp) (a : Word) (n : Nat) : Bool :=
  (opStrand s core o).all fun st =>
    (st.pend.all fun b => decide (o.seq ≤ b.seq) || b.performed || !(b.op.writes || (b.op.reads && o.kind != .refs))
      || !((b.op.writes && o.kind == .swrite) || b.meets fun c m => !o.fromSpad && rangesMeet c m a n))
    && (earlierOps s core o.gen o.seq).all fun p =>
      if o.fromSpad then !p.spadLeft s core o.gen o.spadSize a.toNat n
      else !(p.destLeft a n || p.arrLeft a n || (p.sourceLeft a n && o.kind != .refs))

/-- Whether the accesses and operations of its strand before an operation let it write a range (R191, R194): every read is
performed, and every write to the range, and the waits of every release are met. -/
def opMayWrite (s : State) (core : Nat) (o : EngineOp) (a : Word) (n : Nat) : Bool :=
  (opStrand s core o).all fun st =>
    (st.pend.all fun b => decide (o.seq ≤ b.seq) || b.performed
      || !(b.op.writes && b.meets fun c m => rangesMeet c m a n))
    && ((earlierOps s core o.gen o.seq).all fun p => !(p.destLeft a n || p.arrLeft a n))
    && writeLet s core st o.seq

/-- Whether every sector of an operation is done. -/
def sectorsDone (o : EngineOp) : Bool := decide (o.len ≤ 4096 * o.sector) && o.unread.isEmpty && o.flight.isEmpty

/-- An engine's miss joins a record (R334, R337). -/
def opMiss (s : State) (core : Nat) (o : EngineOp) (page need : Nat) : State :=
  match joinMiss s core page need with
  | some s' => setOp s' core { o with wait := some (page, 0) }
  | none => s

/-- The beats of a run of bytes (R211). -/
def beatsOf (bs : List Byte) (arr : List Nat) : List Beat :=
  (List.range (ceilDiv bs.length 64)).map fun i => { bytes := (bs.drop (64 * i)).take 64, arr := arr }

/-- Whether two transfers are the same one (R244). -/
def sameTransfer (t u : Transfer) : Bool := t.srcCore == u.srcCore && t.op == u.op && t.dest == u.dest

/-- Beats that arrive at a channel join their transfer, or open it (R244). -/
def joinTransfer (c : Core) (chan : Nat) (t : Transfer) : Core :=
  let h := c.channels.get {} chan
  let add := fun (u : Transfer) => if sameTransfer t u then { u with beats := u.beats ++ t.beats } else u
  let h' :=
    if h.current.any (sameTransfer t) || h.waiting.any (sameTransfer t) then
      { h with current := h.current.map add, waiting := h.waiting.map add }
    else { h with waiting := h.waiting ++ [t] }
  { c with channels := c.channels.insert chan h' }

/-- The issuer of an operation, as its writes are ordered. -/
def issuerOf (o : EngineOp) : Issuer := { gen := o.gen, seq := o.seq, porter := o.slot == porterSlot }

/-- Beats of a send arrive at a destination core: at their channel, or in its spill buffer (R244, R396). -/
def putBeats (s : State) (core : Nat) (o : EngineOp) (d : SendDest) (beats : List Beat) : State :=
  let c := s.core d.core
  let t : Transfer := {
    srcCore := core, op := o.id, issuer := issuerOf o, gen := d.gen, slot := d.slot, off := d.off, total := d.total, swz := o.swz, arr := o.arr
    scope := o.scope, depth := o.depth, beats := beats, dest := d.d }
  s.setCore d.core (if spills c then { c with spill := c.spill ++ [.beats d.chan t] } else joinTransfer c d.chan t)

/-- The bytes of a sector that go to a destination, in order (R243). -/
def shareOf (d : SendDest) (lo : Nat) (bytes : List Byte) : List Byte :=
  (bytes.zipIdx.filter fun b => (lo + b.2) / d.bsize % d.nd == d.d).map (·.1)

/-- Whether the destination cores of a sector can take its beats, those of all its destinations on a core together
(R396). -/
def beatRoom (s : State) (o : EngineOp) (lo : Nat) (bytes : List Byte) : Bool :=
  o.dests.all fun d => d.ended || !spills (s.core d.core)
    || decide (spillUsed (s.core d.core)
      + ((o.dests.filter fun e => e.core == d.core && !e.ended).map fun e => (shareOf e lo bytes).length).foldl (· + ·) 0 ≤ 65536)

/-- Notes how a destination of a send ended, at its sender (R238, R244); the lowest cause stands. -/
def endDest (s : State) (t : Transfer) (cause : Nat) : State :=
  match findOp s t.srcCore t.op with
  | some o => setOp s t.srcCore
      { o with cause := lowerCause o.cause cause
               dests := o.dests.map fun d => if d.d == t.dest then { d with ended := true } else d }
  | none => s

/-- The range-lock number of an inbound channel. -/
def chanLock (chan : Nat) : Nat := 2 ^ 40 + chan

/-- Beats of a transfer are dropped: their adds will not be made (R244). -/
def dropBeats (s : State) (t : Transfer) : State :=
  match findOp s t.srcCore t.op with
  | some o => setOp s t.srcCore { o with adds := o.adds - (t.beats.filter fun b => !b.arr.isEmpty).length }
  | none => s

/-- Ends the current transfer of a channel and releases its entry (R209, R244); beats that are left are dropped. -/
def endTransfer (s : State) (core chan : Nat) (t : Transfer) (cause : Nat) : State :=
  let c := s.core core
  let h := c.channels.get {} chan
  let s := s.setCore core { releaseLocks c (chanLock chan) with
    channels := c.channels.insert chan { h with busy := false, current := none } }
  endDest (dropBeats s t) t cause

/-- Whether a data element of a queue was pushed by an operation. -/
def pushedBy (o : EngineOp) (e : Elem) : Bool := e.tag == 0 && e.engine && e.gen == o.gen && e.seq == o.seq

/-- Rows of a stream whose offsets have not been popped (R247). -/
def rowsOut (s : State) (o : EngineOp) : Nat :=
  match s.queue o.qout with
  | some q => (q.ring.filter (pushedBy o)).length + (q.transit.filter (pushedBy o)).length
      + (q.held.filter (pushedBy o)).length
  | none => 0

/-- The object address that an index names (R247). -/
def referenceAt (o : EngineOp) (idx : Word) : Word := o.src + idx * BitVec.ofNat 64 o.size

/-- What an index finds: the cells that it names (R247, R248). -/
def reference (s : State) (core : Nat) (o : EngineOp) (idx : Word) : Sector :=
  match accessCells s (partyOp core o) .die false false (referenceAt o idx) o.size with
  | .error f => Sector.ofFail (idx <<< 8) f
  | .ok cells => .data [] cells []

/-- The head of a stream's index queue, as its strand sees it (R247, R287). -/
def streamHead (s : State) (core : Nat) (o : EngineOp) : Option Elem := headForGen s core o.gen o.portIn o.qin

/-- The indices at the head of a stream's queue, those before a token (R247). -/
def streamIndices (s : State) (core : Nat) (o : EngineOp) : List Elem :=
  match streamHead s core o, s.queue o.qin with
  | some e, some q =>
    let gen := (opStrand s core o).elim o.gen (·.queueGen)
    if e.tag == 0 then (q.ring.filter fun e => e.tag == 0 || e.left.contains gen).takeWhile (·.tag == 0) else []
  | _, _ => []

/-- The references in flight, so long as their indices still stand at the head of the queue. -/
def inFlight (s : State) (core : Nat) (o : EngineOp) : List Fetch :=
  if (o.fetches.map fun f => some f.idx).isPrefixOf ((streamIndices s core o).map (·.data)) then o.fetches else []

/-- The offset of the ring slot that the next row goes to (R247). -/
def ringAt (o : EngineOp) : Nat := (o.ring + o.placed % o.slots * o.size) % o.spadSize

/-- Whether the ring has no slot for the next row: the offset of the row before the one that its slot holds has not been
popped (R247). -/
def ringFull (s : State) (o : EngineOp) : Bool := o.row && decide (o.slots - 2 < rowsOut s o)

/-- Whether the next row would go into a range that another operation of the core holds registered as read (R248). -/
def ringLocked (s : State) (core : Nat) (o : EngineOp) : Bool :=
  o.row && spadLocked (s.core core) o.spadBase o.spadSize (ringAt o) o.size (some o.id)

/-- An engine's push (R214, R295). -/
def enginePush (s : State) (o : EngineOp) (tag : Nat) (data : Word) : State :=
  sendElem s o.qout { tag := tag, data := some data, gen := o.gen, rank := o.rank, seq := o.seq, engine := true }

/-- The part of a fetch or sector that a choice selects among those still to be read. -/
def pick {α : Type} (l : List α) (k : Nat) : Option α := l[k % Nat.max l.length 1]?

/-- The offsets at which the parts of a fetch begin: one for each 64-byte line (R220, R247). -/
def linesOf (cells : List Nat) : List Nat :=
  (cells.zipIdx.filter fun c => c.2 == 0 || c.1 % 64 == 0).map (·.2)

/-- The bytes read so far at some offsets, in the order of these. -/
def gather (flight : List (Nat × List Byte)) (offs : List Nat) : List Byte :=
  offs.flatMap fun i => ((flight.find? fun f => f.1 == i).map (·.2)).getD []

/-- The offsets of the beats of a sector of n bytes from offset lo (R211). -/
def beatsAt (lo n : Nat) : List Nat := (List.range (ceilDiv n 64)).map fun i => lo + 64 * i

/-- Runs a change on an operation that a test selects; else the event is not enabled (log 6). -/
def onOp (s : State) (core id : Nat) (p : EngineOp → Bool) (f : EngineOp → State) : Host.Outcome State Fault Refusal :=
  match findOp s core id with
  | some o => if p o then .next (f o) else .next s
  | none => .next s

/-- The word of a stopped operation (R151, R239). -/
def stopWord (addr : Word) (cause : Nat) : Word := (addr >>> 8) <<< 8 ||| put cause 0

/-- R241: starts an engine copy. -/
def execCopy (r0 src dst len pkg : Reg) (scope : Scope) (spad : Bool) (cn : Option (BitVec 4)) (s : State) : Host.Outcome State Fault Refusal :=
  issue (.copy r0 src dst len pkg scope spad cn) (fun _ => { src := [src, dst, len, pkg], dst := [r0] }) s fun v =>
    let n := (v.x len).toNat
    let p := packageOf v pkg
    if n = 0 then doneAtOnce v r0 cn true 0
    else if 2 ^ 32 ≤ n then doneAtOnce v r0 cn false 1
    else
      let a := v.x src
      let b := v.x dst
      match checkRanges v ((if spad then [] else [(false, a, n)]) ++ (if p.isSome then [] else [(true, b, n)])) with
      | .error e => .error e
      | .ok v =>
        if !spad && p.isNone && rangesMeet a n b n then doneAtOnce v r0 cn false 1
        else
          let o := { newOp v .copy r0 cn scope with src := a, fromSpad := spad, dst := b, len := n, pkg := p }
          let ls := [if spad then spadRange o 2 false a.toNat n else memRange o 2 false a n]
            ++ if p.isNone && onDie v.s v.cx.core b n then [memRange o 2 true b n] else []
          accept v o ls

/-- R242, R243: starts a send into the scratchpads of instances of the launch. -/
def execSend (r0 src len dest arr : Reg) (scope : Scope) (spad slab : Bool) (swz : BitVec 2) (cn : Option (BitVec 4)) (s : State) : Host.Outcome State Fault Refusal :=
  issue (.send r0 src len dest arr scope spad slab swz cn) (fun _ => { src := [src, len, dest, arr], dst := [r0] }) s
    fun v =>
      let n := (v.x len).toNat
      if n = 0 then doneAtOnce v r0 cn true 0
      else if 2 ^ 32 ≤ n then doneAtOnce v r0 cn false 1
      else
        let a := v.x src
        let w := v.x arr
        let st := v.cx.st
        let c := v.s.core v.cx.core
        let named := arr ≠ Reg.zero
        if named ∧ w.toNat % 8 ≠ 0 then .error (.trap .misaligned w)
        else match checkRanges v ((if spad then [] else [(false, a, n)]) ++ (if named then [(true, w, 8)] else [])) with
        | .error e => .error e
        | .ok v =>
            match if slab then spadBad c st.spadBase st.spadSize 0 (v.x dest).toNat 32 else none with
            | some o => .error (.detail .memUncorrectable 1 (BitVec.ofNat 64 o))
            | none =>
              let word := fun k => BitVec.ofNat 64 (ofLe (spadRead c st.spadBase st.spadSize 0 ((v.x dest).toNat + 8 * k) 8))
              let w0 := if slab then word 0 else v.x dest
              let w1 := word 1
              let w2 := word 2
              let bad := if slab then
                  bits w0 63 51 ≠ 0 ∨ bits w0 15 8 ≠ 0 ∨ bits w1 63 32 ≠ 0 ∨ bits w2 63 19 ≠ 0 ∨ word 3 ≠ 0 ∨ bits w0 47 32 = 0
                    ∨ bits w1 31 0 % 64 ≠ 0 ∨ bits w1 31 0 < 64 ∨ 1048576 < bits w1 31 0
                else bits w0 63 56 ≠ 0 ∨ bits w0 28 19 ≠ 0
              let l := launchOf v.s v.cx.core
              let part := (partOf v.s v.cx.core).getD 0
              let lid := (l.map (·.lid)).getD 0
              let r := if slab then
                  sendDests v.s part lid (bits w0 7 0) (bits w0 50 48) (bits w0 31 16) (bits w0 47 32) (bits w1 31 0)
                    (bits w2 18 0) n
                else sendDests v.s part lid (bits w0 55 48) (bits w0 31 29) (bits w0 47 32) 1 n (bits w0 18 0) n
              if bad then doneAtOnce v r0 cn false 1
              else if l.isNone ∨ r.1.isEmpty then doneAtOnce v r0 cn false 2
              else
                let o := { newOp v .send r0 cn scope with
                  src := a, fromSpad := spad, len := n, arr := if named then w else 0, swz := swz.toNat, dests := r.1
                  cause := if r.2 then 2 else 0 }
                accept v o [if spad then spadRange o 2 false a.toNat n else memRange o 2 false a n]

/-- R246: starts a reference stream on a free reference engine. -/
def execRefs (r0 base qin qout ring : Reg) (row : Bool) (par : BitVec 12) (cn : Option (BitVec 4)) (s : State) : Host.Outcome State Fault Refusal :=
  issue (.refs r0 base qin qout ring row par cn)
    (fun _ => { src := if row then [base, ring] else [base], dst := [r0],
                named := [(portNum qin, some false), (portNum qout, some true)] }) s fun v =>
    let c := v.s.core v.cx.core
    let st := v.cx.st
    let w := v.x ring
    let size := if row then 8 * (par.toNat % 512 + 1) else 2 ^ (par.toNat % 4)
    let rsize := 2 ^ bits w 36 32
    let badRing := row ∧ (bits w 63 37 ≠ 0 ∨ bits w 31 19 ≠ 0 ∨ bits w 36 32 < 12 ∨ 19 < bits w 36 32
      ∨ st.spadSize < rsize ∨ rsize / size < 2)
    let engines := if isDense v.cx.core then 1 else 2
    if engines ≤ (c.ops.filter fun o => o.kind == .refs).length then .error .stall
    else if badRing then doneAtOnce v r0 cn false 1
    else match portOf st (portNum qin), portOf st (portNum qout) with
    | some p, some q =>
      let o := { newOp v .refs r0 cn .core with
        src := v.x base, size := size, signed := !row && par.getLsbD 2, row := row, qin := p.queue, qout := q.queue, portIn := portNum qin
        ring := bits w 18 0, slots := if row then rsize / size else 1 }
      accept v o (if row then [spadRange o 3 true (bits w 18 0) rsize] else [])
    | _, _ => .error .stall

/-- R249: starts reading storage blocks into memory. -/
def execSread (r0 ns lba count mem : Reg) (cn : Option (BitVec 4)) (s : State) : Host.Outcome State Fault Refusal :=
  issue (.sread r0 ns lba count mem cn) (fun _ => { src := [ns, lba, count, mem], dst := [r0] }) s fun v =>
    let h := v.x ns
    let cnt := (v.x count).toNat
    let port := bits h 34 32
    let part := (partOf v.s v.cx.core).bind v.s.parts.find
    if cnt = 0 then doneAtOnce v r0 cn true 0
    else if bits h 63 35 ≠ 0 ∨ 65536 < cnt then doneAtOnce v r0 cn false 1
    else match namespaceAt v.s port (bits h 31 0), v.s.pkg.rootPorts.contains port && part.any fun p => p.ports.testBit port with
    | some nsp, true =>
      let n := cnt * nsp.blockBytes
      let a := v.x mem
      match checkRanges v [(true, a, n)] with
      | .error e => .error e
      | .ok v =>
        if nsp.blocks < (v.x lba).toNat + cnt then doneAtOnce v r0 cn false 6
        else
          let o := { newOp v .sread r0 cn .core with
            dst := a, len := n, port := port, nsid := bits h 31 0, lba := (v.x lba).toNat, count := cnt }
          accept v o (if onDie v.s v.cx.core a n then [memRange o 4 true a n] else [])
    | _, _ => doneAtOnce v r0 cn false 7

/-- R249: starts writing memory to storage blocks. -/
def execSwrite (r0 ns lba count mem : Reg) (cn : Option (BitVec 4)) (s : State) : Host.Outcome State Fault Refusal :=
  issue (.swrite r0 ns lba count mem cn) (fun _ => { src := [ns, lba, count, mem], dst := [r0] }) s fun v =>
    let h := v.x ns
    let cnt := (v.x count).toNat
    let port := bits h 34 32
    let part := (partOf v.s v.cx.core).bind v.s.parts.find
    if cnt = 0 then doneAtOnce v r0 cn true 0
    else if bits h 63 35 ≠ 0 ∨ 65536 < cnt then doneAtOnce v r0 cn false 1
    else match namespaceAt v.s port (bits h 31 0), v.s.pkg.rootPorts.contains port && part.any fun p => p.ports.testBit port with
    | some nsp, true =>
      let n := cnt * nsp.blockBytes
      let a := v.x mem
      match checkRanges v [(false, a, n)] with
      | .error e => .error e
      | .ok v =>
        if nsp.blocks < (v.x lba).toNat + cnt then doneAtOnce v r0 cn false 6
        else
          let o := { newOp v .swrite r0 cn .core with
            src := a, len := n, port := port, nsid := bits h 31 0, lba := (v.x lba).toNat, count := cnt }
          accept v o (if onDie v.s v.cx.core a n then [memRange o 4 false a n] else [])
    | _, _ => doneAtOnce v r0 cn false 7

/-- Bytes of the beat at an offset of a transfer (R211, R241). -/
def beatLen (o : EngineOp) (b : Nat) : Nat := Nat.min 64 (o.len - b)

/-- The cells of a beat among those of the sector in progress. -/
def beatCells (o : EngineOp) (cells : List Nat) (b : Nat) : List Nat := (cells.drop (b % 4096)).take (beatLen o b)

/-- Whether a source byte of a beat has an uncorrectable error (R240). -/
def beatBad (s : State) (core : Nat) (o : EngineOp) (b : Nat) : Bool :=
  if o.fromSpad then (spadBad (s.core core) o.spadBase o.spadSize 0 (o.src.toNat + b) (beatLen o b)).isSome
  else (beatCells o o.srcCells b).any (isPoisoned s)

/-- Begins the next sector of an operation, translated and checked (R239): its beats are to be read, or, for a device's
data, are in flight already. -/
def openSector (s : State) (core : Nat) (o : EngineOp) (bytes : List Byte) (src cells : List Nat) : State :=
  let (lo, n) := sectorAt o
  let beats := beatsAt lo n
  let o' : EngineOp := { o with sector := o.sector + 1, wait := none, srcCells := src
                                bytes := if o.kind == .send then o.bytes else lo
                                dstCells := if o.writesMemory then cells else []
                                arrCells := if o.kind == .send then cells else [] }
  setOp s core (if o.kind == .sread then
      { o' with flight := beats.map fun b => (b, (bytes.drop (b - lo)).take 64) }
    else { o' with unread := beats })

/-- What is done with a sector of which every beat has been read: a send's beats leave in order, a swrite's blocks are
written (R184, R243). -/
def sectorRead (s : State) (core : Nat) (o : EngineOp) : State :=
  let lo := 4096 * (o.sector - 1)
  let bytes := gather o.flight (beatsAt lo 4096)
  match o.kind with
  | .send =>
    let shares := (o.dests.filter fun d => !d.ended).map fun d => (d, beatsOf (shareOf d lo bytes) o.arrCells)
    let n := (shares.map fun p => (p.2.filter fun b => !b.arr.isEmpty).length).foldl (· + ·) 0
    let s := setOp s core { o with flight := [], adds := o.adds + n }
    shares.foldl (fun s p => if p.2.isEmpty then s else putBeats s core o p.1 p.2) s
  | .swrite =>
    let bb := ((namespaceAt s o.port o.nsid).map (·.blockBytes)).getD 512
    let s := setOp s core { o with flight := [], bytes := o.bytes + bytes.length }
    (List.range (bytes.length / bb)).foldl (fun s i =>
      diskWrite s o.port o.nsid (o.lba + lo / bb + i) ((bytes.drop (bb * i)).take bb)) s
  | _ => setOp s core o

/-- Reads a beat of the sector in progress, when the order of its strand lets it (R290: then the launch moves); the last one
of a send or swrite completes the sector (R239, R396). -/
def readBeat (s : State) (core : Nat) (o : EngineOp) (b : Nat) : State :=
  let n := beatLen o b
  if beatBad s core o b || !opMayRead s core o (after o.src b) n then s
  else
    let bytes := if o.fromSpad then spadRead (s.core core) o.spadBase o.spadSize 0 (o.src.toNat + b) n
      else readCells s (beatCells o o.srcCells b)
    let o' := { o with unread := o.unread.erase b, flight := o.flight ++ [(b, bytes)] }
    if o'.unread.isEmpty then
      let lo := 4096 * (o.sector - 1)
      if o.kind == .send && !beatRoom s o lo (gather o'.flight (beatsAt lo 4096)) then s
      else noteMoved (sectorRead s core o') core
    else noteMoved (setOp s core o') core

/-- Whether a beat would be written into a range that another operation of the core holds registered as read (R208). -/
def beatLocked (s : State) (core : Nat) (o : EngineOp) (b : Nat) : Bool :=
  o.writesMemory && memLocked (s.core core) (after o.dst b) (beatLen o b) (some o.id)

/-- Writes a beat of the sector in progress to its destination (R241); one in a locked range is left to the stop (R239). -/
def writeBeat (s : State) (core : Nat) (o : EngineOp) (b : Nat) (bytes : List Byte) : State :=
  let o' := { o with flight := o.flight.filter (fun f => f.1 != b), bytes := o.bytes + bytes.length }
  if o.pkg.isSome then noteMoved (setOp s core o') core
  else if beatLocked s core o b || !opMayWrite s core o (after o.dst b) bytes.length then s
  else noteMoved (storeCells (setOp s core o') ((beatCells o o.dstCells b).zip bytes) o.depth) core

/-- The L1 TLB after an engine has translated the two sides of a sector (R334). -/
def touchSector (s : State) (core : Nat) (o : EngineOp) : State :=
  let (lo, n) := sectorAt o
  let src := if o.fromSpad || o.kind == .sread then s else touchEnds s core (after o.src lo) n
  let dst := if o.writesMemory then touchEnds src core (after o.dst lo) n else src
  if o.arr = 0 then dst else touch dst core o.arr

/-- R239: an engine begins its next sector, or reads or writes one beat of the sector in progress, in any order (R241). -/
def execSectorStep (core : Nat) (op : Piece) (s : State) : Host.Outcome State Fault Refusal :=
  onOp s core op.id (fun o => o.kind != .refs && o.cause != 8 && o.cause != 11 && o.cause != 4 && !sectorsDone o
      && opMayWork s core o) fun o =>
    if o.pkg.any fun p => !peerReaches s core p then s
    else if o.unread.isEmpty && o.flight.isEmpty then
      match sectorState s core o with
      | .miss page need => opMiss s core o page need
      | .data bytes src cells => openSector (touchSector s core o) core o bytes src cells
      | _ => s
    else
      let writes := if o.kind == .copy || o.kind == .sread then o.flight else []
      match pick (α := Nat ⊕ (Nat × List Byte)) (o.unread.map Sum.inl ++ writes.map Sum.inr) op.part with
      | some (.inl b) => readBeat s core o b
      | some (.inr f) => writeBeat s core o f.1 f.2
      | none => s

/-- The sector at whose start an operation stops: the one in progress, which it translates afresh if it goes on (R239, R395). -/
def sectorStart (o : EngineOp) : Nat := if o.unread.isEmpty && o.flight.isEmpty then o.sector else o.sector - 1

/-- R239, R240, R249: a sector that cannot be moved stops a copy or send for its sync point, and ends a storage operation with cause 8, 11 or 4. -/
def execEngineStop (core op : Nat) (s : State) : Host.Outcome State Fault Refusal :=
  onOp s core op (fun o => o.kind != .refs && (!sectorsDone o || o.lost) && o.cause != 8 && o.cause != 11 && o.cause != 4
      && opMayWork s core o) fun o =>
    let storage := o.kind == .sread || o.kind == .swrite
    let ended := { o with unread := [], flight := [], sector := sectorStart o }
    let error := fun (a : Word) =>
      if storage then setOp s core { ended with cause := 4 }
      else setOp s core { ended with stop := some (stopWord a Cause.memUncorrectable.code), dead := true }
    let refused := fun (o : EngineOp) (a : Word) (c : Nat) =>
      if storage then setOp s core { o with cause := if c = Cause.rangeLocked.code then 11 else 8 }
      else setOp s core { o with stop := some (stopWord a c) }
    if o.lost then error o.arr
    else if o.unread.isEmpty && o.flight.isEmpty then
      match sectorState s core o with
      | .fault a c => refused o a c
      | .error a => error a
      | _ => s
    else if o.unread.any (beatBad s core o) then error (after o.src (4096 * ended.sector))
    else if o.flight.any fun f => beatLocked s core o f.1 then
      refused ended (after o.dst (4096 * ended.sector)) Cause.rangeLocked.code
    else s

/-- Whether an operation may complete: the units of a pre-empted core pause (R395). -/
def mayEnd (s : State) (core : Nat) (o : EngineOp) : Bool := !(s.core core).preempted && !o.lost

/-- R210, R241: a copy or send completes and writes its status word. For another package, a code from outside says that the peer refused (cause 3). -/
def execEngineComplete (core op ext : Nat) (s : State) : Host.Outcome State Fault Refusal :=
  onOp s core op (fun o => (o.kind == .copy || o.kind == .send) && mayEnd s core o) fun o =>
    match o.pkg with
    | some p =>
      if !peerReaches s core p then completeEngine s core o false 2 0
      else if ext ≠ 0 then completeEngine s core o false 3 0
      else if sectorsDone o && o.stop.isNone then completeEngine s core o true 0 0 else s
    | none =>
      if o.kind == .send then
        if o.dests.all (·.ended) && o.stop.isNone && sectorsDone o && o.adds == 0 then completeEngine s core o (o.cause == 0) o.cause 0
        else s
      else if sectorsDone o && o.stop.isNone then completeEngine s core o true 0 0 else s

/-- R249: a storage operation completes with its status; the device's own status is the outside world's. -/
def execStorageComplete (core op status : Nat) (s : State) : Host.Outcome State Fault Refusal :=
  onOp s core op (fun o => (o.kind == .sread || o.kind == .swrite) && mayEnd s core o) fun o =>
    if o.cause ≠ 0 then completeEngine s core o false o.cause 0
    else if status % 2048 ≠ 0 then completeEngine s core o false 5 (status % 2048)
    else if sectorsDone o then completeEngine s core o true 0 0
    else s

/-- The first waiting transfer of a free channel starts, or is refused whole; one whose strand has retired is dropped
(R244). -/
def startTransfer (s : State) (core chan : Nat) : State :=
  let c := s.core core
  let h := c.channels.get {} chan
  match h.busy, h.waiting with
  | false, t :: rest =>
    let popped := s.setCore core { c with channels := c.channels.insert chan { h with waiting := rest } }
    match s.liveGen core t.gen with
    | none => endDest (dropBeats popped t) t 2
    | some (_, st) =>
      if st.spadSize < t.total then endDest (dropBeats popped t) t 10
      else
        let lock : RangeLock := {
          index := 0, op := chanLock chan, written := true, spad := true, chan := some chan,
          slot := t.slot, engine := 5, first := t.off % st.spadSize, span := t.total - 1, base := st.spadBase,
          size := st.spadSize }
        match takeLocks c [lock] with
        | none => s
        | some c =>
          let h' := { h with busy := true, slot := t.slot, stop := t.off + t.total, wp := t.off, current := some t, waiting := rest }
          s.setCore core { c with channels := c.channels.insert chan h' }
  | _, _ => s

/-- Whether the strand that issued a SEND lets its next beat be written (R189, R191, R194): every earlier read is performed, the
waits of its earlier releases are met, and what an earlier SEND still has for the same bytes is written. -/
def beatLet (s : State) (h : Channel) (t : Transfer) (size n : Nat) : Bool :=
  (s.byGen t.srcCore t.issuer.gen).all fun x =>
    writeLet s t.srcCore x.2 t.issuer.seq
      && (earlierOps s t.srcCore t.issuer.gen t.issuer.seq).all fun p => !p.spadLeft s t.srcCore t.gen size h.wp n

/-- The next beat of a channel's transfer is written at the write pointer, which advances, and leaves its add (R209,
R211); the error mark of a byte that it is written over goes (log 107). The transfer ends with its last byte, or when its strand has retired (R244); one whose send has ended early ends
with its last beat. -/
def deliverBeat (s : State) (core chan : Nat) : State :=
  let c := s.core core
  let h := c.channels.get {} chan
  match h.current with
  | none => s
  | some t => match t.beats, s.liveGen core t.gen with
    | _, none => endTransfer s core chan t 2
    | b :: more, some (_, st) =>
      let n := b.bytes.length
      if !beatLet s h t st.spadSize n then s
      else
      let wp := h.wp + n
      let c := spadWrite c st.spadBase st.spadSize t.swz h.wp b.bytes
      let locks := c.locks.map fun l => if l.op == chanLock chan then
        { l with first := wp % st.spadSize, span := h.stop - wp - 1 } else l
      let add : Add := {
        srcCore := t.srcCore, op := t.op, issuer := t.issuer, arr := t.arr, cells := b.arr, count := n, scope := t.scope
        depth := t.depth }
      let h' := { h with wp := wp, current := some { t with beats := more }
                         adds := if b.arr.isEmpty then h.adds else h.adds ++ [add] }
      let s := noteMoved (s.setCore core { c with locks := locks, channels := c.channels.insert chan h' }) core
      let s := match findOp s t.srcCore t.op with
        | some o => setOp s t.srcCore { o with bytes := o.bytes + n }
        | none => s
      if h.stop ≤ wp then endTransfer s core chan { t with beats := more } 0 else s
    | [], some _ => if (findOp s t.srcCore t.op).isNone then endTransfer s core chan t 0 else s

/-- Whether the strand that issued a SEND lets an arrival-word add be performed: it is a release at the SEND's scope, and a
write after the earlier writes to the word (R191, R196, R211). -/
def addLet (s : State) (a : Add) : Bool :=
  (s.byGen a.srcCore a.issuer.gen).all fun x =>
    writeLet s a.srcCore x.2 a.issuer.seq && releaseReady s a.srcCore x.2 a.issuer.seq a.scope
      && (x.2.pend.all fun b => decide (a.issuer.seq ≤ b.seq) || b.performed || !b.meets fun c m => rangesMeet c m a.arr 8)
      && (earlierOps s a.srcCore a.issuer.gen a.issuer.seq).all fun p => !p.destLeft a.arr 8

/-- A delivered beat's byte count is added to the arrival word (R211); an arrival word with an uncorrectable error stays as
it is and ends the send (R240, R405). -/
def performAdd (s : State) (core chan : Nat) (a : Add) : State :=
  let c := s.core core
  let h := c.channels.get {} chan
  let s := s.setCore core { c with channels := c.channels.insert chan { h with adds := h.adds.erase a } }
  let bad := a.cells.any (isPoisoned s)
  let s := match findOp s a.srcCore a.op with
    | some o =>
      setOp s a.srcCore { o with adds := o.adds - 1, lost := o.lost || bad }
    | none => s
  if bad then s else storeCells s (pairWrites a.cells (ofLe (readCells s a.cells) + a.count)) a.depth

/-- R244: a waiting transfer starts on a free inbound channel, or is refused whole; one whose strand has retired is dropped. -/
def execChannelTransferStart (core chan : Nat) (s : State) : Host.Outcome State Fault Refusal :=
  .next (if (s.core core).preempted then s else startTransfer s core chan)

/-- R209, R211: a beat is written at the write pointer of its channel, which advances (part 0); its byte count is added to the arrival word after it, the adds of a channel in any order (part k + 1). -/
def execBeatDelivery (core : Nat) (chan : Piece) (s : State) : Host.Outcome State Fault Refusal :=
  if chan.part = 0 then .next (if (s.core core).preempted then s else deliverBeat s core chan.id)
  else match pick ((s.core core).channels.get {} chan.id).adds (chan.part - 1) with
  | some a => .next (if addLet s a then performAdd s core chan.id a else s)
  | none => .next s

/-- The cells of the line of a fetch that begins at an offset. -/
def lineCells (cells : List Nat) (b : Nat) : List Nat :=
  (cells.drop b).take (64 - cells.getD b 0 % 64)

/-- What a stream can do next: push the oldest reference, read a line of one in flight, or take up the next index (R247). -/
inductive StreamStep where
  | push (f : Fetch)
  | read (k b : Nat) (f : Fetch)
  | take (e : Elem)

/-- The steps of a stream with its references in flight: up to 256 of them (R17); none is begun on a pre-empted core
(R395). -/
def streamSteps (s : State) (core : Nat) (o : EngineOp) : List StreamStep :=
  ((o.fetches.head?.filter fun f => f.unread.isEmpty).map StreamStep.push).toList
    ++ (o.fetches.zipIdx.flatMap fun f => f.1.unread.map fun b => .read f.2 b f.1)
    ++ if o.fetches.length < 256 && !(s.core core).preempted then
        ((streamIndices s core o)[o.fetches.length]?.filter fun e => !e.bad).toList.map .take
      else []

/-- The push of the oldest reference: its value, or a row placed in the ring and its offset (R247). The error mark of a byte
that the row is written over goes with the value it marked (log 107). -/
def pushReference (s : State) (core : Nat) (o : EngineOp) (f : Fetch) : State :=
  let bytes := gather f.flight (linesOf f.cells)
  let s := noteMoved (setOp (popForGen s core o.gen o.portIn o.qin) core
    { o with placed := o.placed + 1, bytes := o.bytes + bytes.length, fetches := o.fetches.drop 1 }) core
  if o.row then
    enginePush (s.setCore core (spadWrite (s.core core) o.spadBase o.spadSize 0 (ringAt o) bytes)) o 0 (BitVec.ofNat 64 (ringAt o))
  else enginePush s o 0 (extendTo o.size o.signed (ofLe bytes))

/-- A stream that waits for a credit (R295). -/
def streamWaiter (o : EngineOp) : Waiter := { rank := o.rank, gen := o.gen, op := some o.id }

/-- A step of a stream (R247). A reference that cannot be pushed on a pre-empted core is taken up afresh after it (R395). -/
def streamStep (s : State) (core : Nat) (o : EngineOp) (q : Queue) : StreamStep → State
  | .push f =>
    if ringFull s o || creditsOf q o.gen == 0 then
      if (s.core core).preempted then setOp s core { o with fetches := [] }
      else if ringFull s o then s else awaitCredit s o.qout (streamWaiter o)
    else if ringLocked s core o then s
    else pushReference s core o f
  | .read k b f =>
    let cells := lineCells f.cells b
    if cells.any (isPoisoned s) || !opMayRead s core o (referenceAt o f.idx) o.size then s
    else
      let f' : Fetch := { f with unread := f.unread.erase b, flight := f.flight ++ [(b, readCells s cells)] }
      setOp s core { o with fetches := o.fetches.set k f' }
  | .take e =>
    let idx := e.data.getD 0
    match reference s core o idx with
    | .miss page need => opMiss s core o page need
    | .data _ cells _ =>
      let f : Fetch := { idx := idx, cells := cells, unread := linesOf cells }
      setOp (touchEnds s core (referenceAt o idx) o.size) core { o with fetches := o.fetches ++ [f], wait := none }
    | _ => s

/-- R247: a stream takes up an index, reads a line of a reference in flight, or pops the oldest index and pushes what was fetched, the part choosing among these; or it passes a token on and completes on eos. Without a credit it waits its turn (R295). -/
def execReferencePop (core : Nat) (op : Piece) (s : State) : Host.Outcome State Fault Refusal :=
  onOp s core op.id (fun o => o.kind == .refs && opMayWork s core o) fun o =>
    match streamHead s core o, s.queue o.qout with
    | some e, some q =>
      if e.tag ≠ 0 then
        if e.bad then s
        else if creditsOf q o.gen = 0 then awaitCredit s o.qout (streamWaiter o)
        else
          let s := enginePush (popForGen s core o.gen o.portIn o.qin) o e.tag (e.data.getD 0)
          if e.tag = 4 then completeEngine s core o true 0 0 else s
      else
        let o := { o with fetches := inFlight s core o }
        match pick (streamSteps s core o) op.part with
        | some x => streamStep s core o q x
        | none => s
    | _, _ => s

/-- R248: a reference that cannot be fetched or placed stops the stream; an uncorrectable error ends it (R240, R407). -/
def execReferenceStop (core op : Nat) (s : State) : Host.Outcome State Fault Refusal :=
  onOp s core op (fun o => o.kind == .refs && opMayWork s core o) fun o =>
    match streamHead s core o with
    | some e =>
      let idx := e.data.getD 0
      let stops := fun (c : Nat) (dead : Bool) =>
        setOp s core { o with fetches := [], stop := some (stopWord (idx <<< 8) c), dead := dead }
      if e.bad then stops 0x13 true
      else if e.tag ≠ 0 then s
      else match inFlight s core o with
      | f :: _ =>
        if f.unread.any fun b => (lineCells f.cells b).any (isPoisoned s) then stops 0x13 true
        else if f.unread.isEmpty && ringLocked s core o && !ringFull s o then stops Cause.rangeLocked.code false
        else s
      | [] => match reference s core o idx with
        | .fault _ c => stops c false
        | _ => s
    | none => s

end Sys2Proof.Machine
end

