-- ==== Sys2Proof/Machine/Tile.lean ====
section
/-! DEFINITION. The tile unit of dense cores: configuration, tile operations row by row, drains, row handlers, faults and resumption (R131 to R152). -/

namespace Sys2Proof.Machine

/-- Word f of configuration set k (R133): 0 configuration word, 1 amax word address, 2 handler entry. -/
def tsetWord (t : TileUnit) (k f : Nat) : Word := t.tset.get 0 (3 * k + f)

/-- Writes a word of a configuration set. -/
def setTset (s : State) (core k f : Nat) (w : Word) : State :=
  let c := s.core core
  s.setCore core { c with tile := { c.tile with tset := c.tile.tset.set 0 (3 * k + f) w } }

/-- Whether a type code is one that a multiply takes (R133): 8, 9, 12, 13, 14. -/
def tileType (k : Nat) : Bool := k == 8 || k == 9 || k == 12 || k == 13 || k == 14

/-- Whether a configuration word is one that TCFG accepts (R135). -/
def tcfgValid (w : Word) : Bool :=
  bits w 23 14 == 0 && bits w 9 8 == 0 && decide (1 ≤ bits w 31 24) && decide (bits w 31 24 ≤ 128)
    && tileType (bits w 7 4) && tileType (bits w 3 0)

/-- Whether a configuration word suits a multiply; one with scales takes MX types only (R137). -/
def mmaValid (w : Word) (mx : Bool) : Bool :=
  tcfgValid w && (!mx || (decide (12 ≤ bits w 7 4) && decide (12 ≤ bits w 3 0)))

/-- A tile instruction on a sparse core or a scrivener, or in a porter, supervisor or row-handler strand (R131, R147). -/
def tileIllegal (cx : Ctx) : Bool :=
  !isDense cx.core || cx.st.kind == .porter || cx.st.kind == .supervisor || cx.st.kind == .handler

/-- A tile operation of the strand that issues it, to be filled in (R132). -/
def newTile (v : Vals) (kind : TileKind) (acc : VReg) (k : Nat) (cn : Option (BitVec 4)) : TileOp :=
  let st := v.cx.st
  let c := v.s.core v.cx.core
  { id := c.nextOp, slot := v.cx.slot, gen := st.gen, kind := kind, acc := acc.val, cfg := tsetWord c.tile k 0,
    cn := cn.map BitVec.toNat, depth := st.depth, spadBase := st.spadBase, spadSize := st.spadSize, seq := st.nextSeq,
    stage := st.stage, lid := st.lid, rank := st.rank, level := st.level, pc := st.pc, srcnt := st.srcnt,
    seed := seedOf v.s v.cx.core }

/-- A range of a tile operation over memory or scratchpad, from a signed lowest displacement (R141). -/
def tileRange (o : TileOp) (written spad : Bool) (a : Word) (low : Int) (n : Nat) : RangeLock :=
  let first := (a + BitVec.ofInt 64 low).toNat
  if spad then
    { index := 0, op := o.id, written := written, spad := true, chan := none, slot := o.slot, engine := 0,
      first := first % o.spadSize, span := Nat.min n o.spadSize - 1, base := o.spadBase, size := o.spadSize }
  else
    { index := 0, op := o.id, written := written, spad := false, chan := none, slot := o.slot, engine := 0,
      first := first, span := n - 1 }

/-- Accepts a tile operation (R132): the queue, tl, its range locks. -/
def acceptTile (v : Vals) (o : TileOp) (locks : List RangeLock) (sto : Bool := false) : Except Stop Done :=
  let st := v.cx.st
  let c := v.s.core v.cx.core
  if 63 ≤ st.tl ∨ 8 ≤ c.tile.queue.length then .error .stall
  else match takeLocks c locks with
  | none => .error .stall
  | some c =>
    let c := { c with tile := { c.tile with queue := c.tile.queue ++ [o] }, nextOp := c.nextOp + 1 }
    .ok { s := v.s.setCore v.cx.core c, st := { st with tl := st.tl + 1, nextSeq := st.nextSeq + 1 }, sto := sto }

/-- K of a configuration word (R133). -/
def kOf (cfg : Word) : Nat := 32 * bits cfg 31 24

/-- Element types of A and B (R133). -/
def typeA (cfg : Word) : ElemTy := ElemTy.ofCode (BitVec.ofNat 4 (bits cfg 3 0))
/-- The type of B (R133). -/
def typeB (cfg : Word) : ElemTy := ElemTy.ofCode (BitVec.ofNat 4 (bits cfg 7 4))

/-- Bytes that n elements of a type take. -/
def bytesOf (t : ElemTy) (n : Nat) : Nat := n * widthOf t / 8

/-- The spans of a multiply's operands (R138, R139, R141). -/
def mmaSpans (o : TileOp) : List RangeLock :=
  let f := o.cfg
  let sa := o.sel / 2 % 2 == 1
  let sb := o.sel % 2 == 1
  let rowA := bytesOf (typeA f) (kOf f)
  let spanA := 63 * bits f 63 48 * 64 + rowA
  let spanB := if bit f 12 then 63 * bits f 47 32 * 64 + bytesOf (typeB f) (kOf f)
    else (kOf f - 1) * bits f 47 32 * 64 + bytesOf (typeB f) 64
  let scales := 64 * bits f 31 24
  [tileRange o false sa o.a 0 spanA, tileRange o false sb o.b 0 spanB]
    ++ if o.kind = .mmax then [tileRange o false sa o.sa 0 scales, tileRange o false sb o.sb 0 scales] else []

/-- The span of 64 rows of n bytes at a signed stride (R141, R142). -/
def rowSpan (o : TileOp) (written spad : Bool) (n : Nat) : RangeLock :=
  let d := 63 * o.b.toInt
  tileRange o written spad o.a (if d < 0 then d else 0) (d.natAbs + n)

/-- A multiply, up to its acceptance (R137, R138). -/
def multiply (v : Vals) (o : TileOp) : Except Stop Done :=
  if o.sel / 2 % 2 = 0 ∧ o.a.toNat % 64 ≠ 0 then .error (.trap .misaligned o.a)
  else if o.sel % 2 = 0 ∧ o.b.toNat % 64 ≠ 0 then .error (.trap .misaligned o.b)
  else acceptTile v o (mmaSpans o)

/-! One row step of the unit (R140, R142, R144, R150). -/

/-- What a row step of the unit finds: its effect, a wait, a TLB miss, or a fault with its EVALUE (R151). -/
inductive UnitStep where
  | next (s : State) (o : TileOp)
  | hold (s : State)
  | miss (page need : Nat)
  | fault (value : Word)

/-- Goes on with the bytes and cells that an access finds, or stops as it fails. -/
def Sector.step (x : Sector) (s : State) (k : List Byte → List Nat → UnitStep) : UnitStep :=
  match x with
  | .data b _ c => k b c
  | .miss p n => .miss p n
  | .wait => .hold s
  | .fault a c => .fault (stopWord a c)
  | .error a => .fault (stopWord a 0x13)

/-- The party of a tile operation, with the decline it has been given (R336). -/
def partyTile (core : Nat) (o : TileOp) : Party := { core := core, sup := false, declined := o.wait.toList }

/-- Reads n bytes of an operand in memory or scratchpad (R138, R141). -/
def unitRead (s : State) (core : Nat) (o : TileOp) (spad : Bool) (a : Word) (n : Nat) : Sector :=
  if spad then
    match spadBad (s.core core) o.spadBase o.spadSize (bits o.cfg 11 10) a.toNat n with
    | some w => .error (BitVec.ofNat 64 w)
    | none => .data (spadRead (s.core core) o.spadBase o.spadSize (bits o.cfg 11 10) a.toNat n) [] []
  else match accessCells s (partyTile core o) .die false false a n with
    | .error f => Sector.ofFail a f
    | .ok cells => if cells.any (isPoisoned s) then .error a else .data (readCells s cells) [] cells

/-- Reads runs of bytes in order. -/
def unitReads (s : State) (core : Nat) (o : TileOp) (spad : Bool) : List (Word × Nat) → Sector
  | [] => .data [] [] []
  | (a, n) :: rest => match unitRead s core o spad a n with
    | .data b _ c => match unitReads s core o spad rest with
      | .data b' _ c' => .data (b ++ b') [] (c ++ c')
      | r => r
    | r => r

/-- The L1 TLB after the unit has translated runs of bytes (R334). -/
def unitTouch (s : State) (core : Nat) (spad : Bool) (ps : List (Word × Nat)) : State :=
  if spad then s else ps.foldl (fun s p => touchEnds s core p.1 p.2) s

/-- Checks a run of bytes that the unit writes (R142, R144, R150, R208): the cells in memory. -/
def unitWrite (s : State) (core : Nat) (o : TileOp) (spad : Bool) (a : Word) (n : Nat) : Sector :=
  if spad then
    if spadLocked (s.core core) o.spadBase o.spadSize a.toNat n (some o.id) then
      .fault (BitVec.ofNat 64 (a.toNat % o.spadSize)) Cause.rangeLocked.code
    else match spadBad (s.core core) o.spadBase o.spadSize (bits o.cfg 11 10) a.toNat n with
      | some w => .error (BitVec.ofNat 64 w)
      | none => .data [] [] []
  else match accessCells s (partyTile core o) .die true false a n with
    | .error f => Sector.ofFail a f
    | .ok cells =>
      if memLocked (s.core core) a n (some o.id) then .fault a Cause.rangeLocked.code
      else if cells.any (isPoisoned s) then .error a else .data [] [] cells

/-- Checks runs of bytes that the unit writes, in order. -/
def unitWrites (s : State) (core : Nat) (o : TileOp) (spad : Bool) : List (Word × Nat) → Sector
  | [] => .data [] [] []
  | (a, n) :: rest => match unitWrite s core o spad a n with
    | .data _ _ c => match unitWrites s core o spad rest with
      | .data _ _ c' => .data [] [] (c ++ c')
      | r => r
    | r => r

/-- A run of bytes in pieces of 64. -/
def pieces (a : Word) (n : Nat) : List (Word × Nat) :=
  (List.range (ceilDiv n 64)).map fun i => (after a (64 * i), Nat.min 64 (n - 64 * i))

/-- The elements of a type in a run of bytes, lowest first (R138). -/
def elemsOf (t : ElemTy) (bs : List Byte) : List Nat :=
  let x := ofLe bs
  (List.range (8 * bs.length / widthOf t)).map fun k => x / 2 ^ (widthOf t * k) % 2 ^ widthOf t

/-- Row i of accumulator a, column 0 first. -/
def accRow (t : TileUnit) (a i : Nat) : List (BitVec 32) := (List.range 64).map fun j => t.acc.get 0 (4096 * a + 64 * i + j)

/-- Writes row i of accumulator a. -/
def setAccRow (t : TileUnit) (a i : Nat) (r : List (BitVec 32)) : TileUnit :=
  { t with acc := r.zipIdx.foldl (fun m p => m.set 0 (4096 * a + 64 * i + p.2) p.1) t.acc
           bad := t.bad.filter fun k => k / 64 != 64 * a + i }

/-- Whether row i of accumulator a has an uncorrectable error (R150). -/
def accBad (t : TileUnit) (a i : Nat) : Bool := t.bad.any fun k => k / 64 == 64 * a + i

/-- Writes the tile unit of a core. -/
def setTile (s : State) (core : Nat) (t : TileUnit) : State := s.setCore core { s.core core with tile := t }

/-- Replaces a tile operation of a core. -/
def setTileOp (s : State) (core : Nat) (o : TileOp) : State :=
  let t := (s.core core).tile
  let f := fun (p : TileOp) => if p.id == o.id then o else p
  setTile s core { t with queue := t.queue.map f, ended := t.ended.map f }

/-- The exact value of an element, and of a scale where there are scales (R71, R75). -/
def scaledVal (t : ElemTy) (x : Nat) (scale : Option Nat) : FVal :=
  match scale with
  | none => fval t x
  | some e => (mulVal (fval t x) (fval .e8m0 e)).1

/-- chunk_sum (R94, R140): the exact sum of a chunk's products, rounded to f32. -/
def chunkSum (products : List FVal) : Nat :=
  match products with
  | [] => 0
  | p :: ps => (roundTo .f32 (ps.foldl (fun x y => (addVal x y .rne).1) p) .rne false 0).1

/-- One accumulation (R94): acc + t rounded to f32. -/
def accumulate (base : BitVec 32) (t : Nat) : BitVec 32 :=
  BitVec.ofNat 32 (roundTo .f32 (addVal (fval .f32 base.toNat) (fval .f32 t) .rne).1 .rne false 0).1

/-- The places of the elements of B that chunk c uses (R138). -/
def chunkB (o : TileOp) (c : Nat) : List (Word × Nat) :=
  let f := o.cfg
  let stride := bits f 47 32 * 64
  if bit f 12 then
    (List.range 64).map fun j => (after o.b (j * stride + bytesOf (typeB f) (32 * c)), bytesOf (typeB f) 32)
  else (List.range 32).flatMap fun k => pieces (after o.b ((32 * c + k) * stride)) (bytesOf (typeB f) 64)

/-- The place of the scale of row or column n for chunk c (R139). -/
def scaleAt (f base : Word) (n c : Nat) : Word := after base (if bit f 13 then c * 64 + n else n * bits f 31 24 + c)

/-- A row step of a multiply (R140): each element is read once; B and its scales at the chunk's first row. -/
def multiplyRow (s : State) (core : Nat) (o : TileOp) : UnitStep :=
  let f := o.cfg
  let c := o.chunk
  let i := o.row
  let mx := o.kind == .mmax
  let inA := o.sel / 2 % 2 == 1
  let inB := o.sel % 2 == 1
  let stride := bits f 63 48 * 64
  let t := (s.core core).tile
  let aPlace := after o.a (i * stride + bytesOf (typeA f) (32 * c))
  let placesA := if stride = 0 ∧ i ≠ 0 then [] else [(aPlace, bytesOf (typeA f) 32)]
  let placesB := if i = 0 then chunkB o c else []
  let scalesA := if mx then [(scaleAt f o.sa i c, 1)] else []
  let scalesB := if mx ∧ i = 0 then (List.range 64).map fun j => (scaleAt f o.sb j c, 1) else []
  (unitReads s core o inA placesA).step s fun ab _ =>
  (unitReads s core o inB placesB).step s fun bb _ =>
  (unitReads s core o inA scalesA).step s fun sab _ =>
  (unitReads s core o inB scalesB).step s fun sbb _ =>
  if !(o.zero && c == 0) && accBad t o.acc i then .fault (stopWord 0 0x13)
  else
    let as := if stride = 0 ∧ i ≠ 0 then o.bufA else elemsOf (typeA f) ab
    let bs := if i = 0 then elemsOf (typeB f) bb else o.bufB
    let ss := if i = 0 then sbb.map BitVec.toNat else o.bufS
    let scA := if mx then some (ofLe sab) else none
    let row := (accRow t o.acc i).zipIdx.map fun p =>
      let j := p.2
      let scB := if mx then some (ss.getD j 0) else none
      let products := (List.range 32).map fun k =>
        (mulVal (scaledVal (typeA f) (as.getD k 0) scA)
          (scaledVal (typeB f) (bs.getD (if bit f 12 then 32 * j + k else 64 * k + j) 0) scB)).1
      accumulate (if o.zero ∧ c = 0 then 0 else p.1) (chunkSum products)
    let o' := { o with row := (i + 1) % 64, chunk := if i = 63 then c + 1 else c, bufA := as, bufB := bs, bufS := ss
                       wait := none }
    let s := unitTouch (unitTouch s core inA (placesA ++ scalesA)) core inB (placesB ++ scalesB)
    .next (setTile s core (setAccRow t o.acc i row)) o'

/-- A row step of TLACC or TSACC (R142). -/
def copyRow (s : State) (core : Nat) (o : TileOp) : UnitStep :=
  let spad := o.sel % 2 == 1
  let a := o.a + BitVec.ofNat 64 o.row * o.b
  let t := (s.core core).tile
  let o' := { o with row := o.row + 1, wait := none }
  if o.kind = .lacc then
    (unitReads s core o spad (pieces a 256)).step s fun bs _ =>
      .next (setTile (unitTouch s core spad (pieces a 256)) core (setAccRow t o.acc o.row ((elemsOf .f32 bs).map (BitVec.ofNat 32)))) o'
  else if accBad t o.acc o.row then .fault (stopWord 0 0x13)
  else
    let bs := (accRow t o.acc o.row).flatMap fun x => leBytes 4 x.toNat
    (unitWrites s core o spad (pieces a 256)).step s fun _ cells =>
      if spad then
        .next (s.setCore core (spadWrite (s.core core) o.spadBase o.spadSize (bits o.cfg 11 10) a.toNat bs)) o'
      else .next (storeCells (unitTouch s core false (pieces a 256)) (cells.zip bs) o.depth) o'

/-- The bytes of a row converted by a drain (R144): element j draws with index 64 i + j. -/
def drainBytes (o : TileOp) (row : List (BitVec 32)) : List Byte :=
  row.zipIdx.flatMap fun p =>
    leBytes (widthOf o.dtype / 8)
      (convert .f32 o.dtype p.1.toNat o.rm o.sat
        (if o.rm = .sto then srBits o.seed o.pc (64 * o.row + p.2) o.srcnt else 0)).1

/-- The maximum of the absolute values of a row and m (R97, R144). -/
def rowMax (m : BitVec 32) (row : List (BitVec 32)) : BitVec 32 :=
  row.foldl (fun m x => BitVec.ofNat 32 (fminmax .f32 true m.toNat (x.toNat % 2 ^ 31)).1) m

/-- Pushes an element of a drained row (R144). -/
def tilePush (s : State) (o : TileOp) (data : Word) : State :=
  sendElem s o.queue { tag := 0, data := some data, gen := o.gen, rank := o.rank, seq := o.seq, engine := true }

/-- A row step of a drain without handler (R144): rows to memory or scratchpad whole, to a port element by element. -/
def drainRow (s : State) (core : Nat) (o : TileOp) : UnitStep :=
  let t := (s.core core).tile
  if accBad t o.acc o.row then .fault (stopWord 0 0x13)
  else
    let row := accRow t o.acc o.row
    let bs := drainBytes o row
    let a := o.a + BitVec.ofNat 64 o.row * o.b
    let o' := { o with row := o.row + 1, part := 0, max := rowMax o.max row, wait := none }
    match o.dest with
    | 2 => match s.queue o.queue with
      | none => .hold s
      | some q =>
        if creditsOf q o.gen = 0 then .hold (awaitCredit s o.queue { rank := o.rank, gen := o.gen, op := some o.id })
        else
          let s := tilePush s o (BitVec.ofNat 64 (ofLe ((bs.drop (8 * o.part)).take 8)))
          .next s (if 8 * (o.part + 1) < bs.length then { o with part := o.part + 1 } else o')
    | 1 => (unitWrites s core o true (pieces a bs.length)).step s fun _ _ =>
        .next (s.setCore core (spadWrite (s.core core) o.spadBase o.spadSize (bits o.cfg 11 10) a.toNat bs)) o'
    | _ => (unitWrites s core o false (pieces a bs.length)).step s fun _ cells =>
        .next (storeCells (unitTouch s core false (pieces a bs.length)) (cells.zip bs) o.depth) o'

/-- One row step of the operation that the unit works on (R132, R140); TZERO takes one step. -/
def tileRow (s : State) (core : Nat) (o : TileOp) : UnitStep :=
  match o.kind with
  | .zero =>
    let t := (s.core core).tile
    .next (setTile s core { t with acc := t.acc.filter (fun e => e.1 / 4096 != o.acc)
                                   bad := t.bad.filter fun k => k / 4096 != o.acc }) { o with row := 64 }
  | .mma | .mmas | .mmax => multiplyRow s core o
  | .lacc | .sacc => copyRow s core o
  | .drain => drainRow s core o
  | .drainHandler => .hold s

/-- Whether the unit part of an operation has ended (R132, R145). -/
def unitEnded (o : TileOp) : Bool :=
  match o.kind with
  | .mma | .mmas | .mmax => decide (bits o.cfg 31 24 ≤ o.chunk)
  | _ => decide (64 ≤ o.row)

/-- Moves an operation whose unit part has ended from the head of the queue. -/
def endUnitPart (s : State) (core : Nat) (o : TileOp) : State :=
  let t := (s.core core).tile
  setTile s core { t with queue := t.queue.filter (fun p => p.id != o.id), ended := t.ended ++ [o] }

/-- Whether an earlier COPY, SEND or SREAD of the strand has yet to write a source that a unit's operation has registered
(R189, R207). -/
def sourceAwaited (s : State) (core gen seq op : Nat) : Bool :=
  (earlierOps s core gen seq).any fun p => (s.core core).locks.any fun l =>
    l.op == op && !l.written
      && (if l.spad then p.spadLeft s core gen l.size l.first (l.span + 1)
        else p.destLeft (BitVec.ofNat 64 l.first) (l.span + 1) || p.arrLeft (BitVec.ofNat 64 l.first) (l.span + 1))

/-- Whether the unit may work on its head operation: not stopped, no translation awaited, the core not pre-empted (but for
the rest of a row, R395), the unit not powered down, and the reads and writes of the strand before it performed (R141, R150,
R207, R414). -/
def tileMayWork (s : State) (core : Nat) (o : TileOp) : Bool :=
  let c := s.core core
  !bit c.tile.rowprog 63 && c.tile.fault.isNone && !(o.wait.any fun w => w.2 == 0) && (!c.preempted || o.part != 0)
    && !unitsOff s core && !sourceAwaited s core o.gen o.seq o.id
    && (match s.byGen core o.gen with
      | none => true
      | some (_, st) => st.pend.all fun a => decide (o.seq ≤ a.seq) || a.performed || (match a.op with
        | .amsg .. => true
        | op => !(op.reads || op.writes)))

/-- A unit's miss joins a record (R334, R337). -/
def tileMiss (s : State) (core : Nat) (o : TileOp) (page need : Nat) : State :=
  match joinMiss s core page need with
  | some s' => setTileOp s' core { o with wait := some (page, 0) }
  | none => s

/-- The kind of a stopped operation in ROWPROG (R150). -/
def TileKind.code : TileKind → Nat
  | .zero => 0 | .mma => 1 | .mmas => 2 | .mmax => 3 | .lacc => 4 | .sacc => 5 | .drain => 6 | .drainHandler => 6

/-- ROWPROG of a stopped operation (R150). -/
def rowprogWord (o : TileOp) : Word :=
  put 1 63 ||| put o.kind.code 60 ||| put o.acc 55 ||| put o.slot 51 ||| put o.row 8
    ||| (match o.kind with | .mma | .mmas | .mmax => put o.chunk 0 | _ => 0)

/-- The operation that a stopped or failed unit names, if the unit is stopped. -/
def stoppedOp (t : TileUnit) : Option TileOp := if bit t.rowprog 63 then t.queue.head? else none

/-- Clears the stop (R152). -/
def clearStop (s : State) (core : Nat) : State :=
  let t := (s.core core).tile
  setTile s core { t with rowprog := t.rowprog &&& ~~~(put 1 63), stopValue := 0, taken := false }

/-- Discards the stopped operation and the queued operations of its slot, each completing at once (R152, R387). -/
def abortSlot (s : State) (core slot : Nat) : State :=
  let ops := ((s.core core).tile.queue).filter fun o => o.slot == slot
  ops.foldl (fun s o => completeTile s core o) s

/-- Whether the completions of the operations accepted before one are reported (R132). -/
def mayComplete (t : TileUnit) (o : TileOp) : Bool :=
  (t.ended.takeWhile fun p => p.id != o.id).all fun p => p.kind == .drainHandler || p.amaxFault.isSome

/-- The stage of a strand's launch. -/
def stageOf (s : State) (core stage : Nat) : Option StageInfo :=
  (launchOf s core).bind fun l => l.stages[stage]?

/-- R135: writes the configuration word of a set. -/
def execTcfg (a : Reg) (k : BitVec 6) (s : State) : Host.Outcome State Fault Refusal :=
  issue (.tcfg a k) (fun cx => { src := [a], illegal := tileIllegal cx, sync := .tile
                                 operands := [a], invalid := fun x => !tcfgValid (x a) }) s fun v =>
    if !tcfgValid (v.x a) then .error (.trap .illegal (headTail (.tcfg a k)))
    else .ok { s := setTset v.s v.cx.core k.toNat 0 (v.x a), st := v.cx.st }

/-- R136: queues the zeroing of an accumulator. -/
def execTzero (acc : VReg) (s : State) : Host.Outcome State Fault Refusal :=
  issue (.tzero acc) (fun cx => { illegal := tileIllegal cx, sync := .tile }) s fun v =>
    acceptTile v (newTile v .zero acc 0 none) []

/-- R135: writes the amax word address of a set. -/
def execTamax (a : Reg) (k : BitVec 6) (s : State) : Host.Outcome State Fault Refusal :=
  issue (.tamax a k) (fun cx => { src := [a], illegal := tileIllegal cx, sync := .tile }) s fun v =>
    if (v.x a).toNat % 4 ≠ 0 then .error (.trap .misaligned (v.x a))
    else .ok { s := setTset v.s v.cx.core k.toNat 1 (v.x a), st := v.cx.st }

/-- R135: writes the handler entry of a set. -/
def execTrowh (a : Reg) (k : BitVec 6) (s : State) : Host.Outcome State Fault Refusal :=
  issue (.trowh a k) (fun cx => { src := [a], illegal := tileIllegal cx, sync := .tile }) s fun v =>
    let write : Except Stop Done := .ok { s := setTset v.s v.cx.core k.toNat 2 (v.x a), st := v.cx.st }
    if v.x a = 0 then write
    else match checkHead v.s (partyOf v.cx.core v.cx.st) (v.x a) with
    | .good | .malformed _ true => write
    | .bad | .malformed _ false => .error (.trap .targetBad (v.x a))
    | .miss page => .error (.miss page 2)

/-- R152: the supervisor strand lets a stopped unit go on from ROWPROG, translating afresh. -/
def execTresume (s : State) : Host.Outcome State Fault Refusal :=
  issue .tresume (fun cx => { illegal := !isDense cx.core || cx.st.kind == .porter || cx.st.kind == .handler
                              privileged := true, sync := .tile }) s fun v =>
    match stoppedOp (v.s.core v.cx.core).tile with
    | none => results v []
    | some o => .ok { s := setTileOp (clearStop v.s v.cx.core) v.cx.core { o with wait := none }, st := v.cx.st }

/-- R152: the supervisor strand discards the stopped operation and every queued operation of the same slot. -/
def execTabort (s : State) : Host.Outcome State Fault Refusal :=
  issue .tabort (fun cx => { illegal := !isDense cx.core || cx.st.kind == .porter || cx.st.kind == .handler
                             privileged := true, sync := .tile }) s fun v =>
    match stoppedOp (v.s.core v.cx.core).tile with
    | none => results v []
    | some o => .ok { s := abortSlot (clearStop v.s v.cx.core) v.cx.core o.slot, st := v.cx.st }

/-- R137: queues a multiply of operands in memory. -/
def execTmma (acc : VReg) (a b : Reg) (k : BitVec 2) (zero : Bool) (cn : Option (BitVec 4)) (s : State) : Host.Outcome State Fault Refusal :=
  issue (.tmma acc a b k zero cn)
    (fun cx => { src := [a, b], sync := .tile
                 illegal := tileIllegal cx || !mmaValid (tsetWord (s.core cx.core).tile k.toNat 0) false }) s fun v =>
    multiply v { newTile v .mma acc k.toNat cn with a := v.x a, b := v.x b, zero := zero }

/-- R137: queues a multiply with operands in scratchpad as selected. -/
def execTmmas (acc : VReg) (a b : Reg) (k : BitVec 2) (zero : Bool) (sel : BitVec 2) (cn : Option (BitVec 4)) (s : State) : Host.Outcome State Fault Refusal :=
  issue (.tmmas acc a b k zero sel cn)
    (fun cx => { src := [a, b], sync := .tile
                 illegal := tileIllegal cx || !mmaValid (tsetWord (s.core cx.core).tile k.toNat 0) false }) s fun v =>
    multiply v { newTile v .mmas acc k.toNat cn with a := v.x a, b := v.x b, zero := zero, sel := sel.toNat }

/-- R137: queues a multiply of MX operands with their scales. -/
def execTmmax (acc : VReg) (a b sa sb : Reg) (k : BitVec 2) (zero : Bool) (sel : BitVec 2) (cn : Option (BitVec 4)) (s : State) : Host.Outcome State Fault Refusal :=
  issue (.tmmax acc a b sa sb k zero sel cn)
    (fun cx => { src := [a, b, sa, sb], sync := .tile
                 illegal := tileIllegal cx || !mmaValid (tsetWord (s.core cx.core).tile k.toNat 0) true }) s fun v =>
    multiply v { newTile v .mmax acc k.toNat cn with
      a := v.x a, b := v.x b, sa := v.x sa, sb := v.x sb, zero := zero, sel := sel.toNat }

/-- The alignment of a row operand in memory (R142, R144). -/
def rowMisaligned (spad : Bool) (a b : Word) : Option Word :=
  if spad then none else if a.toNat % 64 ≠ 0 then some a else if b.toNat % 64 ≠ 0 then some b else none

/-- R142: queues the loading of an accumulator. -/
def execTlacc (acc : VReg) (a stride : Reg) (k : BitVec 2) (spad : Bool) (cn : Option (BitVec 4)) (s : State) : Host.Outcome State Fault Refusal :=
  issue (.tlacc acc a stride k spad cn) (fun cx => { src := [a, stride], illegal := tileIllegal cx, sync := .tile }) s
    fun v => match rowMisaligned spad (v.x a) (v.x stride) with
      | some w => .error (.trap .misaligned w)
      | none =>
        let o := { newTile v .lacc acc k.toNat cn with a := v.x a, b := v.x stride, sel := if spad then 1 else 0 }
        acceptTile v o [rowSpan o false spad 256]

/-- R142: queues the storing of an accumulator. -/
def execTsacc (acc : VReg) (a stride : Reg) (k : BitVec 2) (spad : Bool) (cn : Option (BitVec 4)) (s : State) : Host.Outcome State Fault Refusal :=
  issue (.tsacc acc a stride k spad cn) (fun cx => { src := [a, stride], illegal := tileIllegal cx, sync := .tile }) s
    fun v => match rowMisaligned spad (v.x a) (v.x stride) with
      | some w => .error (.trap .misaligned w)
      | none =>
        let o := { newTile v .sacc acc k.toNat cn with a := v.x a, b := v.x stride, sel := if spad then 1 else 0 }
        acceptTile v o [rowSpan o true spad 256]

/-- R143, R144: queues a drain to memory, scratchpad or a port; an amax word is checked as a far atomic at issue. -/
def execTdrain (acc : VReg) (dest stride : Reg) (k : BitVec 2) (t : ElemTy) (rm : Rnd) (kind : BitVec 2) (sat : Bool) (cn : Option (BitVec 4)) (s : State) : Host.Outcome State Fault Refusal :=
  issue (.tdrain acc dest stride k t rm kind sat cn)
    (fun cx => { src := if kind = 2 then [] else [dest, stride]
                 named := if kind = 2 then [(portNum dest, some true)] else []
                 illegal := tileIllegal cx, sync := .tile }) s fun v =>
    let word := tsetWord (v.s.core v.cx.core).tile k.toNat 1
    let mode := resolveRnd v.cx.st rm
    match if kind = 2 then none else rowMisaligned (kind == 1) (v.x dest) (v.x stride) with
    | some w => .error (.trap .misaligned w)
    | none =>
      match if word = 0 then .ok [] else accessCells v.s (partyOf v.cx.core v.cx.st) .die true false word 4 true with
      | .error f => .error f.stop
      | .ok _ =>
        let v := { v with s := if word = 0 then v.s else touchEnds v.s v.cx.core word 4 }
        let o := { newTile v .drain acc k.toNat cn with
          a := if kind = 2 then 0 else v.x dest, b := if kind = 2 then 0 else v.x stride, dest := kind.toNat
          queue := ((portOf v.cx.st (portNum dest)).map (·.queue)).getD 0, dtype := t, rm := mode, sat := sat
          amax := word, amaxDone := word == 0 }
        acceptTile v o (if kind = 2 then [] else [rowSpan o true (kind == 1) (bytesOf t 64)]) (mode == .sto)

/-- R145: queues a drain that starts a row handler for each row. -/
def execTdrainHandler (acc : VReg) (dest stride arg : Reg) (k : BitVec 2) (cn : Option (BitVec 4)) (s : State) : Host.Outcome State Fault Refusal :=
  issue (.tdrainHandler acc dest stride arg k cn)
    (fun cx => { src := [dest, stride, arg], sync := .tile
                 illegal := tileIllegal cx || tsetWord (s.core cx.core).tile k.toNat 2 == 0
                   || !(stageOf s cx.core cx.st.stage).any fun g => 1 ≤ g.reserve }) s fun v =>
    acceptTile v { newTile v .drainHandler acc k.toNat cn with
      a := v.x dest, b := v.x stride, sa := v.x arg, handler := tsetWord (v.s.core v.cx.core).tile k.toNat 2
      ports := v.cx.st.ports.map fun p => (p.1, { p.2 with target := 0 }) } []

/-- Whether a row handler of an earlier row of the same drain is still live (R148). -/
def earlierRow (s : State) (core : Nat) (drain : Option (Nat × Nat)) : Bool :=
  match drain with
  | some (op, i) => s.live.any fun e => e.1 == core && decide (e.2.1 < 160) && e.2.2.drain.any fun d => d.1 == op && d.2 + 1 == i
  | none => false

/-- R148: a row handler converts its row, writes it out and ends; its outstanding stores are performed after it. -/
def execRowout (dest m : Reg) (swz : BitVec 6) (t : ElemTy) (rm : Rnd) (kind : BitVec 2) (sat : Bool) (s : State) : Host.Outcome State Fault Refusal :=
  issue (.rowout dest m swz t rm kind sat)
    (fun cx => { src := if kind = 2 then [m] else [dest, m], vsrc := [0, 1, 2, 3]
                 named := if kind = 2 then [(portNum dest, some true)] else []
                 illegal := cx.st.kind != .handler || !isDense cx.core, sync := .tile }) s fun v =>
    let st := v.cx.st
    let mode := resolveRnd st rm
    let on := fun (j : Nat) => m == Reg.zero || bit (v.x m) j
    let out := (List.range 64).map fun j =>
      convert .f32 t (lane 32 (v.v (Fin.ofNat _ (j / 16))) (j % 16)) mode sat (if mode = .sto then drawOf v.s v.cx j else 0)
    let flags := BitVec.ofNat 64 (out.foldl (fun f y => f ||| y.2) 0)
    let size := widthOf t / 8
    let cols := (List.range 64).filter on
    let done := fun (s : State) (st : Strand) =>
      (.ok { s := s, st := st, flags := flags, sto := mode == .sto, ends := true } : Except Stop Done)
    let drain := st.drain.map fun d => v.cx.core * 2 ^ 40 + d.1
    if !(ghostOf st).pend.isEmpty && (ghostPlace v.s v.cx.core).isNone then .error .stall
    else
    match kind.toNat with
    | 2 =>
      let bs := out.zipIdx.flatMap fun y => leBytes size (if on y.2 then y.1.1 else 0)
      if fenced v.s st || earlierRow v.s v.cx.core st.drain then .error .stall
      else if !hasRoom v.s st (portNum dest) (bs.length / 8) then .error (.keep (waitRoom v.s st (portNum dest)))
      else
        let p := (List.range (bs.length / 8)).foldl (fun p i =>
          pushPort p.1 p.2 (portNum dest) 0 (some (BitVec.ofNat 64 (ofLe ((bs.drop (8 * i)).take 8)))) (drain := drain)) (v.s, st)
        done p.1 p.2
    | 1 =>
      let c := v.s.core v.cx.core
      let place := fun (j : Nat) => (v.x dest).toNat + j * size
      match cols.find? fun j => spadLocked c st.spadBase st.spadSize (place j) size none with
      | some j => .error (.trap .rangeLocked (BitVec.ofNat 64 (place j % st.spadSize)))
      | none =>
        if cols.any fun j => spadStoreWaits v.s v.cx.core st (place j) size then .error .stall
        else
        let c := cols.foldl (fun c j =>
          spadWrite c st.spadBase st.spadSize (swz.toNat % 4) (place j) (leBytes size (out.getD j (0, 0)).1)) c
        done (v.s.setCore v.cx.core c) st
    | _ =>
      let as := cols.map fun j => (j, v.x dest + BitVec.ofNat 64 (j * size))
      if as.isEmpty then done v.s st
      else if (ghostPlace v.s v.cx.core).isNone then .error .stall
      else match storeLanes v size (fun j => (out.getD j (0, 0)).1) as with
      | .error e => .error e
      | .ok d => done d.s d.st

/-- The progress of a multiply in the register (R140): the row and the chunk. -/
def progress (t : TileUnit) (o : TileOp) : TileUnit :=
  match o.kind with
  | .mma | .mmas | .mmax => { t with rowprog := (t.rowprog &&& ~~~(0x3F7F : Word)) ||| put o.row 8 ||| put (o.chunk % 128) 0 }
  | _ => t

/-- R132, R140: the unit begins, or goes on with, the operation at the head of its queue: one row step. -/
def execTileOpStart (core : Nat) (s : State) : Host.Outcome State Fault Refusal :=
  match (s.core core).tile.queue.head? with
  | none => .next s
  | some o =>
    if !tileMayWork s core o then .next s
    else match tileRow s core o with
    | .next s o' =>
      let s := setTile s core (progress (s.core core).tile o')
      .next (noteMoved (if unitEnded o' then endUnitPart s core o' else setTileOp s core o') core)
    | .hold s => .next s
    | .miss page need => .next (tileMiss s core o page need)
    | .fault w => .next (setTile s core { (s.core core).tile with fault := some w })

/-- R150: a fault stops the unit and is recorded in ROWPROG. -/
def execTileUnitStop (core : Nat) (s : State) : Host.Outcome State Fault Refusal :=
  let t := (s.core core).tile
  match t.fault, t.queue.head? with
  | some w, some o => .next (setTile s core { t with rowprog := rowprogWord o, stopValue := w, fault := none, taken := false })
  | _, _ => .next s

/-- Whether a push of a drain to a port is not yet poppable: it is a write of the drain (R132, R190, R212). -/
def drainPushing (s : State) (o : TileOp) : Bool :=
  o.kind == .drain && o.dest == 2 && (s.queue o.queue).any fun q =>
    (q.transit ++ q.held ++ q.round).any fun e => e.engine && e.gen == o.gen && e.seq == o.seq

/-- Whether a store of a row handler that has ended is not yet performed (R149). -/
def rowsPending (s : State) (core : Nat) (o : TileOp) : Bool :=
  s.live.any fun e => e.1 == core && decide (160 ≤ e.2.1) && (e.2.2.drain.any fun d => d.1 == o.id)
    && e.2.2.pend.any fun a => match a.op with | .store _ => true | _ => false

/-- R132, R149: an operation completes, in acceptance order but for drains with handlers, which complete with their last row. -/
def execTileOpComplete (core op : Nat) (s : State) : Host.Outcome State Fault Refusal :=
  let t := (s.core core).tile
  match t.ended.find? fun o => o.id == op with
  | none => .next s
  | some o =>
    let ready := if o.kind = .drainHandler then decide (64 ≤ o.rowsDone) && !rowsPending s core o
      else mayComplete t o && o.amaxDone && o.amaxFault.isNone && !drainPushing s o
    .next (if ready && !(s.core core).preempted then completeTile s core o else s)

/-- R144: after the unit part of a drain, the far atomic maximum on its amax word is performed, or fails; on a word that another operation holds registered as read it fails with cause 0x0E (log 102). -/
def execAmaxAtomic (core op : Nat) (s : State) : Host.Outcome State Fault Refusal :=
  match (s.core core).tile.ended.find? fun o => o.id == op with
  | none => .next s
  | some o =>
    let failed := fun (c : Nat) =>
      let s := setTileOp s core { o with amaxFault := some (stopWord o.amax c), wait := none }
      s.setCore core (releaseLocks (s.core core) o.id)
    if o.amaxDone || o.amaxFault.isSome || (o.wait.any fun w => w.2 == 0) then .next s
    else match accessCells s (partyTile core o) .die true false o.amax 4 true with
    | .error (.miss page need) => .next (tileMiss s core o page need)
    | .error .wait => .next s
    | .error (.trap c _) => .next (failed c.code)
    | .ok cells =>
      if memLocked (s.core core) o.amax 4 (some o.id) then .next (failed Cause.rangeLocked.code)
      else if cells.any (isPoisoned s) then .next (failed 0x13)
      else
        let old := BitVec.ofNat 64 (ofLe (readCells s cells))
        let new := amoNew .maxw false old (BitVec.ofNat 64 o.max.toNat) 0
        let s := touchEnds s core o.amax 4
        .next (storeCells (setTileOp s core { o with amaxDone := true, wait := none }) (pairWrites cells new.toNat) o.depth)

/-- The strand of a row handler (R146). -/
def rowStrand (s : State) (o : TileOp) (row : List (BitVec 32)) : Strand :=
  let i := o.row
  let v := fun (k : Nat) => ofLanes 32 (((row.drop (16 * k)).take 16).map BitVec.toNat)
  let xs : Tab Word := []
  let vs : Tab VWord := []
  { kind := .handler, gen := s.nextGen, stage := o.stage, rank := i, lid := o.lid
    xs := (((xs.set 0 1 (BitVec.ofNat 64 i)).set 0 2 (o.a + BitVec.ofNat 64 i * o.b)).set 0 3 (BitVec.ofNat 64 o.acc)).set 0 4 o.sa
    vs := (((vs.set 0 0 (v 0)).set 0 1 (v 1)).set 0 2 (v 2)).set 0 3 (v 3)
    ports := o.ports, pc := o.handler, level := o.level, depth := o.depth, drain := some (o.id, i), acts := some o.gen
    spadBase := o.spadBase, spadSize := o.spadSize }

/-- R145: a row is copied into a row handler that starts in the lowest free reserved slot of the drain's stage. -/
def execRowHandlerDispatch (core : Nat) (s : State) : Host.Outcome State Fault Refusal :=
  let c := s.core core
  match c.tile.queue.head? with
  | none => .next s
  | some o =>
    if o.kind ≠ .drainHandler || !tileMayWork s core o || 64 ≤ o.row then .next s
    else match c.reserved.find? fun r => r.2 == o.stage && slotFree s core r.1 with
    | none => .next s
    | some (slot, _) =>
      if accBad c.tile o.acc o.row then .next (setTile s core { c.tile with fault := some (stopWord 0 0x13) })
      else
        let prio := ((stageOf s core o.stage).map (·.prio)).getD o.level
        let st := { rowStrand s o (accRow c.tile o.acc o.row) with level := prio }
        let s := { s.setStrand core slot st with nextGen := s.nextGen + 1 }
        let o' := { o with row := o.row + 1 }
        .next (noteMoved (if unitEnded o' then endUnitPart s core o' else setTileOp s core o') core)

end Sys2Proof.Machine
end

