-- ==== Sys2Proof/Machine/Merge.lean ====
section
/-! DEFINITION. The merge unit of sparse cores: configuration, runs, segments and their tokens, status and faults (R153 to R159). -/

namespace Sys2Proof.Machine

/-- A merge instruction on a dense core or a scrivener, or in a porter or supervisor strand (R131, R153). -/
def mergeIllegal (cx : Ctx) : Bool := !isSparse cx.core || cx.st.kind == .porter || cx.st.kind == .supervisor

/-- Writes the merge unit of a core. -/
def setMerge (s : State) (core : Nat) (m : MergeUnit) : State := s.setCore core { s.core core with merge := m }

/-- Pair number k of a ring fibre: its scratchpad offset (R153, R154). -/
def pairOff (f : Fibre) (k : Nat) : Nat := f.off + 8 * k

/-- What a fibre shows (R156): exhausted, no head element, a token, a pair (coordinate, value), or an element or pair
with an uncorrectable error and its offset. -/
inductive FibreHead where
  | ended
  | none
  | token (tag : Nat) (payload : Word)
  | pair (coord : Nat) (value : BitVec 32)
  | bad (off : Nat)
deriving DecidableEq, Repr

/-- The head of a fibre (R153, R156). -/
def fibreHead (s : State) (core : Nat) (f : Fibre) : FibreHead :=
  let c := s.core core
  if f.isQueue then
    match headForGen s core f.gen f.port f.queue with
    | none => .none
    | some e =>
      if e.bad then .bad 0
      else if e.tag ≠ 0 then .token e.tag (e.data.getD 0)
      else .pair (bits (e.data.getD 0) 31 0) (BitVec.ofNat 32 (bits (e.data.getD 0) 63 32))
  else if f.count ≤ f.pos then .ended
  else
    let o := pairOff f f.pos
    match spadBad c c.merge.spadBase c.merge.spadSize 0 o 8 with
    | some w => .bad w
    | none =>
      let bs := spadRead c c.merge.spadBase c.merge.spadSize 0 o 8
      .pair (ofLe (bs.take 4)) (BitVec.ofNat 32 (ofLe (bs.drop 4)))

/-- The heads of all fibres, fibre 0 first. -/
def fibreHeads (s : State) (core : Nat) : List FibreHead := (s.core core).merge.fibres.map (fibreHead s core)

/-- The coordinate of an open fibre's head. -/
def FibreHead.coord : FibreHead → Option Nat
  | .pair c _ => .some c
  | _ => Option.none

/-- Whether every queue fibre has a head element. -/
def headsReady (hs : List FibreHead) : Bool := hs.all (· != .none)

/-- Pops the head pair of fibre number k (R156): a coordinate below the last one popped sets order. -/
def popFibre (s : State) (core k coord : Nat) : State :=
  let m := (s.core core).merge
  match m.fibres[k]? with
  | none => s
  | some f =>
    let s := if f.isQueue then popForGen s core f.gen f.port f.queue else s
    let f' := { f with pos := f.pos + 1, last := some coord }
    setMerge (noteMoved s core) core { m with fibres := m.fibres.set k f', order := m.order || f.last.any fun c => decide (coord < c) }

/-- The sum of R98 and R156. -/
def mergeSum (sum : Option (BitVec 32)) (v : BitVec 32) : BitVec 32 :=
  match sum with
  | none => v
  | some x => accumulate x v.toNat

/-- An uncorrectable error where a run writes its next pair (R159): its offset. -/
def outputBad (c : Core) (r : MergeRun) : Option Nat :=
  if r.toPort then none else spadBad c r.spadBase r.spadSize 0 (r.out + 8 * c.merge.pairs) 8

/-- Emits a pair (R155, R156): written at the next pair offset, or pushed; without a credit the run waits its turn (R295),
and an error where it writes leaves the pair to the fault (R159). -/
def emitPair (s : State) (core : Nat) (r : MergeRun) (coord : Nat) (v : BitVec 32) : State :=
  let c := s.core core
  let m := { c.merge with pairs := c.merge.pairs + 1, run := some { r with cur := none, fibre := 0, sum := none } }
  if r.toPort then
    match s.queue r.out with
    | none => s
    | some q =>
      if creditsOf q r.gen = 0 then awaitCredit s r.out { rank := r.rank, gen := r.gen, op := some r.op }
      else setMerge (sendElem (noteMoved s core) r.out {
        tag := 0, data := some (put coord 0 ||| put v.toNat 32), gen := r.gen, rank := r.rank, seq := r.seq,
        engine := true }) core m
  else if (outputBad c r).isSome then s
  else
    (noteMoved s core).setCore core
      { spadWrite c r.spadBase r.spadSize 0 (r.out + 8 * c.merge.pairs) (leBytes 4 coord ++ leBytes 4 v.toNat) with
        merge := m }

/-- Goes on with the coordinate in progress until its pair is emitted, or until a fibre has no head element or the output
no room (R156). -/
def mergeGo : Nat → State → Nat → State
  | 0, s, _ => s
  | fuel + 1, s, core =>
    let m := (s.core core).merge
    match m.run with
    | none => s
    | some r => match r.cur with
      | none => s
      | some cur =>
        match m.fibres[r.fibre]? with
        | none => emitPair s core r cur (r.sum.getD 0)
        | some f =>
          let skip := mergeGo fuel (setMerge s core { m with run := some { r with fibre := r.fibre + 1 } }) core
          match fibreHead s core f with
          | .none => s
          | .bad _ => s
          | .pair coord v =>
            if coord = cur then
              let s := popFibre s core r.fibre coord
              let m := (s.core core).merge
              mergeGo fuel (setMerge s core { m with run := some { r with sum := some (mergeSum r.sum v) } }) core
            else skip
          | _ => skip

/-- The least coordinate among open heads (R156). -/
def leastCoord (hs : List FibreHead) : Option Nat := (hs.filterMap FibreHead.coord).min?

/-- The steps that one coordinate can take with what is there now. -/
def mergeFuel (s : State) (core : Nat) : Nat :=
  ((s.core core).merge.fibres.map fun f =>
    1 + (f.count - f.pos) + ((s.queue f.queue).map fun q => q.ring.length + 1).getD 0).foldl (· + ·) 2

/-- Forwards a token to the output port of a run (R156); without a credit the run waits its turn (R295). -/
def mergeToken (s : State) (r : MergeRun) (tag : Nat) (payload : Word) : Except State State :=
  if !r.toPort then .ok s
  else match s.queue r.out with
  | none => .error s
  | some q =>
    if creditsOf q r.gen = 0 then .error (awaitCredit s r.out { rank := r.rank, gen := r.gen, op := some r.op })
    else .ok (sendElem s r.out {
      tag := tag, data := some payload, gen := r.gen, rank := r.rank, seq := r.seq, engine := true })

/-- The tag and payload of a head, if it is a token. -/
def FibreHead.tok : FibreHead → Option (Nat × Word)
  | .token t p => .some (t, p)
  | _ => Option.none

/-- The status word of the merge unit (R157). -/
def mstatWord (m : MergeUnit) : Word :=
  putBit m.run.isSome 63 ||| putBit m.stopped 62 ||| putBit m.order 61 ||| putBit m.mismatch 60 ||| putBit m.fault 59
    ||| put (m.segs % 65536) 32 ||| put (m.pairs % 2 ^ 32) 0

/-- The descriptors of MCFG (R154): a kind of 2 or 3, or a port named twice, is illegal. -/
def readFibres (v : Vals) (off n : Nat) : Except Stop (List (Nat × Nat × Nat × Nat)) :=
  match spadLoad v off (16 * n) 0 with
  | .error e => .error e
  | .ok x =>
    .ok ((List.range n).map fun f =>
      let w := x / 2 ^ (128 * f)
      (w / 2 ^ 30 % 4, w / 2 ^ 27 % 8, w / 2 ^ 32 % 2 ^ 32, w / 2 ^ 64 % 2 ^ 32))

/-- R154: loads the descriptors of the fibres and clears the sticky bits. The pairs of its rings lie in the allocation of the strand that issues it, whichever strand runs them (log 103). -/
def execMcfg (a : Reg) (n : BitVec 6) (s : State) : Host.Outcome State Fault Refusal :=
  issue (.mcfg a n) (fun cx => { src := [a], illegal := mergeIllegal cx }) s fun v =>
    let st := v.cx.st
    let m := (v.s.core v.cx.core).merge
    if m.run.isSome then .error .stall
    else match readFibres v (v.x a).toNat (n.toNat + 1) with
    | .error e => .error e
    | .ok ds =>
      let ports := (ds.filter fun d => d.1 == 1).map fun d => d.2.1
      if ds.any (fun d => decide (2 ≤ d.1)) || !decide ports.Nodup then .error (.trap .illegal (headTail (.mcfg a n)))
      else match ports.find? fun p => !isConsumer st p with
      | some p => .error (.trap .queueUnbound (BitVec.ofNat 64 p))
      | none =>
        let fibres := ds.map fun d => ({
          isQueue := d.1 == 1, queue := if d.1 == 1 then ((portOf st d.2.1).map (·.queue)).getD 0 else 0,
          gen := st.queueGen, port := d.2.1, count := if d.1 == 1 then 0 else d.2.2.1, off := d.2.2.2 } : Fibre)
        .ok { st := st
              s := setMerge v.s v.cx.core { m with fibres := fibres, spadBase := st.spadBase, spadSize := st.spadSize
                                                   order := false, mismatch := false } }

/-- R155: starts a run; each run begins its rings at their first pair. -/
def execMrun (out : Reg) (port : Bool) (tag : BitVec 3) (cn : Option (BitVec 4)) (s : State) : Host.Outcome State Fault Refusal :=
  issue (.mrun out port tag cn)
    (fun cx => { src := if port then [] else [out], named := if port then [(portNum out, some true)] else []
                 illegal := mergeIllegal cx }) s fun v =>
    let st := v.cx.st
    let c := v.s.core v.cx.core
    let m := c.merge
    if m.run.isSome || 63 ≤ st.tl then .error .stall
    else
      let rings := m.fibres.filter fun f => !f.isQueue && f.count != 0
      let locks := rings.map fun f => ({
        index := 0, op := c.nextOp, written := false, spad := true, chan := none, slot := v.cx.slot, engine := 1,
        first := f.off % m.spadSize, span := Nat.min (8 * f.count) m.spadSize - 1, base := m.spadBase,
        size := m.spadSize } : RangeLock)
      match takeLocks c locks with
      | none => .error .stall
      | some c =>
        let r : MergeRun := {
          slot := v.cx.slot, gen := st.gen, op := c.nextOp, toPort := port
          out := if port then ((portOf st (portNum out)).map (·.queue)).getD 0 else (v.x out).toNat
          tag := tag.toNat, cn := cn.map BitVec.toNat, spadBase := st.spadBase, spadSize := st.spadSize
          seq := st.nextSeq, rank := st.rank }
        let m := { m with run := some r, fibres := m.fibres.map (fun f => { f with pos := 0, last := none })
                          stopped := false, fault := false, segs := 0, pairs := 0, stopAsked := false }
        .ok { s := v.s.setCore v.cx.core { c with merge := m, nextOp := c.nextOp + 1 }
              st := { st with tl := st.tl + 1, nextSeq := st.nextSeq + 1 } }

/-- R157: the status word. -/
def execMstat (d : Reg) (s : State) : Host.Outcome State Fault Refusal :=
  issue (.mstat d) (fun cx => { dst := [d], illegal := mergeIllegal cx }) s fun v =>
    results v [(d, mstatWord (v.s.core v.cx.core).merge)]

/-- R158: asks the active run to end after the coordinate in progress. -/
def execMstop (s : State) : Host.Outcome State Fault Refusal :=
  issue .mstop (fun cx => { illegal := mergeIllegal cx }) s fun v =>
    let m := (v.s.core v.cx.core).merge
    .ok { s := setMerge v.s v.cx.core { m with stopAsked := m.run.isSome }, st := v.cx.st }

/-- R156: the unit sums one coordinate across the fibres, as far as their heads and the output's room let it, and emits its pair. -/
def execMergeEmit (core : Nat) (s : State) : Host.Outcome State Fault Refusal :=
  let c := s.core core
  let hs := fibreHeads s core
  match c.merge.run with
  | none => .next s
  | some r =>
    if (c.preempted && r.cur.isNone) || sourceAwaited s core r.gen r.seq r.op then .next s
    else match r.cur, leastCoord hs with
    | some _, _ => .next (mergeGo (mergeFuel s core) s core)
    | none, some k =>
      if !headsReady hs || hs.any (fun h => match h with | .bad _ => true | _ => false) || c.merge.stopAsked then .next s
      else
        let s' := setMerge s core { c.merge with run := some { r with cur := some k, fibre := 0, sum := none } }
        .next (mergeGo (mergeFuel s core) s' core)
    | none, none => .next s

/-- R156, R158: at the end of a segment the unit forwards a token or completes; a run asked to stop completes. -/
def execMergeToken (core : Nat) (s : State) : Host.Outcome State Fault Refusal :=
  let c := s.core core
  let m := c.merge
  let hs := fibreHeads s core
  match m.run with
  | none => .next s
  | some r =>
    if c.preempted || r.cur.isSome then .next s
    else if m.stopAsked then .next (completeMerge (setMerge s core { m with stopped := true }) core r)
    else if !headsReady hs || (leastCoord hs).isSome || hs.any (fun h => match h with | .bad _ => true | _ => false) then .next s
    else match (hs.filterMap FibreHead.tok).head? with
    | none =>
      if r.tag = 0 then .next (completeMerge s core r)
      else match mergeToken s r r.tag 0 with
        | .error s => .next s
        | .ok s => .next (completeMerge s core r)
    | some (tag, payload) =>
      let toks := hs.filterMap FibreHead.tok
      match mergeToken s r tag payload with
      | .error s => .next s
      | .ok s =>
        let s := (m.fibres.filter (·.isQueue)).foldl (fun s f => popForGen s core f.gen f.port f.queue) (noteMoved s core)
        let s := setMerge s core { m with segs := m.segs + 1, mismatch := m.mismatch || toks.any fun t => t.1 != tag }
        .next (if tag = 4 then completeMerge s core r else s)

/-- R159, R407: an uncorrectable error in a ring, in an element or where a pair is written ends the run; its strand traps at its next sync point. -/
def execMergeFault (core : Nat) (s : State) : Host.Outcome State Fault Refusal :=
  let c := s.core core
  let m := c.merge
  let hs := fibreHeads s core
  let due := match m.run with
    | some r => if r.cur.isNone then hs
      else match hs[r.fibre]? with
        | some h => [h]
        | none => ((outputBad c r).map FibreHead.bad).toList
    | none => []
  match m.run, due.findSome? fun h => match h with | .bad o => some o | _ => none with
  | some r, some o =>
    if c.preempted && r.cur.isNone then .next s
    else
      let r' := { r with fault := some (stopWord (BitVec.ofNat 64 o) 0x13) }
      .next (s.setCore core
        { releaseLocks c r.op with merge := { m with run := none, failed := m.failed ++ [r'], fault := true, stopAsked := false } })
  | _, _ => .next s

end Sys2Proof.Machine
end

