-- ==== Sys2Proof/Machine/System.lean ====
section
/-! DEFINITION. System registers, TLB and CLB maintenance, page migration, ECALL, EBREAK and REPART (R336 to R344, R355, R358 to R362, R388). -/

namespace Sys2Proof.Machine

/-! CSRs (R358, R359). -/

/-- Whether a number names a word of a configuration set (R358). -/
def isTsetCsr (n : Nat) : Bool := decide (0x010 ≤ n) && decide (n ≤ 0x01F) && n % 4 != 3

/-- Whether a number names a wp register. -/
def isWpCsr (n : Nat) : Bool := decide (0x020 ≤ n) && decide (n ≤ 0x027)

/-- Whether a number names a register of a core (R358): tile registers on dense cores, MISSQ on scriveners. -/
def csrAssigned (core n : Nat) : Bool :=
  n == 0 || n == 1 || isWpCsr n || ((isTsetCsr n || n == 0x110) && isDense core) || (n == 0x150 && isScrivener core)
    || [0x100, 0x101, 0x102, 0x103, 0x104, 0x105, 0x120, 0x121, 0x122, 0x130, 0x131, 0x132, 0x133, 0x134, 0x140, 0x141,
        0x142, 0x143, 0x160, 0x161, 0x162].contains n

/-- Whether user strands may read a register (R358). -/
def csrUserReads (n : Nat) : Bool := decide (n < 0x100)

/-- Whether user strands may write a register (R358). -/
def csrUserWrites (n : Nat) : Bool := n == 0 || n == 1

/-- Whether the supervisor level may write a register (R358). -/
def csrWritable (n : Nat) : Bool :=
  n == 0 || n == 1 || isTsetCsr n || [0x101, 0x102, 0x103, 0x104, 0x105, 0x120, 0x130, 0x160, 0x161].contains n

/-- Whether a CSR write is illegal (R359): no such register, read-only at the issuing level and at supervisor level, or a
set or clear of VPOOLPUSH. -/
def csrWriteIllegal (cx : Ctx) (n : Nat) (modify : Bool) : Bool :=
  !csrAssigned cx.core n || (!csrWritable n && (csrUserReads n || !cx.st.isUser)) || (modify && n == 0x161)

/-- RLOCKB of an entry (R207). -/
def rlockb (l : RangeLock) : Word :=
  putBit true 63 ||| putBit l.written 62 ||| putBit l.spad 61 ||| putBit l.chan.isSome 60 ||| put (l.chan.getD 0) 57
    ||| put (if l.slot < 16 then l.slot else 0) 53 ||| put l.engine 50 ||| putBit (l.slot == porterSlot) 49
    ||| put (l.span % 2 ^ 48) 0

/-- The range-lock entry that RLOCKSEL selects. -/
def selectedLock (c : Core) : Option RangeLock := c.locks.find? fun l => l.index == c.rlocksel

/-- wpN (R244). -/
def wpWord (h : Channel) : Word :=
  putBit h.busy 63 ||| put (h.slot % 16) 59 ||| put (h.stop % 2 ^ 20) 20 ||| put (h.wp % 2 ^ 20) 0

/-- The value of a register that reading does not change (R358); a write-only one reads 0 (R5). -/
def csrWord (s : State) (core : Nat) (st : Strand) (n : Nat) : Word :=
  let c := s.core core
  let part := partitionOf s core
  if n = 0 then st.fstat
  else if n = 1 then st.srcnt
  else if isTsetCsr n then tsetWord c.tile ((n - 0x010) / 4) (n % 4)
  else if isWpCsr n then wpWord (c.channels.get {} (n - 0x020))
  else match n with
  | 0x100 => strandcfg s core
  | 0x101 => c.ecause
  | 0x102 => c.evalue
  | 0x103 => c.epc
  | 0x104 => c.estrand
  | 0x105 => c.svec
  | 0x110 => c.tile.rowprog
  | 0x120 => BitVec.ofNat 64 c.rlocksel
  | 0x121 => ((selectedLock c).map fun l => BitVec.ofNat 64 l.first).getD 0
  | 0x122 => ((selectedLock c).map rlockb).getD 0
  | 0x130 => BitVec.ofNat 64 c.wsel
  | 0x131 => (((s.die (dieOf core)).watch.find c.wsel).map fun e => watchWord e 0).getD 0
  | 0x132 => (((s.die (dieOf core)).watch.find c.wsel).map fun e => watchWord e 1).getD 0
  | 0x133 => (((s.die (dieOf core)).watch.find c.wsel).map fun e => watchWord e 2).getD 0
  | 0x134 => (((s.die (dieOf core)).watch.find c.wsel).map fun e => watchWord e 3).getD 0
  | 0x140 => (part.map fun p => BitVec.ofNat 64 p.1).getD 0
  | 0x141 => (part.map fun p => p.2.partreg).getD 0
  | 0x142 => (part.map fun p => put (p.2.otbase % 2 ^ 48 / 64 * 64) 0).getD 0
  | 0x143 => (part.map fun p => put (p.2.otcount % 2 ^ 17) 0).getD 0
  | 0x160 => c.vhandle
  | _ => 0

/-- The next unread record of a scrivener as MISSQ shows it, and the cluster with the record read (R337). -/
def popMissq (s : State) (core : Nat) : State × Word :=
  let k := clusterOf core
  let cl := s.cluster k
  match cl.misses.find? fun m => !m.read with
  | none => (s, 0)
  | some m =>
    let page := if m.need = 3 then m.page / 2 ^ 32 * 2 ^ 32 else m.page
    (s.setCluster k { cl with misses := cl.misses.map fun x => if x.num == m.num then { x with read := true } else x },
      put page 16 ||| put 1 15 ||| put m.need 13 ||| put m.num 7 ||| put m.waiters 0)

/-- Writes a register other than VPOOLPUSH (R5, R358): read-only fields stay. -/
def writeCsr (s : State) (core : Nat) (st : Strand) (n : Nat) (v : Word) : State × Strand :=
  let c := s.core core
  if n = 0 then (s, { st with fstat := writeFstat st.fstat v })
  else if n = 1 then (s, { st with srcnt := v })
  else if isTsetCsr n then
    let w := if n % 4 = 0 then v &&& ~~~(put 1023 14 ||| put 3 8) else v
    (setTset s core ((n - 0x010) / 4) (n % 4) w, st)
  else match n with
  | 0x101 =>
    let act := if bits v 63 62 = 3 then bits c.ecause 63 62 else bits v 63 62
    (s.setCore core { c with ecause := put act 62 ||| (c.ecause &&& ~~~(put 3 62)) }, st)
  | 0x102 => (s.setCore core { c with evalue := v }, st)
  | 0x103 => (s.setCore core { c with epc := v }, st)
  | 0x105 => (s.setCore core { c with svec := v }, st)
  | 0x120 => (s.setCore core { c with rlocksel := bits v 4 0 }, st)
  | 0x130 => (s.setCore core { c with wsel := bits v 7 0 }, st)
  | 0x160 => (s.setCore core { c with vhandle := v }, st)
  | _ => (s, st)

/-- What a CSR write needs (R359). -/
def csrUses (cx : Ctx) (n : Nat) (src : Reg) (modify : Bool) : Uses :=
  { src := [src], illegal := csrWriteIllegal cx n modify, privileged := !csrUserWrites n }

/-- A CSR write of a function of the old value and the operand (R360). VPOOLPUSH and VPOOLCNT on a pool off the home die trap
OBJ_ABSENT with the handle, as R345 says of every access that meets a misplaced part (log 82); an error in the descriptor or
the header traps with the handle too (log 101). -/
def csrModify (v : Vals) (n : Nat) (f : Word) : Except Stop Done :=
  if n = 0x161 then
    let h := (v.s.core v.cx.core).vhandle
    match volumeOf v h 0 true h with
    | .error e => .error e
    | .ok (_, d) =>
      if !poolOnDie v.s (dieOf v.cx.core) d.pool 1 then .error (.trap .objAbsent h)
      else if headerPoisoned v.s d.pool then .error (volumePoison h)
      else .ok { s := poolPush (v.touched h).s d.pool f.toNat, st := v.cx.st }
  else
    let r := writeCsr v.s v.cx.core v.cx.st n f
    .ok { s := r.1, st := r.2 }

/-- R360: reads a register. -/
def execCsrr (d : Reg) (csr : BitVec 12) (s : State) : Host.Outcome State Fault Refusal :=
  issue (.csrr d csr)
    (fun cx => { dst := [d], illegal := !csrAssigned cx.core csr.toNat, privileged := !csrUserReads csr.toNat }) s fun v =>
    if csr = 0x150 then
      let r := popMissq v.s v.cx.core
      .ok { s := r.1, st := v.cx.st, xs := [(d, r.2)] }
    else if csr = 0x162 then
      let h := (v.s.core v.cx.core).vhandle
      match volumeOf v h 0 false h with
      | .error e => .error e
      | .ok (_, vol) =>
        if (cellsOnDie v.s (dieOf v.cx.core) vol.pool 64).isNone then .error (.trap .objAbsent h)
        else if headerPoisoned v.s vol.pool then .error (volumePoison h)
        else results (v.touched h) [(d, BitVec.ofNat 64 (poolHeader v.s vol.pool).2.2)]
    else if isWpCsr csr.toNat && v.cx.st.acquiring then .error .stall
    else results v [(d, csrWord v.s v.cx.core v.cx.st csr.toNat)]

/-- R360: writes a register. -/
def execCsrw (csr : BitVec 12) (r0 : Reg) (s : State) : Host.Outcome State Fault Refusal :=
  issue (.csrw csr r0) (fun cx => csrUses cx csr.toNat r0 false) s fun v => csrModify v csr.toNat (v.x r0)

/-- R360: sets bits of a register. -/
def execCsrset (csr : BitVec 12) (r0 : Reg) (s : State) : Host.Outcome State Fault Refusal :=
  issue (.csrset csr r0) (fun cx => csrUses cx csr.toNat r0 true) s fun v =>
    csrModify v csr.toNat (csrWord v.s v.cx.core v.cx.st csr.toNat ||| v.x r0)

/-- R360: clears bits of a register. -/
def execCsrclr (csr : BitVec 12) (r0 : Reg) (s : State) : Host.Outcome State Fault Refusal :=
  issue (.csrclr csr r0) (fun cx => csrUses cx csr.toNat r0 true) s fun v =>
    csrModify v csr.toNat (csrWord v.s v.cx.core v.cx.st csr.toNat &&& ~~~v.x r0)

/-! TLB and CLB maintenance (R336, R340, R355). -/

/-- R336: installs a translation in the cluster's TLB, or declines; the records of its span are answered. -/
def execTlbw (a b : Reg) (s : State) : Host.Outcome State Fault Refusal :=
  issue (.tlbw a b) (fun _ => {
      src := [a, b], privileged := true, operands := [a, b], invalid := fun x => tlbwIllegal (x a) (x b) }) s fun v =>
    let wa := v.x a
    let e := tlbwEntry wa (v.x b)
    let k := clusterOf v.cx.core
    if tlbwIllegal wa (v.x b) then .error (.trap .illegal (headTail (.tlbw a b)))
    else if bits wa 10 9 ≠ 0 then
      .ok { s := answerMisses v.s k e.hasPage (some (bits wa 10 9)), st := v.cx.st }
    else if !inPartreg v.s v.cx.core e.pbase (if e.kind = 1 then 64 else 2 ^ (16 + e.sc)) then
      .error (.trap .privilege (headTail (.tlbw a b)))
    else .ok { s := answerMisses (install v.s k e) k e.hasPage none, st := v.cx.st }

/-- Whether a die belongs to the partition of a core (R330). -/
def sameDies (s : State) (core d : Nat) : Bool :=
  match partOf s core with
  | some p => partOfDie s d == some p
  | none => d == dieOf core

/-- Removes entries from every TLB of a core's partition (R340). -/
def tlbDrop (s : State) (core : Nat) (p : TlbEntry → Bool) : State :=
  { s with
    cores := s.cores.map fun e =>
      if sameDies s core (dieOf e.1) then (e.1, { e.2 with tlb := e.2.tlb.filter fun t => !p t }) else e
    clusters := s.clusters.map fun e =>
      if sameDies s core (e.1 / 16) then (e.1, { e.2 with tlb := e.2.tlb.filter fun t => !p t }) else e }

/-- Whether an address belongs to an object; 0 stands for every object. -/
def ofObject (oid : Nat) (a : Word) : Bool := oidOf a != 0xFFFF && (oid == 0 || oidOf a == oid)

/-- Whether an engine operation has accesses in flight that translated through an entry of an object (R239, R340). -/
def opOut (oid : Nat) (o : EngineOp) : Bool :=
  (!o.unread.isEmpty && !o.fromSpad && ofObject oid o.src)
    || (!(o.unread.isEmpty && o.flight.isEmpty) && o.writesMemory && ofObject oid o.dst)
    || (o.fetches.any fun f => !f.unread.isEmpty && ofObject oid (o.src + f.idx * BitVec.ofNat 64 o.size))
    || (o.arr != 0 && (o.adds != 0 || !(o.unread.isEmpty && o.flight.isEmpty)) && ofObject oid o.arr)

/-- Whether a strand has an access to an object outstanding: a trim among them, and the tile that a coordinate store has in
hand (R351, R354). -/
def strandOut (oid : Nat) (st : Strand) : Bool :=
  (st.pend.any fun a => !a.performed && a.pkg.isNone && a.spans.any fun r => ofObject oid r.1)
    || st.work.any fun w => match w with | .tile o _ _ _ => oid == 0 || o == oid

/-- Whether a core has beats that will leave adds to an arrival word of an object, or such adds, to be performed (R211). -/
def addsOut (oid : Nat) (c : Core) : Bool :=
  let mine := fun (t : Transfer) => ofObject oid t.arr && t.beats.any fun b => !b.arr.isEmpty
  (c.channels.any fun h => (h.2.current.toList ++ h.2.waiting).any mine || h.2.adds.any fun a => ofObject oid a.arr)
    || c.spill.any fun e => match e with | .beats _ t => mine t | .message _ => false

/-- Whether an outstanding access of the partition may have translated through an entry of an object (R340); 0 stands for
every object. -/
def accessOut (s : State) (core oid : Nat) : Bool :=
  (s.live.any fun e => sameDies s core (dieOf e.1) && strandOut oid e.2.2)
    || s.cores.any fun c => sameDies s core (dieOf c.1) && (c.2.ops.any (opOut oid) || addsOut oid c.2)

/-- The entries that the operands of TLBI name (R340); none when they are illegal. -/
def tlbiNames (a b : Word) : Option (TlbEntry → Bool) :=
  let oid := oidOf a
  let k := b.toNat
  if oid = 0 then (if k = 0 then some fun _ => true else none)
  else if k = 0 then some fun e => e.oid == oid
  else if 16 ≤ k ∧ k ≤ 48 then
    let lo := offOf a / 2 ^ k * 2 ^ k
    some fun e => e.oid == oid && (e.kind == 1 || (decide (e.obase < lo + 2 ^ k) && decide (lo < e.obase + 2 ^ (16 + e.sc))))
  else none

/-- A removal with acknowledgements: it is made at the first issue, and the instruction retires once the accesses that
used what was removed have been performed (R340, R355). -/
def removal (v : Vals) (remove : State → State) (busy : State → Bool) : Except Stop Done :=
  let st := v.cx.st
  if st.wait = some .removal then
    if busy v.s then .error .stall else .ok { s := v.s, st := st }
  else
    let s := remove v.s
    if busy s then .error (.keep (stall (s.setStrand v.cx.core v.cx.slot { st with wait := some .removal })))
    else .ok { s := s, st := st }

/-- R340: removes translations from every TLB of the partition. -/
def execTlbi (a b : Reg) (s : State) : Host.Outcome State Fault Refusal :=
  issue (.tlbi a b) (fun _ => {
      src := [a, b], privileged := true, operands := [a, b], invalid := fun x => (tlbiNames (x a) (x b)).isNone }) s fun v =>
    match tlbiNames (v.x a) (v.x b) with
    | none => .error (.trap .illegal (headTail (.tlbi a b)))
    | some p => removal v (fun s => tlbDrop s v.cx.core p) fun s => accessOut s v.cx.core (oidOf (v.x a))

/-- The key of the tile that holds a coordinate word of a volume, by its descriptor (R348, R355). -/
def clbiKey (s : State) (core : Nat) (h c : Word) : Option Nat :=
  match lookup s core (put (oidOf h) 48) with
  | some e => if e.kind = 1 then some ((readVolume s e.pbase).key c) else none
  | none => none

/-- R355: removes volume translations from every CLB of the die. A coordinate whose volume has no translation here removes every translation of the volume (log 112). -/
def execClbi (a b : Reg) (s : State) : Host.Outcome State Fault Refusal :=
  issue (.clbi a b) (fun _ => { src := [a, b], privileged := true }) s fun v =>
    let die := dieOf v.cx.core
    let oid := oidOf (v.x a)
    let key := if b = Reg.zero then none else clbiKey v.s v.cx.core (v.x a) (v.x b)
    let p := fun (e : ClbEntry) => a == Reg.zero || (e.oid == oid && key.all fun k => e.key == k)
    let tiles := (v.s.cores.filter fun e => dieOf e.1 == die).flatMap fun e => (e.2.clb.filter p).map (·.tile)
    if tiles.any (tileInUse v.s die) then .error .stall
    else .ok { s := clbDrop v.s die p, st := v.cx.st }

/-! Migration (R342 to R344). -/

/-- The physical address of an object page by the object table (R332). -/
def pageHome (s : State) (p : Partition) (a : Word) : Option (Nat × (Nat × Nat × Nat) × Nat) :=
  (extentFor (extentsOf s p (oidOf a)) (offOf a)).map fun x => (x.1.2.2 + (offOf a - x.1.1), x.1, x.2)

/-- Entries that a move adds to an extent list (R343): none when the extent is exactly the page. -/
def addedExtents (x : Nat × Nat × Nat) (off : Nat) : List (Nat × Nat × Nat) :=
  if x.1 = off ∧ x.2.1 = 65536 then []
  else
    let rest := x.1 + x.2.1 - (off + 65536)
    (off, 65536, 0) :: if rest = 0 then [] else [(off + 65536, rest, x.2.2 + (off + 65536 - x.1))]

/-- Whether an armed watch of the partition tracks a granule of a page (R344). -/
def pageWatched (s : State) (core : Nat) (a : Word) : Bool :=
  s.dies.any fun d => sameDies s core d.1 && d.2.watch.any fun e =>
    e.2.armed && e.2.cells.any fun c => c.2.toNat / 65536 == a.toNat / 65536

/-- The code of a request, by R344: 0 when it may go on; 6 where the object table has an uncorrectable error, as the old copy
(R405). -/
def migrCode (s : State) (core engine : Nat) (a : Word) (target : Nat) : Nat :=
  match partitionOf s core with
  | none => 1
  | some (part, p) =>
    let d0 := descWord s p (oidOf a) 0
    if a.toNat % 65536 ≠ 0 ∨ oidOf a = 0 ∨ p.otcount ≤ oidOf a then 1
    else if !tableReadable s p (oidOf a) then 6
    else match pageHome s p a with
    | none => 1
    | some (_, x, _) =>
      if !bit d0 63 || bits d0 62 61 != 0 then 1
      else if pageWatched s core a then 2
      else if bits (descWord s p (oidOf a) 3) 63 32 < bits (descWord s p (oidOf a) 3) 31 0 + (addedExtents x (offOf a)).length
      then 3
      else if target % 65536 ≠ 0 ∨ !inPartreg s core target 65536
          ∨ (regionOf s target).any (fun r => bits r.2.1 59 58 == 1) then 4
      else if (s.moves.any fun m => m.code == 0 && m.part == part && m.oid == oidOf a && m.off == offOf a)
          || decide (8 ≤ (s.moves.filter fun m => m.code == 0 && m.engine == engine).length) then 5
      else 0

/-- R342: asks a migration engine, of the hardware's choice, to move a page; xd is owed its code. -/
def execMigr (d a b : Reg) (s : State) : Host.Outcome State Fault Refusal :=
  issue (.migr d a b) (fun _ => { src := [a, b], dst := [d], privileged := true }) s fun v =>
    let engine := Config.victim v.s.free % 2
    let core := v.cx.core
    let addr := v.x a
    let st := v.cx.st
    let id := ((v.s.moves.map (·.id)).max?.getD 0) + 1
    let m : Move := {
      id := id, engine := engine, part := (partOf v.s core).getD 0, core := core, gen := st.gen, reg := xNum d,
      addr := addr, oid := oidOf addr, off := offOf addr, target := (v.x b).toNat,
      code := migrCode v.s core engine addr (v.x b).toNat }
    .ok { s := { v.s with moves := v.s.moves ++ [m], free := v.s.free + 1 }
          st := { st with owed := if xNum d = 0 then st.owed else st.owed ++ [xNum d] } }

/-- Whether a store to a page of the partition is outstanding (R343, step 2). -/
def storesOut (s : State) (core phys : Nat) : Bool :=
  let cells := (List.range 65536).filterMap fun i => cellAt s (phys + i)
  let lo := cells.min?.getD 0
  let hi := cells.max?.getD 0
  s.live.any fun e => sameDies s core (dieOf e.1) && e.2.2.pend.any fun a =>
    !a.performed && a.pkg.isNone && a.writes.any fun w => decide (lo ≤ w.1) && decide (w.1 ≤ hi) && cells.contains w.1

/-- An extent entry in memory (R332). -/
def writeExtent (s : State) (list i : Nat) (x : Nat × Nat × Nat) : State :=
  physWrite (physWrite s (list + 16 * i) (leBytes 8 (x.2.1 / 65536 * 2 ^ 32 + x.1 / 65536)))
    (list + 16 * i + 8) (leBytes 8 (x.2.2 / 65536))

/-- Updates the extents for a moved page (R343, step 4): the entry that held the page is cut in place, what is left of it is added at
the end of the list (log 113). -/
def moveExtents (s : State) (p : Partition) (oid off target : Nat) (x : Nat × Nat × Nat) (idx : Nat) : State :=
  let list := bits (descWord s p oid 2) 47 0
  let w3 := descWord s p oid 3
  let count := bits w3 31 0
  let new := addedExtents x off
  if new.isEmpty then writeExtent s list idx (x.1, x.2.1, target)
  else
    let placed := new.map fun e => if e.1 = off then (e.1, e.2.1, target) else e
    let s := placed.zipIdx.foldl (fun s e => writeExtent s list (count + e.2) e.1) s
    let s := physWrite s (p.otbase + 64 * oid + 24) (leBytes 8 (bits w3 63 32 * 2 ^ 32 + (count + placed.length)))
    writeExtent s list idx (if off = x.1 then (off, 65536, target) else (x.1, off - x.1, x.2.2))

/-- Ends a move: the list, and xd with the code (R342, R344). -/
def endMove (s : State) (m : Move) (code : Nat) : State :=
  let s := { s with moves := s.moves.filter fun n => n.id != m.id }
  match s.strand m.core supervisorSlot with
  | some st => s.setStrand m.core supervisorSlot (st.deliverX m.reg (BitVec.ofNat 64 code))
  | none => s

/-- R343: a move completes with its code: the page is copied once no store to it is outstanding, the extents are updated and the TLB entries removed. -/
def execMigrationComplete (mig : Nat) (s : State) : Host.Outcome State Fault Refusal :=
  match s.moves.find? fun m => m.id == mig with
  | none => .next s
  | some m =>
    if m.code ≠ 0 then .next (endMove s m m.code)
    else match partitionOf s m.core with
    | none => .next (endMove s m 1)
    | some (_, p) => match pageHome s p m.addr with
      | none => .next (endMove s m 1)
      | some (phys, x, idx) =>
        let w3 := descWord s p m.oid 3
        if !tableReadable s p m.oid then .next (endMove s m 6)
        else if bits w3 63 32 < bits w3 31 0 + (addedExtents x m.off).length then .next (endMove s m 3)
        else if storesOut s m.core phys || accessOut s m.core m.oid then .next s
        else
          let cells := (List.range 65536).map fun i => (cellAt s (phys + i)).getD 0
          if cells.any (isPoisoned s) then .next (endMove s m 6)
          else
            let s := physWrite s m.target (readCells s cells)
            let s := moveExtents s p m.oid m.off m.target x idx
            .next (endMove (tlbDrop s m.core fun e => e.hasPage (m.addr.toNat / 65536)) m 0)

/-! ECALL, EBREAK, REPART (R361, R362, R388). -/

/-- R361: retires and traps ECALL. -/
def execEcall (n : BitVec 7) (s : State) : Host.Outcome State Fault Refusal :=
  issue (.ecall n) (fun cx => { illegal := cx.st.kind == .supervisor }) s fun v =>
    .ok { s := v.s, st := v.cx.st, trap := some (.ecall, 0, BitVec.ofNat 64 n.toNat) }

/-- R388: retires and traps EBREAK. -/
def execEbreak (n : BitVec 7) (s : State) : Host.Outcome State Fault Refusal :=
  issue (.ebreak n) (fun cx => { illegal := cx.st.kind == .supervisor }) s fun v =>
    .ok { s := v.s, st := v.cx.st, trap := some (.ebreak, n.toNat, v.cx.st.pc) }

/-- Whether a core is quiescent (R362). -/
def quiescent (s : State) (core : Nat) : Bool :=
  let c := s.core core
  ((List.range 16).all fun t => (s.strands.find (placeKey core t)).isNone) && parkedCount s core == 0
    && c.tile.queue.isEmpty && c.tile.ended.isEmpty && c.merge.run.isNone && c.merge.failed.isEmpty && c.ops.isEmpty
    && (s.live.all fun e => e.1 != core || e.2.2.pend.all fun a => match a.op with | .fship .. => false | _ => true)
    && (c.channels.all fun h => !h.2.busy) && c.lid.isNone

/-- R362: changes the strand mode of a quiescent core. Its user slots hold no strand, so no register of theirs is left to clear. -/
def execRepart (a : Reg) (s : State) : Host.Outcome State Fault Refusal :=
  issue (.repart a) (fun cx => {
      src := [a], illegal := isScrivener cx.core, privileged := true, operands := [a]
      invalid := fun x => decide (1 < (x a).toNat) }) s fun v =>
    if 1 < (v.x a).toNat then .error (.trap .illegal (headTail (.repart a)))
    else if !quiescent v.s v.cx.core then .error (.trap .repartBusy (strandcfg v.s v.cx.core))
    else .ok { s := v.s.setCore v.cx.core { v.s.core v.cx.core with wide := v.x a == 1 }, st := v.cx.st }

end Sys2Proof.Machine
end

