-- ==== Sys2Proof/Machine/Recovery.lean ====
section
/-! DEFINITION. Events between instructions, ERET, the retiring of a strand, pre-emption, and context records (R387 to R401). -/

namespace Sys2Proof.Machine

/-! The end of a supervisor run (R387). -/

/-- Discards the tile operations of a strand's slot that have not begun, and a stopped one (R387). -/
def discardTiles (s : State) (core slot gen : Nat) : State :=
  let t := (s.core core).tile
  let stops := (stoppedOp t).any fun o => o.slot == slot && o.gen == gen
  let s := if stops then clearStop s core else s
  let ops := t.queue.filter fun o => o.slot == slot && o.gen == gen
    && (stops || o.row + o.chunk + o.part == 0 || (t.queue.head?.map (·.id)) != some o.id)
  ops.foldl (fun s o => completeTile s core o) s

/-- Discards the paused and stopped engine operations of a strand, no status written (R387). -/
def discardOps (s : State) (core gen : Nat) : State :=
  let c := s.core core
  let gone := fun (o : EngineOp) => o.gen == gen && (o.stop.isSome || o.taken || c.preempted)
  let c := (c.ops.filter gone).foldl (fun c o => releaseLocks c o.id) c
  let c := (c.merge.failed.filter fun r => r.gen == gen).foldl (fun c r => releaseLocks c r.op) c
  let run := c.merge.run.filter fun r => r.gen == gen && c.preempted
  let c := match run with | some r => releaseLocks c r.op | none => c
  s.setCore core { c with
    ops := c.ops.filter fun o => !gone o
    merge := { c.merge with failed := c.merge.failed.filter (fun r => r.gen != gen)
                            run := if run.isSome then none else c.merge.run } }

/-- retire (R387): ends a strand at once. -/
def retireStrand (s : State) (core place slot : Nat) (st : Strand) : State :=
  let s := discardOps (discardTiles s core slot st.gen) core st.gen
  let st := (s.strand core place).getD st
  endStrand s core place st

/-- The strand that ESTRAND names, if it is there (R387). -/
def namedStrand (s : State) (core : Nat) : Option (Nat × Strand) :=
  let e := (s.core core).estrand
  let slot := bits e 4 0
  match s.strand core slot with
  | some st => if decide (slot ≤ porterSlot) && st.gen % 2 ^ 32 == bits e 63 32 then some (slot, st) else none
  | none => none

/-! Events (R389 to R395). -/

/-- Withdraws the barrier arrivals of a core's strands whose round is open (R394). -/
def withdrawBars (s : State) (core : Nat) : State :=
  let gens := (s.live.filter fun e => e.1 == core && e.2.2.wait == some .barrier).map (·.2.2.gen)
  { s with
    strands := s.strands.map fun e =>
      if e.1 / 256 == core && e.2.wait == some .barrier then (e.1, { e.2 with wait := none }) else e
    launches := s.launches.map fun l => { l with rounds := l.rounds.map fun r =>
      { r with arrived := r.arrived.filter fun g => !gens.contains g } } }

/-- A core becomes pre-empted (R394, R395): faults not yet taken are forgotten, and of a stream's references in flight only the
one in progress stays. -/
def beginPreempt (s : State) (core : Nat) : State :=
  let c := s.core core
  let t := c.tile
  let t := if t.taken then { t with fault := none }
    else { t with fault := none, rowprog := t.rowprog &&& ~~~(put 1 63), stopValue := 0
                  queue := t.queue.map fun o => { o with wait := none } }
  let begun := fun (o : EngineOp) => { o with fetches := (o.fetches.take 1).filter fun f => !f.flight.isEmpty }
  let ops := (c.ops.map fun o => if o.taken then o else { o with stop := none, dead := false, wait := none }).map begun
  withdrawBars (s.setCore core { c with preempted := true, tile := t, ops := ops }) core

/-- Drops the strands saved from a core's slots (R392). -/
def dropSaved (s : State) (core : Nat) : State :=
  (List.range 17).foldl (fun s t => match s.strand core (savedPlace t) with
    | some st => endStrand s core (savedPlace t) st
    | none => s) s

/-- What the spill buffer holds is discarded: messages and beats are dropped (R206, R392). -/
def dropSpill (s : State) (core : Nat) : State :=
  (s.core core).spill.foldl (fun s e => match e with
    | .message m => acknowledge s m true
    | .beats _ t => endDest (dropBeats s t) t 2) s

/-- An event for the record ends the pre-emption of its core (R392). -/
def endForRecord (s : State) (core : Nat) : State :=
  if (s.core core).preempted then
    let s := dropSpill (dropSaved s core) core
    let c := s.core core
    s.setCore core { c with preempted := false, vacated := [], copies := [], spill := [] }
  else s

/-- EVALUE of PREEMPT and HOST_INTERRUPT (R392, R393). -/
def reasonWord (lid reason : Nat) : Word := put (reason % 256) 32 ||| put (lid % 2 ^ 32) 0

/-- A core takes a held event (R389 to R394). -/
def takeHeld (s : State) (core : Nat) (e : HeldEvent) : State :=
  let c := s.core core
  let s := s.setCore core { c with held := c.held.erase e, noAct := false }
  let forRecord := fun (s : State) => let s := endForRecord s core; s.setCore core { s.core core with noAct := true }
  match e with
  | .watchdog lid => takeEvent (forRecord s) core .watchdog 0 (put (lid % 2 ^ 32) 0) estrandNone
  | .hostInterrupt lid r => takeEvent (forRecord s) core .hostInterrupt 0 (reasonWord lid r) estrandNone
  | .preempt lid r =>
    let hot := r == 1 && (s.die (dieOf core)).unitsDown
    let s := if hot then s.setCore core { s.core core with unitsDown := true } else s
    let s := if r = 1 && !c.preempted then beginPreempt s core
      else if r = 2 && c.preempted then s.setCore core { s.core core with restoring := true, poweredDown := false } else s
    takeEvent s core .preempt 0 (reasonWord lid r) estrandNone
  | .runaway v => takeEvent s core .watchRunaway 0 v estrandNone
  | .undeliverable slot => match s.strand core slot with
    | some st =>
      let s := s.setStrand core slot { st with undeliverable := false, drops := 0, firstDrop := 0 }
      takeEvent s core .undeliverable st.pc (put (st.drops % 2 ^ 32) 32 ||| st.firstDrop) (estrandWord st slot)
    | none => s

/-- Takes the next held event, if the supervisor strand is idle (R389). -/
def takeNext (s : State) (core : Nat) : State :=
  let c := s.core core
  if c.supRunning || c.halted then s
  else match nextHeld s core with
  | some e => takeHeld s core e
  | none => s

/-- Takes an event that a test selects, when it is the next one (R389). -/
def takeWhen (s : State) (core : Nat) (p : HeldEvent → Bool) : State :=
  if (nextHeld s core).any p then takeNext s core else s

/-- Lets a channel take what has arrived at it, transfer by transfer, as far as it goes (R244). -/
def drainChannel : Nat → State → Nat → Nat → State
  | 0, s, _, _ => s
  | fuel + 1, s, core, chan =>
    let h := (s.core core).channels.get {} chan
    let s := if h.busy then deliverBeat s core chan else startTransfer s core chan
    drainChannel fuel s core chan

/-- Replays one element of the spill buffer, checked at its replay (R206, R396). -/
def replay (core : Nat) (s : State) : Spill → State
  | .message m =>
    if messageLands s m core then s.setCore core { s.core core with inbox := (s.core core).inbox ++ [m] }
    else acknowledge s m true
  | .beats chan t =>
    let s := s.setCore core (joinTransfer (s.core core) chan t)
    let h := (s.core core).channels.get {} chan
    let beats := fun (u : Transfer) => u.beats.length + 2
    drainChannel ((h.current.map beats).getD 0 + (h.waiting.map beats).foldl (· + ·) 0) s core chan

/-- Replays the spill buffer in arrival order, as far as the inbound buffer of 64 messages takes it (R384, R396): what is left
follows as the porter strand takes messages, before any later arrival (log 74). -/
def replaySpill : Nat → State → Nat → State
  | 0, s, _ => s
  | n + 1, s, core =>
    let c := s.core core
    match c.spill with
    | [] => s
    | e :: rest =>
      let full := match e with
        | .message m => messageLands s m core && decide (64 ≤ c.inbox.length)
        | .beats _ _ => false
      if full then s else replaySpill n (replay core (s.setCore core { c with spill := rest }) e) core

/-- Pre-emption ends (R401): the units may go on, the spill buffer is replayed before anything else arrives, and what waited to
start is to start before a strand of the core issues. -/
def endPreempt (s : State) (core : Nat) : State :=
  let c := s.core core
  if c.restoring then
    replaySpill c.spill.length (s.setCore core { c with preempted := false, restoring := false, resuming := true }) core
  else s

/-- The operations whose fault has been taken go on (R239). -/
def resumeOps (c : Core) : Core :=
  { c with ops := c.ops.map fun o => if o.taken then { o with stop := none, taken := false, wait := none } else o }

/-- A strand resumes at a program counter (R387). It waits for no room until it tries again (R295); a trim that it has begun is
taken up again at its own ctrim alone (R354). -/
def resumeAt (s : State) (core slot : Nat) (st : Strand) (pc : Word) : State :=
  stopWaiting (s.setStrand core slot { st with
    pc := pc, resumed := true, trimming := st.trimming.filter fun t => t.pc == pc }) st.gen

/-- The effect of ERET outside a nested trap (R387). -/
def eretEffect (s : State) (core : Nat) : State :=
  let c := s.core core
  let act := if c.noAct then 0 else bits c.ecause 63 62
  let s := match act, namedStrand s core with
    | 0, some (slot, st) => resumeAt s core slot st c.epc
    | 1, some (slot, st) => retireStrand s core slot slot st
    | 2, _ => abandon s core
    | _, _ => s
  let s := if (s.core core).restoring then noteMoved s core else s
  let s := endPreempt s core
  let c := resumeOps (s.core core)
  let c := { c with ecause := c.ecause &&& ~~~(put 3 62), noAct := false, supRunning := false, frozen := c.preempted }
  takeNext (s.setCore core c) core

/-- R387: ends a supervisor run: a nested one goes on at EPC, checked by R37 at its next instruction; otherwise the named strand resumes, is retired, or the launch is abandoned, the core is unfrozen, and the next held event is taken. -/
def execEret (s : State) : Host.Outcome State Fault Refusal :=
  issue .eret (fun _ => { privileged := true }) s fun v =>
    let core := v.cx.core
    let c := v.s.core core
    let u : Uses := {}
    if bit c.ecause 11 then
      let s := v.s.setCore core { c with ecause := c.ecause &&& ~~~(put 1 11) }
      let s := retire v.cx u { s := s, st := v.cx.st, jump := some c.epc }
      .error (.keep (match s.strand core supervisorSlot with
        | some st => s.setStrand core supervisorSlot { st with resumed := true }
        | none => s))
    else .error (.keep (eretEffect (retire v.cx u { s := v.s, st := v.cx.st, jump := some v.cx.st.pc }) core))

/-- R392: WATCHDOG is taken for the record. -/
def execWatchdog (core lid : Nat) (s : State) : Host.Outcome State Fault Refusal :=
  .next (takeWhen s core (· == .watchdog lid))

/-- R392: HOST_INTERRUPT is taken for the record. -/
def execHostInterrupt (core lid reason : Nat) (s : State) : Host.Outcome State Fault Refusal :=
  .next (takeWhen s core (· == .hostInterrupt lid reason))

/-- R393, R394: the package controller raises PREEMPT with reason 1 or 2; it is taken once it is the next event. -/
def execPreempt (core reason : Nat) (s : State) : Host.Outcome State Fault Refusal :=
  let e := HeldEvent.preempt ((s.core core).lid.getD 0) reason
  if core < coreCount ∧ (reason = 1 ∨ reason = 2) then .next (takeWhen (holdEvent s core e) core (· == e)) else .next s

/-- R391: the runaway event of a disarmed watch is taken. -/
def execWatchRunaway (core : Nat) (s : State) : Host.Outcome State Fault Refusal :=
  .next (takeWhen s core fun e => match e with | .runaway _ => true | _ => false)

/-- R390: UNDELIVERABLE is taken for a strand whose bit is set. -/
def execUndeliverable (core slot : Nat) (s : State) : Host.Outcome State Fault Refusal :=
  .next (takeWhen s core (· == .undeliverable slot))

/-! Porter runs (R236, R237). -/

/-- The porter strand of a message (R237). -/
def porterStrand (s : State) (core : Nat) (m : Message) (pc : Word) : Strand :=
  let xs : Tab Word := []
  let p := fun (k : Nat) => m.payload.getD k 0
  { kind := .porter, gen := s.nextGen, stage := 255, rank := 0, lid := ((s.core core).lid).getD 0, pc := pc
    xs := ((((xs.set 0 1 (p 0)).set 0 2 (p 1)).set 0 3 (p 2)).set 0 4 (p 3)).set 0 5
      (put (m.senderPkg % 65536) 16 ||| put (m.sender % 65536) 0)
    depth := m.depth, message := some m, spadBase := Config.porterBase, spadSize := 4096 }

/-- Whether every access of the porter runs of a core has been performed: those that a run ended by firmware has left, those of
its engine commands, and what its sends still have to write (R204). -/
def porterQuiet (s : State) (core : Nat) : Bool :=
  let ours := fun (t : Transfer) => t.srcCore == core && t.issuer.porter && !t.beats.isEmpty
  (s.strands.all fun e => e.1 / 256 != core || e.2.kind != .porter || e.2.pend.all fun a => a.performed || a.dropped)
    && ((s.core core).ops.all fun o => o.slot != porterSlot)
    && s.cores.all fun c =>
      (c.2.channels.all fun h => !(h.2.current.toList ++ h.2.waiting).any ours
          && h.2.adds.all fun a => !(a.srcCore == core && a.issuer.porter))
        && c.2.spill.all fun e => match e with | .beats _ t => !ours t | .message _ => true

/-- R236, R237: the oldest arrived message is checked and runs on the free porter slot once every access of the run before is performed (R204), or is dropped. -/
def execPorterRunStart (core : Nat) (s : State) : Host.Outcome State Fault Refusal :=
  let c := s.core core
  match c.inbox with
  | [] => .next s
  | m :: rest =>
    if c.halted || c.preempted || !slotFree s core porterSlot || !porterQuiet s core then .next s
    else
      let popped := fun (s : State) =>
        replaySpill c.spill.length (s.setCore core { s.core core with inbox := rest, porterWait := none }) core
      let lost := popped (acknowledge s m true)
      match (launchOf s core).filter fun l => l.lid == m.lid with
      | none => .next lost
      | some l =>
        let pc := put l.codeOid 48 ||| put (m.handler % 2 ^ 32) 0
        match checkHead s { core := core, sup := false, declined := c.porterWait.toList } pc with
        | .good | .malformed _ true =>
          .next (popped (noteRan { s.setStrand core porterSlot (porterStrand s core m pc) with nextGen := s.nextGen + 1 } l))
        | .miss page =>
          if c.porterWait.any fun w => w.2 == 0 then .next s
          else match joinMiss s core page 2 with
          | some s => .next (s.setCore core { s.core core with porterWait := some (page, 0) })
          | none => .next s
        | _ => .next lost

/-! Context records (R397 to R400). -/

/-- Offsets of a slot record that may be changed before a restore (R398). -/
def changeable (o : Nat) : Bool :=
  (decide (0x10 ≤ o) && decide (o < 0x48)) || (decide (0x50 ≤ o) && decide (o < 0x90))
    || (decide (0xA0 ≤ o) && decide (o < 0xB0)) || (decide (0x100 ≤ o) && decide (o < 0xA80))

/-- The header of a slot record (R398). -/
def slotHeader (s : State) (core slot : Nat) (valid : Bool) : Word :=
  put 0x56524358 32 ||| put (e2Of core % 65536) 16 ||| put (dieOf core) 13 ||| put slot 8
    ||| putBit (s.core core).wide 7 ||| putBit valid 6

/-- The poison bits of registers from a number on (R398). -/
def poisonBits (st : Strand) (from0 n : Nat) : Word :=
  (List.range n).foldl (fun w k => w ||| putBit (st.poison.find (from0 + k)).isSome k) 0

/-- The words of a strand's slot record (R398); the claim, drain and message state has no layout (log 11). -/
def slotWords (s : State) (core slot : Nat) (st : Strand) : List Word :=
  let counters := (List.range 4).map fun k => ((List.range 4).map fun j =>
    let c := st.counter (4 * k + j)
    putBit c.under (16 * j + 12) ||| put c.pending (16 * j)).foldl (· ||| ·) 0
  let state := (List.range 2).map fun k =>
    if st.kind = .inst then 0 else BitVec.ofNat 64 (ofLe ((List.range 8).map fun i =>
      Config.recordByte [BitVec.ofNat 64 st.gen] (8 * k + i)))
  [slotHeader s core slot true, put st.kind.code 36 ||| put st.level 34 ||| put (st.gen % 2 ^ 32) 0, st.pc, st.fstat, st.srcnt]
    ++ counters
    ++ [putBit st.undeliverable 36 ||| put st.remote 24 ||| put st.ld 18 ||| put st.st 12 ||| put st.cp 6 ||| put st.tl 0]
    ++ ((List.range 8).map fun k => ((portOf st k).map (·.target)).getD 0) ++ state
    ++ [poisonBits st 0 48, poisonBits st 64 32, put (st.drops % 2 ^ 32) 32 ||| st.firstDrop, st.e5]
    ++ List.replicate 8 0 ++ ((List.range 48).map fun n => st.x n)
    ++ ((List.range 32).flatMap fun n => (List.range 8).map fun k => (st.v n).extractLsb' (64 * k) 64)
    ++ List.replicate 176 0

/-- The bytes of words, lowest first. -/
def wordBytes (ws : List Word) : List Byte := ws.flatMap fun w => leBytes 8 w.toNat

/-- The record of an empty slot (R398). -/
def emptyRecord (s : State) (core slot : Nat) : List Byte :=
  leBytes 8 (slotHeader s core slot false).toNat ++ List.replicate 4088 0

/-- CRC-32 of the IEEE 802.3 polynomial (R399). -/
def crc32 (bs : List Byte) : BitVec 32 :=
  let step := fun (c : BitVec 32) (_ : Nat) => if c.getLsbD 0 then (c >>> 1) ^^^ 0xEDB88320 else c >>> 1
  ~~~(bs.foldl (fun c b => (List.range 8).foldl step (c ^^^ b.setWidth 32)) (BitVec.allOnes 32))

/-- The header of a core record (R399). -/
def coreHeader (s : State) (core : Nat) : Word :=
  put 0x5652434F 32 ||| put (e2Of core % 65536) 16 ||| put (dieOf core) 13 ||| putBit (s.core core).wide 12 ||| put 1 11

/-- Length of the core record (R399). -/
def coreRecordBytes : Nat := 1179648

/-- The bytes of the unit state and the queue store of a core record, which the spec gives no layout (log 11). -/
def unitBytes (tag : Nat) : List Byte :=
  (List.range 122880).map fun i => Config.recordByte [BitVec.ofNat 64 tag] (0x2000 + i)

/-- The bytes of a core record (R399). -/
def coreRecord (s : State) (core tag : Nat) : List Byte :=
  let c := s.core core
  let porter := (List.range 4096).map fun i => c.spad.get 0 (Config.porterBase + i)
  let user := (List.range 524288).map fun i => c.spad.get 0 i
  let acc := (List.range 131072).flatMap fun k => leBytes 4 (c.tile.acc.get 0 k).toNat
  let body := porter ++ unitBytes tag
  leBytes 8 (coreHeader s core).toNat ++ leBytes 4 (crc32 body).toNat ++ List.replicate 4084 0 ++ body ++ user ++ acc

/-- The local queues of a core: those of kind 0 with an end at one of its strands (R294). -/
def localQueues (s : State) (core : Nat) : Tab Queue :=
  s.queues.filter fun q => q.2.kind == 0 && (q.2.consumers ++ q.2.producers).any fun p => (s.byGen core p.1).isSome

/-- Whether every unit of a core has come to its pause (R395): no row, pair, reference or sector in progress, and no atomic
still to be performed. -/
def unitsPaused (c : Core) : Bool :=
  (c.tile.queue.all fun o => o.part == 0) && (c.tile.ended.all fun o => o.amaxDone || o.amaxFault.isSome)
    && (c.merge.run.all fun r => r.cur.isNone) && c.ops.all fun o => o.unread.isEmpty && o.flight.isEmpty && o.fetches.isEmpty

/-- The cells of a record, checked 4 KiB at a time as a store or load would be (R397). -/
def recordCells (s : State) (p : Party) (write : Bool) (a : Word) : Nat → Except Fail (List Nat)
  | 0 => .ok []
  | n + 1 => match accessCells s p .die write false a 4096 with
    | .error f => .error f
    | .ok cs => match recordCells s p write (after a 4096) n with
      | .error f => .error f
      | .ok more => .ok (cs ++ more)

/-- The number of 4 KiB parts of the record that a selection names (R398, R399). -/
def recordParts (w : Word) : Nat := if w = 17 then coreRecordBytes / 4096 else 1

/-- The L1 TLB after a record has been translated (R334). -/
def touchRecord (s : State) (core : Nat) (w a : Word) : State :=
  (List.range (recordParts w)).foldl (fun s i => touchEnds s core (after a (4096 * i)) 4096) s

/-- Whether a selection names something that CTXSAVE and CTXREST save and restore (R397). -/
def nameable (c : Core) (w : Word) : Bool :=
  decide (w.toNat ≤ 17) && !(c.wide && decide (8 ≤ w.toNat) && decide (w.toNat < 16))

/-- Whether the selection of CTXSAVE or CTXREST is legal (R397). -/
def selectable (c : Core) (w : Word) : Bool := nameable c w && c.preempted

/-- What a CTXSAVE or CTXREST names: a selection that is not legal is ILLEGAL before the record is looked at (R60, R397). That the
core is not pre-empted counts for the supervisor strand alone (DEDUCED, log 114). -/
def contextUses (s : State) (cx : Ctx) (a b : Reg) : Uses :=
  { src := [a, b], privileged := true, operands := [a]
    invalid := fun x => !(nameable (s.core cx.core) (x a) && (cx.st.isUser || (s.core cx.core).preempted)) }

/-- What the instruction finds at X(xa) (R397): the cells of the record. -/
def recordAt (v : Vals) (w a : Word) (write : Bool) : Except Stop (List Nat) :=
  if a.toNat % 4096 ≠ 0 then .error (.trap .misaligned a)
  else match recordCells v.s (partyOf v.cx.core v.cx.st) write a (recordParts w) with
    | .error f => .error f.stop
    | .ok cells => .ok cells

/-- R398, R399: saves a slot record and vacates the slot, or saves the core record. -/
def execCtxsave (a b : Reg) (s : State) : Host.Outcome State Fault Refusal :=
  issue (.ctxsave a b) (fun cx => contextUses s cx a b) s fun v =>
    let core := v.cx.core
    let c := v.s.core core
    let w := v.x a
    let slot := w.toNat
    let illegal : Except Stop Done := .error (.trap .illegal (headTail (.ctxsave a b)))
    if !selectable c w || c.vacated.contains slot then illegal
    else match recordAt v w (v.x b) true with
    | .error e => .error e
    | .ok cells =>
      let v := { v with s := touchRecord v.s core w (v.x b) }
      if slot = 17 then
        if !unitsPaused c then .error .stall
        else
        let tag := v.s.free
        let s := { v.s with records := v.s.records.insert tag ⟨core, c, localQueues v.s core⟩, free := v.s.free + 1 }
        .ok { s := storeCells s (cells.zip (coreRecord v.s core tag)) v.cx.st.depth, st := v.cx.st }
      else match v.s.strand core slot with
      | none => .ok { s := storeCells v.s (cells.zip (emptyRecord v.s core slot)) v.cx.st.depth, st := v.cx.st }
      | some t =>
        if t.ld ≠ 0 ∨ t.st ≠ 0 ∨ t.remote ≠ 0 ∨ t.pend.any (fun p => match p.op with | .fship .. => true | _ => false) then
          .error .stall
        else
          let bytes := wordBytes (slotWords v.s core slot t)
          let s := storeCells v.s (cells.zip bytes) v.cx.st.depth
          let s := stopWaiting ((s.dropStrand core slot).setStrand core (savedPlace slot) t) t.gen
          let c := s.core core
          .ok { s := s.setCore core { c with vacated := slot :: c.vacated, copies := c.copies.insert slot bytes }
                st := v.cx.st }

/-- Word k of a record. -/
def recordWord (bs : List Byte) (o : Nat) : Word := BitVec.ofNat 64 (ofLe ((bs.drop o).take 8))

/-- A strand with the changeable part of its record (R398, R400): a register whose poison bit the record sets without the
strand's own poison reports source 2 (R382). A strand whose barrier round had closed still departs from it, unless its
program counter was changed (R394). -/
def restoreStrand (st : Strand) (bs : List Byte) : Strand :=
  let poisonAt := fun (o n key : Nat) (t : Tab (Nat × Word)) => if bit (recordWord bs o) n then
      t.insert key ((st.poison.find key).getD (2, BitVec.ofNat 64 key)) else t
  let poison := (List.range 48).foldl (fun t n => poisonAt 0xA0 n n t) []
  let poison := (List.range 32).foldl (fun t n => poisonAt 0xA8 n (64 + n) t) poison
  { st with
    pc := recordWord bs 0x10, fstat := writeFstat st.fstat (recordWord bs 0x18), srcnt := recordWord bs 0x20
    counters := (List.range 16).foldl (fun t n =>
      let h := ofLe ((bs.drop (0x28 + 2 * n)).take 2)
      t.set {} n { pending := h % 4096, under := h / 4096 % 2 == 1 }) []
    ports := st.ports.map fun p => (p.1, { p.2 with target := recordWord bs (0x50 + 8 * p.1) })
    poison := poison
    xs := (List.range 48).foldl (fun t n => if n = 0 then t else t.set 0 n (recordWord bs (0x100 + 8 * n))) []
    vs := (List.range 32).foldl (fun t n => t.set 0 n (BitVec.ofNat 512 (ofLe ((bs.drop (0x280 + 64 * n)).take 64)))) []
    wait := if st.wait == some .depart && recordWord bs 0x10 == st.pc then some .depart else none }

/-- The channels of a core record, with the arrival-word adds as they stand now: those are on their way to memory (R211,
R399). -/
def withAdds (saved now : Tab Channel) : Tab Channel :=
  ((saved.map (·.1) ++ now.map (·.1)).dedup).foldl (fun t n => t.insert n { saved.get {} n with adds := (now.get {} n).adds }) []

/-- An operation of a core record; what the destinations of a send have reported since stays (log 11). -/
def withReports (now : List EngineOp) (o : EngineOp) : EngineOp :=
  match now.find? fun p => p.id == o.id && p.kind == .send with
  | some p => { o with dests := p.dests, adds := p.adds, bytes := p.bytes, cause := p.cause, lost := p.lost }
  | none => o

/-- Restores the core record (R400): the bytes with a layout; the units, the channels and the elements of the local queues from
the save whose bytes the record holds. Elements that have arrived since stay after those of the record. -/
def restoreCore (s : State) (core : Nat) (bs : List Byte) : State :=
  let c := s.core core
  let sup : Tab Byte := c.spad.filter fun e => Config.supervisorBase ≤ e.1
  let spad : Tab Byte := ((bs.drop 0x20000).take 524288).zipIdx.foldl (fun (t : Tab Byte) p => t.set 0 p.2 p.1) sup
  let spad : Tab Byte := ((bs.drop 0x1000).take 4096).zipIdx.foldl (fun (t : Tab Byte) p => t.set 0 (Config.porterBase + p.2) p.1) spad
  let acc : Tab (BitVec 32) := (List.range 131072).foldl (fun t k =>
    t.set 0 k (BitVec.ofNat 32 (ofLe ((bs.drop (0xA0000 + 4 * k)).take 4)))) []
  let saved := s.records.find? fun r => r.2.core == core && (bs.drop 0x2000).take 122880 == unitBytes r.1
  let (s, c) := match saved with
    | some (_, r) =>
      let k := r.state
      let back : Tab Queue := r.queues.foldl (fun (t : Tab Queue) (q : Nat × Queue) => match Tab.find q.1 t with
        | some v => t.insert q.1 { v with ring := q.2.ring ++ v.ring.drop q.2.ring.length }
        | none => t) s.queues
      ({ s with queues := back },
        { c with locks := k.locks, ops := k.ops.map (withReports c.ops), tile := k.tile, merge := k.merge
                 channels := withAdds k.channels c.channels, copies := k.copies })
    | none => (s, c)
  s.setCore core { c with spad := spad, bad := [], tile := { c.tile with acc := acc, bad := [] } }

/-- R400: checks and restores a slot record or the core record. -/
def execCtxrest (a b : Reg) (s : State) : Host.Outcome State Fault Refusal :=
  issue (.ctxrest a b) (fun cx => contextUses s cx a b) s fun v =>
    let core := v.cx.core
    let c := v.s.core core
    let w := v.x a
    let slot := w.toNat
    let illegal : Except Stop Done := .error (.trap .illegal (headTail (.ctxrest a b)))
    if !selectable c w then illegal
    else match recordAt v w (v.x b) false with
    | .error e => .error e
    | .ok cells =>
      if cells.any (isPoisoned v.s) then .error (.detail .memUncorrectable 0 (v.x b))
      else
        let v := { v with s := touchRecord v.s core w (v.x b) }
        let bs := readCells v.s cells
        let head := recordWord bs 0
        if slot = 17 then
          if head ≠ coreHeader v.s core ∨ ofLe ((bs.drop 8).take 4) ≠ (crc32 ((bs.drop 0x1000).take 126976)).toNat then illegal
          else .ok { s := restoreCore v.s core bs, st := v.cx.st }
        else if head = slotHeader v.s core slot false then
          if (v.s.strand core slot).isSome || c.vacated.contains slot then illegal else results v []
        else match v.s.strand core (savedPlace slot), c.copies.find slot with
        | some t, some copy =>
          if head ≠ slotHeader v.s core slot true ∨ !c.vacated.contains slot
              ∨ (List.range 4096).any fun o => !changeable o && bs.getD o 0 != copy.getD o 0 then illegal
          else
            let s := (v.s.dropStrand core (savedPlace slot)).setStrand core slot (restoreStrand t bs)
            .ok { s := s.setCore core { s.core core with vacated := c.vacated.filter (· != slot), copies := c.copies.erase slot }
                  st := v.cx.st }
        | _, _ => illegal

/-- R399: the package controller powers down a pre-empted core whose core record holds its units as they are and whose strands are saved or gone; its storage is lost, but for what is on its way in the network: adds, and what its sends have yet to hear. -/
def execCorePowerDown (core : Nat) (s : State) : Host.Outcome State Fault Refusal :=
  let c := s.core core
  let empty := (List.range 17).all fun t => (s.strand core t).isNone
  let queues := localQueues s core
  let upToDate := s.records.any fun r => r.2.core == core && r.2.queues == queues && r.2.state.locks == c.locks
    && r.2.state.ops.map (withReports c.ops) == c.ops && r.2.state.tile == c.tile && r.2.state.merge == c.merge
    && withAdds r.2.state.channels c.channels == withAdds c.channels c.channels
  if !(c.preempted && empty && upToDate && !c.poweredDown && !c.supRunning) then .next s
  else
    let n := s.free
    let word := fun (k : Nat) => BitVec.ofNat 64 (ofLe ((List.range 8).map fun i => Config.lostByte n (2 ^ 21 + 8 * k + i)))
    let spad : Tab Byte := (List.range 532480).foldl (fun t i => t.set 0 i (Config.lostByte n i)) []
    let acc : Tab (BitVec 32) := (List.range 131072).foldl (fun t k =>
      t.set 0 k (BitVec.ofNat 32 (ofLe ((List.range 4).map fun i => Config.lostByte n (2 ^ 20 + 4 * k + i))))) []
    let regs : Strand → Strand := fun st => { st with
      xs := (List.range 24).foldl (fun t k => if k = 0 then t else t.set 0 k (word k)) []
      vs := (List.range 16).foldl (fun t k => t.set 0 k
        (BitVec.ofNat 512 (ofLe ((List.range 64).map fun i => Config.lostByte n (2 ^ 22 + 64 * k + i))))) [] }
    let tile : TileUnit := { acc := acc }
    let merge : MergeUnit := {}
    let s := s.setCore core { c with
      spad := spad, bad := [], tile := tile, merge := merge, ops := c.ops.filter (·.kind == .send), locks := [], copies := []
      channels := withAdds [] c.channels
      poweredDown := true }
    let lose : Queue → Queue := fun q => { q with ring := q.ring.zipIdx.map fun e => { e.1 with data := some (word e.2) } }
    let s := { s with free := s.free + 1
                      queues := queues.foldl (fun (t : Tab Queue) (q : Nat × Queue) => t.insert q.1 (lose q.2)) s.queues
                      strands := s.strands.map fun (e : Nat × Strand) =>
      if e.1 / 256 == core && decide (128 ≤ e.1 % 256) && decide (e.1 % 256 < 160) then (e.1, regs e.2) else e }
    .next (match s.strand core supervisorSlot with
      | some st => s.setStrand core supervisorSlot (regs st)
      | none => s)

end Sys2Proof.Machine
end

