-- ==== Sys2Proof/Machine/Images.lean ====
section
/-! DEFINITION. Pipeline images: the controller's own translation of object addresses, reading an image (R265), and creating its objects (R266, R267). -/

namespace Sys2Proof.Machine

/-! The accesses that the launch controller and the front end make by object address (R262, R266): each page as the
scriveners' firmware answers it (R339). -/

/-- The entries of the pages that n bytes from an address lie in; none when a page is not translated (R262), as it is not where
the object table has an uncorrectable error (R405, log 81). -/
def hostPages (s : State) (p : Partition) (a : Word) (n : Nat) : Option (List TlbEntry) :=
  if decide (oidOf a < p.otcount) && !tableReadable s p (oidOf a) then none
  else (List.range ((offOf a % 65536 + n + 65535) / 65536)).mapM fun i =>
    match answer s p (pageOf a + i) with
    | .install e => some e
    | .decline _ => none

/-- The physical addresses of n bytes of a dense object with the right needed, when every page is translated (R262). -/
def hostPhys (s : State) (part : Nat) (write : Bool) (a : Word) (n : Nat) : Option (List Nat) :=
  match s.parts.find part with
  | none => none
  | some p =>
    if oidOf a = 0 ∨ oidOf a = 0xFFFF ∨ 2 ^ 48 < offOf a + n then none
    else match hostPages s p a n with
    | none => none
    | some es =>
      if es.any fun e => e.kind != 0 || (if write then !e.wr else !e.rd) then none
      else
        let at_ := fun i => (es.getD ((offOf a % 65536 + i) / 65536) ⟨0, 0, 0, 0, false, false, false, 0, 0⟩, after a i)
        let bytes := (List.range n).map at_
        if bytes.any fun b => beyond b.1 b.2 then none else some (bytes.map fun b => physOf b.1 b.2)

/-- The cells of n bytes of a dense object (R262). -/
def hostCells (s : State) (part : Nat) (write : Bool) (a : Word) (n : Nat) : Option (List Nat) :=
  (hostPhys s part write a n).bind fun ps => ps.mapM (cellAt s)

/-- Whether n bytes of a partition's object lie in a page that is being moved, so that a write waits (R181). -/
def hostMoving (s : State) (part : Nat) (a : Word) (n : Nat) : Bool :=
  s.moves.any fun m => m.code == 0 && m.part == part && m.oid == oidOf a
    && decide (m.off < offOf a + n) && decide (offOf a < m.off + 65536)

/-- Reads n bytes of a dense object; none when they cannot be read. -/
def hostRead (s : State) (part : Nat) (a : Word) (n : Nat) : Option (List Byte) :=
  match hostCells s part false a n with
  | some cells => if cells.any (isPoisoned s) then none else some (readCells s cells)
  | none => none

/-! Reading an image (R265). The operands of its queue, record, object and watch entries have no binary layout in the spec
(log 10). -/

/-- A power of two from one bound to another. -/
def powerIn (n lo hi : Nat) : Bool := decide (lo ≤ n) && decide (n ≤ hi) && (List.range 64).any fun k => n == 2 ^ k

/-- The dies of a mask. -/
def diesOf (mask : Nat) : List Nat := (List.range 8).filter mask.testBit

/-- Bytes of a stage entry: the stage word, then the entry offset and the scratchpad size, 8 bytes each (R265, log 10). -/
def stageEntryBytes : Nat := 32

/-- Word k of a stage entry. -/
def stageField (bs : List Byte) (i k : Nat) : Word := BitVec.ofNat 64 (ofLe ((bs.drop (stageEntryBytes * i + 8 * k)).take 8))

/-- Stage i of a stage section (R265, R275). -/
def stageAt (bs : List Byte) (i : Nat) : StageInfo :=
  let w := stageField bs i
  { entry := (w 2).toNat, spad := (w 3).toNat, kind := bits (w 1) 15 14, least := bits (w 0) 15 0, most := bits (w 0) 31 16,
    elastic := bit (w 1) 13, wide := bit (w 1) 12, prio := bits (w 1) 11 10, reserve := bits (w 1) 4 0,
    park := Config.stagePark i bs }

/-- Whether an offset is that of a head of a code section (R37, R66): its index is within the head count of its line. -/
def headIn (code : List Byte) (o : Nat) : Bool :=
  decide (o < code.length) && o % 2 == 0 && o % 64 != 0 && decide (o % 64 / 2 ≤ headCount (halfAt (code.drop (o / 64 * 64)) 0))

/-- The stage rules of R66 and R275. |E| is the placement's, and the word's is not read. -/
def stageGood (code bs : List Byte) (i : Nat) : Bool :=
  let t := stageAt bs i
  let w := stageField bs i
  bits (w 0) 63 48 == 0 && bits (w 1) 63 16 == 0 && bits (w 1) 9 5 == 0 && decide (t.kind ≤ 2)
    && (t.elastic || t.least == t.most) && powerIn t.spad 4096 524288 && decide (t.least ≤ t.most) && headIn code t.entry

/-- A queue from its operands (R66). -/
def queueInfo (f : List Nat) : QueueInfo := ⟨f.getD 0 0, f.getD 1 0, f.getD 2 0, f.getD 3 0, f.getD 4 0⟩

/-- The queue rules of R66 and R293: a port in at most one queue, no consuming stage of count 0. -/
def queueGood (stages : List StageInfo) (qs : List QueueInfo) (q : QueueInfo) : Bool :=
  decide (q.fromStage < stages.length) && decide (q.toStage < stages.length) && decide (q.fromPort < 8)
    && decide (q.toPort < 8) && powerIn q.depth 8 65536 && !(q.fromStage == q.toStage && q.fromPort == q.toPort)
    && ((stages[q.toStage]?).any fun t => t.elastic || t.least != 0)
    && (let use := fun (s p : Nat) => (qs.filter fun r => r.fromStage == s && r.fromPort == p).length
          + (qs.filter fun r => r.toStage == s && r.toPort == p).length
        use q.fromStage q.fromPort == 1 && use q.toStage q.toPort == 1)

/-- An object or volume from its operands. An object's: 0, size, writable, far, dies, stride, carve, llc, ship,
watchable. A volume's: 1, dims, four fields, four extents, element bytes, four tile sizes, background, pool, die (R66). -/
def objectInfo (f : List Nat) : ObjectInfo :=
  let g := fun k => f.getD k 0
  if g 0 = 1 then
    { isVolume := true, size := 0, writable := true, far := false, home := [g 17], stride := 0, carve := false, llc := 0,
      ship := false, watchable := false, data := [], fields := (List.range 4).map fun k => g (2 + k),
      extent := (List.range 4).map fun k => g (6 + k), elem := g 10, tile := (List.range 4).map fun k => g (11 + k),
      background := BitVec.ofNat 64 (g 15), pool := g 16 }
  else
    { isVolume := false, size := g 1, writable := g 2 == 1, far := g 3 == 1, home := diesOf (g 4), stride := g 5,
      carve := g 6 == 1, llc := g 7, ship := g 8 == 1, watchable := g 9 == 1, data := [] }

/-- The object rules of R66. It gives no least size: the model takes a size of 0 for a mismatch (log 83). -/
def objectGood (o : ObjectInfo) : Bool :=
  o.isVolume || (powerIn o.stride 256 2097152 && decide (o.llc ≤ 2) && decide (1 ≤ o.size) && decide (o.size < 2 ^ 48)
    && (o.far || !o.home.isEmpty))

/-- The volume of a directive at a tree depth, with its addresses still 0 (R346). -/
def volumeAt (f : List Nat) (o : ObjectInfo) (depth : Nat) : Volume :=
  { dims := f.getD 1 0, depth := depth, esz := o.elem.log2, fw := o.fields, ts := o.tile.map Nat.log2, extent := o.extent,
    background := o.background, root := 0, pool := 0 }

/-- The least tree depth that makes a volume's descriptor valid (R267, R347). -/
def volumeDepth (f : List Nat) (o : ObjectInfo) : Option Nat :=
  if !(powerIn o.elem 1 8 && decide (o.pool < 2 ^ 24) && (o.home.all (· < 8))
      && (o.tile.all fun t => powerIn t 1 4096) && o.tile.foldl (· * ·) o.elem == 4096 && decide (1 ≤ f.getD 1 0)
      && decide (f.getD 1 0 ≤ 4)) then none
  else [1, 2, 3, 4, 5].find? fun d => (volumeAt f o d).valid

/-- A split of a shape record from its operands: dimension, block and whether it is cyclic; none when there is no split on the
axis (R66). -/
def splitOf (f : List Nat) (o : Nat) : Option (Nat × Nat × Nat) :=
  if f.getD o 0 = 0 then none else some (f.getD (o + 1) 0, f.getD (o + 2) 0, f.getD (o + 3) 0)

/-- A shape record from its operands: k, object, type, rank, four extents, then on, dimension, block and cyclic of the x
split and of the y split (R66, R276). Unused dimensions hold 1, the fields of an absent split 0. -/
def recordWords (f : List Nat) : List Word :=
  let g := fun k => f.getD k 0
  let bits_ := fun (o at_ : Nat) => match splitOf f o with
    | some (dim, _, cyc) => put 1 (at_ + 3) ||| put cyc (at_ + 2) ||| put dim at_
    | none => 0
  let block := fun (o : Nat) => BitVec.ofNat 64 (((splitOf f o).map fun x => x.2.1).getD 0)
  [0, bits_ 12 12 ||| bits_ 8 8 ||| put (g 3) 4 ||| put (g 2) 0]
    ++ ((List.range 4).map fun k => if k < g 3 then BitVec.ofNat 64 (g (4 + k)) else 1) ++ [block 8, block 12]

/-- P of a split over x for a stage's kind, in a rectangle of some width whose left column is given (R277). -/
def columnsOf (kind px0 w : Nat) : Nat :=
  if kind = 0 then w else ((List.range w).filter fun x => (px0 + x) % 2 == (if kind = 1 then 0 else 1)).length

/-- Whether a blocked split over x of a shape record covers its dimension: P is that of the stage of the image that has the
most columns, since a record names no stage (R276, R277, log 28). -/
def recordFits (kinds : List Nat) (px0 w : Nat) (f : List Nat) : Bool :=
  (splitOf f 8).all fun x => x.2.2 != 0
    || kinds.any fun k => decide (f.getD (4 + x.1) 0 ≤ columnsOf k px0 w * x.2.1)

/-- The limits of R276 on a shape record, but for those that depend on where the rectangle lies. -/
def recordGood (h : Nat) (f : List Nat) : Bool :=
  let g := fun k => f.getD k 0
  let split := fun (o : Nat) => decide (g o ≤ 1) && (splitOf f o).all fun x =>
    decide (x.1 < g 3) && x.2.1 != 0 && decide (x.2.2 ≤ 1)
  decide (1 ≤ g 3) && decide (g 3 ≤ 4) && decide (g 2 < 16) && split 8 && split 12
    && ((splitOf f 12).all fun x => x.2.2 != 0 || decide (g (4 + x.1) ≤ h * x.2.1))
    && !((splitOf f 8).any fun x => (splitOf f 12).any fun y => x.1 == y.1)

/-- A watch from its operands (R66). -/
def watchInfo (f : List Nat) : WatchInfo := ⟨f.getD 0 0, f.getD 1 0, f.getD 2 0, f.getD 3 0, f.getD 4 0, f.getD 5 0⟩

/-- The watch rules of R66 and R316. The spec does not say that a size of 0 is refused: the model refuses it (log 84). -/
def watchGood (stages objects : Nat) (w : WatchInfo) : Bool :=
  decide (w.object < objects) && decide (w.handler < stages) && w.offset % 64 == 0 && w.size % 64 == 0 && w.size != 0
    && decide (1 ≤ w.coalesce) && decide (w.coalesce ≤ 65535) && decide (1 ≤ w.rate) && decide (w.rate ≤ 65535)

/-- Code IMAGE (R264). -/
def codeImage : Nat := 1
/-- Code RECT (R264). -/
def codeRect : Nat := 2
/-- Code PLACE (R264). -/
def codePlace : Nat := 3
/-- Code CARVE (R264). -/
def codeCarve : Nat := 4
/-- Code ROUTE (R264). -/
def codeRoute : Nat := 5
/-- Code GROUP (R264). -/
def codeGroup : Nat := 6
/-- Code LIMIT (R264). -/
def codeLimit : Nat := 7
/-- Code WATCHDOG (R264). -/
def codeWatchdog : Nat := 8
/-- Code STOPPED (R264). -/
def codeStopped : Nat := 9
/-- Code ABANDONED (R264). -/
def codeAbandoned : Nat := 10

/-- The bytes of a section of an image: its number in the table (R265). -/
def sectionBytes (s : State) (part : Nat) (a : Word) (table : List Byte) (k : Nat) : Option (List Byte) :=
  let off := ofLe ((table.drop (16 * k)).take 8)
  let size := ofLe ((table.drop (16 * k + 8)).take 8)
  if off < 0x840 then none else if size = 0 then some [] else hostRead s part (after a off) size

/-- The fields of every entry of a section. -/
def sectionFields (k count : Nat) (bs : List Byte) : List (List Nat) := (List.range count).map fun i => Config.operands k i bs

/-- The image at an object address, or the code that the launch fails with (R264, R265). -/
def readImage (s : State) (part : Nat) (a : Word) : Except Nat Image :=
  match hostRead s part a 64 with
  | none => .error codeImage
  | some hd =>
    let b := fun (o n : Nat) => ofLe ((hd.drop o).take n)
    let (w, h, ns, nq, no, nw, nr, tab) := (b 6 1, b 7 1, b 8 2, b 10 2, b 12 2, b 14 2, b 16 1, b 24 8)
    if b 0 4 ≠ 0x4D495447 ∨ b 4 2 ≠ 1 ∨ b 17 7 ≠ 0 ∨ (hd.drop 32).any (· != 0) ∨ w = 0 ∨ 64 < w ∨ h = 0 ∨ 32 < h
        ∨ ns = 0 ∨ 64 < ns ∨ 512 < nq ∨ 256 < no ∨ 256 < nw ∨ 8 < nr ∨ tab < 0x840 then .error codeImage
    else match hostRead s part (after a tab) 128 with
    | none => .error codeImage
    | some table => match (List.range 8).mapM (sectionBytes s part a table) with
      | none => .error codeImage
      | some secs =>
        let sec := fun k => secs.getD k []
        let code := sec 6
        let stages := (List.range ns).map (stageAt (sec 0))
        let queues := (sectionFields 1 nq (sec 1)).map queueInfo
        let rf := sectionFields 3 nr (sec 3)
        let of_ := sectionFields 4 no (sec 4)
        let objects := (of_.map objectInfo).zipIdx.map fun o => { o.1 with data := Config.objectData o.2 (sec 7) }
        let watches := (sectionFields 5 nw (sec 5)).map watchInfo
        if (sec 0).length != stageEntryBytes * ns || !((List.range ns).all (stageGood code (sec 0))) || !queues.all (queueGood stages queues)
            || !objects.all objectGood || !(rf.all fun f => decide (f.getD 0 0 < 8) && decide (f.getD 1 0 < no))
            || decide ((rf.map fun f => f.getD 0 0).dedup.length < nr) then .error codeImage
        else if !rf.all (recordGood h) || !(rf.all fun f => [0, 1].any fun px => recordFits (stages.map (·.kind)) px w f) || !watches.all (watchGood ns no)
            || (of_.zip objects).any fun p => p.2.isVolume && (volumeDepth p.1 p.2).isNone then .error codeLimit
        else .ok {
          width := w, height := h, stages := stages, queues := queues
          records := rf.map fun f => (f.getD 0 0, f.getD 1 0, recordWords f), recordFields := rf
          objects := (of_.zip objects).map fun p => if p.2.isVolume then
            { p.2 with size := (volumeDepth p.1 p.2).getD 1, stride := p.1.getD 1 1 } else p.2
          watches := watches, code := code, routes := sec 2 }

/-! Creating objects (R266, R267). -/

/-- Rounds up to a multiple. -/
def roundUp (n m : Nat) : Nat := ceilDiv n m * m

/-- The memory in use that the launch controller must leave alone: its own allocations in every partition, the extents of
the partition's objects, and its object table (log 26). -/
def usedRanges (s : State) (p : Partition) : List (Nat × Nat) :=
  (s.parts.flatMap fun q => q.2.taken.map fun t => (t.1, t.2.1)) ++ [(p.otbase, 64 * p.otcount)]
    ++ ((List.range p.otcount).flatMap fun oid =>
      if bit (descWord s p oid 0) 63 && bits (descWord s p oid 0) 62 61 != 1 then
        (extentsOf s p oid).map fun x => (x.2.2, x.2.1)
      else [])

/-- Whether a range lies in a span and meets none of the ranges given. -/
def rangeFree (used : List (Nat × Nat)) (base size lo n : Nat) : Bool :=
  decide (base ≤ lo) && decide (lo + n ≤ base + size)
    && used.all fun u => decide (u.1 + u.2 ≤ lo) || decide (lo + n ≤ u.1)

/-- A free range of a region entry on 64 KiB boundaries: the hardware's choice where that is free, else the lowest (R267,
log 26). -/
def freeRange (s : State) (p : Partition) (entry n : Nat) : Option Nat :=
  match s.regions.find entry with
  | none => none
  | some w =>
    let used := usedRanges s p
    let (base, size) := (regionBase w.1, regionSize w.2)
    let pick := Config.place s.free / 65536 * 65536
    if rangeFree used base size pick n then some pick
    else (((base :: used.map fun u => roundUp (u.1 + u.2) 65536).filter fun lo => rangeFree used base size lo n)).min?

/-- Bytes that an object takes in an entry: rounded up to a multiple of count × stride (R267), and to whole extents of
64 KiB (R332). -/
def roundedSize (w : Word × Word) (n : Nat) : Nat :=
  roundUp n (Nat.lcm ((members w.1).length * 2 ^ bits w.1 53 49) 65536)

/-- The region entry and range for an object, by the rules of R267: the lowest-numbered qualifying entry with room. -/
def allocate (s : State) (p : Partition) (n : Nat) (qualifies : Word × Word → Bool) : Option (Nat × Nat × Nat) :=
  (List.range 64).findSome? fun e =>
    match s.regions.find e with
    | some w =>
      if bit p.partreg e && regionValid s w && qualifies w then
        (freeRange s p e (roundedSize w n)).map fun lo => (e, lo, roundedSize w n)
      else none
    | none => none

/-- Whether an entry qualifies for an object (R267, rules 2 to 4). -/
def entryFits (o : ObjectInfo) (w : Word × Word) : Bool :=
  let tier := bits w.1 59 58
  let place := if o.far then tier == 2 else members w.1 == o.home && tier == (if o.carve then 1 else 0)
  if o.isVolume then tier == 0 && members w.1 == o.home
  else place && 2 ^ bits w.1 53 49 == o.stride && bits w.1 57 56 == o.llc && (!o.watchable || bit w.1 54)
    && (!o.ship || bit w.1 55)

/-- Gives a range to an image's object. -/
def take (s : State) (part image lo n : Nat) : State :=
  match s.parts.find part with
  | some p => { s with parts := s.parts.insert part { p with taken := p.taken ++ [(lo, n, image)] }, free := s.free + 1 }
  | none => s

/-- An object id that no descriptor holds: the controller's choice where that is free, else the lowest (R266, log 26). -/
def freeOid (s : State) (p : Partition) : Option Nat :=
  let ok := fun oid => decide (1 ≤ oid) && decide (oid < p.otcount) && !bit (descWord s p oid 0) 63
  let pick := Config.place s.free
  if ok pick then some pick else (List.range p.otcount).find? ok

/-- Writes words 0 to 3 of a descriptor (R331). -/
def writeDesc (s : State) (p : Partition) (oid w0 w1 w2 w3 : Nat) : State :=
  physWrite s (p.otbase + 64 * oid) (leBytes 8 w0 ++ leBytes 8 w1 ++ leBytes 8 w2 ++ leBytes 8 w3)

/-- Creates an object of one extent: its memory, its extent list in memory of the partition, its descriptor (R267, R331,
R332, log 26). -/
def createDense (s : State) (part image kind size : Nat) (rights : Nat) (qualifies : Word × Word → Bool) :
    Option (State × Nat × Nat) :=
  match s.parts.find part with
  | none => none
  | some p => match allocate s p size qualifies, freeOid s p with
    | some (e, lo, n), some oid =>
      let s := take s part image lo n
      match (s.parts.find part).bind fun p => allocate s p 16 fun w => bits w.1 59 58 != 1 with
      | none => none
      | some (_, list, ln) =>
        let s := take s part image list ln
        let cap := 1 + Config.place s.free % (ln / 16)
        let s := physWrite s list (leBytes 8 (n / 65536 * 2 ^ 32) ++ leBytes 8 (lo / 65536))
        let w0 := 2 ^ 63 + kind * 2 ^ 61 + rights * 2 ^ 57 + size
        some (writeDesc s p oid w0 (image * 2 ^ 48 + e) list (cap * 2 ^ 32 + 1), oid, lo)
    | _, _ => none

/-- The words of a volume descriptor (R346). -/
def volumeWords (d : Volume) : List Nat :=
  let f := fun k => d.fw.getD k 0
  let t := fun k => d.ts.getD k 0
  [(d.dims - 1) * 2 ^ 62 + d.depth * 2 ^ 59 + d.esz * 2 ^ 57 + f 3 * 2 ^ 49 + f 2 * 2 ^ 42 + f 1 * 2 ^ 35 + f 0 * 2 ^ 28
      + t 3 * 2 ^ 24 + t 2 * 2 ^ 20 + t 1 * 2 ^ 16 + t 0 * 2 ^ 12]
    ++ (List.range 4).map (fun k => d.extent.getD k 0) ++ [d.background.toNat, d.root, d.pool]

/-- Creates a volume (R267): its descriptor, empty root node, pool header, pool stack and pool tiles in one range of an
entry of its home die. The spec does not say what a .data of a volume fills: its bytes are not used (log 85). -/
def createVolume (s : State) (part image : Nat) (o : ObjectInfo) : Option (State × Nat) :=
  match s.parts.find part with
  | none => none
  | some p =>
    let stack := roundUp (64 + 8 * o.pool) 4096
    match allocate s p (8192 + stack + 4096 * o.pool) (entryFits o), freeOid s p with
    | some (e, lo, n), some oid =>
      let s := take s part image lo n
      let d := { volumeAt [1, o.stride] o o.size with root := lo + 4096, pool := lo + 8192 }
      let s := physWrite s lo ((volumeWords d).flatMap (leBytes 8))
      let s := physWrite s d.root (List.replicate 4096 0)
      let s := setPool s d.pool 0 o.pool o.pool
      let s := (List.range o.pool).foldl (fun s i =>
        physWrite s (d.pool + 64 + 8 * i) (leBytes 8 (lo + 8192 + stack + 4096 * i))) s
      some (writeDesc s p oid (2 ^ 63 + 2 ^ 61 + 3 * 2 ^ 59) (image * 2 ^ 48 + e) lo 0, oid)
    | _, _ => none

/-- Creates one declared object and fills it from the data section, from offset 0 (R66, R266, R267); bytes of a .data beyond
the object's size fill nothing (log 100). -/
def createObject (s : State) (part image : Nat) (o : ObjectInfo) : Option (State × Nat) :=
  if o.isVolume then createVolume s part image o
  else
    let rights := 8 + (if o.writable then 4 else 0) + (if o.watchable then 1 else 0)
    (createDense s part image 0 o.size rights (entryFits o)).map fun r => (physWrite r.1 r.2.2 (o.data.take o.size), r.2.1)

/-- Creates the declared objects in order. -/
def createObjects (s : State) (part image : Nat) : List ObjectInfo → Option (State × List Nat)
  | [] => some (s, [])
  | o :: os => match createObject s part image o with
    | none => none
    | some (s, oid) => (createObjects s part image os).map fun r => (r.1, oid :: r.2)

/-- Creates the code object, with read and execute rights (R266); its region entry is the controller's choice (log 26). -/
def createCode (s : State) (part image : Nat) (code : List Byte) : Option (State × Nat) :=
  let make := fun tier => (createDense s part image 2 code.length 10 fun w => bits w.1 59 58 == tier)
  ((make 0).orElse fun _ => make 2).map fun r => (physWrite r.1 r.2.2 code, r.2.1)

/-- The objects of an image that has been loaded (R266). -/
def loadedAt (s : State) (part : Nat) (a : Word) : Option Loaded := s.loaded.find? fun l => l.part == part && l.addr == a

/-- Loads an image: its objects the first time, else those it has; their addresses go into the image's table (R266). -/
def loadImage (s : State) (part : Nat) (a : Word) : Except Nat (State × Image × Loaded) :=
  match readImage s part a with
  | .error c => .error c
  | .ok img => match loadedAt s part a with
    | some l => .ok (s, img, l)
    | none => match createCode s part (oidOf a) img.code with
      | none => .error codeLimit
      | some (s, code) => match createObjects s part (oidOf a) img.objects with
        | none => .error codeLimit
        | some (s, oids) =>
          let l : Loaded := { part := part, addr := a, code := code, objects := oids.map fun o => put o 48 }
          let table := l.objects.flatMap fun w => leBytes 8 w.toNat
          match hostPhys s part false (after a 0x40) table.length with
          | none => .error codeImage
          | some ps =>
            let s := (ps.zip table).foldl (fun s w => physWrite s w.1 [w.2]) s
            .ok ({ s with loaded := s.loaded ++ [l] }, img, l)

end Sys2Proof.Machine
end

