-- ==== Sys2Proof/Machine/Arming.lean ====
section
/-! DEFINITION. Watches of a launch: arming (R316, R317), WARM, WDISARM, WSTAT, WACK (R324, R325), the start of triggered strands (R320) and the rate windows (R323). -/

namespace Sys2Proof.Machine

/-- The granules of a range: the cell of each and its object address; none when a page has no home or lies in a region
that cannot be watched (R317). -/
def watchCells (s : State) (p : Partition) (a : Word) (n : Nat) : Option (List (Nat × Word)) :=
  (List.range (n / 64)).mapM fun i =>
    let g := after a (64 * i)
    (pageHome s p g).bind fun h => (regionOf s h.1).bind fun r =>
      if bits r.2.1 59 58 ≤ 1 && bit r.2.1 54 then some (homeIn r.2 h.1, g) else none

/-- Whether an object may be watched by a launch of an image: dense, watchable, owned by the image or by the host (R317,
R357). -/
def watchableObject (s : State) (p : Partition) (oid image : Nat) : Bool :=
  let d := descWord s p oid 0
  decide (1 ≤ oid) && decide (oid < p.otcount) && bit d 63 && bits d 62 61 == 0 && bit d 57
    && (bits (descWord s p oid 1) 63 48 == 0 || bits (descWord s p oid 1) 63 48 == image)

/-- Whether a range lies within its object. -/
def rangeInObject (s : State) (p : Partition) (a : Word) (n : Nat) : Bool :=
  decide (1 ≤ oidOf a) && decide (oidOf a < p.otcount) && bit (descWord s p (oidOf a) 0) 63
    && decide (offOf a + n ≤ bits (descWord s p (oidOf a) 0) 47 0)

/-- A watch as it is armed: range, limits, handler stage, number. -/
structure WatchRange where
  start : Word
  size : Nat
  climit : Nat
  rate : Nat
  stage : Nat
  number : Nat
deriving DecidableEq, Repr

/-- The declared range of a watch of a launch (R66). -/
def declaredRange (l : Launch) (w : WatchInfo) (number : Nat) : WatchRange :=
  { start := l.objects.getD w.object 0 + BitVec.ofNat 64 w.offset, size := w.size, climit := w.coalesce, rate := w.rate,
    stage := w.handler, number := number }

/-- The lowest free index of a die's watch table (R316). -/
def freeEntry (s : State) (d : Nat) : Option Nat := firstBelow 256 fun k => ((s.die d).watch.find k).isNone

/-- Arms a range on every die that homes part of it (R316, R317); none when a condition fails. The window and count of new
triggers come from a function of the die, as WARM does not restart them (R324). -/
def armRange (s : State) (l : Launch) (r : WatchRange) (window : Nat → Nat × Nat) : Option State :=
  match s.parts.find l.part with
  | none => none
  | some p =>
    let handler := l.stages[r.stage]?
    if !watchableObject s p (oidOf r.start) (oidOf l.image) || !rangeInObject s p r.start r.size then none
    else match watchCells s p r.start r.size with
    | none => none
    | some cells =>
      let dies := (List.range 8).filter fun d => cells.any fun c => memberOf c.1 == d
      let able := fun (d : Nat) => handler.any fun t => t.reserve != 0 && t.cores.any fun c => dieOf c == d
      if !dies.all able || dies.any fun d => (freeEntry s d).isNone then none
      else
        let arm := fun (s : State) (d : Nat) => match freeEntry s d with
          | none => s
          | some idx => setEntry s d idx {
              start := r.start, granules := r.size / 64, climit := r.climit, rate := r.rate, lid := l.lid, stage := r.stage,
              number := r.number, armed := true, why := 0, ovf := false, ovfCount := 0, ovfDepth := 0
              cells := cells.filter fun c => memberOf c.1 == d
              tracks := [], silent := 0, dropped := 0, started := 0, coalesced := 0
              window := (window d).1, windowCount := (window d).2 }
        some (dies.foldl arm s)

/-- Arms the watches of an image in number order (R274, R316). -/
def armAll (s : State) (l : Launch) : List (WatchInfo × Nat) → Option State
  | [] => some s
  | (w, k) :: ws => match armRange s l (declaredRange l w k) fun _ => (l.started, 0) with
    | some s => armAll s l ws
    | none => none

/-- The entries of a watch of a launch: die, index, entry (R316). -/
def entriesOf (s : State) (part lid number : Nat) : List (Nat × Nat × WatchEntry) :=
  ((List.range 8).filter fun d => partOfDie s d == some part).flatMap fun d =>
    (List.range 256).filterMap fun k => match (s.die d).watch.find k with
      | some e => if e.lid = lid ∧ e.number = number then some (d, k, e) else none
      | none => none

/-- Removes an entry from a die's table. -/
def dropEntry (s : State) (d idx : Nat) : State :=
  let x := s.die d
  s.setDie d { x with watch := x.watch.erase idx }

/-- The claims of running strands on an entry that is taken out of the table end without effect (R321, log 29). -/
def dropClaims (s : State) (d idx : Nat) : State :=
  { s with strands := s.strands.map fun e => match e.2.claim with
      | some c => if c.1 == d && c.2.1 == idx then (e.1, { e.2 with claim := none }) else e
      | none => e }

/-- The watch of a number, with its launch: the strand's own launch must have it (R324). -/
def watchAt (s : State) (cx : Ctx) (x : Word) : Option (Launch × WatchInfo × Nat) :=
  (launchOf s cx.core).bind fun l => (l.img.watches[x.toNat]?).bind fun w =>
    if l.lid = (envReg s cx.core cx.st 3).toNat then some (l, w, x.toNat) else none

/-- What an instruction names whose register w must hold a watch number: ILLEGAL else, before QUEUE_UNBOUND (R60, R324). -/
def watchUses (s : State) (cx : Ctx) (src dst : List Reg) (w : Reg) : Uses :=
  { src := src, dst := dst, operands := [w], invalid := fun x => (watchAt s cx (x w)).isNone }

/-- The watch number at an operand, with its launch, or ILLEGAL (R324). -/
def watchOf (v : Vals) (i : Instr) (w : Reg) : Except Stop (Launch × WatchInfo × Nat) :=
  match watchAt v.s v.cx (v.x w) with
  | some r => .ok r
  | none => .error (.trap .illegal (headTail i))

/-- R324: disarms, then arms over the declared or a given range. -/
def execWarm (w base size : Reg) (s : State) : Host.Outcome State Fault Refusal :=
  issue (.warm w base size) (fun cx => watchUses s cx [w, base, size] [] w) s fun v =>
    match watchOf v (.warm w base size) w with
    | .error e => .error e
    | .ok (l, info, k) =>
      let old := entriesOf v.s l.part l.lid k
      let r := declaredRange l info k
      let r := if base = Reg.zero then r else { r with start := v.x base, size := (v.x size).toNat }
      let cleared := old.foldl (fun s e => dropClaims (dropEntry s e.1 e.2.1) e.1 e.2.1) v.s
      let window := fun d => match old.find? fun e => e.1 == d with
        | some e => (e.2.2.window, e.2.2.windowCount)
        | none => (l.started, 0)
      if r.start.toNat % 64 ≠ 0 ∨ r.size % 64 ≠ 0 then .error (.trap .misaligned r.start)
      else if r.size = 0 then
        let off := old.foldl (fun s e => setEntry s e.1 e.2.1 { (disarm e.2.2 0 0 s.stamp).1 with
          dropped := 0, silent := 0, started := 0, coalesced := 0 }) v.s
        .ok { s := off, st := v.cx.st }
      else match v.s.parts.find l.part with
      | none => .error (.trap .objPermission r.start)
      | some p =>
        if !rangeInObject v.s p r.start r.size then .error (.trap .objBounds r.start)
        else match armRange cleared l r window with
        | none => .error (.trap .objPermission r.start)
        | some s => .ok { s := s, st := (s.strand v.cx.core v.cx.slot).getD v.cx.st }

/-- R324: unmarks the lines of a watch on every die; its pending triggers are dropped and counted. -/
def execWdisarm (w : Reg) (s : State) : Host.Outcome State Fault Refusal :=
  issue (.wdisarm w) (fun cx => watchUses s cx [w] [] w) s fun v =>
    match watchOf v (.wdisarm w) w with
    | .error e => .error e
    | .ok (l, _, k) =>
      let s := (entriesOf v.s l.part l.lid k).foldl (fun s e =>
        setEntry s e.1 e.2.1 (disarm e.2.2 1 0 v.s.stamp).1) v.s
      .ok { s := { s with stamp := s.stamp + 1 }, st := v.cx.st }

/-- The word that WSTAT writes (R325). -/
def watchStatus (es : List WatchEntry) : Word :=
  let sum := fun (f : WatchEntry → Nat) => (es.map f).foldl (· + ·) 0
  let late := (es.filter fun e => e.why != 0).foldl (fun (b : Nat × Nat) e => if b.1 ≤ e.whyAt then (e.whyAt, e.why) else b) (0, 0)
  putBit (!es.isEmpty && es.all (·.armed)) 63 ||| put late.2 61 ||| putBit (es.any (·.ovf)) 60
    ||| put (sum (·.silent) % 4096) 48 ||| put (sum (·.dropped) % 65536) 32 ||| put (sum (·.started) % 65536) 16
    ||| put (sum (·.coalesced) % 65536) 0

/-- R325: the counts of a watch over all dies. -/
def execWstat (d w : Reg) (s : State) : Host.Outcome State Fault Refusal :=
  issue (.wstat d w) (fun cx => watchUses s cx [w] [d] w) s fun v =>
    match watchOf v (.wstat d w) w with
    | .error e => .error e
    | .ok (l, _, k) => results v [(d, watchStatus ((entriesOf v.s l.part l.lid k).map (·.2.2)))]

/-- R321: ends the claim of a triggered strand; a second one does nothing. -/
def execWack (s : State) : Host.Outcome State Fault Refusal :=
  issue .wack (fun cx => { illegal := cx.st.kind != .triggered }) s fun v =>
    match v.cx.st.claim with
    | none => results v []
    | some (d, idx, pos) => .ok { s := endClaim v.s d idx pos, st := { v.cx.st with claim := none } }

/-! Triggered strands (R320). -/

/-- Whether the scratchpad allocation of a slot is not in use: no strand of the core, parked or saved ones among them,
holds it (R283, R286). -/
def allocFree (s : State) (core slot : Nat) : Bool :=
  match (s.core core).alloc.find slot with
  | none => true
  | some (base, size) => s.live.all fun e => e.1 != core || e.2.2.kind == .porter || e.2.2.kind == .supervisor
      || decide (160 ≤ e.2.1) || decide (e.2.2.spadBase + e.2.2.spadSize ≤ base) || decide (base + size ≤ e.2.2.spadBase)

/-- A range of a core's user scratchpad that is in nobody's hands (log 79): no live strand's, and no slot's allocation. -/
def spareRange (s : State) (core size : Nat) : Option (Nat × Nat) :=
  let apart := fun (base b n : Nat) => decide (b + n ≤ base) || decide (base + size ≤ b)
  ((List.range (Config.spadBytes / 4096)).find? fun k =>
    let base := 4096 * k
    decide (base + size ≤ Config.spadBytes) && ((s.core core).alloc.all fun a => apart base a.2.1 a.2.2)
      && s.live.all fun e => e.1 != core || decide (160 ≤ e.2.1) || apart base e.2.2.spadBase e.2.2.spadSize).map
    fun k => (4096 * k, size)

/-- The allocation of a triggered strand that starts in a slot (R163): the slot's own; while a parked strand still uses that
one (R283, R445), another range of the core (log 79). -/
def triggerAlloc (s : State) (core slot : Nat) : Option (Nat × Nat) :=
  let own := ((s.core core).alloc.find slot).getD (0, 4096)
  if allocFree s core slot then some own else spareRange s core own.2

/-- A free reserved slot of a stage on a core, the lowest-numbered first (R270), that a test on the slot accepts. -/
def freeReserved (s : State) (core stage : Nat) (p : Nat → Bool) : Option Nat :=
  ((s.core core).reserved.find? fun r => r.2 == stage && slotFree s core r.1 && p r.1).map (·.1)

/-- The ports of a stage's strands in a launch, as its queues bind them; a queue split per rank is bound only to its rank
(R293). -/
def stagePorts (img : Image) (queues : List Nat) (specs : List (Nat × Option Nat)) (stage : Nat) (rank : Option Nat) :
    Tab Port :=
  (specs.zip queues).foldl (fun (t : Tab Port) sq =>
    match img.queues[sq.1.1]? with
    | none => t
    | some q =>
      if sq.1.2.isNone || sq.1.2 == rank then
        let t := if q.fromStage = stage then t.insert q.fromPort { queue := sq.2, out := true } else t
        if q.toStage = stage then t.insert q.toPort { queue := sq.2, out := false } else t
      else t) []

/-- The queues of an image: the number of the directive, and the rank where it is split (R293). -/
def queueSpecs (img : Image) : List (Nat × Option Nat) :=
  img.queues.zipIdx.flatMap fun q =>
    match img.stages[q.1.fromStage]?, img.stages[q.1.toStage]? with
    | some f, some t =>
      if !f.elastic && !t.elastic && f.least == t.least && decide (1 < f.least) then
        (List.range f.least).map fun r => (q.2, some r)
      else [(q.2, none)]
    | _, _ => []

/-- The registers of a triggered strand (R320). -/
def triggerRegs (e : WatchEntry) (t : Track) : Tab Word :=
  let xs : Tab Word := []
  let word := fun (w : Word) => if t.overflow then 0 else w
  let xs := xs.set 0 1 (if t.overflow then e.start else BitVec.ofNat 64 t.granule)
  let xs := (xs.set 0 2 (word t.before)).set 0 3 (word t.after)
  let xs := (xs.set 0 4 (BitVec.ofNat 64 e.number)).set 0 6 (word (BitVec.ofNat 64 (t.marks % 256)))
  xs.set 0 5 (putBit t.overflow 63 ||| putBit (t.sat && !t.overflow) 62 ||| put (t.count % 2 ^ 32) 0)

/-- The oldest pending trigger of an entry, when no entry of its stage on the die has an older one (R320). -/
def oldestTrigger (s : State) (d : Nat) (e : WatchEntry) : Option Track :=
  let pending := fun (x : WatchEntry) => x.tracks.filter fun t => !t.running
  let rivals := ((s.die d).watch.filter fun x => x.2.lid == e.lid && x.2.stage == e.stage).flatMap fun x => pending x.2
  (pending e).find? fun t => rivals.all fun u => decide (t.stamp ≤ u.stamp)

/-- R320: the oldest pending trigger of a handler stage starts a strand in a free reserved slot of the first core of the stage on the entry's die. -/
def execTriggerStart (die entry : Nat) (s : State) : Host.Outcome State Fault Refusal :=
  match (s.die die).watch.find entry with
  | none => .next s
  | some e => match oldestTrigger s die e, (partOfDie s die).bind fun p => s.launch p e.lid with
    | some t, some l => match l.stages[e.stage]? with
      | none => .next s
      | some g =>
        let place := (g.cores.filter fun c => dieOf c == die).findSome? fun c => (freeReserved s c e.stage fun t => (triggerAlloc s c t).isSome).map fun k => (c, k)
        match place with
        | none => .next s
        | some (core, slot) =>
          if l.phase ≠ .running then .next s
          else
            let (base, size) := (triggerAlloc s core slot).getD (0, 4096)
            let st : Strand := {
              kind := .triggered, gen := s.nextGen, stage := e.stage, rank := t.pos, lid := e.lid, xs := triggerRegs e t
              pc := put l.codeOid 48 ||| put g.entry 0, level := g.prio, depth := t.depth, claim := some (die, entry, t.pos)
              ports := stagePorts l.img l.queues (queueSpecs l.img) e.stage none, spadBase := base, spadSize := size }
            let e' := { e with started := e.started + 1, tracks := e.tracks.map fun u =>
              if u.pos == t.pos then { u with running := true } else u }
            let s := setEntry s die entry e'
            let s := s.setCore core (spadClear (s.core core) base size)
            let s := (s.setStrand core slot st)
            .next (noteMoved (noteRan { s with nextGen := s.nextGen + 1 } l) core)
    | _, _ => .next s

/-- R323: a rate window of 4,000 clk ends and the count of new triggers restarts. -/
def execWatchRateWindow (die entry : Nat) (s : State) : Host.Outcome State Fault Refusal :=
  match (s.die die).watch.find entry with
  | some e => .next (setEntry s die entry (rollWindow s.clk e))
  | none => .next s

end Sys2Proof.Machine
end

