-- ==== Sys2Proof/Machine/Branch.lean ====
section
/-! DEFINITION. Control transfer (R36, R37, R110 to R115). -/

namespace Sys2Proof.Machine

/-- The verdict on a line-relative target (R36): the target, or why the instruction traps or waits. EVALUE of a target line
that fails its checks is the address of the target head (log 32). A line under another object id is outside the code
object, whatever rights it has there: OBJ_BOUNDS before OBJ_PERMISSION (log 76). Head index 0 is no head of any line: it
comes before what the object of the line says (R36, R130), and after a malformed line (R60). -/
def lineTarget (v : Vals) (off : Int) (head : Nat) : Except Stop Word :=
  let pc := v.cx.st.pc
  let line := pc - BitVec.ofNat 64 (pc.toNat % 64)
  let target := line + BitVec.ofInt 64 (off * 64)
  let dest := target + BitVec.ofNat 64 (2 * head)
  let fails := fun (c : Cause) => Except.error (α := Word) (.trap (if head = 0 then .targetBad else c) dest)
  if oidOf target ≠ oidOf pc then fails .objBounds
  else match codeLine v.s (partyOf v.cx.core v.cx.st) target with
  | .error (.miss page) => .error (.miss page 2)
  | .error .bounds => fails .objBounds
  | .error .permission => fails .objPermission
  | .error .absent => fails .objAbsent
  | .error .poisoned => if head = 0 then .error (.trap .targetBad dest) else .ok dest
  | .ok bytes =>
    if malformed bytes then .error (.trap .lineMalformed target)
    else if head = 0 ∨ headCount (halfAt bytes 0) < head then .error (.trap .targetBad dest)
    else .ok dest

/-- A conditional branch (R110): a branch that is not taken checks nothing about its target. -/
def branch (i : Instr) (src : List Reg) (off : BitVec 21) (head : BitVec 5) (s : State)
    (taken : (Reg → Word) → Bool) : Host.Outcome State Fault Refusal :=
  issue i (fun _ => { src := src }) s fun v =>
    if taken v.x then
      match lineTarget v off.toInt head.toNat with
      | .error e => .error e
      | .ok t => .ok { s := v.s, st := v.cx.st, jump := some t }
    else results v []

/-- R110: branches when equal. -/
def execBeq (a : Reg) (hint : Bool) (b : Reg) (off : BitVec 21) (head : BitVec 5) (s : State) :
    Host.Outcome State Fault Refusal :=
  branch (.beq a hint b off head) [a, b] off head s fun x => x a == x b

/-- R110: branches when different. -/
def execBne (a : Reg) (hint : Bool) (b : Reg) (off : BitVec 21) (head : BitVec 5) (s : State) :
    Host.Outcome State Fault Refusal :=
  branch (.bne a hint b off head) [a, b] off head s fun x => x a != x b

/-- R110: branches when below as s64. -/
def execBlt (a : Reg) (hint : Bool) (b : Reg) (off : BitVec 21) (head : BitVec 5) (s : State) :
    Host.Outcome State Fault Refusal :=
  branch (.blt a hint b off head) [a, b] off head s fun x => (x a).slt (x b)

/-- R110: branches when at or above as s64. -/
def execBge (a : Reg) (hint : Bool) (b : Reg) (off : BitVec 21) (head : BitVec 5) (s : State) :
    Host.Outcome State Fault Refusal :=
  branch (.bge a hint b off head) [a, b] off head s fun x => !(x a).slt (x b)

/-- R110: branches when below as w64. -/
def execBltw (a : Reg) (hint : Bool) (b : Reg) (off : BitVec 21) (head : BitVec 5) (s : State) :
    Host.Outcome State Fault Refusal :=
  branch (.bltw a hint b off head) [a, b] off head s fun x => (x a).ult (x b)

/-- R110: branches when at or above as w64. -/
def execBgew (a : Reg) (hint : Bool) (b : Reg) (off : BitVec 21) (head : BitVec 5) (s : State) :
    Host.Outcome State Fault Refusal :=
  branch (.bgew a hint b off head) [a, b] off head s fun x => !(x a).ult (x b)

/-- R110: branches when the named bit is 1. -/
def execBbs (a : Reg) (hint : Bool) (n : BitVec 6) (off : BitVec 21) (head : BitVec 5) (s : State) :
    Host.Outcome State Fault Refusal :=
  branch (.bbs a hint n off head) [a] off head s fun x => bit (x a) n.toNat

/-- R110: branches when the named bit is 0. -/
def execBbc (a : Reg) (hint : Bool) (n : BitVec 6) (off : BitVec 21) (head : BitVec 5) (s : State) :
    Host.Outcome State Fault Refusal :=
  branch (.bbc a hint n off head) [a] off head s fun x => !bit (x a) n.toNat

/-- R110: branches when zero. -/
def execBz (a : Reg) (hint : Bool) (off : BitVec 21) (head : BitVec 5) (s : State) :
    Host.Outcome State Fault Refusal :=
  branch (.bz a hint off head) [a] off head s fun x => x a == 0

/-- R110: branches when not zero. -/
def execBnz (a : Reg) (hint : Bool) (off : BitVec 21) (head : BitVec 5) (s : State) :
    Host.Outcome State Fault Refusal :=
  branch (.bnz a hint off head) [a] off head s fun x => x a != 0

/-- R112: always goes to the target. -/
def execJmp (off : BitVec 27) (head : BitVec 5) (s : State) : Host.Outcome State Fault Refusal :=
  issue (.jmp off head) (fun _ => {}) s fun v =>
    match lineTarget v off.toInt head.toNat with
    | .error e => .error e
    | .ok t => .ok { s := v.s, st := v.cx.st, jump := some t }

/-- R112: goes to the target and writes the sequential successor (R36). -/
def execJal (d : Reg) (off : BitVec 27) (head : BitVec 5) (s : State) : Host.Outcome State Fault Refusal :=
  issue (.jal d off head) (fun _ => { dst := [d] }) s fun v =>
    match lineTarget v off.toInt head.toNat with
    | .error e => .error e
    | .ok t => .ok { s := v.s, st := v.cx.st, jump := some t, xs := [(d, successor v.s.cursor.header v.cx.st.pc)] }

/-- R113: the program counter from a register, checked by R37. -/
def jumpTo (v : Vals) (t : Word) : Except Stop Done :=
  match checkHead v.s (partyOf v.cx.core v.cx.st) t with
  | .bad => .error (.trap .targetBad t)
  | .malformed line _ => .error (.trap .lineMalformed line)
  | .miss page => .error (.miss page 2)
  | .good => .ok { s := v.s, st := v.cx.st, jump := some t }

/-- R113: jump to a register value. -/
def execJr (a : Reg) (s : State) : Host.Outcome State Fault Refusal :=
  issue (.jr a) (fun _ => { src := [a] }) s fun v => jumpTo v (v.x a)

/-- R113: as jr; the return predictor is no state. -/
def execRet (a : Reg) (s : State) : Host.Outcome State Fault Refusal :=
  issue (.ret a) (fun _ => { src := [a] }) s fun v => jumpTo v (v.x a)

/-- R114: decrements the counter register and branches while it is not zero. -/
def execLoop (r : Reg) (off : BitVec 21) (head : BitVec 5) (s : State) : Host.Outcome State Fault Refusal :=
  issue (.loop r off head) (fun _ => { src := [r], dst := [r] }) s fun v =>
    let n := v.x r - 1
    if n = 0 then results v [(r, n)]
    else match lineTarget v off.toInt head.toNat with
      | .error e => .error e
      | .ok t => .ok { s := v.s, st := v.cx.st, jump := some t, xs := [(r, n)] }

end Sys2Proof.Machine
end

