-- ==== Sys2Proof/Machine/Launches.lean ====
section
/-! DEFINITION. Launches: packets and records (R258, R261, R264), claims and placement (R269 to R276, R293, R294), the LAUNCH and SLICE instructions (R314, R315), parking and restoring, the balancer, the watchdog and the end of a launch (R283 to R291). -/

namespace Sys2Proof.Machine

/-! Host memory, packets and completion records. -/

/-- Writes bytes of host memory. -/
def hostStore (s : State) (addr : Nat) (bs : List Byte) : State :=
  { s with host := { s.host with mem := bs.zipIdx.foldl (fun (m : Tab Byte) p => m.set 0 (addr + p.2) p.1) s.host.mem } }

/-- Reads bytes of host memory. -/
def hostBytes (s : State) (addr n : Nat) : List Byte := (List.range n).map fun i => Tab.get 0 (addr + i) s.host.mem

/-- A host command queue. -/
def hostQueue (s : State) (q : Nat) : HostQueue := s.host.queues.get {} q

/-- Writes a host command queue. -/
def setHostQueue (s : State) (q : Nat) (v : HostQueue) : State :=
  { s with host := { s.host with queues := s.host.queues.insert q v } }

/-- The partition of a host queue (R255, R369). -/
def queuePart (s : State) (q : Nat) : Option Nat := (s.parts.find? fun p => bit p.2.queues q).map (·.1)

/-- Moves a queue's read pointer on by a packet, and writes it into the pointer pair (R255). -/
def advanceQueue (s : State) (q n : Nat) : State :=
  let v := hostQueue s q
  let r := v.rptr + n
  let r := if r = 2 ^ v.lsize then 0 else r
  hostStore (setHostQueue s q { v with rptr := r }) (bits v.ptra 63 4 * 16 + 8) (leBytes 8 r)

/-- A packet completes: counted in done and, when asked, raising its queue's vector, unless the queue was disabled under
it (R258, R260). -/
def completePacket (s : State) (q num : Nat) : State :=
  let v := hostQueue s q
  match v.packets.find? fun p => p.num == num with
  | none => s
  | some p =>
    let v := { v with packets := v.packets.filter fun r => r.num != num }
    if p.silent then setHostQueue s q v
    else
      let s := setHostQueue s q { v with done := (v.done + 1) % 2 ^ 32 }
      if p.intr then raiseVector s q else s

/-- The two words of a completion record (R264). -/
def recordPair (lid code clk : Nat) : List Byte × List Byte :=
  (leBytes 8 clk, leBytes 8 (put lid 32 ||| put code 8 ||| put 1 0).toNat)

/-- Writes a launch's completion record: bytes 8 to 15 first; into host memory, or into the object that a strand named
(R264, R314). The spec gives the controller's writes no chain depth: 0 (log 111). -/
def writeRecord (s : State) (l : Launch) (code clk : Nat) : State :=
  if l.status = 0 then s
  else
    let r := recordPair l.lid code clk
    match l.packet with
    | some _ => hostStore (hostStore s (l.status.toNat + 8) r.1) l.status.toNat r.2
    | none => match hostCells s l.part true l.status 16 with
      | some cells => storeCells (storeCells s ((cells.drop 8).zip r.1) 0) ((cells.take 8).zip r.2) 0
      | none => s

/-- Ends a launch's accounting: record, lerr, packet (R258, R264, R289). -/
def concludeLaunch (s : State) (l : Launch) (code clk : Nat) : State :=
  let s := writeRecord s l code clk
  match l.packet with
  | none => s
  | some (q, num) =>
    let v := hostQueue s q
    completePacket (if code = 0 then s else setHostQueue s q { v with lerr := code }) q num

/-! Starting a launch (R261, R268, R269). -/

/-- The mesh cores of a rectangle in raster order (R270). -/
def rectCores (px py w h : Nat) : List Nat :=
  (List.range h).flatMap fun y => (List.range w).map fun x => (py + y) * 64 + px + x

/-- Whether a rectangle lies within the mesh and the partition's dies (R269). -/
def rectFits (s : State) (part px py w h : Nat) : Bool :=
  decide (px + w ≤ 64) && decide (py + h ≤ 32) && (rectCores px py w h).all fun c => partOf s c == some part

/-- The origin of a launch's claim: the one it names, or the position with the least py0 and then the least even px0
(R269); `free` asks that no launch hold its cores. -/
def claimOrigin (s : State) (l : Launch) (free : Bool) : Option (Nat × Nat) :=
  let tries := if l.auto then (List.range 32).flatMap fun y => (List.range 32).map fun x => (2 * x, y) else [(l.px, l.py)]
  tries.find? fun o => rectFits s l.part o.1 o.2 l.img.width l.img.height
    && (!free || (rectCores o.1 o.2 l.img.width l.img.height).all fun c => (s.core c).lid.isNone)

/-- Whether the place and reserved fields of a LAUNCH packet's words are in order (R261). -/
def launchWordsGood (ws : List Word) : Bool :=
  let place := ws.getD 4 0
  bits place 31 17 == 0 && ws.getD 5 0 == 0 && !(bit place 16 && bits place 15 0 != 0)

/-- The next launch id that the controller assigns, and the partition's next one (R268). -/
def assignLid (s : State) (part : Nat) : Nat × State :=
  match s.parts.find part with
  | none => (0, s)
  | some p =>
    let live := (s.launches.filter fun l => l.part == part).map (·.lid)
    let nth := fun i => (p.nextLid - 1 + i) % 0x7FFFFFFF + 1
    let id := (((List.range (live.length + 1)).map nth).find? fun k => !live.contains k).getD 1
    (id, { s with parts := s.parts.insert part { p with nextLid := id % 0x7FFFFFFF + 1 } })

/-- A rectangle of no cores, for a launch whose image cannot be read. -/
def noImage : Image :=
  { width := 0, height := 0, stages := [], queues := [], records := [], objects := [], watches := [], code := [], routes := [] }

/-- A launch of a LAUNCH packet's words (R261). -/
def launchOfWords (part lid : Nat) (ws : List Word) (packet : Option (Nat × Nat)) : Launch :=
  let place := ws.getD 4 0
  { lid := lid, part := part, image := ws.getD 1 0, seed := ws.getD 2 0, status := ws.getD 3 0, packet := packet
    auto := bit place 16, px := bits place 7 0, py := bits place 15 8
    args := (List.range 8).map fun k => ws.getD (6 + k) 0, phase := .waiting, img := noImage }

/-- A launch from its packet's words: its id, its image, its group and its rectangle are checked in this order, and it
waits for its claim (R265 to R269). Gives the id, and whether it failed. -/
def startLaunch (s : State) (part : Nat) (ws : List Word) (packet : Option (Nat × Nat)) : State × Nat × Bool :=
  let group := bits (ws.getD 4 0) 63 32
  let taken := s.launches.any fun l => l.part == part && l.lid == group
  let (lid, s) := if group = 0 then assignLid s part else (group, s)
  let l := launchOfWords part lid ws packet
  let fail := fun (s : State) (code : Nat) => (concludeLaunch s l code 0, lid, true)
  match loadImage s part l.image with
  | .error c => fail s c
  | .ok (s, img, ld) =>
    let l := { l with img := img, stages := img.stages, codeOid := ld.code, objects := ld.objects }
    if group ≠ 0 ∧ (group < 2 ^ 31 ∨ taken) then fail s codeGroup
    else if (claimOrigin s l false).isNone then fail s codeRect
    else ({ s with launches := s.launches ++ [l] }, lid, false)

/-! Placement (R270). -/

/-- A slot that a stage takes on a core: an instance of a rank, or a reserved slot. -/
structure SlotUse where
  core : Nat
  stage : Nat
  rank : Option Nat
deriving DecidableEq, Repr

/-- Where a launch's stages stand: the slots in the order in which each core numbers them, the cores' modes, and E of
each stage. -/
structure Placing where
  uses : List SlotUse
  modes : List (Nat × Bool)
  cores : List (List Nat)
deriving DecidableEq, Repr

/-- Whether a core is of a stage's kind (R270). -/
def kindFits (kind core : Nat) : Bool := kind == 0 || (kind == 1 && isDense core) || (kind == 2 && isSparse core)

/-- Places the stages in image order (R270); an error is the launch's code. -/
def placeStages (rect : List Nat) : List (StageInfo × Nat) → Placing → Except Nat Placing
  | [], p => .ok p
  | (t, i) :: ts, p =>
    let modeOf := fun c => (p.modes.find? fun m => m.1 == c).map (·.2)
    let e := rect.filter fun c => kindFits t.kind c && (modeOf c).all (· == t.wide)
    if t.least ≠ 0 ∧ e.isEmpty then .error codePlace
    else
      let insts := (List.range t.least).map fun r => e.getD (r % e.length) 0
      let holders := if t.least = 0 ∧ !t.elastic then e else insts.dedup
      if t.elastic ∧ t.reserve * holders.length < t.most - t.least then .error codeLimit
      else
        let res := holders.flatMap fun c => List.replicate t.reserve (SlotUse.mk c i none)
        let used := if t.reserve = 0 then insts.dedup else holders
        placeStages rect ts {
          uses := p.uses ++ (insts.zipIdx.map fun c => ⟨c.1, i, some c.2⟩) ++ res
          modes := p.modes ++ ((used.filter fun c => (modeOf c).isNone).map fun c => (c, t.wide))
          cores := p.cores ++ [e] }

/-- The slots of a core, in order (R270). -/
def Placing.slotsOf (p : Placing) (core : Nat) : List SlotUse := p.uses.filter fun u => u.core == core

/-- The scratchpad of a stage. -/
def spadOf (stages : List StageInfo) (i : Nat) : Nat := ((stages[i]?).map (·.spad)).getD 4096

/-- Whether every core has the slots and the scratchpad that a placement needs (R270). -/
def placeFits (stages : List StageInfo) (rect : List Nat) (p : Placing) : Bool :=
  rect.all fun c =>
    let us := p.slotsOf c
    let wide := ((p.modes.find? fun m => m.1 == c).map (·.2)).getD false
    decide (us.length ≤ if wide then 8 else 16) && decide ((us.map fun u => spadOf stages u.stage).foldl (· + ·) 0 ≤ 524288)

/-! Queues (R272, R293, R294). -/

/-- The cores where a stage's strands can be: of one rank, or of all its instances and reserved slots (R272). -/
def endCores (p : Placing) (stage : Nat) (rank : Option Nat) : List Nat :=
  ((p.uses.filter fun u => u.stage == stage && (rank.isNone || u.rank == rank)).map (·.core)).dedup

/-- Kind and die of the queue of a directive (R272): 0 local, 1 die ring, 2 cross-die ring. -/
def ringOf (p : Placing) (q : QueueInfo) (rank : Option Nat) : Nat × Nat :=
  let cons := endCores p q.toStage rank
  let all := (endCores p q.fromStage rank ++ cons).dedup
  let home := (((if cons.isEmpty then all else cons).map dieOf).min?).getD 0
  (if all.length ≤ 1 then 0 else if (all.map dieOf).dedup.length ≤ 1 then 1 else 2, home)

/-- The queues of a launch with their kinds and dies. -/
def ringsOfImage (img : Image) (p : Placing) : List (QueueInfo × Option Nat × Nat × Nat) :=
  (queueSpecs img).filterMap fun sp => (img.queues[sp.1]?).map fun q => (q, sp.2, ringOf p q sp.2)

/-- Whether the local queues of every core fit its queue store (R294). -/
def localFits (img : Image) (p : Placing) (rect : List Nat) : Bool :=
  rect.all fun c => decide ((((ringsOfImage img p).filter fun r =>
    r.2.2.1 == 0 && (endCores p r.1.fromStage r.2.1 ++ endCores p r.1.toStage r.2.1).contains c).map fun r => r.1.depth).foldl
      (· + ·) 0 ≤ 4096)

/-- The carve that a launch takes on a die: its rings and a spill buffer for each of its cores there (R272, R294). -/
def carveNeed (img : Image) (p : Placing) (rect : List Nat) (d : Nat) : Nat :=
  (((ringsOfImage img p).filter fun r => r.2.2.1 != 0 && r.2.2.2 == d).map fun r => 16 * r.1.depth).foldl (· + ·) 0
    + 65536 * (rect.filter fun c => dieOf c == d).length

/-- The carve of a die that arenas and running launches leave free (R168, R272). -/
def carveRoom (s : State) (d : Nat) : Nat :=
  let arenas := (s.regions.filter fun e => regionValid s e.2 && bits e.2.1 59 58 == 1 && (members e.2.1).contains d).map
    fun e => regionSize e.2.2 / (members e.2.1).length
  let held := s.launches.map fun l => if l.phase == .waiting then 0 else l.carve.get 0 d
  carveOf s d - arenas.foldl (· + ·) 0 - held.foldl (· + ·) 0

/-! The start of a launch (R271, R274, R275). -/

/-- A stage word (R275). -/
def stageWord (t : StageInfo) : List Byte :=
  leBytes 8 (put t.cores.length 32 ||| put t.most 16 ||| put t.least 0).toNat
    ++ leBytes 8 (put t.kind 14 ||| putBit t.elastic 13 ||| putBit t.wide 12 ||| put t.prio 10 ||| put t.reserve 0).toNat

/-- Bytes padded with zeros to a length. -/
def padTo (n : Nat) (bs : List Byte) : List Byte := (bs ++ List.replicate (n - bs.length) 0).take n

/-- The record page of a launch (R274). -/
def recordPage (l : Launch) : List Byte :=
  let word := fun (w : Word) => leBytes 8 w.toNat
  let record := fun (k : Nat) => match l.img.records.find? fun r => r.1 == k with
    | some r => word (l.objects.getD r.2.1 0) ++ (r.2.2.drop 1).flatMap word
    | none => []
  padTo 0x100 (leBytes 8 l.lid ++ word l.seed
      ++ word (put l.img.height 24 ||| put l.img.width 16 ||| put l.py 8 ||| put l.px 0) ++ word l.image ++ l.args.flatMap word)
    ++ ((List.range 8).flatMap fun k => padTo 64 (record k)) ++ padTo 0x400 (l.stages.flatMap stageWord)
    ++ padTo 0x800 (l.objects.flatMap word) ++ List.replicate 0x100 0

/-- Bytes as a table from position 0. -/
def byteTab (bs : List Byte) : Tab Byte := bs.zipIdx.foldl (fun (t : Tab Byte) p => t.set 0 p.2 p.1) []

/-- Pairs of a flat list. -/
def pairsOf : List Nat → List (Nat × Nat)
  | a :: b :: rest => (a, b) :: pairsOf rest
  | _ => []

/-- What the route section of an image says of its queue number k (R273). -/
def routeOf (img : Image) (k : Nat) : RouteEntry :=
  let f := Config.routeEntry k img.routes
  let g := fun i => f.getD i []
  { kind := (g 0).getD 0 0, die := (g 0).getD 1 0, producers := pairsOf (g 1), consumers := pairsOf (g 2), dies := g 3
    cores := g 4 }

/-- A die relative to the one that holds the origin of a rectangle: 4 rows down + columns right (R12, R273). -/
def relDie (px py d : Nat) : Nat := 4 * (d / 4 - py / 16) + (d % 4 - px / 16)

/-- Whether a route entry agrees with the placement of its queue, and every core and die it crosses lies in the rectangle
(R273): ends, ring kind, ring die; the dies of the ends and of the ring are among those crossed. -/
def routeGood (p : Placing) (img : Image) (px py : Nat) (r : QueueInfo × Option Nat × Nat × Nat) (e : RouteEntry) : Bool :=
  let (q, rank, kind, die) := r
  let rect := rectCores px py img.width img.height
  let rel := fun (c : Nat) => (pyOf c - py) * 64 + (pxOf c - px)
  let ends := fun (stage : Nat) => p.uses.filterMap fun u =>
    if u.stage == stage && (rank.isNone || u.rank == rank) then u.rank.map fun n => (stage, n) else none
  let dies := (rect.map fun c => relDie px py (dieOf c)).dedup
  let must := ((endCores p q.fromStage rank ++ endCores p q.toStage rank).map fun c => relDie px py (dieOf c))
  e.kind == kind && e.die == relDie px py die && e.producers == ends q.fromStage && e.consumers == ends q.toStage
    && (kind == 0 || (relDie px py die :: must).all e.dies.contains) && e.dies.all dies.contains
    && e.cores.all (rect.map rel).contains

/-- Whether the route section of an image agrees with a placement (R273): it says nothing about an image without queues. -/
def routesAgree (p : Placing) (img : Image) (px py : Nat) : Bool :=
  (ringsOfImage img p).zipIdx.all fun r => routeGood p img px py r.1 (routeOf img r.2)

/-- The route table of a core (R273): the entries of the queues that have an end there. -/
def routeTable (p : Placing) (img : Image) (core : Nat) : List RouteEntry :=
  ((ringsOfImage img p).zipIdx.filter fun r =>
    (endCores p r.1.1.fromStage r.1.2.1 ++ endCores p r.1.1.toStage r.1.2.1).contains core).map fun r => routeOf img r.2

/-- A core as a launch claims it: mode, slots, zeroed allocations, reset units, record page (R271, R274). -/
def claimedCore (c : Core) (core : Nat) (l : Launch) (p : Placing) (page : Tab Byte) : Core :=
  let us := (p.slotsOf core).zipIdx
  let base := fun (k : Nat) => (((p.slotsOf core).take k).map fun u => spadOf l.stages u.stage).foldl (· + ·) 0
  { c with
    wide := ((p.modes.find? fun m => m.1 == core).map (·.2)).getD c.wide
    lid := some l.lid
    reserved := us.filterMap fun u => if u.1.rank.isNone then some (u.2, u.1.stage) else none
    alloc := us.map fun u => (u.2, base u.2, spadOf l.stages u.1.stage)
    spad := c.spad.filter fun e => Config.supervisorBase ≤ e.1
    bad := c.bad.filter fun k => decide (Config.supervisorBase ≤ k) && decide (k < 2 ^ 20)
    routes := routeTable p l.img core
    recPage := page, tile := {}, merge := {}, channels := [], turns := [] }

/-- An instance as a launch or the balancer starts it (R22, R274). -/
def instStrand (l : Launch) (stage rank gen base : Nat) : Strand :=
  let t := (l.stages[stage]?).getD { entry := 0, spad := 4096, kind := 0, least := 0, most := 0, elastic := false, wide := false, prio := 0, reserve := 0, park := false }
  { kind := .inst, gen := gen, stage := stage, rank := rank, lid := l.lid, pc := put l.codeOid 48 ||| put t.entry 0
    level := t.prio, ports := stagePorts l.img l.queues (queueSpecs l.img) stage (some rank), spadBase := base
    spadSize := t.spad, elastic := t.elastic }

/-- The instances of a placement: use, slot, generation. -/
def placedInsts (p : Placing) (rect : List Nat) (gen : Nat) : List (SlotUse × Nat × Nat) :=
  ((rect.flatMap fun c => (p.slotsOf c).zipIdx.filter fun u => u.1.rank.isSome).zipIdx).map fun u => (u.1.1, u.1.2, gen + u.2)

/-- The queues of a launch as they start: full credits, the instances as producers and consumers (R288, R293, R295). -/
def startQueues (img : Image) (p : Placing) (insts : List (SlotUse × Nat × Nat)) (lid first : Nat) : List (Nat × Queue) :=
  (ringsOfImage img p).zipIdx.map fun r =>
    let (q, rank, kind, die) := r.1
    let ends := fun (stage : Nat) =>
      (insts.filter fun u => u.1.stage == stage && (rank.isNone || u.1.rank == rank)).map fun u => (u.2.2, u.1.rank.getD 0)
    (first + r.2, {
      gen := first + r.2, lid := lid, kind := kind, die := die, depth := q.depth, credits := q.depth
      producers := ends q.fromStage, consumers := ends q.toStage
      coalesce := rank.isNone && (img.stages[q.fromStage]?).any fun t => t.elastic || t.least != 0 })

/-- Applies a change to each of a list of cores. -/
def onCores (s : State) (cs : List Nat) (f : Nat → Core → Core) : State :=
  cs.foldl (fun s c => s.setCore c (f c (s.core c))) s

/-- The links that the routes of an image's queues cross at an origin (R273, R413). -/
def routeLinks (img : Image) (px py : Nat) : List Nat :=
  if img.queues.isEmpty then [] else Config.routeLinks img.routes px py

/-- Starts a launch whose rectangle is free at an origin: placement, carve, routes, then the steps of R274. A failure
leaves nothing running. -/
def grantClaim (s : State) (l0 : Launch) (px py : Nat) : State :=
  let rect := rectCores px py l0.img.width l0.img.height
  let rest := { s with launches := s.launches.filter fun m => !(m.lid == l0.lid && m.part == l0.part) }
  let l0 := { l0 with px := px, py := py, phase := .running, started := s.clk, moved := s.clk }
  match placeStages rect l0.img.stages.zipIdx { uses := [], modes := [], cores := [] } with
  | .error c => concludeLaunch rest l0 c 0
  | .ok p =>
    if !l0.img.recordFields.all (recordFits (l0.img.stages.map (·.kind)) px l0.img.width) then
      concludeLaunch rest l0 codeLimit 0
    else if !placeFits l0.img.stages rect p || !localFits l0.img p rect then concludeLaunch rest l0 codePlace 0
    else
      let moded := onCores rest rect fun c x => { x with wide := ((p.modes.find? fun m => m.1 == c).map (·.2)).getD x.wide }
      let dies := (rect.map dieOf).dedup
      let links := routeLinks l0.img px py
      if dies.any fun d => decide (carveRoom s d < carveNeed l0.img p rect d) then concludeLaunch moded l0 codeCarve 0
      else if !routesAgree p l0.img px py || links.any s.pkg.downLinks.contains then
        concludeLaunch moded l0 codeRoute 0
      else
        let insts := placedInsts p rect s.nextGen
        let queues := startQueues l0.img p insts l0.lid s.nextQueue
        let stages := l0.img.stages.zipIdx.map fun (t : StageInfo × Nat) => { t.1 with cores := p.cores.getD t.2 [] }
        let l := { l0 with
          stages := stages, queues := queues.map (·.1), carve := dies.map (fun d => (d, carveNeed l0.img p rect d)), links := links
          ran := if insts.isEmpty then none else some s.clk }
        let page := byteTab (recordPage l)
        let claimed := onCores moded rect fun c x => claimedCore x c l p page
        match armAll claimed l l.img.watches.zipIdx with
        | none =>
          concludeLaunch (onCores claimed rect fun _ x => { x with lid := none, reserved := [], alloc := [], routes := [] }) l0 codeLimit 0
        | some s =>
          let base := fun (u : SlotUse × Nat × Nat) => (((s.core u.1.core).alloc.find u.2.1).map (·.1)).getD 0
          let s := queues.foldl (fun s q => s.setQueue q.1 q.2) { s with launches := s.launches ++ [l] }
          let s := insts.foldl (fun s u =>
            s.setStrand u.1.core u.2.1 (instStrand l u.1.stage (u.1.rank.getD 0) u.2.2 (base u))) s
          { s with nextGen := s.nextGen + insts.length, nextQueue := s.nextQueue + queues.length }

/-- R269: the oldest waiting claim of a partition is granted once its rectangle is free, or fails (R264). -/
def execClaimGrant (part : Nat) (s : State) : Host.Outcome State Fault Refusal :=
  match s.launches.find? fun l => l.part == part && l.phase == .waiting with
  | none => .next s
  | some l => match claimOrigin s l true with
    | none => .next s
    | some (px, py) => .next (grantClaim (match l.packet with | some (q, _) => advanceQueue s q 112 | none => s) l px py)

/-! LAUNCH and SLICE (R314, R315). -/

/-- R314: starts a launch from a packet in the scratchpad; xd is its id, or 0 when the packet fails a check. -/
def execLaunch (d p : Reg) (s : State) : Host.Outcome State Fault Refusal :=
  issue (.launch d p) (fun _ => { src := [p], dst := [d] }) s fun v =>
    let c := v.s.core v.cx.core
    let st := v.cx.st
    let o := (v.x p).toNat
    if st.acquiring then .error .stall
    else match spadBad c st.spadBase st.spadSize 0 o 112 with
    | some w => .error (.detail .memUncorrectable 1 (BitVec.ofNat 64 w))
    | none =>
      let bs := spadRead c st.spadBase st.spadSize 0 o 112
      let ws := (List.range 14).map fun k => BitVec.ofNat 64 (ofLe ((bs.drop (8 * k)).take 8))
      match partOf v.s v.cx.core with
      | none => results v [(d, 0)]
      | some part =>
        let record := ws.getD 3 0
        let recordBad := record != 0 && (record.toNat % 16 != 0 || (hostPhys v.s part true record 16).isNone)
        if ws.getD 0 0 ≠ 0x70001 ∨ recordBad ∨ !launchWordsGood ws then results v [(d, 0)]
        else if 64 ≤ (v.s.launches.filter fun l => l.part == part && l.phase == .waiting && l.packet.isNone).length then
          .error .stall
        else
          let r := startLaunch v.s part ws none
          .ok { s := r.1, st := st, xs := [(d, BitVec.ofNat 64 r.2.1)] }

/-- Word of the record page. -/
def pageWord (c : Core) (o : Nat) : Word := BitVec.ofNat 64 (ofLe ((List.range 8).map fun i => c.recPage.get 0 ((o + i) % 4096)))

/-- P and p of a core for an axis, by the rectangle and the stage's kind that its record page gives (R274, R277). -/
def partsOf (c : Core) (core stage : Nat) (axisY : Bool) : Nat × Nat :=
  let rect := pageWord c 0x10
  let (h, w, py0, px0) := (bits rect 31 24, bits rect 23 16, bits rect 15 8, bits rect 7 0)
  let kind := if stage < 64 then bits (pageWord c (0x300 + 16 * stage + 8)) 15 14 else 0
  if axisY then (h, pyOf core - py0)
  else if kind = 0 then (w, pxOf core - px0)
  else
    let cols := (List.range w).filter fun x => (px0 + x) % 2 == (if kind = 1 then 0 else 1)
    (columnsOf kind px0 w, (cols.filter fun x => decide (px0 + x < pxOf core)).length)

/-- The result of SLICE (R315): first, count or address of block j of a shape record on an axis. -/
def sliceValue (c : Core) (core stage k what j : Nat) (axisY : Bool) : Word :=
  let w := fun (i : Nat) => pageWord c (0x100 + 64 * k + 8 * i)
  let f := w 1
  let n := fun (d : Nat) => (w (2 + d)).toNat
  if bits f 7 4 = 0 then 0
  else
    let on := if axisY then bit f 15 else bit f 11
    let d := if on then (if axisY then bits f 13 12 else bits f 9 8) else 0
    let blk := if on then (if axisY then w 7 else w 6).toNat else n 0
    let cyclic := on && (if axisY then bit f 14 else bit f 10)
    let (parts, p) := partsOf c core stage axisY
    let b := if cyclic then some (p + j * parts) else if j = 0 then some p else none
    let (first, cnt) := match b with
      | some b => if n d ≤ b * blk then (n d, 0) else (b * blk, Nat.min blk (n d - b * blk))
      | none => (n d, 0)
    let width := widthOf (ElemTy.ofCode (BitVec.ofNat 4 (bits f 3 0)))
    let elems := ((List.range d).map n).foldl (· * ·) 1
    match what with
    | 0 => BitVec.ofNat 64 first
    | 1 => BitVec.ofNat 64 cnt
    | _ =>
      w 0 + BitVec.ofNat 64 (first * elems * width / 8)

/-- R315: first index, count or address of a block of the strand's part of a shape record. -/
def execSlice (d j : Reg) (k : BitVec 6) (what : BitVec 2) (axis : Bool) (s : State) : Host.Outcome State Fault Refusal :=
  issue (.slice d j k what axis) (fun _ => { src := [j], dst := [d], illegal := k.toNat > 7 || what == 3 }) s fun v =>
    let c := v.s.core v.cx.core
    let o := (List.range 64).find? fun i => c.bad.contains (2 ^ 20 + 0x100 + 64 * k.toNat + i)
    match o with
    | some i => .error (.detail .memUncorrectable 1 (BitVec.ofNat 64 (0x100 + 64 * k.toNat + i)))
    | none =>
      results v [(d, sliceValue c v.cx.core v.cx.st.stage k.toNat what.toNat (v.x j).toNat axis)]

end Sys2Proof.Machine
end

