-- ==== Sys2Proof/Machine/Ending.lean ====
section
/-! DEFINITION. While a launch runs and when it ends: parking and restoring (R283, R284), the balancer (R286, R287), the watchdog (R290, R291), and the end of a launch (R289). -/

namespace Sys2Proof.Machine

/-! Parking and restoring. -/

/-- R284: a parking strand's state has been written to its area and its slot becomes free. -/
def execParkSaveComplete (core area : Nat) (s : State) : Host.Outcome State Fault Refusal :=
  let c := s.core core
  .next (s.setCore core { c with parking := c.parking.filter fun p => p.1 != area })

/-- Whether a wake condition holds for a parked strand (R283, R310). A word with an uncorrectable error wakes none (log 110). -/
def wakeHolds (s : State) (core : Nat) (st : Strand) : Bool :=
  match st.wake with
  | none => false
  | some (.counter c t) => decide ((st.counter c).pending ≤ t.toNat)
  | some (.word a t) => match (List.range 8).mapM fun i => homeAt s core (after a i) with
    | some cells => !cells.any (isPoisoned s) && decide (t.toNat ≤ ofLe (readCells s cells))
    | none => false
  | some (.queue port) => (headOf s st port).isSome
  | some (.clock t) => decide (t.toNat ≤ (envReg s core st 4).toNat)
  | some (.fill page) => !missPending s core page

/-- The parked strands whose wake condition holds, by place, in the order in which it came to hold; ties go to the lower
park area (R284). -/
def noteWakes (s : State) : State :=
  let now := (s.strands.filter fun e => decide (32 ≤ e.1 % 256) && decide (e.1 % 256 < 96) && wakeHolds s (e.1 / 256) e.2).map
    (·.1)
  { s with woken := (s.woken.filter now.contains) ++ now.filter fun k => !s.woken.contains k }

/-- A free user slot of a core that no stage reserves, the lowest-numbered (R270, R284). -/
def freeUnreserved (s : State) (core : Nat) : Option Nat :=
  firstBelow (userSlots (s.core core)) fun t =>
    slotFree s core t && ((s.core core).reserved.find t).isNone

/-- R284: a parked strand whose condition holds is restored into a free unreserved slot, in the order in which the conditions of its core's strands came to hold. -/
def execUnpark (core area : Nat) (s : State) : Host.Outcome State Fault Refusal :=
  let s := noteWakes s
  let place := parkPlace area
  match s.strand core place, freeUnreserved s core with
  | some st, some slot =>
    let turn := s.woken.find? fun k => k / 256 == core && !(s.core core).parking.any fun p => parkPlace p.1 == k % 256
    if area < 64 ∧ turn = some (placeKey core place) then
      .next { (s.dropStrand core place).setStrand core slot { st with wake := none } with
        woken := s.woken.filter (· != placeKey core place) }
    else .next s
  | _, _ => .next s

/-! The balancer (R285 to R287). -/

/-- The live instances of a stage of a launch: core, place, strand. -/
def instancesOf (s : State) (part lid stage : Nat) : List (Nat × Nat × Strand) :=
  s.live.filter fun e => e.2.2.kind == .inst && e.2.2.lid == lid && e.2.2.stage == stage && partOf s e.1 == some part

/-- Replaces the stage of a number of a launch. -/
def setStage (s : State) (l : Launch) (stage : Nat) (t : StageInfo) : State :=
  s.setLaunch { l with stages := l.stages.set stage t }

/-- Occupancy and depth of the input of a stage's instances (R286): the elements of the ring and those held there, not those on
their way (log 108). -/
def inputFill (s : State) (l : Launch) (stage : Nat) : Option (Nat × Nat) :=
  let ports := stagePorts l.img l.queues (queueSpecs l.img) stage none
  ((ports.find? fun p => !p.2.out).bind fun p => s.queue p.2.queue).map fun q => (q.ring.length + q.held.length, q.depth)

/-- The lowest rank that no live instance holds (R286). -/
def freeRank (insts : List (Nat × Nat × Strand)) : Nat :=
  (firstBelow (insts.length + 1) fun r => insts.all fun e => e.2.2.rank != r).getD 0

/-- Starts one more instance of an elastic stage (R286): lowest free rank, first free reserved slot in raster order. -/
def addInstance (s : State) (l : Launch) (stage : Nat) (core slot : Nat) : State :=
  let rank := freeRank (instancesOf s l.part l.lid stage)
  let (base, size) := ((s.core core).alloc.find slot).getD (0, 4096)
  let st := { instStrand l stage rank s.nextGen base with spadSize := size }
  let s := (s.setCore core (spadClear (s.core core) base size)).setStrand core slot st
  let join := fun (e : Nat × Queue) => if l.queues.contains e.1 then
      let outs := st.ports.any fun p => p.2.queue == e.1 && p.2.out
      let ins := st.ports.any fun p => p.2.queue == e.1 && !p.2.out
      (e.1, { e.2 with
        producers := if outs then e.2.producers ++ [(st.gen, rank)] else e.2.producers
        consumers := if ins then e.2.consumers ++ [(st.gen, rank)] else e.2.consumers })
    else e
  { s with queues := s.queues.map join, nextGen := s.nextGen + 1 }

/-- Marks the live instance of the highest rank for retirement (R287). -/
def markHighest (s : State) (insts : List (Nat × Nat × Strand)) : State :=
  match insts.find? fun e => insts.all fun f => decide (f.2.2.rank ≤ e.2.2.rank) with
  | some (core, place, st) =>
    s.setStrand core place { st with retiring := if st.retiring = .no then .marked else st.retiring }
  | none => s

/-- A sample of an elastic stage's input (R286): two consecutive samples above 3/4 of the depth add an instance, two below
1/8 retire one. -/
def sampleStage (s : State) (l : Launch) (stage : Nat) (t : StageInfo) : State :=
  match inputFill s l stage with
  | none => s
  | some (occ, depth) =>
    let t := { t with
      sampled := (s.clk - l.started) / 4096
      above := if 3 * depth < 4 * occ then t.above + 1 else 0
      below := if 8 * occ < depth then t.below + 1 else 0 }
    let insts := instancesOf s l.part l.lid stage
    let slot := t.cores.findSome? fun c => (freeReserved s c stage (allocFree s c)).map fun k => (c, k)
    let fresh := { t with above := 0, below := 0 }
    match decide (2 ≤ t.above) && decide (insts.length < t.most), slot with
    | true, some (c, k) =>
      let l := { l with ran := some (l.ran.getD s.clk) }
      addInstance (setStage s l stage fresh) l stage c k
    | _, _ =>
      if 2 ≤ t.below ∧ t.least < insts.length then markHighest (setStage s l stage fresh) insts
      else setStage s l stage t

/-- R286: the balancer samples an elastic stage's input when another 4,096 clk of its launch have passed. -/
def execBalancerSample (lid stage : Nat) (s : State) : Host.Outcome State Fault Refusal :=
  let due := fun (l : Launch) => l.lid == lid && l.phase == .running
    && (l.stages[stage]?).any fun t => t.elastic && decide (t.sampled < (s.clk - l.started) / 4096)
  match s.launches.find? due with
  | none => .next s
  | some l => match l.stages[stage]? with
    | some t => .next (sampleStage s l stage t)
    | none => .next s

/-- R287: the retiring instance at a place, having taken its token, is given the eos of its input. -/
def execElasticEos (core slot : Nat) (s : State) : Host.Outcome State Fault Refusal :=
  match s.strand core slot with
  | some st => if st.retiring = .closed then .next (s.setStrand core slot { st with retiring := .eos }) else .next s
  | none => .next s

/-! The watchdog (R290, R291). -/

/-- The cores that a launch holds. -/
def coresOf (s : State) (l : Launch) : List Nat :=
  (s.cores.filter fun e => e.2.lid == some l.lid && partOf s e.1 == some l.part).map (·.1)

/-- Whether a launch has been still for 2^20 clk; no clk counts while one of its cores is pre-empted (R291, R394). -/
def stillLaunch (s : State) (l : Launch) : Bool :=
  l.phase == .running && decide (l.moved + 1048576 ≤ s.clk) && (coresOf s l).all fun c => !(s.core c).preempted

/-- R291: the watchdog stops a launch that has been still too long, tells the package controller, and each core of it. -/
def execWatchdogStop (lid : Nat) (s : State) : Host.Outcome State Fault Refusal :=
  match s.launches.find? fun l => l.lid == lid && stillLaunch s l with
  | none => .next s
  | some l =>
    let held := (coresOf s l).foldl (fun s c => holdEvent s c (.watchdog l.lid)) (endLaunch s l.part l.lid codeWatchdog)
    .next { raiseEvent held ⟨1, put l.part 32 ||| put l.lid 0, Config.freeWord s.free⟩ with free := s.free + 1 }

/-! The end of a launch (R289). -/

/-- Whether a trigger of a launch is pending. -/
def triggerPending (s : State) (l : Launch) : Bool :=
  s.dies.any fun d => partOfDie s d.1 == some l.part && d.2.watch.any fun e =>
    e.2.lid == l.lid && e.2.tracks.any fun t => !t.running

/-- Whether nothing of a launch is left on its cores: no strand but the supervisor's, no operation of a unit or engine, no
acknowledgement awaited (R289). -/
def coreSettled (s : State) (core : Nat) : Bool :=
  let c := s.core core
  (s.strands.all fun e => e.1 / 256 != core || e.1 % 256 == supervisorSlot || (decide (160 ≤ e.1 % 256) && e.2.pend.isEmpty))
    && c.ops.isEmpty && c.tile.queue.isEmpty
    && c.tile.ended.isEmpty && c.merge.run.isNone && c.merge.failed.isEmpty

/-- Whether a strand of a core has yet to be stopped: one that is no remainder of a retired strand. -/
def strandsLeft (s : State) (core : Nat) : Bool :=
  s.strands.any fun e => e.1 / 256 == core && e.1 % 256 != supervisorSlot && decide (e.1 % 256 < 160)

/-- Stops the strands of a core of a launch that ends early and discards its operations (R291, R386): accesses that have
issued are still performed. -/
def stopCore (s : State) (core : Nat) : State :=
  let gone := s.strands.filter fun e => e.1 / 256 == core && e.1 % 256 != supervisorSlot && decide (e.1 % 256 < 160)
  let s := gone.foldl (fun s e =>
    let s := s.dropStrand core (e.1 % 256)
    let s := match e.2.message with | some m => acknowledge s m true | none => s
    leaveGhost s core e.2) s
  let c := s.core core
  s.setCore core { c with
    ops := [], locks := [], channels := [], parking := [], merge := { c.merge with run := none, failed := [] }
    tile := { c.tile with queue := [], ended := [], rowprog := 0, fault := none, taken := false, stopValue := 0 } }

/-- Messages for a core that a launch releases are dropped and negatively acknowledged (R206, R289). -/
def dropMessages (s : State) (core : Nat) : State :=
  let c := s.core core
  c.inbox.foldl (fun s m => acknowledge s m true) ((dropSpill s core).setCore core { c with inbox := [], spill := [] })

/-- Transfers for a core that a launch releases end at their senders (R244). -/
def dropTransfers (s : State) (core : Nat) : State :=
  let c := s.core core
  let ts := c.channels.flatMap fun h => h.2.current.toList ++ h.2.waiting
  ts.foldl (fun s t => endDest (dropBeats s t) t 2) (s.setCore core { c with channels := [] })

/-- A core as a launch leaves it (R289, R386): a halted core is quiescent again, with nest = 0. -/
def releasedCore (c : Core) : Core :=
  { c with
    lid := none, reserved := [], alloc := [], routes := [], parking := [], vacated := [], copies := [], locks := []
    halted := false, preempted := false, restoring := false, resuming := false, frozen := c.supRunning, porterWait := none
    ecause := if c.halted then c.ecause &&& ~~~(put 1 11) else c.ecause }

/-- Releases a launch that has ended (R289): watches, messages, rectangle, record, done. -/
def finishLaunch (s : State) (l : Launch) : State :=
  let cores := coresOf s l
  let clear := fun (d : Nat × Die) =>
    if partOfDie s d.1 == some l.part then (d.1, { d.2 with watch := d.2.watch.filter fun e => e.2.lid != l.lid }) else d
  let s := { s with dies := s.dies.map clear }
  let s := cores.foldl (fun s c => dropTransfers (dropMessages s c) c) s
  let s := cores.foldl (fun s c => s.setCore c (releasedCore (s.core c))) s
  let s := { s with
    strands := s.strands.filter (fun e => !(cores.contains (e.1 / 256) && decide (160 ≤ e.1 % 256)))
    queues := s.queues.filter (fun q => !l.queues.contains q.1)
    launches := s.launches.filter fun m => !(m.lid == l.lid && m.part == l.part && m.phase != .waiting) }
  concludeLaunch s l l.code ((l.ran.map (s.clk - ·)).getD 0)

/-- Whether a launch may end of itself: every stage has ended, and everything it issued is complete (R289). -/
def launchDone (s : State) (l : Launch) : Bool :=
  l.phase == .running && !triggerPending s l && (coresOf s l).all (coreSettled s)

/-- One turn of the end of a launch: a natural end, or the stopping of its strands, and then its release. -/
def endTurn (s : State) (l : Launch) : State :=
  if launchDone s l then finishLaunch s l
  else if l.phase ≠ .ending then s
  else if (coresOf s l).any (strandsLeft s) then (coresOf s l).foldl stopCore s
  else if (coresOf s l).all (coreSettled s) then finishLaunch s l else s

/-- R289: a launch ends: of itself, or stopped. -/
def execLaunchEnd (lid : Nat) (s : State) : Host.Outcome State Fault Refusal :=
  match s.launches.find? fun l => l.lid == lid && (l.phase == .ending || launchDone s l) with
  | some l => .next (endTurn s l)
  | none => .next s

end Sys2Proof.Machine
end

