-- ==== Sys2Proof/Machine/FrontEnd.lean ====
section
/-! DEFINITION. The front end: host command queues, their packets and their registers (R255 to R263). -/

namespace Sys2Proof.Machine

/-! Polling and halting (R255 to R259). -/

/-- Halts a queue at its packet (R259). -/
def haltQueue (s : State) (q hcode : Nat) : State :=
  raiseVector (setHostQueue s q { hostQueue s q with halt := true, hcode := hcode }) q

/-- Host address of the ring (R255). -/
def ringBase (v : HostQueue) : Nat := bits v.qbase 63 12 * 4096

/-- The words of the packet at the read pointer. -/
def packetWords (s : State) (v : HostQueue) (n : Nat) : List Word :=
  (List.range n).map fun k => BitVec.ofNat 64 (ofLe (hostBytes s (ringBase v + v.rptr + 8 * k) 8))

/-- The header at the read pointer (R257). -/
def headerWord (s : State) (v : HostQueue) : Word := (packetWords s v 1).getD 0 0

/-- Whether len is allowed for op (R257). -/
def lenAllowed (h : Word) : Bool :=
  let len := bits h 27 16
  match bits h 3 0 with
  | 1 => len == 7
  | 6 => if bit h 5 then len != 0 else len == 1
  | _ => len == 2

/-- The hcode of a header, 0 when it is in order (R259, steps 3 to 5). -/
def headerCode (v : HostQueue) (h : Word) : Nat :=
  if bits h 3 0 = 0 ∨ 7 ≤ bits h 3 0 then 1
  else if !lenAllowed h then 2
  else if 2 ^ v.lsize < v.rptr + 16 * bits h 27 16 then 4 else 0

/-- The hcode of a whole packet whose header is in order (R259, steps 7 and 8; the checks of an address that a table
decides come when the packet starts). -/
def bodyCode (h : Word) (ws : List Word) : Nat :=
  let op := bits h 3 0
  if bits h 63 28 ≠ 0 ∨ bits h 15 8 ≠ 0 ∨ bit h 4 ∨ ((op = 2 ∨ op = 3) ∧ bit h 5) then 3
  else if (op = 2 ∨ op = 3) ∧ bits (ws.getD 3 0) 63 32 ≠ 0 then 3
  else if op = 1 ∧ !launchWordsGood ws then 3
  else if op = 1 ∧ (ws.getD 3 0).toNat % 16 ≠ 0 then 5 else 0

/-- Bytes from the read pointer that a write pointer covers before the end of the ring (R256). -/
def coveredBytes (v : HostQueue) (w : Nat) : Nat := if v.rptr ≤ w then w - v.rptr else 2 ^ v.lsize - v.rptr

/-- Whether a LAUNCH of the queue waits for its claim: it has not started (R258). -/
def claimWaiting (s : State) (q : Nat) : Bool :=
  s.launches.any fun l => l.phase == .waiting && l.packet.any fun p => p.1 == q

/-- The packet at the read pointer: its header and words, when the last write pointer read covers it, or its hcode. -/
def packetAt (s : State) (v : HostQueue) (w : Nat) : Option (Except Nat (Word × List Word)) :=
  if w = v.rptr then none
  else
    let h := headerWord s v
    if headerCode v h ≠ 0 then some (.error (headerCode v h))
    else if coveredBytes v w < 16 * bits h 27 16 then none
    else
      let ws := packetWords s v (2 * bits h 27 16)
      if bodyCode h ws ≠ 0 then some (.error (bodyCode h ws)) else some (.ok (h, ws))

/-- R255, R259: the front end reads a queue's write pointer, and halts the queue on a bad pointer or packet; `fail` is a host bus error in reading the pointer pair (1), the header (2) or the body (3) of the packet, which is met in its place in the order of the checks. -/
def execFrontEndPoll (queue fail : Nat) (s : State) : Host.Outcome State Fault Refusal :=
  let v := hostQueue s queue
  if !v.enable || v.halt || claimWaiting s queue then .next s
  else if fail = 1 then .next (haltQueue s queue 6)
  else
    let w := ofLe (hostBytes s (bits v.ptra 63 4 * 16) 8)
    let v := { v with wptr := some w }
    let s' := setHostQueue s queue v
    if w % 16 ≠ 0 ∨ 2 ^ v.lsize ≤ w then .next (haltQueue s queue 7)
    else if fail = 2 ∧ w ≠ v.rptr then .next (haltQueue s' queue 6)
    else match packetAt s v w with
      | none => .next s'
      | some r =>
        if fail = 3 ∧ headerCode v (headerWord s v) = 0 then .next (haltQueue s' queue 6)
        else match r with
        | .error c => .next (haltQueue s' queue c)
        | .ok _ => .next s'

/-! Starting packets (R258). -/

/-- Whether a packet may start now: SIGNAL, and FENCE with var = 0, always behave as if after were set; nothing starts
behind a WAITSIG or an unclaimed LAUNCH (R258). -/
def mayStart (s : State) (q : Nat) (v : HostQueue) (h : Word) : Bool :=
  let op := bits h 3 0
  let after := bit h 7 || op == 4 || (op == 6 && !bit h 5)
  !claimWaiting s q && (v.packets.all fun p => p.op != 5 || p.finished) && (!after || v.packets.isEmpty)

/-- The packet that a queue may start next, as it stands once started. -/
def nextPacket (s : State) (q : Nat) : Option Packet :=
  let v := hostQueue s q
  match v.enable && !v.halt, v.wptr with
  | true, some w => match packetAt s v w with
    | some (.ok (h, ws)) =>
      if mayStart s q v h then
        some { num := v.nextNum, op := bits h 3 0, var := bit h 5, intr := bit h 6, words := ws, finished := false }
      else none
    | _ => none
  | _, _ => none

/-- Puts a packet among the started ones. -/
def beginPacket (s : State) (q : Nat) (p : Packet) : State :=
  let v := hostQueue s q
  setHostQueue s q { v with packets := v.packets ++ [p], nextNum := v.nextNum + 1 }

/-- Starts the next packet of a queue, of an op and var; else the event is not enabled (log 6). -/
def startNext (s : State) (q op : Nat) (var : Option Bool) (f : Nat → Packet → State) : Host.Outcome State Fault Refusal :=
  match nextPacket s q, queuePart s q with
  | some p, some part => if p.op == op && var.all (· == p.var) then .next (f part p) else .next s
  | _, _ => .next s

/-- A packet that starts and has done all it does: it waits only to be counted (R258). -/
def startFinished (s : State) (q : Nat) (p : Packet) : State :=
  advanceQueue (beginPacket s q { p with finished := true }) q (8 * p.words.length)

/-- The host address, object address and length of a COPYIN or COPYOUT (R262). -/
def copyArgs (p : Packet) : Nat × Word × Nat :=
  ((p.words.getD 1 0).toNat, p.words.getD 2 0, bits (p.words.getD 3 0) 31 0)

/-- R262: copies host memory into device memory, with the watch comparison of a store; a host bus error halts the queue, and part of the bytes may have been written. -/
def execCopyin (queue : Nat) (buserr : Bool) (s : State) : Host.Outcome State Fault Refusal :=
  startNext s queue 2 none fun part p =>
    let (host, a, n) := copyArgs p
    if n = 0 then startFinished s queue p
    else match hostCells s part true a n with
    | none => haltQueue s queue 5
    | some cells =>
      if hostMoving s part a n then s
      else
        let ws := cells.zip (hostBytes s host n)
        if buserr then
          haltQueue { storeCells s (ws.take (Config.victim s.free % (n + 1))) 0 with free := s.free + 1 } queue 6
        else startFinished (storeCells s ws 0) queue p

/-- The bytes that a read for the host finds: all ones for a whole 8-byte unit with an uncorrectable error (R405), and the
physical address of the first such byte. -/
def hostView (s : State) (a : Word) (phys : List Nat) : List Byte × Option Nat :=
  let badAt := fun (p : Nat) => (cellAt s p).any (isPoisoned s)
  let units := (phys.zipIdx.filter fun p => badAt p.1).map fun p => (a.toNat + p.2) / 8
  (phys.zipIdx.map fun p => if units.contains ((a.toNat + p.2) / 8) then 255
    else ((cellAt s p.1).map s.byteAt).getD 0, phys.find? badAt)

/-- Reports an uncorrectable error that a read for the host met: event 3 with the page's physical address (R405, R406). -/
def reportError (s : State) (part : Nat) (bad : Option Nat) : State :=
  match bad with
  | some p => raiseEvent s ⟨3, put part 32, BitVec.ofNat 64 (p / 65536 * 65536)⟩
  | none => s

/-- R262: copies device memory to host memory by posted writes. -/
def execCopyout (queue : Nat) (s : State) : Host.Outcome State Fault Refusal :=
  startNext s queue 3 none fun part p =>
    let (host, a, n) := copyArgs p
    if n = 0 then startFinished s queue p
    else match hostPhys s part false a n with
    | none => haltQueue s queue 5
    | some phys =>
      if phys.any fun x => (cellAt s x).isNone then haltQueue s queue 5
      else
        let (bs, bad) := hostView s a phys
        startFinished (reportError (hostStore s host bs) part bad) queue p

/-- The cells of a signal word: an 8-byte aligned word of a dense object (R263). -/
def signalCells (s : State) (part : Nat) (write : Bool) (a : Word) : Option (List Nat) :=
  if a.toNat % 8 = 0 then hostCells s part write a 8 else none

/-- Starts a SIGNAL with the new value of its word (R263). -/
def signal (s : State) (queue : Nat) (add : Bool) : Host.Outcome State Fault Refusal :=
  startNext s queue 4 (some add) fun part p =>
    let a := p.words.getD 1 0
    let val := p.words.getD 2 0
    match signalCells s part true a with
    | none => haltQueue s queue 5
    | some cells =>
      if hostMoving s part a 8 then s
      else if add && cells.any (isPoisoned s) then
        startFinished (reportError s part ((hostPhys s part true a 8).bind (·.head?))) queue p
      else
        let old := BitVec.ofNat 64 (ofLe (readCells s cells))
        startFinished (storeCells s (pairWrites cells (if add then old + val else val).toNat) 0) queue p

/-- R263: writes a signal word as a release. -/
def execSignalSet (queue : Nat) (s : State) : Host.Outcome State Fault Refusal := signal s queue false

/-- R263: adds to a signal word as a release. -/
def execSignalAdd (queue : Nat) (s : State) : Host.Outcome State Fault Refusal := signal s queue true

/-- Whether a WAITSIG's condition holds (R263). -/
def signalHolds (s : State) (part : Nat) (p : Packet) : Bool :=
  match signalCells s part false (p.words.getD 1 0) with
  | none => false
  | some cells =>
    let w := ofLe (readCells s cells)
    let v := (p.words.getD 2 0).toNat
    !cells.any (isPoisoned s) && (if p.var then w == v else decide (v ≤ w))

/-- Starts a WAITSIG: it is complete once its condition holds. -/
def waitSignal (s : State) (queue : Nat) (eq : Bool) : Host.Outcome State Fault Refusal :=
  startNext s queue 5 (some eq) fun part p =>
    match signalCells s part false (p.words.getD 1 0) with
    | none => haltQueue s queue 5
    | some _ =>
      advanceQueue (beginPacket s queue { p with finished := signalHolds s part p }) queue (8 * p.words.length)

/-- R263: waits until a signal word is at or above a value. -/
def execWaitsigGe (queue : Nat) (s : State) : Host.Outcome State Fault Refusal := waitSignal s queue false

/-- R263: waits until a signal word equals a value. -/
def execWaitsigEq (queue : Nat) (s : State) : Host.Outcome State Fault Refusal := waitSignal s queue true

/-- R263: a waiting WAITSIG reads its word again. -/
def execWaitsigPoll (queue : Nat) (s : State) : Host.Outcome State Fault Refusal :=
  let v := hostQueue s queue
  match queuePart s queue with
  | none => .next s
  | some part =>
    let again := fun (p : Packet) => if p.op = 5 ∧ !p.finished then { p with finished := signalHolds s part p } else p
    .next (setHostQueue s queue { v with packets := v.packets.map again })

/-- R263: completes once every earlier packet has completed. -/
def execFencePacket (queue : Nat) (s : State) : Host.Outcome State Fault Refusal :=
  startNext s queue 6 (some false) fun _ p => startFinished s queue p

/-- R263: starts and completes at once; its body is ignored. -/
def execPad (queue : Nat) (s : State) : Host.Outcome State Fault Refusal :=
  startNext s queue 6 (some true) fun _ p => startFinished s queue p

/-- R261: a LAUNCH loads its image and waits for its claim, or fails with its code. -/
def execLaunchPacket (queue : Nat) (s : State) : Host.Outcome State Fault Refusal :=
  startNext s queue 1 (some false) fun part p =>
    let r := startLaunch (beginPacket s queue p) part p.words (some (queue, p.num))
    if r.2.2 then advanceQueue r.1 queue 112 else r.1

/-- R266: a LAUNCH with var = 1 creates the image's objects and runs nothing; no launch has the id in its record. -/
def execLaunchLoadOnly (queue : Nat) (s : State) : Host.Outcome State Fault Refusal :=
  startNext s queue 1 (some true) fun part p =>
    let s := advanceQueue (beginPacket s queue p) queue 112
    let l := launchOfWords part ((Config.freeWord s.free).toNat % 2 ^ 32) p.words (some (queue, p.num))
    let s := { s with free := s.free + 1 }
    match loadImage s part l.image with
    | .error c => concludeLaunch s l c 0
    | .ok (s, _, _) => concludeLaunch s l 0 0

/-- R258: a finished packet is counted, and its interrupt raised if asked. -/
def execPacketComplete (queue index : Nat) (s : State) : Host.Outcome State Fault Refusal :=
  if (hostQueue s queue).packets.any fun p => p.num == index && p.finished then .next (completePacket s queue index)
  else .next s

/-! Queue registers (R255, R260). -/

/-- Disables a queue (R260): waiting claims are withdrawn with code STOPPED, a WAITSIG ends, and what runs on is counted no
more. -/
def disableQueue (s : State) (q : Nat) : State :=
  let v := hostQueue s q
  let quiet := (v.packets.filter fun p => p.op != 5 || p.finished).map fun p => { p with silent := true }
  let s := setHostQueue s q { v with enable := false, packets := quiet.filter fun p => !p.finished }
  let mine := s.launches.filter fun l => l.phase == .waiting && l.packet.any fun p => p.1 == q
  let s := { s with launches := s.launches.filter fun l => !(l.phase == .waiting && l.packet.any fun p => p.1 == q) }
  mine.foldl (fun s l => concludeLaunch s l codeStopped 0) s

/-- Enables a queue (R255, R260): only with a legal ring size, with every started packet gone, and in a partition. -/
def enableQueue (s : State) (q : Nat) : State :=
  let v := hostQueue s q
  if v.enable || v.lsize < 12 || 20 < v.lsize || !v.packets.isEmpty || (queuePart s q).isNone then s
  else
    let s := setHostQueue s q { v with enable := true, rptr := 0, done := 0, wptr := none }
    hostStore s (bits v.ptra 63 4 * 16 + 8) (leBytes 8 0)

/-- A write of QSIZE: the ring size while enable is 0, then enable (R255). -/
def writeQsize (s : State) (q : Nat) (val : Word) : State :=
  let v := hostQueue s q
  let s := if v.enable then s else setHostQueue s q { v with lsize := bits val 4 0 }
  if bit val 63 then enableQueue s q else if v.enable then disableQueue s q else s

/-- R255: a write of 1 to enable serves the queue from read pointer 0. -/
def execQueueEnable (queue : Nat) (s : State) : Host.Outcome State Fault Refusal :=
  if queue < 64 ∧ s.pkg.boot ≠ 0 then .next (enableQueue s queue) else .next s

/-- R260: a write of 0 to enable. -/
def execQueueDisable (queue : Nat) (s : State) : Host.Outcome State Fault Refusal :=
  if (hostQueue s queue).enable then .next (disableQueue s queue) else .next s

/-- R259: a write of 1 to halt resumes the queue at its packet. -/
def execQueueResume (queue : Nat) (s : State) : Host.Outcome State Fault Refusal :=
  let v := hostQueue s queue
  if v.halt then .next (setHostQueue s queue { v with halt := false }) else .next s

/-- QSTAT (R255). -/
def qstatWord (v : HostQueue) : Word :=
  putBit v.halt 63 ||| put v.hcode 48 ||| put v.lerr 40 ||| putBit (!v.packets.isEmpty) 32 ||| put (v.done % 2 ^ 32) 0

end Sys2Proof.Machine
end

