-- ==== Sys2Proof/Machine/Mailbox.lean ====
section
/-! DEFINITION. The endpoint's registers and interrupts (R364, R365), the mailbox and its commands (R366 to R369, R374, R409), the window (R367) and peer ports (R371). -/

namespace Sys2Proof.Machine

/-! The mailbox (R366). -/

/-- What a command returns: code, detail, and the data words it writes. -/
abbrev Reply : Type := Nat × Nat × List (Nat × Word)

/-- The command is done. -/
def replyDone : Reply := (0, 0, [])

/-- A bad argument (code 2), naming its word. -/
def replyBad (word : Nat) : Reply := (2, word, [])

/-- A target in use (code 3). -/
def replyInUse : Reply := (3, 0, [])

/-- A mailbox data word. -/
def State.mbd (s : State) (k : Nat) : Word := s.host.mbd.get 0 k

/-- A write of MBCMD (R366, R373): ignored while busy; before boot is done only IDENT is carried out. The reply stands in
the state until the command completes. -/
def command (s : State) (op tag : Nat) (f : State → State × Reply) : State :=
  if s.pkg.boot = 0 then s
  else if s.host.busy then { s with host := { s.host with lost := true } }
  else
    let r : State × Reply := if op ≠ 1 ∧ s.pkg.boot ≠ 7 then (s, (if 0x80 ≤ s.pkg.boot then 6 else 5, 0, [])) else f s
    { r.1 with host := { r.1.host with busy := true, cmdTag := tag % 65536, result := some r.2 } }

/-- IDENT. -/
def identCommand (s : State) : State × Reply :=
  (s, 0, 0, [(0, 0x4810), (1, Config.serial), (2, BitVec.ofNat 64 s.pkg.id), (3, BitVec.ofNat 64 s.pkg.boot)])

/-- SETPKG (R368, R371). -/
def setpkgCommand (s : State) : State × Reply :=
  let id := bits (s.mbd 0) 15 0
  if id = 0 then (s, replyBad 0)
  else if !s.parts.isEmpty then (s, replyInUse)
  else ({ s with pkg := { s.pkg with id := id } }, replyDone)

/-- The partition that PARTCFG's arguments describe, which keeps what the launch controller has given out (R369). -/
def partcfgPartition (s : State) : Partition :=
  let p : Partition := (s.parts.find (bits (s.mbd 0) 10 8)).getD
    { dies := 0, carve := 0, otbase := 0, otcount := 0, partreg := 0, peers := 0, ports := 0, queues := 0 }
  { p with
    dies := bits (s.mbd 0) 7 0, carve := (s.mbd 1).toNat, otbase := bits (s.mbd 2) 47 6 * 64
    otcount := bits (s.mbd 3) 16 0, partreg := s.mbd 4, peers := bits (s.mbd 5) 23 8, ports := bits (s.mbd 5) 7 0
    queues := s.mbd 6, args := (List.range 7).map s.mbd }

/-- Why PARTCFG refuses its arguments: the index of the argument word (R369, R412). A region entry is checked against the
carve that the command sets (R173). -/
def partcfgBad (s : State) : Option Nat :=
  let k := bits (s.mbd 0) 10 8
  let dies := diesOf (bits (s.mbd 0) 7 0)
  let carve := (s.mbd 1).toNat
  let reg := s.mbd 4
  let others := s.parts.filter fun p => p.1 != k
  let listed := s.regions.filter fun e => bit reg e.1
  let firmware := (List.range 8).map Config.firmwareEntry
  let t := { s with parts := (k, partcfgPartition s) :: others }
  let share := fun (e : Nat × Word × Word) => bits e.2.2 31 0 * 65536 + regionSize e.2.2 / (members e.2.1).length
  if dies.isEmpty ∨ dies.any (fun d => (s.die d).unusable) then some 0
  else if 12 < carve then some 1
  else if !(listed.any fun e => regionValid t e.2 && decide (regionBase e.2.1 ≤ (s.mbd 2).toNat)
      && decide ((s.mbd 2).toNat < regionBase e.2.1 + regionSize e.2.2)
      && dies.contains (memberOf (homeIn e.2 (s.mbd 2).toNat))) then some 2
  else if others.any fun p => p.2.partreg &&& reg != 0 then some 4
  else if firmware.any fun e => bit reg e then some 4
  else if listed.any fun e => bit e.2.1 63 && bits e.2.1 59 58 == 1 && dies.any fun d =>
      (members e.2.1).contains d && decide (67108864 + carve * 16777216 < share e) then some 1
  else if others.any fun p => p.2.peers &&& bits (s.mbd 5) 23 8 != 0 || p.2.ports &&& bits (s.mbd 5) 7 0 != 0 then some 5
  else if others.any fun p => p.2.queues &&& s.mbd 6 != 0 then some 6
  else none

/-- PARTCFG (R368, R369): queues that leave the partition are disabled. A die that the partition has or is to have is in use
while a launch runs on it, so that its carve stays (R168). -/
def partcfgCommand (s : State) : State × Reply :=
  let k := bits (s.mbd 0) 10 8
  let dies := diesOf (bits (s.mbd 0) 7 0)
  match partcfgBad s with
  | some w => (s, replyBad w)
  | none =>
    let old := (List.range 8).filter fun d => partOfDie s d == some k
    let used := (dies ++ old).any fun d => (partOfDie s d).any (· != k)
      || (coresOfDie d).any fun c => (s.core c).lid.isSome
    if used then (s, replyInUse)
    else
      let p := partcfgPartition s
      let gone := (List.range 64).filter fun q => (s.parts.find k).any (fun p => bit p.queues q) && !bit (s.mbd 6) q
      let s := gone.foldl disableQueue s
      ({ s with parts := s.parts.insert k p }, replyDone)

/-- Takes translations of a partition's dies out of every TLB and CLB. -/
def dropTranslations (s : State) (part : Nat) (sel : Nat → Bool) : State :=
  let here := fun d => partOfDie s d == some part
  { s with
    cores := s.cores.map fun e => if here (dieOf e.1) then
      (e.1, { e.2 with tlb := e.2.tlb.filter (fun t => !sel t.oid), clb := e.2.clb.filter fun t => !sel t.oid }) else e
    clusters := s.clusters.map fun e => if here (e.1 / 16) then
      (e.1, { e.2 with tlb := e.2.tlb.filter fun t => !sel t.oid }) else e }

/-- Whether a queue of a partition has a LAUNCH packet outstanding (R368). -/
def launchOutstanding (s : State) (p : Partition) : Bool :=
  s.host.queues.any fun q => bit p.queues q.1 && q.2.packets.any fun k => k.op == 1

/-- Clears the valid bit of a descriptor (R331). -/
def freeDesc (s : State) (p : Partition) (oid : Nat) : State :=
  physWrite s (p.otbase + 64 * oid) (leBytes 8 (descWord s p oid 0 &&& ~~~(put 1 63)).toNat)

/-- The ids of a partition whose descriptors are valid (R331). -/
def validIds (s : State) (p : Partition) : List Nat := (List.range p.otcount).filter fun o => bit (descWord s p o 0) 63

/-- PARTCLR (R368): queues are disabled, every object of the table is freed, and dies, ports and queues belong to no
partition; translations of the freed objects do not stay (log 30). -/
def partclrCommand (s : State) : State × Reply :=
  let k := bits (s.mbd 0) 2 0
  match s.parts.find k with
  | none => (s, replyBad 0)
  | some p =>
    if s.launches.any (fun l => l.part == k) || launchOutstanding s p then (s, replyInUse)
    else
      let s := ((List.range 64).filter fun q => bit p.queues q && (hostQueue s q).enable).foldl disableQueue s
      let s := dropTranslations s k fun _ => true
      let s := (validIds s p).foldl (fun s o => freeDesc s p o) s
      ({ s with parts := s.parts.erase k, loaded := s.loaded.filter fun l => l.part != k }, replyDone)

/-- PEERMAP (R371): a mask of 0 removes the id. -/
def peermapCommand (s : State) : State × Reply :=
  let id := bits (s.mbd 0) 15 0
  ({ s with pkg := { s.pkg with peermap := s.pkg.peermap.set 0 id (bits (s.mbd 1) 15 0) } }, replyDone)

/-- UNLOAD (R366, R377): frees the image and every object it created. -/
def unloadCommand (s : State) : State × Reply :=
  let k := (s.mbd 0).toNat
  let a := s.mbd 1
  match s.parts.find k, loadedAt s k a with
  | none, _ => (s, replyBad 0)
  | _, none => (s, replyBad 1)
  | some p, some l =>
    if s.launches.any fun m => m.part == k && m.image == a then (s, replyInUse)
    else
      let oids := oidOf a :: l.code :: l.objects.map oidOf
      let s := oids.foldl (fun s o => freeDesc s p o) s
      let s := dropTranslations s k oids.contains
      let p := { p with taken := p.taken.filter fun t => t.2.2 != oidOf a }
      ({ s with parts := s.parts.insert k p, loaded := s.loaded.filter fun x => !(x.part == k && x.addr == a) }, replyDone)

/-- Ends a running launch for the host and tells each of its cores (R366, R392). -/
def stopRunning (s : State) (l : Launch) (reason : Nat) : State :=
  (coresOf s l).foldl (fun s c => holdEvent s c (.hostInterrupt l.lid reason)) (endLaunch s l.part l.lid codeStopped)

/-- Withdraws a claim that waits, with a code (R264, R269). -/
def withdrawClaim (s : State) (l : Launch) (code : Nat) : State :=
  let s := { s with launches := s.launches.filter fun m => !(m.part == l.part && m.lid == l.lid) }
  concludeLaunch (match l.packet with | some (q, _) => advanceQueue s q 112 | none => s) l code 0

/-- STOP (R366, R377): a launch that is not live is a bad argument; a claim that waits is withdrawn. -/
def stopCommand (s : State) : State × Reply :=
  let k := (s.mbd 0).toNat
  let lid := (s.mbd 1).toNat
  match s.launches.find? fun l => l.part == k && l.lid == lid with
  | none => (s, replyBad 1)
  | some l => match l.phase with
    | .running => (stopRunning s l 1, replyDone)
    | .ending => (s, replyDone)
    | .waiting => (withdrawClaim s l codeStopped, replyDone)

/-- The bytes of a SHA-384 hash. -/
def hashOf (bs : List Byte) : List Byte := (List.range 48).map (Config.sha384 bs)

/-- Whether an image's signature of a kind is Salward's: its key is the one whose hash the ROM holds, and it verifies
(R372). -/
def signedBy (key : Nat) (image : List Byte) : Bool :=
  let k := Config.imageKey key image
  hashOf k == (List.range 48).map (Config.romHash key) && Config.imageVerifies key k image

/-- Whether an image of a kind is accepted (R372): both signatures verify, and its version is at least the fused minimum. The
kinds are 0 to 3 for package controller, stack management, scrivener and supervisor firmware, 4 for the boot
configuration, and 5 for a routine image. -/
def imageAccepted (kind : Nat) (image : List Byte) : Bool :=
  signedBy 0 image && signedBy 1 image && decide (Config.fusedMinimum kind ≤ Config.imageVersion image)

/-- Loads the routines of an image, 16 to 63, into every routine engine; an image that is refused loads nothing (R178,
R372). -/
def loadRoutines (s : State) (image : List Byte) : State :=
  if !imageAccepted 5 image then s
  else
    let new := (Config.imageRoutines image).filter fun r => decide (16 ≤ r) && decide (r < 64)
    { s with pkg := { s.pkg with routines := new.foldl (fun (t : Tab (List Byte)) r => t.insert r image) s.pkg.routines } }

/-- FWLOAD (R366, R372): checks a routine image in host memory, and loads it; an image that cannot be read over the host bus
is refused (log 14). -/
def fwloadCommand (ok : Bool) (s : State) : State × Reply :=
  let image := hostBytes s (s.mbd 0).toNat (s.mbd 1).toNat
  if ok && imageAccepted 5 image then (loadRoutines s image, replyDone) else (s, 4, 0, [])

/-- Bytes that keys and sensors give. -/
def reportBytes (s : State) (cmd from0 n : Nat) : List Byte := (List.range n).map fun i => Config.reportByte cmd (from0 + i) s.free

/-- The seven measurements of a report (R374): the images that boot checked, the routine table, and the arguments of the
partition's PARTCFG. -/
def measurements (s : State) (p : Partition) : List Byte :=
  let images := (s.pkg.report.map (·.images)).getD []
  let table := Config.measured (s.pkg.routines.map fun r => BitVec.ofNat 64 r.1) (s.pkg.routines.map (·.2))
  ((List.range 5).flatMap fun i => hashOf (images.getD i [])) ++ hashOf table ++ hashOf (Config.measured p.args [])

/-- Bytes of the signature of a message by an identity key (R374). -/
def signatureOf (s : State) (key : Nat) (msg : List Byte) (n : Nat) : List Byte :=
  (List.range n).map (Config.signature key msg s.free)

/-- ATTEST (R374). -/
def attestCommand (s : State) : State × Reply :=
  let k := (s.mbd 1).toNat
  if (s.mbd 0).toNat % 4096 ≠ 0 then (s, replyBad 0)
  else match s.parts.find k with
  | none => (s, replyBad 1)
  | some p =>
    let r := leBytes 8 (2 ^ 32 + 0x54525441) ++ leBytes 8 Config.serial.toNat ++ leBytes 8 (k * 65536 + s.pkg.id)
      ++ List.replicate 40 0 ++ measurements s p ++ List.replicate 48 0
      ++ (List.range 4).flatMap fun i => leBytes 8 (s.mbd (2 + i)).toNat
    let report := r ++ signatureOf s 0 r 64 ++ signatureOf s 1 r 3309 ++ List.replicate 243 0
    ({ hostStore s (s.mbd 0).toNat report with free := s.free + 1 }, replyDone)

/-- WINSET (R367). -/
def winsetCommand (s : State) : State × Reply :=
  let a := s.mbd 1
  let k := bits (s.mbd 2) 2 0
  if a.toNat % 65536 ≠ 0 then (s, replyBad 1)
  else if a ≠ 0 ∧ (s.parts.find k).isNone then (s, replyBad 2)
  else ({ s with host := { s.host with windows := s.host.windows.insert (bits (s.mbd 0) 2 0) (a, k) } }, replyDone)

/-- EVREAD: the oldest event; 0 when none waits. -/
def evreadCommand (s : State) : State × Reply :=
  match s.pkg.events with
  | [] => (s, 0, 0, [(0, 0)])
  | e :: es =>
    ({ s with pkg := { s.pkg with events := es, overflow := s.pkg.overflow && e.code != 7 } },
      0, 0, [(0, BitVec.ofNat 64 e.code), (1, e.word), (2, e.detail)])

/-- CERTS. -/
def certsCommand (s : State) : State × Reply :=
  if (s.mbd 1).toNat < Config.certsLength then (s, replyBad 1)
  else
    let bs := (List.range Config.certsLength).map fun i => Config.reportByte 12 i 0
    (hostStore s (s.mbd 0).toNat bs, 0, 0, [(0, BitVec.ofNat 64 Config.certsLength)])

/-- The telemetry record (R409): temperatures and power are the sensors' (log 31). -/
def telemetry (s : State) : List Byte :=
  let counters := fun (d sensor base : Nat) => (List.range (sensor + 1)).flatMap fun k =>
    if k = sensor then reportBytes s 13 (base + 8 * k) 8 else leBytes 8 (Nat.min ((s.die d).counters.get 0 k) (2 ^ 64 - 1))
  let die := fun (d : Nat) => counters d 23 (64 + 224 * d)
  let far := fun (f : Nat) => counters (8 + f) 11 (1856 + 128 * f) ++ List.replicate 32 0
  leBytes 8 (2 ^ 32 + 0x53414C48) ++ leBytes 8 ((s.clk - s.pkg.bootClk) / 4000) ++ List.replicate 48 0
    ++ ((List.range 8).flatMap fun d => die d ++ List.replicate 32 0) ++ (List.range 2).flatMap far
    ++ reportBytes s 13 2112 16 ++ List.replicate 1968 0

/-- TELEM (R409). -/
def telemCommand (s : State) : State × Reply :=
  if (s.mbd 0).toNat % 4096 ≠ 0 then (s, replyBad 0)
  else ({ hostStore s (s.mbd 0).toNat (telemetry s) with free := s.free + 1 }, replyDone)

/-- R366: part, serial, package id and boot state. -/
def execIdent (tag : Nat) (s : State) : Host.Outcome State Fault Refusal := .next (command s 1 tag identCommand)

/-- R366, R371: sets the package id while no partition exists. -/
def execSetpkg (tag : Nat) (s : State) : Host.Outcome State Fault Refusal := .next (command s 2 tag setpkgCommand)

/-- R369: configures a partition. -/
def execPartcfg (tag : Nat) (s : State) : Host.Outcome State Fault Refusal := .next (command s 3 tag partcfgCommand)

/-- R368: removes a partition. -/
def execPartclr (tag : Nat) (s : State) : Host.Outcome State Fault Refusal := .next (command s 4 tag partclrCommand)

/-- R371: sets the peer ports that reach a package id. -/
def execPeermap (tag : Nat) (s : State) : Host.Outcome State Fault Refusal := .next (command s 5 tag peermapCommand)

/-- R366: frees an image and the objects it created. -/
def execUnload (tag : Nat) (s : State) : Host.Outcome State Fault Refusal := .next (command s 6 tag unloadCommand)

/-- R366: ends a launch with code STOPPED. -/
def execStop (tag : Nat) (s : State) : Host.Outcome State Fault Refusal := .next (command s 7 tag stopCommand)

/-- R366, R372: checks and loads a routine image; `ok` says whether the image could be read. -/
def execFwload (tag : Nat) (ok : Bool) (s : State) : Host.Outcome State Fault Refusal :=
  .next (command s 8 tag (fwloadCommand ok))

/-- R374: writes an attestation report. -/
def execAttest (tag : Nat) (s : State) : Host.Outcome State Fault Refusal := .next (command s 9 tag attestCommand)

/-- R367: maps a window aperture. -/
def execWinset (tag : Nat) (s : State) : Host.Outcome State Fault Refusal := .next (command s 10 tag winsetCommand)

/-- R366: the oldest waiting event. -/
def execEvread (tag : Nat) (s : State) : Host.Outcome State Fault Refusal := .next (command s 11 tag evreadCommand)

/-- R366: writes the certificate chains. -/
def execCerts (tag : Nat) (s : State) : Host.Outcome State Fault Refusal := .next (command s 12 tag certsCommand)

/-- R409: writes the telemetry record. -/
def execTelem (tag : Nat) (s : State) : Host.Outcome State Fault Refusal := .next (command s 13 tag telemCommand)

/-- R366: a command finishes: results, MBSTAT, busy cleared, INTSTAT.mbox. -/
def execMailboxComplete (s : State) : Host.Outcome State Fault Refusal :=
  match s.host.result with
  | none => .next s
  | some (code, detail, ws) =>
    let h := s.host
    let mbd := ws.foldl (fun (t : Tab Word) w => t.set 0 w.1 w.2) h.mbd
    let s' := { s with host := { h with
      mbd := mbd, busy := false, tag := h.cmdTag, detail := detail, code := code, result := none, intMbox := true } }
    .next (if h.intMbox then s' else raiseVector s' 64)

/-- MBSTAT (R366). -/
def mbstatWord (h : HostSide) : Word :=
  putBit h.busy 63 ||| putBit h.lost 62 ||| put h.tag 32 ||| put h.detail 8 ||| put h.code 0

/-! Registers of BAR0 (R364). -/

/-- The command of an op; an unknown op returns code 1 (R366). -/
def commandOf (op : Nat) : State → State × Reply :=
  match op with
  | 1 => identCommand
  | 2 => setpkgCommand
  | 3 => partcfgCommand
  | 4 => partclrCommand
  | 5 => peermapCommand
  | 6 => unloadCommand
  | 7 => stopCommand
  | 8 => fwloadCommand true
  | 9 => attestCommand
  | 10 => winsetCommand
  | 11 => evreadCommand
  | 12 => certsCommand
  | 13 => telemCommand
  | _ => fun s => (s, 1, 0, [])

/-- A write of a register of queue q (R255). -/
def writeQueueReg (s : State) (q o : Nat) (val : Word) : State :=
  let v := hostQueue s q
  match o with
  | 0x00 => if v.enable then s else setHostQueue s q { v with qbase := val &&& ~~~(put 0xFFF 0) }
  | 0x08 => writeQsize s q val
  | 0x10 => if v.enable then s else setHostQueue s q { v with ptra := val &&& ~~~(put 0xF 0) }
  | 0x20 => if bit val 63 then setHostQueue s q { v with halt := false } else s
  | _ => s

/-- Raises the vectors that are pending and no longer masked (R365). -/
def raisePending (s : State) : State :=
  let ready := s.host.msixPending.filter fun v => !vectorMasked s.host v
  { s with host := { s.host with msixPending := s.host.msixPending.filter (fun v => !ready.contains v)
                                 raised := s.host.raised ++ ready } }

/-- A write at an offset of BAR0 (R364): one that is not of 8 aligned bytes, or to an offset that the map does not list, is
ignored. -/
def writeBar0 (s : State) (off size : Nat) (val : Word) : State :=
  let h := s.host
  if size ≠ 8 ∨ off % 8 ≠ 0 then s
  else if off = 0 then command s (bits val 7 0) (bits val 31 16) (commandOf (bits val 7 0))
  else if off ≤ 0x40 then
    if h.busy then { s with host := { h with lost := true } }
    else { s with host := { h with mbd := h.mbd.set 0 (off / 8 - 1) val } }
  else if off = 0x48 then { s with host := { h with lost := h.lost && !bit val 62 } }
  else if off = 0x1000 then
    { s with host := { h with intEvent := h.intEvent && !bit val 1, intMbox := h.intMbox && !bit val 0 } }
  else if 0x10000 ≤ off ∧ off < 0x11000 then writeQueueReg s ((off - 0x10000) / 64) (off % 64) val
  else if 0x20000 ≤ off ∧ off < 0x20000 + 16 * 72 then
    let o := off - 0x20000
    raisePending { s with host := { h with msix := h.msix.set (if o % 16 = 8 then put 1 32 else 0) o val } }
  else s

/-- What a read of up to 8 bytes at an offset of BAR0 returns (R364 to R366): all ones unless it is of 8 aligned bytes. -/
def readBar0 (s : State) (off size : Nat) : Word :=
  let h := s.host
  if size ≠ 8 ∨ off % 8 ≠ 0 then BitVec.ofNat 64 (2 ^ (8 * Nat.min size 8) - 1)
  else if off = 0 then put h.cmdTag 16
  else if off ≤ 0x40 then s.mbd (off / 8 - 1)
  else if off = 0x48 then mbstatWord h
  else if off = 0x1000 then putBit h.intEvent 1 ||| putBit h.intMbox 0
  else if 0x10000 ≤ off ∧ off < 0x11000 then
    let v := hostQueue s ((off - 0x10000) / 64)
    match off % 64 with
    | 0x00 => v.qbase
    | 0x08 => putBit v.enable 63 ||| put v.lsize 0
    | 0x10 => v.ptra
    | 0x18 => put v.rptr 0
    | 0x20 => qstatWord v
    | _ => 0
  else if 0x20000 ≤ off ∧ off < 0x20000 + 16 * 72 then h.msix.get (if off % 16 = 8 then put 1 32 else 0) (off - 0x20000)
  else if off = 0x21000 then h.msixPending.foldl (fun w v => if v < 64 then w ||| put 1 v else w) 0
  else if off = 0x21008 then h.msixPending.foldl (fun w v => if 64 ≤ v then w ||| put 1 (v - 64) else w) 0
  else 0

/-- R364: the host writes a register. -/
def execHostRegisterWrite (off : Nat) (val : BarWrite) (s : State) : Host.Outcome State Fault Refusal :=
  if s.pkg.boot = 0 then .next s else .next (writeBar0 s off val.size val.val)

/-! The window (R367). -/

/-- The object address and partition of an offset of BAR2; none when the aperture is not mapped. -/
def windowAt (s : State) (off : Nat) : Option (Word × Nat) :=
  match s.host.windows.find (off / 2 ^ 31) with
  | some (base, k) => if base = 0 then none else some (after base (off % 2 ^ 31), k)
  | none => none

/-- The physical addresses that a window access reaches. -/
def windowPhys (s : State) (off n : Nat) (write : Bool) : Option (Word × Nat × List Nat) :=
  match windowAt s off with
  | none => none
  | some (a, k) => match hostPhys s k write a n with
    | some ps => if ps.any fun p => (cellAt s p).isNone then none else some (a, k, ps)
    | none => none

/-- R367: a host read of an aperture; one that fails a check returns all ones. -/
def execWindowRead (off size : Nat) (s : State) : Host.Outcome State Fault Refusal :=
  match windowPhys s off size false with
  | none => .next { s with host := { s.host with readData := List.replicate size 255 } }
  | some (a, k, ps) =>
    let (bs, bad) := hostView s a ps
    let s := reportError s k bad
    .next { s with host := { s.host with readData := bs } }

/-- Performs a window write on the object that it found; none while its page moves (R181, R367). -/
def windowStore (s : State) (w : StalledWrite) : Option State :=
  match hostPhys s w.part true w.addr w.bytes.length with
  | none => some s
  | some ps =>
    if hostMoving s w.part w.addr w.bytes.length then none
    else some (storeCells s ((ps.map fun p => (cellAt s p).getD 0).zip w.bytes) 0)

/-- Performs a window write, or leaves it to wait: for its page to finish moving, or for an earlier write to the same
aperture (R181, R367). -/
def windowTry (s : State) (w : StalledWrite) : State :=
  let waits := { s with host := { s.host with stalled := s.host.stalled ++ [w] } }
  if s.host.stalled.any fun e => e.aperture == w.aperture then waits else (windowStore s w).getD waits

/-- A window write as the endpoint receives it: one that fails a check is discarded; any other goes to the object that the
aperture maps now (R367). -/
def windowPut (s : State) (off : Nat) (bytes : List Byte) : State :=
  match windowPhys s off bytes.length true with
  | none => s
  | some (a, k, _) => windowTry s { aperture := off / 2 ^ 31, addr := a, part := k, bytes := bytes }

/-- R367: a host write of some bytes, little-endian in `val`, to an aperture; one that fails a check is discarded; it waits while its page moves (R181). -/
def execWindowWrite (off size val : Nat) (s : State) : Host.Outcome State Fault Refusal :=
  .next (windowPut s off (leBytes size val))

/-! Peer ports (R371). -/

/-- The physical addresses and cells of an inbound operation, translated and checked in the partition of its port (R371). -/
def peerCells (s : State) (part : Nat) (write reads : Bool) (a : Word) (n : Nat) : Option (List (Nat × Nat)) :=
  match s.parts.find part with
  | none => none
  | some p =>
    if oidOf a = 0 ∨ oidOf a = 0xFFFF ∨ 2 ^ 48 < offOf a + n then none
    else match hostPages s p a n with
    | none => none
    | some es =>
      if es.any fun e => !permits e write reads false then none
      else (List.range n).mapM fun i =>
        (es[(offOf a % 65536 + i) / 65536]?).bind fun e =>
          if beyond e (after a i) then none
          else (cellAt s (physOf e (after a i))).map fun k => (physOf e (after a i), k)

/-- Answers an inbound operation. -/
def peerReply (s : State) (ok : Bool) (w : Word) : State :=
  { s with pkg := { s.pkg with peerReplies := s.pkg.peerReplies ++ [(ok, w)] } }

/-- Leaves an inbound operation to wait (R181, R396). -/
def stallPeer (s : State) (port : Nat) (req : PeerReq) : State :=
  { s with pkg := { s.pkg with stalledPeers := s.pkg.stalledPeers ++ [(port, req)] } }

/-- Whether a shipped operation may act at a physical address and cell: on a compute die, in a shippable region (R228). -/
def shipsTo (s : State) (at_ : Nat × Nat) : Bool :=
  memberOf at_.2 != 8 && (regionOf s at_.1).any fun r => bit r.2.1 55

/-- Performs an inbound operation in a partition, or refuses it; none while it has to wait (R181, R396). -/
def peerPerform (s : State) (part : Nat) : PeerReq → Option State
  | .get a n => match peerCells s part false true a n with
    | some ps =>
      let cells := ps.map (·.2)
      if cells.any (isPoisoned s) then some (peerReply s false 0)
      else some (peerReply s true (BitVec.ofNat 64 (ofLe (readCells s cells))))
    | none => some (peerReply s false 0)
  | .put a bs _ depth => match peerCells s part true false a bs.length with
    | some ps =>
      if hostMoving s part a bs.length then none
      else some (peerReply (storeCells s ((ps.map (·.2)).zip bs) depth) true 0)
    | none => some (peerReply s false 0)
  | .ramo op a wide place b expect depth => match peerCells s part true true a (if wide then 8 else 4) with
    | some ps =>
      let cells := ps.map (·.2)
      let old := BitVec.ofNat 64 (ofLe (readCells s cells))
      if place = 2 && !ps.all (shipsTo s) then some (peerReply s false 0)
      else if hostMoving s part a 8 then none
      else if cells.any (isPoisoned s) then some (peerReply s false 0)
      else some (peerReply (storeCells s (pairWrites cells (amoNew op wide old b expect).toNat) depth) true old)
    | none => some (peerReply s false 0)
  | .amsg core lid handler payload sender depth =>
    let m : Message := { handler := handler.toNat % 2 ^ 32, payload := payload, sender := bits sender 15 0,
                         senderPkg := bits sender 31 16, lid := lid, depth := depth, part := some part, source := none,
                         gen := 0, seq := 0 }
    if !messageLands s m core then some (peerReply s false 0)
    else if !messageRoom (s.core core) then none
    else some (noteMoved (acceptMessage s core m) core)

/-- An inbound operation in the partition that holds its port, refused while the package has no id (R371). -/
def peerArrive (s : State) (port : Nat) (req : PeerReq) : Option State :=
  let holder := (s.parts.find? fun p => p.2.peers.testBit port).map (·.1)
  match s.pkg.id, holder with
  | 0, _ => some (peerReply s false 0)
  | _, none => some (peerReply s false 0)
  | _, some part => peerPerform s part req

/-- R371: an operation from another package is done in the partition that holds its port, or refused; it waits while its page moves or its core has no room. -/
def execPeerInbound (port : Nat) (req : PeerReq) (s : State) : Host.Outcome State Fault Refusal :=
  .next ((peerArrive s port req).getD (stallPeer s port req))

/-- Tries again, in order, the writes of the host and of other packages that wait (R181, R367, R396). -/
def retryStalled (s : State) : State :=
  let writes := s.host.stalled
  let peers := s.pkg.stalledPeers
  let s := { s with host := { s.host with stalled := [] }, pkg := { s.pkg with stalledPeers := [] } }
  let s := writes.foldl windowTry s
  peers.foldl (fun s r => (peerArrive s r.1 r.2).getD (stallPeer s r.1 r.2)) s

end Sys2Proof.Machine
end

