-- ==== Sys2Proof/Machine/Power.lean ====
section
/-! DEFINITION. Boot, power and reset (R370, R373, R375, R376), power and temperature limits (R414, R415), errors, fences, scrubs and repairs (R404 to R413), changes of the region table (R175). -/

namespace Sys2Proof.Machine

/-! Boot (R373). -/

/-- The region-table entry of a die's firmware code region (R329): near tier, that die alone. -/
def firmwareRegion (d : Nat) : Word × Word :=
  (put 1 63 ||| put 8 49 ||| put 1 (40 + d) ||| put (Config.firmwareBase d / 65536) 0,
    put (firmwareBytes / 65536) 32 ||| put (Config.firmwareOffset d / 65536) 0)

/-- The region table as boot leaves it: rewritten for the retired channels, with an entry for the firmware code region of
each die (R172, R175, R329, R412, log 14). -/
def bootRegions (retired : List (Nat × Nat)) : Tab (Word × Word) :=
  let rest := (List.range 64).foldl (fun (t : Tab (Word × Word)) e => t.insert e (Config.regionEntry e retired)) []
  (List.range 8).foldl (fun t d => t.insert (Config.firmwareEntry d) (firmwareRegion d)) rest

/-- Whether a namespace passes R182 on a port that is up, in root-port mode. -/
def namespaceGood (r : BootReport) (n : Namespace) : Bool :=
  r.rootPorts.contains n.port && !r.badPorts.contains n.port && n.plainFormat && (n.blockBytes == 512 || n.blockBytes == 4096)

/-- A namespace's place among those of its port: a port supports 16 (R370). -/
def namespacesKept (r : BootReport) : List Namespace :=
  (List.range 8).flatMap fun p => (r.namespaces.filter fun n => n.port == p && namespaceGood r n).take 16

/-- Raises event 6 (R366, R370); what it holds beyond its code is open. -/
def raisePortEvent (s : State) : State :=
  raiseEvent { s with free := s.free + 1 } ⟨6, Config.freeWord (2 * s.free), Config.freeWord (2 * s.free + 1)⟩

/-- Adds to a counter of a die (R409). -/
def countDie (s : State) (d k n : Nat) : State :=
  let x := s.die d
  s.setDie d { x with counters := x.counters.set 0 k (x.counters.get 0 k + n) }

/-- Adds 1 to a counter of a die (R409). -/
def countUpDie (s : State) (d k : Nat) : State := countDie s d k 1

/-- What boot leaves in a stack's repair record (R411, R412): a row to repair is repaired where a spare is left, else its
page is fenced from now on; an applied entry is kept no longer. -/
def repairsLeft (stack : Nat) (es : List Repair) : List Repair :=
  (es.filter fun e => e.kind == 1 || e.kind == 3 || (e.kind == 0 && !Config.spareRow stack e.row)).map fun e =>
    if e.kind = 0 then { e with kind := 1 } else e

/-- The entries of a stack's repair record that boot applies: repaired rows, spared banks, shifted TSVs (R411). -/
def repairsApplied (stack : Nat) (es : List Repair) : List Repair :=
  es.filter fun e => e.kind == 2 || e.kind == 4 || (e.kind == 0 && Config.spareRow stack e.row)

/-- The pages that the repair records fence at boot (R411). -/
def bootFences (rs : Tab (List Repair)) : List Nat :=
  (rs.flatMap fun r => (r.2.filter fun e => e.kind == 1).map (·.row)).dedup

/-- The channels that the repair records retire at boot, each a stack and a channel (R411, R412). -/
def retiredChannels (rs : Tab (List Repair)) : List (Nat × Nat) :=
  (rs.flatMap fun r => (r.2.filter fun e => e.kind == 3).map fun e => (r.1, e.row)).dedup

/-- The channel of a repair: 64 · stack + channel; the entry of a bank lists channel · 4096 + bank. -/
def repairChannel (stack : Nat) (e : Repair) : Nat := 64 * stack + (if e.kind = 2 then e.row / 4096 else e.row)

/-- Step 2 of boot applies the repair records of the stacks (R410 to R412): rows, banks, TSVs, retired channels, fences, and
the counts of R409. -/
def applyRepairs (s : State) : State :=
  let old := s.pkg.repairs
  let left := old.map fun (r : Nat × List Repair) => (r.1, repairsLeft r.1 r.2)
  let applied := old.foldl (fun (t : Tab (List Repair)) r => t.insert r.1 (t.get [] r.1 ++ repairsApplied r.1 r.2)) s.pkg.applied
  let inUse := applied.flatMap fun r => r.2.map fun e => (e.kind, repairChannel r.1 e)
  let retired := retiredChannels left
  let s := { s with pkg := { s.pkg with
    repairs := left, applied := applied, fences := bootFences left
    spared := ((inUse.filter (·.1 == 2)).map (·.2)).dedup
    tsvs := (inUse.filter (·.1 == 4)).foldl (fun (t : Tab Nat) e => t.insert e.2 (t.get 0 e.2 + 1)) [] } }
  (List.range 8).foldl (fun s d =>
    let mine := (old.filter fun (r : Nat × List Repair) => r.1 / 2 == d).flatMap fun r => repairsApplied r.1 r.2
    let n := fun k => (mine.filter fun e => e.kind == k).length
    let x := s.die d
    let s := s.setDie d { x with near := Config.nearBytes - Config.channelShare * (retired.filter (·.1 / 2 == d)).length }
    countDie (countDie (countDie s d 18 (n 0)) d 19 (n 2)) d 20 (n 4)) s

/-- The compute die that counts for a link, an end of it (R11, R409): links 0 to 5 join columns within a row, 6 to 9 the
two rows, 10 to 13 a far-tier die and an edge die. -/
def linkDie (link : Nat) : Nat :=
  if link < 6 then link / 3 * 4 + link % 3 else if link < 10 then link - 6 else [0, 4, 3, 7].getD (link - 10) 0

/-- Raises event 4 for a link or channel (R366, R413); what it holds beyond its code is open. -/
def raiseLinkEvent (s : State) : State :=
  raiseEvent { s with free := s.free + 1 } ⟨4, Config.freeWord (2 * s.free), Config.freeWord (2 * s.free + 1)⟩

/-- A link trains with a number of failing lanes: its two spare lanes are shifted in, and one with more runs at half width,
reported as event 4 (R412). -/
def trainLink (s : State) (l : Nat × Nat) : State :=
  let n := Nat.min l.2 2
  let s := { countDie s (linkDie l.1) 21 n with pkg := { s.pkg with lanes := s.pkg.lanes.insert l.1 n } }
  if n < l.2 then raiseLinkEvent { s with pkg := { s.pkg with halfLinks := (l.1 :: s.pkg.halfLinks).dedup } } else s

/-- Step 3 of boot: links train with their spares, and self-test marks the dies that it cannot mend (R373, R412). -/
def trainLinks (s : State) (r : BootReport) : State :=
  let s := { s with pkg := { s.pkg with lanes := [], halfLinks := [] } }
  let s := r.lanes.foldl trainLink s
  let s := (r.selfTest.filter fun c => 15 ≤ c.2.1 && c.2.1 ≤ 17).foldl (fun s c => countDie s c.1 c.2.1 c.2.2) s
  (List.range 8).foldl (fun s d => s.setDie d { s.die d with unusable := r.unusable.contains d }) s

/-- Step 4 of boot: the region table, the far tier and the ports (R172, R370, R373). -/
def bringUpPorts (s : State) (r : BootReport) : State :=
  let bad := (r.badPorts.filter (· < 8)).dedup
  let refused := r.namespaces.length - (namespacesKept r).length
  let s := { s with
    regions := bootRegions (retiredChannels s.pkg.repairs)
    pkg := { s.pkg with
      farBytes := r.farBytes, portsDown := bad
      cxlPorts := r.cxlPorts.filter (fun p => !bad.contains p)
      rootPorts := r.rootPorts.filter (fun p => !bad.contains p)
      namespaces := namespacesKept r } }
  (List.range (bad.length + refused)).foldl (fun s _ => raisePortEvent s) s

/-- Step 5 of boot: SVEC of every core is set (R329, R373). -/
def setSvecs (s : State) : State :=
  (List.range coreCount).foldl (fun s c => s.setCore c { s.core c with svec := Config.svec (dieOf c) c }) s

/-- Whether a step of boot fails: an image that it checks is refused (R372), or it fails for another reason. -/
def bootFails (r : BootReport) (step : Nat) : Bool :=
  let refused := fun k => !imageAccepted k (r.images.getD k [])
  r.failStep == step || (match step with
    | 1 => refused 0
    | 2 => refused 1
    | 4 => refused 4
    | 5 => refused 2 || refused 3
    | _ => false)

/-- What a step of boot does (R373); an image refused at step 6 leaves its routines unloaded. -/
def bootEffect (s : State) (r : BootReport) (step : Nat) : State :=
  match step with
  | 2 => applyRepairs s
  | 3 => trainLinks s r
  | 4 => bringUpPorts s r
  | 5 => setSvecs s
  | 6 => r.routines.foldl loadRoutines s
  | _ => s

/-- The step of boot in progress ends: the next one is in progress, or the part is ready, or the step has failed (R373). -/
def bootStep (s : State) : State :=
  let n := s.pkg.boot
  match s.pkg.report with
  | none => s
  | some r =>
    if n = 0 ∨ 6 < n then s
    else if n ≠ 6 ∧ bootFails r n = true then { s with pkg := { s.pkg with boot := 0x80 + n } }
    else
      let t := bootEffect s r n
      { t with pkg := { t.pkg with boot := n + 1 } }

/-- R373: release of PERST# starts boot, whose steps then follow (log 67). -/
def execPerstRelease (boot : BootReport) (s : State) : Host.Outcome State Fault Refusal :=
  if s.pkg.boot ≠ 0 then .next s
  else .next { s with pkg := { s.pkg with boot := 1, bootClk := s.clk, report := some boot } }

/-! Power-off and reset (R375, R376). -/

/-- The state after power is removed or PERST# is asserted (R375): what is not volatile stays, as do the host's own memory
and the storage devices. -/
def poweredOff (s : State) : State :=
  { State.reset with
    clk := s.clk, free := s.free, agenda := s.agenda
    host := { mem := s.host.mem }
    pkg := { repairs := s.pkg.repairs, applied := s.pkg.applied, disk := s.pkg.disk } }

/-- R375: removing 48 V, or asserting PERST#, ends every launch and loses every volatile state. -/
def execPowerOff (s : State) : Host.Outcome State Fault Refusal := .next (poweredOff s)

/-- R376: a function-level or hot reset stops every launch without a record, tells its cores, and clears queue registers, INTSTAT, the mailbox and the MSI-X table. -/
def execFunctionLevelReset (s : State) : Host.Outcome State Fault Refusal :=
  let running := s.launches.filter fun l => l.phase == .running
  let s := running.foldl (fun s l => stopRunning s l 2) s
  let left := (s.launches.filter fun l => l.phase != .waiting).map fun l => { l with status := 0, packet := none }
  let h := s.host
  .next { s with
    launches := left
    host := { mem := h.mem, windows := h.windows, readData := h.readData, stalled := h.stalled } }

/-- R414: an input voltage outside 44 V to 54 V shuts the module down. -/
def execInputVoltageFault (s : State) : Host.Outcome State Fault Refusal := .next (poweredOff s)

/-- R414: a die at 115 °C shuts the module down. -/
def execDieTemperatureShutdown (die : Nat) (s : State) : Host.Outcome State Fault Refusal :=
  if die < 10 then .next (poweredOff s) else .next s

/-! Power and temperature limits (R414, R415). -/

/-- Event 5 for a die (R415). -/
def raiseLimit (s : State) (d : Nat) : State :=
  raiseEvent s ⟨5, BitVec.ofNat 64 d, BitVec.ofNat 64 (s.die d).duty⟩

/-- Sets what a limit gives a die, a duty in quarters, 1/2, 3/4 or 1, by its source; the lowest of a die's limits is its
duty, with event 5 at each change (R414, R415). Dies 8 and 9 are the far-tier dies. -/
def setLimit (s : State) (d source duty : Nat) : State :=
  if d < 10 ∧ (duty = 2 ∨ duty = 3 ∨ duty = 4) then
    let x := s.die d
    let limits := x.limits.set 4 source duty
    let low := limits.foldl (fun n l => Nat.min n l.2) 4
    let t := s.setDie d { x with limits := limits, duty := low }
    if x.duty = low then t else raiseLimit t d
  else s

/-- Sets what the power limit gives every die. -/
def setLimits (s : State) (duty : Nat) : State := (List.range 8).foldl (fun s d => setLimit s d 0 duty) s

/-- R414: input power above 4,800 W limits issue on every die. -/
def execInputPowerLimit (duty : Nat) (s : State) : Host.Outcome State Fault Refusal :=
  if s.pkg.boot = 7 then .next (setLimits s duty) else .next s

/-- R414: input power below 4,600 W ends that limit; the others stay. -/
def execInputPowerRecover (s : State) : Host.Outcome State Fault Refusal :=
  if s.pkg.boot = 7 then .next (setLimits s 4) else .next s

/-- R414: coolant above 40 °C limits issue so that dies stay below 95 °C. -/
def execCoolantInletLimit (die duty : Nat) (s : State) : Host.Outcome State Fault Refusal :=
  if s.pkg.boot = 7 then .next (setLimit s die 1 duty) else .next s

/-- R414: a die at 95 °C has its issue limited. -/
def execDieTemperatureLimit (die duty : Nat) (s : State) : Host.Outcome State Fault Refusal :=
  if s.pkg.boot = 7 then .next (setLimit s die 2 duty) else .next s

/-- The cores of a die; a far-tier die, 8 or 9, has none. -/
def coresOn (die : Nat) : List Nat := if die < 8 then coresOfDie die else []

/-- R414: a die at 105 °C is pre-empted, its tile and vector units are powered down, and event 5 is raised. -/
def execDieTemperaturePreempt (die : Nat) (s : State) : Host.Outcome State Fault Refusal :=
  if 10 ≤ die ∨ s.pkg.boot ≠ 7 ∨ (s.die die).unitsDown then .next s
  else
    let s := (coresOn die).foldl (fun s c => holdEvent s c (.preempt ((s.core c).lid.getD 0) 1)) s
    .next (raiseLimit (s.setDie die { s.die die with unitsDown := true }) die)

/-- R414: a die below 90 °C regains its units. -/
def execDieTemperatureRecover (die : Nat) (s : State) : Host.Outcome State Fault Refusal :=
  if (s.die die).unitsDown then
    let s := s.setDie die { s.die die with unitsDown := false }
    .next ((coresOn die).foldl (fun s c => s.setCore c { s.core c with unitsDown := false }) s)
  else .next s

/-! Fences, scrubs and repairs (R405, R406, R410 to R413). -/

/-- Adds an entry to a stack's repair record, which holds 1,024 (R411): one for each TSV that has been replaced in a channel,
else one for each row, bank or channel. -/
def addRepair (s : State) (stack : Nat) (e : Repair) : State :=
  let es := s.pkg.repairs.get [] stack
  if 1024 ≤ es.length ∨ (e.kind ≠ 4 ∧ es.contains e) then s
  else { s with pkg := { s.pkg with repairs := s.pkg.repairs.insert stack (es ++ [e]) } }

/-- The partition whose PARTREG lists the region of a physical address. -/
def partOfPhys (s : State) (p : Nat) : Option Nat :=
  (regionOf s p).bind fun r => (s.parts.find? fun q => bit q.2.partreg r.1).map (·.1)

/-- Whether a translation covers a physical page; a volume's, when its descriptor lies there. -/
def TlbEntry.mapsPage (e : TlbEntry) (page : Nat) : Bool :=
  if e.kind == 1 then e.pbase / 65536 == page
  else decide (e.pbase ≤ page * 65536) && decide (page * 65536 < e.pbase + 2 ^ (16 + e.sc))

/-- Takes the translations of a physical page out of every TLB (R406). -/
def dropPage (s : State) (page : Nat) : State :=
  { s with
    cores := s.cores.map fun e => (e.1, { e.2 with tlb := e.2.tlb.filter fun t => !t.mapsPage page })
    clusters := s.clusters.map fun e => (e.1, { e.2 with tlb := e.2.tlb.filter fun t => !t.mapsPage page }) }

/-- The cells that issued accesses, engine steps and arrival-word adds have translated and not yet performed (R175,
R406). -/
def cellsInFlight (s : State) : List Nat :=
  (s.strands.flatMap fun e => (e.2.pend.filter fun a => !a.performed && a.pkg.isNone).flatMap Access.cells)
    ++ s.cores.flatMap fun c =>
      ((c.2.ops.filter fun o => !o.unread.isEmpty || !o.flight.isEmpty).flatMap fun o => o.srcCells ++ o.dstCells ++ o.arrCells)
        ++ (c.2.ops.flatMap fun o => (o.fetches.filter fun f => !f.unread.isEmpty).flatMap (·.cells))
        ++ c.2.channels.flatMap fun h => h.2.adds.flatMap (·.cells)

/-- Whether an access that has yet to be performed reaches a physical page (R406). -/
def pageBusy (s : State) (page : Nat) : Bool :=
  let cells := (List.range 256).filterMap fun i => cellAt s (page * 65536 + 256 * i)
  (cellsInFlight s).any fun k => cells.any fun c => decide (c ≤ k) && decide (k < c + 256)

/-- The tier of a cell (R172). -/
def tierOf (cell : Nat) : Nat := cell / (16 * 2 ^ 48)

/-- The stack that holds a near-tier cell (R17, R411). -/
def stackOf (cell : Nat) : Nat := 2 * memberOf cell + (Config.stackHalf (cell / 64)).val

/-- Counts an uncorrectable error in a cell's line (R409). -/
def countError (s : State) (cell : Nat) : State :=
  if memberOf cell < 8 then countUpDie s (memberOf cell) 13 else countUpDie s (8 + (Config.farDie (cell / 64)).val) 10

/-- Marks the line of a cell as poisoned, and counts the error that is found there (R405, R409). -/
def poisonLine (s : State) (cell : Nat) : State :=
  if s.poisoned.contains (cell / 64) then s else countError { s with poisoned := (cell / 64) :: s.poisoned } cell

/-- Fences the page of a physical line that has an uncorrectable error (R406); the rows of a near-tier page are to be
repaired at the next boot (R411). -/
def fencePage (s : State) (line : Nat) : State :=
  let page := line / 65536
  match cellAt s line with
  | none => s
  | some k =>
    let s := poisonLine s k
    let part := partOfPhys s line
    if s.pkg.fences.contains page then s
    else if 4096 ≤ s.pkg.fences.length then
      let mine := s.launches.filter fun l => some l.part == part
      let s := (mine.filter (·.phase == .waiting)).foldl (fun s l => withdrawClaim s l codeAbandoned) s
      raiseEvent (mine.foldl (fun s l => endLaunch s l.part l.lid codeAbandoned) s) ⟨3, put (part.getD 0) 32, BitVec.allOnes 64⟩
    else
      let s := { s with pkg := { s.pkg with fences := s.pkg.fences ++ [page] } }
      let s := if memberOf k < 8 then countUpDie s (memberOf k) 14 else s
      let s := if tierOf k = 0 then addRepair s (stackOf k) ⟨0, page⟩ else s
      raiseEvent (dropPage s page) ⟨3, put (part.getD 0) 32, BitVec.ofNat 64 (page * 65536)⟩

/-- R406: the page of a line in which an uncorrectable error has been found is fenced, once no access through an old translation is outstanding. -/
def execPageFence (line : Nat) (s : State) : Host.Outcome State Fault Refusal :=
  if s.pkg.boot ≠ 7 || pageBusy s (line / 65536) then .next s else .next (fencePage s (line / 64 * 64))

/-- The physical lines of a region entry that lie in a cell's line (R174). -/
def physIn (w : Word × Word) (cell : Nat) : Option Nat :=
  let ms := members w.1
  let t := 2 ^ bits w.1 53 49
  let lbase := bits w.2 31 0 * 65536
  match ms.findIdx? (· == memberOf cell) with
  | none => none
  | some j =>
    let off := cell % 2 ^ 48
    let o := off - lbase
    if cell / (16 * 2 ^ 48) = bits w.1 59 58 ∧ lbase ≤ off ∧ off < lbase + regionSize w.2 / ms.length then
      some (regionBase w.1 + (o / t * ms.length + j) * t + o % t)
    else none

/-- The physical address of a cell by the lowest-numbered valid entry that holds it. -/
def physOfCell (s : State) (cell : Nat) : Option Nat :=
  s.regions.findSome? fun e => if regionValid s e.2 then (physIn e.2 cell).filter fun p => cellAt s p == some cell else none

/-- A scrub of the lines that a test selects (R405, R410): the pages of those with an uncorrectable error are fenced, each
once the accesses to it are performed (R406). -/
def scrub (s : State) (sel : Nat → Bool) : State :=
  let lines := (s.poisoned.filter fun k => sel (k * 64)).filterMap fun k => physOfCell s (k * 64)
  lines.foldl (fun s p =>
    if s.pkg.fences.contains (p / 65536) || pageBusy s (p / 65536) then s else fencePage s p) s

/-- Counts a scrub of a die, for the statements about one. -/
def countScrub (s : State) (d : Nat) : State := s.setDie d { s.die d with scrubs := (s.die d).scrubs + 1 }

/-- R410: a stack management core scrubs its stack. -/
def execPatrolScrub (stack : Nat) (s : State) : Host.Outcome State Fault Refusal :=
  if s.pkg.boot = 7 ∧ stack < 16 then
    .next (countScrub (scrub s fun k => tierOf k == 0 && decide (memberOf k < 8) && stackOf k == stack) (stack / 2))
  else .next s

/-- R410: the slices of a die scrub their lines. -/
def execLlcScrub (die : Nat) (s : State) : Host.Outcome State Fault Refusal :=
  if s.pkg.boot = 7 ∧ die < 8 then .next (countScrub (scrub s fun k => memberOf k == die) die) else .next s

/-- R411, R412: a bank's corrections bring in the channel's spare bank; with none left, the channel retires at the next boot. -/
def execBankSparing (stack chan bank : Nat) (s : State) : Host.Outcome State Fault Refusal :=
  let c := 64 * stack + chan
  if s.pkg.boot ≠ 7 ∨ 16 ≤ stack ∨ 64 ≤ chan then .next s
  else if s.pkg.spared.contains c then .next (addRepair s stack ⟨3, chan⟩)
  else
    let s := { s with pkg := { s.pkg with spared := c :: s.pkg.spared } }
    .next (addRepair (countUpDie s (stack / 2) 19) stack ⟨2, chan * 4096 + bank % 4096⟩)

/-- The die-to-die and interposer links (R11). -/
def linkCount : Nat := 14

/-- Ends every running launch whose route crosses a link (R413). -/
def abandonOver (s : State) (link : Nat) : State :=
  let stop := fun (l : Launch) =>
    if l.phase == .running && l.links.contains link then { l with phase := .ending, code := codeAbandoned } else l
  { s with launches := s.launches.map stop }

/-- R413: a lane of a link, or a TSV of a channel of the stack of that number, is replaced live while one of the two lanes or four TSVs is left; without a spare the channel retires at the next boot, and the link runs at half width; one that fails again is down. -/
def execLiveLaneRepair (link : Nat) (chan : Option Nat) (s : State) : Host.Outcome State Fault Refusal :=
  let ev := raiseLinkEvent
  let p := s.pkg
  if p.boot ≠ 7 then .next s
  else match chan with
  | some k =>
    let c := 64 * link + k
    if 16 ≤ link ∨ 64 ≤ k then .next s
    else if p.tsvs.get 0 c < 4 then
      let s := { s with pkg := { p with tsvs := p.tsvs.insert c (p.tsvs.get 0 c + 1) } }
      .next (ev (addRepair (countUpDie (countUpDie s (link / 2) 20) (link / 2) 22) link ⟨4, k⟩))
    else .next (addRepair s link ⟨3, k⟩)
  | none =>
    if linkCount ≤ link then .next s
    else if p.lanes.get 0 link < 2 then
      let s := { s with pkg := { p with lanes := p.lanes.insert link (p.lanes.get 0 link + 1) } }
      .next (ev (countUpDie (countUpDie s (linkDie link) 21) (linkDie link) 22))
    else if p.halfLinks.contains link then
      .next (abandonOver { s with pkg := { p with downLinks := (link :: p.downLinks).dedup } } link)
    else .next (ev { s with pkg := { p with halfLinks := link :: p.halfLinks } })

/-- R370, R404: a port's link retrains, or is left down and reported as event 6; a port that is down has no namespaces. -/
def execLinkRetrain (port : Nat) (ok : Bool) (s : State) : Host.Outcome State Fault Refusal :=
  if s.pkg.boot ≠ 7 || ok || decide (8 ≤ port) || s.pkg.portsDown.contains port then .next s
  else
    let p := s.pkg
    .next (raisePortEvent { s with pkg := { p with
      portsDown := port :: p.portsDown, rootPorts := p.rootPorts.filter (· != port)
      cxlPorts := p.cxlPorts.filter (· != port), namespaces := p.namespaces.filter (·.port != port) } })

/-! Errors (R404, R405) and changes of the region table (R175). -/

/-- A corrected error in a row of HBM (R404, R411): the stack's count rises, and a row's sixteenth enters its page as a row
to repair. -/
def correctRow (s : State) (cell page : Nat) : State :=
  let stack := stackOf cell
  let s := countUpDie s (memberOf cell) (8 + stack % 2)
  let row := stack * 2 ^ 32 + page
  let n := s.pkg.rowErrors.get 0 row + 1
  let s := { s with pkg := { s.pkg with rowErrors := s.pkg.rowErrors.insert row n } }
  if n = 16 then addRepair s stack ⟨0, page⟩ else s

/-- The die of an uncorrectable error in a core counts it (R409). -/
def countCoreError (s : State) (core : Nat) : State := countUpDie s (dieOf core) 13

/-- An uncorrectable error in a register (R382, R404): x n as n, v n as 64 + n; x0 holds nothing. -/
def poisonRegister (s : State) (core place reg : Nat) : State :=
  match s.strand core place with
  | some st =>
    if place < 18 ∧ (1 ≤ reg ∧ reg < 48 ∨ 64 ≤ reg ∧ reg < 96) ∧ (st.poison.find reg).isNone then
      countCoreError (s.setStrand core place { st with poison := st.poison.insert reg (2, BitVec.ofNat 64 reg) }) core
    else s
  | none => s

/-- An uncorrectable error in an element of a queue, counted from the head of its ring, then among those on their way and
those held at the ring (R404, R407). -/
def poisonElement (s : State) (queue index : Nat) : State :=
  match s.queue queue with
  | some q =>
    let mark := fun (n : Nat) (es : List Elem) => es.zipIdx.map fun e => if e.2 + n = index then { e.1 with bad := true } else e.1
    let a := q.ring.length
    let b := a + q.transit.length
    let c := b + q.held.length
    if c + q.round.length ≤ index then s
    else countUpDie (s.setQueue queue { q with
      ring := mark 0 q.ring, transit := mark a q.transit, held := mark b q.held, round := mark c q.round }) q.die 13
  | none => s

/-- An uncorrectable error in the buffer of a reference stream: it ends as R240 says. -/
def poisonBuffer (s : State) (core op : Nat) : State :=
  match findOp s core op with
  | some o =>
    if o.kind != .refs || o.dead then s
    else
      let idx := ((streamHead s core o).bind (·.data)).getD 0
      countCoreError (setOp s core { o with fetches := [], stop := some (stopWord (idx <<< 8) 0x13), dead := true }) core
  | none => s

/-- An uncorrectable error in a scratchpad or the record page: the check is over 64 bits, so it takes 8 bytes (R404). -/
def poisonScratch (s : State) (core pos : Nat) : State :=
  let c := s.core core
  if core < coreCount then
    countCoreError (s.setCore core { c with bad := ((List.range 8).map (pos / 8 * 8 + ·) ++ c.bad).dedup }) core
  else s

/-- An uncorrectable error in the accumulator memory: the check is over 64 bits, so it takes two elements (R404). -/
def poisonAccumulator (s : State) (core i : Nat) : State :=
  let c := s.core core
  if core < coreCount ∧ i < 32 * 4096 then
    countCoreError (s.setCore core { c with tile := { c.tile with bad := (i / 2 * 2 :: (i / 2 * 2 + 1) :: c.tile.bad).dedup } }) core
  else s

/-- What an error does where it occurs (R404, R405); who reads the place then finds it. An entry of a TLB or CLB is discarded,
to be filled again, and counts as corrected. -/
def upset (s : State) : Upset → State
  | .corrected d k => if (d < 8 ∧ k < 13) ∨ (8 ≤ d ∧ d < 10 ∧ k < 10) then countUpDie s d k else s
  | .row a => match cellAt s a with
    | some k => if tierOf k = 0 then correctRow s k (a / 65536) else s
    | none => s
  | .tlb core i =>
    let c := s.core core
    if i < c.tlb.length then countUpDie (s.setCore core { c with tlb := c.tlb.eraseIdx i }) (dieOf core) 6 else s
  | .clusterTlb k i =>
    let c := s.cluster k
    if i < c.tlb.length then countUpDie (s.setCluster k { c with tlb := c.tlb.eraseIdx i }) (k / 16) 6 else s
  | .clb core i =>
    let c := s.core core
    if i < c.clb.length then countUpDie (s.setCore core { c with clb := c.clb.eraseIdx i }) (dieOf core) 6 else s
  | .register core place reg => poisonRegister s core place reg
  | .element q i => poisonElement s q i
  | .scratch core pos => poisonScratch s core pos
  | .accumulator core i => poisonAccumulator s core i
  | .lock core => if (s.core core).locks.isEmpty then s else doubleTrap (countCoreError s core) core
  | .reference core op => poisonBuffer s core op
  | .line a => match cellAt s a with
    | some k => poisonLine s k
    | none => s

/-- A new value of a region-table entry (R175), for partition set-up: taken once no access by the old value is outstanding
and no watched granule is homed by it; a firmware code region, and an arena of a configured partition, stay (R168, R329). -/
def changeRegion (s : State) (e : Nat) (a b : Word) : State :=
  let old := s.regions.get (0, 0) e
  let listed := s.parts.any fun p => bit p.2.partreg e
  let watched := s.dies.flatMap fun d => d.2.watch.flatMap fun w => w.2.cells.map (·.1)
  let used := ((cellsInFlight s) ++ watched).any fun k => (physIn old k).isSome
  if s.pkg.boot ≠ 7 ∨ 64 ≤ e ∨ (List.range 8).any (fun d => Config.firmwareEntry d == e)
      ∨ (listed && (bits old.1 59 58 == 1 || bits a 59 58 == 1)) ∨ used then s
  else { s with regions := s.regions.insert e (a, b) }

end Sys2Proof.Machine
end

