-- ==== Sys2Proof/Machine/Dispatch.lean ====
section
/-! DEFINITION. The meaning of each instruction, one arm a constructor. -/

namespace Sys2Proof.Machine

/-- One instruction, or one step of the hardware or the host, at a state. -/
def exec (i : Instr) (s : State) : Host.Outcome State Fault Refusal :=
  match i with
  | .add d a b => Sys2Proof.Machine.execAdd d a b s
  | .sub d a b => Sys2Proof.Machine.execSub d a b s
  | .and d a b => Sys2Proof.Machine.execAnd d a b s
  | .or d a b => Sys2Proof.Machine.execOr d a b s
  | .xor d a b => Sys2Proof.Machine.execXor d a b s
  | .andn d a b => Sys2Proof.Machine.execAndn d a b s
  | .sll d a b => Sys2Proof.Machine.execSll d a b s
  | .srl d a b => Sys2Proof.Machine.execSrl d a b s
  | .sra d a b => Sys2Proof.Machine.execSra d a b s
  | .rol d a b => Sys2Proof.Machine.execRol d a b s
  | .min d a b => Sys2Proof.Machine.execMin d a b s
  | .max d a b => Sys2Proof.Machine.execMax d a b s
  | .minw d a b => Sys2Proof.Machine.execMinw d a b s
  | .maxw d a b => Sys2Proof.Machine.execMaxw d a b s
  | .mul d a b => Sys2Proof.Machine.execMul d a b s
  | .mulhs d a b => Sys2Proof.Machine.execMulhs d a b s
  | .mulhw d a b => Sys2Proof.Machine.execMulhw d a b s
  | .div d a b => Sys2Proof.Machine.execDiv d a b s
  | .divw d a b => Sys2Proof.Machine.execDivw d a b s
  | .rem d a b => Sys2Proof.Machine.execRem d a b s
  | .remw d a b => Sys2Proof.Machine.execRemw d a b s
  | .clz d a => Sys2Proof.Machine.execClz d a s
  | .ctz d a => Sys2Proof.Machine.execCtz d a s
  | .popc d a => Sys2Proof.Machine.execPopc d a s
  | .bext d a b => Sys2Proof.Machine.execBext d a b s
  | .bdep d a b => Sys2Proof.Machine.execBdep d a b s
  | .mov d a => Sys2Proof.Machine.execMov d a s
  | .sext d a n => Sys2Proof.Machine.execSext d a n s
  | .zext d a n => Sys2Proof.Machine.execZext d a n s
  | .seq d a b => Sys2Proof.Machine.execSeq d a b s
  | .sne d a b => Sys2Proof.Machine.execSne d a b s
  | .slt d a b => Sys2Proof.Machine.execSlt d a b s
  | .sge d a b => Sys2Proof.Machine.execSge d a b s
  | .sltw d a b => Sys2Proof.Machine.execSltw d a b s
  | .sgew d a b => Sys2Proof.Machine.execSgew d a b s
  | .addi d a k => Sys2Proof.Machine.execAddi d a k s
  | .andi d a k => Sys2Proof.Machine.execAndi d a k s
  | .ori d a k => Sys2Proof.Machine.execOri d a k s
  | .xori d a k => Sys2Proof.Machine.execXori d a k s
  | .slli d a k => Sys2Proof.Machine.execSlli d a k s
  | .srli d a k => Sys2Proof.Machine.execSrli d a k s
  | .srai d a k => Sys2Proof.Machine.execSrai d a k s
  | .roli d a k => Sys2Proof.Machine.execRoli d a k s
  | .mini d a k => Sys2Proof.Machine.execMini d a k s
  | .maxi d a k => Sys2Proof.Machine.execMaxi d a k s
  | .slti d a k => Sys2Proof.Machine.execSlti d a k s
  | .seqi d a k => Sys2Proof.Machine.execSeqi d a k s
  | .li d k => Sys2Proof.Machine.execLi d k s
  | .li32 d k => Sys2Proof.Machine.execLi32 d k s
  | .lih d a k => Sys2Proof.Machine.execLih d a k s
  | .lea d m => Sys2Proof.Machine.execLea d m s
  | .sel d c a b => Sys2Proof.Machine.execSel d c a b s
  | .beq a hint b off head => Sys2Proof.Machine.execBeq a hint b off head s
  | .bne a hint b off head => Sys2Proof.Machine.execBne a hint b off head s
  | .blt a hint b off head => Sys2Proof.Machine.execBlt a hint b off head s
  | .bge a hint b off head => Sys2Proof.Machine.execBge a hint b off head s
  | .bltw a hint b off head => Sys2Proof.Machine.execBltw a hint b off head s
  | .bgew a hint b off head => Sys2Proof.Machine.execBgew a hint b off head s
  | .bbs a hint bit off head => Sys2Proof.Machine.execBbs a hint bit off head s
  | .bbc a hint bit off head => Sys2Proof.Machine.execBbc a hint bit off head s
  | .bz a hint off head => Sys2Proof.Machine.execBz a hint off head s
  | .bnz a hint off head => Sys2Proof.Machine.execBnz a hint off head s
  | .jmp off head => Sys2Proof.Machine.execJmp off head s
  | .jal d off head => Sys2Proof.Machine.execJal d off head s
  | .jr a => Sys2Proof.Machine.execJr a s
  | .ret a => Sys2Proof.Machine.execRet a s
  | .loop r0 off head => Sys2Proof.Machine.execLoop r0 off head s
  | .vadd vd va vb m t rm => Sys2Proof.Machine.execVadd vd va vb m t rm s
  | .vsub vd va vb m t rm => Sys2Proof.Machine.execVsub vd va vb m t rm s
  | .vmul vd va vb m t rm => Sys2Proof.Machine.execVmul vd va vb m t rm s
  | .vmin vd va vb m t => Sys2Proof.Machine.execVmin vd va vb m t s
  | .vmax vd va vb m t => Sys2Proof.Machine.execVmax vd va vb m t s
  | .vadds vd va vb m t => Sys2Proof.Machine.execVadds vd va vb m t s
  | .vsubs vd va vb m t => Sys2Proof.Machine.execVsubs vd va vb m t s
  | .vabs vd va m t => Sys2Proof.Machine.execVabs vd va m t s
  | .vneg vd va m t => Sys2Proof.Machine.execVneg vd va m t s
  | .vfma vd va vb vc m t rm => Sys2Proof.Machine.execVfma vd va vb vc m t rm s
  | .vfms vd va vb vc m t rm => Sys2Proof.Machine.execVfms vd va vb vc m t rm s
  | .vand vd va vb m t => Sys2Proof.Machine.execVand vd va vb m t s
  | .vor vd va vb m t => Sys2Proof.Machine.execVor vd va vb m t s
  | .vxor vd va vb m t => Sys2Proof.Machine.execVxor vd va vb m t s
  | .vandn vd va vb m t => Sys2Proof.Machine.execVandn vd va vb m t s
  | .vsll vd va vb m t => Sys2Proof.Machine.execVsll vd va vb m t s
  | .vsrl vd va vb m t => Sys2Proof.Machine.execVsrl vd va vb m t s
  | .vsra vd va vb m t => Sys2Proof.Machine.execVsra vd va vb m t s
  | .vcmpeq d va vb m t => Sys2Proof.Machine.execVcmpeq d va vb m t s
  | .vcmpne d va vb m t => Sys2Proof.Machine.execVcmpne d va vb m t s
  | .vcmplt d va vb m t => Sys2Proof.Machine.execVcmplt d va vb m t s
  | .vcmple d va vb m t => Sys2Proof.Machine.execVcmple d va vb m t s
  | .vcmpgt d va vb m t => Sys2Proof.Machine.execVcmpgt d va vb m t s
  | .vcmpge d va vb m t => Sys2Proof.Machine.execVcmpge d va vb m t s
  | .vcmpun d va vb m t => Sys2Proof.Machine.execVcmpun d va vb m t s
  | .vsel vd va vb m t => Sys2Proof.Machine.execVsel vd va vb m t s
  | .vmov vd va m t => Sys2Proof.Machine.execVmov vd va m t s
  | .vbcast vd xs m t => Sys2Proof.Machine.execVbcast vd xs m t s
  | .vextr d va xi t => Sys2Proof.Machine.execVextr d va xi t s
  | .vins vd xs xi t => Sys2Proof.Machine.execVins vd xs xi t s
  | .vperm vd va vb m t => Sys2Proof.Machine.execVperm vd va vb m t s
  | .vcompress vd va m t => Sys2Proof.Machine.execVcompress vd va m t s
  | .vexpand vd va m t => Sys2Proof.Machine.execVexpand vd va m t s
  | .vredsum d va m t rm => Sys2Proof.Machine.execVredsum d va m t rm s
  | .vredmax d va m t => Sys2Proof.Machine.execVredmax d va m t s
  | .vredmin d va m t => Sys2Proof.Machine.execVredmin d va m t s
  | .vamax d va m t => Sys2Proof.Machine.execVamax d va m t s
  | .vscan vd va m t rm op => Sys2Proof.Machine.execVscan vd va m t rm op s
  | .vdiv vd va vb m t rm => Sys2Proof.Machine.execVdiv vd va vb m t rm s
  | .vsqrt vd va m t rm => Sys2Proof.Machine.execVsqrt vd va m t rm s
  | .vrsq vd va m t rm => Sys2Proof.Machine.execVrsq vd va m t rm s
  | .vrcp vd va m t rm => Sys2Proof.Machine.execVrcp vd va m t rm s
  | .vexp2 vd va m t rm => Sys2Proof.Machine.execVexp2 vd va m t rm s
  | .vlog2 vd va m t rm => Sys2Proof.Machine.execVlog2 vd va m t rm s
  | .vcvt vd va m t rm st part sat => Sys2Proof.Machine.execVcvt vd va m t rm st part sat s
  | .vpackmx vd va xs m t rm st part sat => Sys2Proof.Machine.execVpackmx vd va xs m t rm st part sat s
  | .vunpackmx vd va xs m t rm st part => Sys2Proof.Machine.execVunpackmx vd va xs m t rm st part s
  | .vnzx qi va qv xb m t => Sys2Proof.Machine.execVnzx qi va qv xb m t s
  | .load d m sz => Sys2Proof.Machine.execLoad d m sz s
  | .loadSigned d m sz => Sys2Proof.Machine.execLoadSigned d m sz s
  | .lda d m scope sz => Sys2Proof.Machine.execLda d m scope sz s
  | .store r0 m sz => Sys2Proof.Machine.execStore r0 m sz s
  | .stl r0 m scope sz => Sys2Proof.Machine.execStl r0 m scope sz s
  | .ldv v m => Sys2Proof.Machine.execLdv v m s
  | .stv v m => Sys2Proof.Machine.execStv v m s
  | .ldvs v base stride m t => Sys2Proof.Machine.execLdvs v base stride m t s
  | .stvs v base stride m t => Sys2Proof.Machine.execStvs v base stride m t s
  | .ldvx v base vi m t sc => Sys2Proof.Machine.execLdvx v base vi m t sc s
  | .stvx v base vi m t sc => Sys2Proof.Machine.execStvx v base vi m t sc s
  | .sld d signed m swz sz => Sys2Proof.Machine.execSld d signed m swz sz s
  | .sldRec d signed m sz => Sys2Proof.Machine.execSldRec d signed m sz s
  | .sst r0 m swz sz => Sys2Proof.Machine.execSst r0 m swz sz s
  | .sldv v m swz => Sys2Proof.Machine.execSldv v m swz s
  | .sstv v m swz => Sys2Proof.Machine.execSstv v m swz s
  | .amoadd d a b md => Sys2Proof.Machine.execAmoadd d a b md s
  | .amoand d a b md => Sys2Proof.Machine.execAmoand d a b md s
  | .amoor d a b md => Sys2Proof.Machine.execAmoor d a b md s
  | .amoxor d a b md => Sys2Proof.Machine.execAmoxor d a b md s
  | .amomin d a b md => Sys2Proof.Machine.execAmomin d a b md s
  | .amomax d a b md => Sys2Proof.Machine.execAmomax d a b md s
  | .amominw d a b md => Sys2Proof.Machine.execAmominw d a b md s
  | .amomaxw d a b md => Sys2Proof.Machine.execAmomaxw d a b md s
  | .amoswap d a b md => Sys2Proof.Machine.execAmoswap d a b md s
  | .amocas d a b md => Sys2Proof.Machine.execAmocas d a b md s
  | .amofadd d a b md => Sys2Proof.Machine.execAmofadd d a b md s
  | .fence scope ord => Sys2Proof.Machine.execFence scope ord s
  | .pref level m => Sys2Proof.Machine.execPref level m s
  | .get d a pkg ord scope sz => Sys2Proof.Machine.execGet d a pkg ord scope sz s
  | .put a v pkg ord scope sz => Sys2Proof.Machine.execPut a v pkg ord scope sz s
  | .puts a off pkg ord scope n => Sys2Proof.Machine.execPuts a off pkg ord scope n s
  | .ramo d op a b pkg md => Sys2Proof.Machine.execRamo d op a b pkg md s
  | .amsg dest a b c d scope cn => Sys2Proof.Machine.execAmsg dest a b c d scope cn s
  | .copy st src dst len pkg scope spad cn => Sys2Proof.Machine.execCopy st src dst len pkg scope spad cn s
  | .send st src len dest arr scope spad slab swz cn => Sys2Proof.Machine.execSend st src len dest arr scope spad slab swz cn s
  | .refs st base qin qout ring row par cn => Sys2Proof.Machine.execRefs st base qin qout ring row par cn s
  | .sread st ns lba count mem cn => Sys2Proof.Machine.execSread st ns lba count mem cn s
  | .swrite st ns lba count mem cn => Sys2Proof.Machine.execSwrite st ns lba count mem cn s
  | .fship st a op1 op2 res scope ord routine cn => Sys2Proof.Machine.execFship st a op1 op2 res scope ord routine cn s
  | .ldc d h c signed => Sys2Proof.Machine.execLdc d h c signed s
  | .stc r0 h c => Sys2Proof.Machine.execStc r0 h c s
  | .ldcv v h c => Sys2Proof.Machine.execLdcv v h c s
  | .stcv v h c => Sys2Proof.Machine.execStcv v h c s
  | .cprobe d h c => Sys2Proof.Machine.execCprobe d h c s
  | .ctrim h c => Sys2Proof.Machine.execCtrim h c s
  | .tcfg a k => Sys2Proof.Machine.execTcfg a k s
  | .tzero acc => Sys2Proof.Machine.execTzero acc s
  | .tamax a k => Sys2Proof.Machine.execTamax a k s
  | .trowh a k => Sys2Proof.Machine.execTrowh a k s
  | .tresume => Sys2Proof.Machine.execTresume s
  | .tabort => Sys2Proof.Machine.execTabort s
  | .tmma acc a b k zero cn => Sys2Proof.Machine.execTmma acc a b k zero cn s
  | .tmmas acc a b k zero sel cn => Sys2Proof.Machine.execTmmas acc a b k zero sel cn s
  | .tmmax acc a b sa sb k zero sel cn => Sys2Proof.Machine.execTmmax acc a b sa sb k zero sel cn s
  | .tlacc acc a stride k spad cn => Sys2Proof.Machine.execTlacc acc a stride k spad cn s
  | .tsacc acc a stride k spad cn => Sys2Proof.Machine.execTsacc acc a stride k spad cn s
  | .tdrain acc dest stride k t rm kind sat cn => Sys2Proof.Machine.execTdrain acc dest stride k t rm kind sat cn s
  | .tdrainHandler acc dest stride arg k cn => Sys2Proof.Machine.execTdrainHandler acc dest stride arg k cn s
  | .rowout dest m swz t rm kind sat => Sys2Proof.Machine.execRowout dest m swz t rm kind sat s
  | .mcfg a n => Sys2Proof.Machine.execMcfg a n s
  | .mrun out port tag cn => Sys2Proof.Machine.execMrun out port tag cn s
  | .mstat d => Sys2Proof.Machine.execMstat d s
  | .mstop => Sys2Proof.Machine.execMstop s
  | .qtok tag port r0 => Sys2Proof.Machine.execQtok tag port r0 s
  | .qtry d xf q => Sys2Proof.Machine.execQtry d xf q s
  | .qpeek d xf q => Sys2Proof.Machine.execQpeek d xf q s
  | .qlen d q => Sys2Proof.Machine.execQlen d q s
  | .qfence => Sys2Proof.Machine.execQfence s
  | .qtvec q r0 => Sys2Proof.Machine.execQtvec q r0 s
  | .cpost c k => Sys2Proof.Machine.execCpost c k s
  | .waitc c k => Sys2Proof.Machine.execWaitc c k s
  | .cread d c clr => Sys2Proof.Machine.execCread d c clr s
  | .wait ld st cp tl => Sys2Proof.Machine.execWait ld st cp tl s
  | .await a t scope => Sys2Proof.Machine.execAwait a t scope s
  | .bar => Sys2Proof.Machine.execBar s
  | .parkC c t => Sys2Proof.Machine.execParkC c t s
  | .parkA a t scope => Sys2Proof.Machine.execParkA a t scope s
  | .parkQ port => Sys2Proof.Machine.execParkQ port s
  | .parkT t => Sys2Proof.Machine.execParkT t s
  | .yield => Sys2Proof.Machine.execYield s
  | .exit => Sys2Proof.Machine.execExit s
  | .sprio n => Sys2Proof.Machine.execSprio n s
  | .launch d p => Sys2Proof.Machine.execLaunch d p s
  | .slice d j k what axis => Sys2Proof.Machine.execSlice d j k what axis s
  | .warm w base size => Sys2Proof.Machine.execWarm w base size s
  | .wdisarm w => Sys2Proof.Machine.execWdisarm w s
  | .wstat d w => Sys2Proof.Machine.execWstat d w s
  | .wack => Sys2Proof.Machine.execWack s
  | .csrr d csr => Sys2Proof.Machine.execCsrr d csr s
  | .csrw csr r0 => Sys2Proof.Machine.execCsrw csr r0 s
  | .csrset csr r0 => Sys2Proof.Machine.execCsrset csr r0 s
  | .csrclr csr r0 => Sys2Proof.Machine.execCsrclr csr r0 s
  | .tlbw a b => Sys2Proof.Machine.execTlbw a b s
  | .tlbi a b => Sys2Proof.Machine.execTlbi a b s
  | .clbi a b => Sys2Proof.Machine.execClbi a b s
  | .migr d a b => Sys2Proof.Machine.execMigr d a b s
  | .ecall n => Sys2Proof.Machine.execEcall n s
  | .ebreak n => Sys2Proof.Machine.execEbreak n s
  | .eret => Sys2Proof.Machine.execEret s
  | .repart a => Sys2Proof.Machine.execRepart a s
  | .ctxsave a b => Sys2Proof.Machine.execCtxsave a b s
  | .ctxrest a b => Sys2Proof.Machine.execCtxrest a b s
  | .agedLevel core slot => Sys2Proof.Machine.execAgedLevel core slot s
  | .yieldExpiry core slot => Sys2Proof.Machine.execYieldExpiry core slot s
  | .loadReturn core slot seq => Sys2Proof.Machine.execLoadReturn core slot seq s
  | .storePerformed core slot seq => Sys2Proof.Machine.execStorePerformed core slot seq s
  | .fabricPerformed core slot seq ext => Sys2Proof.Machine.execFabricPerformed core slot seq ext s
  | .remoteAck core slot seq => Sys2Proof.Machine.execRemoteAck core slot seq s
  | .negativeAck core slot seq => Sys2Proof.Machine.execNegativeAck core slot seq s
  | .shippedOperation core slot seq => Sys2Proof.Machine.execShippedOperation core slot seq s
  | .elementPoppable queue gen => Sys2Proof.Machine.execElementPoppable queue gen s
  | .creditReturn queue => Sys2Proof.Machine.execCreditReturn queue s
  | .porterRunStart core => Sys2Proof.Machine.execPorterRunStart core s
  | .tileOpStart core => Sys2Proof.Machine.execTileOpStart core s
  | .tileUnitStop core => Sys2Proof.Machine.execTileUnitStop core s
  | .tileOpComplete core op => Sys2Proof.Machine.execTileOpComplete core op s
  | .amaxAtomic core op => Sys2Proof.Machine.execAmaxAtomic core op s
  | .rowHandlerDispatch core => Sys2Proof.Machine.execRowHandlerDispatch core s
  | .mergeEmit core => Sys2Proof.Machine.execMergeEmit core s
  | .mergeToken core => Sys2Proof.Machine.execMergeToken core s
  | .mergeFault core => Sys2Proof.Machine.execMergeFault core s
  | .referencePop core op => Sys2Proof.Machine.execReferencePop core op s
  | .referenceStop core op => Sys2Proof.Machine.execReferenceStop core op s
  | .sectorStep core op => Sys2Proof.Machine.execSectorStep core op s
  | .engineStop core op => Sys2Proof.Machine.execEngineStop core op s
  | .engineComplete core op ext => Sys2Proof.Machine.execEngineComplete core op ext s
  | .storageComplete core op status => Sys2Proof.Machine.execStorageComplete core op status s
  | .channelTransferStart core chan => Sys2Proof.Machine.execChannelTransferStart core chan s
  | .beatDelivery core chan => Sys2Proof.Machine.execBeatDelivery core chan s
  | .migrationComplete mig => Sys2Proof.Machine.execMigrationComplete mig s
  | .triggerStart die entry => Sys2Proof.Machine.execTriggerStart die entry s
  | .watchRateWindow die entry => Sys2Proof.Machine.execWatchRateWindow die entry s
  | .parkSaveComplete core area => Sys2Proof.Machine.execParkSaveComplete core area s
  | .unpark core area => Sys2Proof.Machine.execUnpark core area s
  | .balancerSample lid stage => Sys2Proof.Machine.execBalancerSample lid stage s
  | .elasticEos core slot => Sys2Proof.Machine.execElasticEos core slot s
  | .watchdogStop lid => Sys2Proof.Machine.execWatchdogStop lid s
  | .watchdog core lid => Sys2Proof.Machine.execWatchdog core lid s
  | .hostInterrupt core lid reason => Sys2Proof.Machine.execHostInterrupt core lid reason s
  | .preempt core reason => Sys2Proof.Machine.execPreempt core reason s
  | .watchRunaway core => Sys2Proof.Machine.execWatchRunaway core s
  | .undeliverable core slot => Sys2Proof.Machine.execUndeliverable core slot s
  | .claimGrant part => Sys2Proof.Machine.execClaimGrant part s
  | .launchEnd lid => Sys2Proof.Machine.execLaunchEnd lid s
  | .frontEndPoll queue fail => Sys2Proof.Machine.execFrontEndPoll queue fail s
  | .launchPacket queue => Sys2Proof.Machine.execLaunchPacket queue s
  | .launchLoadOnly queue => Sys2Proof.Machine.execLaunchLoadOnly queue s
  | .copyin queue buserr => Sys2Proof.Machine.execCopyin queue buserr s
  | .copyout queue => Sys2Proof.Machine.execCopyout queue s
  | .signalSet queue => Sys2Proof.Machine.execSignalSet queue s
  | .signalAdd queue => Sys2Proof.Machine.execSignalAdd queue s
  | .waitsigGe queue => Sys2Proof.Machine.execWaitsigGe queue s
  | .waitsigEq queue => Sys2Proof.Machine.execWaitsigEq queue s
  | .waitsigPoll queue => Sys2Proof.Machine.execWaitsigPoll queue s
  | .fencePacket queue => Sys2Proof.Machine.execFencePacket queue s
  | .pad queue => Sys2Proof.Machine.execPad queue s
  | .packetComplete queue index => Sys2Proof.Machine.execPacketComplete queue index s
  | .queueEnable queue => Sys2Proof.Machine.execQueueEnable queue s
  | .queueDisable queue => Sys2Proof.Machine.execQueueDisable queue s
  | .queueResume queue => Sys2Proof.Machine.execQueueResume queue s
  | .hostRegisterWrite off val => Sys2Proof.Machine.execHostRegisterWrite off val s
  | .ident tag => Sys2Proof.Machine.execIdent tag s
  | .setpkg tag => Sys2Proof.Machine.execSetpkg tag s
  | .partcfg tag => Sys2Proof.Machine.execPartcfg tag s
  | .partclr tag => Sys2Proof.Machine.execPartclr tag s
  | .peermap tag => Sys2Proof.Machine.execPeermap tag s
  | .unload tag => Sys2Proof.Machine.execUnload tag s
  | .stop tag => Sys2Proof.Machine.execStop tag s
  | .fwload tag ok => Sys2Proof.Machine.execFwload tag ok s
  | .attest tag => Sys2Proof.Machine.execAttest tag s
  | .winset tag => Sys2Proof.Machine.execWinset tag s
  | .evread tag => Sys2Proof.Machine.execEvread tag s
  | .certs tag => Sys2Proof.Machine.execCerts tag s
  | .telem tag => Sys2Proof.Machine.execTelem tag s
  | .mailboxComplete => Sys2Proof.Machine.execMailboxComplete s
  | .windowRead off size => Sys2Proof.Machine.execWindowRead off size s
  | .windowWrite off size val => Sys2Proof.Machine.execWindowWrite off size val s
  | .peerInbound port req => Sys2Proof.Machine.execPeerInbound port req s
  | .perstRelease boot => Sys2Proof.Machine.execPerstRelease boot s
  | .powerOff => Sys2Proof.Machine.execPowerOff s
  | .functionLevelReset => Sys2Proof.Machine.execFunctionLevelReset s
  | .inputVoltageFault => Sys2Proof.Machine.execInputVoltageFault s
  | .inputPowerLimit duty => Sys2Proof.Machine.execInputPowerLimit duty s
  | .inputPowerRecover => Sys2Proof.Machine.execInputPowerRecover s
  | .coolantInletLimit die duty => Sys2Proof.Machine.execCoolantInletLimit die duty s
  | .dieTemperatureLimit die duty => Sys2Proof.Machine.execDieTemperatureLimit die duty s
  | .dieTemperaturePreempt die => Sys2Proof.Machine.execDieTemperaturePreempt die s
  | .dieTemperatureRecover die => Sys2Proof.Machine.execDieTemperatureRecover die s
  | .dieTemperatureShutdown die => Sys2Proof.Machine.execDieTemperatureShutdown die s
  | .pageFence line => Sys2Proof.Machine.execPageFence line s
  | .patrolScrub stack => Sys2Proof.Machine.execPatrolScrub stack s
  | .llcScrub die => Sys2Proof.Machine.execLlcScrub die s
  | .bankSparing stack chan bank => Sys2Proof.Machine.execBankSparing stack chan bank s
  | .liveLaneRepair link chan => Sys2Proof.Machine.execLiveLaneRepair link chan s
  | .linkRetrain port ok => Sys2Proof.Machine.execLinkRetrain port ok s
  | .corePowerDown core => Sys2Proof.Machine.execCorePowerDown core s

end Sys2Proof.Machine
end

