-- ==== Sys2Proof/Machine/Progress.lean ====
section
/-! DEFINITION. What one turn of the package does: the issue of a core (R279, R280, R311), an item of the agenda, and everything else that goes on (log 4). -/

namespace Sys2Proof.Machine

/-- What passes with a step: clk (log 5), and the wake conditions of parked strands that have come to hold (R284). -/
def tick (s : State) : State := noteWakes { s with clk := s.clk + 1 + Config.elapsed s.free, free := s.free + 1 }

/-- An event, as its effect. -/
abbrev Going : Type := State → Host.Outcome State Fault Refusal

/-- Applies a change to the next state of an outcome. -/
def onNext (f : State → State) : Host.Outcome State Fault Refusal → Host.Outcome State Fault Refusal
  | .next s => .next (f s)
  | o => o

/-- The strand in a slot of a core issues the instruction at its program counter. -/
def issueAt (s : State) (core slot : Nat) : Host.Outcome State Fault Refusal :=
  if coreCount ≤ core then .fault .noSuchCore
  else
    let s := { s with cursor := { s.cursor with core := core, slot := slot, header := 0, stalled := false } }
    match current s with
    | none => .next (stall s)
    | some cx => match fetch s cx with
      | .stop s => .next s
      | .instr i h => exec i (fetched s cx h)

/-- Whether the strand in a slot is ready: its next instruction would issue, or trap, now (R279). -/
def readyAt (s : State) (core slot : Nat) : Bool :=
  match issueAt s core slot with
  | .next t => !t.cursor.stalled
  | _ => false

/-- The slots of a core whose strands may issue, in the order of its arbiter (R279, R280). -/
def candidates (s : State) (core : Nat) : List Nat :=
  (arbiterOrder s core).filter fun k => (current { s with cursor := { s.cursor with core := core, slot := k } }).isSome

/-- What a strand that stands aside still waits for (R311): those of the others taken down at its YIELD that are ready and
have not issued since; with none left it waits no more. -/
def settleYield (ready : List Nat) (st : Strand) : Strand :=
  match st.wait with
  | some (.yielding others till) =>
    let left := match others with
      | none => ready
      | some gs => gs.filter ready.contains
    { st with wait := if left.isEmpty then none else some (.yielding (some left) till) }
  | _ => st

/-- Changes the strands in the user slots of a core, and its supervisor strand. -/
def mapSlots (s : State) (core : Nat) (f : Nat → Strand → Strand) : State :=
  { s with strands := s.strands.map fun e =>
      if e.1 / 256 == core && (decide (e.1 % 256 < 16) || e.1 % 256 == supervisorSlot) then (e.1, f (e.1 % 256) e.2) else e }

/-- The user slots of a core, but one, whose strands are ready, and the generations of these strands. -/
def readyOthers (s : State) (core slot : Nat) : List Nat × List Nat :=
  let slots := (List.range 16).filter fun k => k != slot && readyAt s core k
  (slots, slots.filterMap fun k => (s.strand core k).map (·.gen))

/-- The level at which a slot issues; 4 is the aged level, and the porter and supervisor slots have none (R280). -/
def levelAt (s : State) (core slot : Nat) : Option Nat :=
  if 16 ≤ slot then none else (s.strand core slot).map fun x => if x.aged then 4 else x.level

/-- The bookkeeping of an issue by a slot at a level (R280, R290, R311): the level's turn, the strand's waiting count and age,
the other strands of the core that were ready and are passed over, those that stand aside, and the launch's movement. -/
def noteIssue (level : Option Nat) (s : State) (core slot : Nat) : State :=
  let c := s.core core
  let s := match level with
    | some l => s.setCore core { c with turns := c.turns.insert l (slot + 1) }
    | none => s
  let others := readyOthers s core slot
  let s := mapSlots s core fun k st => settleYield others.2
    (if k = slot then { st with since := none, aged := false }
     else { st with since := if others.1.contains k then some (st.since.getD s.clk) else none })
  if slot = supervisorSlot then s else noteMoved s core

/-- The first of a list of slots whose instruction is ready issues it (R279, R280); the strands before it go into their
waits. -/
def issueFirst (core : Nat) : List Nat → State → Host.Outcome State Fault Refusal
  | [], s => .next (stall s)
  | slot :: rest, s => match issueAt s core slot with
    | .next t => if t.cursor.stalled then issueFirst core rest t else .next (noteIssue (levelAt s core slot) t core slot)
    | o => o

/-- A core as its arbiter finds it (R280, R311): strands passed over too long are at the aged level, and a strand that stands
aside for others that are no longer ready waits no more. -/
def prepare (s : State) (core : Nat) : State :=
  let s := ageStrands s core
  if s.strands.any fun e => e.1 / 256 == core && (match e.2.wait with | some (.yielding _ _) => true | _ => false) then
    mapSlots s core fun _ => settleYield (readyOthers s core 16).2
  else s

/-- What waited to start on a core while it was pre-empted (R384, R401): its porter strand, rows of a drain, parked strands, and
triggered and balancer strands. -/
def heldStarts (s : State) (core : Nat) : List Going :=
  let areas := (s.strands.filter fun e => e.1 / 256 == core && decide (32 ≤ e.1 % 256) && decide (e.1 % 256 < 96)).map (·.1 % 256 - 32)
  [execPorterRunStart core, execRowHandlerDispatch core] ++ areas.map (execUnpark core)
    ++ ((s.die (dieOf core)).watch.map fun e => execTriggerStart (dieOf core) e.1)
    ++ (launchOf s core).toList.flatMap fun l => (List.range l.stages.length).map fun k => execBalancerSample l.lid k

/-- After pre-emption, what waited to start does so before a strand of the core issues (R401). -/
def startHeld (s : State) (core : Nat) : State :=
  let round := fun (s : State) => (heldStarts s core).foldl (fun s g => match g s with | .next t => t | _ => s) s
  let t := (List.range 16).foldl (fun s _ => round s) s
  t.setCore core { t.core core with resuming := false }

/-- A turn of a core: its supervisor takes a held event (R389), or its arbiter issues an instruction (R279, R280). -/
def coreTurn (s : State) (core : Nat) : Host.Outcome State Fault Refusal :=
  if coreCount ≤ core then .fault .noSuchCore
  else
    let c := s.core core
    if !c.supRunning && !c.halted && (nextHeld s core).isSome then
      .next { takeNext s core with cursor := { s.cursor with stalled := false } }
    else
      let s := prepare (if c.resuming && !c.frozen then startHeld s core else s) core
      issueFirst core (candidates s core) s

/-- Carries out an item of the agenda (log 4). An event is a row without an encoding. -/
def act (s : State) : Act → Host.Outcome State Fault Refusal
  | .event i => if (toRaw i).isNone then exec i s else .next s
  | .arbiter core => coreTurn s core
  | .scrivener cluster => .next (scrivenerAnswer s cluster)
  | .boot => .next (bootStep s)
  | .stalled => .next (retryStalled s)
  | .host addr bytes => .next (hostStore s addr bytes)
  | .region e a b => .next (changeRegion s e a b)
  | .upset u => .next (upset s u)

/-- The cursor at the next core with a strand; past the last one it is the turn of everything else. -/
def nextCursor (s : State) : Cursor :=
  let c := s.cursor
  let cores := (s.strands.filter fun e => e.1 % 256 < 18).map fun e => e.1 / 256
  match cores.find? (c.core < ·) with
  | some k => { core := k, turn := c.turn }
  | none => { core := cores.headD 0, others := true, turn := c.turn }

/-! What the package has to do besides issuing, by what the state shows; whether each can happen now is the event's own test. -/

/-- The events of an outstanding access; the value that another package returns is free. -/
def accessEvents (s : State) (core place : Nat) (a : Access) : List Going :=
  [execLoadReturn core place ⟨a.seq, 0⟩, execStorePerformed core place ⟨a.seq, 0⟩,
    execFabricPerformed core place a.seq (Config.freeWord s.free), execRemoteAck core place a.seq,
    execShippedOperation core place a.seq]
    ++ if a.dropped || a.pkg.any (fun p => !peerReaches s core p) then [execNegativeAck core place a.seq] else []

/-- The events of a strand at a place. -/
def strandEvents (s : State) (key : Nat) (st : Strand) : List Going :=
  let core := key / 256
  let place := key % 256
  (st.pend.flatMap (accessEvents s core place))
    ++ (match st.wait with | some (.yielding ..) => [execYieldExpiry core place] | _ => [])
    ++ (if st.retiring = .closed then [execElasticEos core place] else [])
    ++ (if decide (32 ≤ place) && decide (place < 96) then [execUnpark core (place - 32)] else [])

/-- The events of a queue. -/
def queueEvents (q : Nat × Queue) : List Going :=
  (q.2.transit.map fun e => execElementPoppable q.1 e.gen)
    ++ if q.2.returning = 0 then [] else [execCreditReturn q.1]

/-- The events of a core's engine operation. -/
def opEvents (core : Nat) (o : EngineOp) : List Going :=
  [execSectorStep core ⟨o.id, 0⟩, execReferencePop core ⟨o.id, 0⟩, execReferenceStop core o.id,
    execEngineStop core o.id, execEngineComplete core o.id 0, execStorageComplete core o.id 0]

/-- The events of a core's tile unit. -/
def tileEvents (core : Nat) (t : TileUnit) : List Going :=
  (if t.queue.isEmpty then [] else [execTileUnitStop core, execTileOpStart core, execRowHandlerDispatch core])
    ++ t.ended.flatMap fun o => [execAmaxAtomic core o.id, execTileOpComplete core o.id]

/-- The events of a core's merge unit. -/
def mergeEvents (core : Nat) (m : MergeUnit) : List Going :=
  if m.run.isNone then [] else [execMergeFault core, execMergeEmit core, execMergeToken core]

/-- The taking of the events that a core holds (R389). -/
def heldEventsOf (s : State) (core : Nat) : List Going :=
  if (heldEvents s core).isEmpty then [] else [fun s => .next (takeNext s core)]

/-- The events of a core. -/
def coreEvents (s : State) (core : Nat) (c : Core) : List Going :=
  (if c.inbox.isEmpty then [] else [execPorterRunStart core])
    ++ (c.ops.flatMap (opEvents core)) ++ tileEvents core c.tile ++ mergeEvents core c.merge
    ++ (c.channels.flatMap fun h => [execBeatDelivery core ⟨h.1, 0⟩, execBeatDelivery core ⟨h.1, 1⟩, execChannelTransferStart core h.1])
    ++ (c.parking.map fun p => execParkSaveComplete core p.1) ++ heldEventsOf s core

/-- The events of launches and moves. -/
def launchEvents (s : State) : List Going :=
  (s.moves.map fun m => execMigrationComplete m.id)
    ++ (s.dies.flatMap fun d => d.2.watch.flatMap fun e =>
      [execTriggerStart d.1 e.1, execWatchRateWindow d.1 e.1])
    ++ (s.launches.flatMap fun l =>
      (if l.phase = .waiting then [execClaimGrant l.part] else [execLaunchEnd l.lid, execWatchdogStop l.lid])
        ++ (List.range l.stages.length).map fun k => execBalancerSample l.lid k)

/-- The events of a host queue. -/
def hostQueueEvents (q : Nat) (v : HostQueue) : List Going :=
  (v.packets.map fun p => execPacketComplete q p.num)
    ++ [execWaitsigPoll q, execLaunchPacket q, execLaunchLoadOnly q, execCopyin q false,
      execCopyout q, execSignalSet q, execSignalAdd q, execWaitsigGe q, execWaitsigEq q,
      execFencePacket q, execPad q, execFrontEndPoll q 0]

/-- The events of the package: boot, the mailbox, and what waits for a page to finish moving. -/
def packageEvents (s : State) : List Going :=
  (if 1 ≤ s.pkg.boot ∧ s.pkg.boot ≤ 6 then [fun s => .next (bootStep s)] else [])
    ++ (if s.host.busy then [execMailboxComplete] else [])
    ++ if s.host.stalled.isEmpty && s.pkg.stalledPeers.isEmpty then [] else [fun s => .next (retryStalled s)]

/-- Everything that may go on. -/
def goings (s : State) : List Going :=
  (s.strands.flatMap fun e => strandEvents s e.1 e.2) ++ s.queues.flatMap queueEvents
    ++ (s.cores.flatMap fun c => coreEvents s c.1 c.2)
    ++ ((s.clusters.filter fun c => !c.2.misses.isEmpty).map fun c => fun s => .next (scrivenerAnswer s c.1))
    ++ launchEvents s ++ (s.host.queues.flatMap fun q => hostQueueEvents q.1 q.2) ++ packageEvents s

/-- The state after one of them, when something changes. -/
def moves? (s : State) (g : Going) : Option State :=
  match g s with
  | .next t => if t = s then none else some t
  | _ => none

/-- Everything but issuing has its turn: the first thing that can happen happens, from a place that moves on with each such
turn (log 4). -/
def goOn (s : State) : State :=
  let s := { s with cursor := { s.cursor with others := false, turn := s.cursor.turn + 1 } }
  let gs := goings s
  let n := s.cursor.turn % (gs.length + 1)
  ((gs.drop n ++ gs.take n).findSome? (moves? s)).getD s

/-- What follows the turn of the core at the cursor: everything else goes on beside it when no strand of it was ready, and the
cursor moves on (log 4). -/
def afterTurn (s : State) : State :=
  let t := if s.cursor.stalled then goOn s else s
  { t with cursor := nextCursor t }

/-- The package goes on (log 4): everything but issuing when it has its turn; else the core at the cursor, with everything
else beside it when no strand of it is ready. -/
def issueOrGoOn (s : State) : Host.Outcome State Fault Refusal :=
  if s.cursor.others then .next (goOn s)
  else onNext afterTurn (coreTurn s s.cursor.core)

end Sys2Proof.Machine
end

