-- ==== Sys2Proof/Machine/Step.lean ====
section
/-! DEFINITION. One step of the package, and the placing of an instruction where the next step fetches it. -/

namespace Sys2Proof.Machine

/-- One step: the head of the agenda, else the core at the cursor, or everything else in its turn (log 4). -/
def step (s : State) : Host.Outcome State Fault Refusal :=
  match s.agenda with
  | a :: rest => onNext tick (act { s with agenda := rest } a)
  | [] => onNext tick (issueOrGoOn s)

/-- The address of the line that withFetchWord writes: offset 0 of object 1. -/
def fetchLineAddr : Word := 0x0001000000000000

/-- The bytes of a line of one head, stop clear, with the instruction of a table word (R32, R33, R39): the head stands
above its tail in the table's numbering. -/
def oneHeadLine (nbits w : Nat) : List Byte :=
  let tail := nbits - 16
  let head := BitVec.ofNat 16 (w / 2 ^ tail)
  let len := head.toNat / 128 % 4
  let t := w % 2 ^ tail * 2 ^ (16 * len - tail)
  leBytes 2 0x0800 ++ leBytes 2 head.toNat ++ List.replicate (60 - 2 * len) 0 ++ leBytes (2 * len) t

/-- The state with one instruction placed where the step fetches next (log 1): region entry 0 homes a near-tier region on
die 0, the L1 TLB of core 0 maps object 1 as code onto it, the line lies at its start, and slot 0 of core 0 holds an
instance whose program counter is head 1 of that line. -/
def State.withFetchWord (s : State) (nbits w : Nat) : State :=
  let line := oneHeadLine nbits w
  let entry : TlbEntry := { oid := 1, obase := 0, sc := 0, kind := 2, rd := true, wr := false, ex := true, pbase := 0,
                            limit := 0 }
  let region : Word × Word := (put 1 63 ||| put 8 49 ||| put 1 40, put 16 32)
  let st : Strand := { kind := .inst, gen := 1, stage := 0, rank := 0, lid := 0, pc := fetchLineAddr + 2 }
  { s with
    regions := s.regions.insert 0 region
    cores := s.cores.insert 0 { s.core 0 with tlb := [entry] }
    strands := s.strands.insert (placeKey 0 0) st
    mem := line.zipIdx.foldl (fun m p => Tab.set 0 (cellOf 0 0 p.2) p.1 m) s.mem
    agenda := []
    cursor := { core := 0, slot := 0, header := 0, stalled := false } }

end Sys2Proof.Machine
end

