-- ==== Sys2Proof/Safety.lean ====
section
/-! DEFINITION. The terms in which claims are stated: what a well-kept state is, when an instruction is ready, what it leaves when it retires, and what a trap leaves. -/

namespace Sys2Proof.Machine

/-! Well-kept states. -/

/-- A memory is in canonical form (R4, log 2): addresses strictly rising, no byte listed that equals the 0 that an unlisted
address reads as. -/
abbrev Memory.wf (m : List Host.Cell) : Bool := Tab.wf 0 m

/-- Device memory and host memory are in canonical form. -/
def State.memWf (s : State) : Bool := Memory.wf s.mem && Memory.wf s.host.mem

/-- No strand lists a value for x0 (R23). -/
def State.zeroWf (s : State) : Bool := s.strands.all fun e => (e.2.xs.find 0).isNone

/-- Whether a place holds a parked strand whose wake condition holds (R284). -/
def State.wakesNoted (s : State) : Prop :=
  ∀ e ∈ s.strands, 32 ≤ e.1 % 256 → e.1 % 256 < 96 → wakeHolds s (e.1 / 256) e.2 = true → e.1 ∈ s.woken

/-! Issue. -/

/-- The strand at the cursor has come to its operands (R60, R53, R99): it may issue, the registers, the level and the values
on which an ILLEGAL depends are legal, ports are bound, its source ports are free, no register that it reads is owed, no
fault is delivered at it, and every source port holds an element. -/
structure Checked (s : State) (cx : Ctx) (u : Uses) : Prop where
  strand : current s = some cx
  legal : isIllegal s cx u = false
  level : u.privileged = true → cx.st.kind = .supervisor
  kind : isBlockedKind cx.st = true → u.blocking = false ∧ sourcePorts u = []
  bound : unboundPort cx.st u = none
  noFault : engineFault s cx.core cx.st u.sync (readNums u ++ writeNums u) = none
  paid : ∀ n ∈ operandNums u ++ readNums u, n ∉ cx.st.owed
  valid : operandsKnown s cx u = true → u.invalid (readReg s cx) = false
  free : ∀ k ∈ sourcePorts u, portHeld s cx k = false
  acquired : sourcePorts u ≠ [] → cx.st.acquiring = false
  heads : ∀ k ∈ sourcePorts u, ∃ e, headOf s cx.st k = some e ∧ e.bad = false

/-- An instruction that uses `u` can take effect now (R53, R55, R99, R382): its source ports hold data, no register that it
writes is owed, the vector unit has power where it is needed, no register that it reads is poisoned, and its destination
port is free and has room. -/
structure Ready (s : State) (cx : Ctx) (u : Uses) : Prop extends Checked s cx u where
  owedNot : ∀ n ∈ writeNums u, n ∉ cx.st.owed
  units : u.vsrc ≠ [] ∨ u.vdst ≠ [] → unitsOff s cx.core = false
  outFree : ∀ k ∈ destPorts u ++ u.named.map (·.1), portHeld s cx k = false
  data : ∀ k ∈ sourcePorts u, ∀ e, headOf s cx.st k = some e → e.tag = 0
  clean : ∀ n ∈ readNums u, cx.st.poison.find n = none
  room : destPorts u ≠ [] → fenced s cx.st = false ∧ portFull s cx.st (destPorts u) 1 = none

/-- The operand values of the strand that issues. -/
def operandsOf (s : State) (cx : Ctx) : Vals := { s := s, cx := cx, x := readReg s cx, v := fun r => cx.st.v r.val }

/-- The line that a program counter lies in. -/
def lineOf (pc : Word) : Word := pc - BitVec.ofNat 64 (pc.toNat % 64)

/-! Retirement. -/

/-- What x register n holds once the results of an instruction are written; a write of x0 is discarded (R23). -/
def xAfter (st : Strand) (xs : List (Reg × Word)) (n : Nat) : Word :=
  if n = 0 then 0
  else xs.foldl (fun old w => match w.1 with | .x m => if m.val = n then w.2 else old | _ => old) (st.x n)

/-- What vector register n holds once the results of an instruction are written. -/
def vAfter (st : Strand) (vs : List (VReg × VWord)) (n : Nat) : VWord :=
  vs.foldl (fun old w => if w.1.val = n then w.2 else old) (st.v n)

/-- The state and strand once the source ports have been popped and the results pushed to ports (R54, R55, R57). -/
def portsAfter (u : Uses) (d : Done) : State × Strand :=
  d.xs.foldl writeReg ((sourcePorts u).foldl (fun p k => popPort p.1 p.2 k) (d.s, d.st))

/-- The strand after an instruction of no further consequence has retired (R54, R85, R90), apart from its registers and
their poison. -/
def strandAfter (u : Uses) (d : Done) (pc : Word) (st : Strand) : Strand :=
  let p := (portsAfter u d).2
  { d.st with
    xs := st.xs, vs := st.vs, poison := st.poison
    retiring := p.retiring, nextSeq := p.nextSeq, remote := p.remote, pend := p.pend
    fstat := d.st.fstat ||| d.flags, srcnt := if d.sto then d.st.srcnt + 1 else d.st.srcnt, wait := d.waits
    declines := [], staying := false, trimming := none
    qfence := d.st.qfence && (destPorts u).isEmpty, resumed := false, pc := pc }

/-- The scoreboard number of a scalar destination; none for x0 and for a port. -/
def scalarNum : Reg → Option Nat
  | .x m => if m.val = 0 then none else some m.val
  | _ => none

/-- The scoreboard numbers of the registers that an instruction's results clear of poison (R382). -/
def resultNums (d : Done) : List Nat := (d.xs.filterMap fun w => scalarNum w.1) ++ d.vs.map fun w => 64 + w.1.val

/-- The state that an instruction leaves as it retires and its strand goes on at `pc`: every register, flag and field of the
strand, the queues, and nothing else of `d.s`. -/
structure Retired (cx : Ctx) (u : Uses) (d : Done) (pc : Word) (t : State) : Prop where
  strand : ∃ st, t.strand cx.core cx.slot = some st ∧ st = strandAfter u d pc st ∧
    (∀ n, st.x n = xAfter d.st d.xs n) ∧ (∀ n, st.v n = vAfter d.st d.vs n) ∧
    (∀ n, st.poison.find n = if n ∈ resultNums d then none else d.st.poison.find n)
  others : ∀ k, k ≠ placeKey cx.core cx.slot → t.strands.find k = d.s.strands.find k
  rest : t = { d.s with strands := t.strands, queues := (portsAfter u d).1.queues }

/-- What follows a retirement (R35): nothing, unless the instruction took no target and is the last head of a line whose stop
bit is set; then the strand traps FALLOFF. -/
def Followed (s : State) (cx : Ctx) (d : Done) (t0 t : State) : Prop :=
  if d.jump.isNone && (nextPc s.cursor.header cx.st.pc).isNone then
    ∃ st, t0.strand cx.core cx.slot = some st ∧
      t = takeTrap t0 cx.core cx.slot st .falloff 0 (lineOf cx.st.pc + 66) (lineOf cx.st.pc)
  else t = t0

/-- An instruction answers a next state in which it has retired with the effect `d`, and its strand stands at `pc`, unless
FALLOFF follows. -/
def Completes (i : Instr) (s : State) (cx : Ctx) (u : Uses) (d : Done) (pc : Word) : Prop :=
  ∃ t0 t, exec i s = .next t ∧ Retired cx u d pc t0 ∧ Followed s cx d t0 t

/-! Traps. -/

/-- The state in which the supervisor of a core runs after a trap or event: the exception registers are written, the core is
frozen, the supervisor strand stands at SVEC, and nothing else has changed (R380, R383, R385). -/
structure Entered (s : State) (core : Nat) (ecause evalue epc estrand : Word) (t : State) : Prop where
  regs : t.core core = { s.core core with
    ecause := ecause, evalue := evalue, epc := epc, estrand := estrand, frozen := true, supRunning := true }
  handler : ∃ v, s.strand core supervisorSlot = some v ∧
    t.strand core supervisorSlot = some { v with pc := (s.core core).svec, wait := none }
  cores : ∀ c, c ≠ core → t.core c = s.core c
  strands : ∀ k, k ≠ placeKey core supervisorSlot → t.strands.find k = s.strands.find k
  rest : t = { s with cores := t.cores, strands := t.strands }

end Sys2Proof.Machine

namespace Sys2Proof.Claims

open Sys2Proof.Machine

/-- An instruction that names scalar sources and destinations only. -/
def regs (src : List Reg) (dst : List Reg := []) : Uses := { src := src, dst := dst }

/-- The registers and ports that an instruction of the Gherad set names, and what it is, by its encoding and its own rule: the
scalar and vector sources and destinations, the ports it uses by its own rule, whether it is illegal for the strand, needs the
supervisor level, blocks, and for which stopped operations it is a sync point (R26, R59, R61, R147, R151, R239). -/
def usesOf (s : State) (cx : Ctx) : Instr → Uses
  | .add d a b | .sub d a b | .and d a b | .or d a b | .xor d a b | .andn d a b | .sll d a b | .srl d a b | .sra d a b
  | .rol d a b | .min d a b | .max d a b | .minw d a b | .maxw d a b | .mul d a b | .mulhs d a b | .mulhw d a b
  | .div d a b | .divw d a b | .rem d a b | .remw d a b | .bext d a b | .bdep d a b | .seq d a b | .sne d a b
  | .slt d a b | .sge d a b | .sltw d a b | .sgew d a b => regs [a, b] [d]
  | .clz d a | .ctz d a | .popc d a | .mov d a | .sext d a _ | .zext d a _ | .addi d a _ | .andi d a _ | .ori d a _
  | .xori d a _ | .slli d a _ | .srli d a _ | .srai d a _ | .roli d a _ | .mini d a _ | .maxi d a _ | .slti d a _
  | .seqi d a _ | .lih d a _ => regs [a] [d]
  | .li d _ | .li32 d _ => regs [] [d]
  | .lea d m => regs [m.base, m.idx] [d]
  | .sel d c a b => regs [c, a, b] [d]
  | .beq a _ b _ _ | .bne a _ b _ _ | .blt a _ b _ _ | .bge a _ b _ _ | .bltw a _ b _ _ | .bgew a _ b _ _ => regs [a, b]
  | .bbs a _ _ _ _ | .bbc a _ _ _ _ | .bz a _ _ _ | .bnz a _ _ _ | .jr a | .ret a => regs [a]
  | .jmp _ _ | .qfence | .fence _ _ | .cpost _ _ => {}
  | .jal d _ _ => regs [] [d]
  | .loop r _ _ => regs [r] [r]
  | .vadd vd va vb m _ _ | .vsub vd va vb m _ _ | .vmul vd va vb m _ _ | .vmin vd va vb m _ | .vmax vd va vb m _
  | .vadds vd va vb m _ | .vsubs vd va vb m _ | .vand vd va vb m _ | .vor vd va vb m _ | .vxor vd va vb m _
  | .vandn vd va vb m _ | .vsll vd va vb m _ | .vsrl vd va vb m _ | .vsra vd va vb m _ | .vsel vd va vb m _
  | .vperm vd va vb m _ | .vdiv vd va vb m _ _ => { src := [m], vsrc := [va, vb], vdst := [vd] }
  | .vabs vd va m _ | .vneg vd va m _ | .vmov vd va m _ | .vcompress vd va m _ | .vexpand vd va m _
  | .vscan vd va m _ _ _ | .vsqrt vd va m _ _ | .vrsq vd va m _ _ | .vrcp vd va m _ _ | .vexp2 vd va m _ _
  | .vlog2 vd va m _ _ | .vcvt vd va m _ _ _ _ _ => { src := [m], vsrc := [va], vdst := [vd] }
  | .vfma vd va vb vc m _ _ | .vfms vd va vb vc m _ _ => { src := [m], vsrc := [va, vb, vc], vdst := [vd] }
  | .vcmpeq d va vb m _ | .vcmpne d va vb m _ | .vcmplt d va vb m _ | .vcmple d va vb m _ | .vcmpgt d va vb m _
  | .vcmpge d va vb m _ | .vcmpun d va vb m _ => { src := [m], vsrc := [va, vb], dst := [d] }
  | .vbcast vd xs m _ | .vins vd xs m _ => { src := [xs, m], vdst := [vd] }
  | .vextr d va m _ | .vredsum d va m _ _ | .vredmax d va m _ | .vredmin d va m _ | .vamax d va m _ =>
    { src := [m], vsrc := [va], dst := [d] }
  | .vpackmx vd va xs m _ _ _ _ _ | .vunpackmx vd va xs m _ _ _ _ => { src := [xs, m], vsrc := [va], vdst := [vd] }
  | .vnzx qi va qv xb m _ =>
    { src := [xb, m], vsrc := [va]
      named := (portNum qi, some true) :: if qv = Reg.zero then [] else [(portNum qv, some true)] }
  | .load d m _ | .loadSigned d m _ | .lda d m _ _ | .sld d _ m _ _ | .sldRec d _ m _ => regs [m.base, m.idx] [d]
  | .store r m _ | .stl r m _ _ | .sst r m _ _ => regs [r, m.base, m.idx]
  | .ldv v m | .sldv v m _ => { src := [m.base, m.idx], vdst := [v] }
  | .stv v m | .sstv v m _ => { src := [m.base, m.idx], vsrc := [v] }
  | .ldvs v b k m _ => { src := [b, k, m], vdst := [v] }
  | .stvs v b k m _ => { src := [b, k, m], vsrc := [v] }
  | .ldvx v b vi m _ _ => { src := [b, m], vsrc := [vi], vdst := [v] }
  | .stvx v b vi m _ _ => { src := [b, m], vsrc := [v, vi] }
  | .amoadd d a b _ | .amoand d a b _ | .amoor d a b _ | .amoxor d a b _ | .amomin d a b _ | .amomax d a b _
  | .amominw d a b _ | .amomaxw d a b _ | .amoswap d a b _ | .amofadd d a b _ => regs [a, b] [d]
  | .amocas d a b _ => regs [a, b, d] [d]
  | .pref _ m => regs [m.base, m.idx]
  | .get d a p _ _ _ => regs [a, p] [d]
  | .put a v p _ _ _ => regs [a, v, p]
  | .puts a o p _ _ _ => regs [a, o, p]
  | .ramo d op a b p _ => regs (if op = .cas then [a, b, p, d] else [a, b, p]) [d]
  | .amsg t a b c d sc _ =>
    { src := [t, a, b, c, d], operands := [t], invalid := fun x => amsgBad s cx sc (x t) }
  | .copy st a b n p _ _ _ => regs [a, b, n, p] [st]
  | .send st a n d w _ _ _ _ _ => regs [a, n, d, w] [st]
  | .refs st b qi qo ring row _ _ =>
    { src := if row then [b, ring] else [b], dst := [st], named := [(portNum qi, some false), (portNum qo, some true)] }
  | .sread st a b c d _ | .swrite st a b c d _ => regs [a, b, c, d] [st]
  | .fship st a b c res _ _ _ _ => regs [a, b, c] [st, res]
  | .ldc d h c _ | .cprobe d h c => regs [h, c] [d]
  | .stc r h c => regs [r, h, c]
  | .ldcv v h c => { src := [h, c], vdst := [v] }
  | .stcv v h c => { src := [h, c], vsrc := [v] }
  | .ctrim h c => ctrimUses cx h c
  | .tcfg a _ => { src := [a], illegal := tileIllegal cx, sync := .tile, operands := [a], invalid := fun x => !tcfgValid (x a) }
  | .tamax a _ | .trowh a _ => { src := [a], illegal := tileIllegal cx, sync := .tile }
  | .tzero _ => { illegal := tileIllegal cx, sync := .tile }
  | .tresume | .tabort =>
    { illegal := !isDense cx.core || cx.st.kind == .porter || cx.st.kind == .handler, privileged := true, sync := .tile }
  | .tmma _ a b k _ _ | .tmmas _ a b k _ _ _ =>
    { src := [a, b], sync := .tile
      illegal := tileIllegal cx || !mmaValid (tsetWord (s.core cx.core).tile k.toNat 0) false }
  | .tmmax _ a b sa sb k _ _ _ =>
    { src := [a, b, sa, sb], sync := .tile
      illegal := tileIllegal cx || !mmaValid (tsetWord (s.core cx.core).tile k.toNat 0) true }
  | .tlacc _ a b _ _ _ | .tsacc _ a b _ _ _ => { src := [a, b], illegal := tileIllegal cx, sync := .tile }
  | .tdrain _ a b _ _ _ kind _ _ =>
    { src := if kind = 2 then [] else [a, b], named := if kind = 2 then [(portNum a, some true)] else []
      illegal := tileIllegal cx, sync := .tile }
  | .tdrainHandler _ a b c k _ =>
    { src := [a, b, c], sync := .tile
      illegal := tileIllegal cx || tsetWord (s.core cx.core).tile k.toNat 2 == 0
        || !(stageOf s cx.core cx.st.stage).any fun g => 1 ≤ g.reserve }
  | .rowout a m _ _ _ kind _ =>
    { src := if kind = 2 then [m] else [a, m], vsrc := [0, 1, 2, 3]
      named := if kind = 2 then [(portNum a, some true)] else []
      illegal := cx.st.kind != .handler || !isDense cx.core, sync := .tile }
  | .mcfg a _ => { src := [a], illegal := mergeIllegal cx }
  | .mrun a port _ _ =>
    { src := if port then [] else [a], named := if port then [(portNum a, some true)] else []
      illegal := mergeIllegal cx }
  | .mstat d => { dst := [d], illegal := mergeIllegal cx }
  | .mstop => { illegal := mergeIllegal cx }
  | .qtok _ k r => { src := [r], named := [(k.toNat, some true)] }
  | .qtry d f q | .qpeek d f q => { dst := [d, f], named := [(portNum q, some false)] }
  | .qlen d q => { dst := [d], named := [(portNum q, none)] }
  | .qtvec q r => { src := [r], named := [(portNum q, some false)] }
  | .waitc c k => { blocking := true, sync := .counter c.toNat k.toNat }
  | .cread d _ _ => regs [] [d]
  | .wait _ _ cp tl => { blocking := true, sync := .wait tl.toNat cp.toNat }
  | .await a t _ => { src := [a, t], blocking := true }
  | .bar => { illegal := cx.st.kind == .triggered, blocking := true }
  | .parkC _ t | .parkT t => { src := [t], blocking := true, sync := .all }
  | .parkA a t _ => { src := [a, t], blocking := true, sync := .all }
  | .parkQ k => { named := [(k.toNat, some false)], blocking := true, sync := .all }
  | .yield => { blocking := true }
  | .exit => { sync := .all }
  | .sprio _ => { illegal := cx.st.kind == .porter || cx.st.kind == .supervisor }
  | .launch d p => regs [p] [d]
  | .slice d j k what _ => { src := [j], dst := [d], illegal := k.toNat > 7 || what == 3 }
  | .warm w a b => watchUses s cx [w, a, b] [] w
  | .wdisarm w => watchUses s cx [w] [] w
  | .wstat d w => watchUses s cx [w] [d] w
  | .wack => { illegal := cx.st.kind != .triggered }
  | .csrr d n => { dst := [d], illegal := !csrAssigned cx.core n.toNat, privileged := !csrUserReads n.toNat }
  | .csrw n r =>
    { src := [r], illegal := csrWriteIllegal cx n.toNat false, privileged := !csrUserWrites n.toNat }
  | .csrset n r | .csrclr n r =>
    { src := [r], illegal := csrWriteIllegal cx n.toNat true, privileged := !csrUserWrites n.toNat }
  | .tlbw a b => { src := [a, b], privileged := true, operands := [a, b], invalid := fun x => tlbwIllegal (x a) (x b) }
  | .tlbi a b => { src := [a, b], privileged := true, operands := [a, b], invalid := fun x => (tlbiNames (x a) (x b)).isNone }
  | .clbi a b => { src := [a, b], privileged := true }
  | .ctxsave a b | .ctxrest a b => contextUses s cx a b
  | .migr d a b => { src := [a, b], dst := [d], privileged := true }
  | .ecall _ | .ebreak _ => { illegal := cx.st.kind == .supervisor }
  | .eret => { privileged := true }
  | .repart a =>
    { src := [a], illegal := isScrivener cx.core, privileged := true, operands := [a], invalid := fun x => decide (1 < (x a).toNat) }
  | _ => {}

/-- The core of the strand that issues can take a trap: SVEC passes R37, and the supervisor strand handles no trap of its own
(R386). -/
def CanTrap (s : State) (cx : Ctx) : Prop :=
  svecGood s cx.core = true ∧ (cx.st.kind = .supervisor → bit (s.core cx.core).ecause 11 = false)

/-- The state after a trap taken before an instruction (R380, R381, R383): of the strand only what it waited for has changed,
and the supervisor is entered with EPC at the instruction. -/
def Trapped (s : State) (cx : Ctx) (c : Cause) (detail : Nat) (value : Word) (t : State) : Prop :=
  Entered (s.setStrand cx.core cx.slot { cx.st with wait := none, declines := [], staying := false, resumed := false }) cx.core
    (ecauseWord 0 detail (cx.st.kind == .supervisor) false c) value cx.st.pc (estrandWord cx.st cx.slot) t

/-- Whether an instruction names a register that it must not: one that the strand's shape does not have, or an e register as a
destination (R25, R26). -/
def NamesAbsent (s : State) (cx : Ctx) (u : Uses) : Prop :=
  (wideShape (s.core cx.core) cx.st = false ∧ (∃ n : Fin 48, 24 ≤ n.val ∧ Reg.x n ∈ u.src ++ u.dst)) ∨
  (wideShape (s.core cx.core) cx.st = false ∧ (∃ v : VReg, 16 ≤ v.val ∧ v ∈ u.vsrc ++ u.vdst)) ∨
  (∃ n, Reg.e n ∈ u.dst)

/-- No reason for ILLEGAL lies in an instruction (R59, R60): none in its registers or in what it is; the registers on whose
values an ILLEGAL depends are owed by no load, and their values are legal. -/
def Lawful (s : State) (cx : Ctx) (u : Uses) : Prop :=
  isIllegal s cx u = false ∧ (∀ n ∈ operandNums u, n ∉ cx.st.owed) ∧
    (operandsKnown s cx u = true → u.invalid (readReg s cx) = false)

/-- Whether a port that an instruction names is not bound to the end that it needs (R52). -/
def Unbound (st : Strand) (u : Uses) (k : Nat) : Prop :=
  (k ∈ sourcePorts u ∧ isConsumer st k = false) ∨ (k ∈ destPorts u ∧ isProducer st k = false) ∨
  ((k, some true) ∈ u.named ∧ isProducer st k = false) ∨ ((k, some false) ∈ u.named ∧ isConsumer st k = false) ∨
  ((k, none) ∈ u.named ∧ portOf st k = none)

/-- The state in which the strand in a slot of a core issues next, its line not yet read. -/
def atCursor (s : State) (core slot : Nat) : State :=
  { s with cursor := { s.cursor with core := core, slot := slot, header := 0, stalled := false } }

/-- The head that a program counter names in a line (R35). -/
def headOfPc (pc : Word) : Nat := pc.toNat % 64 / 2

end Sys2Proof.Claims
end

