-- ==== Sys2Proof/Certificates/Slice0/Obligations.lean ====
section
/-! DEFINITION. The statements for the provers, each with the words it is stated in. -/

open Sys2Proof Sys2Proof.Machine

open Sys2Proof.Claims

/-- At reset no strand, launch, partition, image, queue or translation exists, the package is unbooted and its
mailbox, host queues and events are idle; every core holds 0 in ECAUSE, EVALUE, EPC, ESTRAND, SVEC, RLOCKSEL, WSEL and
VHANDLE and is neither frozen nor wide. That every memory byte reads 0 and that the supervisor strand's registers are
0 is the model's choice (log 2, log 3). (R375, R358, R380, R385, R255, R364) -/
def Obligations.ResetValues : Prop :=
  State.reset.strands = [] ∧ State.reset.launches = [] ∧ State.reset.parts = [] ∧ State.reset.loaded = [] ∧
  State.reset.queues = [] ∧ State.reset.regions = [] ∧ State.reset.pkg.boot = 0 ∧ State.reset.pkg.id = 0 ∧
  State.reset.pkg.peermap = [] ∧ State.reset.pkg.events = [] ∧ State.reset.pkg.routines = [] ∧
  State.reset.host.busy = false ∧ State.reset.host.queues = [] ∧ State.reset.host.intMbox = false ∧
  State.reset.host.intEvent = false ∧
  (∀ c, (State.reset.core c).ecause = 0 ∧ (State.reset.core c).evalue = 0 ∧ (State.reset.core c).epc = 0 ∧
    (State.reset.core c).estrand = 0 ∧ (State.reset.core c).svec = 0 ∧ (State.reset.core c).rlocksel = 0 ∧
    (State.reset.core c).wsel = 0 ∧ (State.reset.core c).vhandle = 0 ∧ (State.reset.core c).frozen = false ∧
    (State.reset.core c).wide = false ∧ (State.reset.core c).tlb = [] ∧ (State.reset.core c).lid = none) ∧
  (∀ k, State.reset.byteAt k = 0) ∧
  (∀ c, ∃ st, State.reset.strand c supervisorSlot = some st ∧ st.kind = .supervisor ∧ ∀ n, st.x n = 0 ∧ st.v n = 0)

/-- At reset device and host memory are in canonical form, no strand lists a value for x0, and every parked strand
whose wake condition holds is noted. (R4, R23, R284) -/
def Obligations.ResetInvariants : Prop :=
  State.reset.memWf = true ∧ State.reset.zeroWf = true ∧ State.reset.wakesNoted

/-- From every state whose device and host memory are in canonical form (addresses strictly rising, no byte listed
that equals what an unlisted address reads as), a step that answers a next state leaves both in canonical form,
whichever of the instructions, events and host actions the step is. The form is the model's (log 2). It leaves x0
without a listed value as well: from every state in which no strand lists a value for x0, a step that answers a next
state leaves none that does. (R4, R190, R23) -/
def Obligations.StepKeepsMemoryCanonical : Prop :=
  (∀ s t, s.memWf = true → step s = .next t → t.memWf = true) ∧
  (∀ s t, s.zeroWf = true → step s = .next t → t.zeroWf = true)

/-- After every step, each parked strand whose wake condition holds is in the list of woken strands, from which
restoring takes the oldest. (R284) -/
def Obligations.StepNotesWakes : Prop :=
  ∀ s t, step s = .next t → t.wakesNoted

/-- For every well-formed instruction of the Gherad set, with every operand at every value that its encoding admits,
the decoder reads the head and tail that the encoder writes as that instruction. (R38, R39, R41, R42, R43, R45, R58) -/
def Obligations.DecodeOfEncode : Prop :=
  ∀ i h t, wellFormed i = true → encode i = some (h, t) → decode h t = .ok i

/-- A head and tail that the decoder accepts give a well-formed instruction whose encoding is that head and that tail,
as far as the tail length of the head goes; so no reserved bit may be set and no two instructions share an encoding.
(R39, R40, R45, R58, R59) -/
def Obligations.EncodeOfDecode : Prop :=
  ∀ h t i, decode h t = .ok i → t.toNat < 2 ^ (16 * tailLen h) → wellFormed i = true ∧ encode i = some (h, t)

/-- Heads and tails written from the manual's encodings decode to the instructions they stand for: nop, fence.die.rel,
qfence, qtok, yield, ebreak 3, eret, csrr x9 of wp3, csrw of fstat from x7, tmmas, vnzx and slice; a head of major
0x7F and an all-zero head are refused. (R40, R67, R128, R137, R229, R300, R303, R311, R315, R358, R388) -/
def Obligations.DecodeWords : Prop :=
  decode 0x0080 0x0000 = .ok (.add (.x 0) (.x 0) (.x 0)) ∧
  decode 0x9030 0x0000 = .ok (.fence .die .rel) ∧
  decode 0xDA80 0x0004 = .ok .qfence ∧
  decode 0xE880 0x0000 = .ok .yield ∧
  decode 0xF603 0x0000 = .ok (.ebreak 3) ∧
  decode 0xF800 0x0000 = .ok .eret ∧
  decode 0xF112 0x00000023 = .ok (.csrr (.x 9) 0x023) ∧
  decode 0xF100 0x1C400001 = .ok (.csrw 0x001 (.x 7)) ∧
  decode 0xDA80 0x2470 = .ok (.qtok 1 1 (.x 7)) ∧
  decode 0xC586 0x28B000280C03 = .ok (.tmmas 3 (.x 10) (.x 11) 1 true 3 (some 2)) ∧
  decode 0x51E0 0x71180800000 = .ok (.vnzx (.q 0) 1 (.q 1) (.x 6) (.x 0) .f16) ∧
  decode 0xEB0C 0x1C200404 = .ok (.slice (.x 6) (.x 7) 2 2 false) ∧
  decode 0xFE00 0 = .error .unassigned ∧
  decode 0x0000 0 = .error .tailLength

/-- When a slot holds a strand that may issue, its program counter names a head of a well-formed line and that head
with its tail decodes to i, the slot's issue is exec of i at that state, with the line's header noted and the line's
translation in the core's L1 TLB. A turn of a core whose supervisor takes no held event first starts what waited while
the core was pre-empted; then it issues so for the first of its slots in the order of its arbiter; when that slot's
instruction was not ready, the next slot has the turn; else the bookkeeping of an issue follows. A step is such a turn
of the core at the cursor, or of the core that the agenda names, and advances clk; with an empty agenda the cursor
then moves on, and the rest of the package goes on beside a core of which no strand was ready. An event at the head of
the agenda is run likewise. The agenda and the cursor are the model's (log 4). (R32, R33, R35, R99, R279, R280, R334,
R401) -/
def Obligations.StepRunsDecoded : Prop :=
  (∀ s core slot cx bytes i, core < coreCount → current (atCursor s core slot) = some cx →
    codeLine (atCursor s core slot) (partyOf cx.core cx.st) cx.st.pc = .ok bytes → malformed bytes = false →
    cx.st.pc.toNat % 2 = 0 → 1 ≤ headOfPc cx.st.pc → headOfPc cx.st.pc ≤ headCount (halfAt bytes 0) →
    decode (halfAt bytes (headOfPc cx.st.pc)) (tailOf bytes (headOfPc cx.st.pc)) = .ok i →
    let u := fetched (atCursor s core slot) cx (halfAt bytes 0)
    issueAt s core slot = exec i u ∧
    (∀ r rest, prepare (if (r.core core).resuming && !(r.core core).frozen then startHeld r core else r) core = s →
      candidates s core = slot :: rest →
      (r.core core).supRunning = true ∨ (r.core core).halted = true ∨ nextHeld r core = none →
      let turn := match exec i u with
        | .next t => if t.cursor.stalled then issueFirst core rest t
                     else .next (noteIssue (levelAt s core slot) t core slot)
        | o => o
      (r.agenda = [] → r.cursor.others = false → r.cursor.core = core → step r = onNext tick (onNext afterTurn turn)) ∧
      (∀ q acts, q.agenda = .arbiter core :: acts → r = { q with agenda := acts } → step q = onNext tick turn))) ∧
  (∀ s i rest, s.agenda = .event i :: rest → encode i = none → step s = onNext tick (exec i { s with agenda := rest }))

/-- A strand that issues traps LINE_MALFORMED with the line's address when the line at its program counter breaks a
rule of the line format; else TARGET_BAD when the program counter is no head of the line; else ILLEGAL with head and
tail when they do not decode. Of the machine only the exception registers, the core's freeze and the supervisor
strand's program counter change. (R34, R37, R40, R45, R59, R60, R381) -/
def Obligations.FetchTraps : Prop :=
  ∀ s core slot cx bytes, core < coreCount → current (atCursor s core slot) = some cx → CanTrap (atCursor s core slot) cx →
    codeLine (atCursor s core slot) (partyOf cx.core cx.st) cx.st.pc = .ok bytes →
    ∃ t, (malformed bytes = true →
        issueAt s core slot = .next t ∧ Trapped (atCursor s core slot) cx .lineMalformed 0 (lineOf cx.st.pc) t) ∧
      (malformed bytes = false →
        (cx.st.pc.toNat % 2 = 1 ∨ headOfPc cx.st.pc = 0 ∨ headCount (halfAt bytes 0) < headOfPc cx.st.pc) →
        issueAt s core slot = .next t ∧ Trapped (atCursor s core slot) cx .targetBad 0 cx.st.pc t) ∧
      (∀ e, malformed bytes = false → cx.st.pc.toNat % 2 = 0 → 1 ≤ headOfPc cx.st.pc →
        headOfPc cx.st.pc ≤ headCount (halfAt bytes 0) →
        decode (halfAt bytes (headOfPc cx.st.pc)) (tailOf bytes (headOfPc cx.st.pc)) = .error e →
        issueAt s core slot = .next t ∧ Trapped (atCursor s core slot) cx .illegal 0
          (tailOf bytes (headOfPc cx.st.pc) ++ halfAt bytes (headOfPc cx.st.pc)) t)

/-- Every instruction of the Gherad set that names an x or v register which the shape of its strand does not have, or
an e register as a destination, traps ILLEGAL with its head and tail in EVALUE; nothing of it takes effect. (R25, R26,
R59) -/
def Obligations.AbsentRegistersTrap : Prop :=
  ∀ i s cx, (encode i).isSome = true → current s = some cx → CanTrap s cx → NamesAbsent s cx (usesOf s cx i) →
    ∃ t, exec i s = .next t ∧ Trapped s cx .illegal 0 (headTail i) t

/-- An instruction that needs the supervisor level (majors 0x79, 0x7C, 0x7D, TRESUME, TABORT, and the CSR instructions
of a register that user strands may not use so) traps PRIVILEGE when a user strand issues it and it is legal there;
EVALUE holds its head and tail and nothing of it takes effect. Every instruction of the majors 0x79, 0x7C and 0x7D
needs that level; whether one of major 0x78 does depends on the number of its system register. (R61) -/
def Obligations.PrivilegedTraps : Prop :=
  (∀ i h tail s cx, encode i = some (h, tail) → h.toNat / 512 ∈ [0x79, 0x7C, 0x7D] → (usesOf s cx i).privileged = true) ∧
  ∀ i s cx, (encode i).isSome = true → current s = some cx → CanTrap s cx → cx.st.kind ≠ .supervisor →
    Lawful s cx (usesOf s cx i) → (usesOf s cx i).privileged = true →
    ∃ t, exec i s = .next t ∧ Trapped s cx .privilege 0 (headTail i) t

/-- In a row handler or a porter strand, every legal instruction that blocks (WAIT, WAITC, AWAIT, BAR, PARK, YIELD) or
that names a source port traps HANDLER_BLOCKED with its head and tail in EVALUE. (R60, R147, R237, R378) -/
def Obligations.BlockingTraps : Prop :=
  ∀ i s cx, (encode i).isSome = true → current s = some cx → CanTrap s cx → cx.st.kind = .handler ∨ cx.st.kind = .porter →
    Lawful s cx (usesOf s cx i) → (usesOf s cx i).privileged = false →
    (usesOf s cx i).blocking = true ∨ sourcePorts (usesOf s cx i) ≠ [] →
    ∃ t, exec i s = .next t ∧ Trapped s cx .handlerBlocked 0 (headTail i) t

/-- Every legal instruction that names a port as a source which is not bound as a consumer end, or as a destination
which is not bound as a producer end, or by its own rule (vnzx, refs, qtok, qtry, qpeek, qlen, qtvec, park.q, and
mrun, tdrain and rowout to a port) a port that is not bound to the end it needs, traps QUEUE_UNBOUND with the number
of such a port in EVALUE. (R52, R60, R299, R326) -/
def Obligations.UnboundPortsTrap : Prop :=
  ∀ i s cx, (encode i).isSome = true → current s = some cx → CanTrap s cx →
    Lawful s cx (usesOf s cx i) → ((usesOf s cx i).privileged = true → cx.st.kind = .supervisor) →
    (isBlockedKind cx.st = true → (usesOf s cx i).blocking = false ∧ sourcePorts (usesOf s cx i) = []) →
    (∃ k, Unbound cx.st (usesOf s cx i) k) →
    ∃ t k, Unbound cx.st (usesOf s cx i) k ∧ exec i s = .next t ∧ Trapped s cx .queueUnbound 0 (BitVec.ofNat 64 k) t

/-- When every source port of an instruction holds an element and the lowest port whose head is a token has a target
that is a head address, that token alone is popped, e5 records its payload, port and tag, the program counter becomes
the target, the strand waits for no room at a port any more, and nothing else of the strand or the package changes: no
destination, flag, SRCNT or other port. That the diversion comes before the check of a poisoned source register is the
model's choice (log 35). (R28, R53, R55) -/
def Obligations.TokenDiverts : Prop :=
  ∀ i s cx k e p, (encode i).isSome = true → Checked s cx (usesOf s cx i) →
    k ∈ sourcePorts (usesOf s cx i) → headOf s cx.st k = some e → e.tag ≠ 0 →
    (∀ j ∈ sourcePorts (usesOf s cx i), j < k → ∀ f, headOf s cx.st j = some f → f.tag = 0) →
    portOf cx.st k = some p → p.target ≠ 0 → checkHead s (partyOf cx.core cx.st) p.target = .good →
    exec i s = .next (stopWaiting ((popPort s cx.st k).1.setStrand cx.core cx.slot { (popPort s cx.st k).2 with
      e5 := put ((e.data.getD 0).toNat % 2 ^ 32) 32 ||| put k 3 ||| put e.tag 0, pc := p.target
      wait := none, declines := [], staying := false }) cx.st.gen)

/-- When the token that would divert comes through a port without a token target, the strand traps TOKEN_NO_TARGET
with the port number in EVALUE; when the target is no head address, it traps TARGET_BAD. No queue changes and e5
stays. That a target in a declined page is no head address is the model's choice (log 77). (R36, R37, R55, R56) -/
def Obligations.TokenWithoutTarget : Prop :=
  ∀ i s cx k e p, (encode i).isSome = true → Checked s cx (usesOf s cx i) → CanTrap s cx →
    k ∈ sourcePorts (usesOf s cx i) → headOf s cx.st k = some e → e.tag ≠ 0 →
    (∀ j ∈ sourcePorts (usesOf s cx i), j < k → ∀ f, headOf s cx.st j = some f → f.tag = 0) →
    portOf cx.st k = some p →
    ∃ t, (p.target = 0 → exec i s = .next t ∧ Trapped s cx .tokenNoTarget 0 (BitVec.ofNat 64 k) t) ∧
      (p.target ≠ 0 → checkHead s (partyOf cx.core cx.st) p.target = .bad →
        exec i s = .next t ∧ Trapped s cx .targetBad 0 p.target t)

/-- When no source head is a token, no register that the instruction writes is owed, its destination port is free, and
a register that the instruction reads is poisoned, the strand traps MEM_UNCORRECTABLE before the instruction, with the
source in ECAUSE.detail and the value recorded with the poison of one such register in EVALUE. That the trap waits for
the destinations is the model's choice (log 75). (R99, R382) -/
def Obligations.PoisonedReadTraps : Prop :=
  ∀ i s cx n p, (encode i).isSome = true → Checked s cx (usesOf s cx i) → CanTrap s cx →
    (∀ k ∈ sourcePorts (usesOf s cx i), ∀ e, headOf s cx.st k = some e → e.tag = 0) →
    (∀ m ∈ writeNums (usesOf s cx i), m ∉ cx.st.owed) →
    ((usesOf s cx i).vsrc ≠ [] ∨ (usesOf s cx i).vdst ≠ [] → unitsOff s cx.core = false) →
    (∀ k ∈ destPorts (usesOf s cx i) ++ (usesOf s cx i).named.map (·.1), portHeld s cx k = false) →
    n ∈ readNums (usesOf s cx i) → cx.st.poison.find n = some p →
    ∃ t m q, m ∈ readNums (usesOf s cx i) ∧ cx.st.poison.find m = some q ∧
      exec i s = .next t ∧ Trapped s cx .memUncorrectable q.1 q.2 t

/-- A supervisor strand that meets a trap while ECAUSE.nest is 1 (here: an instruction that names an absent register)
double-traps: the core halts, the launch that holds it stops running with code ABANDONED, and event 2 with the core's
coordinates is raised when the event queue has room. (R264, R366, R386) -/
def Obligations.DoubleTrap : Prop :=
  ∀ i s cx, (encode i).isSome = true → current s = some cx → cx.st.kind = .supervisor →
    bit (s.core cx.core).ecause 11 = true → NamesAbsent s cx (usesOf s cx i) →
    ∃ t, exec i s = .next t ∧ (t.core cx.core).halted = true ∧ (t.core cx.core).frozen = true ∧
      (t.core cx.core).supRunning = false ∧ (t.core cx.core).ecause = (s.core cx.core).ecause ∧
      (∀ l ∈ t.launches, partOf s cx.core = some l.part → (s.core cx.core).lid = some l.lid → l.phase ≠ .running) ∧
      (∀ l ∈ s.launches, partOf s cx.core = some l.part → (s.core cx.core).lid = some l.lid → l.phase = .running →
        { l with phase := .ending, code := 10 } ∈ t.launches) ∧
      (s.pkg.events.length < 256 → ∃ w, t.pkg.events = s.pkg.events ++ [⟨2, w, put (e2Of cx.core) 0⟩]) ∧
      t.mem = s.mem

namespace Sys2Proof.Claims

/-- A condition as 1 or 0. -/
def oneIf (b : Bool) : Word := if b then 1 else 0

/-- The number of one bits of a mask below a position. -/
def rank (m : Word) (k : Nat) : Nat := ((List.range k).filter m.getLsbD).length

/-- The destination and the result of the arithmetic of majors 0x00 to 0x02 (R102 to R104), as a function of its sources. -/
def arithmetic : Instr → Option (Reg × ((Reg → Word) → Word))
  | .add d a b => some (d, fun x => x a + x b)
  | .sub d a b => some (d, fun x => x a - x b)
  | .and d a b => some (d, fun x => x a &&& x b)
  | .or d a b => some (d, fun x => x a ||| x b)
  | .xor d a b => some (d, fun x => x a ^^^ x b)
  | .andn d a b => some (d, fun x => x a &&& ~~~x b)
  | .sll d a b => some (d, fun x => x a <<< ((x b).extractLsb' 0 6).toNat)
  | .srl d a b => some (d, fun x => x a >>> ((x b).extractLsb' 0 6).toNat)
  | .sra d a b => some (d, fun x => (x a).sshiftRight ((x b).extractLsb' 0 6).toNat)
  | .rol d a b => some (d, fun x => (x a).rotateLeft ((x b).extractLsb' 0 6).toNat)
  | .min d a b => some (d, fun x => if (x b).slt (x a) then x b else x a)
  | .max d a b => some (d, fun x => if (x a).slt (x b) then x b else x a)
  | .minw d a b => some (d, fun x => if x b < x a then x b else x a)
  | .maxw d a b => some (d, fun x => if x a < x b then x b else x a)
  | .mul d a b => some (d, fun x => ((x a).setWidth 128 * (x b).setWidth 128).extractLsb' 0 64)
  | .mulhs d a b => some (d, fun x => ((x a).signExtend 128 * (x b).signExtend 128).extractLsb' 64 64)
  | .mulhw d a b => some (d, fun x => ((x a).setWidth 128 * (x b).setWidth 128).extractLsb' 64 64)
  | .div d a b => some (d, fun x => if x b = 0 then BitVec.allOnes 64 else (x a).sdiv (x b))
  | .rem d a b => some (d, fun x => if x b = 0 then x a else (x a).srem (x b))
  | .divw d a b => some (d, fun x => if x b = 0 then BitVec.allOnes 64 else x a / x b)
  | .remw d a b => some (d, fun x => if x b = 0 then x a else x a % x b)
  | .clz d a => some (d, fun x => BitVec.ofNat 64 (if x a = 0 then 64 else 63 - (x a).toNat.log2))
  | .ctz d a => some (d, fun x => BitVec.ofNat 64 ((List.range 64).findIdx (x a).getLsbD))
  | .popc d a => some (d, fun x => BitVec.ofNat 64 (rank (x a) 64))
  | .mov d a => some (d, fun x => x a)
  | .sext d a n => some (d, fun x => ((x a).setWidth (n.toNat + 1)).signExtend 64)
  | .zext d a n => some (d, fun x => ((x a).setWidth (n.toNat + 1)).setWidth 64)
  | _ => none

/-- The destination and the result of a comparison (R105). -/
def comparison : Instr → Option (Reg × ((Reg → Word) → Word))
  | .seq d a b => some (d, fun x => oneIf (decide (x a = x b)))
  | .sne d a b => some (d, fun x => oneIf (decide (x a ≠ x b)))
  | .slt d a b => some (d, fun x => oneIf (decide ((x a).toInt < (x b).toInt)))
  | .sge d a b => some (d, fun x => oneIf (decide ((x b).toInt ≤ (x a).toInt)))
  | .sltw d a b => some (d, fun x => oneIf (decide ((x a).toNat < (x b).toNat)))
  | .sgew d a b => some (d, fun x => oneIf (decide ((x b).toNat ≤ (x a).toNat)))
  | _ => none

/-- The destination and the result of an immediate or address instruction (R46, R106 to R108). -/
def immediate : Instr → Option (Reg × ((Reg → Word) → Word))
  | .addi d a k => some (d, fun x => x a + k.signExtend 64)
  | .andi d a k => some (d, fun x => x a &&& k.signExtend 64)
  | .ori d a k => some (d, fun x => x a ||| k.signExtend 64)
  | .xori d a k => some (d, fun x => x a ^^^ k.signExtend 64)
  | .slli d a k => some (d, fun x => x a <<< k.toNat)
  | .srli d a k => some (d, fun x => x a >>> k.toNat)
  | .srai d a k => some (d, fun x => (x a).sshiftRight k.toNat)
  | .roli d a k => some (d, fun x => (x a).rotateLeft k.toNat)
  | .mini d a k => some (d, fun x => if k.toInt < (x a).toInt then k.signExtend 64 else x a)
  | .maxi d a k => some (d, fun x => if (x a).toInt < k.toInt then k.signExtend 64 else x a)
  | .slti d a k => some (d, fun x => oneIf (decide ((x a).toInt < k.toInt)))
  | .seqi d a k => some (d, fun x => oneIf (decide (x a = k.signExtend 64)))
  | .li d k => some (d, fun _ => k.signExtend 64)
  | .li32 d k => some (d, fun _ => k.signExtend 64)
  | .lih d a k => some (d, fun x => (k.setWidth 64 <<< 32) ||| ((x a).setWidth 32).setWidth 64)
  | .lea d m => some (d, fun x =>
      x m.base + (if m.idx = .x 0 then 0 else x m.idx * BitVec.ofNat 64 (2 ^ m.sc.toNat)) + m.off.signExtend 64)
  | .sel d c a b => some (d, fun x => if x c ≠ 0 then x a else x b)
  | _ => none

/-- The destination and the result of an instruction that computes one scalar. -/
def scalarResult (i : Instr) : Option (Reg × ((Reg → Word) → Word)) :=
  arithmetic i <|> comparison i <|> immediate i

/-- An instruction writes the value of `f` to `d`, pops its source ports, and does nothing else (R54, R57). -/
def Writes (s : State) (cx : Ctx) (i : Instr) (d : Reg) (value : Word) (pc : Word) : Prop :=
  Completes i s cx (usesOf s cx i) { s := s, st := cx.st, xs := [(d, value)] } pc

/-- A head and tail trap ILLEGAL wherever a strand that may issue meets them in a well-formed line. -/
def TrapsWhenMet (h : Half) (tail : BitVec 48) : Prop :=
  ∀ s core slot cx bytes, core < coreCount → current (atCursor s core slot) = some cx → CanTrap (atCursor s core slot) cx →
    codeLine (atCursor s core slot) (partyOf cx.core cx.st) cx.st.pc = .ok bytes → malformed bytes = false →
    cx.st.pc.toNat % 2 = 0 → 1 ≤ headOfPc cx.st.pc → headOfPc cx.st.pc ≤ headCount (halfAt bytes 0) →
    halfAt bytes (headOfPc cx.st.pc) = h → tailOf bytes (headOfPc cx.st.pc) = tail →
    ∃ t, issueAt s core slot = .next t ∧ Trapped (atCursor s core slot) cx .illegal 0 (tail ++ h) t

/-- The six-bit specifier of a register (R25). -/
def specifier : Reg → Nat
  | .x n => n.val
  | .q k => 48 + k.val
  | .e n => 56 + n.val

/-- An F1 head of a major with the tail of two registers and a minor (R39, R41). -/
def formF1 (base : Nat) (a rs1 rs2 minor : Nat) : Option (Half × BitVec 48) :=
  some (BitVec.ofNat 16 (base + 2 * a), BitVec.ofNat 48 (1024 * rs1 + 16 * rs2 + minor))

end Sys2Proof.Claims

/-- Every instruction of majors 0x00, 0x01 and 0x02 that is ready retires with exactly one result: the sum,
difference, logical value, shift, rotation, lesser or greater, low or high half of the product, quotient, remainder,
bit count, gathered or scattered bits, copy or extension of its sources. Division by zero gives all ones and the
dividend, the most negative quotient wraps, and only bits [5:0] of a shift amount count. Bit j of bext is the bit of a
at the one position of rank j; bit i of bdep is bit rank(i) of a where the mask is one. No other register, flag,
queue, memory byte or field of the machine changes. (R102, R103, R104, R54, R57) -/
def Obligations.ArithmeticResults : Prop :=
  (∀ i d f s cx pc, arithmetic i = some (d, f) → Ready s cx (usesOf s cx i) → pc = successor s.cursor.header cx.st.pc →
    Writes s cx i d (f (readReg s cx)) pc) ∧
  (∀ d a b s cx pc, Ready s cx (usesOf s cx (.bext d a b)) → pc = successor s.cursor.header cx.st.pc →
    ∃ r : Word, Writes s cx (.bext d a b) d r pc ∧
      (∀ k < 64, (readReg s cx b).getLsbD k = true → r.getLsbD (rank (readReg s cx b) k) = (readReg s cx a).getLsbD k) ∧
      (∀ j, rank (readReg s cx b) 64 ≤ j → r.getLsbD j = false)) ∧
  (∀ d a b s cx pc, Ready s cx (usesOf s cx (.bdep d a b)) → pc = successor s.cursor.header cx.st.pc →
    ∃ r : Word, Writes s cx (.bdep d a b) d r pc ∧
      ∀ k < 64, r.getLsbD k = ((readReg s cx b).getLsbD k && (readReg s cx a).getLsbD (rank (readReg s cx b) k)))

/-- seq, sne, slt, sge, sltw and sgew are major 0x03 minors 0 to 5 with head 0x0680 OR d << 1; each that is ready
retires with 1 in its destination when its condition holds and 0 when it does not, and changes nothing else. A head of
major 0x03 with a minor from 6 to 15 traps ILLEGAL. (R105) -/
def Obligations.CompareResults : Prop :=
  (∀ i d f s cx pc, comparison i = some (d, f) → Ready s cx (usesOf s cx i) → pc = successor s.cursor.header cx.st.pc →
    Writes s cx i d (f (readReg s cx)) pc) ∧
  (∀ d a b,
    encode (.seq d a b) = formF1 0x0680 (specifier d) (specifier a) (specifier b) 0 ∧
    encode (.sne d a b) = formF1 0x0680 (specifier d) (specifier a) (specifier b) 1 ∧
    encode (.slt d a b) = formF1 0x0680 (specifier d) (specifier a) (specifier b) 2 ∧
    encode (.sge d a b) = formF1 0x0680 (specifier d) (specifier a) (specifier b) 3 ∧
    encode (.sltw d a b) = formF1 0x0680 (specifier d) (specifier a) (specifier b) 4 ∧
    encode (.sgew d a b) = formF1 0x0680 (specifier d) (specifier a) (specifier b) 5) ∧
  (∀ d a b minor, d < 64 → a < 64 → b < 64 → 6 ≤ minor → minor < 16 →
    TrapsWhenMet (BitVec.ofNat 16 (0x0680 + 2 * d)) (BitVec.ofNat 48 (1024 * a + 16 * b + minor)))

/-- addi to seqi, li in both forms, lih, lea and sel that are ready retire with one result, computed from the
sign-extended immediate, the effective address of R46, or the choice of R109 (which reads, and so pops, all three
sources); lea touches no memory. Nothing else changes. (R106, R107, R108, R109, R46) -/
def Obligations.ImmediateResults : Prop :=
  ∀ i d f s cx pc, immediate i = some (d, f) → Ready s cx (usesOf s cx i) → pc = successor s.cursor.header cx.st.pc →
    Writes s cx i d (f (readReg s cx)) pc

/-- A user strand at ecall n retires it and traps ECALL with n in EVALUE; at ebreak n it retires and traps EBREAK with
n in ECAUSE.detail and its head address in EVALUE. EPC is the sequential successor of R36 in both, also at the last
head of a line whose stop bit is set. When a scalar computation is the last head of such a line, it retires with its
result as ever and the strand then traps FALLOFF: EVALUE holds the line address and EPC line + 66. Of the strand only
what a retirement changes has changed. The same FALLOFF follows every instruction that retires without a taken target
as the last head of such a line: wherever a statement says that an instruction completes, the state after it is the
retired state, or the state in which that trap has then been taken. (R361, R388, R35, R36, R54) -/
def Obligations.RetireThenTrap : Prop :=
  (∀ n s cx, cx.st.kind ≠ .supervisor → svecGood s cx.core = true →
    (Ready s cx (usesOf s cx (.ecall n)) →
      ∃ t0 t e, Retired cx (usesOf s cx (.ecall n)) { s := s, st := cx.st } (successor s.cursor.header cx.st.pc) t0 ∧
        exec (.ecall n) s = .next t ∧
        Entered t0 cx.core (ecauseWord 0 0 false false .ecall) (n.setWidth 64) (successor s.cursor.header cx.st.pc) e t) ∧
    (Ready s cx (usesOf s cx (.ebreak n)) →
      ∃ t0 t e, Retired cx (usesOf s cx (.ebreak n)) { s := s, st := cx.st } (successor s.cursor.header cx.st.pc) t0 ∧
        exec (.ebreak n) s = .next t ∧
        Entered t0 cx.core (ecauseWord 0 n.toNat false false .ebreak) cx.st.pc (successor s.cursor.header cx.st.pc) e t)) ∧
  (∀ i d f s cx, scalarResult i = some (d, f) → Ready s cx (usesOf s cx i) → CanTrap s cx →
    nextPc s.cursor.header cx.st.pc = none →
    ∃ t0 t e, Retired cx (usesOf s cx i) { s := s, st := cx.st, xs := [(d, f (readReg s cx))] } (lineOf cx.st.pc + 66) t0 ∧
      exec i s = .next t ∧
      Entered t0 cx.core (ecauseWord 0 0 (cx.st.kind == .supervisor) false .falloff) (lineOf cx.st.pc) (lineOf cx.st.pc + 66) e t) ∧
  (∀ s cx u d pc t0 t, Retired cx u d pc t0 → Followed s cx d t0 t →
    (d.jump ≠ none ∨ nextPc s.cursor.header cx.st.pc ≠ none → t = t0) ∧
    (d.jump = none → nextPc s.cursor.header cx.st.pc = none → svecGood t0 cx.core = true →
      (d.st.kind = .supervisor → bit (t0.core cx.core).ecause 11 = false) →
      ∃ e, Entered t0 cx.core (ecauseWord 0 0 (d.st.kind == .supervisor) false .falloff) (lineOf cx.st.pc)
        (lineOf cx.st.pc + 66) e t))

namespace Sys2Proof.Claims

/-- The branches of R110: the condition, the line offset and the head index of the target. -/
def branchOf : Instr → Option (((Reg → Word) → Bool) × BitVec 21 × BitVec 5)
  | .beq a _ b off h => some (fun x => decide (x a = x b), off, h)
  | .bne a _ b off h => some (fun x => decide (x a ≠ x b), off, h)
  | .blt a _ b off h => some (fun x => decide ((x a).toInt < (x b).toInt), off, h)
  | .bge a _ b off h => some (fun x => decide ((x b).toInt ≤ (x a).toInt), off, h)
  | .bltw a _ b off h => some (fun x => decide ((x a).toNat < (x b).toNat), off, h)
  | .bgew a _ b off h => some (fun x => decide ((x b).toNat ≤ (x a).toNat), off, h)
  | .bbs a _ n off h => some (fun x => (x a).getLsbD n.toNat, off, h)
  | .bbc a _ n off h => some (fun x => !(x a).getLsbD n.toNat, off, h)
  | .bz a _ off h => some (fun x => decide (x a = 0), off, h)
  | .bnz a _ off h => some (fun x => decide (x a ≠ 0), off, h)
  | _ => none

/-- The line `off` lines from the line of the strand's program counter (R36). -/
def targetLine (cx : Ctx) {n : Nat} (off : BitVec n) : Word := lineOf cx.st.pc + off.signExtend 64 * 64

/-- The target of R36 stands: its line lies in the strand's own code object, can be fetched, is well formed and has the head. -/
def GoodTarget (s : State) (cx : Ctx) (line : Word) (h : BitVec 5) : Prop :=
  oidOf line = oidOf cx.st.pc ∧
    ∃ bytes, codeLine s (partyOf cx.core cx.st) line = .ok bytes ∧ malformed bytes = false ∧ 1 ≤ h.toNat ∧
      h.toNat ≤ headCount (halfAt bytes 0)

/-- An instruction traps before it has any effect. -/
def TrapsAt (i : Instr) (s : State) (cx : Ctx) (c : Cause) (value : Word) : Prop :=
  ∃ t, exec i s = .next t ∧ Trapped s cx c 0 value t

/-- The trap by which a target line fails that cannot be read (R36): TARGET_BAD for head index 0, else the given cause; EVALUE
is the address of the target head (log 32). -/
def TargetFails (i : Instr) (s : State) (cx : Ctx) (line : Word) (h : BitVec 5) (c : Cause) : Prop :=
  TrapsAt i s cx (if h = 0 then .targetBad else c) (line + BitVec.ofNat 64 (2 * h.toNat))

/-- What a transfer to a line-relative target does by its target (R36, R115): `good` holds when the target stands, and when its
line has an uncorrectable error, which the fetch of the target then meets; otherwise the instruction traps with no effect of its
own. A line under another object id lies outside the code object (log 76). -/
def TargetRule (i : Instr) (s : State) (cx : Ctx) (line : Word) (h : BitVec 5) (good : Prop) : Prop :=
  (GoodTarget s cx line h → good) ∧
  (oidOf line = oidOf cx.st.pc → h ≠ 0 → codeLine s (partyOf cx.core cx.st) line = .error .poisoned → good) ∧
  (CanTrap s cx →
    (oidOf line ≠ oidOf cx.st.pc → TargetFails i s cx line h .objBounds) ∧
    (oidOf line = oidOf cx.st.pc →
      (∀ bytes, codeLine s (partyOf cx.core cx.st) line = .ok bytes →
        (malformed bytes = true → TrapsAt i s cx .lineMalformed line) ∧
        (malformed bytes = false → h = 0 ∨ headCount (halfAt bytes 0) < h.toNat →
          TrapsAt i s cx .targetBad (line + BitVec.ofNat 64 (2 * h.toNat)))) ∧
      (codeLine s (partyOf cx.core cx.st) line = .error .bounds → TargetFails i s cx line h .objBounds) ∧
      (codeLine s (partyOf cx.core cx.st) line = .error .permission → TargetFails i s cx line h .objPermission) ∧
      (codeLine s (partyOf cx.core cx.st) line = .error .absent → TargetFails i s cx line h .objAbsent) ∧
      (codeLine s (partyOf cx.core cx.st) line = .error .poisoned → h = 0 →
        TrapsAt i s cx .targetBad (line + BitVec.ofNat 64 (2 * h.toNat)))))

end Sys2Proof.Claims

/-- A branch of R110 that is ready and whose condition is false retires, checks nothing of its target and goes on at
the next head. When its condition holds it goes to head h of the line off lines away, when that line has the same
object id, is well formed and has that head. It traps LINE_MALFORMED with the line's address when the line breaks R34;
TARGET_BAD with target line + 2h in EVALUE when there is no such head, head index 0 first; OBJ_BOUNDS when the line
lies outside the code object, as every line under another object id does, OBJ_PERMISSION when it lacks execute right,
and OBJ_ABSENT when its page is absent. A branch that traps has no effect. No register is written, and the taken hint
changes nothing. EVALUE of the object causes, other object ids, and a line with an uncorrectable error being left to
the fetch are the model's choices (logs 32, 76, 34). (R36, R60, R110, R111, R115, R336) -/
def Obligations.BranchResults : Prop :=
  ∀ i f off h s cx, branchOf i = some (f, off, h) → Ready s cx (usesOf s cx i) →
    (f (readReg s cx) = false → ∀ pc, pc = successor s.cursor.header cx.st.pc →
      Completes i s cx (usesOf s cx i) { s := s, st := cx.st } pc) ∧
    (f (readReg s cx) = true → TargetRule i s cx (targetLine cx off) h
      (Completes i s cx (usesOf s cx i)
        { s := s, st := cx.st, jump := some (targetLine cx off + BitVec.ofNat 64 (2 * h.toNat)) }
        (targetLine cx off + BitVec.ofNat 64 (2 * h.toNat))))

/-- jmp always goes to the target of R36; jal goes there and writes the sequential successor of its own head to its
link register, whatever the stop bit says; a target that does not stand traps and nothing is written. jr and ret set
the program counter to their source when it is a head address by R37; they trap TARGET_BAD with the value in EVALUE
when it is not (also when its page has been declined, log 77), and LINE_MALFORMED with the line's address when that
line breaks R34 (log 55); the two are identical. loop writes its counter less 1 and goes to its target unless the new
counter is 0: a counter of 1 falls through, a counter of 0 wraps and is taken, and loop x0 is always taken; a loop
whose A field names a port or an e register is refused and traps ILLEGAL. Line-relative targets are as for the
branches, with the same choices of the model (logs 32, 76, 34). (R34, R36, R37, R112, R113, R114, R115) -/
def Obligations.JumpsAndLoops : Prop :=
  (∀ off h s cx, Ready s cx (usesOf s cx (.jmp off h)) → TargetRule (.jmp off h) s cx (targetLine cx off) h
    (Completes (.jmp off h) s cx (usesOf s cx (.jmp off h))
      { s := s, st := cx.st, jump := some (targetLine cx off + BitVec.ofNat 64 (2 * h.toNat)) }
      (targetLine cx off + BitVec.ofNat 64 (2 * h.toNat)))) ∧
  (∀ d off h s cx, Ready s cx (usesOf s cx (.jal d off h)) → TargetRule (.jal d off h) s cx (targetLine cx off) h
    (Completes (.jal d off h) s cx (usesOf s cx (.jal d off h))
      { s := s, st := cx.st, jump := some (targetLine cx off + BitVec.ofNat 64 (2 * h.toNat)),
        xs := [(d, if headOfPc cx.st.pc < headCount s.cursor.header then cx.st.pc + 2 else lineOf cx.st.pc + 66)] }
      (targetLine cx off + BitVec.ofNat 64 (2 * h.toNat)))) ∧
  (∀ i a s cx, i = .jr a ∨ i = .ret a → Ready s cx (usesOf s cx i) →
    (checkHead s (partyOf cx.core cx.st) (readReg s cx a) = .good →
      Completes i s cx (usesOf s cx i) { s := s, st := cx.st, jump := some (readReg s cx a) } (readReg s cx a)) ∧
    (CanTrap s cx →
      (checkHead s (partyOf cx.core cx.st) (readReg s cx a) = .bad → TrapsAt i s cx .targetBad (readReg s cx a)) ∧
      (∀ line holds, checkHead s (partyOf cx.core cx.st) (readReg s cx a) = .malformed line holds →
        line = lineOf (readReg s cx a) ∧ TrapsAt i s cx .lineMalformed line))) ∧
  (∀ r off h s cx, Ready s cx (usesOf s cx (.loop r off h)) →
    (readReg s cx r = 1 → ∀ pc, pc = successor s.cursor.header cx.st.pc → Writes s cx (.loop r off h) r 0 pc) ∧
    (readReg s cx r ≠ 1 → TargetRule (.loop r off h) s cx (targetLine cx off) h
      (Completes (.loop r off h) s cx (usesOf s cx (.loop r off h))
        { s := s, st := cx.st, jump := some (targetLine cx off + BitVec.ofNat 64 (2 * h.toNat)), xs := [(r, readReg s cx r - 1)] }
        (targetLine cx off + BitVec.ofNat 64 (2 * h.toNat))))) ∧
  (∀ a tail, 48 ≤ a → a < 64 → TrapsWhenMet (BitVec.ofNat 16 (0x3B00 + 2 * a)) tail)

namespace Sys2Proof.Claims

/-- What an instruction does to the lanes of its destination: the register, the lane width, what its lanes hold where nothing is
written, which lanes are written, each written lane's bits and flags, and the rounding mode in force. -/
structure LaneRow where
  vd : VReg
  width : Nat
  old : VWord
  act : Nat → Bool
  f : Nat → Nat × Nat
  mode : Rnd := .rne

/-- A row over the lanes of a type under a mask (R29, R101, R116). -/
def masked (v : Vals) (vd : VReg) (m : Reg) (t : ElemTy) (f : Nat → Nat × Nat) (mode : Rnd := .rne) : LaneRow :=
  { vd := vd, width := widthOf t, old := v.cx.st.v vd.val, act := fun k => decide (m = .x 0) || (v.x m).getLsbD k, f := f, mode := mode }

/-- An integer clamped to the range of a type (R69). -/
def clampTo (t : ElemTy) (x : Int) : Nat :=
  let h : Nat := if isSignedTy t then 2 ^ (widthOf t - 1) - 1 else 2 ^ widthOf t - 1
  let l : Int := if isSignedTy t then -(2 ^ (widthOf t - 1) : Nat) else 0
  ((if x < l then l else if (h : Int) < x then h else x) % (2 ^ widthOf t : Nat)).toNat

/-- A floating lane operation by its exact value, or an integer one by its bits (R77, R78, R118). -/
def byKind (t : ElemTy) (mode : Rnd) (draw : Nat) (int : Nat) (float : FVal × Bool) : Nat × Nat :=
  if isFloat t then finish t float mode draw else (int, 0)

/-- The lane instructions of R118, R119, R121 and R124: integers by their bits, floating values by their exact value and its
rounding (R92 for those of R124; vexp2 and vlog2 by log 8). -/
def laneRow (v : Vals) : Instr → Option LaneRow
  | .vadd vd va vb m t rm =>
    let md := resolveRnd v.cx.st rm
    let a := lane (widthOf t) (v.v va); let b := lane (widthOf t) (v.v vb)
    some (masked v vd m t (fun k => byKind t md (draw v md k) (a k + b k) (addVal (fval t (a k)) (fval t (b k)) md)) md)
  | .vsub vd va vb m t rm =>
    let md := resolveRnd v.cx.st rm
    let a := lane (widthOf t) (v.v va); let b := lane (widthOf t) (v.v vb)
    some (masked v vd m t (fun k => byKind t md (draw v md k) (a k + (2 ^ widthOf t - b k))
      (addVal (fval t (a k)) (fval t (b k)).neg md)) md)
  | .vmul vd va vb m t rm =>
    let md := resolveRnd v.cx.st rm
    let a := lane (widthOf t) (v.v va); let b := lane (widthOf t) (v.v vb)
    some (masked v vd m t (fun k => byKind t md (draw v md k) (a k * b k) (mulVal (fval t (a k)) (fval t (b k)))) md)
  | .vfma vd va vb vc m t rm =>
    let md := resolveRnd v.cx.st rm
    let a := fun k => fval t (lane (widthOf t) (v.v va) k); let b := fun k => fval t (lane (widthOf t) (v.v vb) k)
    let c := fun k => fval t (lane (widthOf t) (v.v vc) k)
    some (masked v vd m t (fun k => finish t (fmaVal (a k) (b k) (c k) md) md (draw v md k)) md)
  | .vfms vd va vb vc m t rm =>
    let md := resolveRnd v.cx.st rm
    let a := fun k => fval t (lane (widthOf t) (v.v va) k); let b := fun k => fval t (lane (widthOf t) (v.v vb) k)
    let c := fun k => fval t (lane (widthOf t) (v.v vc) k)
    some (masked v vd m t (fun k => finish t (fmaVal (a k) (b k) (c k).neg md) md (draw v md k)) md)
  | .vmin vd va vb m t =>
    let a := lane (widthOf t) (v.v va); let b := lane (widthOf t) (v.v vb)
    some (masked v vd m t fun k =>
      if isFloat t then fminmax t false (a k) (b k) else (if ival t (a k) < ival t (b k) then a k else b k, 0))
  | .vmax vd va vb m t =>
    let a := lane (widthOf t) (v.v va); let b := lane (widthOf t) (v.v vb)
    some (masked v vd m t fun k =>
      if isFloat t then fminmax t true (a k) (b k) else (if ival t (b k) < ival t (a k) then a k else b k, 0))
  | .vadds vd va vb m t =>
    let a := lane (widthOf t) (v.v va); let b := lane (widthOf t) (v.v vb)
    some (masked v vd m t fun k => (clampTo t (ival t (a k) + ival t (b k)), 0))
  | .vsubs vd va vb m t =>
    let a := lane (widthOf t) (v.v va); let b := lane (widthOf t) (v.v vb)
    some (masked v vd m t fun k => (clampTo t (ival t (a k) - ival t (b k)), 0))
  | .vabs vd va m t =>
    let a := lane (widthOf t) (v.v va)
    some (masked v vd m t fun k =>
      if isFloat t then
        if (fval t (a k)).isNan then ((fmtOf t).nan, flagIf (fval t (a k)).signals flagNv) else (a k % 2 ^ (widthOf t - 1), 0)
      else (if ival t (a k) < 0 then 2 ^ widthOf t - a k else a k, 0))
  | .vneg vd va m t =>
    let a := lane (widthOf t) (v.v va)
    some (masked v vd m t fun k =>
      if isFloat t then
        if (fval t (a k)).isNan then ((fmtOf t).nan, flagIf (fval t (a k)).signals flagNv)
        else ((a k + 2 ^ (widthOf t - 1)) % 2 ^ widthOf t, 0)
      else (2 ^ widthOf t - a k, 0))
  | .vand vd va vb m t =>
    let a := lane (widthOf t) (v.v va); let b := lane (widthOf t) (v.v vb)
    some (masked v vd m t fun k => (a k &&& b k, 0))
  | .vor vd va vb m t =>
    let a := lane (widthOf t) (v.v va); let b := lane (widthOf t) (v.v vb)
    some (masked v vd m t fun k => (a k ||| b k, 0))
  | .vxor vd va vb m t =>
    let a := lane (widthOf t) (v.v va); let b := lane (widthOf t) (v.v vb)
    some (masked v vd m t fun k => (a k ^^^ b k, 0))
  | .vandn vd va vb m t =>
    let a := lane (widthOf t) (v.v va); let b := lane (widthOf t) (v.v vb)
    some (masked v vd m t fun k => (a k &&& (2 ^ widthOf t - 1 - b k), 0))
  | .vsll vd va vb m t =>
    let a := lane (widthOf t) (v.v va); let b := lane (widthOf t) (v.v vb)
    some (masked v vd m t fun k => (a k <<< (b k % widthOf t), 0))
  | .vsrl vd va vb m t =>
    let a := lane (widthOf t) (v.v va); let b := lane (widthOf t) (v.v vb)
    some (masked v vd m t fun k => (a k >>> (b k % widthOf t), 0))
  | .vsra vd va vb m t =>
    let a := lane (widthOf t) (v.v va); let b := lane (widthOf t) (v.v vb)
    some (masked v vd m t fun k =>
      (if a k < 2 ^ (widthOf t - 1) then a k >>> (b k % widthOf t)
        else 2 ^ widthOf t - 1 - ((2 ^ widthOf t - 1 - a k) >>> (b k % widthOf t)), 0))
  | .vsel vd va vb m t => some { masked v vd m t (fun k => (lane (widthOf t) (v.v va) k, 0)) with old := v.v vb }
  | .vmov vd va m t => some (masked v vd m t fun k => (lane (widthOf t) (v.v va) k, 0))
  | .vbcast vd xs m t => some (masked v vd m t fun _ => ((v.x xs).toNat, 0))
  | .vins vd xs xi t =>
    some { masked v vd (.x 0) t (fun _ => ((v.x xs).toNat, 0)) with act := fun k => k == (v.x xi).toNat % (512 / widthOf t) }
  | .vperm vd va vb m t =>
    some (masked v vd m t fun k => (lane (widthOf t) (v.v va) (lane (widthOf t) (v.v vb) k % (512 / widthOf t)), 0))
  | .vcompress vd va m t =>
    let hits := (List.range (512 / widthOf t)).filter (masked v vd m t fun _ => (0, 0)).act
    some (masked v vd (.x 0) t fun k => ((hits[k]?.map (lane (widthOf t) (v.v va))).getD 0, 0))
  | .vexpand vd va m t =>
    let row := masked v vd m t fun _ => (0, 0)
    some { row with f := fun k => (lane (widthOf t) (v.v va) (((List.range k).filter row.act).length), 0) }
  | .vdiv vd va vb m t rm =>
    let md := resolveRnd v.cx.st rm
    some (masked v vd m t (fun k => roundFn t
      (divVal (fval t (lane (widthOf t) (v.v va) k)) (fval t (lane (widthOf t) (v.v vb) k))) md (draw v md k)) md)
  | .vsqrt vd va m t rm =>
    let md := resolveRnd v.cx.st rm
    some (masked v vd m t (fun k => roundFn t (sqrtVal (fval t (lane (widthOf t) (v.v va) k))) md (draw v md k)) md)
  | .vrsq vd va m t rm =>
    let md := resolveRnd v.cx.st rm
    some (masked v vd m t (fun k => roundFn t (rsqVal (fval t (lane (widthOf t) (v.v va) k))) md (draw v md k)) md)
  | .vrcp vd va m t rm =>
    let md := resolveRnd v.cx.st rm
    some (masked v vd m t (fun k => roundFn t (rcpVal (fval t (lane (widthOf t) (v.v va) k))) md (draw v md k)) md)
  | .vexp2 vd va m t rm =>
    let md := resolveRnd v.cx.st rm
    some (masked v vd m t (fun k => roundFn t (exp2Val (fval t (lane (widthOf t) (v.v va) k))) md (draw v md k)) md)
  | .vlog2 vd va m t rm =>
    let md := resolveRnd v.cx.st rm
    some (masked v vd m t (fun k => roundFn t (log2Val (fval t (lane (widthOf t) (v.v va) k))) md (draw v md k)) md)
  | _ => none

/-- A conversion of one part (R125): element j of the cnt elements comes from source element j, offset by the part when the
source is the wider list, and goes to destination element j, offset when the destination is. -/
def partRow (v : Vals) (vd va : VReg) (m : Reg) (t from_ : ElemTy) (part : Nat) (md : Rnd) (f : Nat → Nat → Nat × Nat) : LaneRow :=
  let n := 512 / widthOf t
  let n0 := 512 / widthOf from_
  { masked v vd m t (fun k => if n0 < n then f k (lane (widthOf from_) (v.v va) (k - part * n0))
        else f k (lane (widthOf from_) (v.v va) (k + if n < n0 then part * n else 0))) md with
    act := fun k => if n0 < n then decide (part * n0 ≤ k) && decide (k < part * n0 + n0) && (masked v vd m t fun _ => (0, 0)).act (k - part * n0)
      else (masked v vd m t fun _ => (0, 0)).act k }

/-- The conversions of R125 to R127. -/
def conversionRow (v : Vals) : Instr → Option LaneRow
  | .vcvt vd va m t rm from_ part sat =>
    let md := resolveRnd v.cx.st rm
    some (partRow v vd va m t from_ part.toNat md fun k a => convert from_ t a md sat (draw v md k))
  | .vpackmx vd va xs m t rm from_ part sat =>
    let md := resolveRnd v.cx.st rm
    let e := ((v.x xs).setWidth 8).toNat
    some (partRow v vd va m t from_ part.toNat md fun k a =>
      if e = 255 then if t = .e2m1 then (0, 16) else ((fmtOf t).nan, 0)
      else roundTo t ((fval from_ a).scale (127 - e)) md sat (draw v md k))
  | .vunpackmx vd va xs m t rm from_ part =>
    let md := resolveRnd v.cx.st rm
    let e := ((v.x xs).setWidth 8).toNat
    some (partRow v vd va m t from_ part.toNat md fun k a =>
      if e = 255 then ((fmtOf t).nan, 0) else roundTo t ((fval from_ a).scale (e - 127)) md false (draw v md k))
  | _ => none

/-- An instruction writes the lanes of a row and raises the union of the flags of the lanes that it writes; SRCNT rises by 1 when
its mode is sto (R85, R90, R116). Lanes that it does not write keep their bits. -/
def WritesLanes (s : State) (cx : Ctx) (i : Instr) (r : LaneRow) (pc : Word) : Prop :=
  ∃ (w : VWord) (fl : Word),
    (∀ k < 512 / r.width, lane r.width w k = if r.act k then (r.f k).1 % 2 ^ r.width else lane r.width r.old k) ∧
    (∀ j < 64, fl.getLsbD j = (List.range (512 / r.width)).any fun k => r.act k && (r.f k).2.testBit j) ∧
    Completes i s cx (usesOf s cx i)
      { s := s, st := cx.st, vs := [(r.vd, w)], flags := fl, sto := decide (r.mode = .sto) } pc

/-- Whether a pair of lanes meets the condition of a comparison, and whether it raises nv (R120). -/
def compareHolds (i : Instr) (t : ElemTy) (a b : Nat) : Bool :=
  let un := isFloat t && ((fval t a).isNan || (fval t b).isNan)
  let c := if isFloat t then cmpVal (fval t a) (fval t b) else ival t a - ival t b
  match i with
  | .vcmpeq .. => !un && decide (c = 0)
  | .vcmpne .. => un || decide (c ≠ 0)
  | .vcmplt .. => !un && decide (c < 0)
  | .vcmple .. => !un && decide (c ≤ 0)
  | .vcmpgt .. => !un && decide (0 < c)
  | .vcmpge .. => !un && decide (0 ≤ c)
  | _ => un

/-- The operands of a vector comparison. -/
def comparesLanes : Instr → Option (Reg × VReg × VReg × Reg × ElemTy)
  | .vcmpeq d a b m t | .vcmpne d a b m t | .vcmplt d a b m t | .vcmple d a b m t | .vcmpgt d a b m t | .vcmpge d a b m t
  | .vcmpun d a b m t => some (d, a, b, m, t)
  | _ => none

/-- The reductions of R122 as they apply R95: destination, source, mask, type, mode, the identity of masked-off lanes, the
element that a lane contributes, the node operation with its element index, and the extension of the result. -/
def reduction (v : Vals) : Instr → Option (Reg × VReg × Reg × ElemTy × Rnd × Nat × (Nat → Nat) × (Nat → Nat → Nat → Nat × Nat) × (Nat → Word))
  | .vredsum d va m t rm =>
    let md := resolveRnd v.cx.st rm
    some (d, va, m, t, md, if isFloat t then 2 ^ (widthOf t - 1) else 0, id,
      fun k a b => byKind t md (draw v md k) ((a + b) % 2 ^ widthOf t) (addVal (fval t a) (fval t b) md),
      fun r => if isSignedTy t then BitVec.ofInt 64 (ival t r) else BitVec.ofNat 64 (r % 2 ^ widthOf t))
  | .vredmax d va m t =>
    some (d, va, m, t, .rne, maxIdentity t, id,
      fun _ a b => if isFloat t then fminmax t true a b else (if ival t a < ival t b then b else a, 0),
      fun r => if isSignedTy t then BitVec.ofInt 64 (ival t r) else BitVec.ofNat 64 (r % 2 ^ widthOf t))
  | .vredmin d va m t =>
    some (d, va, m, t, .rne, minIdentity t, id,
      fun _ a b => if isFloat t then fminmax t false a b else (if ival t b < ival t a then b else a, 0),
      fun r => if isSignedTy t then BitVec.ofInt 64 (ival t r) else BitVec.ofNat 64 (r % 2 ^ widthOf t))
  | .vamax d va m t =>
    some (d, va, m, t, .rne, 0, fun a => if isFloat t then a % 2 ^ (widthOf t - 1) else (ival t a).natAbs,
      fun _ a b => if isFloat t then fminmax t true a b else (if a < b then b else a, 0),
      fun r => BitVec.ofNat 64 (r % 2 ^ widthOf t))
  | _ => none

/-- The values of a level of the tree of R95: node k of level l + 1 combines nodes 2k and 2k + 1 of level l with element index
64 l + k. -/
def level (op : Nat → Nat → Nat → Nat × Nat) (leaf : Nat → Nat) : Nat → Nat → Nat
  | 0, k => leaf k
  | l + 1, k => (op (64 * l + k) (level op leaf l (2 * k)) (level op leaf l (2 * k + 1))).1

/-- Whether some node of the tree over 2 ^ n leaves raises flag bit j. -/
def levelFlag (op : Nat → Nat → Nat → Nat × Nat) (leaf : Nat → Nat) (n j : Nat) : Bool :=
  (List.range n).any fun l => (List.range (2 ^ (n - 1 - l))).any fun k =>
    (op (64 * l + k) (level op leaf l (2 * k)) (level op leaf l (2 * k + 1))).2.testBit j

end Sys2Proof.Claims

/-- A lane instruction of R118, R119, R121 or R124 that is ready retires with its vector destination written: each
active lane holds the bits of its result (integers wrapping or clamped, moves as bit patterns, floating results
rounded in the mode in force: once, and twice in the f16 and bf16 forms of R124, first to f32 by rne), each inactive
lane its old bits (vsel: the lane of vb); FSTAT gains the union of the active lanes' flags, and SRCNT rises by 1
exactly when the mode in force is sto. No other register, queue or memory byte changes. How the inexact values of
vexp2 and vlog2 are rounded is the model's choice (log 8). (R116, R118, R119, R121, R124, R85, R90, R92) -/
def Obligations.VectorLanes : Prop :=
  ∀ i s cx r pc, wellFormed i = true → Ready s cx (usesOf s cx i) → laneRow (operandsOf s cx) i = some r →
    pc = successor s.cursor.header cx.st.pc → WritesLanes s cx i r pc

/-- vcvt, vpackmx and vunpackmx that are ready convert the active elements of their part as R125 places them and keep
every other destination element; the scale of the MX forms is 2 to the power E - 127, and E = 0xFF gives the canonical
NaN of the destination without a flag, or +0 and nv for e2m1. Flags, SRCNT and frame are those of every lane
instruction. (R125, R126, R127, R76) -/
def Obligations.VectorConversions : Prop :=
  ∀ i s cx r pc, wellFormed i = true → Ready s cx (usesOf s cx i) → conversionRow (operandsOf s cx) i = some r →
    pc = successor s.cursor.header cx.st.pc → WritesLanes s cx i r pc

/-- vscan that is ready writes to each active lane k the running sum, maximum or minimum of lanes 0 to k, in ascending
order, where an inactive lane contributes the identity of R95; inactive lanes keep their bits. A floating add rounds
each step in the mode in force with element index k. FSTAT gains exactly the union of the flags of the steps. Only the
destination, FSTAT and SRCNT change. That lane 0 starts the scan as it is, also where it holds a NaN, and that a step
raises its flags also at an inactive lane, is the model's reading (log 68). (R90, R96, R123) -/
def Obligations.VectorScan : Prop :=
  ∀ vd va m t rm op s cx pc, wellFormed (.vscan vd va m t rm op) = true → Ready s cx (usesOf s cx (.vscan vd va m t rm op)) →
    pc = successor s.cursor.header cx.st.pc →
    let v := operandsOf s cx
    let md := resolveRnd cx.st rm
    let act := fun k => decide (m = .x 0) || (v.x m).getLsbD k
    let x := fun k => if act k then lane (widthOf t) (v.v va) k
      else if op = 0 then (if isFloat t then 2 ^ (widthOf t - 1) else 0) else if op = 1 then maxIdentity t else minIdentity t
    let step := fun k a b =>
      if op = 0 then byKind t md (draw v md k) ((a + b) % 2 ^ widthOf t) (addVal (fval t a) (fval t b) md)
      else if op = 1 then laneMax t a b else laneMin t a b
    ∃ (run : Nat → Nat) (w : VWord) (fl : Word), run 0 = x 0 ∧
      (∀ k, k + 1 < 512 / widthOf t → run (k + 1) = (step (k + 1) (run k) (x (k + 1))).1) ∧
      (∀ k < 512 / widthOf t, lane (widthOf t) w k = if act k then run k else lane (widthOf t) (cx.st.v vd.val) k) ∧
      (∀ j < 64, fl.getLsbD j = (List.range (512 / widthOf t - 1)).any fun k => (step (k + 1) (run k) (x (k + 1))).2.testBit j) ∧
      Completes (.vscan vd va m t rm op) s cx (usesOf s cx (.vscan vd va m t rm op))
        { s := s, st := cx.st, vs := [(vd, w)], flags := fl, sto := decide (md = .sto) } pc

/-- A vector comparison that is ready writes a mask: bit k is 1 exactly when k is below the lane count, lane k is
active and the condition holds, where NaN lanes are unordered; nv is raised exactly when an active pair holds a
signalling NaN. vextr writes the lane that its index names, extended by its type. The reductions combine the active
lanes, and identities for the others, by the pairwise tree of R95 and write the extended result; their flags are the
union over the nodes, and SRCNT rises when a sum rounds by sto. (R120, R121, R122, R95, R97) -/
def Obligations.VectorScalars : Prop :=
  (∀ i d a b m t s cx pc, comparesLanes i = some (d, a, b, m, t) → wellFormed i = true → Ready s cx (usesOf s cx i) →
    pc = successor s.cursor.header cx.st.pc →
    let x := fun k => lane (widthOf t) (cx.st.v a.val) k
    let y := fun k => lane (widthOf t) (cx.st.v b.val) k
    let act := fun k => decide (k < 512 / widthOf t) && (decide (m = .x 0) || (readReg s cx m).getLsbD k)
    ∃ r : Word, (∀ k < 64, r.getLsbD k = (act k && compareHolds i t (x k) (y k))) ∧
      Completes i s cx (usesOf s cx i)
        { s := s, st := cx.st, xs := [(d, r)],
          flags := if (((List.range (512 / widthOf t)).any fun k => act k && isFloat t &&
          ((fval t (x k)).signals || (fval t (y k)).signals)) = true) then 16 else 0 } pc) ∧
  (∀ d va xi t s cx pc, Ready s cx (usesOf s cx (.vextr d va xi t)) → pc = successor s.cursor.header cx.st.pc →
    let e := lane (widthOf t) (cx.st.v va.val) ((readReg s cx xi).toNat % (512 / widthOf t))
    Writes s cx (.vextr d va xi t) d (if isSignedTy t then BitVec.ofInt 64 (ival t e) else BitVec.ofNat 64 e) pc) ∧
  (∀ i d va m t md ident pre op ext s cx pc, reduction (operandsOf s cx) i = some (d, va, m, t, md, ident, pre, op, ext) →
    wellFormed i = true → Ready s cx (usesOf s cx i) → pc = successor s.cursor.header cx.st.pc →
    let leaf := fun k => pre (if decide (m = .x 0) || (readReg s cx m).getLsbD k then lane (widthOf t) (cx.st.v va.val) k else ident)
    ∃ fl : Word, (∀ j < 64, fl.getLsbD j = levelFlag op leaf (512 / widthOf t).log2 j) ∧
      Completes i s cx (usesOf s cx i)
        { s := s, st := cx.st, xs := [(d, ext (level op leaf (512 / widthOf t).log2 0))],
          flags := fl, sto := decide (md = .sto) } pc)

/-- vnzx that is ready pushes to its index port base + lane for each active non-zero lane in ascending order, and,
when it names a value port, that lane's bits zero-extended, each as a data element; with no such lane it pushes
nothing and waits for nothing. It needs room for all of them at each port it names, those for cross-die rings together
within the remote-acknowledgement count: otherwise it does not issue, and its strand, registers and every queue's
elements stay. Each element says how many of its own port follow that become visible with it. (R128, R129, R22) -/
def Obligations.VnzxPushes : Prop :=
  ∀ qi va qv xb m t s cx, Ready s cx (usesOf s cx (.vnzx qi va qv xb m t)) →
    let w := widthOf t
    let hits := (List.range (512 / w)).filter fun k => (decide (m = .x 0) || (readReg s cx m).getLsbD k) &&
      (if isFloat t then decide (lane w (cx.st.v va.val) k % 2 ^ (w - 1) ≠ 0) else decide (lane w (cx.st.v va.val) k ≠ 0))
    let ports := portNum qi :: if qv = .x 0 then [] else [portNum qv]
    let far := ports.filter fun k => (portOf cx.st k).any fun p => (s.queue p.queue).any fun q => q.kind == 2
    let room := (∀ k ∈ ports, hasRoom s cx.st k (hits.length * ports.count k) = true) ∧
      (far ≠ [] → cx.st.remote + hits.length * far.length ≤ 4095)
    let left := fun (k : Nat) => hits.length - 1 - hits.idxOf k
    let pushed := (hits.map fun k => (portNum qi, readReg s cx xb + BitVec.ofNat 64 k, left k)) ++
      if qv = .x 0 then [] else hits.map fun k => (portNum qv, BitVec.ofNat 64 (lane w (cx.st.v va.val) k), left k)
    (hits = [] ∨ (fenced s cx.st = false ∧ room) →
      ∀ pc, pc = successor s.cursor.header cx.st.pc →
      let p := pushed.foldl (fun (p : State × Strand) e => pushPort p.1 p.2 e.1 0 (some e.2.1) e.2.2) (s, cx.st)
      Completes (.vnzx qi va qv xb m t) s cx (usesOf s cx (.vnzx qi va qv xb m t))
        { s := p.1, st := { p.2 with qfence := p.2.qfence && hits.isEmpty } } pc) ∧
    (hits ≠ [] → ¬room →
      ∃ t', exec (.vnzx qi va qv xb m t) s = .next t' ∧ t'.cursor.stalled = true ∧ t'.strands = s.strands ∧ t'.mem = s.mem ∧
        ∀ q, (t'.queue q).map (fun e => (e.ring, e.transit, e.held)) = (s.queue q).map (fun e => (e.ring, e.transit, e.held)))

namespace Sys2Proof.Claims

/-- The effective address of a memory operand (R46). -/
def addressOf (x : Reg → Word) (m : MemRef) : Word :=
  x m.base + (if m.idx = .x 0 then 0 else x m.idx * BitVec.ofNat 64 (2 ^ m.sc.toNat)) + m.off.signExtend 64

/-- The scalar loads of R222: destination, address, bytes, whether the value is sign-extended, ordering kind, scope. -/
def loadOf (x : Reg → Word) : Instr → Option (Reg × Word × Nat × Bool × Ord × Scope)
  | .load d m sz => some (d, addressOf x m, 2 ^ sz.toNat, false, .plain, .core)
  | .loadSigned d m sz => some (d, addressOf x m, 2 ^ sz.toNat, true, .plain, .core)
  | .lda d m scope sz => some (d, addressOf x m, 2 ^ sz.toNat, false, .acq, scope)
  | _ => none

/-- The scalar stores of R223 and stv: address, bytes, the number stored, ordering kind, scope. -/
def storeOf (s : State) (cx : Ctx) : Instr → Option (Word × Nat × Nat × Ord × Scope)
  | .store r m sz => some (addressOf (readReg s cx) m, 2 ^ sz.toNat, (readReg s cx r).toNat, .plain, .core)
  | .stl r m scope sz => some (addressOf (readReg s cx) m, 2 ^ sz.toNat, (readReg s cx r).toNat, .rel, scope)
  | .stv v m => some (addressOf (readReg s cx) m, 64, (cx.st.v v.val).toNat, .plain, .core)
  | _ => none

/-- The element loads and stores of R225: the vector register, whether it stores, the type, the mask, and a lane's address. -/
def elementsOf (s : State) (cx : Ctx) : Instr → Option (VReg × Bool × ElemTy × Reg × (Nat → Word))
  | .ldvs v b k m t => some (v, false, t, m, fun j => readReg s cx b + BitVec.ofNat 64 j * readReg s cx k)
  | .stvs v b k m t => some (v, true, t, m, fun j => readReg s cx b + BitVec.ofNat 64 j * readReg s cx k)
  | .ldvx v b vi m t sc =>
    some (v, false, t, m, fun j => readReg s cx b + BitVec.ofNat 64 (lane (widthOf t) (cx.st.v vi.val) j * 2 ^ sc.toNat))
  | .stvx v b vi m t sc =>
    some (v, true, t, m, fun j => readReg s cx b + BitVec.ofNat 64 (lane (widthOf t) (cx.st.v vi.val) j * 2 ^ sc.toNat))
  | _ => none

/-- The lanes of a type that a mask makes active, ascending. -/
def activeOf (s : State) (cx : Ctx) (m : Reg) (t : ElemTy) : List Nat :=
  (List.range (512 / widthOf t)).filter fun k => decide (m = .x 0) || (readReg s cx m).getLsbD k

/-- The scalar accesses whose checks R221 orders: address, bytes, whether it writes, and whether it is an acquire or release. -/
def accessOf (s : State) (cx : Ctx) : Instr → Option (Word × Nat × Bool × Bool)
  | .load _ m sz | .loadSigned _ m sz => some (addressOf (readReg s cx) m, 2 ^ sz.toNat, false, false)
  | .lda _ m _ sz => some (addressOf (readReg s cx) m, 2 ^ sz.toNat, false, true)
  | .store _ m sz => some (addressOf (readReg s cx) m, 2 ^ sz.toNat, true, false)
  | .stl _ m _ sz => some (addressOf (readReg s cx) m, 2 ^ sz.toNat, true, true)
  | .ldv _ m => some (addressOf (readReg s cx) m, 64, false, false)
  | .stv _ m => some (addressOf (readReg s cx) m, 64, true, false)
  | _ => none

/-- The page of one end of an access does not decide its trap: it is declined as absent or not translated, or its translation
reaches the byte and gives the right. -/
def PageLets (s : State) (cx : Ctx) (w : Bool) (a : Word) : Prop :=
  match pageState s (partyOf cx.core cx.st) a with
  | .declined k => k = 1
  | .missing => True
  | .entry e => beyond e a = false ∧ e.kind = 0 ∧ (if w then e.wr else e.rd) = true

/-- The storage position of an offset of a scratchpad allocation under a swizzle mode (R163, R187). -/
def padIn (base size mode o : Nat) : Nat :=
  let w := o % size
  base + (match mode with
    | 0 => w
    | 1 => w ^^^ ((w >>> 7 &&& 7) <<< 4)
    | 2 => w ^^^ ((w >>> 8 &&& 7) <<< 5)
    | _ => w ^^^ ((w >>> 10 &&& 15) <<< 6))

/-- A byte of a strand's scratchpad allocation. -/
def padPlace (st : Strand) (mode o : Nat) : Nat := padIn st.spadBase st.spadSize mode o

/-- The bytes that an access reads, each with its place among the bytes of the value. -/
def readsOf (cells : List Nat) (first : Nat := 0) : List (Nat × Nat) := cells.zipIdx.map fun c => (first + c.2, c.1)

/-- The bytes that an access writes, each with its cell. -/
def writesOf (cells : List Nat) (byte : Nat → Byte) : List (Nat × Byte) := cells.zipIdx.map fun c => (c.1, byte c.2)

/-- The little-endian number in n bytes that a function lists (R4). -/
def little (f : Nat → Byte) : Nat → Nat
  | 0 => 0
  | n + 1 => little f n + (f n).toNat * 256 ^ n

/-- A loaded number as 64 bits, sign- or zero-extended from n bytes. -/
def widened (n : Nat) (sgn : Bool) (x : Nat) : Word :=
  if sgn then (BitVec.ofNat (8 * n) x).signExtend 64 else (BitVec.ofNat (8 * n) x).setWidth 64

/-- The atomics of R227. -/
def atomicOf : Instr → Option (AmoOp × Reg × Reg × Reg × AmoMod)
  | .amoadd d a b md => some (.add, d, a, b, md)
  | .amoand d a b md => some (.and, d, a, b, md)
  | .amoor d a b md => some (.or, d, a, b, md)
  | .amoxor d a b md => some (.xor, d, a, b, md)
  | .amomin d a b md => some (.min, d, a, b, md)
  | .amomax d a b md => some (.max, d, a, b, md)
  | .amominw d a b md => some (.minw, d, a, b, md)
  | .amomaxw d a b md => some (.maxw, d, a, b, md)
  | .amoswap d a b md => some (.swap, d, a, b, md)
  | .amocas d a b md => some (.cas, d, a, b, md)
  | .amofadd d a b md => some (.fadd, d, a, b, md)
  | _ => none

/-- Whether a release at a scope need not wait for an outstanding access (R194). -/
def settled (scope : Scope) (a : Access) : Prop :=
  match a.op with
  | .get _ => a.performed = true
  | .ramo .. => a.performed = true ∧ (scope = .core ∨ scope = .die)
  | .put _ | .amsg .. | .push _ => scope = .core ∨ scope = .die
  | .fship .. => True
  | _ => False

/-- The waits of a release fence at a scope (R189, R194): the strand's accesses, its pushes to the queues of the scope, the source
reads of its COPY, SEND and SWRITE operations, and, beyond the core, its COPY and SEND operations. -/
def releaseWaitsMet (s : State) (cx : Ctx) (scope : Scope) : Prop :=
  (∀ a ∈ cx.st.pend, cx.st.nextSeq ≤ a.seq ∨ settled scope a) ∧
  (∀ q ∈ s.queues, (q.2.kind = 0 ∨ (q.2.kind = 1 ∧ scope ≠ .core) ∨ (q.2.kind = 2 ∧ scope ≠ .core ∧ scope ≠ .die)) →
    pushUnperformed q.2 cx.st.gen cx.st.nextSeq = false) ∧
  (∀ o ∈ (s.core cx.core).ops, o.gen = cx.st.gen → o.seq < cx.st.nextSeq →
    o.readsLeft = false ∧ (scope = .core ∨ ¬(o.kind = .copy ∨ o.kind = .send)))

end Sys2Proof.Claims

/-- A scalar load, ldv or element load that is ready, whose count ld is below 63 and whose bytes pass the checks of
R221 (a plain scalar load needs no alignment, an acquire load natural alignment), retires: ld rises by 1, the access
is outstanding with its cells, address, kind and scope, and its destination is owed (a port reserves an element
without data). No register value, no memory byte and no other field changes; only the L1 TLB may have copied a
translation. An element load accesses exactly the active lanes. (R219, R221, R222, R224, R225, R334) -/
def Obligations.LoadsBegin : Prop :=
  (∀ i d a n sgn ord scope s cx (cells : List Nat) pc, loadOf (readReg s cx) i = some (d, a, n, sgn, ord, scope) →
    Ready s cx (usesOf s cx i) → cx.st.ld < 63 → (ord = .acq → a.toNat % n = 0) →
    accessCells s (partyOf cx.core cx.st) .die false false a n (code := true) = .ok cells → pc = successor s.cursor.header cx.st.pc →
    let r := reserve (touchEnds s cx.core a n) { cx.st with ld := cx.st.ld + 1 } d
    Completes i s cx (usesOf s cx i)
      { s := r.1
        st := r.2.1.begin { noAccess (.load n sgn) with
          addr := a, ord := ord, scope := scope, dest := r.2.2, spans := [(a, n)], reads := readsOf cells } } pc) ∧
  (∀ vd m s cx (cells : List Nat) pc, Ready s cx (usesOf s cx (.ldv vd m)) → cx.st.ld < 63 →
    accessCells s (partyOf cx.core cx.st) .die false false (addressOf (readReg s cx) m) 64 (code := true) = .ok cells →
    pc = successor s.cursor.header cx.st.pc →
    Completes (.ldv vd m) s cx (usesOf s cx (.ldv vd m))
      { s := touchEnds s cx.core (addressOf (readReg s cx) m) 64
        st := { cx.st with ld := cx.st.ld + 1, owed := cx.st.owed ++ [64 + vd.val] }.begin { noAccess (.loadVec 64) with
          addr := addressOf (readReg s cx) m, spans := [(addressOf (readReg s cx) m, 64)], dest := .v vd.val, reads := readsOf cells,
          base := cx.st.v vd.val } } pc) ∧
  (∀ i vd t m addr s cx (cells : Nat → List Nat) pc, elementsOf s cx i = some (vd, false, t, m, addr) →
    Ready s cx (usesOf s cx i) → cx.st.ld < 63 →
    (∀ k ∈ activeOf s cx m t, accessCells s (partyOf cx.core cx.st) .die false true (addr k) (widthOf t / 8) (code := true) = .ok (cells k)) →
    pc = successor s.cursor.header cx.st.pc →
    Completes i s cx (usesOf s cx i)
      { s := touchAll s cx.core (widthOf t / 8) ((activeOf s cx m t).map fun k => (k, addr k))
        st := { cx.st with ld := cx.st.ld + 1, owed := cx.st.owed ++ [64 + vd.val] }.begin { noAccess (.loadVec (widthOf t / 8)) with
          spans := (activeOf s cx m t).map fun k => (addr k, widthOf t / 8),
          addr := (((activeOf s cx m t).head?).map addr).getD 0, dest := .v vd.val, base := cx.st.v vd.val,
          reads := (activeOf s cx m t).flatMap fun k => readsOf (cells k) (widthOf t / 8 * k) } } pc)

/-- A scalar store, stv or element store that is ready, whose count st is below 63 and whose bytes pass the checks of
R221, the range locks among them (a release store also natural alignment), retires: st rises by 1 and the access is
outstanding with exactly the bytes to be stored, the lowest-order byte at the lowest address, lanes in ascending
order. No register, no memory byte and no other field changes until the store is performed; only the L1 TLB may have
copied a translation. (R4, R219, R221, R223, R224, R225) -/
def Obligations.StoresBegin : Prop :=
  (∀ i a n val ord scope s cx (cells : List Nat) pc, storeOf s cx i = some (a, n, val, ord, scope) →
    Ready s cx (usesOf s cx i) → cx.st.st < 63 → (ord = .rel → a.toNat % n = 0) →
    accessCells s (partyOf cx.core cx.st) .die true true a n = .ok cells → pc = successor s.cursor.header cx.st.pc →
    Completes i s cx (usesOf s cx i)
      { s := touchEnds s cx.core a n
        st := { cx.st with st := cx.st.st + 1 }.begin { noAccess (.store n) with
          addr := a, ord := ord, scope := scope, spans := [(a, n)],
          writes := writesOf cells fun j => BitVec.ofNat 8 (val / 256 ^ j) } } pc) ∧
  (∀ i vs t m addr s cx (cells : Nat → List Nat) pc, elementsOf s cx i = some (vs, true, t, m, addr) →
    Ready s cx (usesOf s cx i) → cx.st.st < 63 →
    (∀ k ∈ activeOf s cx m t, accessCells s (partyOf cx.core cx.st) .die true true (addr k) (widthOf t / 8) (code := true) = .ok (cells k)) →
    pc = successor s.cursor.header cx.st.pc →
    Completes i s cx (usesOf s cx i)
      { s := touchAll s cx.core (widthOf t / 8) ((activeOf s cx m t).map fun k => (k, addr k))
        st := { cx.st with st := cx.st.st + 1 }.begin { noAccess (.store (widthOf t / 8)) with
          addr := (((activeOf s cx m t).head?).map addr).getD 0,
          spans := (activeOf s cx m t).map fun k => (addr k, widthOf t / 8),
          writes := (activeOf s cx m t).flatMap fun k => writesOf (cells k) fun j =>
            BitVec.ofNat 8 (lane (widthOf t) (cx.st.v vs.val) k / 256 ^ j) } } pc)

/-- A load or store that is ready traps, with nothing of it done: MISALIGNED for an ordered access off its natural
alignment; OBJ_BOUNDS for object id 0, for an offset past 2^48 (in a volume OBJ_PERMISSION, as its kind is decided
first), for a byte past the limit of its translation, or when the scrivener answered so; OBJ_PERMISSION when its
translation is of a volume or lacks the right, a code object being readable but never writable; OBJ_ABSENT when the
scrivener answered so for the page of either end and no earlier check decides; NONLOCAL, with the address of the first
byte homed off the issuing die; and RANGE_LOCKED for a user store to bytes that an engine operation has registered.
EVALUE is the address otherwise. An untranslated page makes the strand wait for its fill. (R169, R208, R220, R221,
R222, R334, R336) -/
def Obligations.AccessChecks : Prop :=
  ∀ i a n w ordered s cx, accessOf s cx i = some (a, n, w, ordered) → Ready s cx (usesOf s cx i) → CanTrap s cx →
    cx.st.ld < 63 → cx.st.st < 63 →
    (ordered = true → a.toNat % n ≠ 0 → TrapsAt i s cx .misaligned a) ∧
    ((ordered = true → a.toNat % n = 0) →
      (oidOf a = 0 ∨ (oidOf a = 0xFFFF ∧ 2 ^ 48 < offOf a + n) → TrapsAt i s cx .objBounds a) ∧
      (oidOf a ≠ 0 → oidOf a ≠ 0xFFFF → 2 ^ 48 < offOf a + n →
        (∀ e, pageState s (partyOf cx.core cx.st) a = .entry e →
          TrapsAt i s cx (if e.kind = 1 then .objPermission else .objBounds) a) ∧
        (∀ k, pageState s (partyOf cx.core cx.st) a = .declined k → TrapsAt i s cx .objBounds a)) ∧
      (oidOf a ≠ 0 → oidOf a ≠ 0xFFFF → offOf a + n ≤ 2 ^ 48 →
        (∀ k e, k = a ∨ k = a + BitVec.ofNat 64 (n - 1) → pageState s (partyOf cx.core cx.st) k = .entry e →
          e.kind ≠ 1 → e.limit ≠ 0 → e.obase + e.limit ≤ offOf k → TrapsAt i s cx .objBounds a) ∧
        (∀ e e', pageState s (partyOf cx.core cx.st) a = .entry e →
          pageState s (partyOf cx.core cx.st) (a + BitVec.ofNat 64 (n - 1)) = .entry e' →
          beyond e a = false → beyond e' (a + BitVec.ofNat 64 (n - 1)) = false →
          (∃ f, (f = e ∨ f = e') ∧ ¬(f.kind = 0 ∧ (if w then f.wr else f.rd) = true) ∧ ¬(f.kind = 2 ∧ w = false ∧ f.rd = true)) →
          TrapsAt i s cx .objPermission a) ∧
        (pageState s (partyOf cx.core cx.st) a = .declined 2 → TrapsAt i s cx .objBounds a) ∧
        (pageState s (partyOf cx.core cx.st) a = .declined 1 ∨
            pageState s (partyOf cx.core cx.st) (a + BitVec.ofNat 64 (n - 1)) = .declined 1 →
          PageLets s cx w a → PageLets s cx w (a + BitVec.ofNat 64 (n - 1)) → TrapsAt i s cx .objAbsent a) ∧
        (∀ b c : Word, (b = a ∧ c = a + BitVec.ofNat 64 (n - 1)) ∨ (b = a + BitVec.ofNat 64 (n - 1) ∧ c = a) →
          pageState s (partyOf cx.core cx.st) b = .missing →
          (b = a ∧ pageState s (partyOf cx.core cx.st) c = .missing) ∨
            (∃ e, pageState s (partyOf cx.core cx.st) c = .entry e ∧ beyond e c = false) →
          (s.cluster (clusterOf cx.core)).misses.length < 64 ∨
            (s.cluster (clusterOf cx.core)).misses.any (fun r => r.page == b.toNat / 65536) = true →
          ∃ t, exec i s = .next t ∧ t.cursor.stalled = true ∧ t.mem = s.mem ∧ missPending t cx.core (b.toNat / 65536) = true) ∧
        (∀ (e : Nat → TlbEntry) (c : Nat → Nat) j, j < n →
          (∀ k < n, pageState s (partyOf cx.core cx.st) (a + BitVec.ofNat 64 k) = .entry (e k) ∧ (e k).kind = 0 ∧
            (if w then (e k).wr else (e k).rd) = true ∧ beyond (e k) (a + BitVec.ofNat 64 k) = false ∧
            isMoving s cx.core (a + BitVec.ofNat 64 k) = false ∧
            inAnyFirmware s (physOf (e k) (a + BitVec.ofNat 64 k)) = false ∧
            cellAt s (physOf (e k) (a + BitVec.ofNat 64 k)) = some (c k)) →
          (∀ k < j, memberOf (c k) = dieOf cx.core) → memberOf (c j) ≠ dieOf cx.core →
          TrapsAt i s cx .nonlocal (a + BitVec.ofNat 64 j))) ∧
      (∀ (cells : List Nat), w = true → cx.st.kind ≠ .supervisor → oidOf a ≠ 0xFFFF → memLocked (s.core cx.core) a n none = true →
        accessCells s (partyOf cx.core cx.st) .die true false a n = .ok cells → TrapsAt i s cx .rangeLocked a))

/-- sld and sldv that are ready, while no acquire of the strand is outstanding and no byte has an error, write the
bytes of the allocation at the wrapped, swizzled offsets; the record-page form reads the record page at the offset
modulo 4,096. sst and sstv, once the strand's earlier reads, the waits of its earlier releases and pushes, and the
writes of its earlier SENDs to those bytes are done, and no engine operation has registered the bytes, write exactly
those bytes and clear their error marks; every other scratchpad byte keeps its value, and no memory byte changes. A
user store to registered bytes traps RANGE_LOCKED with the wrapped offset in EVALUE. That scratchpad accesses so wait
at issue (log 69), and that a store clears the error marks of its bytes (log 47), is the model's reading. (R163, R164,
R187, R191, R194, R208, R226) -/
def Obligations.ScratchpadAccesses : Prop :=
  (∀ i vd d sgn m swz sz s cx pc, Ready s cx (usesOf s cx i) → cx.st.acquiring = false → 64 ≤ cx.st.spadSize →
    pc = successor s.cursor.header cx.st.pc →
    let o := (addressOf (readReg s cx) m).toNat
    let byte := fun k => (s.core cx.core).spad.get 0 (padPlace cx.st swz.toNat (o + k))
    (i = .sld d sgn m swz sz → (∀ k < 2 ^ sz.toNat, padPlace cx.st swz.toNat (o + k) ∉ (s.core cx.core).bad) →
      Writes s cx i d (widened (2 ^ sz.toNat) sgn (little byte (2 ^ sz.toNat))) pc) ∧
    (i = .sldv vd m swz → (∀ k < 64, padPlace cx.st swz.toNat (o + k) ∉ (s.core cx.core).bad) →
      Completes i s cx (usesOf s cx i) { s := s, st := cx.st, vs := [(vd, BitVec.ofNat 512 (little byte 64))] } pc)) ∧
  (∀ d sgn m sz s cx pc, Ready s cx (usesOf s cx (.sldRec d sgn m sz)) → pc = successor s.cursor.header cx.st.pc →
    let o := (addressOf (readReg s cx) m).toNat
    (∀ k < 2 ^ sz.toNat, 2 ^ 20 + (o + k) % 4096 ∉ (s.core cx.core).bad) →
    Writes s cx (.sldRec d sgn m sz) d
      (widened (2 ^ sz.toNat) sgn (little (fun k => (s.core cx.core).recPage.get 0 ((o + k) % 4096)) (2 ^ sz.toNat))) pc) ∧
  (∀ i r v m swz sz s cx n val, (i = .sst r m swz sz ∧ n = 2 ^ sz.toNat ∧ val = (readReg s cx r).toNat) ∨
      (i = .sstv v m swz ∧ n = 64 ∧ val = (cx.st.v v.val).toNat) → Ready s cx (usesOf s cx i) →
    let o := (addressOf (readReg s cx) m).toNat
    let c := s.core cx.core
    (spadStoreWaits s cx.core cx.st o n = false →
      (cx.st.kind ≠ .supervisor → spadLocked c cx.st.spadBase cx.st.spadSize o n none = false) → 64 ≤ cx.st.spadSize →
      ∀ pc, pc = successor s.cursor.header cx.st.pc →
      ∃ (pad : Tab Byte) (bad : List Nat), (∀ k < n, pad.get 0 (padPlace cx.st swz.toNat (o + k)) = BitVec.ofNat 8 (val / 256 ^ k)) ∧
        (∀ p, (∀ k < n, p ≠ padPlace cx.st swz.toNat (o + k)) → pad.get 0 p = c.spad.get 0 p) ∧
        (∀ p, p ∈ bad ↔ p ∈ c.bad ∧ ∀ k < n, p ≠ padPlace cx.st swz.toNat (o + k)) ∧
        Completes i s cx (usesOf s cx i) { s := s.setCore cx.core { c with spad := pad, bad := bad }, st := cx.st } pc) ∧
    (CanTrap s cx → cx.st.kind ≠ .supervisor → spadLocked c cx.st.spadBase cx.st.spadSize o n none = true →
      TrapsAt i s cx .rangeLocked (BitVec.ofNat 64 (o % cx.st.spadSize))))

/-- An atomic that is ready traps MISALIGNED off its natural alignment; aligned, with its count st below 63 and its
bytes passing the checks of R221 for reading and writing (on the issuing die, or in a shippable region when placed at
a routine engine), it retires with st one higher, its destination owed and the operation outstanding with its operand,
amocas also with the expected value read from its destination. A fence retires without any effect of its own once its
waits are met (for acq and acqrel no read outstanding, source reads of engine operations among them, for rel and
acqrel the waits of R194 at its scope), and until then leaves the machine as it is. pref retires at once. Nothing else
changes. (R194, R196, R219, R221, R227, R228, R229, R230) -/
def Obligations.AtomicsFencesPref : Prop :=
  (∀ i op d a b md s cx, atomicOf i = some (op, d, a, b, md) → Ready s cx (usesOf s cx i) → cx.st.st < 63 →
    let n := if md.wide then 8 else 4
    let addr := readReg s cx a
    (CanTrap s cx → addr.toNat % n ≠ 0 → TrapsAt i s cx .misaligned addr) ∧
    (addr.toNat % n = 0 → ∀ (cells : List Nat) pc,
      accessCells s (partyOf cx.core cx.st) (if md.place = 2 then .ship else .die) true true addr n true = .ok cells →
      pc = successor s.cursor.header cx.st.pc →
      let r := reserve (touchEnds s cx.core addr n) { cx.st with st := cx.st.st + 1 } d
      Completes i s cx (usesOf s cx i)
        { s := r.1
          st := r.2.1.begin { noAccess (.atomic op md.wide md.place.toNat (readReg s cx b) (if op = .cas then readReg s cx d else 0)) with
            addr := addr, ord := md.ord, scope := md.scope, dest := r.2.2, spans := [(addr, n)],
            reads := readsOf cells, writes := cells.map fun c => (c, 0) } } pc)) ∧
  (∀ scope ord s cx, ord ≠ .plain → Ready s cx (usesOf s cx (.fence scope ord)) →
    let met := (ord ≠ .rel → (∀ a ∈ cx.st.pend, a.op.reads = true → a.performed = true) ∧
        ∀ o ∈ (s.core cx.core).ops, o.gen = cx.st.gen → o.seq < cx.st.nextSeq → o.readsLeft = false) ∧ (ord ≠ .acq → releaseWaitsMet s cx scope)
    (met → ∀ pc, pc = successor s.cursor.header cx.st.pc →
      Completes (.fence scope ord) s cx (usesOf s cx (.fence scope ord)) { s := s, st := cx.st } pc) ∧
    (¬met → exec (.fence scope ord) s = .next { s with cursor := { s.cursor with stalled := true } })) ∧
  (∀ level m s cx pc, Ready s cx (usesOf s cx (.pref level m)) → pc = successor s.cursor.header cx.st.pc →
    Completes (.pref level m) s cx (usesOf s cx (.pref level m)) { s := s, st := cx.st } pc)

namespace Sys2Proof.Claims

/-- The package that a fabric operation names: none when x0 or the issuing package's own id (R231). -/
def packageNamed (s : State) (cx : Ctx) (p : Reg) : Option Nat :=
  let id := ((readReg s cx p).extractLsb' 0 16).toNat
  if p = .x 0 ∨ id = s.pkg.id then none else some id

/-- The cells that a fabric access of n bytes reaches: by the checks of R221 in the issuing package, the bare addresses in another. -/
def FabricReaches (s : State) (cx : Ctx) (pkg : Option Nat) (reach : Reach) (write : Bool) (a : Word) (n : Nat) (reads : Bool)
    (cells : List Nat) : Prop :=
  match pkg with
  | none => accessCells s (partyOf cx.core cx.st) reach write true a n reads = .ok cells
  | some _ => cells = (List.range n).map fun k => (a + BitVec.ofNat 64 k).toNat

end Sys2Proof.Claims

/-- get, put, puts and ramo trap MISALIGNED off their alignment (puts: off 8 bytes or across a line). Aligned and
passing their checks, get retires with ld one higher and its destination owed; put and puts retire with the
remote-acknowledgement count one higher and exactly the bytes to be written outstanding, for puts those of the
scratchpad; ramo retires with that count one higher and its destination owed. An operation for another package carries
the bare addresses, which that package checks. Nothing else changes. (R219, R231, R233, R234, R235) -/
def Obligations.FabricOperationsBegin : Prop :=
  (∀ d a p ord scope sz s cx, Ready s cx (usesOf s cx (.get d a p ord scope sz)) → cx.st.ld < 63 →
    let n := 2 ^ sz.toNat
    let addr := readReg s cx a
    let pkg := packageNamed s cx p
    (CanTrap s cx → addr.toNat % n ≠ 0 → TrapsAt (.get d a p ord scope sz) s cx .misaligned addr) ∧
    (addr.toNat % n = 0 → ∀ (cells : List Nat) pc, FabricReaches s cx pkg .any false addr n true cells →
      pc = successor s.cursor.header cx.st.pc →
      let r := reserve (if pkg.isSome then s else touchEnds s cx.core addr n) { cx.st with ld := cx.st.ld + 1 } d
      Completes (.get d a p ord scope sz) s cx (usesOf s cx (.get d a p ord scope sz))
        { s := r.1
          st := r.2.1.begin { noAccess (.get n) with
            addr := addr, ord := ord, scope := scope, dest := r.2.2, pkg := pkg, spans := [(addr, n)],
            reads := readsOf cells } } pc)) ∧
  (∀ i a w o p ord scope sz k s cx n (byte : Nat → Byte),
    (i = .put a w p ord scope sz ∧ n = 2 ^ sz.toNat ∧ (readReg s cx a).toNat % n = 0 ∧
      byte = fun j => BitVec.ofNat 8 ((readReg s cx w).toNat / 256 ^ j)) ∨
    (i = .puts a o p ord scope k ∧ n = 8 * (k.toNat + 1) ∧ (readReg s cx a).toNat % 8 = 0 ∧
      (readReg s cx a).toNat % 64 + n ≤ 64 ∧ cx.st.acquiring = false ∧ 64 ≤ cx.st.spadSize ∧
      (∀ j < n, padPlace cx.st 0 ((readReg s cx o).toNat + j) ∉ (s.core cx.core).bad) ∧
      byte = fun j => (s.core cx.core).spad.get 0 (padPlace cx.st 0 ((readReg s cx o).toNat + j))) →
    Ready s cx (usesOf s cx i) → cx.st.remote < 4095 → ∀ (cells : List Nat) pc,
    let addr := readReg s cx a
    let pkg := packageNamed s cx p
    FabricReaches s cx pkg .any true addr n false cells → pc = successor s.cursor.header cx.st.pc →
    Completes i s cx (usesOf s cx i)
      { s := if pkg.isSome then s else touchEnds s cx.core addr n
        st := { cx.st with remote := cx.st.remote + 1 }.begin { noAccess (.put (match i with | .puts .. => true | _ => false)) with
          addr := addr, ord := ord, scope := scope, pkg := pkg, spans := [(addr, n)],
          writes := writesOf cells byte } } pc) ∧
  (∀ a w o p ord scope sz k s cx, CanTrap s cx →
    (Ready s cx (usesOf s cx (.put a w p ord scope sz)) → (readReg s cx a).toNat % 2 ^ sz.toNat ≠ 0 →
      TrapsAt (.put a w p ord scope sz) s cx .misaligned (readReg s cx a)) ∧
    (Ready s cx (usesOf s cx (.puts a o p ord scope k)) →
      (readReg s cx a).toNat % 8 ≠ 0 ∨ 64 < (readReg s cx a).toNat % 64 + 8 * (k.toNat + 1) →
      TrapsAt (.puts a o p ord scope k) s cx .misaligned (readReg s cx a))) ∧
  (∀ d op a b p md s cx, Ready s cx (usesOf s cx (.ramo d op a b p md)) → cx.st.remote < 4095 →
    let n := if md.wide then 8 else 4
    let addr := readReg s cx a
    let pkg := packageNamed s cx p
    (CanTrap s cx → addr.toNat % n ≠ 0 → TrapsAt (.ramo d op a b p md) s cx .misaligned addr) ∧
    (addr.toNat % n = 0 → ∀ (cells : List Nat) pc, FabricReaches s cx pkg (if md.place = 2 then .ship else .any) true addr n true cells →
      pc = successor s.cursor.header cx.st.pc →
      let r := reserve (if pkg.isSome then s else touchEnds s cx.core addr n) { cx.st with remote := cx.st.remote + 1 } d
      Completes (.ramo d op a b p md) s cx (usesOf s cx (.ramo d op a b p md))
        { s := r.1
          st := r.2.1.begin { noAccess (.ramo op md.wide md.place.toNat (readReg s cx b) (if op = .cas then readReg s cx d else 0)) with
            addr := addr, ord := md.ord, scope := md.scope, dest := r.2.2, pkg := pkg, spans := [(addr, n)],
            reads := readsOf cells, writes := cells.map fun c => (c, 0) } } pc))

/-- amsg traps ILLEGAL when its destination word names another package below scope sys, or another core at scope core
(before its other checks, once the word is there, in a register or at the head of its port); one that is ready
otherwise, with the remote-acknowledgement count below 4,095, it retires with that count one higher and the message
outstanding: handler, four payload words, sender coordinates and package, launch id and depth. fship, with cp below 63
and its line passing the checks of a shipped access, retires with cp one higher, status and result registers owed and
the routine outstanding; a failed check traps with its cause and the operand address in EVALUE (the model's reading,
log 45). Nothing else changes. (R235, R236, R250, R268, R322) -/
def Obligations.MessagesAndShippingBegin : Prop :=
  (∀ dest a b c d scope cn s cx, current s = some cx →
    let i := Instr.amsg dest a b c d scope cn
    let w := readReg s cx dest
    let px := (w.extractLsb' 0 8).toNat
    let py := (w.extractLsb' 8 8).toNat
    let pkg := (w.extractLsb' 16 16).toNat
    let core := if px < 64 ∧ py < 32 then py * 64 + px else 4096
    let far := scope ≠ .sys ∧ pkg ≠ 0 ∧ pkg ≠ s.pkg.id
    let off := scope = .core ∧ core ≠ cx.core
    (CanTrap s cx → far ∨ off → isIllegal s cx (usesOf s cx i) = false → (∀ n ∈ operandNums (usesOf s cx i), n ∉ cx.st.owed) →
      operandsKnown s cx (usesOf s cx i) = true → TrapsAt i s cx .illegal (headTail i)) ∧
    (Ready s cx (usesOf s cx i) → ¬far → ¬off → cx.st.remote < 4095 → ∀ pc, pc = successor s.cursor.header cx.st.pc →
      let target := if scope = .sys ∧ pkg ≠ s.pkg.id then some pkg else none
      let m : Message :=
        { handler := (w.extractLsb' 32 32).toNat
          payload := [readReg s cx a, readReg s cx b, readReg s cx c, readReg s cx d], sender := e2Of cx.core,
          part := partOf s cx.core, source := some cx.core,
          senderPkg := s.pkg.id, lid := (envReg s cx.core cx.st 3).toNat, depth := cx.st.depth, gen := cx.st.gen,
          seq := cx.st.nextSeq }
      Completes i s cx (usesOf s cx i)
        { s := s
          st := { cx.st with remote := cx.st.remote + 1 }.begin
            { noAccess (.amsg m core (target.getD s.pkg.id) (cn.map BitVec.toNat)) with addr := w, scope := scope, pkg := target } }
        pc)) ∧
  (∀ r a b c res scope ord n cn s cx, Ready s cx (usesOf s cx (.fship (.x r) a b c res scope ord n cn)) → cx.st.cp < 63 →
    let i := Instr.fship (.x r) a b c res scope ord n cn
    let addr := readReg s cx a
    (∀ (cells : List Nat) pc, accessCells s (partyOf cx.core cx.st) .ship true false (lineOf addr) 64 true = .ok cells →
      pc = successor s.cursor.header cx.st.pc →
      let q := reserve (touchEnds s cx.core (lineOf addr) 64) { cx.st with cp := cx.st.cp + 1 } res
      Completes i s cx (usesOf s cx i)
        { s := q.1
          st := { q.2.1 with owed := if r.val = 0 then q.2.1.owed else q.2.1.owed ++ [r.val] }.begin
            { noAccess (.fship n.toNat (readReg s cx b) (readReg s cx c) r.val (cn.map BitVec.toNat)) with
              addr := addr, ord := ord, scope := scope, dest := q.2.2, spans := [(lineOf addr, 64)], reads := readsOf cells } } pc) ∧
    (∀ k value, CanTrap s cx → accessCells s (partyOf cx.core cx.st) .ship true false (lineOf addr) 64 true = .error (.trap k value) →
      TrapsAt i s cx k addr))

namespace Sys2Proof.Claims

/-- The strand at a place has an outstanding access of a kind under a sequence number. -/
structure Outstanding (s : State) (core place seq : Nat) (kind : AccOp → Bool) (st : Strand) (a : Access) : Prop where
  strand : s.strand core place = some st
  access : st.pend.find? (fun b => b.seq == seq && kind b.op) = some a

/-- Loads and gets, which return a value to the strand. -/
def returns : AccOp → Bool
  | .load _ _ | .loadVec _ | .get _ => true
  | _ => false

/-- Stores, atomics without a routine engine and the ends of ctrims, performed on the issuing die. -/
def storesNear : AccOp → Bool
  | .store _ | .trim .. => true
  | .atomic _ _ p _ _ => p != 2
  | _ => false

/-- Operations performed at their home over the fabric. -/
def atHome : AccOp → Bool
  | .get _ | .put _ | .amsg .. | .ramo .. => true
  | _ => false

/-- Operations that an acknowledgement or a returned value completes. -/
def acked : AccOp → Bool
  | .put _ | .ramo .. | .amsg .. | .push _ => true
  | _ => false

/-- Operations that can be negatively acknowledged. -/
def refusable : AccOp → Bool
  | .get _ | .put _ | .ramo .. | .amsg .. | .push _ => true
  | _ => false

/-- Operations that a routine engine performs. -/
def atEngine : AccOp → Bool
  | .atomic _ _ p _ _ => p == 2
  | .ramo _ _ p _ _ => p == 2
  | .fship .. => true
  | _ => false

/-- The byte that a read of the strand returns: its own latest earlier store to the cell that is not yet performed, else the byte in
memory (R190, R191). -/
def seen (s : State) (st : Strand) (seq cell : Nat) : Byte :=
  ((st.pend.filter fun b => decide (b.seq < seq) && (match b.op with | .store _ => true | _ => false)).flatMap (·.writes)).foldl
    (fun old w => if w.1 = cell then w.2 else old) (s.byteAt cell)

/-- Whether two cells of a whole-register access are performed together: they are one byte, or lie in one aligned 8-byte unit that
the access covers (R220). -/
def inUnit (cells : List Nat) (j k : Nat) : Bool :=
  decide (j = k) || (decide (j / 8 = k / 8) && decide ((cells.filter fun c => c / 8 == k / 8).length = 8))

/-- Whether two bytes of a read are performed together: of a whole-register load in one unit, else in one 64-byte line and, of an
element load, in one element (R170, R220, R225). -/
def together (a : Access) (q r : Nat × Nat) : Bool :=
  match a.op with
  | .loadVec 64 => inUnit (a.reads.map (·.2)) q.2 r.2
  | .loadVec n => decide (q.2 / 64 = r.2 / 64) && decide (q.1 / max n 1 = r.1 / max n 1)
  | _ => decide (q.2 / 64 = r.2 / 64)

/-- The part of a read that a byte of it belongs to. -/
def partWith (a : Access) (r : Nat × Nat) : Access := { a with reads := a.reads.filter fun q => together a q r }

/-- The bytes of the element that a store performs next: elements go in ascending lane order (R225). -/
def nextElement (n : Nat) (ws : List (Nat × Byte)) : List (Nat × Byte) := ws.take ((ws.length - 1) % max n 1 + 1)

/-- The bytes of an element that are performed with a cell of it: of a whole-register store those of its unit, else those of its
line (R170, R220). -/
def storePart (n : Nat) (ws : List (Nat × Byte)) (k : Nat) : List (Nat × Byte) :=
  ws.filter fun v => if n = 64 then inUnit (ws.map (·.1)) v.1 k else decide (v.1 / 64 = k / 64)

/-- Replaces an outstanding access of a strand. -/
def replaced (st : Strand) (a b : Access) : Strand :=
  { st with pend := st.pend.map fun c => if c.seq == a.seq && c.op == a.op then b else c }

/-- What a cell holds after writes. -/
def written (ws : List (Nat × Byte)) (old : Nat → Byte) (k : Nat) : Byte :=
  ws.foldl (fun b w => if w.1 = k then w.2 else b) (old k)

/-- A state after writes at their homes: exactly the written bytes, and what the watches note of them (R318). -/
structure Stored (s : State) (ws : List (Nat × Byte)) (t : State) : Prop where
  bytes : ∀ k, t.cell k = written ws s.cell k
  cores : ∀ c, t.core c = { s.core c with held := (t.core c).held }
  dies : ∀ d, t.die d = { s.die d with watch := (t.die d).watch }
  rest : t = { s with mem := t.mem, dies := t.dies, cores := t.cores, stamp := t.stamp }

/-- An access has ended. -/
def ended (st : Strand) (a : Access) : Strand := { st with pend := st.pend.filter fun b => !(b.seq == a.seq && b.op == a.op) }

/-- A scalar value has reached the destination of an access: an x register that is owed no longer, the element that a port
reserved, or nowhere; nothing else of the machine has changed but the strand `u` taking its place, as `f` leaves it. -/
def Delivered (s : State) (core place : Nat) (u : Strand) (a : Access) (v : Word) (t : State) (f : Strand → Strand := id) : Prop :=
  match a.dest with
  | .x r => r ≠ 0 → ∃ w : Strand, t = s.setStrand core place (f w) ∧
      w = { u with xs := w.xs, poison := w.poison, owed := u.owed.erase r } ∧
      (∀ j, w.x j = if j = r then v else u.x j) ∧ (∀ j, w.poison.find j = if j = r then none else u.poison.find j)
  | .port k => ∀ p q, portOf u k = some p → s.queue p.queue = some q →
      t = ((s.setQueue p.queue { q with transit := q.transit.map fun e =>
        if e.gen = u.gen ∧ e.seq = a.seq ∧ e.data = none then { e with data := some v, bad := false } else e }).setStrand core place (f u))
  | _ => t = s.setStrand core place (f u)

/-- The new value of an atomic on n bits (R227). -/
def atomicResult (op : AmoOp) (n : Nat) (old b expected : BitVec n) : BitVec n :=
  match op with
  | .add => old + b
  | .and => old &&& b
  | .or => old ||| b
  | .xor => old ^^^ b
  | .min => if b.slt old then b else old
  | .max => if old.slt b then b else old
  | .minw => if b < old then b else old
  | .maxw => if old < b then b else old
  | .swap => b
  | .cas => if old = expected then b else old
  | .fadd =>
    let t := if n = 64 then ElemTy.f64 else ElemTy.f32
    BitVec.ofNat n (finish t (addVal (fval t old.toNat) (fval t b.toNat) .rne) .rne 0).1

/-- The bytes that an atomic writes to the cells that it reads, lowest first. -/
def atomicWrites (s : State) (cells : List Nat) (wide : Bool) (op : AmoOp) (b expected : Word) : List (Nat × Byte) :=
  let n := if wide then 64 else 32
  let old := BitVec.ofNat n (little (fun k => s.byteAt (cells.getD k 0)) (n / 8))
  let new := atomicResult op n old (b.setWidth n) (expected.setWidth n)
  writesOf cells fun k => BitVec.ofNat 8 (new.toNat / 256 ^ k)

/-- The old value that an atomic gives back, zero-extended. -/
def atomicOld (s : State) (cells : List Nat) (wide : Bool) : Word :=
  BitVec.ofNat 64 (little (fun k => s.byteAt (cells.getD k 0)) (if wide then 8 else 4))

end Sys2Proof.Claims

/-- Each part of an outstanding load (the bytes of one line, of an element of an element load, of an aligned 8-byte
unit of ldv) that may be performed reads, for each byte, the strand's own latest earlier store that is not yet
performed, else the byte in memory. With its last part the load returns: a scalar load delivers the number of its
bytes extended by its form, a vector load fills the bytes it reads and keeps the others; ld falls by 1 and the access
ends. Bytes with an uncorrectable error poison the destination instead. A get delivers what it read at its home once
performed there. A load with an earlier acquire outstanding is not performed and nothing changes. (R170, R190, R191,
R196, R219, R220, R222, R224, R225, R233, R382) -/
def Obligations.ReadsReturn : Prop :=
  (∀ s core place seq st a r, Outstanding s core place seq returns st a → (∃ n, a.op = .loadVec n ∨ ∃ sgn, a.op = .load n sgn) →
    r ∈ a.reads → mayPerform s core st (partWith a r) = true → a.inOrder (partWith a r) = true →
    let bytes := a.got ++ (partWith a r).reads.map fun c => (c.1, seen s st a.seq c.2)
    let bad := a.bad || (partWith a r).reads.any fun c => isPoisoned s c.2
    let left := a.reads.filter fun c => !(partWith a r).reads.contains c
    ∃ k t, exec (.loadReturn core place ⟨seq, k⟩) s = .next t ∧
      (left ≠ [] → t = s.setStrand core place (replaced st a { a with reads := left, got := bytes, bad := bad })) ∧
      (left = [] →
        (∀ n sgn (f : Nat → Byte), a.op = .load n sgn → bad = false → (bytes.map (·.1)).Nodup → (∀ i < n, (i, f i) ∈ bytes) → n ≤ 8 →
          Delivered s core place { ended st a with ld := st.ld - 1 } a (widened n sgn (little f n)) t) ∧
        (∀ n sgn x, a.op = .load n sgn → bad = true → a.dest = .x x →
          t = s.setStrand core place
            { ended st a with ld := st.ld - 1, owed := st.owed.erase x, poison := st.poison.insert x (0, a.addr) }) ∧
        (∀ n x, a.op = .loadVec n → bad = true → a.dest = .v x →
          t = s.setStrand core place
            { ended st a with ld := st.ld - 1, owed := st.owed.erase (64 + x), poison := st.poison.insert (64 + x) (0, a.addr) }) ∧
        (∀ n x, a.op = .loadVec n → bad = false → a.dest = .v x → (bytes.map (·.1)).Nodup → (∀ c ∈ bytes, c.1 < 64) →
          ∃ u : Strand, t = s.setStrand core place u ∧
            u = { ended st a with ld := st.ld - 1, owed := st.owed.erase (64 + x), vs := u.vs, poison := u.poison } ∧
            (∀ j, j ≠ x → u.v j = st.v j) ∧ (∀ c ∈ bytes, vbyte (u.v x) c.1 = c.2) ∧
            (∀ i < 64, (∀ c ∈ bytes, c.1 ≠ i) → vbyte (u.v x) i = vbyte a.base i)))) ∧
  (∀ s core place seq k st a n, Outstanding s core place seq returns st a → a.op = .get n → a.performed = true → a.bad = false →
    ∃ t, exec (.loadReturn core place ⟨seq, k⟩) s = .next t ∧
      Delivered s core place { ended st a with ld := st.ld - 1 } a a.value t) ∧
  (∀ s core place seq k st a, Outstanding s core place seq returns st a → (∃ n, a.op = .loadVec n ∨ ∃ sgn, a.op = .load n sgn) →
    (∃ b ∈ st.pend, b.seq < a.seq ∧ b.acquires = true) → exec (.loadReturn core place ⟨seq, k⟩) s = .next s)

/-- Each part of a store (the bytes of one line of its next element, of an aligned 8-byte unit of stv) that may be
performed writes exactly its bytes; with the last one st falls by 1 and the access ends; an atomic writes the new
value of R227 to the bytes it reads, delivers the old value and ends; at its home a get samples its bytes, put and
puts write theirs and ramo does as an atomic, each becoming performed; a message to a core that no launch of its id in
its partition holds is dropped, else it enters that core's buffer while there is room. Every other byte keeps its
value, and the watches compare the granules written. A write with an earlier read of the strand outstanding, and a
release whose waits are not met, is not performed and nothing changes. (R170, R190, R191, R194, R196, R203, R205,
R220, R225, R227, R236, R318) -/
def Obligations.WritesPerformed : Prop :=
  (∀ s core place seq st a n w, Outstanding s core place seq storesNear st a → a.op = .store n → w ∈ nextElement n a.writes →
    let part := storePart n (nextElement n a.writes) w.1
    let left := (nextElement n a.writes).filter (fun v => !part.contains v) ++ a.writes.drop (nextElement n a.writes).length
    mayPerform s core st { a with writes := part } = true →
    ∃ k t, exec (.storePerformed core place ⟨seq, k⟩) s = .next t ∧
      Stored (s.setStrand core place
        (if left = [] then { ended st a with st := st.st - 1 } else replaced st a { a with writes := left })) part t) ∧
  (∀ s core place seq k st a op wide p b e cells, Outstanding s core place seq storesNear st a → a.op = .atomic op wide p b e →
    a.reads = readsOf cells → cells.length = (if wide then 8 else 4) → mayPerform s core st a = true →
    (∀ c ∈ cells, isPoisoned s c = false) →
    ∃ t0 t, exec (.storePerformed core place ⟨seq, k⟩) s = .next t ∧
      Delivered s core place { ended st a with st := st.st - 1 } a (atomicOld s cells wide) t0 ∧
      Stored t0 (atomicWrites s cells wide op b e) t) ∧
  (∀ s core place seq ext st a, Outstanding s core place seq atHome st a → a.pkg = none → mayPerform s core st a = true →
    let keep := fun b : Access => s.setStrand core place (replaced st a b)
    (∀ n cells, a.op = .get n → a.reads = readsOf cells → cells.length = n → n ≤ 8 →
      exec (.fabricPerformed core place seq ext) s = .next (keep { a with
        performed := true, value := widened n false (little (fun k => s.byteAt (cells.getD k 0)) n),
        bad := cells.any (isPoisoned s) })) ∧
    (∀ blk, a.op = .put blk → ∃ t, exec (.fabricPerformed core place seq ext) s = .next t ∧
      Stored (keep { a with performed := true }) a.writes t) ∧
    (∀ op wide p b e cells, a.op = .ramo op wide p b e → p ≠ 2 → a.reads = readsOf cells →
      cells.length = (if wide then 8 else 4) → (∀ c ∈ cells, isPoisoned s c = false) →
      ∃ t, exec (.fabricPerformed core place seq ext) s = .next t ∧
        Stored (keep { a with performed := true, value := atomicOld s cells wide }) (atomicWrites s cells wide op b e) t) ∧
    (∀ m c d cn, a.op = .amsg m c d cn →
      ((2048 ≤ c ∨ partOf s c ≠ m.part ∨ ∀ l, launchOf s c = some l → l.lid ≠ m.lid) →
        exec (.fabricPerformed core place seq ext) s = .next (keep { a with dropped := true })) ∧
      (∀ l, c < 2048 → partOf s c = m.part → launchOf s c = some l → l.lid = m.lid → (s.core c).preempted = false → (s.core c).spill = [] →
        (s.core c).inbox.length < 64 →
        ∃ t, exec (.fabricPerformed core place seq ext) s = .next t ∧
          t.core c = { s.core c with inbox := (s.core c).inbox ++ [m] } ∧ (∀ j, j ≠ c → t.core j = s.core j) ∧
          t.strands = (keep { a with arrived := true }).strands ∧ t.mem = s.mem ∧ t.queues = s.queues))) ∧
  (∀ s core place seq k st a ext, (∃ b ∈ st.pend, b.seq < a.seq ∧ b.op.reads = true ∧ b.performed = false) ∨
      (a.releases = true ∧ releaseReady s core st a.seq a.scope = false) → a.op.writes = true →
    (Outstanding s core place seq storesNear st a → exec (.storePerformed core place ⟨seq, k⟩) s = .next s) ∧
    (Outstanding s core place seq atHome st a → exec (.fabricPerformed core place seq ext) s = .next s) ∧
    (Outstanding s core place seq atEngine st a → exec (.shippedOperation core place seq) s = .next s))

/-- An acknowledgement ends a performed put, push, message (which also completes its counter) or ramo (which delivers
its old value) and lowers the remote-acknowledgement count by 1. A refusal ends a dropped operation, marks the strand
undeliverable and counts the drop; a get or ramo delivers all ones. A routine engine performs a shipped atomic as any
other; a shipped routine that is not loaded writes status cause 9 with result 0, one that meets a line with an error
status cause 4 and a result that the spec leaves open, and one that is loaded writes its line, delivers its result to
its result register or port and status ok to its status register, and counts its completion; each lowers cp by 1, and
a status for x0 is discarded. Nothing else changes. What a fixed routine does at an unaligned address, the order of
the operands of routine 9, and that the status stays where one register takes both are the model's choices (logs 9,
104, 105, 106). (R178, R179, R180, R203, R206, R231, R250, R306, R390, R405) -/
def Obligations.CompletionsOfAccesses : Prop :=
  (∀ s core place seq st a, Outstanding s core place seq acked st a → a.performed = true → a.bad = false →
    let u := { ended st a with remote := st.remote - 1 }
    ((∃ blk, a.op = .put blk) ∨ (∃ q, a.op = .push q) → exec (.remoteAck core place seq) s = .next (s.setStrand core place u)) ∧
    (∀ m c d cn, a.op = .amsg m c d cn → exec (.remoteAck core place seq) s = .next (s.setStrand core place (u.complete cn))) ∧
    (∀ op wide p b e, a.op = .ramo op wide p b e →
      ∃ t, exec (.remoteAck core place seq) s = .next t ∧ Delivered s core place u a a.value t)) ∧
  (∀ s core place seq st a, Outstanding s core place seq refusable st a → a.dropped = true →
    let u := fun (ld remote : Nat) => { ended st a with
      ld := ld, remote := remote, undeliverable := true, drops := min (st.drops + 1) (2 ^ 32 - 1),
      firstDrop := if st.drops = 0 then put (dropKind a.op) 28 ||| put (dropCore s a.op) 0 else st.firstDrop }
    (∀ n, a.op = .get n → ∃ t, exec (.negativeAck core place seq) s = .next t ∧
      Delivered s core place (u (st.ld - 1) st.remote) a (BitVec.allOnes 64) t) ∧
    (∀ op wide p b e, a.op = .ramo op wide p b e → ∃ t, exec (.negativeAck core place seq) s = .next t ∧
      Delivered s core place (u st.ld (st.remote - 1)) a (BitVec.allOnes 64) t) ∧
    ((∃ blk, a.op = .put blk) ∨ (∃ q, a.op = .push q) →
      exec (.negativeAck core place seq) s = .next (s.setStrand core place (u st.ld (st.remote - 1)))) ∧
    (∀ m c d cn, a.op = .amsg m c d cn →
      exec (.negativeAck core place seq) s = .next (s.setStrand core place ((u st.ld (st.remote - 1)).complete cn)))) ∧
  (∀ s core place seq st a, Outstanding s core place seq atEngine st a → mayPerform s core st a = true →
    (∀ c ∈ a.reads, isPoisoned s c.2 = false) →
    (∀ op wide b e cells, a.op = .atomic op wide 2 b e → a.reads = readsOf cells → cells.length = (if wide then 8 else 4) →
      ∃ t0 t, exec (.shippedOperation core place seq) s = .next t ∧
        Delivered s core place { ended st a with st := st.st - 1 } a (atomicOld s cells wide) t0 ∧
        Stored t0 (atomicWrites s cells wide op b e) t) ∧
    (∀ op wide b e cells, a.op = .ramo op wide 2 b e → a.pkg = none → a.reads = readsOf cells →
      cells.length = (if wide then 8 else 4) →
      ∃ t, exec (.shippedOperation core place seq) s = .next t ∧
        Stored (s.setStrand core place (replaced st a { a with performed := true, value := atomicOld s cells wide }))
          (atomicWrites s cells wide op b e) t) ∧
    (∀ n b c r cn, a.op = .fship n b c r cn → (n ≤ 10 ∨ (16 ≤ n ∧ (s.pkg.routines.find n).isSome = true)) →
      let run := runRoutine n (s.pkg.routines.get [] n) (a.reads.map fun c => s.byteAt c.2) a.addr b c
      ∃ t0 t, exec (.shippedOperation core place seq) s = .next t ∧
        Delivered s core place { ended st a with cp := st.cp - 1 } a run.2 t0 (fun w => (w.deliverX r 1).complete cn) ∧
        Stored t0 ((a.reads.map (·.2)).zip run.1) t)) ∧
  (∀ s core place seq st a, Outstanding s core place seq atEngine st a → mayPerform s core st a = true →
    ∀ n b c r cn, a.op = .fship n b c r cn →
      (¬(n ≤ 10 ∨ (16 ≤ n ∧ (s.pkg.routines.find n).isSome = true)) →
        ∃ t, exec (.shippedOperation core place seq) s = .next t ∧
          Delivered s core place { ended st a with cp := st.cp - 1 } a 0 t
            (fun w => (w.deliverX r (BitVec.ofNat 64 18)).complete cn)) ∧
      ((n ≤ 10 ∨ (16 ≤ n ∧ (s.pkg.routines.find n).isSome = true)) → (∃ c ∈ a.reads, isPoisoned s c.2 = true) →
        ∃ t v, exec (.shippedOperation core place seq) s = .next t ∧
          Delivered s core place { ended st a with cp := st.cp - 1 } a v t
            (fun w => (w.deliverX r (BitVec.ofNat 64 8)).complete cn)))

namespace Sys2Proof.Claims

/-- A strand stays where it stands, marked as not ready, and nothing else changes. -/
def Waits (i : Instr) (s : State) : Prop := exec i s = .next { s with cursor := { s.cursor with stalled := true } }

end Sys2Proof.Claims

/-- qtok that is ready, with room and no fence before it, pushes a token of its tag whose data are bits [31:0] of its
operand. qtry pops a data head and writes the data and present and popped (24), and reports a token without popping it
(payload and 8 with its tag) or an empty queue (0 and 0); qpeek reports likewise and never pops; a head with an
uncorrectable error traps. qlen writes the elements that the strand can pop, or the credits that it holds. qfence
marks the strand so that later pushes wait for earlier ones. qtvec sets the port's token target: none for 0, the
operand, or the operand within the launch's code object when its object id is 0. None of them waits, but qtok for room
and fence, and what reports poppable elements for an acquire of the strand; nothing else changes. That a head with an
error traps at qtry and qpeek (log 43), and that these wait for an acquire (log 80), is the model's reading. (R213,
R300, R301, R302, R303, R304, R407, R57) -/
def Obligations.QueueInstructions : Prop :=
  (∀ tag k r s cx pc, Ready s cx (usesOf s cx (.qtok tag k r)) → fenced s cx.st = false → hasRoom s cx.st k.toNat 1 = true →
    pc = successor s.cursor.header cx.st.pc →
    let p := pushPort s cx.st k.toNat tag.toNat (some (((readReg s cx r).setWidth 32).setWidth 64))
    Completes (.qtok tag k r) s cx (usesOf s cx (.qtok tag k r)) { s := p.1, st := { p.2 with qfence := false } } pc) ∧
  (∀ i d xf k s cx pc e, i = .qtry d xf (.q k) ∨ i = .qpeek d xf (.q k) → Ready s cx (usesOf s cx i) →
    headOf s cx.st k.val = e → cx.st.acquiring = false → pc = successor s.cursor.header cx.st.pc →
    (e = none → Completes i s cx (usesOf s cx i) { s := s, st := cx.st, xs := [(d, 0), (xf, 0)] } pc) ∧
    (∀ h, e = some h → h.bad = false → h.tag ≠ 0 → Completes i s cx (usesOf s cx i)
      { s := s, st := cx.st, xs := [(d, (((h.data.getD 0).setWidth 32).setWidth 64)), (xf, BitVec.ofNat 64 (8 + h.tag))] } pc) ∧
    (∀ h, e = some h → h.bad = false → h.tag = 0 →
      (i = .qpeek d xf (.q k) → Completes i s cx (usesOf s cx i) { s := s, st := cx.st, xs := [(d, h.data.getD 0), (xf, 8)] } pc) ∧
      (i = .qtry d xf (.q k) → Completes i s cx (usesOf s cx i)
        { s := (popPort s cx.st k.val).1, st := (popPort s cx.st k.val).2, xs := [(d, h.data.getD 0), (xf, 24)] } pc)) ∧
    (∀ h, e = some h → h.bad = true → CanTrap s cx → ∃ t, exec i s = .next t ∧
      Trapped s cx .memUncorrectable 1 (BitVec.ofNat 64 (2 ^ 63 + k.val)) t)) ∧
  (∀ i d xf k s cx, (i = .qtry d xf (.q k) ∨ i = .qpeek d xf (.q k) ∨ (i = .qlen d (.q k) ∧ isConsumer cx.st k.val = true)) →
    Ready s cx (usesOf s cx i) → cx.st.acquiring = true → Waits i s) ∧
  (∀ d k s cx pc p q, Ready s cx (usesOf s cx (.qlen d (.q k))) → pc = successor s.cursor.header cx.st.pc →
    portOf cx.st k.val = some p → s.queue p.queue = some q →
    (p.out = true → Writes s cx (.qlen d (.q k)) d (BitVec.ofNat 64 (q.credits + q.grants.count cx.st.gen)) pc) ∧
    (p.out = false → cx.st.acquiring = false → inputPort cx.st ≠ some k.val ∨ cx.st.retiring = .no ∨ cx.st.retiring = .marked →
      Writes s cx (.qlen d (.q k)) d
        (BitVec.ofNat 64 (q.ring.countP fun e => e.tag == 0 || e.left.contains cx.st.queueGen)) pc)) ∧
  (∀ s cx pc, Ready s cx (usesOf s cx .qfence) → pc = successor s.cursor.header cx.st.pc →
    Completes .qfence s cx (usesOf s cx .qfence) { s := s, st := { cx.st with qfence := true } } pc) ∧
  (∀ k r s cx pc p, Ready s cx (usesOf s cx (.qtvec (.q k) r)) → pc = successor s.cursor.header cx.st.pc →
    portOf cx.st k.val = some p →
    let x := readReg s cx r
    ∃ target : Word, (x = 0 → target = 0) ∧ (oidOf x ≠ 0 → target = x) ∧
      (∀ l, x ≠ 0 → oidOf x = 0 → launchOf s cx.core = some l → target = BitVec.ofNat 64 (l.codeOid * 2 ^ 48) + x) ∧
      Completes (.qtvec (.q k) r) s cx (usesOf s cx (.qtvec (.q k) r))
        { s := s, st := { cx.st with ports := cx.st.ports.insert k.val { p with target := target } } } pc)

/-- cpost that is ready adds its immediate to a completion counter, and traps COUNTER_OVERFLOW, with the immediate,
the counter number and the pending count in EVALUE, when the sum would pass 4,095; cread writes the pending count and
underflow and clears underflow when asked. waitc, wait and await retire without any effect of their own once the
pending count, every class count, or the arrival word meets its bound, and until then leave the machine as it is;
await reads its word as an acquire load and traps MISALIGNED off 8 bytes. (R305, R306, R307, R308) -/
def Obligations.CountersAndWaits : Prop :=
  (∀ c k s cx, Ready s cx (usesOf s cx (.cpost c k)) →
    let n := cx.st.counter c.toNat
    (n.pending + k.toNat ≤ 4095 → ∀ pc, pc = successor s.cursor.header cx.st.pc →
      Completes (.cpost c k) s cx (usesOf s cx (.cpost c k))
        { s := s, st := cx.st.setCounter c.toNat { n with pending := n.pending + k.toNat } } pc) ∧
    (4095 < n.pending + k.toNat → n.pending ≤ 4095 → CanTrap s cx →
      TrapsAt (.cpost c k) s cx .counterOverflow (BitVec.ofNat 64 (k.toNat * 2 ^ 32 + c.toNat * 2 ^ 16 + n.pending)))) ∧
  (∀ d c clr s cx pc, Ready s cx (usesOf s cx (.cread d c clr)) → pc = successor s.cursor.header cx.st.pc →
    let n := cx.st.counter c.toNat
    n.pending ≤ 4095 →
    Completes (.cread d c clr) s cx (usesOf s cx (.cread d c clr))
      { s := s, st := if clr then cx.st.setCounter c.toNat { n with under := false } else cx.st,
        xs := [(d, BitVec.ofNat 64 (n.pending + if n.under then 4096 else 0))] } pc) ∧
  (∀ i c k ld st cp tl s cx (met : Prop), (i = .waitc c k ∧ met = ((cx.st.counter c.toNat).pending ≤ k.toNat)) ∨
      (i = .wait ld st cp tl ∧
        met = (cx.st.ld ≤ ld.toNat ∧ cx.st.st ≤ st.toNat ∧ cx.st.cp ≤ cp.toNat ∧ cx.st.tl ≤ tl.toNat)) →
    Ready s cx (usesOf s cx i) →
    (met → ∀ pc, pc = successor s.cursor.header cx.st.pc → Completes i s cx (usesOf s cx i) { s := s, st := cx.st } pc) ∧
    (¬met → Waits i s)) ∧
  (∀ a r scope s cx, Ready s cx (usesOf s cx (.await a r scope)) →
    let addr := readReg s cx a
    (CanTrap s cx → addr.toNat % 8 ≠ 0 → TrapsAt (.await a r scope) s cx .misaligned addr) ∧
    (addr.toNat % 8 = 0 → ∀ cells : List Nat, accessCells s (partyOf cx.core cx.st) .die false false addr 8 (code := true) = .ok cells →
      (∀ c ∈ cells, isPoisoned s c = false) →
      mayPerform s cx.core cx.st { noAccess (.load 8 false) with
        seq := cx.st.nextSeq, addr := addr, ord := .acq, scope := scope, spans := [(addr, 8)], reads := readsOf cells } = true →
      let word := little (fun k => seen s cx.st cx.st.nextSeq (cells.getD k 0)) 8
      ((readReg s cx r).toNat ≤ word → ∀ pc, pc = successor s.cursor.header cx.st.pc →
        Completes (.await a r scope) s cx (usesOf s cx (.await a r scope))
          { s := touchEnds s cx.core addr 8, st := cx.st } pc) ∧
      (word < (readReg s cx r).toNat → Waits (.await a r scope) s)))

namespace Sys2Proof.Claims

/-- A strand has parked: it stands in a park area with its wake condition, at its next instruction, with its slot still busy until
the save completes (R283, R284, R310). `s0` is the state as the check of its condition left it. -/
def Parked (i : Instr) (s s0 : State) (cx : Ctx) (area : Nat) (w : Wake) (pc : Word) : Prop :=
  ∃ t0 t st, Retired cx (usesOf s cx i) { s := s0, st := cx.st } pc t0 ∧ t0.strand cx.core cx.slot = some st ∧
    exec i s = .next t ∧ t.strands.find (placeKey cx.core cx.slot) = none ∧
    t.strand cx.core (parkPlace area) = some { st with wake := some w, wait := none } ∧
    (∀ k, k ≠ placeKey cx.core cx.slot → k ≠ placeKey cx.core (parkPlace area) → t.strands.find k = t0.strands.find k) ∧
    t.core cx.core = { s0.core cx.core with parking := (s0.core cx.core).parking ++ [(area, cx.slot)] } ∧
    t = { t0 with strands := t.strands, cores := t.cores }

/-- The condition of a park instruction: whether it holds now, and the wake condition it sets otherwise (R310). -/
def parkOf (s : State) (cx : Ctx) : Instr → Option (Prop × Wake)
  | .parkC c t => some ((cx.st.counter c.toNat).pending ≤ (readReg s cx t).toNat, .counter c.toNat (readReg s cx t))
  | .parkQ k => some (headOf s cx.st k.toNat ≠ none, .queue k.toNat)
  | .parkT t => some ((readReg s cx t).toNat ≤ (envReg s cx.core cx.st 4).toNat, .clock (readReg s cx t))
  | _ => none

/-- What a park instruction does at its next instruction `pc` when its condition holds (`held`) and when it does not (R283, R310):
it parks in the first free area, of which the model takes the lowest (log 86); with none free it waits in its slot from then on; the
supervisor strand has no area and waits (log 23); as the last head of a stop line it falls off and does not park (log 36). -/
def ParkRule (i : Instr) (s s0 : State) (cx : Ctx) (held : Prop) (w : Wake) (pc : Word) : Prop :=
  (held → Completes i s cx (usesOf s cx i) { s := s0, st := cx.st } pc) ∧
  (¬held → cx.slot < 16 → cx.st.staying = false →
    (∀ area, freeArea s cx.core = some area →
      (nextPc s.cursor.header cx.st.pc ≠ none → Parked i s s0 cx area w pc) ∧
      (nextPc s.cursor.header cx.st.pc = none → Completes i s cx (usesOf s cx i) { s := s0, st := cx.st } pc)) ∧
    (freeArea s cx.core = none → exec i s =
      .next { s0.setStrand cx.core cx.slot { cx.st with staying := true } with cursor := { s.cursor with stalled := true } })) ∧
  (¬held → 16 ≤ cx.slot ∨ cx.st.staying = true → exec i s = .next { s with cursor := { s.cursor with stalled := true } })

/-- The strands of the same stage, for the barrier (R309). -/
def membersOf (s : State) (l : Launch) (st : Strand) : List Nat :=
  (s.strands.filter fun e => e.2.kind == .inst && e.2.lid == l.lid && e.2.stage == st.stage
    && partOf s (e.1 / 256) == some l.part).map (·.2.gen)

end Sys2Proof.Claims

/-- A park instruction whose condition holds retires at once; otherwise it retires and its strand moves to a free park
area (the lowest: log 86) with its wake condition, or waits in its slot from then on when none is free; as the last
head of a stop line it falls off and does not park (log 36), and the supervisor strand waits in its slot (log 23). bar
retires at once in a stage of one instance, in the strand whose arrival closes its round (the others of the round are
then told to depart), in one told to depart, and in a strand that is no instance (log 23); otherwise it waits with its
arrival counted, or, when a round it is no member of is open, without. yield retires with its waiting count reset, and
its strand stands aside for the others of the core that are then ready, if there are any. sprio sets the level. exit
waits until every count is 0 and then ends the strand: its slot holds it no longer and every queue has lost it. (R283,
R309, R310, R311, R312, R313, R280) -/
def Obligations.ParkingAndYielding : Prop :=
  (∀ i s cx held w, parkOf s cx i = some (held, w) → (∀ k, i = .parkQ k → cx.st.acquiring = false) → Ready s cx (usesOf s cx i) →
    ParkRule i s s cx held w (successor s.cursor.header cx.st.pc)) ∧
  (∀ a r scope s cx, Ready s cx (usesOf s cx (.parkA a r scope)) →
    let addr := readReg s cx a
    addr.toNat % 8 = 0 → ∀ cells : List Nat, accessCells s (partyOf cx.core cx.st) .die false false addr 8 (code := true) = .ok cells →
    (∀ c ∈ cells, isPoisoned s c = false) →
    mayPerform s cx.core cx.st { noAccess (.load 8 false) with
      seq := cx.st.nextSeq, addr := addr, ord := .acq, scope := scope, spans := [(addr, 8)], reads := readsOf cells } = true →
    ParkRule (.parkA a r scope) s (touchEnds s cx.core addr 8) cx
      ((readReg s cx r).toNat ≤ little (fun k => seen s cx.st cx.st.nextSeq (cells.getD k 0)) 8)
      (.word addr (readReg s cx r)) (successor s.cursor.header cx.st.pc)) ∧
  (∀ s cx pc, Ready s cx (usesOf s cx .bar) → pc = successor s.cursor.header cx.st.pc →
    (cx.st.wait = some .depart ∨ (cx.st.wait = none ∧ cx.st.kind ≠ .inst) →
      Completes .bar s cx (usesOf s cx .bar) { s := s, st := cx.st } pc) ∧
    (cx.st.wait = some .barrier → Waits .bar s) ∧
    (∀ l, cx.st.wait = none → cx.st.kind = .inst → launchOf s cx.core = some l →
      releaseReady s cx.core cx.st cx.st.nextSeq (stageScope s l.part l.lid cx.st.stage) = true →
      ((∀ r ∈ l.rounds, r.stage ≠ cx.st.stage) → (∀ m ∈ s.launches, ∀ r ∈ m.rounds, ∃ g ∈ r.members, g ∉ r.arrived) →
        ((∃ g ∈ membersOf s l cx.st, g ≠ cx.st.gen) →
          ∃ t l', exec .bar s = .next t ∧ t.cursor.stalled = true ∧
            t.strand cx.core cx.slot = some { cx.st with wait := some .barrier } ∧ l' ∈ t.launches ∧
            l' = { l with rounds := l.rounds ++ [⟨cx.st.stage, membersOf s l cx.st, [cx.st.gen]⟩] } ∧
            t.mem = s.mem ∧ t.queues = s.queues) ∧
        (membersOf s l cx.st = [cx.st.gen] → (∀ e ∈ s.strands, e.2.wait = some .barrier → e.2.gen ≠ cx.st.gen) →
          Completes .bar s cx (usesOf s cx .bar) { s := s.setLaunch l, st := cx.st } pc)) ∧
      (∀ r ∈ l.rounds, r.stage = cx.st.stage → (∀ x ∈ l.rounds, x.stage = cx.st.stage → x = r) →
        (cx.st.gen ∉ r.members → Waits .bar s) ∧
        (cx.st.gen ∈ r.members → (∀ g ∈ r.members, g = cx.st.gen ∨ g ∈ r.arrived) →
          (∀ e ∈ s.strands, e.2.wait = some .barrier → e.2.gen ≠ cx.st.gen) →
          (∀ m ∈ s.launches, ∀ x ∈ m.rounds, (m.part = l.part ∧ m.lid = l.lid ∧ m.phase ≠ .waiting ∧ x.stage = cx.st.stage) ∨
            ∃ g ∈ x.members, g ∉ x.arrived) →
          Completes .bar s cx (usesOf s cx .bar)
            { s := { s.setLaunch { l with rounds := l.rounds.filter fun x => decide (x.stage ≠ cx.st.stage) } with
                strands := s.strands.map fun e =>
                  if e.2.wait = some .barrier ∧ e.2.gen ∈ r.arrived then (e.1, { e.2 with wait := some .depart }) else e }
              st := cx.st } pc)))) ∧
  (∀ s cx pc, Ready s cx (usesOf s cx .yield) → pc = successor s.cursor.header cx.st.pc →
    Completes .yield s cx (usesOf s cx .yield)
      { s := s, st := { cx.st with since := none }, waits := some (.yielding none (s.clk + 64)) } pc) ∧
  (∀ level s core slot st till, slot < 16 ∨ slot = supervisorSlot → s.strand core slot = some st →
    st.wait = some (.yielding none till) →
    let r := match level with
      | some l => s.setCore core { s.core core with turns := (s.core core).turns.insert l (slot + 1) }
      | none => s
    let ready := (readyOthers r core slot).2
    ∃ u, (noteIssue level s core slot).strand core slot = some u ∧
      u = { st with since := none, aged := false, wait := if ready = [] then none else some (.yielding (some ready) till) }) ∧
  (∀ n s cx pc, Ready s cx (usesOf s cx (.sprio n)) → pc = successor s.cursor.header cx.st.pc →
    Completes (.sprio n) s cx (usesOf s cx (.sprio n))
      { s := s, st := { cx.st with level := n.toNat, since := none, aged := false } } pc) ∧
  (∀ s cx, Ready s cx (usesOf s cx .exit) →
    (cx.st.ld = 0 ∧ cx.st.st = 0 ∧ cx.st.cp = 0 ∧ cx.st.tl = 0 ∧ cx.st.remote = 0 →
      ∃ t, exec .exit s = .next t ∧ t.strands.find (placeKey cx.core cx.slot) = none ∧ t.mem = s.mem ∧
        (∀ q ∈ t.queues, (∀ p ∈ q.2.producers, p.1 ≠ cx.st.gen) ∧ (∀ p ∈ q.2.consumers, p.1 ≠ cx.st.gen)) ∧
        ((∀ l ∈ s.launches, ∀ r ∈ l.rounds, r.members.Nodup) → ∀ l ∈ t.launches, ∀ r ∈ l.rounds, cx.st.gen ∉ r.members)) ∧
    (cx.st.ld ≠ 0 ∨ cx.st.st ≠ 0 ∨ cx.st.cp ≠ 0 ∨ cx.st.tl ≠ 0 ∨ cx.st.remote ≠ 0 → Waits .exit s))

namespace Sys2Proof.Claims

/-- The place of a slot in the order of a core's arbiter (R280): the supervisor, the porter, the aged level, the levels. -/
def issueClass (s : State) (core slot : Nat) : Nat :=
  if slot = supervisorSlot then 0 else if slot = porterSlot then 1
  else match s.strand core slot with
    | some st => if st.aged then 2 else 3 + st.level
    | none => 7

/-- In a list one element stands before another. -/
def Before (xs : List Nat) (a b : Nat) : Prop := ∃ us vs ws, xs = us ++ a :: vs ++ b :: ws

/-- Of producers that wait for a credit, the one whose turn is next in round robin by rank after the rank served last (R295). -/
def NextInTurn (ws : List Waiter) (last : Nat) (w : Waiter) : Prop :=
  w ∈ ws ∧ ((∃ v ∈ ws, last < v.rank) → last < w.rank ∧ ∀ v ∈ ws, last < v.rank → w.rank ≤ v.rank) ∧
    ((∀ v ∈ ws, v.rank ≤ last) → ∀ v ∈ ws, w.rank ≤ v.rank)

end Sys2Proof.Claims

/-- The next element of a producer (of a vnzx: with those that become visible with it) that has its data and whose
waits as a release are met becomes poppable: data elements at a queue that does not coalesce join the end of the ring,
the producer's other elements keep their order behind; at a queue whose generation has ended they are dropped and
their credits come back. Of the producers that still wait for a credit (strands in their slots, operations that a unit
or engine works on) one that comes back goes to the one next in round robin by rank after the rank served last: the
lowest rank above that one, else the lowest; with none waiting it goes to the credits that every producer may take
(log 109). A yielding strand is ready again after its 64 clk, or once the others have issued; a strand passed over for
256 clk moves to the aged level. Of the slots of a core that may issue, a slot of a higher class of R280 comes first,
and of two of one level those at or past the level's turn come first, then the lower slot. (R129, R206, R213, R280,
R295, R297, R311) -/
def Obligations.ArbiterAndQueueEvents : Prop :=
  (∀ s queue gen q e es, s.queue queue = some q → q.transit.filter (fun x => x.gen == gen) = e :: es →
    (∀ x ∈ e :: es.take e.batch, x.data ≠ none ∧ x.drain = none ∧
      ∀ key st, ownerOf s gen = some (key, st) → pushReady s (key / 256) st x.seq q.kind = true) →
    let left := (e :: es.take e.batch).foldl (fun l x => l.erase x) q.transit
    ∃ t, exec (.elementPoppable queue gen) s = .next t ∧ t.mem = s.mem ∧ t.cores = s.cores ∧
      (q.kind ≠ 2 → q.ended = false → gen ∉ q.cut → t.strands = s.strands) ∧
      (∀ j, j ≠ queue → t.queue j = s.queue j) ∧
      (q.ended = false → gen ∉ q.cut → q.coalesce = false → (∀ x ∈ e :: es.take e.batch, x.tag = 0) → q.held = [] → q.round = [] →
        t.queue queue = some { q with transit := left, ring := q.ring ++ e :: es.take e.batch }) ∧
      (q.ended = true → t.queue queue = some { q with
        transit := left, cut := (gen :: q.cut).dedup, returning := q.returning + (e :: es.take e.batch).length })) ∧
  (∀ s queue q, s.queue queue = some q → 0 < q.returning →
    let ws := q.waiters.filter (stillWaits s)
    (ws = [] → exec (.creditReturn queue) s = .next (s.setQueue queue { q with
      returning := q.returning - 1, credits := q.credits + 1, waiters := [] })) ∧
    (ws ≠ [] → ∃ w, NextInTurn ws q.lastRank w ∧ exec (.creditReturn queue) s = .next (s.setQueue queue { q with
      returning := q.returning - 1, grants := q.grants ++ [w.gen], waiters := ws.erase w, lastRank := w.rank }))) ∧
  (∀ s core slot st others till, s.strand core slot = some st → st.wait = some (.yielding others till) →
    till ≤ s.clk ∨ others = some [] →
    exec (.yieldExpiry core slot) s = .next (s.setStrand core slot { st with wait := none })) ∧
  (∀ s core slot st c, s.strand core slot = some st → slot < 16 → st.since = some c → c + 256 ≤ s.clk →
    exec (.agedLevel core slot) s = .next (s.setStrand core slot { st with aged := true })) ∧
  (∀ s core a b, a ∈ candidates s core → b ∈ candidates s core →
    (issueClass s core a < issueClass s core b → Before (candidates s core) a b) ∧
    (2 ≤ issueClass s core a → issueClass s core a = issueClass s core b → ∀ st, s.strand core a = some st →
      let turn := (s.core core).turns.get 0 (if st.aged then 4 else st.level)
      (turn ≤ a ∧ b < turn) ∨ (a < b ∧ (turn ≤ a ↔ turn ≤ b)) → Before (candidates s core) a b))

namespace Sys2Proof.Claims

/-- A state whose issuing core has the translations of some ranges in its L1 TLB, by their first and last bytes (R334). -/
def touchedBy (s : State) (cx : Ctx) (rs : List (Word × Nat)) : State := rs.foldl (fun s r => touchEnds s cx.core r.1 r.2) s

/-- A command completes at once: the status word (ok, or a cause), its counter, and nothing else (R238). It waits while cp stands at
63 (R219). `s0` is the state as the checks of its ranges leave it. -/
def EndsAtOnce (i : Instr) (s s0 : State) (cx : Ctx) (r : Reg) (cn : Option (BitVec 4)) (status : Word) (pc : Word) : Prop :=
  (cx.st.cp < 63 → Completes i s cx (usesOf s cx i)
    { s := s0, st := cx.st.complete (cn.map BitVec.toNat), xs := [(r, status)] } pc) ∧
  (63 ≤ cx.st.cp → Waits i s)

/-- The status word of a cause, not ok, no bytes moved (R238). -/
def failed (cause : Nat) : Word := BitVec.ofNat 64 (2 * cause)

/-- A command is accepted: it joins the operations of its core with its range-lock entries, class cp rises by 1, its status register
is owed, and nothing else changes (R207, R219, R238). It waits while cp stands at 63 or the table has too few free entries. `s0` is
the state as the checks of its ranges leave it. -/
def Accepts (i : Instr) (s s0 : State) (cx : Ctx) (o : EngineOp) (locks : List RangeLock) (pc : Word) : Prop :=
  (∀ c, cx.st.cp < 63 → takeLocks (s0.core cx.core) locks = some c →
    Completes i s cx (usesOf s cx i)
      { s := s0.setCore cx.core { c with ops := c.ops ++ [o], nextOp := c.nextOp + 1 }
        st := { cx.st with cp := cx.st.cp + 1, nextSeq := cx.st.nextSeq + 1,
                           owed := if o.reg = 0 then cx.st.owed else cx.st.owed ++ [o.reg] } } pc) ∧
  (63 ≤ cx.st.cp ∨ takeLocks (s0.core cx.core) locks = none → Waits i s)

/-- The bounds and rights of a whole range pass when the command is issued (R238). -/
def RangeGood (s : State) (cx : Ctx) (write : Bool) (a : Word) (n : Nat) : Prop :=
  rangeCheck s (partyOf cx.core cx.st) write a n = .ok ()

/-- A word of the strand's scratchpad. -/
def padWord (s : State) (cx : Ctx) (o : Nat) : Word :=
  BitVec.ofNat 64 (little (fun k => (s.core cx.core).spad.get 0 (padPlace cx.st 0 (o + k))) 8)

/-- Bits [hi : lo] of a word. -/
def field (w : Word) (hi lo : Nat) : Nat := w.toNat >>> lo % 2 ^ (hi + 1 - lo)

/-- The range-lock entry of a command's source (R207). -/
def sourceLock (o : EngineOp) (spad : Bool) (a : Word) (n : Nat) : RangeLock :=
  if spad then spadRange o 2 false a.toNat n else memRange o 2 false a n

end Sys2Proof.Claims

/-- copy and send that are ready complete at once with ok for a length of 0, and with cause 1 for a length of 2^32 or
more; copy also with cause 1 when source and destination ranges of one object overlap; send with cause 1 for a
descriptor word with a reserved bit set or a block size or destination count that R243 forbids, and with cause 2 when
no launch holds the core or no destination has a live instance. A range whose check fails at issue traps by its first
failing check. Otherwise the operation is accepted, with a range-lock entry for its source and, for a copy onto its
own die, its destination. Besides, only the L1 TLB may have copied the translations of the ranges that passed. Which
slot of a parked strand wpN shows is free (log 25). (R207, R238, R241, R242, R243, R245, R334) -/
def Obligations.CopyAndSendBegin : Prop :=
  (∀ r src dst len pkg scope spad cn s cx pc,
    let i := Instr.copy (.x r) src dst len pkg scope spad cn
    Ready s cx (usesOf s cx i) → pc = successor s.cursor.header cx.st.pc →
    let n := (readReg s cx len).toNat
    let a := readReg s cx src
    let b := readReg s cx dst
    let p := packageNamed s cx pkg
    let meet := spad = false ∧ p = none ∧ oidOf a = oidOf b ∧ offOf a < offOf b + n ∧ offOf b < offOf a + n
    (n = 0 → EndsAtOnce i s s cx (.x r) cn 1 pc) ∧
    (2 ^ 32 ≤ n → EndsAtOnce i s s cx (.x r) cn (failed 1) pc) ∧
    (0 < n → n < 2 ^ 32 →
      (∀ c v, spad = false → rangeCheck s (partyOf cx.core cx.st) false a n = .error (.trap c v) → CanTrap s cx → TrapsAt i s cx c v) ∧
      (∀ c v, spad = true ∨ RangeGood s cx false a n → p = none →
        rangeCheck s (partyOf cx.core cx.st) true b n = .error (.trap c v) → CanTrap s cx → TrapsAt i s cx c v) ∧
      ((spad = false → RangeGood s cx false a n) → (p = none → RangeGood s cx true b n) →
        let s0 := touchedBy s cx ((if spad then [] else [(a, n)]) ++ if p.isSome then [] else [(b, n)])
        (meet → EndsAtOnce i s s0 cx (.x r) cn (failed 1) pc) ∧
        (¬meet →
          let o := { newOp (operandsOf s cx) .copy (.x r) cn scope with src := a, fromSpad := spad, dst := b, len := n, pkg := p }
          Accepts i s s0 cx o (sourceLock o spad a n ::
            if p.isNone && onDie s0 cx.core b n then [memRange o 2 true b n] else []) pc)))) ∧
  (∀ r src len dest arr scope spad slab swz cn s cx pc,
    let i := Instr.send (.x r) src len dest arr scope spad slab swz cn
    Ready s cx (usesOf s cx i) → pc = successor s.cursor.header cx.st.pc →
    let n := (readReg s cx len).toNat
    let a := readReg s cx src
    let w := readReg s cx arr
    let at0 := (readReg s cx dest).toNat
    let w0 := if slab then padWord s cx at0 else readReg s cx dest
    let w1 := padWord s cx (at0 + 8)
    let w2 := padWord s cx (at0 + 16)
    let bad := if slab then field w0 63 51 ≠ 0 ∨ field w0 15 8 ≠ 0 ∨ field w1 63 32 ≠ 0 ∨ field w2 63 19 ≠ 0 ∨
        padWord s cx (at0 + 24) ≠ 0 ∨ field w0 47 32 = 0 ∨ field w1 31 0 % 64 ≠ 0 ∨ field w1 31 0 < 64 ∨ 2 ^ 20 < field w1 31 0
      else field w0 63 56 ≠ 0 ∨ field w0 28 19 ≠ 0
    (n = 0 → EndsAtOnce i s s cx (.x r) cn 1 pc) ∧
    (2 ^ 32 ≤ n → EndsAtOnce i s s cx (.x r) cn (failed 1) pc) ∧
    (0 < n → n < 2 ^ 32 → (CanTrap s cx → arr ≠ .x 0 → w.toNat % 8 ≠ 0 → TrapsAt i s cx .misaligned w) ∧
      (∀ c v, CanTrap s cx → (arr ≠ .x 0 → w.toNat % 8 = 0) → spad = false →
        rangeCheck s (partyOf cx.core cx.st) false a n = .error (.trap c v) → TrapsAt i s cx c v) ∧
      (∀ c v, CanTrap s cx → arr ≠ .x 0 → w.toNat % 8 = 0 → (spad = false → RangeGood s cx false a n) →
        rangeCheck s (partyOf cx.core cx.st) true w 8 = .error (.trap c v) → TrapsAt i s cx c v) ∧
      ((arr ≠ .x 0 → w.toNat % 8 = 0 ∧ RangeGood s cx true w 8) → (spad = false → RangeGood s cx false a n) →
        (slab = true → 32 ≤ cx.st.spadSize ∧ ∀ k < 32, padPlace cx.st 0 (at0 + k) ∉ (s.core cx.core).bad) →
        let s0 := touchedBy s cx ((if spad then [] else [(a, n)]) ++ if arr = .x 0 then [] else [(w, 8)])
        (bad → EndsAtOnce i s s0 cx (.x r) cn (failed 1) pc) ∧
        (¬bad → launchOf s cx.core = none → EndsAtOnce i s s0 cx (.x r) cn (failed 2) pc) ∧
        (∀ l, ¬bad → launchOf s cx.core = some l →
          let part := (partOf s cx.core).getD 0
          let found := if slab then sendDests s0 part l.lid (field w0 7 0) (field w0 50 48) (field w0 31 16) (field w0 47 32) (field w1 31 0)
              (field w2 18 0) n
            else sendDests s0 part l.lid (field w0 55 48) (field w0 31 29) (field w0 47 32) 1 n (field w0 18 0) n
          (found.1 = [] → EndsAtOnce i s s0 cx (.x r) cn (failed 2) pc) ∧
          (found.1 ≠ [] →
            let o := { newOp (operandsOf s cx) .send (.x r) cn scope with
              src := a, fromSpad := spad, len := n, arr := if arr = .x 0 then 0 else w, swz := swz.toNat, dests := found.1,
              cause := if found.2 then 2 else 0 }
            Accepts i s s0 cx o [sourceLock o spad a n] pc)))))

/-- refs that is ready waits while the core's reference engines (one on a dense core, two on a sparse one) are all
taken; it completes at once with cause 1 when its ring word has a reserved bit set or names a ring of a forbidden
size, and is otherwise accepted with its two queues, its size and, in the row form, its ring range-locked as written.
sread and swrite complete at once: ok for a count of 0, cause 1 for a reserved handle bit or a count above 65,536,
cause 7 for a namespace that the core's partition cannot reach, cause 6 past its last block; otherwise they are
accepted. Besides, only the L1 TLB may have copied the translations of a range that passed. (R207, R238, R246, R249,
R334) -/
def Obligations.StreamsAndStorageBegin : Prop :=
  (∀ r base qi qo ring row par cn s cx pc p q,
    let i := Instr.refs (.x r) base (.q qi) (.q qo) ring row par cn
    Ready s cx (usesOf s cx i) → pc = successor s.cursor.header cx.st.pc →
    portOf cx.st qi.val = some p → portOf cx.st qo.val = some q →
    let w := readReg s cx ring
    let size := if row then 8 * (par.toNat % 512 + 1) else 2 ^ (par.toNat % 4)
    let bad := row = true ∧ (field w 63 37 ≠ 0 ∨ field w 31 19 ≠ 0 ∨ field w 36 32 < 12 ∨ 19 < field w 36 32 ∨
      cx.st.spadSize < 2 ^ field w 36 32 ∨ 2 ^ field w 36 32 / size < 2)
    let free := ((s.core cx.core).ops.filter fun o => o.kind == .refs).length < (if isDense cx.core then 1 else 2)
    (¬free → Waits i s) ∧
    (free → bad → EndsAtOnce i s s cx (.x r) cn (failed 1) pc) ∧
    (free → ¬bad →
      let o := { newOp (operandsOf s cx) .refs (.x r) cn .core with
        src := readReg s cx base, size := size, signed := !row && par.getLsbD 2, row := row, qin := p.queue, qout := q.queue, portIn := qi.val,
        ring := field w 18 0, slots := if row then 2 ^ field w 36 32 / size else 1 }
      Accepts i s s cx o (if row then [spadRange o 3 true (field w 18 0) (2 ^ field w 36 32)] else []) pc)) ∧
  (∀ r ns lba count mem cn write s cx pc,
    let i := if write then Instr.swrite (.x r) ns lba count mem cn else Instr.sread (.x r) ns lba count mem cn
    Ready s cx (usesOf s cx i) → pc = successor s.cursor.header cx.st.pc →
    let h := readReg s cx ns
    let cnt := (readReg s cx count).toNat
    let a := readReg s cx mem
    let port := field h 34 32
    let part := (partOf s cx.core).bind s.parts.find
    let reach := s.pkg.rootPorts.contains port = true ∧ ∃ p, part = some p ∧ p.ports.testBit port = true
    (cnt = 0 → EndsAtOnce i s s cx (.x r) cn 1 pc) ∧
    (cnt ≠ 0 → field h 63 35 ≠ 0 ∨ 65536 < cnt → EndsAtOnce i s s cx (.x r) cn (failed 1) pc) ∧
    (cnt ≠ 0 → field h 63 35 = 0 → cnt ≤ 65536 →
      (¬reach ∨ namespaceAt s port (field h 31 0) = none → EndsAtOnce i s s cx (.x r) cn (failed 7) pc) ∧
      (∀ n, reach → namespaceAt s port (field h 31 0) = some n → RangeGood s cx (!write) a (cnt * n.blockBytes) →
        let s0 := touchedBy s cx [(a, cnt * n.blockBytes)]
        (n.blocks < (readReg s cx lba).toNat + cnt → EndsAtOnce i s s0 cx (.x r) cn (failed 6) pc) ∧
        ((readReg s cx lba).toNat + cnt ≤ n.blocks →
          let o0 := newOp (operandsOf s cx) (if write then .swrite else .sread) (.x r) cn .core
          let o := { o0 with
            src := if write then a else o0.src, dst := if write then o0.dst else a, len := cnt * n.blockBytes, port := port,
            nsid := field h 31 0, lba := (readReg s cx lba).toNat, count := cnt }
          Accepts i s s0 cx o (if onDie s0 cx.core a (cnt * n.blockBytes) then [memRange o 4 (!write) a (cnt * n.blockBytes)] else [])
            pc))))

namespace Sys2Proof.Claims

/-- A core has an operation under a number, which may work on: it is not stopped, awaits no translation, its core is not
pre-empted or the sector is already begun, and every earlier acquire of its strand is performed (R196, R395). -/
structure Working (s : State) (core id : Nat) (o : EngineOp) : Prop where
  op : findOp s core id = some o
  may : opMayWork s core o = true

/-- An element that a reference stream pushes (R247). -/
def streamElem (o : EngineOp) (tag : Nat) (data : Word) : Elem :=
  { tag := tag, data := some data, gen := o.gen, rank := o.rank, seq := o.seq, engine := true }

/-- The range-lock entry of a transfer over its destination's scratchpad (R209). -/
def inboundLock (chan : Nat) (t : Transfer) (st : Strand) : RangeLock :=
  { index := 0, op := chanLock chan, written := true, spad := true, chan := some chan, slot := t.slot, engine := 5,
    first := t.off % st.spadSize, span := t.total - 1, base := st.spadBase, size := st.spadSize }

/-- A state but for what the watchdog notes of its launches (R290). -/
def Moved (t0 t : State) : Prop := t = { t0 with launches := t.launches }

/-- The head that a stream sees at its index queue (R247, R287). -/
def indexHead (s : State) (core : Nat) (o : EngineOp) : Option Elem := headForGen s core o.gen o.portIn o.qin

/-- The next sector of a transfer: its first byte and its length, at most 4 KiB (R239). -/
def sectorBytes (o : EngineOp) : Nat × Nat := (4096 * o.sector, min 4096 (o.len - 4096 * o.sector))

/-- A stop word (R239): bits [63:8] of an address, and the cause. -/
def stopAt (a : Word) (cause : Nat) : Word := (a >>> 8) <<< 8 ||| BitVec.ofNat 64 cause

/-- The sector in progress of an operation passes (R239, R245): `from_` are the cells of its source, none for a scratchpad or a
device, and `to_` those of its destination in this package, or of the arrival word of a send. -/
def SectorPasses (s : State) (core : Nat) (o : EngineOp) (from_ to_ : List Nat) : Prop :=
  let lo := (sectorBytes o).1
  let n := (sectorBytes o).2
  let dst := o.dst + BitVec.ofNat 64 lo
  (if o.kind = .sread then from_ = []
    else if o.fromSpad then from_ = [] ∧ spadBad (s.core core) o.spadBase o.spadSize 0 (o.src + BitVec.ofNat 64 lo).toNat n = none
    else accessCells s (partyOp core o) (if o.kind = .swrite then .any else .die) false false (o.src + BitVec.ofNat 64 lo) n = .ok from_ ∧
      ∀ c ∈ from_, isPoisoned s c = false) ∧
  (if o.kind = .copy ∨ o.kind = .sread then accessCells s (partyOp core o) .any true false dst n = .ok to_ ∧
      memLocked (s.core core) dst n (some o.id) = false
    else if o.kind = .send ∧ o.arr ≠ 0 then accessCells s (partyOp core o) .any true false o.arr 8 = .ok to_
    else to_ = [])

/-- The core of an operation with the translations of its sector in the L1 TLB (R334). -/
def sectorTouched (s : State) (core : Nat) (o : EngineOp) : State :=
  let lo := (sectorBytes o).1
  let n := (sectorBytes o).2
  let s1 := if o.fromSpad || o.kind == .sread then s else touchEnds s core (o.src + BitVec.ofNat 64 lo) n
  let s2 := if o.kind = .copy ∨ o.kind = .sread then touchEnds s1 core (o.dst + BitVec.ofNat 64 lo) n else s1
  if o.arr = 0 then s2 else touch s2 core o.arr

/-- A byte of a storage device that an sread transfers (R183, R249). -/
def deviceByte (s : State) (o : EngineOp) (i : Nat) : Byte :=
  let bb := ((namespaceAt s o.port o.nsid).map (·.blockBytes)).getD 512
  diskByte s o.port o.nsid (o.lba + i / bb) (i % bb)

/-- The source bytes of a beat, from memory or from the scratchpad of the issuing strand. -/
def beatBytes (s : State) (core : Nat) (o : EngineOp) (b : Nat) : List Byte :=
  if o.fromSpad then (List.range (min 64 (o.len - b))).map fun i =>
    (s.core core).spad.get 0 (padIn o.spadBase o.spadSize 0 (o.src.toNat + b + i))
  else (beatCells o o.srcCells b).map s.byteAt

/-- A source byte of a beat has an uncorrectable error (R240). -/
def BeatBad (s : State) (core : Nat) (o : EngineOp) (b : Nat) : Prop :=
  if o.fromSpad = true then ∃ i < min 64 (o.len - b), padIn o.spadBase o.spadSize 0 (o.src.toNat + b + i) ∈ (s.core core).bad
  else ∃ c ∈ beatCells o o.srcCells b, isPoisoned s c = true

end Sys2Proof.Claims

/-- A copy, send, sread or swrite begins its next sector once its source, destination or arrival word pass; each beat
is then read, once the strand's earlier accesses let it be, and written at a destination in memory, in any order; with
its last beat read a send's sector leaves as beats for its destinations, and a swrite's blocks are written. A
destination that another operation has registered stops a copy with RANGE_LOCKED, a source error stops it for good
with MEM_UNCORRECTABLE, at the start of the sector in progress. A waiting transfer starts on a free channel,
range-locked as written. A beat is written at the channel's write pointer, swizzled, and leaves its add; the last one
ends the transfer. Adds are performed in any order, each a release of the strand at the send's scope. A stream has up
to 256 references in flight: it takes up an index, reads what it names line by line, and pops the oldest index and
pushes the value or the row's offset; tokens pass, and eos completes it. A finished operation leaves its core,
releases its range locks, and gives its strand the status word (for x0: discarded), the counter and cp less 1. The
model's choices: the error mark of a byte written over goes (log 107); an index's reference is taken up again after a
pre-emption, and the ring tested at the push (log 89). (R207, R209, R210, R211, R238, R239, R241, R243, R244, R247,
R248, R249) -/
def Obligations.EngineSteps : Prop :=
  (∀ s core id k o (from_ to_ : List Nat), Working s core id o → o.kind ≠ .refs → o.pkg = none → o.cause ∉ [4, 8, 11] →
    o.unread = [] → o.flight = [] → 4096 * o.sector < o.len → SectorPasses s core o from_ to_ →
    let lo := (sectorBytes o).1
    let n := (sectorBytes o).2
    let beats := (List.range ((n + 63) / 64)).map fun i => lo + 64 * i
    exec (.sectorStep core ⟨id, k⟩) s = .next (setOp (sectorTouched s core o) core { o with
      sector := o.sector + 1, wait := none, srcCells := from_
      dstCells := if o.kind = .copy ∨ o.kind = .sread then to_ else [], arrCells := if o.kind = .send then to_ else []
      bytes := if o.kind = .send then o.bytes else lo
      unread := if o.kind = .sread then [] else beats
      flight := if o.kind = .sread then beats.map fun b =>
        (b, (List.range (min 64 (lo + n - b))).map fun i => deviceByte s o (b + i)) else [] })) ∧
  (∀ s core id o b, Working s core id o → o.kind = .copy ∨ o.kind = .send ∨ o.kind = .swrite → o.pkg = none → o.cause ∉ [4, 8, 11] →
    b ∈ o.unread → ¬BeatBad s core o b → opMayRead s core o (o.src + BitVec.ofNat 64 b) (min 64 (o.len - b)) = true →
    let lo := 4096 * (o.sector - 1)
    let data := gather (o.flight ++ [(b, beatBytes s core o b)]) (beatsAt lo 4096)
    let out := (o.dests.filter fun d => !d.ended).map fun d => (d, beatsOf (shareOf d lo data) o.arrCells)
    ∃ k t, exec (.sectorStep core ⟨id, k⟩) s = .next t ∧
      (o.kind = .copy ∨ o.unread.erase b ≠ [] → Moved (setOp s core { o with
        unread := o.unread.erase b, flight := o.flight ++ [(b, beatBytes s core o b)] }) t) ∧
      (o.kind = .send → o.unread.erase b = [] → beatRoom s o lo data = true →
        Moved ((out.filter fun p => !p.2.isEmpty).foldl (fun s p => putBeats s core o p.1 p.2) (setOp s core { o with
          unread := [], flight := []
          adds := o.adds + (out.map fun p => (p.2.filter fun b => !b.arr.isEmpty).length).sum })) t) ∧
      (∀ n, o.kind = .swrite → o.unread.erase b = [] → namespaceAt s o.port o.nsid = some n → 0 < n.blockBytes →
        n.blockBytes ∣ 4096 → n.blockBytes ∣ data.length → t.mem = s.mem ∧ t.strands = s.strands ∧
        findOp t core id = some { o with unread := [], flight := [], bytes := o.bytes + data.length } ∧
        ∀ i < data.length, deviceByte t o (lo + i) = data.getD i 0)) ∧
  (∀ s core id o b bytes, Working s core id o → o.kind = .copy ∨ o.kind = .sread → o.pkg = none → o.cause ∉ [4, 8, 11] →
    (b, bytes) ∈ o.flight → memLocked (s.core core) (o.dst + BitVec.ofNat 64 b) (min 64 (o.len - b)) (some o.id) = false →
    opMayWrite s core o (o.dst + BitVec.ofNat 64 b) bytes.length = true →
    ∃ k t0 t, exec (.sectorStep core ⟨id, k⟩) s = .next t ∧
      Stored (setOp s core { o with flight := o.flight.filter (fun f => f.1 != b), bytes := o.bytes + bytes.length })
        ((beatCells o o.dstCells b).zip bytes) t0 ∧ Moved t0 t) ∧
  (∀ s core id o, Working s core id o → o.kind = .copy → o.cause = 0 → o.pkg = none → o.lost = false →
    let lo := (sectorBytes o).1
    let n := (sectorBytes o).2
    (∀ from_ to_ : List Nat, o.unread = [] → o.flight = [] → 4096 * o.sector < o.len → o.fromSpad = false →
      accessCells s (partyOp core o) .die false false (o.src + BitVec.ofNat 64 lo) n = .ok from_ →
      (∀ c ∈ from_, isPoisoned s c = false) → accessCells s (partyOp core o) .any true false (o.dst + BitVec.ofNat 64 lo) n = .ok to_ →
      memLocked (s.core core) (o.dst + BitVec.ofNat 64 lo) n (some o.id) = true →
      (∀ k, exec (.sectorStep core ⟨id, k⟩) s = .next s) ∧
      exec (.engineStop core id) s = .next (setOp s core { o with stop := some (stopAt (o.dst + BitVec.ofNat 64 lo) 0x0E) })) ∧
    (∀ b bytes, (b, bytes) ∈ o.flight → (∀ c ∈ o.unread, ¬BeatBad s core o c) →
      memLocked (s.core core) (o.dst + BitVec.ofNat 64 b) (min 64 (o.len - b)) (some o.id) = true →
      exec (.engineStop core id) s = .next (setOp s core { o with
        unread := [], flight := [], sector := o.sector - 1
        stop := some (stopAt (o.dst + BitVec.ofNat 64 (4096 * (o.sector - 1))) 0x0E) })) ∧
    (∀ b ∈ o.unread, BeatBad s core o b →
      exec (.engineStop core id) s = .next (setOp s core { o with
        unread := [], flight := [], sector := o.sector - 1, dead := true
        stop := some (stopAt (o.src + BitVec.ofNat 64 (4096 * (o.sector - 1))) 0x13) }))) ∧
  (∀ s core chan t0 rest place st c, (s.core core).preempted = false → ((s.core core).channels.get {} chan).busy = false →
    ((s.core core).channels.get {} chan).waiting = t0 :: rest → s.liveGen core t0.gen = some (place, st) → t0.total ≤ st.spadSize →
    takeLocks (s.core core) [inboundLock chan t0 st] = some c →
    exec (.channelTransferStart core chan) s = .next (s.setCore core { c with
      channels := c.channels.insert chan { (s.core core).channels.get {} chan with
        busy := true, slot := t0.slot, stop := t0.off + t0.total, wp := t0.off, current := some t0, waiting := rest } })) ∧
  (∀ s core chan t0 b more place st, (s.core core).preempted = false →
    ((s.core core).channels.get {} chan).current = some t0 → t0.beats = b :: more → s.liveGen core t0.gen = some (place, st) →
    let h := (s.core core).channels.get {} chan
    let n := b.bytes.length
    n ≤ st.spadSize → beatLet s h t0 st.spadSize n = true → h.wp + n < h.stop ∨ more = [] →
    let h' : Channel := { h with
      wp := h.wp + n, current := some { t0 with beats := more }
      adds := if b.arr = [] then h.adds else h.adds ++ [{
        srcCore := t0.srcCore, op := t0.op, issuer := t0.issuer, arr := t0.arr
        cells := b.arr, count := n, scope := t0.scope, depth := t0.depth }] }
    ∃ t, exec (.beatDelivery core ⟨chan, 0⟩) s = .next t ∧ t.mem = s.mem ∧ t.strands = s.strands ∧
      (h.wp + n < h.stop → (t.core core).channels.get {} chan = h' ∧
        ∀ o, findOp s t0.srcCore t0.op = some o → findOp t t0.srcCore t0.op = some { o with bytes := o.bytes + n }) ∧
      (h.stop ≤ h.wp + n → (t.core core).channels.get {} chan = { h' with busy := false, current := none } ∧
        (∀ l ∈ (t.core core).locks, l.op ≠ chanLock chan) ∧
        ∀ o, findOp s t0.srcCore t0.op = some o → findOp t t0.srcCore t0.op = some { o with
          bytes := o.bytes + n, dests := o.dests.map fun d => if d.d = t0.dest then { d with ended := true } else d }) ∧
      (∀ k < n, (t.core core).spad.get 0 (padPlace st t0.swz (h.wp + k)) = b.bytes.getD k 0) ∧
      (∀ p, (∀ k < n, p ≠ padPlace st t0.swz (h.wp + k)) → (t.core core).spad.get 0 p = (s.core core).spad.get 0 p) ∧
      (∀ p, p ∈ (t.core core).bad ↔ p ∈ (s.core core).bad ∧ ∀ k < n, p ≠ padPlace st t0.swz (h.wp + k))) ∧
  (∀ s core chan a, a ∈ ((s.core core).channels.get {} chan).adds → a.cells.length = 8 → (∀ c ∈ a.cells, isPoisoned s c = false) →
    addLet s a = true →
    ∃ k t0 t, exec (.beatDelivery core ⟨chan, k⟩) s = .next t ∧ t0.mem = s.mem ∧ t0.strands = s.strands ∧ t0.queues = s.queues ∧
      ((t0.core core).channels.get {} chan).adds = ((s.core core).channels.get {} chan).adds.erase a ∧
      Stored t0 (writesOf a.cells fun j =>
        BitVec.ofNat 8 ((little (fun i => s.byteAt (a.cells.getD i 0)) 8 + a.count) / 256 ^ j)) t) ∧
  (∀ s core id o e qo, Working s core id o → o.kind = .refs → indexHead s core o = some e → s.queue o.qout = some qo →
    (e.tag = 0 → inFlight s core o = o.fetches →
      (∀ x (cells : List Nat), (s.core core).preempted = false → o.fetches.length < 256 →
        (streamIndices s core o)[o.fetches.length]? = some x → x.bad = false →
        let a := o.src + x.data.getD 0 * BitVec.ofNat 64 o.size
        accessCells s (partyOp core o) .die false false a o.size = .ok cells →
        ∃ k, exec (.referencePop core ⟨id, k⟩) s = .next (setOp (touchEnds s core a o.size) core { o with
          wait := none, fetches := o.fetches ++ [{ idx := x.data.getD 0, cells := cells, unread := linesOf cells }] })) ∧
      (∀ j f b, o.fetches[j]? = some f → b ∈ f.unread → (∀ c ∈ lineCells f.cells b, isPoisoned s c = false) →
        opMayRead s core o (o.src + f.idx * BitVec.ofNat 64 o.size) o.size = true →
        ∃ k, exec (.referencePop core ⟨id, k⟩) s = .next (setOp s core { o with fetches := o.fetches.set j { f with
          unread := f.unread.erase b, flight := f.flight ++ [(b, (lineCells f.cells b).map s.byteAt)] } })) ∧
      (∀ f rest, o.fetches = f :: rest → f.unread = [] → 0 < creditsOf qo o.gen →
        let p := (o.ring + o.placed % o.slots * o.size) % o.spadSize
        let bytes := gather f.flight (linesOf f.cells)
        bytes.length = o.size → o.size ≤ o.spadSize →
        (o.row = true → rowsOut s o ≤ o.slots - 2 ∧ spadLocked (s.core core) o.spadBase o.spadSize p o.size (some o.id) = false) →
        ∃ k t, exec (.referencePop core ⟨id, k⟩) s = .next t ∧ t.mem = s.mem ∧
          findOp t core id = some { o with placed := o.placed + 1, bytes := o.bytes + o.size, fetches := rest } ∧
          t.queues = (sendElem (popForGen s core o.gen o.portIn o.qin) o.qout (streamElem o 0
            (if o.row then BitVec.ofNat 64 p else widened o.size o.signed (little (fun k => bytes.getD k 0) o.size)))).queues ∧
          (o.row = false → (t.core core).spad = (s.core core).spad) ∧
          (o.row = true → ∀ k < o.size, (t.core core).spad.get 0 (o.spadBase + (p + k) % o.spadSize) = bytes.getD k 0))) ∧
    (e.tag ≠ 0 → e.bad = false → 0 < creditsOf qo o.gen → ∀ k, ∃ t, exec (.referencePop core ⟨id, k⟩) s = .next t ∧ t.mem = s.mem ∧
      t.queues = (sendElem (popForGen s core o.gen o.portIn o.qin) o.qout (streamElem o e.tag (e.data.getD 0))).queues ∧
      (e.tag = 4 → ∀ p ∈ (t.core core).ops, p.id ≠ o.id))) ∧
  (∀ s core id o e, Working s core id o → o.kind = .refs → indexHead s core o = some e →
    let stops := fun (cause : Nat) (dead : Bool) => setOp s core { o with
      fetches := [], stop := some (stopAt ((e.data.getD 0) <<< 8) cause), dead := dead }
    (e.bad = true → exec (.referenceStop core id) s = .next (stops 0x13 true)) ∧
    (∀ c v, e.bad = false → e.tag = 0 → inFlight s core o = [] →
      accessCells s (partyOp core o) .die false false (o.src + e.data.getD 0 * BitVec.ofNat 64 o.size) o.size = .error (.trap c v) →
      exec (.referenceStop core id) s = .next (stops c.code false)) ∧
    (∀ f rest, e.bad = false → e.tag = 0 → inFlight s core o = f :: rest →
      ((∃ b ∈ f.unread, ∃ c ∈ lineCells f.cells b, isPoisoned s c = true) → exec (.referenceStop core id) s = .next (stops 0x13 true)) ∧
      (f.unread = [] → o.row = true → rowsOut s o ≤ o.slots - 2 →
        spadLocked (s.core core) o.spadBase o.spadSize ((o.ring + o.placed % o.slots * o.size) % o.spadSize) o.size (some o.id) = true →
        exec (.referenceStop core id) s = .next (stops 0x0E false)))) ∧
  (∀ i s core id o (ok : Bool) cause detail place st, findOp s core id = some o → s.byGen core o.gen = some (place, st) →
    (s.core core).preempted = false → o.lost = false →
    let moved := o.len ≤ 4096 * o.sector ∧ o.unread = [] ∧ o.flight = []
    ((i = .engineComplete core id 0 ∧ o.kind = .copy ∧ o.pkg = none ∧ o.stop = none ∧ moved ∧ ok = true ∧ cause = 0 ∧ detail = 0) ∨
      (∃ p ext, i = .engineComplete core id ext ∧ o.kind = .copy ∧ o.pkg = some p ∧
        ((peerReaches s core p = false ∧ ok = false ∧ cause = 2 ∧ detail = 0) ∨
          (peerReaches s core p = true ∧ ext ≠ 0 ∧ ok = false ∧ cause = 3 ∧ detail = 0) ∨
          (peerReaches s core p = true ∧ ext = 0 ∧ o.stop = none ∧ moved ∧ ok = true ∧ cause = 0 ∧ detail = 0))) ∨
      (i = .engineComplete core id 0 ∧ o.kind = .send ∧ o.pkg = none ∧ o.stop = none ∧ moved ∧ o.adds = 0 ∧
        (∀ d ∈ o.dests, d.ended = true) ∧ ok = decide (o.cause = 0) ∧ cause = o.cause ∧ detail = 0) ∨
      (∃ status, i = .storageComplete core id status ∧ (o.kind = .sread ∨ o.kind = .swrite) ∧
        ((o.cause ≠ 0 ∧ ok = false ∧ cause = o.cause ∧ detail = 0) ∨
          (o.cause = 0 ∧ status % 2048 ≠ 0 ∧ ok = false ∧ cause = 5 ∧ detail = status % 2048) ∨
          (o.cause = 0 ∧ status % 2048 = 0 ∧ moved ∧ ok = true ∧ cause = 0 ∧ detail = 0)))) →
    exec i s = .next ((s.setCore core { s.core core with
        ops := (s.core core).ops.filter (fun p => p.id != o.id)
        locks := (s.core core).locks.filter fun l => l.op != o.id }).setStrand
      core place { (st.deliverX o.reg (put (o.bytes % 2 ^ 32) 32 ||| put detail 8 ||| put cause 1 ||| if ok then 1 else 0)).complete o.cn with
        cp := st.cp - 1 }))

namespace Sys2Proof.Claims

/-- The handle, the coordinate word and whether a volume instruction needs the write right (R251). -/
def volumeUse : Instr → Option (Reg × Reg × Bool)
  | .ldc _ h c _ | .ldcv _ h c | .cprobe _ h c => some (h, c, false)
  | .stc _ h c | .stcv _ h c | .ctrim h c => some (h, c, true)
  | _ => none

/-- A handle names a volume entry of the translations of the strand's core. -/
structure Handle (s : State) (cx : Ctx) (h : Word) (e : TlbEntry) : Prop where
  id : oidOf h ≠ 0 ∧ oidOf h ≠ 0xFFFF
  page : pageState s (partyOf cx.core cx.st) (BitVec.ofNat 64 (oidOf h * 2 ^ 48)) = .entry e

/-- The state with the translation of a handle in the L1 TLB of the strand's core (R334). -/
def handled (s : State) (cx : Ctx) (h : Word) : State := touch s cx.core (BitVec.ofNat 64 (oidOf h * 2 ^ 48))

/-- A coordinate of a volume that the instruction may reach (R251, checks 1 to 4): the volume is `d` with object id `oid`. -/
structure VolumeGood (s : State) (cx : Ctx) (h c : Word) (write : Bool) (d : Volume) : Prop where
  handle : ∃ e k, Handle s cx h e ∧ e.kind = 1 ∧ (if write then e.wr else e.rd) = true ∧ cellAt s e.pbase = some k ∧
    memberOf k = dieOf cx.core ∧ isPoisoned s k = false ∧ d = readVolume s e.pbase
  valid : d.valid = true
  range : ∀ k < 4, d.coord c k < d.extent.getD k 0
  high : c.toNat < 2 ^ d.fieldAt 4

/-- Where the walk of a coordinate ends when the CLB holds no tile for it (R348, R350). -/
def walked (s : State) (cx : Ctx) (d : Volume) (c : Word) : Walk := walk s (dieOf cx.core) d (d.key c) d.depth 0 d.root

/-- The tile that a load finds, and the state with the translation in the CLB (R350, R353). -/
def LoadFinds (s : State) (cx : Ctx) (h : Word) (d : Volume) (c : Word) (t : Nat) (s' : State) : Prop :=
  (clbTile (s.core cx.core) (oidOf h) (d.key c) = some t ∧ s' = s) ∨
  (clbTile (s.core cx.core) (oidOf h) (d.key c) = none ∧ (∃ slot, walked s cx d c = .leaf slot (.present t)) ∧
    s' = clbFill s cx.core (oidOf h) (d.key c) t)

/-- The tile that a store finds when it has no tile in hand that it took for an absent entry, and the state with the translation in the CLB (R351, R353). -/
def StoreFinds (s : State) (cx : Ctx) (h : Word) (d : Volume) (c : Word) (t : Nat) (s' : State) : Prop :=
  cx.st.work = none ∧
  ((clbTile (s.core cx.core) (oidOf h) (d.key c) = some t ∧ s' = s) ∨
  (clbTile (s.core cx.core) (oidOf h) (d.key c) = none ∧
    grow s (dieOf cx.core) d (d.key c) d.depth 0 d.root = .tile t ∧ s' = clbFill s cx.core (oidOf h) (d.key c) t))

/-- An instruction that has not yet retired leaves the strand as `st`, memory as `m` and the queues and cores as in `u`, and waits to
be issued again. -/
def Steps (i : Instr) (s u : State) (cx : Ctx) (st : Strand) (m : List Host.Cell) : Prop :=
  ∃ t, exec i s = .next t ∧ t.cursor.stalled = true ∧ t.mem = m ∧ t.strand cx.core cx.slot = some st ∧ t.queues = u.queues ∧
    t.cores = u.cores

/-- The ctrim in hand of a strand is the one at its program counter, as `r`; `performed` says whether its trim is (R354). -/
def InHand (cx : Ctx) (r : Trimming) (performed : Bool) : Prop := trimHere cx.st = some r ∧ trimDone cx.st r = performed

/-- The tile of a coordinate is absent: the walk meets an ABSENT entry at some level (R349). -/
def AbsentTile (s : State) (cx : Ctx) (h : Word) (d : Volume) (c : Word) : Prop :=
  clbTile (s.core cx.core) (oidOf h) (d.key c) = none ∧
    (walked s cx d c = .absent ∨ ∃ slot, walked s cx d c = .leaf slot .absent)

/-- A run of 64 bytes passes R252. -/
def RunGood (d : Volume) (c : Word) : Prop :=
  d.coord c 0 + 64 / d.elem ≤ d.extent.getD 0 0 ∧ 64 ≤ 2 ^ d.ts.getD 0 0 * d.elem ∧ d.coord c 0 % (64 / d.elem) = 0

/-- The background value of a volume as E bytes, repeated from byte 0. -/
def backgroundByte (d : Volume) (k : Nat) : Byte := BitVec.ofNat 8 (d.background.toNat / 256 ^ (k % d.elem))

end Sys2Proof.Claims

/-- A volume instruction that is ready traps OBJ_BOUNDS for handle id 0, OBJ_PERMISSION when the object is no volume
or lacks the right, VOL_REMOTE (with the handle) when the volume is homed elsewhere, VOL_RANGE (with the coordinate
word) past an extent or the summed widths, and for ldcv and stcv VOL_RANGE or MISALIGNED by R252; a descriptor with an
uncorrectable error traps with the coordinate word (log 101). Otherwise ldc and ldcv begin a load of the element or
run in its tile, or give the background value when the tile is absent; stc and stcv begin a store of exactly the bytes
in the tile that they find; at an absent entry they take and fill a tile, or trap VOL_POOL_EMPTY, then publish it as a
release, or give it back when another store was first, and walk again. cprobe writes 0, 1 or 2 and allocates nothing.
ctrim waits until the st count is 0, leaves an absent tile alone and makes a present one BUSY, its operands taken then
(log 99); the trim is performed as a release once no access of the die reaches the tile (ABSENT, and the tile in the
pool), and the ctrim retires after it. The handle's translation enters the L1 TLB (R334). (R185, R217, R218, R251,
R252, R253, R334, R350, R351, R352, R353, R354) -/
def Obligations.VolumeInstructions : Prop :=
  (∀ i h c w s cx, volumeUse i = some (h, c, w) → Ready s cx (usesOf s cx i) → CanTrap s cx →
    (∀ x y, i = .ctrim x y → trimHere cx.st = none ∧ cx.st.st = 0) →
    (oidOf (readReg s cx h) = 0 → TrapsAt i s cx .objBounds (readReg s cx h)) ∧
    (∀ e, Handle s cx (readReg s cx h) e → ¬(e.kind = 1 ∧ (if w then e.wr else e.rd) = true) →
      TrapsAt i s cx .objPermission (readReg s cx h)) ∧
    (∀ e k, Handle s cx (readReg s cx h) e → e.kind = 1 → (if w then e.wr else e.rd) = true → cellAt s e.pbase = some k →
      (memberOf k ≠ dieOf cx.core → TrapsAt i s cx .volRemote (readReg s cx h)) ∧
      (memberOf k = dieOf cx.core → isPoisoned s k = true → TrapsAt i s cx .memUncorrectable (readReg s cx c)) ∧
      (memberOf k = dieOf cx.core → isPoisoned s k = false → (readVolume s e.pbase).valid = true →
        (∃ j < 4, (readVolume s e.pbase).extent.getD j 0 ≤ (readVolume s e.pbase).coord (readReg s cx c) j) ∨
          2 ^ (readVolume s e.pbase).fieldAt 4 ≤ (readReg s cx c).toNat →
        TrapsAt i s cx .volRange (readReg s cx c)))) ∧
  (∀ d h c sgn s cx pc vol, Ready s cx (usesOf s cx (.ldc d h c sgn)) → pc = successor s.cursor.header cx.st.pc →
    VolumeGood s cx (readReg s cx h) (readReg s cx c) false vol →
    let u := handled s cx (readReg s cx h)
    (AbsentTile u cx (readReg s cx h) vol (readReg s cx c) → cx.st.acquiring = false → cx.st.ld < 63 →
      Completes (.ldc d h c sgn) s cx (usesOf s cx (.ldc d h c sgn))
        { s := u, st := cx.st, xs := [(d, widened vol.elem sgn (little (backgroundByte vol) vol.elem))] } pc) ∧
    (∀ t s' cells, LoadFinds u cx (readReg s cx h) vol (readReg s cx c) t s' → cx.st.ld < 63 →
      cellsOnDie s' (dieOf cx.core) (t + vol.byteIn (readReg s cx c)) vol.elem = some cells →
      let r := reserve s' { cx.st with ld := cx.st.ld + 1 } d
      Completes (.ldc d h c sgn) s cx (usesOf s cx (.ldc d h c sgn))
        { s := r.1
          st := r.2.1.begin { noAccess (.load vol.elem sgn) with
            addr := readReg s cx c, spans := [(BitVec.ofNat 64 (oidOf (readReg s cx h) * 2 ^ 48), 0)],
            dest := r.2.2, reads := readsOf cells } } pc)) ∧
  (∀ vd h c s cx pc vol, Ready s cx (usesOf s cx (.ldcv vd h c)) → pc = successor s.cursor.header cx.st.pc →
    VolumeGood s cx (readReg s cx h) (readReg s cx c) false vol → RunGood vol (readReg s cx c) →
    let u := handled s cx (readReg s cx h)
    (AbsentTile u cx (readReg s cx h) vol (readReg s cx c) → cx.st.acquiring = false → cx.st.ld < 63 →
      Completes (.ldcv vd h c) s cx (usesOf s cx (.ldcv vd h c))
        { s := u, st := cx.st, vs := [(vd, BitVec.ofNat 512 (little (backgroundByte vol) 64))] } pc) ∧
    (∀ t s' cells, LoadFinds u cx (readReg s cx h) vol (readReg s cx c) t s' → cx.st.ld < 63 →
      cellsOnDie s' (dieOf cx.core) (t + vol.byteIn (readReg s cx c)) 64 = some cells →
      Completes (.ldcv vd h c) s cx (usesOf s cx (.ldcv vd h c))
        { s := s'
          st := { cx.st with ld := cx.st.ld + 1, owed := cx.st.owed ++ [64 + vd.val] }.begin { noAccess (.loadVec 64) with
            addr := readReg s cx c, spans := [(BitVec.ofNat 64 (oidOf (readReg s cx h) * 2 ^ 48), 0)],
            dest := .v vd.val, reads := readsOf cells, base := cx.st.v vd.val } } pc)) ∧
  (∀ i h c s cx pc vol n val, ((∃ r, i = .stc r h c ∧ n = vol.elem ∧ val = (readReg s cx r).toNat) ∨
      (∃ v, i = .stcv v h c ∧ n = 64 ∧ val = (cx.st.v v.val).toNat ∧ RunGood vol (readReg s cx c))) →
    Ready s cx (usesOf s cx i) → pc = successor s.cursor.header cx.st.pc →
    VolumeGood s cx (readReg s cx h) (readReg s cx c) true vol → cx.st.st < 63 →
    let u := handled s cx (readReg s cx h)
    (∀ t s' cells, StoreFinds u cx (readReg s cx h) vol (readReg s cx c) t s' →
      cellsOnDie s' (dieOf cx.core) (t + vol.byteIn (readReg s cx c)) n = some cells →
      Completes i s cx (usesOf s cx i)
        { s := s'
          st := { cx.st with st := cx.st.st + 1 }.begin { noAccess (.store n) with
            addr := readReg s cx c, spans := [(BitVec.ofNat 64 (oidOf (readReg s cx h) * 2 ^ 48), 0)],
            writes := writesOf cells fun j => BitVec.ofNat 8 (val / 256 ^ j) } } pc) ∧
    (∀ slot leaf, cx.st.work = none → clbTile (u.core cx.core) (oidOf (readReg s cx h)) (vol.key (readReg s cx c)) = none →
      grow u (dieOf cx.core) vol (vol.key (readReg s cx c)) vol.depth 0 vol.root = .absent slot leaf →
      poolOnDie u (dieOf cx.core) vol.pool 0 = true → poolPoisoned u vol.pool = false →
      (∀ a g, poolPop u vol.pool = some (a, g) → a % 4096 = 0 → a < 2 ^ 48 → tileOnDie g (dieOf cx.core) a = true →
        Steps i s u cx { cx.st with work := some (.tile (oidOf (readReg s cx h)) slot a vol.pool) }
          (physWrite g a (fillBytes vol leaf)).mem) ∧
      (poolPop u vol.pool = none → CanTrap s cx →
        ∃ t, exec i s = .next t ∧ Trapped u cx .volPoolEmpty 0 (readReg s cx c) t)) ∧
    (∀ oid slot a pool, cx.st.work = some (.tile oid slot a pool) →
      (readEntry u (dieOf cx.core) slot = .absent →
        (releaseReady u cx.core cx.st cx.st.nextSeq .die = true →
          Steps i s u cx { cx.st with work := none } (physWrite u slot (leBytes 8 (2 ^ 63 + a))).mem) ∧
        (releaseReady u cx.core cx.st cx.st.nextSeq .die = false → Waits i s)) ∧
      (readEntry u (dieOf cx.core) slot ≠ .absent → headerPoisoned u pool = false →
        Steps i s u cx { cx.st with work := none } (poolPush u pool a).mem))) ∧
  (∀ vd v h c w s cx vol i, (i = .ldcv vd h c ∧ w = false) ∨ (i = .stcv v h c ∧ w = true) → Ready s cx (usesOf s cx i) → CanTrap s cx →
    VolumeGood s cx (readReg s cx h) (readReg s cx c) w vol →
    (vol.extent.getD 0 0 < vol.coord (readReg s cx c) 0 + 64 / vol.elem → TrapsAt i s cx .volRange (readReg s cx c)) ∧
    (vol.coord (readReg s cx c) 0 + 64 / vol.elem ≤ vol.extent.getD 0 0 → ¬RunGood vol (readReg s cx c) →
      TrapsAt i s cx .misaligned (readReg s cx c))) ∧
  (∀ d h c s cx pc vol, Ready s cx (usesOf s cx (.cprobe d h c)) → pc = successor s.cursor.header cx.st.pc →
    VolumeGood s cx (readReg s cx h) (readReg s cx c) false vol → cx.st.ld < 63 →
    let u := handled s cx (readReg s cx h)
    let gives := fun x => Completes (.cprobe d h c) s cx (usesOf s cx (.cprobe d h c)) { s := u, st := cx.st, xs := [(d, x)] } pc
    (walked u cx vol (readReg s cx c) = .absent → gives 0) ∧
    (∀ slot e, walked u cx vol (readReg s cx c) = .leaf slot e →
      (e = .absent → gives 0) ∧ (∀ t, e = .busy t → gives 1) ∧ (∀ t, e = .present t → gives 2))) ∧
  (∀ h c s cx pc vol, Ready s cx (usesOf s cx (.ctrim h c)) → pc = successor s.cursor.header cx.st.pc →
    (∀ r, InHand cx r false → Waits (.ctrim h c) s) ∧
    (∀ r, InHand cx r true → headerPoisoned s r.pool = false →
      Completes (.ctrim h c) s cx (usesOf s cx (.ctrim h c)) { s := s, st := cx.st } pc) ∧
    (trimHere cx.st = none → cx.st.st ≠ 0 → Waits (.ctrim h c) s) ∧
    (trimHere cx.st = none → cx.st.st = 0 → VolumeGood s cx (readReg s cx h) (readReg s cx c) true vol →
      let u := handled s cx (readReg s cx h)
      ((walked u cx vol (readReg s cx c) = .absent ∨ ∃ slot, walked u cx vol (readReg s cx c) = .leaf slot .absent) →
        Completes (.ctrim h c) s cx (usesOf s cx (.ctrim h c)) { s := u, st := cx.st } pc) ∧
      (∀ slot t, walked u cx vol (readReg s cx c) = .leaf slot (.busy t) → Waits (.ctrim h c) s) ∧
      (∀ slot t, walked u cx vol (readReg s cx c) = .leaf slot (.present t) → poolOnDie u (dieOf cx.core) vol.pool 1 = true →
        tileOnDie u (dieOf cx.core) t = true → headerPoisoned u vol.pool = false →
        let p := portsAfter (usesOf s cx (.ctrim h c))
          { s := physWrite u slot (leBytes 8 (2 ^ 62 + t)), st := { cx.st with st := 1, declines := [] } }
        let waiting := p.1.setStrand cx.core cx.slot { p.2.begin
            { noAccess (.trim slot t vol.pool (oidOf (readReg s cx h)) (vol.key (readReg s cx c))) with
              addr := readReg s cx c, ord := .rel, scope := .die,
              spans := [(BitVec.ofNat 64 (oidOf (readReg s cx h) * 2 ^ 48), 0)] } with
          trimming := some { pc := cx.st.pc, coord := readReg s cx c, seq := cx.st.nextSeq, pool := vol.pool } }
        exec (.ctrim h c) s = .next { waiting with cursor := { waiting.cursor with stalled := true } }))) ∧
  (∀ s core place seq k st a slot tile pool oid key, Outstanding s core place seq storesNear st a →
    a.op = .trim slot tile pool oid key →
    (mayPerform s core st a = false ∨ tileInUse s (dieOf core) tile = true → exec (.storePerformed core place ⟨seq, k⟩) s = .next s) ∧
    (mayPerform s core st a = true → tileInUse s (dieOf core) tile = false →
      exec (.storePerformed core place ⟨seq, k⟩) s = .next (poolPush (physWrite
        (clbDrop (s.setStrand core place { ended st a with st := st.st - 1 }) (dieOf core)
          fun e => e.oid == oid && e.key == key) slot (leBytes 8 0)) pool tile)))

namespace Sys2Proof.Claims

/-- A tile operation is accepted: it joins the unit's queue with its range-lock entries, class tl rises by 1, and nothing else
changes, but for the translations in the L1 TLB that `u` adds; it waits while tl stands at 63, the queue holds 8, or the table has too
few free entries (R132, R141). -/
def QueuesTile (i : Instr) (s : State) (cx : Ctx) (o : TileOp) (locks : List RangeLock) (sto : Bool) (pc : Word) (u : State := s) : Prop :=
  (∀ c, cx.st.tl < 63 → (s.core cx.core).tile.queue.length < 8 → takeLocks (u.core cx.core) locks = some c →
    Completes i s cx (usesOf s cx i)
      { s := u.setCore cx.core { c with nextOp := c.nextOp + 1, tile := { c.tile with queue := c.tile.queue ++ [o] } }
        st := { cx.st with tl := cx.st.tl + 1, nextSeq := cx.st.nextSeq + 1 }, sto := sto } pc) ∧
  (63 ≤ cx.st.tl ∨ 8 ≤ (s.core cx.core).tile.queue.length ∨ takeLocks (s.core cx.core) locks = none → Waits i s)

/-- A word of a configuration set has been written (R133): 0 configuration, 1 amax word address, 2 handler entry. -/
def WritesSet (i : Instr) (s : State) (cx : Ctx) (k f : Nat) (w : Word) (pc : Word) : Prop :=
  ∃ tset : Tab Word, (∀ n, tset.get 0 n = if n = 3 * k + f then w else (s.core cx.core).tile.tset.get 0 n) ∧
    Completes i s cx (usesOf s cx i)
      { s := s.setCore cx.core { s.core cx.core with tile := { (s.core cx.core).tile with tset := tset } }, st := cx.st } pc

/-- A configuration word that TCFG accepts (R135). -/
def ConfigGood (w : Word) : Prop :=
  field w 23 14 = 0 ∧ field w 9 8 = 0 ∧ 1 ≤ field w 31 24 ∧ field w 31 24 ≤ 128 ∧
    field w 3 0 ∈ [8, 9, 12, 13, 14] ∧ field w 7 4 ∈ [8, 9, 12, 13, 14]

/-- An address or offset of a signed displacement. -/
def moved (a : Word) (d : Int) : Nat := (a + BitVec.ofInt 64 d).toNat

/-- The range-lock entry of an operand of a tile operation: n bytes from a lowest address (R141). -/
def tileLock (o : TileOp) (w pad : Bool) (a : Nat) (n : Nat) : RangeLock :=
  { index := 0, op := o.id, written := w, spad := pad, chan := none, slot := o.slot, engine := 0
    first := if pad then a % o.spadSize else a, span := (if pad then min n o.spadSize else n) - 1
    base := if pad then o.spadBase else 0, size := if pad then o.spadSize else 0 }

/-- Bytes of n elements of a type code (R133). -/
def typeBytes (code n : Nat) : Nat := n * widthOf (ElemTy.ofCode (BitVec.ofNat 4 code)) / 8

/-- The ranges that a multiply reads (R138, R139, R141): A by rows, B by rows or, transposed, by columns, and the scales. -/
def mmaLocks (o : TileOp) (mx : Bool) : List RangeLock :=
  let f := o.cfg
  let kc := field f 31 24
  let nb := if bit f 12 then 63 * (field f 47 32 * 64) + typeBytes (field f 7 4) (32 * kc)
    else (32 * kc - 1) * (field f 47 32 * 64) + typeBytes (field f 7 4) 64
  [tileLock o false (o.sel.testBit 1) o.a.toNat (63 * (field f 63 48 * 64) + typeBytes (field f 3 0) (32 * kc)),
    tileLock o false (o.sel.testBit 0) o.b.toNat nb] ++
    if mx then [tileLock o false (o.sel.testBit 1) o.sa.toNat (64 * kc), tileLock o false (o.sel.testBit 0) o.sb.toNat (64 * kc)] else []

/-- The range of 64 rows of n bytes at a stride: from the lowest to the highest byte that they touch (R141, R142). -/
def rowsLock (o : TileOp) (w pad : Bool) (n : Nat) : RangeLock :=
  let d := 63 * o.b.toInt
  tileLock o w pad (moved o.a (min 0 d)) (d.natAbs + n)

/-- Column j of the row that a row handler holds, as rowout writes it (R144, R148). -/
def rowColumn (s : State) (cx : Ctx) (ty : ElemTy) (rm : Rnd) (sat : Bool) (j : Nat) : Nat :=
  (convert .f32 ty (lane 32 (cx.st.v (j / 16)) (j % 16)) (resolveRnd cx.st rm) sat
    (if resolveRnd cx.st rm = .sto then drawOf s cx j else 0)).1

/-- The writes that an ended strand leaves outstanding have a place (log 48). -/
def GhostRoom (s : State) (cx : Ctx) : Prop := (ghostOf cx.st).pend = [] ∨ (ghostPlace s cx.core).isSome = true

/-- The columns that a mask names (R148). -/
def columnsOf (s : State) (cx : Ctx) (m : Reg) : List Nat :=
  (List.range 64).filter fun j => decide (m = .x 0) || (readReg s cx m).getLsbD j

end Sys2Proof.Claims

/-- tcfg, tamax and trowh that are ready write a word of a configuration set as they retire and change nothing else; a
word that R135 forbids traps ILLEGAL, MISALIGNED or TARGET_BAD (a handler entry in a declined page is no head address,
log 77; one in a malformed line is taken if its head index fits, log 55). tzero, tmma, tmmas, tmmax, tlacc, tsacc and
tdrain queue their operation, with its values, its configuration word and its ranges locked, and raise tl; a base in
memory off 64 bytes traps MISALIGNED with the base. tresume and tabort have no effect on a unit that is not stopped;
on a stopped one tresume clears the stop and tabort removes the slot's operations. rowout writes its active columns,
converted, to scratchpad (clearing error marks, log 107), leaves their store to memory outstanding, or pushes all 64
columns to a port with 0 for the inactive ones, and ends its handler. (R131, R132, R133, R135, R136, R137, R138, R139,
R141, R144, R148) -/
def Obligations.TileIssue : Prop :=
  (∀ r k s cx pc, Ready s cx (usesOf s cx (.tcfg r k)) → pc = successor s.cursor.header cx.st.pc →
    ConfigGood (readReg s cx r) ∧ WritesSet (.tcfg r k) s cx k.toNat 0 (readReg s cx r) pc) ∧
  (∀ r k s cx, current s = some cx → CanTrap s cx → isIllegal s cx (usesOf s cx (.tcfg r k)) = false →
    (∀ n ∈ operandNums (usesOf s cx (.tcfg r k)), n ∉ cx.st.owed) → operandsKnown s cx (usesOf s cx (.tcfg r k)) = true →
    ¬ConfigGood (readReg s cx r) → TrapsAt (.tcfg r k) s cx .illegal (headTail (.tcfg r k))) ∧
  (∀ r k s cx pc, Ready s cx (usesOf s cx (.tamax r k)) → pc = successor s.cursor.header cx.st.pc →
    let w := readReg s cx r
    (w.toNat % 4 = 0 → WritesSet (.tamax r k) s cx k.toNat 1 w pc) ∧
    (w.toNat % 4 ≠ 0 → CanTrap s cx → TrapsAt (.tamax r k) s cx .misaligned w)) ∧
  (∀ r k s cx pc, Ready s cx (usesOf s cx (.trowh r k)) → pc = successor s.cursor.header cx.st.pc →
    let w := readReg s cx r
    (w = 0 ∨ checkHead s (partyOf cx.core cx.st) w = .good ∨ (∃ l, checkHead s (partyOf cx.core cx.st) w = .malformed l true) →
      WritesSet (.trowh r k) s cx k.toNat 2 w pc) ∧
    (w ≠ 0 → checkHead s (partyOf cx.core cx.st) w = .bad ∨ (∃ l, checkHead s (partyOf cx.core cx.st) w = .malformed l false) →
      CanTrap s cx → TrapsAt (.trowh r k) s cx .targetBad w)) ∧
  (∀ acc s cx pc, Ready s cx (usesOf s cx (.tzero acc)) → pc = successor s.cursor.header cx.st.pc →
    QueuesTile (.tzero acc) s cx (newTile (operandsOf s cx) .zero acc 0 none) [] false pc) ∧
  (∀ i acc a b sa sb k zero sel cn kind s cx pc, (i = .tmma acc a b k zero cn ∧ sel = 0 ∧ kind = .mma ∧ sa = .x 0 ∧ sb = .x 0) ∨
      (i = .tmmas acc a b k zero sel cn ∧ kind = .mmas ∧ sa = .x 0 ∧ sb = .x 0) ∨ (i = .tmmax acc a b sa sb k zero sel cn ∧ kind = .mmax) →
    Ready s cx (usesOf s cx i) → pc = successor s.cursor.header cx.st.pc →
    let x := readReg s cx
    let inA := sel.getLsbD 1
    let inB := sel.getLsbD 0
    (inA = false → (x a).toNat % 64 ≠ 0 → CanTrap s cx → TrapsAt i s cx .misaligned (x a)) ∧
    (inA = true ∨ (x a).toNat % 64 = 0 → inB = false → (x b).toNat % 64 ≠ 0 → CanTrap s cx → TrapsAt i s cx .misaligned (x b)) ∧
    (inA = true ∨ (x a).toNat % 64 = 0 → inB = true ∨ (x b).toNat % 64 = 0 →
      let o0 := newTile (operandsOf s cx) kind acc k.toNat cn
      let o := { o0 with
        a := x a, b := x b, zero := zero, sel := sel.toNat
        sa := if kind = .mmax then x sa else 0, sb := if kind = .mmax then x sb else 0 }
      QueuesTile i s cx o (mmaLocks o (kind = .mmax)) false pc)) ∧
  (∀ i acc a b k pad cn (w : Bool) s cx pc, i = (if w then .tsacc acc a b k pad cn else .tlacc acc a b k pad cn) →
    Ready s cx (usesOf s cx i) → pc = successor s.cursor.header cx.st.pc →
    let x := readReg s cx
    (pad = false → (x a).toNat % 64 ≠ 0 → CanTrap s cx → TrapsAt i s cx .misaligned (x a)) ∧
    (pad = false → (x a).toNat % 64 = 0 → (x b).toNat % 64 ≠ 0 → CanTrap s cx → TrapsAt i s cx .misaligned (x b)) ∧
    (pad = true ∨ (x a).toNat % 64 = 0 ∧ (x b).toNat % 64 = 0 →
      let o0 := newTile (operandsOf s cx) (if w then .sacc else .lacc) acc k.toNat cn
      let o := { o0 with a := x a, b := x b, sel := if pad then 1 else 0 }
      QueuesTile i s cx o [rowsLock o w pad 256] false pc)) ∧
  (∀ acc a b k ty rm kind sat cn s cx pc, Ready s cx (usesOf s cx (.tdrain acc a b k ty rm kind sat cn)) →
    pc = successor s.cursor.header cx.st.pc → kind ≠ 3 →
    let i := Instr.tdrain acc a b k ty rm kind sat cn
    let x := fun r => if kind = 2 then (0 : Word) else readReg s cx r
    let word := tsetWord (s.core cx.core).tile k.toNat 1
    kind ≠ 0 ∨ (x a).toNat % 64 = 0 ∧ (x b).toNat % 64 = 0 →
    (∀ c v, word ≠ 0 → accessCells s (partyOf cx.core cx.st) .die true false word 4 true = .error (.trap c v) → CanTrap s cx →
      TrapsAt i s cx c v) ∧
    (word = 0 ∨ (∃ cells, accessCells s (partyOf cx.core cx.st) .die true false word 4 true = .ok cells) →
      let o0 := newTile (operandsOf s cx) .drain acc k.toNat cn
      let o := { o0 with
        a := x a, b := x b, dest := kind.toNat, queue := ((portOf cx.st (portNum a)).map (·.queue)).getD 0, dtype := ty
        rm := resolveRnd cx.st rm, sat := sat, amax := word, amaxDone := word == 0 }
      QueuesTile i s cx o (if kind = 2 then [] else [rowsLock o true (kind = 1) (64 * widthOf ty / 8)])
        (resolveRnd cx.st rm = .sto) pc (if word = 0 then s else touchEnds s cx.core word 4))) ∧
  (∀ acc a b c k cn s cx pc, Ready s cx (usesOf s cx (.tdrainHandler acc a b c k cn)) → pc = successor s.cursor.header cx.st.pc →
    let o0 := newTile (operandsOf s cx) .drainHandler acc k.toNat cn
    QueuesTile (.tdrainHandler acc a b c k cn) s cx { o0 with
      a := readReg s cx a, b := readReg s cx b, sa := readReg s cx c, handler := tsetWord (s.core cx.core).tile k.toNat 2
      ports := cx.st.ports.map fun p => (p.1, { p.2 with target := 0 }) } [] false pc) ∧
  (∀ i s cx pc, i = .tresume ∨ i = .tabort → Ready s cx (usesOf s cx i) → pc = successor s.cursor.header cx.st.pc →
    let t := (s.core cx.core).tile
    (t.rowprog.getLsbD 63 = false → Completes i s cx (usesOf s cx i) { s := s, st := cx.st } pc) ∧
    (∀ o rest, t.rowprog.getLsbD 63 = true → t.queue = o :: rest → (∀ p ∈ rest, p.id ≠ o.id) →
      (i = .tresume → Completes i s cx (usesOf s cx i)
        { s := s.setCore cx.core { s.core cx.core with tile := { t with
            rowprog := t.rowprog &&& ~~~((1 : Word) <<< 63), stopValue := 0, taken := false, queue := { o with wait := none } :: rest
            ended := t.ended.map fun p => if p.id = o.id then { o with wait := none } else p } }
          st := cx.st } pc) ∧
      (i = .tabort → ∃ d : Done, Completes i s cx (usesOf s cx i) d pc ∧ d.s.mem = s.mem ∧ d.st = cx.st ∧
        (d.s.core cx.core).tile.acc = t.acc ∧ (d.s.core cx.core).tile.rowprog = t.rowprog &&& ~~~((1 : Word) <<< 63) ∧
        (∀ p ∈ (d.s.core cx.core).tile.queue, p ∈ t.queue ∧ p.slot ≠ o.slot) ∧
        (∀ l ∈ (d.s.core cx.core).locks, l ∈ (s.core cx.core).locks ∧ ∀ p ∈ t.queue, p.slot = o.slot → l.op ≠ p.id)))) ∧
  (∀ a m swz ty rm sat s cx, let i := Instr.rowout a m swz ty rm 1 sat
    Ready s cx (usesOf s cx i) → GhostRoom s cx →
    let size := widthOf ty / 8
    let base := (readReg s cx a).toNat
    (∀ j ∈ columnsOf s cx m, spadLocked (s.core cx.core) cx.st.spadBase cx.st.spadSize (base + j * size) size none = false ∧
      spadStoreWaits s cx.core cx.st (base + j * size) size = false) →
    64 * size ≤ cx.st.spadSize →
    ∃ t, exec i s = .next t ∧ t.mem = s.mem ∧ t.strands.find (placeKey cx.core cx.slot) = none ∧
      (∀ j ∈ columnsOf s cx m, ∀ b < size, (t.core cx.core).spad.get 0 (padPlace cx.st (swz.toNat % 4) (base + j * size + b)) =
        BitVec.ofNat 8 (rowColumn s cx ty rm sat j / 256 ^ b) ∧
        padPlace cx.st (swz.toNat % 4) (base + j * size + b) ∉ (t.core cx.core).bad) ∧
      (∀ p, (∀ j ∈ columnsOf s cx m, ∀ b < size, p ≠ padPlace cx.st (swz.toNat % 4) (base + j * size + b)) →
        (t.core cx.core).spad.get 0 p = (s.core cx.core).spad.get 0 p)) ∧
  (∀ a m swz ty rm sat s cx (cells : Nat → List Nat), let i := Instr.rowout a m swz ty rm 0 sat
    Ready s cx (usesOf s cx i) → (ghostPlace s cx.core).isSome = true → cx.st.st < 63 → columnsOf s cx m ≠ [] →
    let size := widthOf ty / 8
    (∀ j ∈ columnsOf s cx m, accessCells s (partyOf cx.core cx.st) .die true true
      (readReg s cx a + BitVec.ofNat 64 (j * size)) size (code := true) = .ok (cells j)) →
    ∃ t p g x, exec i s = .next t ∧ t.mem = s.mem ∧ t.strands.find (placeKey cx.core cx.slot) = none ∧ 160 ≤ p ∧
      t.strand cx.core p = some g ∧ g.gen = cx.st.gen ∧ x ∈ g.pend ∧ x.op = .store size ∧ x.seq = cx.st.nextSeq ∧
      x.writes = (columnsOf s cx m).flatMap fun j =>
        writesOf (cells j) fun b => BitVec.ofNat 8 (rowColumn s cx ty rm sat j / 256 ^ b)) ∧
  (∀ a m swz ty rm sat s cx p q, let i := Instr.rowout a m swz ty rm 2 sat
    Ready s cx (usesOf s cx i) → GhostRoom s cx → fenced s cx.st = false → earlierRow s cx.core cx.st.drain = false →
    portOf cx.st (portNum a) = some p → s.queue p.queue = some q → 8 ≤ widthOf ty →
    let size := widthOf ty / 8
    hasRoom s cx.st (portNum a) (8 * size) = true →
    ∃ t q', exec i s = .next t ∧ t.mem = s.mem ∧ t.strands.find (placeKey cx.core cx.slot) = none ∧ t.queue p.queue = some q' ∧
      q'.transit = q.transit ++ (List.range (8 * size)).map fun k =>
        { tag := 0, gen := cx.st.gen, rank := cx.st.rank, seq := cx.st.nextSeq + k,
          drain := cx.st.drain.map fun d => cx.core * 2 ^ 40 + d.1
          data := some (BitVec.ofNat 64 (little (fun b => BitVec.ofNat 8
            ((if (8 * k + b) / size ∈ columnsOf s cx m then rowColumn s cx ty rm sat ((8 * k + b) / size) else 0) /
              256 ^ ((8 * k + b) % size))) 8)) })

namespace Sys2Proof.Claims

/-- The unit of a core works on the operation at the head of its queue (R132, R150). -/
structure UnitWorks (s : State) (core : Nat) (o : TileOp) : Prop where
  head : (s.core core).tile.queue.head? = some o
  may : tileMayWork s core o = true

/-- The unit has made a step of the operation at the head of its queue: the operation goes on as `o`, or its unit part has ended and
it has left the queue (R132); strands, queues and the package are as before. -/
def StepMade (s : State) (core : Nat) (o : TileOp) (finished : Bool) (t : State) : Prop :=
  (if finished then o ∈ (t.core core).tile.ended ∧ ∀ p ∈ (t.core core).tile.queue, p.id ≠ o.id
    else (t.core core).tile.queue.head? = some o) ∧
  t.strands = s.strands ∧ t.queues = s.queues ∧ t.pkg = s.pkg

/-- An element of an accumulator. -/
def accAt (s : State) (core acc i j : Nat) : BitVec 32 := (s.core core).tile.acc.get 0 (4096 * acc + 64 * i + j)

/-- Row i of an accumulator holds `r`, and every other element of the accumulators is as before. -/
def RowIs (s t : State) (core acc i : Nat) (r : Nat → BitVec 32) : Prop :=
  (∀ j < 64, accAt t core acc i j = r j) ∧
  (∀ k, k / 64 ≠ 64 * acc + i → (t.core core).tile.acc.get 0 k = (s.core core).tile.acc.get 0 k)

/-- The f32 value of an element after a chunk of a multiply (R94, R140): base + the chunk's sum rounded to f32, rounded to f32. -/
def chunkAdded (base : BitVec 32) (products : List FVal) : BitVec 32 := accumulate base (chunkSum products)

/-- The maximum that an operation holds after a row: a drain raises it by the row's absolute values (R144). -/
def maxAfter (s : State) (core : Nat) (o : TileOp) : BitVec 32 :=
  if o.kind = .drain then rowMax o.max ((List.range 64).map (accAt s core o.acc o.row)) else o.max

/-- Element j of the row that a TSACC or drain writes: bit for bit, or converted (R142, R144). -/
def rowValue (s : State) (core : Nat) (o : TileOp) (j : Nat) : Nat :=
  if o.kind = .sacc then (accAt s core o.acc o.row j).toNat else
    (convert .f32 o.dtype (accAt s core o.acc o.row j).toNat o.rm o.sat
      (if o.rm = .sto then srBits o.seed o.pc (64 * o.row + j) o.srcnt else 0)).1

end Sys2Proof.Claims

/-- A step of the unit on a multiply adds to each element of its row the sum of the chunk's products, rounded as R94
says, from the bytes that it reads once, and changes no other element, and ROWPROG shows its row and chunk (log 93);
rows are the model's steps (log 56). TZERO zeroes its accumulator; TLACC and TSACC copy a row bit for bit; a drain to
memory or scratchpad writes the converted row, one to a port pushes it in elements of 8 bytes, and either raises the
maximum with the row. A row handler starts in the lowest free reserved slot with the row in v0 to v3. A fault stops
the unit with ROWPROG naming the operation, its accumulator, slot, row and chunk. A finished operation completes: it
leaves the unit, its range locks are free, and tl and its counter fall. The amax atomic replaces its word by the
larger, or fails with cause 0x0E on a word that another operation has registered as read (log 102). (R94, R132, R138,
R139, R140, R142, R144, R145, R146, R149, R150) -/
def Obligations.TileEvents : Prop :=
  (∀ s core o, UnitWorks s core o → o.kind = .zero → ∃ t, exec (.tileOpStart core) s = .next t ∧ t.mem = s.mem ∧
    StepMade s core { o with row := 64 } true t ∧ (∀ k, k / 4096 = o.acc → (t.core core).tile.acc.get 0 k = 0) ∧
    (∀ k, k / 4096 ≠ o.acc → (t.core core).tile.acc.get 0 k = (s.core core).tile.acc.get 0 k)) ∧
  (∀ s core o a b x y ca cb cx cy, UnitWorks s core o → o.kind = .mma ∨ o.kind = .mmas ∨ o.kind = .mmax → o.row < 64 →
    let f := o.cfg
    let w := field f 63 48 * 64
    let ta := ElemTy.ofCode (BitVec.ofNat 4 (field f 3 0))
    let tb := ElemTy.ofCode (BitVec.ofNat 4 (field f 7 4))
    let c := o.chunk
    let i := o.row
    let mx := o.kind = .mmax
    (o.zero = true ∧ c = 0) ∨ accBad (s.core core).tile o.acc i = false →
    (w ≠ 0 ∨ i = 0 → unitRead s core o (o.sel.testBit 1) (o.a + BitVec.ofNat 64 (i * w + typeBytes (field f 3 0) (32 * c)))
      (typeBytes (field f 3 0) 32) = .data a [] ca) →
    (i = 0 → unitReads s core o (o.sel.testBit 0) (chunkB o c) = .data b [] cb) →
    (mx → unitRead s core o (o.sel.testBit 1) (o.sa + BitVec.ofNat 64 (if f.getLsbD 13 then c * 64 + i else i * field f 31 24 + c)) 1 =
      .data [x] [] cx) →
    (mx → i = 0 → unitReads s core o (o.sel.testBit 0) ((List.range 64).map fun j =>
      (o.sb + BitVec.ofNat 64 (if f.getLsbD 13 then c * 64 + j else j * field f 31 24 + c), 1)) = .data y [] cy) →
    let as := if w = 0 ∧ i ≠ 0 then o.bufA else elemsOf ta a
    let bs := if i = 0 then elemsOf tb b else o.bufB
    let ys := if i = 0 then (if mx then y.map BitVec.toNat else []) else o.bufS
    let scaled := fun (ty : ElemTy) (v e : Nat) => if mx then (mulVal (fval ty v) (fval .e8m0 e)).1 else fval ty v
    let o' := { o with row := (i + 1) % 64, chunk := if i = 63 then c + 1 else c, bufA := as, bufB := bs, bufS := ys, wait := none }
    ∃ t, exec (.tileOpStart core) s = .next t ∧ t.mem = s.mem ∧ StepMade s core o' (field f 31 24 ≤ o'.chunk) t ∧
      field (t.core core).tile.rowprog 13 8 = o'.row ∧ field (t.core core).tile.rowprog 6 0 = o'.chunk % 128 ∧
      RowIs s t core o.acc i fun j => chunkAdded (if o.zero ∧ c = 0 then 0 else accAt s core o.acc i j) ((List.range 32).map fun k =>
        (mulVal (scaled ta (as.getD k 0) x.toNat)
          (scaled tb (bs.getD (if f.getLsbD 12 then 32 * j + k else 64 * k + j) 0) (ys.getD j 0))).1)) ∧
  (∀ s core o bs cs, UnitWorks s core o → o.kind = .lacc → o.row < 64 →
    unitReads s core o (o.sel.testBit 0) (pieces (o.a + BitVec.ofNat 64 o.row * o.b) 256) = .data bs [] cs → bs.length = 256 →
    ∃ t, exec (.tileOpStart core) s = .next t ∧ t.mem = s.mem ∧
      StepMade s core { o with row := o.row + 1, wait := none } (64 ≤ o.row + 1) t ∧
      RowIs s t core o.acc o.row fun j => BitVec.ofNat 32 (little (fun k => bs.getD (4 * j + k) 0) 4)) ∧
  (∀ s core o cells, UnitWorks s core o → (o.kind = .sacc ∧ o.sel.testBit 0 = false) ∨ (o.kind = .drain ∧ o.dest = 0) →
    accBad (s.core core).tile o.acc o.row = false →
    let n := if o.kind = .sacc then 256 else 64 * (widthOf o.dtype / 8)
    unitWrites s core o false (pieces (o.a + BitVec.ofNat 64 o.row * o.b) n) = .data [] [] cells → cells.length = n →
    let out := rowValue s core o
    ∃ t, exec (.tileOpStart core) s = .next t ∧
      StepMade s core { o with
        row := o.row + 1, part := if o.kind = .sacc then o.part else 0, max := maxAfter s core o, wait := none } (64 ≤ o.row + 1) t ∧
      (t.core core).tile.acc = (s.core core).tile.acc ∧
      ∀ k, t.cell k = written (writesOf cells fun p => BitVec.ofNat 8 (out (p / (n / 64)) / 256 ^ (p % (n / 64)))) s.cell k) ∧
  (∀ s core o, UnitWorks s core o → (o.kind = .sacc ∧ o.sel.testBit 0 = true) ∨ (o.kind = .drain ∧ o.dest = 1) →
    accBad (s.core core).tile o.acc o.row = false →
    let n := if o.kind = .sacc then 256 else 64 * (widthOf o.dtype / 8)
    let a := (o.a + BitVec.ofNat 64 o.row * o.b).toNat
    let place := fun p => padIn o.spadBase o.spadSize (field o.cfg 11 10) (a + p)
    unitWrites s core o true (pieces (o.a + BitVec.ofNat 64 o.row * o.b) n) = .data [] [] [] → n ≤ o.spadSize → 64 ≤ o.spadSize →
    let out := rowValue s core o
    ∃ t, exec (.tileOpStart core) s = .next t ∧ t.mem = s.mem ∧
      StepMade s core { o with
        row := o.row + 1, part := if o.kind = .sacc then o.part else 0, max := maxAfter s core o, wait := none } (64 ≤ o.row + 1) t ∧
      (t.core core).tile.acc = (s.core core).tile.acc ∧
      (∀ p < n, (t.core core).spad.get 0 (place p) = BitVec.ofNat 8 (out (p / (n / 64)) / 256 ^ (p % (n / 64)))) ∧
      (∀ k, (∀ p < n, k ≠ place p) → (t.core core).spad.get 0 k = (s.core core).spad.get 0 k)) ∧
  (∀ s core o q, UnitWorks s core o → o.kind = .drain → o.dest = 2 → accBad (s.core core).tile o.acc o.row = false →
    s.queue o.queue = some q → 8 ≤ widthOf o.dtype →
    let size := widthOf o.dtype / 8
    let out := rowValue s core o
    (creditsOf q o.gen = 0 → exec (.tileOpStart core) s = .next (awaitCredit s o.queue { rank := o.rank, gen := o.gen, op := some o.id })) ∧
    (0 < creditsOf q o.gen → ∃ t, exec (.tileOpStart core) s = .next t ∧ t.mem = s.mem ∧ t.strands = s.strands ∧
      (t.core core).tile.acc = (s.core core).tile.acc ∧
      t.queues = (sendElem s o.queue { tag := 0, gen := o.gen, rank := o.rank, seq := o.seq, engine := true
                                       data := some (BitVec.ofNat 64 (little (fun b => BitVec.ofNat 8
        (out ((8 * o.part + b) / size) / 256 ^ ((8 * o.part + b) % size))) 8)) }).queues ∧
      (o.part + 1 < 8 * size → (t.core core).tile.queue.head? = some { o with part := o.part + 1 }) ∧
      (8 * size ≤ o.part + 1 →
        let o' := { o with row := o.row + 1, part := 0, max := maxAfter s core o, wait := none }
        if o.row + 1 < 64 then (t.core core).tile.queue.head? = some o' else o' ∈ (t.core core).tile.ended))) ∧
  (∀ s core o w, UnitWorks s core o → tileRow s core o = .fault w →
    exec (.tileOpStart core) s = .next (s.setCore core { s.core core with tile := { (s.core core).tile with fault := some w } })) ∧
  (∀ s core o w, (s.core core).tile.fault = some w → (s.core core).tile.queue.head? = some o → o.kind ≠ .zero → o.kind ≠ .drainHandler →
    o.acc < 32 → o.slot < 16 → o.row < 64 → o.chunk < 128 →
    ∃ p : Word, exec (.tileUnitStop core) s = .next (s.setCore core { s.core core with tile := { (s.core core).tile with
        rowprog := p, stopValue := w, fault := none, taken := false } }) ∧
      field p 63 63 = 1 ∧ field p 62 60 = o.kind.code ∧ field p 59 55 = o.acc ∧ field p 54 51 = o.slot ∧ field p 50 14 = 0 ∧
      field p 13 8 = o.row ∧ field p 7 7 = 0 ∧ field p 6 0 = (if o.kind.code ≤ 3 then o.chunk else 0)) ∧
  (∀ s core op o place st rest, (s.core core).tile.ended = o :: rest → o.id = op → s.byGen core o.gen = some (place, st) →
    (s.core core).preempted = false → (o.kind = .drainHandler → 64 ≤ o.rowsDone ∧ rowsPending s core o = false) →
    (o.kind ≠ .drainHandler → o.amaxDone = true ∧ o.amaxFault = none ∧ drainPushing s o = false) →
    exec (.tileOpComplete core op) s = .next ((s.setCore core { s.core core with
        locks := (s.core core).locks.filter (fun l => l.op != op)
        tile := { (s.core core).tile with
          queue := (s.core core).tile.queue.filter fun p => p.id != op, ended := (o :: rest).filter fun p => p.id != op } }).setStrand
      core place { st.complete o.cn with tl := st.tl - 1 })) ∧
  (∀ s core op o (cells : List Nat), (s.core core).tile.ended.find? (fun p => p.id == op) = some o → o.amaxDone = false →
    o.amaxFault = none → o.wait = none → memLocked (s.core core) o.amax 4 (some o.id) = false →
    accessCells s (partyTile core o) .die true false o.amax 4 true = .ok cells → cells.length = 4 → (∀ c ∈ cells, isPoisoned s c = false) →
    ∃ t0 t, exec (.amaxAtomic core op) s = .next t ∧ t0.mem = s.mem ∧
      Stored t0 (writesOf cells fun j => BitVec.ofNat 8
        (max (little (fun k => s.byteAt (cells.getD k 0)) 4) o.max.toNat / 256 ^ j)) t ∧
      (t.core core).tile.acc = (s.core core).tile.acc ∧ { o with amaxDone := true, wait := none } ∈ (t0.core core).tile.ended) ∧
  (∀ s core op o (cells : List Nat), (s.core core).tile.ended.find? (fun p => p.id == op) = some o → o.amaxDone = false →
    o.amaxFault = none → o.wait = none → memLocked (s.core core) o.amax 4 (some o.id) = true →
    accessCells s (partyTile core o) .die true false o.amax 4 true = .ok cells →
    ∃ t, exec (.amaxAtomic core op) s = .next t ∧ t.mem = s.mem ∧ t.strands = s.strands ∧
      { o with amaxFault := some (stopWord o.amax 0x0E), wait := none } ∈ (t.core core).tile.ended ∧
      ∀ l ∈ (t.core core).locks, l ∈ (s.core core).locks ∧ l.op ≠ o.id) ∧
  (∀ s core o slot g, UnitWorks s core o → o.kind = .drainHandler → o.row < 64 →
    (s.core core).reserved.find? (fun r => r.2 == o.stage && slotFree s core r.1) = some (slot, g) →
    accBad (s.core core).tile o.acc o.row = false →
    ∃ t st, exec (.rowHandlerDispatch core) s = .next t ∧ t.mem = s.mem ∧ t.strand core slot = some st ∧
      st.kind = .handler ∧ st.pc = o.handler ∧ st.x 1 = BitVec.ofNat 64 o.row ∧ st.x 2 = o.a + BitVec.ofNat 64 o.row * o.b ∧
      st.x 3 = BitVec.ofNat 64 o.acc ∧ st.x 4 = o.sa ∧ (∀ n, n ∉ [1, 2, 3, 4] → st.x n = 0) ∧ st.rank = o.row ∧
      (∀ j < 64, lane 32 (st.v (j / 16)) (j % 16) = (accAt s core o.acc o.row j).toNat) ∧ (∀ n, 4 ≤ n → st.v n = 0) ∧
      st.ports = o.ports ∧ st.fstat = 0 ∧ st.srcnt = 0 ∧
      (if o.row = 63 then { o with row := 64 } ∈ (t.core core).tile.ended
        else (t.core core).tile.queue.head? = some { o with row := o.row + 1 }))

namespace Sys2Proof.Claims

/-- Byte o of the allocation that a merge unit's fibres lie in (R154). -/
def ringByte (m : MergeUnit) (o : Nat) : Nat := m.spadBase + o % m.spadSize

/-- Pair number k of a ring (R153, R154): its coordinate and its value. -/
def ringPair (s : State) (core : Nat) (f : Fibre) (k : Nat) : Nat × BitVec 32 :=
  let byte := fun o => (s.core core).spad.get 0 (ringByte (s.core core).merge (f.off + 8 * k + o))
  (little byte 4, BitVec.ofNat 32 (little (fun o => byte (4 + o)) 4))

/-- How many pairs from the head of a ring have a coordinate. -/
def leading (s : State) (core cur : Nat) (f : Fibre) : Nat :=
  ((List.range (f.count - f.pos)).takeWhile fun j => (ringPair s core f (f.pos + j)).1 = cur).length

/-- The values that a run sums at a coordinate: of each fibre, ascending, its leading pairs in order (R98, R156). -/
def summands (s : State) (core cur : Nat) (fs : List Fibre) : List (BitVec 32) :=
  fs.flatMap fun f => (List.range (leading s core cur f)).map fun j => (ringPair s core f (f.pos + j)).2

/-- The sum of values from the left, each addition rounded to f32 (R98). -/
def summed : List (BitVec 32) → BitVec 32
  | [] => 0
  | v :: vs => vs.foldl (fun x y => accumulate x y.toNat) v

/-- A merge unit whose run is not held up: a run, no coordinate in progress, and no earlier operation of its strand that has yet to
write to its rings. -/
structure Going (s : State) (core : Nat) (r : MergeRun) : Prop where
  run : (s.core core).merge.run = some r
  idle : r.cur = none
  going : (s.core core).preempted = false
  sources : sourceAwaited s core r.gen r.seq r.op = false

/-- A merge unit whose run is not held up, over rings only. -/
structure RingsRun (s : State) (core : Nat) (r : MergeRun) : Prop extends Going s core r where
  rings : ∀ f ∈ (s.core core).merge.fibres, f.isQueue = false

/-- Each queue fibre pops the queue that its port is bound to (R154). -/
def FibresBound (s : State) (core : Nat) : Prop :=
  ∀ f ∈ (s.core core).merge.fibres, f.isQueue = true → ∀ place st, s.byGen core f.gen = some (place, st) →
    ∃ p, portOf st f.port = some p ∧ p.queue = f.queue

/-- A run at a coordinate takes the values `vs` from the fibres from number k on: of each fibre in turn, pairs as long as its head is a
pair with the coordinate (R98, R156). `u` is the state with those pairs popped. -/
inductive Draws (core cur : Nat) : State → Nat → List (BitVec 32) → State → Prop
  | done (s k) : (s.core core).merge.fibres[k]? = none → Draws core cur s k [] s
  | next (s k vs u f) : (s.core core).merge.fibres[k]? = some f →
      (fibreHead s core f = .ended ∨ (∃ t p, fibreHead s core f = .token t p) ∨ ∃ c v, fibreHead s core f = .pair c v ∧ c ≠ cur) →
      Draws core cur s (k + 1) vs u → Draws core cur s k vs u
  | pair (s k vs u f v) : (s.core core).merge.fibres[k]? = some f → fibreHead s core f = .pair cur v →
      Draws core cur (popFibre s core k cur) k vs u → Draws core cur s k (v :: vs) u

/-- An element that a run pushes to its output port. -/
def pushed (r : MergeRun) (tag : Nat) (data : Word) : Elem :=
  { tag := tag, data := some data, gen := r.gen, rank := r.rank, seq := r.seq, engine := true }

/-- The output port of a run has a credit for it. -/
def OutputRoom (s : State) (r : MergeRun) : Prop := ∃ q, s.queue r.out = some q ∧ 0 < creditsOf q r.gen

/-- The run of a merge unit has completed from a state, with the unit as `m` (R155, R156). -/
def RunEnds (i : Instr) (s : State) (core : Nat) (r : MergeRun) (m : MergeUnit) (u : State := s) : Prop :=
  ∀ place st, s.byGen core r.gen = some (place, st) →
    exec i s = .next ((u.setCore core { s.core core with
      locks := (s.core core).locks.filter (fun l => l.op != r.op), merge := { m with run := none, stopAsked := false } }).setStrand
      core place { st.complete r.cn with tl := st.tl - 1 })

end Sys2Proof.Claims

/-- mcfg that is ready and meets no run loads the fibres of its descriptors and clears order and mismatch; its rings
lie in the allocation of its strand, whichever strand runs them (log 103); a kind of 2 or 3 or a port named twice
traps ILLEGAL. mrun starts a run with its ring ranges locked and its counts zeroed, and waits while a run is active or
tl stands at 63. mstat writes the status word; mstop asks the run to end. A run over rings emits, at the least
coordinate among their heads, the sum of that coordinate's pairs, fibre by fibre, each addition rounded to f32, as a
pair at the next pair offset, and pops exactly those pairs; a run over rings and queues does likewise, and writes its
pair or pushes it to its output port. At the end of a segment the token goes to the port, if there is one, and the
queues are popped. A run whose rings are exhausted, or that was asked to stop, completes; an uncorrectable error ends
it, leaves the unit free and is kept for its strand (log 57). (R98, R153, R154, R155, R156, R157, R158, R159) -/
def Obligations.MergeRuns : Prop :=
  (∀ r n s cx pc, Ready s cx (usesOf s cx (.mcfg r n)) → pc = successor s.cursor.header cx.st.pc →
    let m := (s.core cx.core).merge
    let a := (readReg s cx r).toNat
    let d := fun f k => little (fun j => (s.core cx.core).spad.get 0 (padPlace cx.st 0 (a + 16 * f + 4 * k + j))) 4
    let kind := fun f => d f 0 / 2 ^ 30
    let port := fun f => d f 0 / 2 ^ 27 % 8
    (m.run.isSome → Waits (.mcfg r n) s) ∧
    (m.run = none → cx.st.acquiring = false → (∀ k < 16 * (n.toNat + 1), padPlace cx.st 0 (a + k) ∉ (s.core cx.core).bad) →
      let clash := (∃ f ≤ n.toNat, 2 ≤ kind f) ∨ ∃ f g, f < g ∧ g ≤ n.toNat ∧ kind f = 1 ∧ kind g = 1 ∧ port f = port g
      (clash → CanTrap s cx → TrapsAt (.mcfg r n) s cx .illegal (headTail (.mcfg r n))) ∧
      (¬clash → ∀ f ≤ n.toNat, kind f = 1 → isConsumer cx.st (port f) = false → (∀ g < f, kind g = 1 → isConsumer cx.st (port g) = true) →
        CanTrap s cx → TrapsAt (.mcfg r n) s cx .queueUnbound (BitVec.ofNat 64 (port f))) ∧
      (¬clash → (∀ f ≤ n.toNat, kind f = 1 → isConsumer cx.st (port f) = true) →
        Completes (.mcfg r n) s cx (usesOf s cx (.mcfg r n))
          { s := s.setCore cx.core { s.core cx.core with merge := { m with
              order := false, mismatch := false, spadBase := cx.st.spadBase, spadSize := cx.st.spadSize
              fibres := (List.range (n.toNat + 1)).map fun f =>
                { isQueue := kind f = 1, queue := if kind f = 1 then ((portOf cx.st (port f)).map (·.queue)).getD 0 else 0
                  gen := cx.st.queueGen, port := port f, count := if kind f = 1 then 0 else d f 1, off := d f 2 } } }
            st := cx.st } pc))) ∧
  (∀ out (port : Bool) tag cn s cx pc, Ready s cx (usesOf s cx (.mrun out port tag cn)) → pc = successor s.cursor.header cx.st.pc →
    let i := Instr.mrun out port tag cn
    let c := s.core cx.core
    let m := c.merge
    let locks := (m.fibres.filter fun f => !f.isQueue && f.count != 0).map fun f => ({
      index := 0, op := c.nextOp, written := false, spad := true, chan := none, slot := cx.slot, engine := 1
      first := f.off % m.spadSize, span := min (8 * f.count) m.spadSize - 1, base := m.spadBase, size := m.spadSize } : RangeLock)
    (m.run.isSome ∨ 63 ≤ cx.st.tl ∨ takeLocks c locks = none → Waits i s) ∧
    (∀ c', m.run = none → cx.st.tl < 63 → takeLocks c locks = some c' →
      Completes i s cx (usesOf s cx i)
        { s := s.setCore cx.core { c' with nextOp := c.nextOp + 1, merge := { m with
            stopped := false, fault := false, segs := 0, pairs := 0, stopAsked := false
            fibres := m.fibres.map fun f => { f with pos := 0, last := none }
            run := some { slot := cx.slot, gen := cx.st.gen, op := c.nextOp, toPort := port
                          out := if port then ((portOf cx.st (portNum out)).map (·.queue)).getD 0 else (readReg s cx out).toNat
                          tag := tag.toNat, cn := cn.map BitVec.toNat, spadBase := cx.st.spadBase, spadSize := cx.st.spadSize
                          seq := cx.st.nextSeq, rank := cx.st.rank } } }
          st := { cx.st with tl := cx.st.tl + 1, nextSeq := cx.st.nextSeq + 1 } } pc)) ∧
  (∀ d s cx pc, Ready s cx (usesOf s cx (.mstat d)) → pc = successor s.cursor.header cx.st.pc →
    let m := (s.core cx.core).merge
    ∃ w : Word, Writes s cx (.mstat d) d w pc ∧ field w 63 63 = (if m.run.isSome then 1 else 0) ∧
      field w 62 62 = (if m.stopped then 1 else 0) ∧ field w 61 61 = (if m.order then 1 else 0) ∧
      field w 60 60 = (if m.mismatch then 1 else 0) ∧ field w 59 59 = (if m.fault then 1 else 0) ∧ field w 58 48 = 0 ∧
      field w 47 32 = m.segs % 2 ^ 16 ∧ field w 31 0 = m.pairs % 2 ^ 32) ∧
  (∀ s cx pc, Ready s cx (usesOf s cx .mstop) → pc = successor s.cursor.header cx.st.pc →
    Completes .mstop s cx (usesOf s cx .mstop)
      { s := s.setCore cx.core { s.core cx.core with merge := { (s.core cx.core).merge with
          stopAsked := (s.core cx.core).merge.run.isSome } }, st := cx.st } pc) ∧
  (∀ s core r cur, RingsRun s core r → r.toPort = false → 8 ≤ r.spadSize →
    let m := (s.core core).merge
    m.stopAsked = false → outputBad (s.core core) r = none →
    (∀ f ∈ m.fibres, ∀ k, f.pos ≤ k → k < f.count → ∀ b < 8, ringByte m (f.off + 8 * k + b) ∉ (s.core core).bad) →
    (∃ f ∈ m.fibres, f.pos < f.count ∧ (ringPair s core f f.pos).1 = cur) →
    (∀ f ∈ m.fibres, f.pos < f.count → cur ≤ (ringPair s core f f.pos).1) →
    let sum := summed (summands s core cur m.fibres)
    let at_ := fun k => r.spadBase + (r.out + 8 * m.pairs + k) % r.spadSize
    ∃ t, exec (.mergeEmit core) s = .next t ∧ t.mem = s.mem ∧ t.strands = s.strands ∧ t.queues = s.queues ∧
      (t.core core).merge.run = some { r with cur := none, fibre := 0, sum := none } ∧ (t.core core).merge.pairs = m.pairs + 1 ∧
      (t.core core).merge.segs = m.segs ∧ (t.core core).merge.mismatch = m.mismatch ∧
      (t.core core).merge.fibres.map (·.pos) = m.fibres.map (fun f => f.pos + leading s core cur f) ∧
      (t.core core).merge.order = (m.order || m.fibres.any fun f => 0 < leading s core cur f && f.last.any fun c => cur < c) ∧
      (∀ k < 4, (t.core core).spad.get 0 (at_ k) = BitVec.ofNat 8 (cur / 256 ^ k)) ∧
      (∀ k < 4, (t.core core).spad.get 0 (at_ (4 + k)) = BitVec.ofNat 8 (sum.toNat / 256 ^ k)) ∧
      (∀ p, (∀ k < 8, p ≠ at_ k) → (t.core core).spad.get 0 p = (s.core core).spad.get 0 p)) ∧
  (∀ s core r cur vs u, Going s core r → FibresBound s core → (s.core core).merge.stopAsked = false →
    (∀ h ∈ fibreHeads s core, h ≠ .none ∧ ∀ o, h ≠ .bad o) →
    (∃ v, FibreHead.pair cur v ∈ fibreHeads s core) → (∀ c v, FibreHead.pair c v ∈ fibreHeads s core → cur ≤ c) →
    Draws core cur s 0 vs u → (if r.toPort then OutputRoom u r else outputBad (u.core core) r = none) →
    let pair := BitVec.ofNat 64 (cur + (summed vs).toNat * 2 ^ 32)
    ∃ t, exec (.mergeEmit core) s = .next t ∧ t.mem = s.mem ∧ t.strands = u.strands ∧
      t.queues = (if r.toPort then sendElem u r.out (pushed r 0 pair) else u).queues ∧
      (t.core core).merge = { (u.core core).merge with
        run := some { r with cur := none, fibre := 0, sum := none }, pairs := (s.core core).merge.pairs + 1 } ∧
      ((t.core core).spad = if r.toPort then (s.core core).spad else
        (spadWrite (s.core core) r.spadBase r.spadSize 0 (r.out + 8 * (s.core core).merge.pairs) (leBytes 8 pair.toNat)).spad)) ∧
  (∀ s core r, RingsRun s core r →
    let m := (s.core core).merge
    (m.stopAsked = true → RunEnds (.mergeToken core) s core r { m with stopped := true }) ∧
    (m.stopAsked = false → (∀ f ∈ m.fibres, f.count ≤ f.pos) →
      (r.tag = 0 ∨ r.toPort = false → RunEnds (.mergeToken core) s core r m) ∧
      (r.tag ≠ 0 → r.toPort = true → OutputRoom s r →
        RunEnds (.mergeToken core) s core r m (sendElem s r.out (pushed r r.tag 0))))) ∧
  (∀ s core r tag payload (k : Nat) (f0 : Fibre), (s.core core).merge.run = some r → r.cur = none → (s.core core).preempted = false →
    (s.core core).merge.stopAsked = false → (r.toPort = true → OutputRoom s r) →
    (s.core core).merge.fibres[k]? = some f0 → f0.isQueue = true → fibreHead s core f0 = .token tag payload →
    (∀ j < k, ∀ f : Fibre, (s.core core).merge.fibres[j]? = some f → f.isQueue = false) →
    (∀ f ∈ (s.core core).merge.fibres, if f.isQueue then ∃ p, fibreHead s core f = .token tag p else f.count ≤ f.pos) → tag ≠ 4 →
    let sent := if r.toPort then sendElem s r.out (pushed r tag payload) else s
    let popped := ((s.core core).merge.fibres.filter (·.isQueue)).foldl (fun s f => popForGen s core f.gen f.port f.queue) sent
    ∃ t, exec (.mergeToken core) s = .next t ∧ t.mem = s.mem ∧ t.strands = popped.strands ∧ t.queues = popped.queues ∧
      t.core core = { s.core core with merge := { (s.core core).merge with segs := (s.core core).merge.segs + 1 } }) ∧
  (∀ s core r o, (s.core core).merge.run = some r → r.cur = none → (s.core core).preempted = false →
    FibreHead.bad o ∈ fibreHeads s core → (∀ w, FibreHead.bad w ∈ fibreHeads s core → w = o) →
    let m := (s.core core).merge
    exec (.mergeFault core) s = .next (s.setCore core { s.core core with
      locks := (s.core core).locks.filter fun l => l.op != r.op
      merge := { m with run := none, fault := true, stopAsked := false
                        failed := m.failed ++ [{ r with fault := some (BitVec.ofNat 64 o >>> 8 <<< 8 ||| 0x13) }] } }))

namespace Sys2Proof.Claims

/-- The read-only and unassigned numbers aside, the value that a modifying CSR instruction writes, from the old value (R360). -/
def csrValue (s : State) (cx : Ctx) : Instr → Option (Nat × Word)
  | .csrw n r => some (n.toNat, readReg s cx r)
  | .csrset n r => some (n.toNat, csrWord s cx.core cx.st n.toNat ||| readReg s cx r)
  | .csrclr n r => some (n.toNat, csrWord s cx.core cx.st n.toNat &&& ~~~readReg s cx r)
  | _ => none

/-- Numbers of registers that no level may write (R358). -/
def readOnlyCsr : List Nat :=
  [0x20, 0x21, 0x22, 0x23, 0x24, 0x25, 0x26, 0x27, 0x100, 0x110, 0x121, 0x122, 0x131, 0x132, 0x133, 0x134, 0x140, 0x141, 0x142, 0x143, 0x150, 0x162]

/-- A bit as a number. -/
def asBit (b : Bool) : Nat := if b then 1 else 0

end Sys2Proof.Claims

/-- csrr that is ready writes its destination with the register of its number as it stands and changes nothing else,
but for the records of a scrivener: FSTAT, SRCNT, the words of the configuration sets, wp0 to wp7 (an acquire: it
waits while an acquire is outstanding), STRANDCFG (log 87 for a slot being saved), the four exception registers and
SVEC, ROWPROG, the range-lock and watch-table entries that RLOCKSEL and WSEL select, the partition registers and
VHANDLE, each by its layout; a read of MISSQ marks the oldest unread record as read. A read of a number that the core
does not have traps ILLEGAL, and one of VPOOLCNT for a pool off the home die OBJ_ABSENT (log 82), for a header with an
uncorrectable error MEM_UNCORRECTABLE with the handle (log 101). VPOOLPUSH reads 0 (log 59). (R5, R31, R88, R133,
R207, R244, R316, R337, R358, R359, R360) -/
def Obligations.SystemRegisterReads : Prop :=
  (∀ d n s cx pc, Ready s cx (usesOf s cx (.csrr d n)) → pc = successor s.cursor.header cx.st.pc →
    let k := n.toNat
    let c := s.core cx.core
    let is := fun w => Writes s cx (.csrr d n) d w pc
    (k = 0 → is cx.st.fstat) ∧ (k = 1 → is cx.st.srcnt) ∧
    (∀ t f, t < 4 → f < 3 → k = 0x10 + 4 * t + f → is (tsetWord c.tile t f)) ∧
    (∀ j < 8, k = 0x20 + j → (cx.st.acquiring = true → Waits (.csrr d n) s) ∧
      (cx.st.acquiring = false → ∃ w, is w ∧
        let h := c.channels.get {} j
        field w 63 63 = asBit h.busy ∧ field w 62 59 = h.slot % 16 ∧ field w 58 40 = 0 ∧ field w 39 20 = h.stop % 2 ^ 20 ∧
        field w 19 0 = h.wp % 2 ^ 20)) ∧
    (k = 0x100 → ∃ w, is w ∧ field w 0 0 = asBit c.wide ∧ field w 2 2 = asBit (s.strands.find (placeKey cx.core 16)).isSome ∧
      (∀ t < if c.wide then 8 else 16, field w (24 + t) (24 + t) = asBit (s.strands.find (placeKey cx.core t)).isSome) ∧
      (parkedCount s cx.core ≤ 64 → field w 14 8 = parkedCount s cx.core)) ∧
    (k = 0x101 → is c.ecause) ∧ (k = 0x102 → is c.evalue) ∧ (k = 0x103 → is c.epc) ∧ (k = 0x104 → is c.estrand) ∧
    (k = 0x105 → is c.svec) ∧ (k = 0x110 → is c.tile.rowprog) ∧ (k = 0x120 → is (BitVec.ofNat 64 c.rlocksel)) ∧
    (k = 0x130 → is (BitVec.ofNat 64 c.wsel)) ∧ (k = 0x160 → is c.vhandle) ∧ (k = 0x161 → is 0) ∧
    (k = 0x121 ∨ k = 0x122 → (∀ l ∈ c.locks, l.index ≠ c.rlocksel) → is 0) ∧
    (∀ l, c.locks.find? (fun l => l.index == c.rlocksel) = some l → l.slot < 17 → l.engine < 6 →
      (k = 0x121 → is (BitVec.ofNat 64 l.first)) ∧
      (k = 0x122 → ∃ w, is w ∧ field w 63 63 = 1 ∧ field w 62 62 = asBit l.written ∧ field w 61 61 = asBit l.spad ∧
        field w 60 60 = asBit l.chan.isSome ∧ (∀ j < 8, l.chan = some j → field w 59 57 = j) ∧
        field w 56 53 = (if l.slot = 16 then 0 else l.slot) ∧ field w 52 50 = l.engine ∧ field w 49 49 = asBit (l.slot = 16) ∧
        field w 48 48 = 0 ∧ field w 47 0 = l.span % 2 ^ 48)) ∧
    (∀ e, (s.die (dieOf cx.core)).watch.find c.wsel = some e → e.climit < 2 ^ 16 → e.rate < 2 ^ 16 → e.granules < 2 ^ 32 →
      e.lid < 2 ^ 32 → e.stage < 256 → e.number < 256 → e.why < 4 → e.tracks.length ≤ 64 →
      (k = 0x131 → is e.start) ∧
      (k = 0x132 → ∃ w, is w ∧ field w 63 32 = e.granules ∧ field w 31 16 = e.climit ∧ field w 15 0 = e.rate) ∧
      (k = 0x133 → ∃ w, is w ∧ field w 63 32 = e.lid ∧ field w 31 24 = e.stage ∧ field w 23 16 = e.number ∧ field w 15 0 = 0) ∧
      (k = 0x134 → ∃ w, is w ∧ field w 63 63 = asBit e.armed ∧ field w 62 61 = e.why ∧ field w 60 60 = asBit e.ovf ∧
        field w 59 55 = 0 ∧ field w 54 48 = e.tracks.length ∧ field w 47 0 = 0)) ∧
    (∀ id p, partOf s cx.core = some id → s.parts.find id = some p →
      (k = 0x140 → is (BitVec.ofNat 64 id)) ∧ (k = 0x141 → is p.partreg) ∧
      (k = 0x142 → is (BitVec.ofNat 64 (64 * (p.otbase / 64 % 2 ^ 42)))) ∧ (k = 0x143 → is (BitVec.ofNat 64 (p.otcount % 2 ^ 17)))) ∧
    (k = 0x150 → (∀ m ∈ (s.cluster (clusterOf cx.core)).misses, m.read = true) → is 0) ∧
    (∀ m, k = 0x150 → (s.cluster (clusterOf cx.core)).misses.find? (fun m => !m.read) = some m → m.num < 64 → m.need < 4 →
      m.waiters < 128 → m.page < 2 ^ 48 → ∃ w s', Completes (.csrr d n) s cx (usesOf s cx (.csrr d n))
          { s := s', st := cx.st, xs := [(d, w)] } pc ∧
        field w 63 16 = (if m.need = 3 then m.page / 2 ^ 32 * 2 ^ 32 else m.page) ∧ field w 15 15 = 1 ∧ field w 14 13 = m.need ∧
        field w 12 7 = m.num ∧ field w 6 0 = m.waiters ∧
        s' = s.setCluster (clusterOf cx.core) { s.cluster (clusterOf cx.core) with
          misses := (s.cluster (clusterOf cx.core)).misses.map fun x => if x.num = m.num then { x with read := true } else x }) ∧
    (∀ v, k = 0x162 → volumeOf (operandsOf s cx) c.vhandle 0 false c.vhandle = .ok v →
      ((cellsOnDie s (dieOf cx.core) v.2.pool 64).isSome →
        (headerPoisoned s v.2.pool = false → Completes (.csrr d n) s cx (usesOf s cx (.csrr d n))
          { s := handled s cx c.vhandle, st := cx.st
            xs := [(d, BitVec.ofNat 64 (field (BitVec.ofNat 64 (physRead s v.2.pool 8)) 23 0))] } pc) ∧
        (headerPoisoned s v.2.pool = true → CanTrap s cx → TrapsAt (.csrr d n) s cx .memUncorrectable c.vhandle)) ∧
      (cellsOnDie s (dieOf cx.core) v.2.pool 64 = none → CanTrap s cx → TrapsAt (.csrr d n) s cx .objAbsent c.vhandle))) ∧
  (∀ d n s cx, current s = some cx → csrAssigned cx.core n.toNat = false → CanTrap s cx →
    TrapsAt (.csrr d n) s cx .illegal (headTail (.csrr d n)))

/-- A CSR write that is ready changes its register and nothing else: the operand, or the register with the operand's
bits set or cleared. FSTAT keeps its reserved bits 0 and its rm where 7 is written; a configuration word keeps its
reserved bits 0; of ECAUSE only act changes, and not to 3; ESTRAND does not change; RLOCKSEL and WSEL hold their low
bits; a write of VPOOLPUSH pushes a tile to the pool of VHANDLE, or traps OBJ_ABSENT for a pool off the home die (log
82) and MEM_UNCORRECTABLE for a header with an error (log 101). A write of a number that the core does not have, of a
register that no level may write, or a csrset or csrclr of VPOOLPUSH traps ILLEGAL. (R5, R31, R85, R88, R133, R352,
R358, R359, R360, R380) -/
def Obligations.SystemRegisterWrites : Prop :=
  (∀ i s cx pc k v, csrValue s cx i = some (k, v) → Ready s cx (usesOf s cx i) → pc = successor s.cursor.header cx.st.pc →
    let c := s.core cx.core
    let leaves := fun c' => Completes i s cx (usesOf s cx i) { s := s.setCore cx.core c', st := cx.st } pc
    (k = 0 → ∃ w, Completes i s cx (usesOf s cx i) { s := s, st := { cx.st with fstat := w } } pc ∧ field w 4 0 = field v 4 0 ∧
      field w 7 5 = 0 ∧ field w 63 11 = 0 ∧ field w 10 8 = if field v 10 8 = 7 then field cx.st.fstat 10 8 else field v 10 8) ∧
    (k = 1 → Completes i s cx (usesOf s cx i) { s := s, st := { cx.st with srcnt := v } } pc) ∧
    (∀ t f, t < 4 → f < 3 → k = 0x10 + 4 * t + f → ∃ w, WritesSet i s cx t f w pc ∧ (f ≠ 0 → w = v) ∧
      (f = 0 → w = v &&& ~~~((0x3FF : Word) <<< 14 ||| (3 : Word) <<< 8))) ∧
    (k = 0x101 → ∃ w, leaves { c with ecause := w } ∧ field w 61 0 = field c.ecause 61 0 ∧
      field w 63 62 = if field v 63 62 = 3 then field c.ecause 63 62 else field v 63 62) ∧
    (k = 0x102 → leaves { c with evalue := v }) ∧ (k = 0x103 → leaves { c with epc := v }) ∧
    (k = 0x104 → Completes i s cx (usesOf s cx i) { s := s, st := cx.st } pc) ∧ (k = 0x105 → leaves { c with svec := v }) ∧
    (k = 0x120 → leaves { c with rlocksel := v.toNat % 32 }) ∧ (k = 0x130 → leaves { c with wsel := v.toNat % 256 }) ∧
    (k = 0x160 → leaves { c with vhandle := v }) ∧
    (∀ r, k = 0x161 → volumeOf (operandsOf s cx) c.vhandle 0 true c.vhandle = .ok r →
      let w := BitVec.ofNat 64 (physRead s r.2.pool 8)
      let onDie := poolOnDie s (dieOf cx.core) r.2.pool 1
      let near := onDie && !headerPoisoned s r.2.pool
      let u := handled s cx c.vhandle
      (onDie = false → CanTrap s cx → TrapsAt i s cx .objAbsent c.vhandle) ∧
      (onDie = true → near = false → CanTrap s cx → TrapsAt i s cx .memUncorrectable c.vhandle) ∧
      (near = true → field w 23 0 ≠ field w 47 24 → Completes i s cx (usesOf s cx i)
        { s := physWrite (physWrite u (r.2.pool + 64 + 8 * field w 23 0) (leBytes 8 v.toNat)) r.2.pool (leBytes 8 (w.toNat + 1))
          st := cx.st } pc) ∧
      (near = true → field w 23 0 = field w 47 24 → field w 63 48 < 0xFFFF → Completes i s cx (usesOf s cx i)
        { s := physWrite u r.2.pool (leBytes 8 (w.toNat + 2 ^ 48)), st := cx.st } pc))) ∧
  (∀ i n r s cx, i = .csrw n r ∨ i = .csrset n r ∨ i = .csrclr n r → current s = some cx → CanTrap s cx →
    csrAssigned cx.core n.toNat = false ∨ (n.toNat ∈ readOnlyCsr ∧ (n.toNat < 0x100 ∨ cx.st.kind = .supervisor)) ∨
      (n = 0x161 ∧ i ≠ .csrw n r) →
    TrapsAt i s cx .illegal (headTail i))

namespace Sys2Proof.Claims

/-- A translation of the partition of a core has been removed (R340): the TLBs keep exactly what a test does not select. -/
def TlbsKeep (s : State) (core : Nat) (gone : TlbEntry → Bool) (t : State) : Prop :=
  (∀ c, (t.core c).tlb = if sameDies s core (dieOf c) then (s.core c).tlb.filter (fun e => !gone e) else (s.core c).tlb) ∧
  (∀ k, (t.cluster k).tlb =
    if sameDies s core (k / 16) then (s.cluster k).tlb.filter (fun e => !gone e) else (s.cluster k).tlb)

/-- The entries that TLBI names (R340): of an object, and of a span of it; every entry for an object of 0. -/
def tlbiGone (a b : Word) (e : TlbEntry) : Bool :=
  field a 63 48 = 0 ∨ e.oid = field a 63 48 ∧ (b = 0 ∨ e.kind = 1 ∨
    e.obase / 2 ^ b.toNat ≤ field a 47 0 / 2 ^ b.toNat ∧ field a 47 0 / 2 ^ b.toNat * 2 ^ b.toNat < e.obase + 2 ^ (16 + e.sc))

/-- The words of TLBW are illegal (R335, R336). -/
def tlbwBad (a b : Word) : Prop :=
  let span := 2 ^ (16 + field a 15 11)
  field a 3 0 ≠ 0 ∨ field a 10 9 = 3 ∨ 16 < field a 15 11 ∨ field a 47 16 * 65536 % span ≠ 0 ∨
  (field a 10 9 ≠ 0 ∧ (field a 8 4 ≠ 0 ∨ b ≠ 0)) ∨
  (field a 10 9 = 0 ∧ (field a 8 7 = 3 ∨ field a 5 4 = 3 ∨
    (field a 8 7 = 1 ∧ (field a 47 11 ≠ 0 ∨ field b 63 48 ≠ 0 ∨ field b 5 0 ≠ 0)) ∨
    (field a 8 7 ≠ 1 ∧ (field b 63 32 * 65536 % span ≠ 0 ∨ span ≤ field b 31 0))))

/-- The operands of TLBI are legal (R340). -/
def tlbiLegal (a b : Word) : Prop := b = 0 ∨ field a 63 48 ≠ 0 ∧ 16 ≤ b.toNat ∧ b.toNat ≤ 48

/-- A translation of a CLB that CLBI names (R355): by the volume, and by the tile of a coordinate whose volume has a translation here. -/
def clbiGone (s : State) (cx : Ctx) (a b : Reg) (f : ClbEntry) : Prop :=
  a = .x 0 ∨ f.oid = field (readReg s cx a) 63 48 ∧ (b = .x 0 ∨
    ∀ e, lookup s cx.core (BitVec.ofNat 64 (field (readReg s cx a) 63 48 * 2 ^ 48)) = some e → e.kind = 1 →
      f.key = (readVolume s e.pbase).key (readReg s cx b))

/-- Whether a page lies in the span that word A of TLBW names (R336). -/
def inSpan (a : Word) (page : Nat) : Prop :=
  page / 2 ^ 32 = field a 63 48 ∧ (field a 8 7 = 1 ∨
    (field a 47 16 ≤ page % 2 ^ 32 ∧ page % 2 ^ 32 < field a 47 16 + 2 ^ field a 15 11))

end Sys2Proof.Claims

/-- tlbw with illegal words traps ILLEGAL, and PRIVILEGE for memory outside the partition; else it answers every
pending record of its span: an entry is written, replacing those that it overlaps, or the strands that wait are given
the decline. tlbi and clbi that name what R340 and R355 allow remove exactly those translations from every TLB of the
partition, or CLB of the die, once no outstanding access used them; a clbi of a coordinate whose volume has no
translation here removes every translation of the volume (log 112). migr goes on with xd owed and its request at an
engine; a move that completes writes xd with its code, and the extents are cut as log 113 says. repart of a quiescent
core sets the mode; it traps REPART_BUSY with STRANDCFG on another core, and ILLEGAL for an operand above 1. (R334,
R335, R336, R340, R342, R343, R344, R355, R362) -/
def Obligations.TranslationsAndMoves : Prop :=
  (∀ i a b s cx, CanTrap s cx →
    (i = .tlbw a b ∧ tlbwBad (readReg s cx a) (readReg s cx b)) ∨ (i = .tlbi a b ∧ ¬tlbiLegal (readReg s cx a) (readReg s cx b)) ∨
      (i = .repart a ∧ 1 < (readReg s cx a).toNat) →
    current s = some cx → isIllegal s cx (usesOf s cx i) = false → (∀ n ∈ operandNums (usesOf s cx i), n ∉ cx.st.owed) →
    operandsKnown s cx (usesOf s cx i) = true → TrapsAt i s cx .illegal (headTail i)) ∧
  (∀ a b s cx pc, Ready s cx (usesOf s cx (.tlbw a b)) → pc = successor s.cursor.header cx.st.pc →
    let wa := readReg s cx a
    let wb := readReg s cx b
    let k := clusterOf cx.core
    let ans := field wa 10 9
    let vol := field wa 8 7 = 1
    let e : TlbEntry := { oid := field wa 63 48, obase := field wa 47 16 * 65536, sc := field wa 15 11, kind := field wa 8 7
                          rd := wa.getLsbD 6, wr := wa.getLsbD 5, ex := wa.getLsbD 4
                          pbase := if vol then field wb 47 0 else field wb 63 32 * 65536, limit := if vol then 0 else field wb 31 0 }
    let room := ans ≠ 0 ∨ inPartreg s cx.core e.pbase (if vol then 64 else 2 ^ (16 + e.sc)) = true
    (¬tlbwBad wa wb → ¬room → CanTrap s cx → TrapsAt (.tlbw a b) s cx .privilege (headTail (.tlbw a b))) ∧
    (¬tlbwBad wa wb → room → ∃ d : Done, Completes (.tlbw a b) s cx (usesOf s cx (.tlbw a b)) d pc ∧ d.st = cx.st ∧
      d.s.mem = s.mem ∧ d.s.queues = s.queues ∧ d.s.launches = s.launches ∧
      (∀ m, m ∈ (d.s.cluster k).misses ↔ m ∈ (s.cluster k).misses ∧ ¬inSpan wa m.page) ∧
      (ans = 0 → e ∈ (d.s.cluster k).tlb ∧
        (∀ f ∈ (d.s.cluster k).tlb, f = e ∨ f ∈ (s.cluster k).tlb ∧ f.overlaps e = false) ∧
        (∀ c, clusterOf c = k → ∀ f ∈ (d.s.core c).tlb, f ∈ (s.core c).tlb ∧ f.overlaps e = false)) ∧
      (ans ≠ 0 → (d.s.cluster k).tlb = (s.cluster k).tlb) ∧
      (∀ key st page, s.strands.find key = some st → clusterOf (key / 256) = k → st.wait = some (.fill page) → inSpan wa page →
        (∃ m ∈ (s.cluster k).misses, m.page = page) →
        d.s.strands.find key = some { st with
          wait := none, declines := if ans = 0 then st.declines else st.declines ++ [(page, ans)] }))) ∧
  (∀ a b s cx pc, Ready s cx (usesOf s cx (.tlbi a b)) → pc = successor s.cursor.header cx.st.pc →
    let wa := readReg s cx a
    let wb := readReg s cx b
    let legal := tlbiLegal wa wb
    (legal → cx.st.wait ≠ some .removal → accessOut s cx.core (field wa 63 48) = false →
      ∃ d : Done, Completes (.tlbi a b) s cx (usesOf s cx (.tlbi a b)) d pc ∧ d.st = cx.st ∧ TlbsKeep s cx.core (tlbiGone wa wb) d.s ∧
        d.s.mem = s.mem ∧ d.s.strands = s.strands) ∧
    (legal → cx.st.wait ≠ some .removal → accessOut s cx.core (field wa 63 48) = true →
      ∃ t, exec (.tlbi a b) s = .next t ∧ t.cursor.stalled = true ∧ TlbsKeep s cx.core (tlbiGone wa wb) t ∧ t.mem = s.mem ∧
        t.strand cx.core cx.slot = some { cx.st with wait := some .removal }) ∧
    (legal → cx.st.wait = some .removal →
      (accessOut s cx.core (field wa 63 48) = true → Waits (.tlbi a b) s) ∧
      (accessOut s cx.core (field wa 63 48) = false →
        Completes (.tlbi a b) s cx (usesOf s cx (.tlbi a b)) { s := s, st := cx.st } pc))) ∧
  (∀ a b s cx pc, Ready s cx (usesOf s cx (.clbi a b)) → pc = successor s.cursor.header cx.st.pc →
    let busy := ∃ p ∈ s.cores, dieOf p.1 = dieOf cx.core ∧ ∃ f ∈ p.2.clb, clbiGone s cx a b f ∧ tileInUse s (dieOf cx.core) f.tile = true
    (busy → Waits (.clbi a b) s) ∧
    (¬busy → ∃ d : Done, Completes (.clbi a b) s cx (usesOf s cx (.clbi a b)) d pc ∧ d.st = cx.st ∧ d.s.mem = s.mem ∧
      d.s.strands = s.strands ∧ (∀ c, dieOf c ≠ dieOf cx.core → d.s.core c = s.core c) ∧
      (∀ c, dieOf c = dieOf cx.core → ∀ f, f ∈ (d.s.core c).clb ↔ f ∈ (s.core c).clb ∧ ¬clbiGone s cx a b f))) ∧
  (∀ r a b s cx pc, Ready s cx (usesOf s cx (.migr (.x r) a b)) → pc = successor s.cursor.header cx.st.pc →
    let w := readReg s cx a
    ∃ m : Move, Completes (.migr (.x r) a b) s cx (usesOf s cx (.migr (.x r) a b))
        { s := { s with moves := s.moves ++ [m], free := s.free + 1 }
          st := { cx.st with owed := if r.val = 0 then cx.st.owed else cx.st.owed ++ [r.val] } } pc ∧
      (∀ n ∈ s.moves, n.id ≠ m.id) ∧ m.core = cx.core ∧ m.gen = cx.st.gen ∧ m.reg = r.val ∧ m.addr = w ∧ m.oid = field w 63 48 ∧
      m.off = field w 47 0 ∧ m.target = (readReg s cx b).toNat ∧ m.engine < 2 ∧ m.code ≤ 6 ∧
      (∀ p, partitionOf s cx.core = some p → w.toNat % 65536 = 0 → m.oid ≠ 0 → m.oid < p.2.otcount →
        tableReadable s p.2 m.oid = false → m.code = 6) ∧
      (w.toNat % 65536 ≠ 0 ∨ m.oid = 0 → m.code = 1) ∧
      (m.code = 0 → pageWatched s cx.core w = false ∧ m.target % 65536 = 0 ∧ inPartreg s cx.core m.target 65536 = true ∧
        (∀ n ∈ s.moves, n.code = 0 → n.part = m.part → n.oid = m.oid → n.off ≠ m.off) ∧
        (s.moves.filter fun n => n.code == 0 && n.engine == m.engine).length < 8)) ∧
  (∀ s id m st, s.moves.find? (fun m => m.id == id) = some m → s.strand m.core 17 = some st →
    let left := s.moves.filter fun n => n.id != m.id
    let ends := fun c => exec (.migrationComplete id) s =
      .next (({ s with moves := left }).setStrand m.core 17 (st.deliverX m.reg (BitVec.ofNat 64 c)))
    (m.code ≠ 0 → ends m.code) ∧
    (∀ part p phys x n, m.code = 0 → partitionOf s m.core = some (part, p) → pageHome s p m.addr = some (phys, x, n) →
      (tableReadable s p m.oid = false → ends 6) ∧ (tableReadable s p m.oid = true →
      let w3 := descWord s p m.oid 3
      let room := field w3 31 0 + (addedExtents x m.off).length ≤ field w3 63 32
      let cells := (List.range 65536).map fun i => (cellAt s (phys + i)).getD 0
      let still := storesOut s m.core phys = false ∧ accessOut s m.core m.oid = false
      (¬room → ends 3) ∧ (room → ¬still → exec (.migrationComplete id) s = .next s) ∧
      (room → still → (∃ c ∈ cells, isPoisoned s c = true) → ends 6) ∧
      (room → still → (∀ c ∈ cells, isPoisoned s c = false) → ∃ t, exec (.migrationComplete id) s = .next t ∧ t.moves = left ∧ t.strand m.core 17 = some (st.deliverX m.reg 0) ∧
        TlbsKeep s m.core (fun e => e.hasPage (m.addr.toNat / 65536)) t ∧
        t.mem = (moveExtents (physWrite s m.target (cells.map s.byteAt)) p m.oid m.off m.target x n).mem)))) ∧
  (∀ r s cx pc, Ready s cx (usesOf s cx (.repart r)) → pc = successor s.cursor.header cx.st.pc →
    let w := (readReg s cx r).toNat
    (w ≤ 1 → quiescent s cx.core = false → CanTrap s cx → TrapsAt (.repart r) s cx .repartBusy (strandcfg s cx.core)) ∧
    (w ≤ 1 → quiescent s cx.core = true → Completes (.repart r) s cx (usesOf s cx (.repart r))
      { s := s.setCore cx.core { s.core cx.core with wide := w = 1 }, st := cx.st } pc))

namespace Sys2Proof.Claims

/-- The 8 bytes at an offset of a record. -/
def wordIn (bs : List Byte) (o : Nat) : Word := BitVec.ofNat 64 (little (fun k => bs.getD (o + k) 0) 8)

/-- A record has been stored at its cells, as a store of the issuing strand. -/
def RecordStored (s : State) (cells : List Nat) (bs : List Byte) (t : State) : Prop :=
  ∀ k, t.cell k = written (cells.zip bs) s.cell k

/-- The selection and the address of CTXSAVE and CTXREST pass R397, and the record lies in these cells. -/
structure RecordGood (s : State) (cx : Ctx) (a b : Reg) (write : Bool) (slot : Nat) (cells : List Nat) : Prop where
  selects : readReg s cx a = BitVec.ofNat 64 slot
  named : slot ≤ 17 ∧ ((s.core cx.core).wide = true → slot < 8 ∨ 16 ≤ slot)
  preempted : (s.core cx.core).preempted = true
  aligned : (readReg s cx b).toNat % 4096 = 0
  found : recordCells s (partyOf cx.core cx.st) write (readReg s cx b) (if slot = 17 then 288 else 1) = .ok cells

end Sys2Proof.Claims

/-- eret of a nested trap clears nest and goes on at EPC, resumed (R37 holds its next instruction to a head).
Otherwise, with no event held, the strand that ESTRAND names goes on at EPC for act 0, is gone for act 1 (its claim
ends, its row is done, its message is acknowledged), and for act 2 the launch of the core ends ABANDONED with event 2;
act is cleared, the supervisor is idle, and the core is unfrozen unless it is pre-empted. ctxsave and ctxrest trap
ILLEGAL for a selection that R397 forbids, PRIVILEGE from a user strand with another (log 114), ctxsave ILLEGAL for a
vacated slot too, and else MISALIGNED for a record off 4 KiB. ctxsave of an empty slot stores a record of a header and
zeros; of a strand with nothing outstanding it stores its record and vacates the slot; ctxrest of that record puts the
strand back with the pc, flags and registers that it holds. A saved core that is empty can be powered down, but for
what its sends have yet to hear and arrival-word adds on their way (logs 11, 58). (R387, R394, R397, R398, R399, R400) -/
def Obligations.ReturnsAndContexts : Prop :=
  (∀ s cx, Ready s cx (usesOf s cx .eret) → (s.core cx.core).ecause.getLsbD 11 = true →
    cx.slot = 17 → ∃ t0 st, Retired cx (usesOf s cx .eret) { s := s.setCore cx.core { s.core cx.core with
        ecause := (s.core cx.core).ecause &&& ~~~((1 : Word) <<< 11) }, st := cx.st } (s.core cx.core).epc t0 ∧
      t0.strand cx.core 17 = some st ∧ exec .eret s = .next (t0.setStrand cx.core 17 { st with resumed := true })) ∧
  (∀ s cx act, Ready s cx (usesOf s cx .eret) → cx.slot = 17 →
    let c := s.core cx.core
    c.ecause.getLsbD 11 = false → c.restoring = false → (∀ o ∈ c.ops, o.taken = false) → c.held = [] →
    (∀ k ≤ 17, ∀ st, s.strand cx.core k = some st → st.undeliverable = false) →
    act = (if c.noAct then 0 else field c.ecause 63 62) →
    let idle := { c with ecause := c.ecause &&& ~~~((3 : Word) <<< 62), noAct := false, supRunning := false, frozen := c.preempted }
    ∃ t0 t, Retired cx (usesOf s cx .eret) { s := s, st := cx.st } cx.st.pc t0 ∧ exec .eret s = .next t ∧
      (∀ slot st, slot ≤ 16 → field c.estrand 4 0 = slot → s.strand cx.core slot = some st → field c.estrand 63 32 = st.gen % 2 ^ 32 →
        (act = 0 → t = (stopWaiting (t0.setStrand cx.core slot { st with
          pc := c.epc, resumed := true, trimming := st.trimming.filter fun r => r.pc == c.epc }) st.gen).setCore cx.core idle) ∧
        (act = 1 → t.strands.find (placeKey cx.core slot) = none ∧ t.mem = s.mem ∧
          (st.claim = none → (t.core cx.core).supRunning = false ∧ (t.core cx.core).frozen = c.preempted) ∧
          (∀ die idx pos, st.claim = some (die, idx, pos) →
            ∀ e, (t.die die).watch.find idx = some e → ∀ u ∈ e.tracks, u.pos = pos → u.running = false) ∧
          (∀ op j, st.drain = some (op, j) → ∀ o ∈ (t.core cx.core).tile.queue ++ (t.core cx.core).tile.ended, o.id = op →
            ∃ p ∈ c.tile.queue ++ c.tile.ended, p.id = op ∧ o.rowsDone = p.rowsDone + 1) ∧
          (∀ m, st.message = some m →
            (m.source = none → t.pkg.peerReplies = s.pkg.peerReplies ++ [(true, 0)]) ∧
            (∀ c' place x, m.source = some c' → m.gen ≠ st.gen → s.byGen c' m.gen = some (place, x) →
              (c', place) ≠ (cx.core, slot) →
              ∃ y, t.strand c' place = some y ∧ ∀ a ∈ y.pend, a.seq = m.seq → a.performed = true ∧ a.dropped = false)))) ∧
      (16 < field c.estrand 4 0 → act ≤ 1 ∨ act = 3 → t = t0.setCore cx.core idle) ∧
      (∀ l p, act = 2 → c.lid = some l → partOf s cx.core = some p →
        t = (raiseEvent { t0 with launches := s.launches.map fun (x : Launch) => if x.lid = l ∧ x.part = p ∧ x.phase = Phase.running then
          { x with phase := .ending, code := 10 } else x }
          ⟨2, BitVec.ofNat 64 p <<< 32 ||| BitVec.ofNat 64 l, BitVec.ofNat 64 (e2Of cx.core)⟩).setCore cx.core idle)) ∧
  (∀ i a b s cx, i = .ctxsave a b ∨ i = .ctxrest a b → current s = some cx → CanTrap s cx → isIllegal s cx (usesOf s cx i) = false →
    (∀ n ∈ operandNums (usesOf s cx i), n ∉ cx.st.owed) → operandsKnown s cx (usesOf s cx i) = true →
    let w := (readReg s cx a).toNat
    let unnamed := 17 < w ∨ ((s.core cx.core).wide = true ∧ 8 ≤ w ∧ w < 16)
    (unnamed ∨ cx.st.kind = .supervisor ∧ (s.core cx.core).preempted = false → TrapsAt i s cx .illegal (headTail i)) ∧
    (¬unnamed → cx.st.kind ≠ .supervisor → TrapsAt i s cx .privilege (headTail i))) ∧
  (∀ i a b s cx, i = .ctxsave a b ∨ i = .ctxrest a b → Ready s cx (usesOf s cx i) → CanTrap s cx →
    let vacant := i = .ctxsave a b ∧ (readReg s cx a).toNat ∈ (s.core cx.core).vacated
    (vacant → TrapsAt i s cx .illegal (headTail i)) ∧
    (¬vacant → (readReg s cx b).toNat % 4096 ≠ 0 → TrapsAt i s cx .misaligned (readReg s cx b))) ∧
  (∀ a b s cx pc slot cells, Ready s cx (usesOf s cx (.ctxsave a b)) → pc = successor s.cursor.header cx.st.pc →
    RecordGood s cx a b true slot cells → slot ∉ (s.core cx.core).vacated →
    (slot ≤ 16 → s.strand cx.core slot = none → ∃ bs d, Completes (.ctxsave a b) s cx (usesOf s cx (.ctxsave a b)) d pc ∧
      d.st = cx.st ∧ RecordStored s cells bs d.s ∧ d.s.strands = s.strands ∧ d.s.queues = s.queues ∧
      wordIn bs 0 = slotHeader s cx.core slot false ∧ ∀ o, 8 ≤ o → bs.getD o 0 = 0) ∧
    (∀ st, slot ≤ 16 → s.strand cx.core slot = some st →
      (st.ld ≠ 0 ∨ st.st ≠ 0 ∨ st.remote ≠ 0 → Waits (.ctxsave a b) s) ∧
      (st.ld = 0 → st.st = 0 → st.remote = 0 → (∀ p ∈ st.pend, ∀ r x y n c, p.op ≠ .fship r x y n c) →
        ∃ bs d, Completes (.ctxsave a b) s cx (usesOf s cx (.ctxsave a b)) d pc ∧ d.st = cx.st ∧ RecordStored s cells bs d.s ∧
          d.s.strands.find (placeKey cx.core slot) = none ∧ d.s.strand cx.core (savedPlace slot) = some st ∧
          (d.s.core cx.core).vacated = slot :: (s.core cx.core).vacated ∧ wordIn bs 0 = slotHeader s cx.core slot true ∧
          wordIn bs 0x10 = st.pc ∧ wordIn bs 0x18 = st.fstat ∧ wordIn bs 0x20 = st.srcnt ∧ wordIn bs 0xB8 = st.e5 ∧
          (∀ n < 48, wordIn bs (0x100 + 8 * n) = st.x n) ∧
          (∀ n < 32, ∀ k < 8, wordIn bs (0x280 + 64 * n + 8 * k) = (st.v n).extractLsb' (64 * k) 64) ∧
          (∀ q < 8, wordIn bs (0x50 + 8 * q) = ((portOf st q).map (·.target)).getD 0) ∧
          ((∀ n < 16, (st.counter n).pending < 4096) → ∀ n < 16,
            ((st.counter n).pending + if (st.counter n).under then 4096 else 0) = (bs.getD (0x28 + 2 * n) 0).toNat + 256 * (bs.getD (0x29 + 2 * n) 0).toNat))) ∧
    (slot = 17 → unitsPaused (s.core cx.core) = false → Waits (.ctxsave a b) s) ∧
    (slot = 17 → unitsPaused (s.core cx.core) = true → ∃ bs d, Completes (.ctxsave a b) s cx (usesOf s cx (.ctxsave a b)) d pc ∧ d.st = cx.st ∧ RecordStored s cells bs d.s ∧
      d.s.strands = s.strands ∧ wordIn bs 0 = coreHeader s cx.core ∧
      (∀ o < 524288, bs.getD (0x20000 + o) 0 = (s.core cx.core).spad.get 0 o))) ∧
  (∀ a b s cx pc slot cells, Ready s cx (usesOf s cx (.ctxrest a b)) → pc = successor s.cursor.header cx.st.pc →
    RecordGood s cx a b false slot cells → (∀ k ∈ cells, isPoisoned s k = false) →
    let bs := cells.map s.byteAt
    (slot ≤ 16 → s.strand cx.core slot = none → slot ∉ (s.core cx.core).vacated → wordIn bs 0 = slotHeader s cx.core slot false →
      Completes (.ctxrest a b) s cx (usesOf s cx (.ctxrest a b))
        { s := touchRecord s cx.core (readReg s cx a) (readReg s cx b), st := cx.st } pc) ∧
    (∀ st copy, slot ≤ 16 → slot ∈ (s.core cx.core).vacated → s.strand cx.core (savedPlace slot) = some st →
      (s.core cx.core).copies.find slot = some copy → wordIn bs 0 = slotHeader s cx.core slot true →
      (∀ o < 4096, changeable o = false → bs.getD o 0 = copy.getD o 0) →
      ∃ d w, Completes (.ctxrest a b) s cx (usesOf s cx (.ctxrest a b)) d pc ∧ d.st = cx.st ∧ d.s.mem = s.mem ∧
        d.s.strands.find (placeKey cx.core (savedPlace slot)) = none ∧ d.s.strand cx.core slot = some w ∧ w.gen = st.gen ∧
        w.pc = wordIn bs 0x10 ∧ w.srcnt = wordIn bs 0x20 ∧ (∀ n, 0 < n → n < 48 → w.x n = wordIn bs (0x100 + 8 * n)) ∧ w.x 0 = 0 ∧
        (∀ n < 32, ∀ k < 8, (w.v n).extractLsb' (64 * k) 64 = wordIn bs (0x280 + 64 * n + 8 * k)) ∧ w.ld = st.ld ∧ w.st = st.st ∧
        w.cp = st.cp ∧ w.tl = st.tl ∧ w.pend = st.pend ∧ w.level = st.level ∧
        (st.wait = some .depart → w.pc = st.pc → w.wait = some .depart)) ∧
    (slot = 17 → wordIn bs 0 = coreHeader s cx.core →
      little (fun k => bs.getD (8 + k) 0) 4 = (crc32 ((bs.drop 0x1000).take 126976)).toNat →
      ∃ d, Completes (.ctxrest a b) s cx (usesOf s cx (.ctxrest a b)) d pc ∧ d.st = cx.st ∧ d.s.mem = s.mem ∧ d.s.strands = s.strands ∧
        (d.s.core cx.core).bad = [] ∧ ∀ o < 524288, (d.s.core cx.core).spad.get 0 o = bs.getD (0x20000 + o) 0)) ∧
  (∀ s core, let c := s.core core
    (∀ tag r, c.preempted = true → (∀ k ≤ 16, s.strands.find (placeKey core k) = none) → (tag, r) ∈ s.records → r.core = core →
      r.queues = localQueues s core → r.state.locks = c.locks → r.state.ops.map (withReports c.ops) = c.ops →
      r.state.tile = c.tile → r.state.merge = c.merge → withAdds r.state.channels c.channels = withAdds c.channels c.channels →
      c.poweredDown = false → c.supRunning = false →
      ∃ t, exec (.corePowerDown core) s = .next t ∧ t.mem = s.mem ∧
        (∀ q, (localQueues s core).find q = none → t.queues.find q = s.queues.find q) ∧
        (t.core core).poweredDown = true ∧ (t.core core).ops = c.ops.filter (·.kind == .send) ∧ (t.core core).locks = [] ∧
        (∀ h, (t.core core).channels.get {} h = { adds := (c.channels.get {} h).adds }) ∧ (t.core core).preempted = true ∧
        (∀ k, k ≠ core → t.core k = s.core k)) ∧
    (c.preempted = false → exec (.corePowerDown core) s = .next s))

namespace Sys2Proof.Claims

/-- The strand's operand names a watch of its own launch (R324). -/
structure NamesWatch (s : State) (cx : Ctx) (r : Reg) (l : Launch) (info : WatchInfo) : Prop where
  launch : launchOf s cx.core = some l
  own : (envReg s cx.core cx.st 3).toNat = l.lid
  watch : l.img.watches[(readReg s cx r).toNat]? = some info

/-- An entry of a watch of a launch on a die of its partition (R316). -/
def ofWatch (s : State) (l : Launch) (number d : Nat) (e : WatchEntry) : Bool :=
  partOfDie s d == some l.part && e.lid == l.lid && e.number == number

/-- Every entry of a watch on the dies of its partition has become `f` of what it was; the other entries are as before (R316). -/
def EntriesBecome (s : State) (l : Launch) (number : Nat) (f : WatchEntry → WatchEntry) (t : State) : Prop :=
  ∀ d < 8, ∀ k < 256, (t.die d).watch.find k = ((s.die d).watch.find k).map fun e => if ofWatch s l number d e then f e else e

/-- Triggers that a disarm drops (R323, R324): the pending ones, a held overflow count, and the changes coalesced into each claim. -/
def droppedBy (e : WatchEntry) : Nat :=
  e.tracks.countP (fun t => !t.running) + asBit e.ovf + e.tracks.countP fun t => t.running && t.lateCount != 0

/-- A disarmed entry (R324). -/
def Disarmed (e e' : WatchEntry) (why : Nat) : Prop :=
  e'.armed = false ∧ e'.why = why ∧ e'.ovf = false ∧ e'.tracks.map (·.pos) = (e.tracks.filter (·.running)).map (·.pos) ∧
  (∀ t ∈ e'.tracks, t.running = true ∧ t.lateCount = 0) ∧ e'.cells = e.cells ∧ e'.start = e.start ∧ e'.lid = e.lid ∧ e'.number = e.number

/-- The cells of a range that a die homes. -/
def homedOn (cells : List (Nat × Word)) (d : Nat) : List (Nat × Word) := cells.filter fun c => memberOf c.1 == d

/-- The lowest index of a die's table that is free once the entries of a watch are taken out of it (R316). -/
def indexFor (s : State) (l : Launch) (number d : Nat) : Option Nat :=
  firstBelow 256 fun k => ((s.die d).watch.find k).all (ofWatch s l number d)

/-- The entry of a freshly armed watch on a die: its range and limits, with nothing counted (R316, R317). -/
structure ArmedEntry (l : Launch) (r : WatchRange) (cells : List (Nat × Word)) (e : WatchEntry) : Prop where
  range : e.start = r.start ∧ e.granules = r.size / 64 ∧ e.climit = r.climit ∧ e.rate = r.rate ∧ e.cells = cells
  owner : e.lid = l.lid ∧ e.stage = r.stage ∧ e.number = r.number
  state : e.armed = true ∧ e.why = 0 ∧ e.ovf = false ∧ e.tracks = []
  counts : e.silent = 0 ∧ e.dropped = 0 ∧ e.started = 0 ∧ e.coalesced = 0

/-- Whether every die that homes part of a range has a core of the handler's stage, with a reserve, and a free entry (R317). -/
def armable (s : State) (l : Launch) (r : WatchRange) (cells : List (Nat × Word)) : Bool :=
  (List.range 8).all fun d => homedOn cells d == [] || ((indexFor s l r.number d).isSome &&
    (l.stages[r.stage]?).any fun g => g.reserve != 0 && g.cores.any fun c => dieOf c == d)

/-- What arming a watch makes of the tables (R316, R324): on each die of the partition the old entries of the watch are gone, and each die
that homes part of the range has an armed entry at the lowest free index. -/
def WatchArmed (s : State) (l : Launch) (r : WatchRange) (cells : List (Nat × Word)) (t : State) : Prop :=
  ∀ d < 8, ∀ k < 256,
    if homedOn cells d ≠ [] ∧ indexFor s l r.number d = some k then
      ∃ e, (t.die d).watch.find k = some e ∧ ArmedEntry l r (homedOn cells d) e
    else (t.die d).watch.find k = ((s.die d).watch.find k).filter fun e => !ofWatch s l r.number d e

/-- The claim of a strand once the entries of a watch are taken out (log 29): none on one of them. -/
def claimLeft (s : State) (l : Launch) (number : Nat) : Option (Nat × Nat × Nat) → Option (Nat × Nat × Nat)
  | some c => if decide (c.1 < 8 ∧ c.2.1 < 256) && ((s.die c.1).watch.find c.2.1).any (ofWatch s l number c.1) then none else some c
  | none => none

/-- The place in which a trigger of a handler stage starts (R270, R320, log 79): the first core of the stage on the die with a free
reserved slot, and the lowest such slot for which there is an allocation. -/
def triggerPlace (s : State) (die stage : Nat) (g : StageInfo) : Option (Nat × Nat) :=
  (g.cores.filter fun c => dieOf c == die).findSome? fun c =>
    (freeReserved s c stage fun k => (triggerAlloc s c k).isSome).map fun k => (c, k)

end Sys2Proof.Claims

/-- A watch instruction whose operand names no watch of its launch traps ILLEGAL. warm, armed before or not, traps
MISALIGNED for a start or size off 64 bytes, OBJ_BOUNDS beyond the object and OBJ_PERMISSION for a range that fails
R317; a size of 0 disarms; else the watch's old entries are taken out (claims on them end, log 29) and every die that
homes part of the range arms its lowest free entry with counts 0. wdisarm disarms every entry with why 1 and counts
the triggers dropped. wstat writes the sums over the entries. wack ends the strand's claim, and an overflow trigger
takes the freed position; a second one does nothing. The oldest pending trigger starts a strand with the registers of
R320 in a free reserved slot of the first core of its stage on the die (log 79; x2, x3 and x6 are 0 for an overflow
trigger). A rate window that has run 4,000 clk starts again at count 0. (R316, R317, R319, R320, R321, R323, R324,
R325) -/
def Obligations.WatchInstructions : Prop :=
  (∀ i r a b d s cx, i = .warm r a b ∨ i = .wdisarm r ∨ i = .wstat d r → current s = some cx → CanTrap s cx →
    isIllegal s cx (usesOf s cx i) = false → (∀ n ∈ operandNums (usesOf s cx i), n ∉ cx.st.owed) →
    operandsKnown s cx (usesOf s cx i) = true → (∀ l info, ¬NamesWatch s cx r l info) → TrapsAt i s cx .illegal (headTail i)) ∧
  (∀ r a b s cx pc l info, Ready s cx (usesOf s cx (.warm r a b)) → pc = successor s.cursor.header cx.st.pc →
    NamesWatch s cx r l info →
    let w : WatchRange :=
      { start := if a = .x 0 then l.objects.getD info.object 0 + BitVec.ofNat 64 info.offset else readReg s cx a
        size := if a = .x 0 then info.size else (readReg s cx b).toNat
        climit := info.coalesce, rate := info.rate, stage := info.handler, number := (readReg s cx r).toNat }
    (w.start.toNat % 64 ≠ 0 ∨ w.size % 64 ≠ 0 → CanTrap s cx → TrapsAt (.warm r a b) s cx .misaligned w.start) ∧
    (w.start.toNat % 64 = 0 → w.size = 0 → ∃ d : Done, Completes (.warm r a b) s cx (usesOf s cx (.warm r a b)) d pc ∧ d.st = cx.st ∧
      d.s.mem = s.mem ∧ d.s.strands = s.strands ∧ ∃ f, EntriesBecome s l w.number f d.s ∧
        ∀ e, Disarmed e (f e) 0 ∧ (f e).dropped = 0 ∧ (f e).silent = 0 ∧ (f e).started = 0 ∧ (f e).coalesced = 0) ∧
    (∀ p, w.start.toNat % 64 = 0 → w.size % 64 = 0 → 0 < w.size → s.parts.find l.part = some p →
      let inside := rangeInObject s p w.start w.size
      let ok := watchableObject s p (field w.start 63 48) (field l.image 63 48) &&
        (watchCells s p w.start w.size).any fun cells => armable s l w cells
      (inside = false → CanTrap s cx → TrapsAt (.warm r a b) s cx .objBounds w.start) ∧
      (inside = true → ok = false → CanTrap s cx → TrapsAt (.warm r a b) s cx .objPermission w.start) ∧
      (∀ cells, inside = true → ok = true → watchCells s p w.start w.size = some cells →
        ∃ d : Done, Completes (.warm r a b) s cx (usesOf s cx (.warm r a b)) d pc ∧
          d.st = { cx.st with claim := claimLeft s l w.number cx.st.claim } ∧ d.s.mem = s.mem ∧ d.s.queues = s.queues ∧
          (∀ k, d.s.strands.find k = (s.strands.find k).map fun st => { st with claim := claimLeft s l w.number st.claim }) ∧
          WatchArmed s l w cells d.s ∧
          (∀ d' < 8, ∀ k e, (d.s.die d').watch.find k = some e → homedOn cells d' ≠ [] → indexFor s l w.number d' = some k →
            ∀ k₀ e₀, k₀ < 256 → (s.die d').watch.find k₀ = some e₀ → ofWatch s l w.number d' e₀ = true →
              (∀ j < k₀, ∀ x, (s.die d').watch.find j = some x → ofWatch s l w.number d' x = false) →
              e.window = e₀.window ∧ e.windowCount = e₀.windowCount)))) ∧
  (∀ r s cx pc l info, Ready s cx (usesOf s cx (.wdisarm r)) → pc = successor s.cursor.header cx.st.pc → NamesWatch s cx r l info →
    ∃ d : Done, Completes (.wdisarm r) s cx (usesOf s cx (.wdisarm r)) d pc ∧ d.st = cx.st ∧ d.s.mem = s.mem ∧ d.s.strands = s.strands ∧
      d.s.queues = s.queues ∧ ∃ f, EntriesBecome s l (readReg s cx r).toNat f d.s ∧
        ∀ e, Disarmed e (f e) 1 ∧ (f e).dropped = e.dropped + droppedBy e ∧ (f e).started = e.started) ∧
  (∀ d r s cx pc l info, Ready s cx (usesOf s cx (.wstat d r)) → pc = successor s.cursor.header cx.st.pc → NamesWatch s cx r l info →
    let es := (entriesOf s l.part l.lid (readReg s cx r).toNat).map (·.2.2)
    ∃ w : Word, Writes s cx (.wstat d r) d w pc ∧ field w 63 63 = asBit (es ≠ [] ∧ ∀ e ∈ es, e.armed = true) ∧
      field w 60 60 = asBit (es.any (·.ovf)) ∧ field w 59 48 = (es.map (·.silent)).sum % 4096 ∧
      field w 47 32 = (es.map (·.dropped)).sum % 65536 ∧ field w 31 16 = (es.map (·.started)).sum % 65536 ∧
      field w 15 0 = (es.map (·.coalesced)).sum % 65536 ∧
      (∀ e ∈ es, e.why ≠ 0 → e.why < 4 → (∀ f ∈ es, f ≠ e → f.why ≠ 0 → f.whyAt < e.whyAt) → field w 62 61 = e.why) ∧
      ((∀ e ∈ es, e.why = 0) → field w 62 61 = 0)) ∧
  (∀ s cx pc, Ready s cx (usesOf s cx .wack) → pc = successor s.cursor.header cx.st.pc →
    (∃ d : Done, Completes .wack s cx (usesOf s cx .wack) d pc ∧ d.st = { cx.st with claim := none } ∧ d.s.mem = s.mem ∧
      d.s.strands = s.strands ∧ d.s.queues = s.queues ∧ d.xs = [] ∧ (cx.st.claim = none → d.s = s) ∧
      (∀ die idx pos e t, cx.st.claim = some (die, idx, pos) → (s.die die).watch.find idx = some e →
        e.tracks.find? (fun t => t.pos == pos && t.running) = some t →
        let left := e.tracks.filter fun u => u.pos != pos
        ∃ e', (d.s.die die).watch.find idx = some e' ∧
          (t.lateCount = 0 → e.ovf = false → e'.tracks = left) ∧
          (∀ p, t.lateCount = 0 → e.ovf = true → firstBelow 64 (fun p => left.all (·.pos != p)) = some p → e'.ovf = false ∧
            let used := (rollWindow s.clk e).windowCount
            (e.rate ≤ used → e'.armed = false ∧ e'.why = 3 ∧ ∀ u ∈ e'.tracks, u.running = true) ∧
            (used < e.rate → ∃ u, e'.tracks = left ++ [u] ∧ u.pos = p ∧ u.overflow = true ∧ u.running = false ∧
              u.count = e.ovfCount)) ∧
          (t.lateCount ≠ 0 → ∃ u ∈ e'.tracks, u.pos = pos ∧ u.running = false ∧ u.overflow = t.overflow ∧ u.count = t.lateCount ∧
            u.before = (if t.overflow then 0 else t.lateBefore) ∧ u.after = (if t.overflow then 0 else t.lateAfter) ∧
            u.marks = t.lateMarks ∧ u.lateCount = 0)))) ∧
  (∀ s die idx e t l g, (s.die die).watch.find idx = some e → oldestTrigger s die e = some t →
    (partOfDie s die).bind (fun p => s.launch p e.lid) = some l → l.stages[e.stage]? = some g → l.phase = .running →
    (triggerPlace s die e.stage g = none → exec (.triggerStart die idx) s = .next s) ∧
    (∀ core slot, triggerPlace s die e.stage g = some (core, slot) →
      ∃ u st e', exec (.triggerStart die idx) s = .next u ∧ u.mem = s.mem ∧ u.strand core slot = some st ∧ st.kind = .triggered ∧
      st.pc = BitVec.ofNat 64 (l.codeOid * 2 ^ 48) ||| BitVec.ofNat 64 g.entry ∧
      st.x 1 = (if t.overflow then e.start else BitVec.ofNat 64 t.granule) ∧ st.x 4 = BitVec.ofNat 64 e.number ∧
      (t.overflow = true → st.x 2 = 0 ∧ st.x 3 = 0 ∧ st.x 6 = 0) ∧
      (t.overflow = false → st.x 2 = t.before ∧ st.x 3 = t.after ∧ st.x 6 = BitVec.ofNat 64 (t.marks % 256)) ∧ field (st.x 5) 31 0 = t.count % 2 ^ 32 ∧
      field (st.x 5) 63 63 = asBit t.overflow ∧ field (st.x 5) 62 62 = asBit (t.sat && !t.overflow) ∧ field (st.x 5) 61 32 = 0 ∧
      (∀ n, n = 0 ∨ 6 < n → st.x n = 0) ∧ (∀ n, st.v n = 0) ∧ st.rank = t.pos ∧ st.level = g.prio ∧ st.fstat = 0 ∧ st.srcnt = 0 ∧
      st.claim = some (die, idx, t.pos) ∧ (u.die die).watch.find idx = some e' ∧ e'.started = e.started + 1 ∧
      (∀ v ∈ e'.tracks, v.pos = t.pos → v.running = true) ∧
      (∀ o, st.spadBase ≤ o → o < st.spadBase + st.spadSize → (u.core core).spad.get 0 o = 0) ∧
      (∀ k, k ≠ placeKey core slot → u.strands.find k = s.strands.find k))) ∧
  (∀ s die idx,
    ((s.die die).watch.find idx = none → exec (.triggerStart die idx) s = .next s ∧ exec (.watchRateWindow die idx) s = .next s) ∧
    (∀ e, (s.die die).watch.find idx = some e → oldestTrigger s die e = none → exec (.triggerStart die idx) s = .next s)) ∧
  (∀ s die idx e, (s.die die).watch.find idx = some e → ∃ t e', exec (.watchRateWindow die idx) s = .next t ∧ t.mem = s.mem ∧
    t.strands = s.strands ∧ (t.die die).watch.find idx = some e' ∧
    (e.window + 4000 ≤ s.clk → e'.windowCount = 0 ∧ s.clk < e'.window + 4000 ∧ e'.window ≤ s.clk) ∧
    (s.clk < e.window + 4000 → e' = e))

namespace Sys2Proof.Claims

/-- Word k of a packet in the strand's scratchpad (R314). -/
def packetWord (s : State) (cx : Ctx) (o k : Nat) : Word :=
  BitVec.ofNat 64 (little (fun j => (s.core cx.core).spad.get 0 (padPlace cx.st 0 (o + 8 * k + j))) 8)

/-- Word i of shape record k of a core's record page (R274). -/
def shapeWord (s : State) (core k i : Nat) : Word :=
  BitVec.ofNat 64 (little (fun j => (s.core core).recPage.get 0 (0x100 + 64 * k + 8 * i + j)) 8)

/-- The first index and the length of block j of a part on an axis of a shape record (R277, R315): an axis that is not divided is one
block of extent 0, which part 0 has; a cyclic one deals blocks in turn to the parts. -/
def shareOf (w : Nat → Word) (axisY : Bool) (parts p j : Nat) : Nat × Nat :=
  let f := w 1
  let on := f.getLsbD (if axisY then 15 else 11)
  let n := (w (2 + if on then (if axisY then field f 13 12 else field f 9 8) else 0)).toNat
  let size := if on then (w (if axisY then 7 else 6)).toNat else n
  let block := if on && f.getLsbD (if axisY then 14 else 10) then p + j * parts else p
  if (on && f.getLsbD (if axisY then 14 else 10)) = false ∧ j ≠ 0 then (n, 0)
  else if n ≤ block * size then (n, 0) else (block * size, min size (n - block * size))

/-- The ranges that the watches of a launch declare, each with its granules (R66, R317); none when a page of one has no home that can be
watched. -/
def declaredRanges (s : State) (l : Launch) (p : Partition) : Option (List (WatchRange × List (Nat × Word))) :=
  l.img.watches.zipIdx.mapM fun w =>
    (watchCells s p (l.objects.getD w.1.object 0 + BitVec.ofNat 64 w.1.offset) w.1.size).map fun cells =>
      ({ start := l.objects.getD w.1.object 0 + BitVec.ofNat 64 w.1.offset, size := w.1.size, climit := w.1.coalesce, rate := w.1.rate,
         stage := w.1.handler, number := w.2 }, cells)

/-- Those of the ranges that a die homes part of, in watch-number order. -/
def rangesOn (rs : List (WatchRange × List (Nat × Word))) (d : Nat) : List (WatchRange × List (Nat × Word)) :=
  rs.filter fun r => homedOn r.2 d != []

/-- The free indices of a die's watch table, lowest first. -/
def freeIndices (s : State) (d : Nat) : List Nat := (List.range 256).filter fun k => ((s.die d).watch.find k).isNone

/-- The conditions of R317 on the declared watches of a launch, for a placement: the ranges lie in watchable objects, the handler stages
have a reserve and a core on every die that homes a range, and every die has entries enough. -/
def WatchesFit (s : State) (l : Launch) (q : Partition) (p : Placing) (rs : List (WatchRange × List (Nat × Word))) : Prop :=
  declaredRanges s l q = some rs ∧
  (∀ r ∈ rs, rangeInObject s q r.1.start r.1.size = true ∧
    watchableObject s q (field r.1.start 63 48) (field l.image 63 48) = true ∧
    ∀ d < 8, homedOn r.2 d ≠ [] → ∃ g, l.img.stages[r.1.stage]? = some g ∧ g.reserve ≠ 0 ∧
      ∃ c ∈ p.cores.getD r.1.stage [], dieOf c = d) ∧
  ∀ d < 8, (rangesOn rs d).length ≤ (freeIndices s d).length

/-- The watch tables once the watches of a launch are armed (R274, R316): on each die the ranges homed there take the lowest free entries
in turn, and the other entries are as before. -/
def TablesArmed (s : State) (l : Launch) (rs : List (WatchRange × List (Nat × Word))) (t : State) : Prop :=
  ∀ d < 8,
    (∀ (j : Nat) r k, (rangesOn rs d)[j]? = some r → (freeIndices s d)[j]? = some k →
      ∃ e, (t.die d).watch.find k = some e ∧ ArmedEntry l r.1 (homedOn r.2 d) e) ∧
    ∀ k, k ∉ (freeIndices s d).take (rangesOn rs d).length → (t.die d).watch.find k = (s.die d).watch.find k

/-- The launches of a partition that wait for their claim at the request of a strand (R314). -/
def waitingOf (s : State) (part : Nat) : List Launch := s.launches.filter fun l => l.part == part && l.phase == .waiting && l.packet.isNone

/-- The completion record of a launch with a code that no strand of which has run, as it stands in the cells of its 16 bytes (R264). -/
def recordOf (lid code : Nat) (cells : List Nat) : List (Nat × Byte) :=
  (cells.drop 8).zip (List.replicate 8 0) ++ (cells.take 8).zip (leBytes 8 (lid * 2 ^ 32 + code * 2 ^ 8 + 1))

/-- A LAUNCH whose packet is in order goes on with the id of a launch that fails at once with a code: nothing waits for a claim or runs,
and the record that the packet names is written (R264, R314). `u` is the state that the controller leaves up to then. -/
def LaunchFails (s u : State) (cx : Ctx) (d p : Reg) (pc : Word) (part lid : Nat) (status : Word) (code : Nat) : Prop :=
  ∃ t, Completes (.launch d p) s cx (usesOf s cx (.launch d p)) { s := t, st := cx.st, xs := [(d, BitVec.ofNat 64 lid)] } pc ∧
    t.launches = s.launches ∧ (status = 0 → t.mem = u.mem) ∧
    ∀ cells, status ≠ 0 → hostCells u part true status 16 = some cells →
      ∀ k, t.cell k = written (recordOf lid code cells) u.cell k

/-- A claim whose turn it is fails with a code (R264, R270 to R273): the launch is gone and holds no core, its record and its queue have
the code, and its packet is counted. -/
def ClaimFails (s : State) (part : Nat) (l : Launch) (code : Nat) : Prop :=
  ∃ t, exec (.claimGrant part) s = .next t ∧
    t.launches = (s.launches.filter fun m => !(m.lid == l.lid && m.part == l.part)) ∧ (∀ c, (t.core c).lid = (s.core c).lid) ∧
    (∀ cells, l.packet = none → l.status ≠ 0 → hostCells s l.part true l.status 16 = some cells →
      ∀ k, t.cell k = written (recordOf l.lid code cells) s.cell k) ∧
    ∀ h num p, l.packet = some (h, num) → (hostQueue s h).packets.find? (fun p => p.num == num) = some p → p.silent = false →
      (hostQueue t h).lerr = code ∧ (hostQueue t h).done = ((hostQueue s h).done + 1) % 2 ^ 32

end Sys2Proof.Claims

/-- launch that is ready waits for an outstanding acquire, writes 0 for a packet that R261 and R314 forbid, waits
while 64 claims of strands wait, and otherwise goes on with the launch started and its id, one that no live launch of
the partition has, or the named group; the launch fails at once with IMAGE or LIMIT for its image, GROUP for a group
that is below 2^31 or in use, RECT for a rectangle that can never be free, and its record says so. slice writes the
first index, the length or the address of a block by the record page. The oldest claim of a partition whose rectangle
is free and whose placement, carve, routes and watches R270 to R273 and R317 allow starts, a host's or a strand's: its
cores are held with scratchpad and units cleared, its watches are armed, and every instance stands in its slot at its
stage's entry with registers 0 (log 26 for what the controller chooses); the packet of a host's launch is passed. A
claim that fits nowhere fails with PLACE or LIMIT, CARVE or ROUTE, in its record and its queue. (R261, R268, R269,
R270, R273, R274, R277, R314, R315, R316, R317) -/
def Obligations.LaunchesStart : Prop :=
  (∀ d p s cx pc part q, Ready s cx (usesOf s cx (.launch d p)) → pc = successor s.cursor.header cx.st.pc →
    partOf s cx.core = some part → s.parts.find part = some q → s.launches.length < 2 ^ 30 →
    let w := packetWord s cx (readReg s cx p).toNat
    (cx.st.acquiring = true → Waits (.launch d p) s) ∧
    (cx.st.acquiring = false → (∀ k < 112, padPlace cx.st 0 ((readReg s cx p).toNat + k) ∉ (s.core cx.core).bad) →
      let good := w 0 = 0x70001 ∧ (w 3 = 0 ∨ (w 3).toNat % 16 = 0 ∧ (hostPhys s part true (w 3) 16).isSome) ∧ field (w 4) 31 17 = 0 ∧
        w 5 = 0 ∧ (field (w 4) 16 16 = 0 ∨ field (w 4) 15 0 = 0)
      (¬good → Writes s cx (.launch d p) d 0 pc) ∧
      (good → 64 ≤ (waitingOf s part).length → Waits (.launch d p) s) ∧
      (good → (waitingOf s part).length < 64 →
        let r := startLaunch s part ((List.range 14).map w) none
        Completes (.launch d p) s cx (usesOf s cx (.launch d p))
          { s := r.1, st := cx.st, xs := [(d, BitVec.ofNat 64 r.2.1)] } pc ∧
        let a := if field (w 4) 63 32 = 0 then (assignLid s part).2 else s
        let fails := fun u code => LaunchFails s u cx d p pc part r.2.1 (w 3) code
        (hostRead a part (w 1) 64 = none → fails a 1) ∧
        (∀ hd, hostRead a part (w 1) 64 = some hd → little (fun k => hd.getD k 0) 4 ≠ 0x4D495447 ∨
          little (fun k => hd.getD (4 + k) 0) 2 ≠ 1 → fails a 1) ∧
        (∀ c, readImage a part (w 1) = .error c → (c = 1 ∨ c = 7) ∧ fails a c) ∧
        (∀ u img ld, loadImage a part (w 1) = .ok (u, img, ld) →
          let l := { launchOfWords part r.2.1 ((List.range 14).map w) none with
            img := img, stages := img.stages, codeOid := ld.code, objects := ld.objects }
          let bad := field (w 4) 63 32 ≠ 0 ∧ (field (w 4) 63 32 < 2 ^ 31 ∨ ∃ m ∈ s.launches, m.part = part ∧ m.lid = field (w 4) 63 32)
          (bad → fails u 6) ∧ (¬bad → claimOrigin u l false = none → fails u 2) ∧
          (¬bad → claimOrigin u l false ≠ none → r.1 = { u with launches := u.launches ++ [l] })) ∧
        (field (w 4) 63 32 ≠ 0 → r.2.1 = field (w 4) 63 32) ∧
        (field (w 4) 63 32 = 0 → 0 < r.2.1 ∧ r.2.1 < 2 ^ 31 ∧ ∀ l ∈ s.launches, l.part = part → l.lid ≠ r.2.1)))) ∧
  (∀ d j k what axis s cx pc, Ready s cx (usesOf s cx (.slice d j k what axis)) → pc = successor s.cursor.header cx.st.pc →
    (∀ i < 64, 2 ^ 20 + 0x100 + 64 * k.toNat + i ∉ (s.core cx.core).bad) →
    let w := shapeWord s cx.core k.toNat
    let pp := partsOf (s.core cx.core) cx.core cx.st.stage axis
    let r := shareOf w axis pp.1 pp.2 (readReg s cx j).toNat
    let on := (w 1).getLsbD (if axis then 15 else 11)
    let dim := if on then (if axis then field (w 1) 13 12 else field (w 1) 9 8) else 0
    let elems := ((List.range dim).map fun i => (w (2 + i)).toNat).prod
    (field (w 1) 7 4 = 0 → Writes s cx (.slice d j k what axis) d 0 pc) ∧
    (field (w 1) 7 4 ≠ 0 →
      (what = 0 → Writes s cx (.slice d j k what axis) d (BitVec.ofNat 64 r.1) pc) ∧
      (what = 1 → Writes s cx (.slice d j k what axis) d (BitVec.ofNat 64 r.2) pc) ∧
      (what = 2 → Writes s cx (.slice d j k what axis) d
        (w 0 + BitVec.ofNat 64 (r.1 * elems * widthOf (ElemTy.ofCode (BitVec.ofNat 4 (field (w 1) 3 0))) / 8)) pc))) ∧
  (∀ s part, (∀ l ∈ s.launches, l.part = part → l.phase ≠ .waiting) → exec (.claimGrant part) s = .next s) ∧
  (∀ s part l px py, s.launches.find? (fun l => l.part == part && l.phase == .waiting) = some l → claimOrigin s l true = some (px, py) →
    let rect := rectCores px py l.img.width l.img.height
    let placed := placeStages rect l.img.stages.zipIdx { uses := [], modes := [], cores := [] }
    let fits := fun p => placeFits l.img.stages rect p && localFits l.img p rect
    let records := l.img.recordFields.all (recordFits (l.img.stages.map (·.kind)) px l.img.width)
    (∀ c, placed = .error c → ClaimFails s part l c) ∧
    (∀ p, placed = .ok p → (records = false → ClaimFails s part l 7) ∧ (records = true → fits p = false → ClaimFails s part l 3) ∧
      (records = true → fits p = true → (∃ d ∈ rect.map dieOf, carveRoom s d < carveNeed l.img p rect d) → ClaimFails s part l 4) ∧
      (records = true → fits p = true → (∀ d ∈ rect.map dieOf, carveNeed l.img p rect d ≤ carveRoom s d) →
        routesAgree p l.img px py = false ∨ (∃ k ∈ routeLinks l.img px py, k ∈ s.pkg.downLinks) → ClaimFails s part l 5))) ∧
  (∀ s part l px py p q rs, s.launches.find? (fun l => l.part == part && l.phase == .waiting) = some l →
    (claimOrigin s l true = none → exec (.claimGrant part) s = .next s) ∧
    (let rect := rectCores px py l.img.width l.img.height
     claimOrigin s l true = some (px, py) → s.parts.find part = some q → WatchesFit s l q p rs →
     l.img.recordFields.all (recordFits (l.img.stages.map (·.kind)) px l.img.width) = true →
     placeStages rect l.img.stages.zipIdx { uses := [], modes := [], cores := [] } = .ok p → placeFits l.img.stages rect p = true →
     localFits l.img p rect = true → (∀ d ∈ rect.map dieOf, carveNeed l.img p rect d ≤ carveRoom s d) →
     routesAgree p l.img px py = true → (∀ k ∈ routeLinks l.img px py, k ∉ s.pkg.downLinks) →
     ∃ t l', exec (.claimGrant part) s = .next t ∧ t.mem = s.mem ∧ t.launch part l.lid = some l' ∧ l'.phase = .running ∧
       l'.px = px ∧ l'.py = py ∧ l'.started = s.clk ∧ l'.image = l.image ∧ l'.args = l.args ∧ l'.seed = l.seed ∧
       l'.packet = l.packet ∧ l'.status = l.status ∧ l'.ran = (if placedInsts p rect s.nextGen = [] then none else some s.clk) ∧
       (l.packet = none → t.host = s.host) ∧ (∀ h num, l.packet = some (h, num) → t.host = (advanceQueue s h 112).host) ∧
       TablesArmed s l rs t ∧
       (∀ c ∈ rect, (t.core c).lid = some l.lid ∧ (t.core c).tile = {} ∧ (t.core c).merge = {} ∧
         (t.core c).channels = [] ∧
         ∀ o < 524288, (t.core c).spad.get 0 o = 0) ∧
       (∀ c, c ∉ rect → t.core c = s.core c) ∧
       (∀ u ∈ placedInsts p rect s.nextGen, ∃ st g, t.strand u.1.core u.2.1 = some st ∧ l.img.stages[u.1.stage]? = some g ∧
         st.kind = .inst ∧ st.gen = u.2.2 ∧ st.stage = u.1.stage ∧ some st.rank = u.1.rank ∧ st.lid = l.lid ∧ st.level = g.prio ∧
         st.pc = BitVec.ofNat 64 (l.codeOid * 2 ^ 48) ||| BitVec.ofNat 64 g.entry ∧ (∀ n, st.x n = 0) ∧ (∀ n, st.v n = 0) ∧
         st.fstat = 0 ∧ st.srcnt = 0)))

namespace Sys2Proof.Claims

/-- A byte of host memory. -/
def hostByte (s : State) (k : Nat) : Byte := Tab.get 0 k s.host.mem

/-- A stage of a running launch is due for a sample, with the fill of its input, and what the sample makes of its counts (R286). -/
structure SampleDue (s : State) (lid stage : Nat) (l : Launch) (g g' : StageInfo) : Prop where
  found : s.launches.find? (fun l => l.lid == lid && l.phase == .running &&
    (l.stages[stage]?).any fun t => t.elastic && decide (t.sampled < (s.clk - l.started) / 4096)) = some l
  here : l.stages[stage]? = some g
  counts : ∃ occ depth, inputFill s l stage = some (occ, depth) ∧ g' = { g with
    sampled := (s.clk - l.started) / 4096, above := if 3 * depth < 4 * occ then g.above + 1 else 0
    below := if 8 * occ < depth then g.below + 1 else 0 }

end Sys2Proof.Claims

/-- A save that completes frees its slot; the parked strand next in turn is restored into a free unreserved slot with
its state. A sample of an elastic stage counts: two in a row above three quarters of the depth start an instance at
the lowest free rank, two below an eighth mark the highest rank for retirement, else only the counts change; a
retiring instance that took its token gets its eos. A launch that has been still for 2^20 clk is stopped: each of its
cores holds WATCHDOG. A stopped launch loses its strands and operations at once; one that has settled is released: its
cores are free, its queues and watches are gone, its completion record is written (the clk since its first strand
started, id, code and done, in host memory or in the object that a strand named), and its packet is counted. How a
launch ends is the model's reading (log 61), as is which launch an event means that names an id alone (log 72). (R258,
R264, R284, R286, R287, R289, R290, R291, R314) -/
def Obligations.LaunchesRun : Prop :=
  (∀ s core area, exec (.parkSaveComplete core area) s = .next (s.setCore core { s.core core with
    parking := (s.core core).parking.filter fun p => p.1 != area })) ∧
  (∀ s core area st slot, area < 64 → s.strand core (32 + area) = some st → freeUnreserved (noteWakes s) core = some slot →
    (noteWakes s).woken.find? (fun k => k / 256 == core && !(s.core core).parking.any fun p => parkPlace p.1 == k % 256) =
      some (core * 256 + 32 + area) →
    ∃ t, exec (.unpark core area) s = .next t ∧ t.mem = s.mem ∧ t.queues = s.queues ∧ t.cores = s.cores ∧
      t.strand core slot = some { st with wake := none } ∧ t.strands.find (core * 256 + 32 + area) = none ∧
      core * 256 + 32 + area ∉ t.woken ∧
      (∀ k, k ≠ core * 256 + 32 + area → k ≠ placeKey core slot → t.strands.find k = s.strands.find k)) ∧
  (∀ s lid stage l g g', SampleDue s lid stage l g g' →
    let insts := instancesOf s l.part lid stage
    let free := g.cores.findSome? fun c => (freeReserved s c stage (allocFree s c)).map fun k => (c, k)
    let fresh := { g' with above := 0, below := 0 }
    (¬(2 ≤ g'.above ∧ insts.length < g.most ∧ free.isSome) → ¬(2 ≤ g'.below ∧ g.least < insts.length) →
      exec (.balancerSample lid stage) s = .next (s.setLaunch { l with stages := l.stages.set stage g' })) ∧
    (∀ c k, 2 ≤ g'.above → insts.length < g.most → free = some (c, k) →
      ∃ t st, exec (.balancerSample lid stage) s = .next t ∧ t.mem = s.mem ∧ t.strand c k = some st ∧ st.kind = .inst ∧
        st.gen = s.nextGen ∧ st.stage = stage ∧ st.lid = l.lid ∧ (∀ n, st.x n = 0) ∧ (∀ e ∈ insts, e.2.2.rank ≠ st.rank) ∧
        (∀ r < st.rank, ∃ e ∈ insts, e.2.2.rank = r) ∧ 
        t.launches = (s.setLaunch { l with ran := some (l.ran.getD s.clk), stages := l.stages.set stage fresh }).launches ∧
        (∀ j, j ≠ placeKey c k → t.strands.find j = s.strands.find j)) ∧
    (∀ e, 2 ≤ g'.below → g.least < insts.length →
      insts.find? (fun e => insts.all fun f => decide (f.2.2.rank ≤ e.2.2.rank)) = some e → e.2.1 < 256 →
      exec (.balancerSample lid stage) s = .next ((s.setLaunch { l with stages := l.stages.set stage fresh }).setStrand e.1 e.2.1
        { e.2.2 with retiring := if e.2.2.retiring = .no then .marked else e.2.2.retiring }))) ∧
  (∀ s core slot st, s.strand core slot = some st →
    (st.retiring = .closed → exec (.elasticEos core slot) s = .next (s.setStrand core slot { st with retiring := .eos })) ∧
    (st.retiring ≠ .closed → exec (.elasticEos core slot) s = .next s)) ∧
  (∀ s lid,
    ((∀ l ∈ s.launches, l.lid = lid → stillLaunch s l = false) → exec (.watchdogStop lid) s = .next s) ∧
    (∀ l, s.launches.find? (fun l => l.lid == lid && stillLaunch s l) = some l →
      ∃ t, exec (.watchdogStop lid) s = .next t ∧ t.mem = s.mem ∧ t.strands = s.strands ∧ t.queues = s.queues ∧
        t.launches = (s.launches.map fun x => if x.lid == lid && x.part == l.part && x.phase == .running then
          { x with phase := .ending, code := codeWatchdog } else x) ∧
        (∀ c ∈ coresOf s l, HeldEvent.watchdog lid ∈ (t.core c).held) ∧ (∀ c, c ∉ coresOf s l → t.core c = s.core c) ∧
        (s.pkg.events.length < 256 → ∃ w : Word, t.pkg.events = s.pkg.events ++
          [⟨1, BitVec.ofNat 64 (l.part * 2 ^ 32) ||| BitVec.ofNat 64 lid, w⟩]))) ∧
  (∀ s lid,
    ((∀ l ∈ s.launches, l.lid = lid → l.phase ≠ .ending ∧ launchDone s l = false) → exec (.launchEnd lid) s = .next s) ∧
    (∀ l, s.launches.find? (fun l => l.lid == lid && (l.phase == .ending || launchDone s l)) = some l →
      let cores := coresOf s l
      (l.phase = .ending → (∃ c ∈ cores, strandsLeft s c = true) →
        ∃ t, exec (.launchEnd lid) s = .next t ∧ t.mem = s.mem ∧ t.launches = s.launches ∧
          (∀ c ∈ cores, (∀ k < 160, k ≠ 17 → t.strands.find (placeKey c k) = none) ∧ (t.core c).ops = [] ∧ (t.core c).locks = [] ∧
            (t.core c).tile.queue = [] ∧ (t.core c).tile.ended = [] ∧ (t.core c).merge.run = none)) ∧
      (launchDone s l = true ∨
        (l.phase = .ending ∧ (∀ c ∈ cores, strandsLeft s c = false) ∧ ∀ c ∈ cores, coreSettled s c = true) →
        let high := leBytes 8 ((l.ran.map (s.clk - ·)).getD 0)
        let low := leBytes 8 (BitVec.ofNat 64 lid <<< 32 ||| BitVec.ofNat 64 l.code <<< 8 ||| 1 : Word).toNat
        let a := l.status.toNat
        ∃ t, exec (.launchEnd lid) s = .next t ∧
          (l.packet.isSome ∨ l.status = 0 → t.mem = s.mem) ∧
          (l.packet = none ∨ l.status = 0 → ∀ k, hostByte t k = hostByte s k) ∧
          (l.packet.isSome → l.status ≠ 0 → ∀ k, hostByte t k = if a ≤ k ∧ k < a + 8 then low.getD (k - a) 0
            else if a + 8 ≤ k ∧ k < a + 16 then high.getD (k - a - 8) 0 else hostByte s k) ∧
          (∀ cells, l.packet = none → l.status ≠ 0 → hostCells s l.part true l.status 16 = some cells →
            ∀ k, t.cell k = written ((cells.drop 8).zip high ++ (cells.take 8).zip low) s.cell k) ∧
          (∀ h num p, l.packet = some (h, num) → (hostQueue s h).packets.find? (fun p => p.num == num) = some p → p.silent = false →
            hostQueue t h = { hostQueue s h with
              packets := (hostQueue s h).packets.filter fun r => r.num != num
              done := ((hostQueue s h).done + 1) % 2 ^ 32, lerr := if l.code = 0 then (hostQueue s h).lerr else l.code }) ∧
          t.launches = (s.launches.filter fun m => !(m.lid == lid && m.part == l.part && m.phase != .waiting)) ∧
          (∀ c ∈ cores, (t.core c).lid = none ∧ (t.core c).reserved = [] ∧ (t.core c).inbox = [] ∧ (t.core c).halted = false ∧
            (t.core c).preempted = false ∧ (t.core c).frozen = (s.core c).supRunning) ∧
          (∀ q ∈ t.queues, q.1 ∉ l.queues) ∧
          (∀ d, partOfDie s d = some l.part → ∀ e ∈ (t.die d).watch, e.2.lid ≠ lid))))

namespace Sys2Proof.Claims

/-- A core takes the event that it held, between instructions (R389): it is held no longer, and the supervisor is entered with the
event's cause and async set, from the state `s'`. -/
def Takes (i : Instr) (s s' : State) (core : Nat) (c : Cause) (epc value estrand : Word) : Prop :=
  ∃ t, exec i s = .next t ∧ Entered s' core (ecauseWord 0 0 false true c) value epc estrand t

end Sys2Proof.Claims

/-- While the supervisor of a core runs or the core is halted, an event that arrives is held and none is taken. On an
idle core the next event is taken: ECAUSE has its cause with async set, EVALUE its word, and ESTRAND names no strand,
but for UNDELIVERABLE, which names the strand and its EPC. A PREEMPT of reason 1 pre-empts the core, and one of reason
2 on a pre-empted core begins its restoring. A message that has arrived at a core of its launch starts the porter
strand with its payload and sender, once every access of the run before is performed, also at a handler in a malformed
line, where its first fetch traps (log 92; compare log 55); for another launch, or with a handler that is no head, it
is dropped and its sender told. (R236, R237, R380, R389, R390, R391, R392, R393, R394) -/
def Obligations.EventsBetweenInstructions : Prop :=
  (∀ i s core lid reason slot, i = .watchdog core lid ∨ i = .hostInterrupt core lid reason ∨ i = .watchRunaway core ∨
      i = .undeliverable core slot → (s.core core).supRunning = true ∨ (s.core core).halted = true → exec i s = .next s) ∧
  (∀ s core reason, core < coreCount → reason = 1 ∨ reason = 2 → (s.core core).supRunning = true ∨ (s.core core).halted = true →
    exec (.preempt core reason) s = .next (s.setCore core { s.core core with
      held := (s.core core).held ++ [.preempt ((s.core core).lid.getD 0) reason] })) ∧
  (∀ i s core e c value, (s.core core).supRunning = false → (s.core core).halted = false → (s.core core).preempted = false →
    svecGood s core = true → nextHeld s core = some e →
    ((∃ lid, i = .watchdog core lid ∧ e = .watchdog lid ∧ c = .watchdog ∧ value = BitVec.ofNat 64 (lid % 2 ^ 32)) ∨
      (∃ lid r, i = .hostInterrupt core lid r ∧ e = .hostInterrupt lid r ∧ c = .hostInterrupt ∧
        value = BitVec.ofNat 64 (r % 256 * 2 ^ 32 + lid % 2 ^ 32)) →
      Takes i s (s.setCore core { s.core core with held := (s.core core).held.erase e, noAct := true }) core c 0 value estrandNone) ∧
    (i = .watchRunaway core → e = .runaway value →
      Takes i s (s.setCore core { s.core core with held := (s.core core).held.erase e, noAct := false }) core .watchRunaway 0 value
        estrandNone)) ∧
  (∀ s core slot st, (s.core core).supRunning = false → (s.core core).halted = false → svecGood s core = true →
    nextHeld s core = some (.undeliverable slot) → s.strand core slot = some st → HeldEvent.undeliverable slot ∉ (s.core core).held →
    st.drops < 2 ^ 32 → st.firstDrop.toNat < 2 ^ 32 →
    Takes (.undeliverable core slot) s ((s.setCore core { s.core core with noAct := false }).setStrand core slot
        { st with undeliverable := false, drops := 0, firstDrop := 0 })
      core .undeliverable st.pc (BitVec.ofNat 64 (st.drops * 2 ^ 32 + st.firstDrop.toNat)) (estrandWord st slot)) ∧
  (∀ s core reason, core < coreCount → reason = 1 ∨ reason = 2 → (s.core core).supRunning = false → (s.core core).halted = false →
    svecGood s core = true → heldEvents s core = [] →
    ∃ t, exec (.preempt core reason) s = .next t ∧ t.mem = s.mem ∧ t.queues = s.queues ∧ (t.core core).frozen = true ∧
      (t.core core).supRunning = true ∧ (t.core core).ecause = ecauseWord 0 0 false true .preempt ∧ (t.core core).estrand = estrandNone ∧
      (t.core core).epc = 0 ∧ (t.core core).evalue = BitVec.ofNat 64 (reason * 2 ^ 32 + (s.core core).lid.getD 0 % 2 ^ 32) ∧
      (t.core core).held = [] ∧ (reason = 1 → (t.core core).preempted = true) ∧
      (reason = 2 → (s.core core).preempted = true → (t.core core).restoring = true)) ∧
  (∀ s core m rest, (s.core core).inbox = m :: rest → slotFree s core 16 = true → (s.core core).halted = false →
    (s.core core).preempted = false → porterQuiet s core = true →
    let gone := fun (u : State) => replaySpill (s.core core).spill.length
      (u.setCore core { s.core core with inbox := rest, porterWait := none }) core
    let lost := (∀ src place st, m.source = some src → s.byGen src m.gen = some (place, st) → exec (.porterRunStart core) s =
        .next (gone (s.setStrand src place { st with pend := st.pend.map fun (a : Access) =>
          if a.seq == m.seq then { a with performed := false, dropped := true } else a }))) ∧
      (m.source = none → exec (.porterRunStart core) s = .next (gone { s with pkg := { s.pkg with
        peerReplies := s.pkg.peerReplies ++ [(false, 0)] } }))
    (∀ l, launchOf s core = some l → m.lid = l.lid → let pc := BitVec.ofNat 64 (l.codeOid * 2 ^ 48) ||| BitVec.ofNat 64 (m.handler % 2 ^ 32)
      let found := checkHead s { core := core, sup := false, declined := (s.core core).porterWait.toList } pc
      (found = .bad ∨ (∃ why, found = .malformed why false) → lost) ∧
      (found = .good ∨ (∃ why, found = .malformed why true) →
      ∃ t st, exec (.porterRunStart core) s = .next t ∧ t.mem = s.mem ∧ t.queues = s.queues ∧ t.strand core 16 = some st ∧
        st.kind = .porter ∧ st.pc = pc ∧ st.gen = s.nextGen ∧ st.lid = ((s.core core).lid).getD 0 ∧
        (∀ k < 4, st.x (k + 1) = m.payload.getD k 0) ∧ field (st.x 5) 31 16 = m.senderPkg % 65536 ∧
        field (st.x 5) 15 0 = m.sender % 65536 ∧ (∀ n, n = 0 ∨ 5 < n → st.x n = 0) ∧
        (∃ more, (t.core core).inbox = rest ++ more) ∧ ∃ l', launchOf t core = some l' ∧ l'.ran = some (l.ran.getD s.clk))) ∧
    ((∀ l, launchOf s core = some l → m.lid ≠ l.lid) → lost)) ∧
  (∀ s core, (s.core core).halted = true ∨ (s.core core).preempted = true ∨ slotFree s core 16 = false ∨ porterQuiet s core = false →
    exec (.porterRunStart core) s = .next s) ∧
  (∀ s core, (s.core core).inbox = [] → exec (.porterRunStart core) s = .next s)

namespace Sys2Proof.Claims

/-- The next packet of a host queue may start: its header is in order, and the packets before it let it (R257, R258). -/
structure MayStart (s : State) (q part op : Nat) (p : Packet) : Prop where
  next : nextPacket s q = some p
  part : queuePart s q = some part
  op : p.op = op

/-- The packet has started, as one that has done what it does or not, and the read pointer has passed it (R255, R258). -/
def passed (s : State) (q : Nat) (p : Packet) (finished : Bool) : State :=
  advanceQueue (beginPacket s q { p with finished := finished }) q (8 * p.words.length)

/-- The queue is halted with a code at its packet, and its interrupt is raised (R259). -/
def HaltedWith (i : Instr) (s : State) (q code : Nat) : Prop :=
  exec i s = .next (raiseVector (setHostQueue s q { hostQueue s q with halt := true, hcode := code }) q)

/-- A byte of host memory. -/
def hostAt (s : State) (k : Nat) : Byte := Tab.get 0 k s.host.mem

/-- Argument word k of a packet. -/
def arg (p : Packet) (k : Nat) : Word := p.words.getD k 0

end Sys2Proof.Claims

/-- A poll of an enabled queue halts it with code 6 for a bus error in the pointer, the header or the body, 7 for a
bad write pointer and the packet's code for a bad packet, in the order of R259, and else keeps the pointer. A packet
that may start has its effect: COPYIN stores host memory at the object, COPYOUT writes it to host memory, SIGNAL sets
or adds to its word, WAITSIG holds the queue until its word is at or equal to its value, FENCE and PAD do nothing,
LAUNCH starts a launch or fails with a code; each passes the read pointer on. An object address that fails its check
halts the queue with code 5. A COPYIN or COPYOUT of length 0 checks no address (log 22), and a bus error in a COPYIN
leaves a prefix written (log 65). A finished packet is counted in done. Enabling starts at read pointer 0; disabling
stops; resuming clears halt. (R255, R256, R258, R259, R260, R261, R262, R263, R266) -/
def Obligations.HostQueuePackets : Prop :=
  (∀ s q p n, let v := hostQueue s q
    let t := advanceQueue (beginPacket s q p) q n
    let r := if v.rptr + n = 2 ^ v.lsize then 0 else v.rptr + n
    hostQueue t q = { v with packets := v.packets ++ [p], nextNum := v.nextNum + 1, rptr := r } ∧ t.mem = s.mem ∧ t.launches = s.launches ∧
      (r < 2 ^ 64 → little (fun k => hostAt t (field v.ptra 63 4 * 16 + 8 + k)) 8 = r)) ∧
  (∀ s q fail, let v := hostQueue s q
    let w := little (fun k => hostAt s (field v.ptra 63 4 * 16 + k)) 8
    (v.enable = false ∨ v.halt = true ∨ claimWaiting s q = true → exec (.frontEndPoll q fail) s = .next s) ∧
    (v.enable = true → v.halt = false → claimWaiting s q = false →
      (fail = 1 → HaltedWith (.frontEndPoll q fail) s q 6) ∧
      (fail ≠ 1 → w % 16 ≠ 0 ∨ 2 ^ v.lsize ≤ w → HaltedWith (.frontEndPoll q fail) s q 7) ∧
      (fail ≠ 1 → w % 16 = 0 → w < 2 ^ v.lsize →
        let v' := { v with wptr := some w }
        let halts := fun c => exec (.frontEndPoll q fail) s = .next (haltQueue (setHostQueue s q v') q c)
        let goesOn := exec (.frontEndPoll q fail) s = .next (setHostQueue s q v')
        let head := headerCode v' (headerWord s v')
        (w = v.rptr → goesOn) ∧ (w ≠ v.rptr → fail = 2 → halts 6) ∧
        (w ≠ v.rptr → fail ≠ 2 → head ≠ 0 → halts head) ∧
        (w ≠ v.rptr → fail ≠ 2 → head = 0 →
          (packetAt s v' w = none → goesOn) ∧ (packetAt s v' w ≠ none → fail = 3 → halts 6) ∧
          (∀ c, packetAt s v' w = some (.error c) → fail ≠ 3 → halts c) ∧
          (∀ p, packetAt s v' w = some (.ok p) → fail ≠ 3 → goesOn))))) ∧
  (∀ s q part p buserr, MayStart s q part 2 p →
    let n := field (arg p 3) 31 0
    (n = 0 → exec (.copyin q buserr) s = .next (passed s q p true)) ∧
    (n ≠ 0 → hostCells s part true (arg p 2) n = none → HaltedWith (.copyin q buserr) s q 5) ∧
    (∀ cells, n ≠ 0 → hostCells s part true (arg p 2) n = some cells → hostMoving s part (arg p 2) n = true →
      exec (.copyin q buserr) s = .next s) ∧
    (∀ cells, n ≠ 0 → hostCells s part true (arg p 2) n = some cells → hostMoving s part (arg p 2) n = false → buserr = true →
      ∃ t m, Stored s ((cells.zip ((List.range n).map fun k => hostAt s ((arg p 1).toNat + k))).take m) t ∧
        exec (.copyin q buserr) s = .next (haltQueue { t with free := s.free + 1 } q 6)) ∧
    (∀ cells, n ≠ 0 → hostCells s part true (arg p 2) n = some cells → hostMoving s part (arg p 2) n = false → buserr = false →
      ∃ t, Stored s (cells.zip ((List.range n).map fun k => hostAt s ((arg p 1).toNat + k))) t ∧
        exec (.copyin q buserr) s = .next (passed t q p true))) ∧
  (∀ s q part p, MayStart s q part 3 p →
    let n := field (arg p 3) 31 0
    (n = 0 → exec (.copyout q) s = .next (passed s q p true)) ∧
    (n ≠ 0 → hostPhys s part false (arg p 2) n = none → HaltedWith (.copyout q) s q 5) ∧
    (∀ phys : List Nat, n ≠ 0 → hostPhys s part false (arg p 2) n = some phys → phys.length = n →
      (∀ x ∈ phys, ∃ c, cellAt s x = some c ∧ isPoisoned s c = false) →
      ∃ t, exec (.copyout q) s = .next (passed t q p true) ∧ t = { s with host := { s.host with mem := t.host.mem } } ∧
        ∀ k, hostAt t k = if (arg p 1).toNat ≤ k ∧ k < (arg p 1).toNat + n then
          ((cellAt s (phys.getD (k - (arg p 1).toNat) 0)).map s.byteAt).getD 0 else hostAt s k)) ∧
  (∀ s q part p (add : Bool) i, i = (if add then Instr.signalAdd q else .signalSet q) → MayStart s q part 4 p → p.var = add →
    let a := arg p 1
    (a.toNat % 8 ≠ 0 ∨ hostCells s part true a 8 = none → HaltedWith i s q 5) ∧
    (∀ cells, a.toNat % 8 = 0 → hostCells s part true a 8 = some cells → hostMoving s part a 8 = false →
      (add = true → ∀ c ∈ cells, isPoisoned s c = false) → cells.length = 8 →
      let new := if add then little (fun k => s.byteAt (cells.getD k 0)) 8 + (arg p 2).toNat else (arg p 2).toNat
      ∃ t, Stored s (writesOf cells fun k => BitVec.ofNat 8 (new / 256 ^ k)) t ∧ exec i s = .next (passed t q p true))) ∧
  (∀ s q part p (eq : Bool) i, i = (if eq then Instr.waitsigEq q else .waitsigGe q) → MayStart s q part 5 p → p.var = eq →
    let a := arg p 1
    (a.toNat % 8 ≠ 0 ∨ hostCells s part false a 8 = none → HaltedWith i s q 5) ∧
    (∀ cells, a.toNat % 8 = 0 → hostCells s part false a 8 = some cells → (∀ c ∈ cells, isPoisoned s c = false) → cells.length = 8 →
      let w := little (fun k => s.byteAt (cells.getD k 0)) 8
      exec i s = .next (passed s q p (if eq then w = (arg p 2).toNat else (arg p 2).toNat ≤ w)))) ∧
  (∀ s q part, queuePart s q = some part → exec (.waitsigPoll q) s = .next (setHostQueue s q { hostQueue s q with
    packets := (hostQueue s q).packets.map fun p => if p.op = 5 ∧ !p.finished then { p with finished := signalHolds s part p } else p })) ∧
  (∀ s q part p, MayStart s q part 6 p →
    (p.var = false → exec (.fencePacket q) s = .next (passed s q p true)) ∧ (p.var = true → exec (.pad q) s = .next (passed s q p true))) ∧
  (∀ s q part p, MayStart s q part 1 p →
    (p.var = false → let r := startLaunch (beginPacket s q p) part p.words (some (q, p.num))
      exec (.launchPacket q) s = .next (if r.2.2 then advanceQueue r.1 q 112 else r.1)) ∧
    (p.var = true → ∃ t l code, exec (.launchLoadOnly q) s = .next (concludeLaunch t l code 0) ∧ t.launches = s.launches ∧
      l.image = arg p 1 ∧ l.status = arg p 3 ∧ l.packet = some (q, p.num) ∧ t.strands = s.strands ∧ t.queues = s.queues)) ∧
  (∀ s q k p, (hostQueue s q).packets.find? (fun p => p.num == k) = some p → p.finished = true → p.intr = false → p.silent = false →
    exec (.packetComplete q k) s = .next (setHostQueue s q { hostQueue s q with
      packets := (hostQueue s q).packets.filter (fun r => r.num != k), done := ((hostQueue s q).done + 1) % 2 ^ 32 })) ∧
  (∀ s q, q < 64 → s.pkg.boot ≠ 0 → let v := hostQueue s q
    (v.enable = true ∨ v.lsize < 12 ∨ 20 < v.lsize ∨ v.packets ≠ [] ∨ queuePart s q = none → exec (.queueEnable q) s = .next s) ∧
    (v.enable = false → 12 ≤ v.lsize → v.lsize ≤ 20 → v.packets = [] → (queuePart s q).isSome →
      ∃ t, exec (.queueEnable q) s = .next t ∧ hostQueue t q = { v with enable := true, rptr := 0, done := 0, wptr := none } ∧
        t.mem = s.mem)) ∧
  (∀ s q, (hostQueue s q).enable = true → (∀ l ∈ s.launches, l.phase ≠ .waiting) →
    exec (.queueDisable q) s = .next (setHostQueue s q { hostQueue s q with
      enable := false
      packets := ((hostQueue s q).packets.filter fun p => !p.finished && p.op != 5).map fun p => { p with silent := true } })) ∧
  (∀ s q, (hostQueue s q).halt = true → exec (.queueResume q) s = .next (setHostQueue s q { hostQueue s q with halt := false }))

namespace Sys2Proof.Claims

/-- A command of the mailbox is carried out with a reply that stands until it completes, and leaves `t` otherwise (R366). -/
def Replies (i : Instr) (s : State) (tag code detail : Nat) (data : List (Nat × Word)) (t : State) : Prop :=
  exec i s = .next { t with host := { t.host with busy := true, cmdTag := tag % 65536, result := some (code, detail, data) } }

/-- The partition that the argument words of PARTCFG describe (R369). -/
def partitionAsked (d : Nat → Word) : Partition :=
  { dies := field (d 0) 7 0, carve := (d 1).toNat, otbase := 64 * field (d 2) 47 6, otcount := field (d 3) 16 0, partreg := d 4
    peers := field (d 5) 23 8, ports := field (d 5) 7 0, queues := d 6, args := (List.range 7).map d }

/-- A routine image is accepted (R372): both signatures verify under keys whose hashes the ROM holds, and its version is at least the
fused minimum. -/
def RoutinesAccepted (image : List Byte) : Prop :=
  (∀ k < 2, (∀ i < 48, Config.sha384 (Config.imageKey k image) i = Config.romHash k i) ∧
    Config.imageVerifies k (Config.imageKey k image) image = true) ∧
  Config.fusedMinimum 5 ≤ Config.imageVersion image

/-- The commands of the mailbox but IDENT, with their tags. -/
def isCommand (tag : Nat) (i : Instr) : Prop :=
  i ∈ [.setpkg tag, .partcfg tag, .partclr tag, .peermap tag, .unload tag, .stop tag, .attest tag, .winset tag, .evread tag, .certs tag,
    .telem tag] ∨ ∃ ok, i = .fwload tag ok

/-- The op numbers of the commands of the mailbox (R366). -/
def CommandOp (op tag : Nat) (i : Instr) : Prop :=
  (op = 1 ∧ i = .ident tag) ∨ (op = 2 ∧ i = .setpkg tag) ∨ (op = 3 ∧ i = .partcfg tag) ∨ (op = 4 ∧ i = .partclr tag) ∨
  (op = 5 ∧ i = .peermap tag) ∨ (op = 6 ∧ i = .unload tag) ∨ (op = 7 ∧ i = .stop tag) ∨ (op = 8 ∧ i = .fwload tag true) ∨
  (op = 9 ∧ i = .attest tag) ∨ (op = 10 ∧ i = .winset tag) ∨ (op = 11 ∧ i = .evread tag) ∨ (op = 12 ∧ i = .certs tag) ∨
  (op = 13 ∧ i = .telem tag)

/-- Offsets of BAR0 at which the map of R364 lists no register. -/
def unlisted (off : Nat) : Prop :=
  (0x48 < off ∧ off < 0x1000) ∨ (0x1000 < off ∧ off < 0x10000) ∨ (0x11000 ≤ off ∧ off < 0x20000) ∨ 0x20000 + 16 * 72 ≤ off

end Sys2Proof.Claims

/-- A command at a busy mailbox is lost; before boot is done every command but IDENT replies 5, or 6 after a failed
boot. IDENT reads the part; SETPKG sets the id while no partition exists; PARTCFG makes a partition and PARTCLR
removes one with its objects; PEERMAP sets a mask; UNLOAD frees an image (both drop translations, log 30); STOP ends a
launch (log 62); FWLOAD adds the routines of an accepted image and refuses another whole; WINSET maps an aperture;
EVREAD takes the oldest event (event 7 stands behind the 256 of a full queue, log 41); ATTEST, CERTS and TELEM write
their records in host memory (their signed parts are free values, log 14); each with its code and the index of a bad
word. A completion writes the results and INTSTAT. Writes of every register of BAR0, window reads and writes and
requests of peers do what R364, R367 and R371 say; a window write that waits is for the object that its aperture
mapped when it came. (R364, R365, R366, R367, R368, R369, R371, R372, R373, R374, R377, R409) -/
def Obligations.HostCommandsAndWindow : Prop :=
  (∀ i s tag, s.pkg.boot ≠ 0 → i = .ident tag ∨ isCommand tag i →
    (s.host.busy = true → exec i s = .next { s with host := { s.host with lost := true } }) ∧
    (s.host.busy = false → s.pkg.boot ≠ 7 → i ≠ .ident tag → Replies i s tag (if 0x80 ≤ s.pkg.boot then 6 else 5) 0 [] s) ∧
    (s.host.busy = false → i = .ident tag → Replies i s tag 0 0
      [(0, 0x4810), (1, Config.serial), (2, BitVec.ofNat 64 s.pkg.id), (3, BitVec.ofNat 64 s.pkg.boot)] s)) ∧
  (∀ s tag, s.pkg.boot = 7 → s.host.busy = false →
    let d := fun k => s.host.mbd.get 0 k
    let id := field (d 0) 15 0
    (id = 0 → Replies (.setpkg tag) s tag 2 0 [] s) ∧ (id ≠ 0 → s.parts ≠ [] → Replies (.setpkg tag) s tag 3 0 [] s) ∧
    (id ≠ 0 → s.parts = [] → Replies (.setpkg tag) s tag 0 0 [] { s with pkg := { s.pkg with id := id } }) ∧
    Replies (.peermap tag) s tag 0 0 []
      { s with pkg := { s.pkg with peermap := s.pkg.peermap.set 0 id (field (d 1) 15 0) } } ∧
    (∀ w, partcfgBad s = some w → Replies (.partcfg tag) s tag 2 w [] s) ∧
    (partcfgBad s = none → s.parts.find (field (d 0) 10 8) = none → (∀ die, partOfDie s die = none) → (∀ c, (s.core c).lid = none) →
      Replies (.partcfg tag) s tag 0 0 [] { s with parts := s.parts.insert (field (d 0) 10 8) (partitionAsked d) }) ∧
    (∀ k, k = field (d 0) 2 0 → (s.parts.find k = none → Replies (.partclr tag) s tag 2 0 [] s) ∧
      (∀ p, s.parts.find k = some p →
        ((∃ l ∈ s.launches, l.part = k) → Replies (.partclr tag) s tag 3 0 [] s) ∧
        (launchOutstanding s p = true → Replies (.partclr tag) s tag 3 0 [] s) ∧
        ((∀ l ∈ s.launches, l.part ≠ k) → launchOutstanding s p = false → ∃ t, Replies (.partclr tag) s tag 0 0 [] t ∧
          t.parts.find k = none ∧ (∀ l ∈ t.loaded, l.part ≠ k) ∧ t.strands = s.strands ∧
          t.mem = ((validIds s p).foldl (fun u o => physWrite u (p.otbase + 64 * o)
            (leBytes 8 (descWord u p o 0 &&& ~~~((1 : Word) <<< 63)).toNat)) s).mem))) ∧
    (s.parts.find (d 0).toNat = none → Replies (.unload tag) s tag 2 0 [] s) ∧
    (∀ p l, s.parts.find (d 0).toNat = some p → loadedAt s (d 0).toNat (d 1) = some l →
      ((∃ m ∈ s.launches, m.part = (d 0).toNat ∧ m.image = d 1) → Replies (.unload tag) s tag 3 0 [] s) ∧
      ((∀ m ∈ s.launches, ¬(m.part = (d 0).toNat ∧ m.image = d 1)) → ∃ t, Replies (.unload tag) s tag 0 0 [] t ∧
        t.loaded = (s.loaded.filter fun x => !(x.part == (d 0).toNat && x.addr == d 1)) ∧ t.strands = s.strands)) ∧
    ((∀ l ∈ s.launches, ¬(l.part = (d 0).toNat ∧ l.lid = (d 1).toNat)) → Replies (.stop tag) s tag 2 1 [] s) ∧
    (∀ l, s.launches.find? (fun l => l.part == (d 0).toNat && l.lid == (d 1).toNat) = some l →
      (l.phase = .ending → Replies (.stop tag) s tag 0 0 [] s) ∧
      (l.phase = .running → ∃ t, Replies (.stop tag) s tag 0 0 [] t ∧ t.launches = (s.launches.map fun x =>
        if x.lid == l.lid && x.part == l.part && x.phase == .running then { x with phase := .ending, code := codeStopped } else x) ∧
        ∀ c ∈ coresOf s l, HeldEvent.hostInterrupt l.lid 1 ∈ (t.core c).held)) ∧
    (Replies (.fwload tag false) s tag 4 0 [] s) ∧
    (∀ image, image = (List.range (d 1).toNat).map (fun k => hostAt s ((d 0).toNat + k)) →
      (¬RoutinesAccepted image → Replies (.fwload tag true) s tag 4 0 [] s) ∧
      (RoutinesAccepted image → ∃ t, Replies (.fwload tag true) s tag 0 0 [] t ∧
        t = { s with pkg := { s.pkg with routines := t.pkg.routines } } ∧
        ∀ r, t.pkg.routines.find r =
          if r ∈ Config.imageRoutines image ∧ 16 ≤ r ∧ r < 64 then some image else s.pkg.routines.find r)) ∧
    ((d 0).toNat % 4096 ≠ 0 → Replies (.attest tag) s tag 2 0 [] s ∧ Replies (.telem tag) s tag 2 0 [] s) ∧
    ((d 0).toNat % 4096 = 0 → s.parts.find (d 1).toNat = none → Replies (.attest tag) s tag 2 1 [] s) ∧
    ((d 0).toNat % 4096 = 0 → ∃ t, Replies (.telem tag) s tag 0 0 [] t ∧ t.mem = s.mem ∧
      little (fun k => hostAt t ((d 0).toNat + k)) 8 = 2 ^ 32 + 0x53414C48 ∧
      ∀ die < 8, ∀ j < 23, little (fun k => hostAt t ((d 0).toNat + 64 + 224 * die + 8 * j + k)) 8 =
        min ((s.die die).counters.get 0 j) (2 ^ 64 - 1)) ∧
    (∀ p, (d 0).toNat % 4096 = 0 → s.parts.find (d 1).toNat = some p → ∃ t, Replies (.attest tag) s tag 0 0 [] t ∧ t.mem = s.mem ∧
      little (fun k => hostAt t ((d 0).toNat + k)) 8 = 2 ^ 32 + 0x54525441 ∧
      (∀ j < 48, hostAt t ((d 0).toNat + 352 + j) = Config.sha384 (Config.measured p.args []) j) ∧
      ∀ j < 4, BitVec.ofNat 64 (little (fun k => hostAt t ((d 0).toNat + 448 + 8 * j + k)) 8) = d (2 + j)) ∧
    ((d 1).toNat < Config.certsLength → Replies (.certs tag) s tag 2 1 [] s) ∧
    (Config.certsLength ≤ (d 1).toNat → ∃ t, Replies (.certs tag) s tag 0 0 [(0, BitVec.ofNat 64 Config.certsLength)] t ∧ t.mem = s.mem) ∧
    ((d 1).toNat % 65536 ≠ 0 → Replies (.winset tag) s tag 2 1 [] s) ∧
    ((d 1).toNat % 65536 = 0 → d 1 = 0 ∨ (s.parts.find (field (d 2) 2 0)).isSome → Replies (.winset tag) s tag 0 0 []
      { s with host := { s.host with windows := s.host.windows.insert (field (d 0) 2 0) (d 1, field (d 2) 2 0) } }) ∧
    (s.pkg.events = [] → Replies (.evread tag) s tag 0 0 [(0, 0)] s) ∧
    (∀ e es, s.pkg.events = e :: es → Replies (.evread tag) s tag 0 0
      [(0, BitVec.ofNat 64 e.code), (1, e.word), (2, e.detail)]
      { s with pkg := { s.pkg with events := es, overflow := s.pkg.overflow && e.code != 7 } })) ∧
  (∀ s code detail data, s.host.result = some (code, detail, data) → s.host.intMbox = true →
    ∃ mbd, exec .mailboxComplete s = .next { s with host := { s.host with
        mbd := mbd, busy := false, tag := s.host.cmdTag, detail := detail, code := code, result := none } } ∧
      ∀ k, mbd.get 0 k = ((data.reverse.find? fun w => w.1 == k).map (·.2)).getD (s.host.mbd.get 0 k)) ∧
  (∀ s off (w : BarWrite), s.pkg.boot ≠ 0 → w.size ≠ 8 ∨ off % 8 ≠ 0 → exec (.hostRegisterWrite off w) s = .next s) ∧
  (∀ s off val (w : BarWrite), s.pkg.boot ≠ 0 → w = ⟨8, val⟩ →
    (off % 8 = 0 → 0 < off → off ≤ 0x40 → s.host.busy = false → exec (.hostRegisterWrite off w) s =
      .next { s with host := { s.host with mbd := s.host.mbd.set 0 (off / 8 - 1) val } }) ∧
    (off % 8 = 0 → 0 < off → off ≤ 0x40 → s.host.busy = true → exec (.hostRegisterWrite off w) s =
      .next { s with host := { s.host with lost := true } }) ∧
    (off = 0x1000 → exec (.hostRegisterWrite off w) s = .next { s with host := { s.host with
      intEvent := s.host.intEvent && !val.getLsbD 1, intMbox := s.host.intMbox && !val.getLsbD 0 } }) ∧
    (∀ q < 64, off = 0x10000 + 64 * q → (hostQueue s q).enable = false → exec (.hostRegisterWrite off w) s =
      .next (setHostQueue s q { hostQueue s q with qbase := BitVec.ofNat 64 (val.toNat / 4096 * 4096) }))) ∧
  (∀ s off val (w : BarWrite), s.pkg.boot ≠ 0 → w = ⟨8, val⟩ → off % 8 = 0 →
    let x := Instr.hostRegisterWrite off w
    let keeps := exec x s = .next s
    (∀ i, off = 0 → CommandOp (field val 7 0) (field val 31 16) i → exec x s = exec i s) ∧
    (off = 0 → field val 7 0 = 0 ∨ 13 < field val 7 0 → s.pkg.boot = 7 → s.host.busy = false →
      Replies x s (field val 31 16) 1 0 [] s) ∧
    (off = 0x48 → exec x s = .next { s with host := { s.host with lost := s.host.lost && !val.getLsbD 62 } }) ∧
    (unlisted off → keeps) ∧
    (∀ q < 64, let v := hostQueue s q
      let sized := setHostQueue s q { v with lsize := field val 4 0 }
      (off = 0x10000 + 64 * q ∨ off = 0x10010 + 64 * q → v.enable = true → keeps) ∧
      (off = 0x10010 + 64 * q → v.enable = false →
        exec x s = .next (setHostQueue s q { v with ptra := BitVec.ofNat 64 (val.toNat / 16 * 16) })) ∧
      (off = 0x10008 + 64 * q → v.enable = false → val.getLsbD 63 = false → exec x s = .next sized) ∧
      (off = 0x10008 + 64 * q → v.enable = false → val.getLsbD 63 = true → exec x s = exec (.queueEnable q) sized) ∧
      (off = 0x10008 + 64 * q → v.enable = true → val.getLsbD 63 = true → keeps) ∧
      (off = 0x10008 + 64 * q → v.enable = true → val.getLsbD 63 = false → exec x s = exec (.queueDisable q) s) ∧
      (off = 0x10020 + 64 * q → exec x s = .next (if val.getLsbD 63 then setHostQueue s q { v with halt := false } else s)) ∧
      (off = 0x10018 + 64 * q ∨ off = 0x10028 + 64 * q ∨ off = 0x10030 + 64 * q ∨ off = 0x10038 + 64 * q → keeps)) ∧
    (0x20000 ≤ off → off < 0x20000 + 16 * 72 → ∃ t, exec x s = .next t ∧
      t.host.msix = s.host.msix.set (if off % 16 = 8 then BitVec.ofNat 64 (2 ^ 32) else 0) (off - 0x20000) val ∧
      t.host.raised = s.host.raised ++ (s.host.msixPending.filter fun v => !vectorMasked t.host v) ∧
      (∀ v, v ∈ t.host.msixPending ↔ v ∈ s.host.msixPending ∧ vectorMasked t.host v = true) ∧
      t = { s with host := { s.host with msix := t.host.msix, raised := t.host.raised, msixPending := t.host.msixPending } })) ∧
  (∀ s off size,
    (windowPhys s off size false = none → exec (.windowRead off size) s =
      .next { s with host := { s.host with readData := List.replicate size 255 } }) ∧
    (∀ a k phys, windowPhys s off size false = some (a, k, phys) → (∀ x ∈ phys, ∃ c, cellAt s x = some c ∧ isPoisoned s c = false) →
      exec (.windowRead off size) s = .next { s with host := { s.host with
        readData := phys.map fun x => ((cellAt s x).map s.byteAt).getD 0 } }) ∧
    (∀ val : Nat, let first := ∀ w ∈ s.host.stalled, w.aperture ≠ off / 2 ^ 31
      (windowPhys s off size true = none → exec (.windowWrite off size val) s = .next s) ∧
      (∀ a k phys, windowPhys s off size true = some (a, k, phys) →
        let waits := exec (.windowWrite off size val) s = .next { s with host := { s.host with
          stalled := s.host.stalled ++ [{ aperture := off / 2 ^ 31, addr := a, part := k, bytes := leBytes size val }] } }
        (¬first → waits) ∧ (first → hostMoving s k a size = true → waits) ∧
        (first → hostMoving s k a size = false → ∃ t, exec (.windowWrite off size val) s = .next t ∧
          Stored s (writesOf (phys.map fun x => (cellAt s x).getD 0) fun j => BitVec.ofNat 8 (val / 256 ^ j)) t)))) ∧
  (∀ s port req, s.pkg.id = 0 ∨ (∀ p ∈ s.parts, p.2.peers.testBit port = false) → exec (.peerInbound port req) s =
    .next { s with pkg := { s.pkg with peerReplies := s.pkg.peerReplies ++ [(false, 0)] } }) ∧
  (∀ s port part a n (at_ : List (Nat × Nat)), s.pkg.id ≠ 0 → (s.parts.find? fun p => p.2.peers.testBit port).map (·.1) = some part →
    let cells := at_.map (·.2)
    let answers := fun (t : State) (ok : Bool) (w : Word) => { t with pkg := { s.pkg with peerReplies := s.pkg.peerReplies ++ [(ok, w)] } }
    let waits := fun (r : PeerReq) => exec (.peerInbound port r) s =
      .next { s with pkg := { s.pkg with stalledPeers := s.pkg.stalledPeers ++ [(port, r)] } }
    (peerCells s part false true a n = none → exec (.peerInbound port (.get a n)) s = .next (answers s false 0)) ∧
    (peerCells s part false true a n = some at_ → (∃ c ∈ cells, isPoisoned s c = true) →
      exec (.peerInbound port (.get a n)) s = .next (answers s false 0)) ∧
    (peerCells s part false true a n = some at_ → (∀ c ∈ cells, isPoisoned s c = false) →
      exec (.peerInbound port (.get a n)) s =
        .next (answers s true (BitVec.ofNat 64 (little (fun k => s.byteAt (cells.getD k 0)) cells.length)))) ∧
    (∀ bs rel depth, peerCells s part true false a bs.length = some at_ →
      (hostMoving s part a bs.length = true → waits (.put a bs rel depth)) ∧
      (hostMoving s part a bs.length = false →
        ∃ t, Stored s (cells.zip bs) t ∧ exec (.peerInbound port (.put a bs rel depth)) s = .next (answers t true 0))) ∧
    (∀ op wide b expect depth, peerCells s part true true a (if wide then 8 else 4) = some at_ →
      (∃ k ∈ at_, memberOf k.2 = 8 ∨ ∀ r, regionOf s k.1 = some r → r.2.1.getLsbD 55 = false) →
      exec (.peerInbound port (.ramo op a wide 2 b expect depth)) s = .next (answers s false 0)))

namespace Sys2Proof.Claims

/-- A die with the duty that one of its limits gives it, by power (0), coolant (1) or temperature (2): the lowest of its limits is its duty
(R414). -/
def withLimit (x : Die) (source duty : Nat) : Die :=
  { x with limits := x.limits.set 4 source duty, duty := (x.limits.set 4 source duty).foldl (fun n l => min n l.2) 4 }

end Sys2Proof.Claims

/-- Boot of a part without power begins at step 1 and goes on step by step, with repairs and fences applied, dies
tested, the region table and ports brought up and every SVEC set (log 67), to state 7, or ends at a step that fails or
whose image is refused. Loss of power or voltage and a die at its shutdown temperature lose every launch, strand,
queue and byte of memory. A function-level reset stops every launch without a record and clears the host's registers,
but keeps the windows (log 63). The lowest limit of a die sets its duty, with an event at each change (log 70); a die
too hot is pre-empted with its units down, and regains them when it has cooled. An uncorrectable error fences its
physical page (log 73) once no access through it is outstanding; a full list ends the partition's launches. A bank or
a lane uses its spare (for good, log 94); a link that fails again is down and ends the launches that cross it. (R373,
R375, R376, R404, R406, R409, R410, R411, R412, R413, R414, R415) -/
def Obligations.PowerAndRepair : Prop :=
  (∀ s boot,
    (s.pkg.boot ≠ 0 → exec (.perstRelease boot) s = .next s) ∧
    (s.pkg.boot = 0 → exec (.perstRelease boot) s =
      .next { s with pkg := { s.pkg with boot := 1, bootClk := s.clk, report := some boot } })) ∧
  (∀ s rest r n, s.agenda = .boot :: rest → s.pkg.report = some r → s.pkg.boot = n → 1 ≤ n → n ≤ 6 →
    let refused := fun k => imageAccepted k (r.images.getD k []) = false
    let fails := n ≠ 6 ∧ (r.failStep = n ∨ (n = 1 ∧ refused 0) ∨ (n = 2 ∧ refused 1) ∨ (n = 4 ∧ refused 4) ∨
      (n = 5 ∧ (refused 2 ∨ refused 3)))
    (fails → step s = .next (tick { s with agenda := rest, pkg := { s.pkg with boot := 0x80 + n } })) ∧
    (¬fails → ∃ t, step s = .next (tick t) ∧ t.pkg.boot = n + 1 ∧ t.mem = s.mem ∧ t.strands = s.strands ∧ t.agenda = rest ∧
      (n = 2 → t.pkg.fences = bootFences t.pkg.repairs) ∧
      (n = 3 → ∀ d < 8, (t.die d).unusable = r.unusable.contains d) ∧
      (n = 4 → t.pkg.farBytes = r.farBytes ∧ t.regions = bootRegions (retiredChannels s.pkg.repairs) ∧
        ∀ p ∈ t.pkg.rootPorts, p ∈ r.rootPorts ∧ (p ∉ r.badPorts ∨ 8 ≤ p)) ∧
      (n = 5 → ∀ c < coreCount, (t.core c).svec = Config.svec (dieOf c) c) ∧
      (n ≠ 5 → t.cores = s.cores) ∧ (n ≠ 4 → t.regions = s.regions))) ∧
  (∀ i s die, i = .powerOff ∨ i = .inputVoltageFault ∨ (i = .dieTemperatureShutdown die ∧ die < 10) →
    ∃ t, exec i s = .next t ∧ t.mem = [] ∧ t.strands = [] ∧ t.launches = [] ∧ t.queues = [] ∧ t.pkg.boot = 0 ∧
      t.host = { mem := s.host.mem } ∧ t.pkg.repairs = s.pkg.repairs ∧ t.pkg.applied = s.pkg.applied ∧ t.pkg.disk = s.pkg.disk ∧ t.parts = [] ∧ t.loaded = []) ∧
  (∀ s, ∃ t, exec .functionLevelReset s = .next t ∧ t.mem = s.mem ∧ t.strands = s.strands ∧
    t.host = { mem := s.host.mem, windows := s.host.windows, readData := s.host.readData, stalled := s.host.stalled } ∧
    (∀ l ∈ t.launches, l.phase = .ending ∧ l.status = 0 ∧ l.packet = none) ∧
    (∀ l ∈ s.launches, l.phase = .running → ∀ c ∈ coresOf s l, HeldEvent.hostInterrupt l.lid 2 ∈ (t.core c).held)) ∧
  (∀ i s die source duty, s.pkg.boot = 7 → die < 10 → duty ∈ [2, 3, 4] →
    (i = .coolantInletLimit die duty ∧ source = 1) ∨ (i = .dieTemperatureLimit die duty ∧ source = 2) →
    let d := withLimit (s.die die) source duty
    ((s.die die).duty = d.duty → exec i s = .next (s.setDie die d)) ∧
    ((s.die die).duty ≠ d.duty → s.pkg.events.length < 256 → ∃ t, exec i s = .next t ∧ t.die die = d ∧
      (∀ k, k ≠ die → t.die k = s.die k) ∧ t.pkg.events = s.pkg.events ++ [⟨5, BitVec.ofNat 64 die, BitVec.ofNat 64 d.duty⟩] ∧
      t.mem = s.mem ∧ t.cores = s.cores)) ∧
  (∀ i s duty, s.pkg.boot = 7 → (i = .inputPowerLimit duty ∧ duty ∈ [2, 3, 4]) ∨ (i = .inputPowerRecover ∧ duty = 4) →
    ∃ t, exec i s = .next t ∧ t.mem = s.mem ∧ t.cores = s.cores ∧ ∀ d < 8, t.die d = withLimit (s.die d) 0 duty) ∧
  (∀ s die, die < 10 →
    (s.pkg.boot = 7 → (s.die die).unitsDown = false → ∃ t, exec (.dieTemperaturePreempt die) s = .next t ∧
      (t.die die).unitsDown = true ∧ t.mem = s.mem ∧ t.strands = s.strands ∧
      ∀ c ∈ coresOn die, HeldEvent.preempt ((s.core c).lid.getD 0) 1 ∈ (t.core c).held) ∧
    ((s.die die).unitsDown = true → ∃ t, exec (.dieTemperatureRecover die) s = .next t ∧
      (t.die die) = { s.die die with unitsDown := false } ∧ t.mem = s.mem ∧ t.strands = s.strands ∧
      (∀ c ∈ coresOn die, t.core c = { s.core c with unitsDown := false }) ∧ ∀ c, c ∉ coresOn die → t.core c = s.core c) ∧
    ((s.die die).unitsDown = false → exec (.dieTemperatureRecover die) s = .next s)) ∧
  (∀ s line k, s.pkg.boot = 7 → cellAt s (line / 64 * 64) = some k →
    (pageBusy s (line / 65536) = true → exec (.pageFence line) s = .next s) ∧
    (pageBusy s (line / 65536) = false → ∃ t, exec (.pageFence line) s = .next t ∧ k / 64 ∈ t.poisoned ∧
      (s.pkg.fences.length < 4096 → t.mem = s.mem ∧ line / 65536 ∈ t.pkg.fences) ∧
      (line / 65536 ∉ s.pkg.fences → 4096 ≤ s.pkg.fences.length →
        (∀ l ∈ t.launches, partOfPhys s (line / 64 * 64) = some l.part → l.phase = .ending) ∧
        (s.pkg.events.length < 256 → ∃ w, t.pkg.events = s.pkg.events ++ [⟨3, w, BitVec.allOnes 64⟩])) ∧
      (line / 65536 ∉ s.pkg.fences → s.pkg.fences.length < 4096 → ∀ c, ∀ e ∈ (t.core c).tlb, e.mapsPage (line / 65536) = false))) ∧
  (∀ i s die, s.pkg.boot = 7 → die < 8 → i = .llcScrub die ∨ i = .patrolScrub (2 * die) ∨ i = .patrolScrub (2 * die + 1) →
    (∀ k ∈ s.poisoned, memberOf (k * 64) ≠ die) →
    exec i s = .next (s.setDie die { s.die die with scrubs := (s.die die).scrubs + 1 })) ∧
  (∀ i s line p, s.pkg.boot = 7 → s.poisoned = [line] → physOfCell s (line * 64) = some p → pageBusy s (p / 65536) = false →
    s.pkg.fences.length < 4096 →
    (i = .llcScrub (memberOf (line * 64)) ∧ memberOf (line * 64) < 8) ∨
      (i = .patrolScrub (stackOf (line * 64)) ∧ tierOf (line * 64) = 0 ∧ memberOf (line * 64) < 8) →
    ∃ t, exec i s = .next t ∧ t.mem = s.mem ∧ p / 65536 ∈ t.pkg.fences) ∧
  (∀ s stack chan bank, s.pkg.boot = 7 → stack < 16 → chan < 64 → (s.pkg.repairs.get [] stack).length < 1024 →
    ∃ t, exec (.bankSparing stack chan bank) s = .next t ∧ t.mem = s.mem ∧ t.cores = s.cores ∧
      (64 * stack + chan ∈ s.pkg.spared → ⟨3, chan⟩ ∈ t.pkg.repairs.get [] stack ∧ t.pkg.spared = s.pkg.spared) ∧
      (64 * stack + chan ∉ s.pkg.spared → 64 * stack + chan ∈ t.pkg.spared ∧
        ⟨2, chan * 4096 + bank % 4096⟩ ∈ t.pkg.repairs.get [] stack ∧
        (t.die (stack / 2)).counters.get 0 19 = (s.die (stack / 2)).counters.get 0 19 + 1)) ∧
  (∀ s link, s.pkg.boot = 7 → link < 14 →
    ∃ t, exec (.liveLaneRepair link none) s = .next t ∧ t.mem = s.mem ∧
      (s.pkg.lanes.get 0 link < 2 → t.pkg.lanes.get 0 link = s.pkg.lanes.get 0 link + 1 ∧ t.pkg.halfLinks = s.pkg.halfLinks ∧
        t.pkg.downLinks = s.pkg.downLinks ∧ t.launches = s.launches) ∧
      (2 ≤ s.pkg.lanes.get 0 link → link ∉ s.pkg.halfLinks → link ∈ t.pkg.halfLinks ∧ t.launches = s.launches) ∧
      (2 ≤ s.pkg.lanes.get 0 link → link ∈ s.pkg.halfLinks → link ∈ t.pkg.downLinks ∧
        ∀ l ∈ t.launches, l.phase = .running → link ∉ l.links)) ∧
  (∀ s stack chan, s.pkg.boot = 7 → stack < 16 → chan < 64 → (s.pkg.repairs.get [] stack).length < 1024 →
    ∃ t, exec (.liveLaneRepair stack (some chan)) s = .next t ∧ t.mem = s.mem ∧ t.cores = s.cores ∧
      let used := s.pkg.tsvs.get 0 (64 * stack + chan)
      (used < 4 → t.pkg.tsvs.get 0 (64 * stack + chan) = used + 1 ∧ ⟨4, chan⟩ ∈ t.pkg.repairs.get [] stack) ∧
      (4 ≤ used → t.pkg.tsvs = s.pkg.tsvs ∧ ⟨3, chan⟩ ∈ t.pkg.repairs.get [] stack)) ∧
  (∀ s port, s.pkg.boot = 7 → port < 8 → port ∉ s.pkg.portsDown →
    exec (.linkRetrain port true) s = .next s ∧
    ∃ t, exec (.linkRetrain port false) s = .next t ∧ t.mem = s.mem ∧ port ∈ t.pkg.portsDown ∧ port ∉ t.pkg.rootPorts ∧
      port ∉ t.pkg.cxlPorts ∧ ∀ n ∈ t.pkg.namespaces, n.port ≠ port)
end

