-- ==== Sys2Proof/Laws/Fields.lean ====
section
/-! SUPPORT. The fields of an encoding read back what was put into them: register specifiers, codes, and the parts of the
tail layouts. -/

namespace Sys2Proof

@[simp] theorem Reg.ofBits_bits (r : Reg) : Reg.ofBits r.bits = r := by
  rcases r with n | n | n <;> revert n <;> decide

@[simp] theorem vreg_vbits (v : VReg) : vreg (vbits v) = v := by
  revert v; decide

@[simp] theorem aSpec_aReg (r : Reg) (b : Bool) : aSpec (aReg r b) = r.bits := by
  unfold aSpec aReg
  generalize r.bits = x
  revert x b; decide

@[simp] theorem aBit_aReg (r : Reg) (b : Bool) : aBit (aReg r b) = b := by
  unfold aBit aReg
  generalize r.bits = x
  revert x b; decide

@[simp] theorem aSpec_aVec (v : VReg) (b : Bool) : aSpec (aVec v b) = vbits v := by
  unfold aSpec aVec
  generalize vbits v = x
  revert x b; decide

@[simp] theorem aBit_aVec (v : VReg) (b : Bool) : aBit (aVec v b) = b := by
  unfold aBit aVec
  generalize vbits v = x
  revert x b; decide

@[simp] theorem ElemTy.ofCode_code (t : ElemTy) : ElemTy.ofCode t.code = t := by cases t <;> rfl

@[simp] theorem Rnd.ofCode_code (t : Rnd) : Rnd.ofCode t.code = t := by cases t <;> rfl

@[simp] theorem Scope.ofCode_code (t : Scope) : Scope.ofCode t.code = t := by cases t <;> rfl

@[simp] theorem Ord.ofCode_code (t : Ord) : Ord.ofCode t.code = t := by cases t <;> rfl

@[simp] theorem AmoOp.ofCode_code (t : AmoOp) : AmoOp.ofCode t.code = some t := by cases t <;> rfl

@[simp] theorem AmoMod.ofBits_bits (m : AmoMod) : AmoMod.ofBits m.bits = m := by
  obtain ⟨p, o, c, w⟩ := m
  revert p
  cases o <;> cases c <;> cases w <;> decide

@[simp] theorem cntOf_bits (c : Option (BitVec 4)) : cntOf (cntFlag c) (cntBits c) = c := by
  cases c <;> rfl

/-- The left part of two parts set side by side. -/
theorem extract_left {n m : Nat} (x : BitVec n) (y : BitVec m) : (x ++ y).extractLsb' m n = x := by
  apply BitVec.eq_of_getLsbD_eq
  intro i hi
  simp [BitVec.getLsbD_append, hi]

/-- The right part of two parts set side by side. -/
theorem extract_right {n m : Nat} (x : BitVec n) (y : BitVec m) : (x ++ y).extractLsb' 0 m = y := by
  apply BitVec.eq_of_getLsbD_eq
  intro i hi
  simp [BitVec.getLsbD_append, hi]

/-- A field that lies in the left of two parts. -/
theorem extract_in_left {n m : Nat} (x : BitVec n) (y : BitVec m) (lo len : Nat) (h : m ≤ lo) :
    (x ++ y).extractLsb' lo len = x.extractLsb' (lo - m) len := by
  apply BitVec.eq_of_getLsbD_eq
  intro i hi
  have h2 : ¬ lo + i < m := by omega
  have h3 : lo + i - m = lo - m + i := by omega
  simp [BitVec.getLsbD_append, hi, h2, h3]

/-- A field that lies in the right of two parts. -/
theorem extract_in_right {n m : Nat} (x : BitVec n) (y : BitVec m) (lo len : Nat) (h : lo + len ≤ m) :
    (x ++ y).extractLsb' lo len = y.extractLsb' lo len := by
  apply BitVec.eq_of_getLsbD_eq
  intro i hi
  have h2 : lo + i < m := by omega
  simp [BitVec.getLsbD_append, hi, h2]

theorem extract_whole {n : Nat} (x : BitVec n) : x.extractLsb' 0 n = x := by
  apply BitVec.eq_of_getLsbD_eq
  intro i hi
  simp [hi]

theorem getLsbD_in_left {n m : Nat} (x : BitVec n) (y : BitVec m) (k : Nat) (h : m ≤ k) :
    (x ++ y).getLsbD k = x.getLsbD (k - m) := by
  simp [BitVec.getLsbD_append, Nat.not_lt.mpr h]

theorem getLsbD_in_right {n m : Nat} (x : BitVec n) (y : BitVec m) (k : Nat) (h : k < m) :
    (x ++ y).getLsbD k = y.getLsbD k := by
  simp [BitVec.getLsbD_append, h]

@[simp] theorem getLsbD_ofBool_zero (b : Bool) : (BitVec.ofBool b).getLsbD 0 = b := by cases b <;> rfl

end Sys2Proof
end

