-- ==== Sys2Proof/Laws/Tab.lean ====
section
/-! SUPPORT. What the operations on sparse tables do: reading after writing, and the canonical form. -/

namespace Sys2Proof

variable {α : Type}

theorem Tab.find_insert_self (k : Nat) (v : α) (t : Tab α) : (t.insert k v).find k = some v := by
  induction t with
  | nil => simp [Tab.insert, Tab.find]
  | cons e t ih =>
    obtain ⟨k', v'⟩ := e
    unfold Tab.insert
    split
    · simp [Tab.find]
    · split
      · simp [Tab.find]
      · rename_i h1 h2; simp [Tab.find, h2, ih]

theorem Tab.find_insert_ne {j k : Nat} (h : j ≠ k) (v : α) (t : Tab α) : (t.insert k v).find j = t.find j := by
  induction t with
  | nil => simp [Tab.insert, Tab.find, h]
  | cons e t ih =>
    obtain ⟨k', v'⟩ := e
    unfold Tab.insert
    split
    · simp [Tab.find, h]
    · split
      · rename_i h1 h2; subst h2; simp [Tab.find, h]
      · simp [Tab.find, ih]

/-- What is listed after a write. -/
theorem Tab.find_insert (j k : Nat) (v : α) (t : Tab α) :
    (t.insert k v).find j = if j = k then some v else t.find j := by
  by_cases h : j = k
  · subst h; simp [Tab.find_insert_self]
  · simp [h, Tab.find_insert_ne h]

theorem Tab.find_erase_self (k : Nat) (t : Tab α) : (t.erase k).find k = none := by
  induction t with
  | nil => simp [Tab.erase, Tab.find]
  | cons e t ih =>
    obtain ⟨k', v'⟩ := e
    unfold Tab.erase
    split
    · exact ih
    · rename_i h; simp [Tab.find, h, ih]

theorem Tab.find_erase_ne {j k : Nat} (h : j ≠ k) (t : Tab α) : (t.erase k).find j = t.find j := by
  induction t with
  | nil => simp [Tab.erase, Tab.find]
  | cons e t ih =>
    obtain ⟨k', v'⟩ := e
    unfold Tab.erase
    split
    · rename_i h2; subst h2; simp [Tab.find, h, ih]
    · simp [Tab.find, ih]

/-- What is listed after an erasure. -/
theorem Tab.find_erase (j k : Nat) (t : Tab α) : (t.erase k).find j = if j = k then none else t.find j := by
  by_cases h : j = k
  · subst h; simp [Tab.find_erase_self]
  · simp [h, Tab.find_erase_ne h]

/-- What a key reads as after a listing. -/
theorem Tab.get_insert (d : α) (j k : Nat) (v : α) (t : Tab α) :
    Tab.get d j (t.insert k v) = if j = k then v else Tab.get d j t := by
  unfold Tab.get
  rw [Tab.find_insert]
  split <;> rfl

/-- What a key reads as after a write that does not list the default. -/
theorem Tab.get_set [DecidableEq α] (d : α) (j k : Nat) (v : α) (t : Tab α) :
    Tab.get d j (Tab.set d k v t) = if j = k then v else Tab.get d j t := by
  unfold Tab.set
  split
  · rename_i h
    unfold Tab.get
    rw [Tab.find_erase]
    by_cases hj : j = k
    · simp [hj, h]
    · simp [hj]
  · exact Tab.get_insert d j k v t

/-- A canonical table above a bound is canonical above every lower bound. -/
theorem Tab.wfFrom_mono [DecidableEq α] {d : α} {lo lo' : Nat} (h : lo' ≤ lo) {t : Tab α}
    (ht : Tab.wfFrom d lo t = true) : Tab.wfFrom d lo' t = true := by
  cases t with
  | nil => rfl
  | cons e t =>
    obtain ⟨k, v⟩ := e
    simp only [Tab.wfFrom, Bool.and_eq_true, decide_eq_true_eq] at ht ⊢
    exact ⟨⟨by omega, ht.1.2⟩, ht.2⟩

theorem Tab.wfFrom_insert [DecidableEq α] {d : α} {k : Nat} {v : α} (hv : v ≠ d) (t : Tab α) :
    ∀ lo, lo ≤ k → Tab.wfFrom d lo t = true → Tab.wfFrom d lo (t.insert k v) = true := by
  induction t with
  | nil => intro lo hk _; simp [Tab.insert, Tab.wfFrom, hk, hv]
  | cons e t ih =>
    obtain ⟨k', v'⟩ := e
    intro lo hk ht
    simp only [Tab.wfFrom, Bool.and_eq_true, decide_eq_true_eq] at ht
    unfold Tab.insert
    split
    · rename_i h
      simp only [Tab.wfFrom, Bool.and_eq_true, decide_eq_true_eq]
      exact ⟨⟨hk, hv⟩, ⟨by omega, ht.1.2⟩, ht.2⟩
    · split
      · rename_i h1 h2
        subst h2
        simp only [Tab.wfFrom, Bool.and_eq_true, decide_eq_true_eq]
        exact ⟨⟨hk, hv⟩, ht.2⟩
      · simp only [Tab.wfFrom, Bool.and_eq_true, decide_eq_true_eq]
        exact ⟨ht.1, ih _ (by omega) ht.2⟩

theorem Tab.wfFrom_erase [DecidableEq α] {d : α} (k : Nat) (t : Tab α) :
    ∀ lo, Tab.wfFrom d lo t = true → Tab.wfFrom d lo (t.erase k) = true := by
  induction t with
  | nil => intro lo _; rfl
  | cons e t ih =>
    obtain ⟨k', v'⟩ := e
    intro lo ht
    simp only [Tab.wfFrom, Bool.and_eq_true, decide_eq_true_eq] at ht
    unfold Tab.erase
    split
    · exact ih _ (Tab.wfFrom_mono (by omega) ht.2)
    · simp only [Tab.wfFrom, Bool.and_eq_true, decide_eq_true_eq]
      exact ⟨ht.1, ih _ ht.2⟩

/-- A write keeps the canonical form. -/
theorem Tab.wf_set [DecidableEq α] (d : α) (k : Nat) (v : α) {t : Tab α} (ht : Tab.wf d t = true) :
    Tab.wf d (Tab.set d k v t) = true := by
  unfold Tab.set
  split
  · exact Tab.wfFrom_erase k t 0 ht
  · rename_i h; exact Tab.wfFrom_insert h t 0 (Nat.zero_le k) ht

theorem Tab.get_of_below [DecidableEq α] {d : α} (t : Tab α) :
    ∀ {lo j : Nat}, j < lo → Tab.wfFrom d lo t = true → Tab.get d j t = d := by
  induction t with
  | nil => intro lo j _ _; rfl
  | cons e t ih =>
    obtain ⟨k, v⟩ := e
    intro lo j hj ht
    simp only [Tab.wfFrom, Bool.and_eq_true, decide_eq_true_eq] at ht
    have hne : j ≠ k := by omega
    have h2 : Tab.get d j ((k, v) :: t) = Tab.get d j t := by simp [Tab.get, Tab.find, hne]
    rw [h2]
    exact ih (lo := k + 1) (by omega) ht.2

theorem Tab.ext_wfFrom [DecidableEq α] {d : α} (t : Tab α) :
    ∀ {lo : Nat} {u : Tab α}, Tab.wfFrom d lo t = true → Tab.wfFrom d lo u = true →
      (∀ j, Tab.get d j t = Tab.get d j u) → t = u := by
  induction t with
  | nil =>
    intro lo u _ hu h
    cases u with
    | nil => rfl
    | cons e u =>
      obtain ⟨k, v⟩ := e
      simp only [Tab.wfFrom, Bool.and_eq_true, decide_eq_true_eq] at hu
      exact absurd (by simpa [Tab.get, Tab.find] using (h k).symm) hu.1.2
  | cons e t ih =>
    obtain ⟨k, v⟩ := e
    intro lo u ht hu h
    cases u with
    | nil =>
      simp only [Tab.wfFrom, Bool.and_eq_true, decide_eq_true_eq] at ht
      exact absurd (by simpa [Tab.get, Tab.find] using h k) ht.1.2
    | cons e' u =>
      obtain ⟨k', v'⟩ := e'
      simp only [Tab.wfFrom, Bool.and_eq_true, decide_eq_true_eq] at ht hu
      have hk : k = k' := by
        by_contra hne
        rcases Nat.lt_or_gt_of_ne hne with hlt | hgt
        · have h1 : Tab.get d k ((k', v') :: u) = d :=
            Tab.get_of_below _ (lo := k') hlt (by simp [Tab.wfFrom, hu.1.2, hu.2])
          exact ht.1.2 (by rw [← h1, ← h k]; simp [Tab.get, Tab.find])
        · have h1 : Tab.get d k' ((k, v) :: t) = d :=
            Tab.get_of_below _ (lo := k) hgt (by simp [Tab.wfFrom, ht.1.2, ht.2])
          exact hu.1.2 (by rw [← h1, h k']; simp [Tab.get, Tab.find])
      subst hk
      have hv : v = v' := by simpa [Tab.get, Tab.find] using h k
      subst hv
      have : t = u := ih ht.2 hu.2 (by
        intro j
        by_cases hj : j = k
        · subst hj
          rw [Tab.get_of_below t (lo := j + 1) (by omega) ht.2, Tab.get_of_below u (lo := j + 1) (by omega) hu.2]
        · simpa [Tab.get, Tab.find, hj] using h j)
      rw [this]

/-- Two canonical tables that read alike are the same data. -/
theorem Tab.ext_wf [DecidableEq α] {d : α} {t u : Tab α} (ht : Tab.wf d t = true) (hu : Tab.wf d u = true)
    (h : ∀ j, Tab.get d j t = Tab.get d j u) : t = u :=
  Tab.ext_wfFrom t ht hu h

end Sys2Proof
end

