-- ==== Sys2Proof/Laws/State.lean ====
section
/-! SUPPORT. What each update of the state leaves in each field, so that no proof unfolds a record update; and what the
accessors read after each update. -/

namespace Sys2Proof.Machine

/-! setStrand changes strands only. -/

@[simp] theorem State.setStrand_cores (s : State) (core place : Nat) (x : Strand) : (s.setStrand core place x).cores = s.cores := rfl
@[simp] theorem State.setStrand_clusters (s : State) (core place : Nat) (x : Strand) : (s.setStrand core place x).clusters = s.clusters := rfl
@[simp] theorem State.setStrand_dies (s : State) (core place : Nat) (x : Strand) : (s.setStrand core place x).dies = s.dies := rfl
@[simp] theorem State.setStrand_parts (s : State) (core place : Nat) (x : Strand) : (s.setStrand core place x).parts = s.parts := rfl
@[simp] theorem State.setStrand_launches (s : State) (core place : Nat) (x : Strand) : (s.setStrand core place x).launches = s.launches := rfl
@[simp] theorem State.setStrand_loaded (s : State) (core place : Nat) (x : Strand) : (s.setStrand core place x).loaded = s.loaded := rfl
@[simp] theorem State.setStrand_queues (s : State) (core place : Nat) (x : Strand) : (s.setStrand core place x).queues = s.queues := rfl
@[simp] theorem State.setStrand_mem (s : State) (core place : Nat) (x : Strand) : (s.setStrand core place x).mem = s.mem := rfl
@[simp] theorem State.setStrand_poisoned (s : State) (core place : Nat) (x : Strand) : (s.setStrand core place x).poisoned = s.poisoned := rfl
@[simp] theorem State.setStrand_regions (s : State) (core place : Nat) (x : Strand) : (s.setStrand core place x).regions = s.regions := rfl
@[simp] theorem State.setStrand_moves (s : State) (core place : Nat) (x : Strand) : (s.setStrand core place x).moves = s.moves := rfl
@[simp] theorem State.setStrand_records (s : State) (core place : Nat) (x : Strand) : (s.setStrand core place x).records = s.records := rfl
@[simp] theorem State.setStrand_woken (s : State) (core place : Nat) (x : Strand) : (s.setStrand core place x).woken = s.woken := rfl
@[simp] theorem State.setStrand_host (s : State) (core place : Nat) (x : Strand) : (s.setStrand core place x).host = s.host := rfl
@[simp] theorem State.setStrand_pkg (s : State) (core place : Nat) (x : Strand) : (s.setStrand core place x).pkg = s.pkg := rfl
@[simp] theorem State.setStrand_clk (s : State) (core place : Nat) (x : Strand) : (s.setStrand core place x).clk = s.clk := rfl
@[simp] theorem State.setStrand_nextGen (s : State) (core place : Nat) (x : Strand) : (s.setStrand core place x).nextGen = s.nextGen := rfl
@[simp] theorem State.setStrand_nextQueue (s : State) (core place : Nat) (x : Strand) : (s.setStrand core place x).nextQueue = s.nextQueue := rfl
@[simp] theorem State.setStrand_stamp (s : State) (core place : Nat) (x : Strand) : (s.setStrand core place x).stamp = s.stamp := rfl
@[simp] theorem State.setStrand_free (s : State) (core place : Nat) (x : Strand) : (s.setStrand core place x).free = s.free := rfl
@[simp] theorem State.setStrand_agenda (s : State) (core place : Nat) (x : Strand) : (s.setStrand core place x).agenda = s.agenda := rfl
@[simp] theorem State.setStrand_cursor (s : State) (core place : Nat) (x : Strand) : (s.setStrand core place x).cursor = s.cursor := rfl

/-! dropStrand changes strands only. -/

@[simp] theorem State.dropStrand_cores (s : State) (core place : Nat) : (s.dropStrand core place).cores = s.cores := rfl
@[simp] theorem State.dropStrand_clusters (s : State) (core place : Nat) : (s.dropStrand core place).clusters = s.clusters := rfl
@[simp] theorem State.dropStrand_dies (s : State) (core place : Nat) : (s.dropStrand core place).dies = s.dies := rfl
@[simp] theorem State.dropStrand_parts (s : State) (core place : Nat) : (s.dropStrand core place).parts = s.parts := rfl
@[simp] theorem State.dropStrand_launches (s : State) (core place : Nat) : (s.dropStrand core place).launches = s.launches := rfl
@[simp] theorem State.dropStrand_loaded (s : State) (core place : Nat) : (s.dropStrand core place).loaded = s.loaded := rfl
@[simp] theorem State.dropStrand_queues (s : State) (core place : Nat) : (s.dropStrand core place).queues = s.queues := rfl
@[simp] theorem State.dropStrand_mem (s : State) (core place : Nat) : (s.dropStrand core place).mem = s.mem := rfl
@[simp] theorem State.dropStrand_poisoned (s : State) (core place : Nat) : (s.dropStrand core place).poisoned = s.poisoned := rfl
@[simp] theorem State.dropStrand_regions (s : State) (core place : Nat) : (s.dropStrand core place).regions = s.regions := rfl
@[simp] theorem State.dropStrand_moves (s : State) (core place : Nat) : (s.dropStrand core place).moves = s.moves := rfl
@[simp] theorem State.dropStrand_records (s : State) (core place : Nat) : (s.dropStrand core place).records = s.records := rfl
@[simp] theorem State.dropStrand_woken (s : State) (core place : Nat) : (s.dropStrand core place).woken = s.woken := rfl
@[simp] theorem State.dropStrand_host (s : State) (core place : Nat) : (s.dropStrand core place).host = s.host := rfl
@[simp] theorem State.dropStrand_pkg (s : State) (core place : Nat) : (s.dropStrand core place).pkg = s.pkg := rfl
@[simp] theorem State.dropStrand_clk (s : State) (core place : Nat) : (s.dropStrand core place).clk = s.clk := rfl
@[simp] theorem State.dropStrand_nextGen (s : State) (core place : Nat) : (s.dropStrand core place).nextGen = s.nextGen := rfl
@[simp] theorem State.dropStrand_nextQueue (s : State) (core place : Nat) : (s.dropStrand core place).nextQueue = s.nextQueue := rfl
@[simp] theorem State.dropStrand_stamp (s : State) (core place : Nat) : (s.dropStrand core place).stamp = s.stamp := rfl
@[simp] theorem State.dropStrand_free (s : State) (core place : Nat) : (s.dropStrand core place).free = s.free := rfl
@[simp] theorem State.dropStrand_agenda (s : State) (core place : Nat) : (s.dropStrand core place).agenda = s.agenda := rfl
@[simp] theorem State.dropStrand_cursor (s : State) (core place : Nat) : (s.dropStrand core place).cursor = s.cursor := rfl

/-! setCore changes cores only. -/

@[simp] theorem State.setCore_strands (s : State) (c : Nat) (v : Core) : (s.setCore c v).strands = s.strands := rfl
@[simp] theorem State.setCore_clusters (s : State) (c : Nat) (v : Core) : (s.setCore c v).clusters = s.clusters := rfl
@[simp] theorem State.setCore_dies (s : State) (c : Nat) (v : Core) : (s.setCore c v).dies = s.dies := rfl
@[simp] theorem State.setCore_parts (s : State) (c : Nat) (v : Core) : (s.setCore c v).parts = s.parts := rfl
@[simp] theorem State.setCore_launches (s : State) (c : Nat) (v : Core) : (s.setCore c v).launches = s.launches := rfl
@[simp] theorem State.setCore_loaded (s : State) (c : Nat) (v : Core) : (s.setCore c v).loaded = s.loaded := rfl
@[simp] theorem State.setCore_queues (s : State) (c : Nat) (v : Core) : (s.setCore c v).queues = s.queues := rfl
@[simp] theorem State.setCore_mem (s : State) (c : Nat) (v : Core) : (s.setCore c v).mem = s.mem := rfl
@[simp] theorem State.setCore_poisoned (s : State) (c : Nat) (v : Core) : (s.setCore c v).poisoned = s.poisoned := rfl
@[simp] theorem State.setCore_regions (s : State) (c : Nat) (v : Core) : (s.setCore c v).regions = s.regions := rfl
@[simp] theorem State.setCore_moves (s : State) (c : Nat) (v : Core) : (s.setCore c v).moves = s.moves := rfl
@[simp] theorem State.setCore_records (s : State) (c : Nat) (v : Core) : (s.setCore c v).records = s.records := rfl
@[simp] theorem State.setCore_woken (s : State) (c : Nat) (v : Core) : (s.setCore c v).woken = s.woken := rfl
@[simp] theorem State.setCore_host (s : State) (c : Nat) (v : Core) : (s.setCore c v).host = s.host := rfl
@[simp] theorem State.setCore_pkg (s : State) (c : Nat) (v : Core) : (s.setCore c v).pkg = s.pkg := rfl
@[simp] theorem State.setCore_clk (s : State) (c : Nat) (v : Core) : (s.setCore c v).clk = s.clk := rfl
@[simp] theorem State.setCore_nextGen (s : State) (c : Nat) (v : Core) : (s.setCore c v).nextGen = s.nextGen := rfl
@[simp] theorem State.setCore_nextQueue (s : State) (c : Nat) (v : Core) : (s.setCore c v).nextQueue = s.nextQueue := rfl
@[simp] theorem State.setCore_stamp (s : State) (c : Nat) (v : Core) : (s.setCore c v).stamp = s.stamp := rfl
@[simp] theorem State.setCore_free (s : State) (c : Nat) (v : Core) : (s.setCore c v).free = s.free := rfl
@[simp] theorem State.setCore_agenda (s : State) (c : Nat) (v : Core) : (s.setCore c v).agenda = s.agenda := rfl
@[simp] theorem State.setCore_cursor (s : State) (c : Nat) (v : Core) : (s.setCore c v).cursor = s.cursor := rfl

/-! setDie changes dies only. -/

@[simp] theorem State.setDie_strands (s : State) (d : Nat) (v : Die) : (s.setDie d v).strands = s.strands := rfl
@[simp] theorem State.setDie_cores (s : State) (d : Nat) (v : Die) : (s.setDie d v).cores = s.cores := rfl
@[simp] theorem State.setDie_clusters (s : State) (d : Nat) (v : Die) : (s.setDie d v).clusters = s.clusters := rfl
@[simp] theorem State.setDie_parts (s : State) (d : Nat) (v : Die) : (s.setDie d v).parts = s.parts := rfl
@[simp] theorem State.setDie_launches (s : State) (d : Nat) (v : Die) : (s.setDie d v).launches = s.launches := rfl
@[simp] theorem State.setDie_loaded (s : State) (d : Nat) (v : Die) : (s.setDie d v).loaded = s.loaded := rfl
@[simp] theorem State.setDie_queues (s : State) (d : Nat) (v : Die) : (s.setDie d v).queues = s.queues := rfl
@[simp] theorem State.setDie_mem (s : State) (d : Nat) (v : Die) : (s.setDie d v).mem = s.mem := rfl
@[simp] theorem State.setDie_poisoned (s : State) (d : Nat) (v : Die) : (s.setDie d v).poisoned = s.poisoned := rfl
@[simp] theorem State.setDie_regions (s : State) (d : Nat) (v : Die) : (s.setDie d v).regions = s.regions := rfl
@[simp] theorem State.setDie_moves (s : State) (d : Nat) (v : Die) : (s.setDie d v).moves = s.moves := rfl
@[simp] theorem State.setDie_records (s : State) (d : Nat) (v : Die) : (s.setDie d v).records = s.records := rfl
@[simp] theorem State.setDie_woken (s : State) (d : Nat) (v : Die) : (s.setDie d v).woken = s.woken := rfl
@[simp] theorem State.setDie_host (s : State) (d : Nat) (v : Die) : (s.setDie d v).host = s.host := rfl
@[simp] theorem State.setDie_pkg (s : State) (d : Nat) (v : Die) : (s.setDie d v).pkg = s.pkg := rfl
@[simp] theorem State.setDie_clk (s : State) (d : Nat) (v : Die) : (s.setDie d v).clk = s.clk := rfl
@[simp] theorem State.setDie_nextGen (s : State) (d : Nat) (v : Die) : (s.setDie d v).nextGen = s.nextGen := rfl
@[simp] theorem State.setDie_nextQueue (s : State) (d : Nat) (v : Die) : (s.setDie d v).nextQueue = s.nextQueue := rfl
@[simp] theorem State.setDie_stamp (s : State) (d : Nat) (v : Die) : (s.setDie d v).stamp = s.stamp := rfl
@[simp] theorem State.setDie_free (s : State) (d : Nat) (v : Die) : (s.setDie d v).free = s.free := rfl
@[simp] theorem State.setDie_agenda (s : State) (d : Nat) (v : Die) : (s.setDie d v).agenda = s.agenda := rfl
@[simp] theorem State.setDie_cursor (s : State) (d : Nat) (v : Die) : (s.setDie d v).cursor = s.cursor := rfl

/-! setCluster changes clusters only. -/

@[simp] theorem State.setCluster_strands (s : State) (k : Nat) (v : Cluster) : (s.setCluster k v).strands = s.strands := rfl
@[simp] theorem State.setCluster_cores (s : State) (k : Nat) (v : Cluster) : (s.setCluster k v).cores = s.cores := rfl
@[simp] theorem State.setCluster_dies (s : State) (k : Nat) (v : Cluster) : (s.setCluster k v).dies = s.dies := rfl
@[simp] theorem State.setCluster_parts (s : State) (k : Nat) (v : Cluster) : (s.setCluster k v).parts = s.parts := rfl
@[simp] theorem State.setCluster_launches (s : State) (k : Nat) (v : Cluster) : (s.setCluster k v).launches = s.launches := rfl
@[simp] theorem State.setCluster_loaded (s : State) (k : Nat) (v : Cluster) : (s.setCluster k v).loaded = s.loaded := rfl
@[simp] theorem State.setCluster_queues (s : State) (k : Nat) (v : Cluster) : (s.setCluster k v).queues = s.queues := rfl
@[simp] theorem State.setCluster_mem (s : State) (k : Nat) (v : Cluster) : (s.setCluster k v).mem = s.mem := rfl
@[simp] theorem State.setCluster_poisoned (s : State) (k : Nat) (v : Cluster) : (s.setCluster k v).poisoned = s.poisoned := rfl
@[simp] theorem State.setCluster_regions (s : State) (k : Nat) (v : Cluster) : (s.setCluster k v).regions = s.regions := rfl
@[simp] theorem State.setCluster_moves (s : State) (k : Nat) (v : Cluster) : (s.setCluster k v).moves = s.moves := rfl
@[simp] theorem State.setCluster_records (s : State) (k : Nat) (v : Cluster) : (s.setCluster k v).records = s.records := rfl
@[simp] theorem State.setCluster_woken (s : State) (k : Nat) (v : Cluster) : (s.setCluster k v).woken = s.woken := rfl
@[simp] theorem State.setCluster_host (s : State) (k : Nat) (v : Cluster) : (s.setCluster k v).host = s.host := rfl
@[simp] theorem State.setCluster_pkg (s : State) (k : Nat) (v : Cluster) : (s.setCluster k v).pkg = s.pkg := rfl
@[simp] theorem State.setCluster_clk (s : State) (k : Nat) (v : Cluster) : (s.setCluster k v).clk = s.clk := rfl
@[simp] theorem State.setCluster_nextGen (s : State) (k : Nat) (v : Cluster) : (s.setCluster k v).nextGen = s.nextGen := rfl
@[simp] theorem State.setCluster_nextQueue (s : State) (k : Nat) (v : Cluster) : (s.setCluster k v).nextQueue = s.nextQueue := rfl
@[simp] theorem State.setCluster_stamp (s : State) (k : Nat) (v : Cluster) : (s.setCluster k v).stamp = s.stamp := rfl
@[simp] theorem State.setCluster_free (s : State) (k : Nat) (v : Cluster) : (s.setCluster k v).free = s.free := rfl
@[simp] theorem State.setCluster_agenda (s : State) (k : Nat) (v : Cluster) : (s.setCluster k v).agenda = s.agenda := rfl
@[simp] theorem State.setCluster_cursor (s : State) (k : Nat) (v : Cluster) : (s.setCluster k v).cursor = s.cursor := rfl

/-! setCell changes mem only. -/

@[simp] theorem State.setCell_strands (s : State) (k : Nat) (b : Byte) : (s.setCell k b).strands = s.strands := rfl
@[simp] theorem State.setCell_cores (s : State) (k : Nat) (b : Byte) : (s.setCell k b).cores = s.cores := rfl
@[simp] theorem State.setCell_clusters (s : State) (k : Nat) (b : Byte) : (s.setCell k b).clusters = s.clusters := rfl
@[simp] theorem State.setCell_dies (s : State) (k : Nat) (b : Byte) : (s.setCell k b).dies = s.dies := rfl
@[simp] theorem State.setCell_parts (s : State) (k : Nat) (b : Byte) : (s.setCell k b).parts = s.parts := rfl
@[simp] theorem State.setCell_launches (s : State) (k : Nat) (b : Byte) : (s.setCell k b).launches = s.launches := rfl
@[simp] theorem State.setCell_loaded (s : State) (k : Nat) (b : Byte) : (s.setCell k b).loaded = s.loaded := rfl
@[simp] theorem State.setCell_queues (s : State) (k : Nat) (b : Byte) : (s.setCell k b).queues = s.queues := rfl
@[simp] theorem State.setCell_poisoned (s : State) (k : Nat) (b : Byte) : (s.setCell k b).poisoned = s.poisoned := rfl
@[simp] theorem State.setCell_regions (s : State) (k : Nat) (b : Byte) : (s.setCell k b).regions = s.regions := rfl
@[simp] theorem State.setCell_moves (s : State) (k : Nat) (b : Byte) : (s.setCell k b).moves = s.moves := rfl
@[simp] theorem State.setCell_records (s : State) (k : Nat) (b : Byte) : (s.setCell k b).records = s.records := rfl
@[simp] theorem State.setCell_woken (s : State) (k : Nat) (b : Byte) : (s.setCell k b).woken = s.woken := rfl
@[simp] theorem State.setCell_host (s : State) (k : Nat) (b : Byte) : (s.setCell k b).host = s.host := rfl
@[simp] theorem State.setCell_pkg (s : State) (k : Nat) (b : Byte) : (s.setCell k b).pkg = s.pkg := rfl
@[simp] theorem State.setCell_clk (s : State) (k : Nat) (b : Byte) : (s.setCell k b).clk = s.clk := rfl
@[simp] theorem State.setCell_nextGen (s : State) (k : Nat) (b : Byte) : (s.setCell k b).nextGen = s.nextGen := rfl
@[simp] theorem State.setCell_nextQueue (s : State) (k : Nat) (b : Byte) : (s.setCell k b).nextQueue = s.nextQueue := rfl
@[simp] theorem State.setCell_stamp (s : State) (k : Nat) (b : Byte) : (s.setCell k b).stamp = s.stamp := rfl
@[simp] theorem State.setCell_free (s : State) (k : Nat) (b : Byte) : (s.setCell k b).free = s.free := rfl
@[simp] theorem State.setCell_agenda (s : State) (k : Nat) (b : Byte) : (s.setCell k b).agenda = s.agenda := rfl
@[simp] theorem State.setCell_cursor (s : State) (k : Nat) (b : Byte) : (s.setCell k b).cursor = s.cursor := rfl

/-! setQueue changes queues only. -/

@[simp] theorem State.setQueue_strands (s : State) (q : Nat) (v : Queue) : (s.setQueue q v).strands = s.strands := rfl
@[simp] theorem State.setQueue_cores (s : State) (q : Nat) (v : Queue) : (s.setQueue q v).cores = s.cores := rfl
@[simp] theorem State.setQueue_clusters (s : State) (q : Nat) (v : Queue) : (s.setQueue q v).clusters = s.clusters := rfl
@[simp] theorem State.setQueue_dies (s : State) (q : Nat) (v : Queue) : (s.setQueue q v).dies = s.dies := rfl
@[simp] theorem State.setQueue_parts (s : State) (q : Nat) (v : Queue) : (s.setQueue q v).parts = s.parts := rfl
@[simp] theorem State.setQueue_launches (s : State) (q : Nat) (v : Queue) : (s.setQueue q v).launches = s.launches := rfl
@[simp] theorem State.setQueue_loaded (s : State) (q : Nat) (v : Queue) : (s.setQueue q v).loaded = s.loaded := rfl
@[simp] theorem State.setQueue_mem (s : State) (q : Nat) (v : Queue) : (s.setQueue q v).mem = s.mem := rfl
@[simp] theorem State.setQueue_poisoned (s : State) (q : Nat) (v : Queue) : (s.setQueue q v).poisoned = s.poisoned := rfl
@[simp] theorem State.setQueue_regions (s : State) (q : Nat) (v : Queue) : (s.setQueue q v).regions = s.regions := rfl
@[simp] theorem State.setQueue_moves (s : State) (q : Nat) (v : Queue) : (s.setQueue q v).moves = s.moves := rfl
@[simp] theorem State.setQueue_records (s : State) (q : Nat) (v : Queue) : (s.setQueue q v).records = s.records := rfl
@[simp] theorem State.setQueue_woken (s : State) (q : Nat) (v : Queue) : (s.setQueue q v).woken = s.woken := rfl
@[simp] theorem State.setQueue_host (s : State) (q : Nat) (v : Queue) : (s.setQueue q v).host = s.host := rfl
@[simp] theorem State.setQueue_pkg (s : State) (q : Nat) (v : Queue) : (s.setQueue q v).pkg = s.pkg := rfl
@[simp] theorem State.setQueue_clk (s : State) (q : Nat) (v : Queue) : (s.setQueue q v).clk = s.clk := rfl
@[simp] theorem State.setQueue_nextGen (s : State) (q : Nat) (v : Queue) : (s.setQueue q v).nextGen = s.nextGen := rfl
@[simp] theorem State.setQueue_nextQueue (s : State) (q : Nat) (v : Queue) : (s.setQueue q v).nextQueue = s.nextQueue := rfl
@[simp] theorem State.setQueue_stamp (s : State) (q : Nat) (v : Queue) : (s.setQueue q v).stamp = s.stamp := rfl
@[simp] theorem State.setQueue_free (s : State) (q : Nat) (v : Queue) : (s.setQueue q v).free = s.free := rfl
@[simp] theorem State.setQueue_agenda (s : State) (q : Nat) (v : Queue) : (s.setQueue q v).agenda = s.agenda := rfl
@[simp] theorem State.setQueue_cursor (s : State) (q : Nat) (v : Queue) : (s.setQueue q v).cursor = s.cursor := rfl

/-! setLaunch changes launches only. -/

@[simp] theorem State.setLaunch_strands (s : State) (l : Launch) : (s.setLaunch l).strands = s.strands := rfl
@[simp] theorem State.setLaunch_cores (s : State) (l : Launch) : (s.setLaunch l).cores = s.cores := rfl
@[simp] theorem State.setLaunch_clusters (s : State) (l : Launch) : (s.setLaunch l).clusters = s.clusters := rfl
@[simp] theorem State.setLaunch_dies (s : State) (l : Launch) : (s.setLaunch l).dies = s.dies := rfl
@[simp] theorem State.setLaunch_parts (s : State) (l : Launch) : (s.setLaunch l).parts = s.parts := rfl
@[simp] theorem State.setLaunch_loaded (s : State) (l : Launch) : (s.setLaunch l).loaded = s.loaded := rfl
@[simp] theorem State.setLaunch_queues (s : State) (l : Launch) : (s.setLaunch l).queues = s.queues := rfl
@[simp] theorem State.setLaunch_mem (s : State) (l : Launch) : (s.setLaunch l).mem = s.mem := rfl
@[simp] theorem State.setLaunch_poisoned (s : State) (l : Launch) : (s.setLaunch l).poisoned = s.poisoned := rfl
@[simp] theorem State.setLaunch_regions (s : State) (l : Launch) : (s.setLaunch l).regions = s.regions := rfl
@[simp] theorem State.setLaunch_moves (s : State) (l : Launch) : (s.setLaunch l).moves = s.moves := rfl
@[simp] theorem State.setLaunch_records (s : State) (l : Launch) : (s.setLaunch l).records = s.records := rfl
@[simp] theorem State.setLaunch_woken (s : State) (l : Launch) : (s.setLaunch l).woken = s.woken := rfl
@[simp] theorem State.setLaunch_host (s : State) (l : Launch) : (s.setLaunch l).host = s.host := rfl
@[simp] theorem State.setLaunch_pkg (s : State) (l : Launch) : (s.setLaunch l).pkg = s.pkg := rfl
@[simp] theorem State.setLaunch_clk (s : State) (l : Launch) : (s.setLaunch l).clk = s.clk := rfl
@[simp] theorem State.setLaunch_nextGen (s : State) (l : Launch) : (s.setLaunch l).nextGen = s.nextGen := rfl
@[simp] theorem State.setLaunch_nextQueue (s : State) (l : Launch) : (s.setLaunch l).nextQueue = s.nextQueue := rfl
@[simp] theorem State.setLaunch_stamp (s : State) (l : Launch) : (s.setLaunch l).stamp = s.stamp := rfl
@[simp] theorem State.setLaunch_free (s : State) (l : Launch) : (s.setLaunch l).free = s.free := rfl
@[simp] theorem State.setLaunch_agenda (s : State) (l : Launch) : (s.setLaunch l).agenda = s.agenda := rfl
@[simp] theorem State.setLaunch_cursor (s : State) (l : Launch) : (s.setLaunch l).cursor = s.cursor := rfl

/-! What the accessors read. -/

theorem placeKey_inj {c p c' p' : Nat} (hp : p < 256) (hp' : p' < 256) (h : placeKey c p = placeKey c' p') :
    c = c' ∧ p = p' := by
  unfold placeKey at h; omega

@[simp] theorem State.setStrand_strands (s : State) (core place : Nat) (x : Strand) :
    (s.setStrand core place x).strands = s.strands.insert (placeKey core place) x := rfl

@[simp] theorem State.dropStrand_strands (s : State) (core place : Nat) :
    (s.dropStrand core place).strands = s.strands.erase (placeKey core place) := rfl

@[simp] theorem State.setCore_cores (s : State) (c : Nat) (v : Core) : (s.setCore c v).cores = s.cores.insert c v := rfl

@[simp] theorem State.setDie_dies (s : State) (d : Nat) (v : Die) : (s.setDie d v).dies = s.dies.insert d v := rfl

@[simp] theorem State.setCluster_clusters (s : State) (k : Nat) (v : Cluster) :
    (s.setCluster k v).clusters = s.clusters.insert k v := rfl

@[simp] theorem State.setQueue_queues (s : State) (q : Nat) (v : Queue) :
    (s.setQueue q v).queues = s.queues.insert q v := rfl

@[simp] theorem State.setCell_mem (s : State) (k : Nat) (b : Byte) : (s.setCell k b).mem = Tab.set 0 k b s.mem := rfl

@[simp] theorem State.core_setCore_self (s : State) (c : Nat) (v : Core) : (s.setCore c v).core c = v := by
  simp [State.core, Tab.get_insert]

theorem State.core_setCore (s : State) (c c' : Nat) (v : Core) :
    (s.setCore c v).core c' = if c' = c then v else s.core c' := by
  simp [State.core, Tab.get_insert]

@[simp] theorem State.core_setStrand (s : State) (c p : Nat) (x : Strand) (c' : Nat) :
    (s.setStrand c p x).core c' = s.core c' := rfl

@[simp] theorem State.core_dropStrand (s : State) (c p : Nat) (c' : Nat) : (s.dropStrand c p).core c' = s.core c' := rfl

@[simp] theorem State.core_setQueue (s : State) (q : Nat) (v : Queue) (c' : Nat) :
    (s.setQueue q v).core c' = s.core c' := rfl

@[simp] theorem State.core_setDie (s : State) (d : Nat) (v : Die) (c' : Nat) : (s.setDie d v).core c' = s.core c' := rfl

@[simp] theorem State.core_setCluster (s : State) (k : Nat) (v : Cluster) (c' : Nat) :
    (s.setCluster k v).core c' = s.core c' := rfl

@[simp] theorem State.core_setCell (s : State) (k : Nat) (b : Byte) (c' : Nat) : (s.setCell k b).core c' = s.core c' := rfl

theorem State.die_setDie (s : State) (d d' : Nat) (v : Die) :
    (s.setDie d v).die d' = if d' = d then v else s.die d' := by
  simp [State.die, Tab.get_insert]

@[simp] theorem State.die_setCore (s : State) (c : Nat) (v : Core) (d : Nat) : (s.setCore c v).die d = s.die d := rfl

@[simp] theorem State.die_setStrand (s : State) (c p : Nat) (x : Strand) (d : Nat) :
    (s.setStrand c p x).die d = s.die d := rfl

theorem State.cluster_setCluster (s : State) (k k' : Nat) (v : Cluster) :
    (s.setCluster k v).cluster k' = if k' = k then v else s.cluster k' := by
  simp [State.cluster, Tab.get_insert]

@[simp] theorem State.cluster_setCore (s : State) (c : Nat) (v : Core) (k : Nat) :
    (s.setCore c v).cluster k = s.cluster k := rfl

@[simp] theorem State.cluster_setStrand (s : State) (c p : Nat) (x : Strand) (k : Nat) :
    (s.setStrand c p x).cluster k = s.cluster k := rfl

theorem State.queue_setQueue (s : State) (q q' : Nat) (v : Queue) :
    (s.setQueue q v).queue q' = if q' = q then some v else s.queue q' := by
  simp [State.queue, Tab.find_insert]

@[simp] theorem State.queue_setStrand (s : State) (c p : Nat) (x : Strand) (q : Nat) :
    (s.setStrand c p x).queue q = s.queue q := rfl

@[simp] theorem State.queue_setCore (s : State) (c : Nat) (v : Core) (q : Nat) : (s.setCore c v).queue q = s.queue q := rfl

/-- The strand of a place after a strand is put there. -/
@[simp] theorem State.strand_setStrand_self (s : State) (c p : Nat) (x : Strand) :
    (s.setStrand c p x).strand c p = some x := by
  simp [State.strand, Tab.find_insert]

theorem State.strand_setStrand_ne (s : State) {c p c' p' : Nat} (x : Strand) (h : placeKey c' p' ≠ placeKey c p) :
    (s.setStrand c p x).strand c' p' = s.strand c' p' := by
  simp [State.strand, Tab.find_insert, h]

@[simp] theorem State.strand_setCore (s : State) (k : Nat) (v : Core) (c p : Nat) :
    (s.setCore k v).strand c p = s.strand c p := rfl

@[simp] theorem State.strand_setQueue (s : State) (q : Nat) (v : Queue) (c p : Nat) :
    (s.setQueue q v).strand c p = s.strand c p := rfl

@[simp] theorem State.strand_setCell (s : State) (k : Nat) (b : Byte) (c p : Nat) :
    (s.setCell k b).strand c p = s.strand c p := rfl

/-- A byte after a byte is written. -/
theorem State.cell_setCell (s : State) (k k' : Nat) (b : Byte) :
    (s.setCell k b).cell k' = if k' = k then b else s.cell k' := by
  simp [State.cell, Tab.get_set]

theorem State.byteAt_congr {s t : State} (hm : t.mem = s.mem) (hp : t.pkg = s.pkg) (k : Nat) : t.byteAt k = s.byteAt k := by
  simp [State.byteAt, State.cell, firmwareCell, firmwareLoaded, hm, hp]

/-! A strand's registers. -/

@[simp] theorem Strand.x_zero (st : Strand) : st.x 0 = 0 := by simp [Strand.x]

theorem Strand.x_setX (st : Strand) (n j : Nat) (v : Word) :
    (st.setX n v).x j = if j = n then (if n = 0 then 0 else v) else st.x j := by
  unfold Strand.setX Strand.x
  by_cases hn : n = 0 <;> by_cases hj : j = 0 <;> by_cases hjn : j = n <;> simp_all [Tab.get_set]

@[simp] theorem Strand.x_setV (st : Strand) (n j : Nat) (v : VWord) : (st.setV n v).x j = st.x j := rfl

@[simp] theorem Strand.v_setX (st : Strand) (n j : Nat) (w : Word) : (st.setX n w).v j = st.v j := by
  unfold Strand.setX; split <;> rfl

theorem Strand.v_setV (st : Strand) (n j : Nat) (v : VWord) : (st.setV n v).v j = if j = n then v else st.v j := by
  simp [Strand.v, Strand.setV, Tab.get_set]

@[simp] theorem Strand.counter_setCounter_self (st : Strand) (n : Nat) (c : Counter) :
    (st.setCounter n c).counter n = c := by
  simp [Strand.counter, Strand.setCounter, Tab.get_set]

theorem Strand.counter_setCounter (st : Strand) (n j : Nat) (c : Counter) :
    (st.setCounter n c).counter j = if j = n then c else st.counter j := by
  simp [Strand.counter, Strand.setCounter, Tab.get_set]

/-! setX changes xs and poison only, setV changes vs and poison only, setCounter changes counters only. -/

@[simp] theorem Strand.setX_kind (st : Strand) (n : Nat) (v : Word) : (st.setX n v).kind = st.kind := by
  unfold Strand.setX; split <;> rfl
@[simp] theorem Strand.setX_gen (st : Strand) (n : Nat) (v : Word) : (st.setX n v).gen = st.gen := by
  unfold Strand.setX; split <;> rfl
@[simp] theorem Strand.setX_stage (st : Strand) (n : Nat) (v : Word) : (st.setX n v).stage = st.stage := by
  unfold Strand.setX; split <;> rfl
@[simp] theorem Strand.setX_rank (st : Strand) (n : Nat) (v : Word) : (st.setX n v).rank = st.rank := by
  unfold Strand.setX; split <;> rfl
@[simp] theorem Strand.setX_lid (st : Strand) (n : Nat) (v : Word) : (st.setX n v).lid = st.lid := by
  unfold Strand.setX; split <;> rfl
@[simp] theorem Strand.setX_vs (st : Strand) (n : Nat) (v : Word) : (st.setX n v).vs = st.vs := by
  unfold Strand.setX; split <;> rfl
@[simp] theorem Strand.setX_ports (st : Strand) (n : Nat) (v : Word) : (st.setX n v).ports = st.ports := by
  unfold Strand.setX; split <;> rfl
@[simp] theorem Strand.setX_e5 (st : Strand) (n : Nat) (v : Word) : (st.setX n v).e5 = st.e5 := by
  unfold Strand.setX; split <;> rfl
@[simp] theorem Strand.setX_counters (st : Strand) (n : Nat) (v : Word) : (st.setX n v).counters = st.counters := by
  unfold Strand.setX; split <;> rfl
@[simp] theorem Strand.setX_ld (st : Strand) (n : Nat) (v : Word) : (st.setX n v).ld = st.ld := by
  unfold Strand.setX; split <;> rfl
@[simp] theorem Strand.setX_st (st : Strand) (n : Nat) (v : Word) : (st.setX n v).st = st.st := by
  unfold Strand.setX; split <;> rfl
@[simp] theorem Strand.setX_cp (st : Strand) (n : Nat) (v : Word) : (st.setX n v).cp = st.cp := by
  unfold Strand.setX; split <;> rfl
@[simp] theorem Strand.setX_tl (st : Strand) (n : Nat) (v : Word) : (st.setX n v).tl = st.tl := by
  unfold Strand.setX; split <;> rfl
@[simp] theorem Strand.setX_remote (st : Strand) (n : Nat) (v : Word) : (st.setX n v).remote = st.remote := by
  unfold Strand.setX; split <;> rfl
@[simp] theorem Strand.setX_pc (st : Strand) (n : Nat) (v : Word) : (st.setX n v).pc = st.pc := by
  unfold Strand.setX; split <;> rfl
@[simp] theorem Strand.setX_fstat (st : Strand) (n : Nat) (v : Word) : (st.setX n v).fstat = st.fstat := by
  unfold Strand.setX; split <;> rfl
@[simp] theorem Strand.setX_srcnt (st : Strand) (n : Nat) (v : Word) : (st.setX n v).srcnt = st.srcnt := by
  unfold Strand.setX; split <;> rfl
@[simp] theorem Strand.setX_owed (st : Strand) (n : Nat) (v : Word) : (st.setX n v).owed = st.owed := by
  unfold Strand.setX; split <;> rfl
@[simp] theorem Strand.setX_undeliverable (st : Strand) (n : Nat) (v : Word) : (st.setX n v).undeliverable = st.undeliverable := by
  unfold Strand.setX; split <;> rfl
@[simp] theorem Strand.setX_drops (st : Strand) (n : Nat) (v : Word) : (st.setX n v).drops = st.drops := by
  unfold Strand.setX; split <;> rfl
@[simp] theorem Strand.setX_firstDrop (st : Strand) (n : Nat) (v : Word) : (st.setX n v).firstDrop = st.firstDrop := by
  unfold Strand.setX; split <;> rfl
@[simp] theorem Strand.setX_level (st : Strand) (n : Nat) (v : Word) : (st.setX n v).level = st.level := by
  unfold Strand.setX; split <;> rfl
@[simp] theorem Strand.setX_since (st : Strand) (n : Nat) (v : Word) : (st.setX n v).since = st.since := by
  unfold Strand.setX; split <;> rfl
@[simp] theorem Strand.setX_aged (st : Strand) (n : Nat) (v : Word) : (st.setX n v).aged = st.aged := by
  unfold Strand.setX; split <;> rfl
@[simp] theorem Strand.setX_staying (st : Strand) (n : Nat) (v : Word) : (st.setX n v).staying = st.staying := by
  unfold Strand.setX; split <;> rfl
@[simp] theorem Strand.setX_depth (st : Strand) (n : Nat) (v : Word) : (st.setX n v).depth = st.depth := by
  unfold Strand.setX; split <;> rfl
@[simp] theorem Strand.setX_claim (st : Strand) (n : Nat) (v : Word) : (st.setX n v).claim = st.claim := by
  unfold Strand.setX; split <;> rfl
@[simp] theorem Strand.setX_drain (st : Strand) (n : Nat) (v : Word) : (st.setX n v).drain = st.drain := by
  unfold Strand.setX; split <;> rfl
@[simp] theorem Strand.setX_acts (st : Strand) (n : Nat) (v : Word) : (st.setX n v).acts = st.acts := by
  unfold Strand.setX; split <;> rfl
@[simp] theorem Strand.setX_message (st : Strand) (n : Nat) (v : Word) : (st.setX n v).message = st.message := by
  unfold Strand.setX; split <;> rfl
@[simp] theorem Strand.setX_pend (st : Strand) (n : Nat) (v : Word) : (st.setX n v).pend = st.pend := by
  unfold Strand.setX; split <;> rfl
@[simp] theorem Strand.setX_nextSeq (st : Strand) (n : Nat) (v : Word) : (st.setX n v).nextSeq = st.nextSeq := by
  unfold Strand.setX; split <;> rfl
@[simp] theorem Strand.setX_wait (st : Strand) (n : Nat) (v : Word) : (st.setX n v).wait = st.wait := by
  unfold Strand.setX; split <;> rfl
@[simp] theorem Strand.setX_declines (st : Strand) (n : Nat) (v : Word) : (st.setX n v).declines = st.declines := by
  unfold Strand.setX; split <;> rfl
@[simp] theorem Strand.setX_wake (st : Strand) (n : Nat) (v : Word) : (st.setX n v).wake = st.wake := by
  unfold Strand.setX; split <;> rfl
@[simp] theorem Strand.setX_work (st : Strand) (n : Nat) (v : Word) : (st.setX n v).work = st.work := by
  unfold Strand.setX; split <;> rfl
@[simp] theorem Strand.setX_trimming (st : Strand) (n : Nat) (v : Word) : (st.setX n v).trimming = st.trimming := by
  unfold Strand.setX; split <;> rfl
@[simp] theorem Strand.setX_spadBase (st : Strand) (n : Nat) (v : Word) : (st.setX n v).spadBase = st.spadBase := by
  unfold Strand.setX; split <;> rfl
@[simp] theorem Strand.setX_spadSize (st : Strand) (n : Nat) (v : Word) : (st.setX n v).spadSize = st.spadSize := by
  unfold Strand.setX; split <;> rfl
@[simp] theorem Strand.setX_qfence (st : Strand) (n : Nat) (v : Word) : (st.setX n v).qfence = st.qfence := by
  unfold Strand.setX; split <;> rfl
@[simp] theorem Strand.setX_retiring (st : Strand) (n : Nat) (v : Word) : (st.setX n v).retiring = st.retiring := by
  unfold Strand.setX; split <;> rfl
@[simp] theorem Strand.setX_elastic (st : Strand) (n : Nat) (v : Word) : (st.setX n v).elastic = st.elastic := by
  unfold Strand.setX; split <;> rfl
@[simp] theorem Strand.setX_resumed (st : Strand) (n : Nat) (v : Word) : (st.setX n v).resumed = st.resumed := by
  unfold Strand.setX; split <;> rfl
@[simp] theorem Strand.setV_kind (st : Strand) (n : Nat) (v : VWord) : (st.setV n v).kind = st.kind := rfl
@[simp] theorem Strand.setV_gen (st : Strand) (n : Nat) (v : VWord) : (st.setV n v).gen = st.gen := rfl
@[simp] theorem Strand.setV_stage (st : Strand) (n : Nat) (v : VWord) : (st.setV n v).stage = st.stage := rfl
@[simp] theorem Strand.setV_rank (st : Strand) (n : Nat) (v : VWord) : (st.setV n v).rank = st.rank := rfl
@[simp] theorem Strand.setV_lid (st : Strand) (n : Nat) (v : VWord) : (st.setV n v).lid = st.lid := rfl
@[simp] theorem Strand.setV_xs (st : Strand) (n : Nat) (v : VWord) : (st.setV n v).xs = st.xs := rfl
@[simp] theorem Strand.setV_ports (st : Strand) (n : Nat) (v : VWord) : (st.setV n v).ports = st.ports := rfl
@[simp] theorem Strand.setV_e5 (st : Strand) (n : Nat) (v : VWord) : (st.setV n v).e5 = st.e5 := rfl
@[simp] theorem Strand.setV_counters (st : Strand) (n : Nat) (v : VWord) : (st.setV n v).counters = st.counters := rfl
@[simp] theorem Strand.setV_ld (st : Strand) (n : Nat) (v : VWord) : (st.setV n v).ld = st.ld := rfl
@[simp] theorem Strand.setV_st (st : Strand) (n : Nat) (v : VWord) : (st.setV n v).st = st.st := rfl
@[simp] theorem Strand.setV_cp (st : Strand) (n : Nat) (v : VWord) : (st.setV n v).cp = st.cp := rfl
@[simp] theorem Strand.setV_tl (st : Strand) (n : Nat) (v : VWord) : (st.setV n v).tl = st.tl := rfl
@[simp] theorem Strand.setV_remote (st : Strand) (n : Nat) (v : VWord) : (st.setV n v).remote = st.remote := rfl
@[simp] theorem Strand.setV_pc (st : Strand) (n : Nat) (v : VWord) : (st.setV n v).pc = st.pc := rfl
@[simp] theorem Strand.setV_fstat (st : Strand) (n : Nat) (v : VWord) : (st.setV n v).fstat = st.fstat := rfl
@[simp] theorem Strand.setV_srcnt (st : Strand) (n : Nat) (v : VWord) : (st.setV n v).srcnt = st.srcnt := rfl
@[simp] theorem Strand.setV_owed (st : Strand) (n : Nat) (v : VWord) : (st.setV n v).owed = st.owed := rfl
@[simp] theorem Strand.setV_undeliverable (st : Strand) (n : Nat) (v : VWord) : (st.setV n v).undeliverable = st.undeliverable := rfl
@[simp] theorem Strand.setV_drops (st : Strand) (n : Nat) (v : VWord) : (st.setV n v).drops = st.drops := rfl
@[simp] theorem Strand.setV_firstDrop (st : Strand) (n : Nat) (v : VWord) : (st.setV n v).firstDrop = st.firstDrop := rfl
@[simp] theorem Strand.setV_level (st : Strand) (n : Nat) (v : VWord) : (st.setV n v).level = st.level := rfl
@[simp] theorem Strand.setV_since (st : Strand) (n : Nat) (v : VWord) : (st.setV n v).since = st.since := rfl
@[simp] theorem Strand.setV_aged (st : Strand) (n : Nat) (v : VWord) : (st.setV n v).aged = st.aged := rfl
@[simp] theorem Strand.setV_staying (st : Strand) (n : Nat) (v : VWord) : (st.setV n v).staying = st.staying := rfl
@[simp] theorem Strand.setV_depth (st : Strand) (n : Nat) (v : VWord) : (st.setV n v).depth = st.depth := rfl
@[simp] theorem Strand.setV_claim (st : Strand) (n : Nat) (v : VWord) : (st.setV n v).claim = st.claim := rfl
@[simp] theorem Strand.setV_drain (st : Strand) (n : Nat) (v : VWord) : (st.setV n v).drain = st.drain := rfl
@[simp] theorem Strand.setV_acts (st : Strand) (n : Nat) (v : VWord) : (st.setV n v).acts = st.acts := rfl
@[simp] theorem Strand.setV_message (st : Strand) (n : Nat) (v : VWord) : (st.setV n v).message = st.message := rfl
@[simp] theorem Strand.setV_pend (st : Strand) (n : Nat) (v : VWord) : (st.setV n v).pend = st.pend := rfl
@[simp] theorem Strand.setV_nextSeq (st : Strand) (n : Nat) (v : VWord) : (st.setV n v).nextSeq = st.nextSeq := rfl
@[simp] theorem Strand.setV_wait (st : Strand) (n : Nat) (v : VWord) : (st.setV n v).wait = st.wait := rfl
@[simp] theorem Strand.setV_declines (st : Strand) (n : Nat) (v : VWord) : (st.setV n v).declines = st.declines := rfl
@[simp] theorem Strand.setV_wake (st : Strand) (n : Nat) (v : VWord) : (st.setV n v).wake = st.wake := rfl
@[simp] theorem Strand.setV_work (st : Strand) (n : Nat) (v : VWord) : (st.setV n v).work = st.work := rfl
@[simp] theorem Strand.setV_trimming (st : Strand) (n : Nat) (v : VWord) : (st.setV n v).trimming = st.trimming := rfl
@[simp] theorem Strand.setV_spadBase (st : Strand) (n : Nat) (v : VWord) : (st.setV n v).spadBase = st.spadBase := rfl
@[simp] theorem Strand.setV_spadSize (st : Strand) (n : Nat) (v : VWord) : (st.setV n v).spadSize = st.spadSize := rfl
@[simp] theorem Strand.setV_qfence (st : Strand) (n : Nat) (v : VWord) : (st.setV n v).qfence = st.qfence := rfl
@[simp] theorem Strand.setV_retiring (st : Strand) (n : Nat) (v : VWord) : (st.setV n v).retiring = st.retiring := rfl
@[simp] theorem Strand.setV_elastic (st : Strand) (n : Nat) (v : VWord) : (st.setV n v).elastic = st.elastic := rfl
@[simp] theorem Strand.setV_resumed (st : Strand) (n : Nat) (v : VWord) : (st.setV n v).resumed = st.resumed := rfl
@[simp] theorem Strand.setCounter_kind (st : Strand) (n : Nat) (c : Counter) : (st.setCounter n c).kind = st.kind := rfl
@[simp] theorem Strand.setCounter_gen (st : Strand) (n : Nat) (c : Counter) : (st.setCounter n c).gen = st.gen := rfl
@[simp] theorem Strand.setCounter_stage (st : Strand) (n : Nat) (c : Counter) : (st.setCounter n c).stage = st.stage := rfl
@[simp] theorem Strand.setCounter_rank (st : Strand) (n : Nat) (c : Counter) : (st.setCounter n c).rank = st.rank := rfl
@[simp] theorem Strand.setCounter_lid (st : Strand) (n : Nat) (c : Counter) : (st.setCounter n c).lid = st.lid := rfl
@[simp] theorem Strand.setCounter_xs (st : Strand) (n : Nat) (c : Counter) : (st.setCounter n c).xs = st.xs := rfl
@[simp] theorem Strand.setCounter_vs (st : Strand) (n : Nat) (c : Counter) : (st.setCounter n c).vs = st.vs := rfl
@[simp] theorem Strand.setCounter_ports (st : Strand) (n : Nat) (c : Counter) : (st.setCounter n c).ports = st.ports := rfl
@[simp] theorem Strand.setCounter_e5 (st : Strand) (n : Nat) (c : Counter) : (st.setCounter n c).e5 = st.e5 := rfl
@[simp] theorem Strand.setCounter_ld (st : Strand) (n : Nat) (c : Counter) : (st.setCounter n c).ld = st.ld := rfl
@[simp] theorem Strand.setCounter_st (st : Strand) (n : Nat) (c : Counter) : (st.setCounter n c).st = st.st := rfl
@[simp] theorem Strand.setCounter_cp (st : Strand) (n : Nat) (c : Counter) : (st.setCounter n c).cp = st.cp := rfl
@[simp] theorem Strand.setCounter_tl (st : Strand) (n : Nat) (c : Counter) : (st.setCounter n c).tl = st.tl := rfl
@[simp] theorem Strand.setCounter_remote (st : Strand) (n : Nat) (c : Counter) : (st.setCounter n c).remote = st.remote := rfl
@[simp] theorem Strand.setCounter_pc (st : Strand) (n : Nat) (c : Counter) : (st.setCounter n c).pc = st.pc := rfl
@[simp] theorem Strand.setCounter_fstat (st : Strand) (n : Nat) (c : Counter) : (st.setCounter n c).fstat = st.fstat := rfl
@[simp] theorem Strand.setCounter_srcnt (st : Strand) (n : Nat) (c : Counter) : (st.setCounter n c).srcnt = st.srcnt := rfl
@[simp] theorem Strand.setCounter_poison (st : Strand) (n : Nat) (c : Counter) : (st.setCounter n c).poison = st.poison := rfl
@[simp] theorem Strand.setCounter_owed (st : Strand) (n : Nat) (c : Counter) : (st.setCounter n c).owed = st.owed := rfl
@[simp] theorem Strand.setCounter_undeliverable (st : Strand) (n : Nat) (c : Counter) : (st.setCounter n c).undeliverable = st.undeliverable := rfl
@[simp] theorem Strand.setCounter_drops (st : Strand) (n : Nat) (c : Counter) : (st.setCounter n c).drops = st.drops := rfl
@[simp] theorem Strand.setCounter_firstDrop (st : Strand) (n : Nat) (c : Counter) : (st.setCounter n c).firstDrop = st.firstDrop := rfl
@[simp] theorem Strand.setCounter_level (st : Strand) (n : Nat) (c : Counter) : (st.setCounter n c).level = st.level := rfl
@[simp] theorem Strand.setCounter_since (st : Strand) (n : Nat) (c : Counter) : (st.setCounter n c).since = st.since := rfl
@[simp] theorem Strand.setCounter_aged (st : Strand) (n : Nat) (c : Counter) : (st.setCounter n c).aged = st.aged := rfl
@[simp] theorem Strand.setCounter_staying (st : Strand) (n : Nat) (c : Counter) : (st.setCounter n c).staying = st.staying := rfl
@[simp] theorem Strand.setCounter_depth (st : Strand) (n : Nat) (c : Counter) : (st.setCounter n c).depth = st.depth := rfl
@[simp] theorem Strand.setCounter_claim (st : Strand) (n : Nat) (c : Counter) : (st.setCounter n c).claim = st.claim := rfl
@[simp] theorem Strand.setCounter_drain (st : Strand) (n : Nat) (c : Counter) : (st.setCounter n c).drain = st.drain := rfl
@[simp] theorem Strand.setCounter_acts (st : Strand) (n : Nat) (c : Counter) : (st.setCounter n c).acts = st.acts := rfl
@[simp] theorem Strand.setCounter_message (st : Strand) (n : Nat) (c : Counter) : (st.setCounter n c).message = st.message := rfl
@[simp] theorem Strand.setCounter_pend (st : Strand) (n : Nat) (c : Counter) : (st.setCounter n c).pend = st.pend := rfl
@[simp] theorem Strand.setCounter_nextSeq (st : Strand) (n : Nat) (c : Counter) : (st.setCounter n c).nextSeq = st.nextSeq := rfl
@[simp] theorem Strand.setCounter_wait (st : Strand) (n : Nat) (c : Counter) : (st.setCounter n c).wait = st.wait := rfl
@[simp] theorem Strand.setCounter_declines (st : Strand) (n : Nat) (c : Counter) : (st.setCounter n c).declines = st.declines := rfl
@[simp] theorem Strand.setCounter_wake (st : Strand) (n : Nat) (c : Counter) : (st.setCounter n c).wake = st.wake := rfl
@[simp] theorem Strand.setCounter_work (st : Strand) (n : Nat) (c : Counter) : (st.setCounter n c).work = st.work := rfl
@[simp] theorem Strand.setCounter_trimming (st : Strand) (n : Nat) (c : Counter) : (st.setCounter n c).trimming = st.trimming := rfl
@[simp] theorem Strand.setCounter_spadBase (st : Strand) (n : Nat) (c : Counter) : (st.setCounter n c).spadBase = st.spadBase := rfl
@[simp] theorem Strand.setCounter_spadSize (st : Strand) (n : Nat) (c : Counter) : (st.setCounter n c).spadSize = st.spadSize := rfl
@[simp] theorem Strand.setCounter_qfence (st : Strand) (n : Nat) (c : Counter) : (st.setCounter n c).qfence = st.qfence := rfl
@[simp] theorem Strand.setCounter_retiring (st : Strand) (n : Nat) (c : Counter) : (st.setCounter n c).retiring = st.retiring := rfl
@[simp] theorem Strand.setCounter_elastic (st : Strand) (n : Nat) (c : Counter) : (st.setCounter n c).elastic = st.elastic := rfl
@[simp] theorem Strand.setCounter_resumed (st : Strand) (n : Nat) (c : Counter) : (st.setCounter n c).resumed = st.resumed := rfl

end Sys2Proof.Machine
end

