-- ==== Sys2Proof/Laws/Issue.lean ====
section
/-! SUPPORT. What issuing and retiring an instruction do: the lemmas that proofs about instructions cite. -/

namespace Sys2Proof.Machine

/-! Ports. -/

theorem popQueue_frame (s : State) (q gen : Nat) : popQueue s q gen = { s with queues := (popQueue s q gen).queues } := by
  unfold popQueue; split <;> rfl

theorem sendElem_frame (s : State) (q : Nat) (e : Elem) : sendElem s q e = { s with queues := (sendElem s q e).queues } := by
  unfold sendElem; split <;> rfl

/-- Popping a port changes the queues, and of the strand how far it has retired. -/
theorem popPort_frame (s : State) (st : Strand) (k : Nat) :
    (popPort s st k).1 = { s with queues := (popPort s st k).1.queues } ∧
      (popPort s st k).2 = { st with retiring := (popPort s st k).2.retiring } := by
  unfold popPort
  split
  · exact ⟨rfl, rfl⟩
  · split
    · refine ⟨popQueue_frame _ _ _, ?_⟩
      simp only
      split <;> rfl
    · exact ⟨rfl, rfl⟩

/-- Pushing to a port changes the queues, and of the strand its sequence numbers and remote acknowledgements. -/
theorem pushPort_frame (s : State) (st : Strand) (k tag : Nat) (data : Option Word) :
    (pushPort s st k tag data).1 = { s with queues := (pushPort s st k tag data).1.queues } ∧
      (pushPort s st k tag data).2 = { st with
        nextSeq := (pushPort s st k tag data).2.nextSeq, remote := (pushPort s st k tag data).2.remote,
        pend := (pushPort s st k tag data).2.pend } := by
  unfold pushPort
  split
  · exact ⟨rfl, rfl⟩
  · simp only
    split
    · exact ⟨sendElem_frame _ _ _, rfl⟩
    · exact ⟨sendElem_frame _ _ _, rfl⟩

theorem foldl_pop_frame (ks : List Nat) (p : State × Strand) :
    (ks.foldl (fun p k => popPort p.1 p.2 k) p).1 =
        { p.1 with queues := (ks.foldl (fun p k => popPort p.1 p.2 k) p).1.queues } ∧
      (ks.foldl (fun p k => popPort p.1 p.2 k) p).2 =
        { p.2 with retiring := (ks.foldl (fun p k => popPort p.1 p.2 k) p).2.retiring } := by
  induction ks generalizing p with
  | nil => exact ⟨rfl, rfl⟩
  | cons k ks ih =>
    simp only [List.foldl_cons]
    obtain ⟨h1, h2⟩ := ih (popPort p.1 p.2 k)
    obtain ⟨g1, g2⟩ := popPort_frame p.1 p.2 k
    constructor
    · rw [h1, g1]
    · rw [h2, g2]

/-- What a strand's own state keeps while results are written: only registers, poison and the marks of pushes change. -/
theorem foldl_writeReg_frame (xs : List (Reg × Word)) (p : State × Strand) :
    (xs.foldl writeReg p).1 = { p.1 with queues := (xs.foldl writeReg p).1.queues } ∧
      (xs.foldl writeReg p).2 = { p.2 with
        xs := (xs.foldl writeReg p).2.xs, poison := (xs.foldl writeReg p).2.poison,
        nextSeq := (xs.foldl writeReg p).2.nextSeq, remote := (xs.foldl writeReg p).2.remote,
        pend := (xs.foldl writeReg p).2.pend } := by
  induction xs generalizing p with
  | nil => exact ⟨rfl, rfl⟩
  | cons w xs ih =>
    simp only [List.foldl_cons]
    obtain ⟨h1, h2⟩ := ih (writeReg p w)
    have g : (writeReg p w).1 = { p.1 with queues := (writeReg p w).1.queues } ∧
        (writeReg p w).2 = { p.2 with
          xs := (writeReg p w).2.xs, poison := (writeReg p w).2.poison,
          nextSeq := (writeReg p w).2.nextSeq, remote := (writeReg p w).2.remote, pend := (writeReg p w).2.pend } := by
      obtain ⟨r, v⟩ := w
      cases r with
      | x n =>
        refine ⟨rfl, ?_⟩
        simp only [writeReg, Strand.setX]
        split <;> rfl
      | q k =>
        obtain ⟨a, b⟩ := pushPort_frame p.1 p.2 k.val 0 (some v)
        refine ⟨a, ?_⟩
        simp only [writeReg]
        rw [b]
      | e n => exact ⟨rfl, rfl⟩
    constructor
    · rw [h1, g.1]
    · rw [h2, g.2]

/-! Registers. -/

theorem foldl_writeReg_x (xs : List (Reg × Word)) (p : State × Strand) (n : Nat) :
    (xs.foldl writeReg p).2.x n = xAfter p.2 xs n := by
  unfold xAfter
  by_cases hn : n = 0
  · simp [hn]
  · simp only [hn, if_false]
    induction xs generalizing p with
    | nil => rfl
    | cons w xs ih =>
      simp only [List.foldl_cons]
      rw [ih (writeReg p w)]
      congr 1
      obtain ⟨r, v⟩ := w
      cases r with
      | x m =>
        simp only [writeReg, Strand.x_setX]
        by_cases h : m.val = n
        · subst h; simp [hn]
        · simp [h, Ne.symm h]
      | q k =>
        simp only [writeReg]
        rw [(pushPort_frame p.1 p.2 k.val 0 (some v)).2]
        rfl
      | e m => rfl

theorem foldl_writeReg_poison (xs : List (Reg × Word)) (p : State × Strand) (n : Nat) :
    (n ∈ xs.filterMap (fun w => scalarNum w.1) → (xs.foldl writeReg p).2.poison.find n = none) ∧
      (n ∉ xs.filterMap (fun w => scalarNum w.1) → (xs.foldl writeReg p).2.poison.find n = p.2.poison.find n) := by
  induction xs generalizing p with
  | nil => simp
  | cons w xs ih =>
    obtain ⟨i1, i2⟩ := ih (writeReg p w)
    obtain ⟨r, v⟩ := w
    simp only [List.foldl_cons]
    have step : (∀ m, scalarNum r = some m → (writeReg p (r, v)).2.poison = p.2.poison.erase m) ∧
        (scalarNum r = none → (writeReg p (r, v)).2.poison = p.2.poison) := by
      cases r with
      | x m =>
        by_cases h0 : m.val = 0
        · simp [scalarNum, h0, writeReg, Strand.setX]
        · simp [scalarNum, h0, writeReg, Strand.setX]
      | q k =>
        refine ⟨fun m h => by simp [scalarNum] at h, fun _ => ?_⟩
        simp only [writeReg]; rw [(pushPort_frame p.1 p.2 k.val 0 (some v)).2]
      | e m => simp [scalarNum, writeReg]
    cases hr : scalarNum r with
    | none =>
      have hc : ((r, v) :: xs).filterMap (fun w => scalarNum w.1) = xs.filterMap (fun w => scalarNum w.1) := by
        simp [hr]
      rw [hc]
      refine ⟨i1, fun h => ?_⟩
      rw [i2 h, step.2 hr]
    | some m =>
      have hc : ((r, v) :: xs).filterMap (fun w => scalarNum w.1) = m :: xs.filterMap (fun w => scalarNum w.1) := by
        simp [hr]
      rw [hc]
      constructor
      · intro h
        by_cases hx : n ∈ xs.filterMap (fun w => scalarNum w.1)
        · exact i1 hx
        · have : n = m := by simpa [hx] using h
          rw [i2 hx, step.1 m hr, Tab.find_erase]; simp [this]
      · intro h
        simp only [List.mem_cons, not_or] at h
        rw [i2 h.2, step.1 m hr, Tab.find_erase]; simp [h.1]

theorem foldl_setV (vs : List (VReg × VWord)) (st : Strand) :
    vs.foldl (fun st w => st.setV w.1.val w.2) st =
      { st with vs := (vs.foldl (fun st w => st.setV w.1.val w.2) st).vs,
                poison := (vs.foldl (fun st w => st.setV w.1.val w.2) st).poison } := by
  induction vs generalizing st with
  | nil => rfl
  | cons w vs ih => simp only [List.foldl_cons]; rw [ih (st.setV w.1.val w.2)]; rfl

theorem foldl_setV_v (vs : List (VReg × VWord)) (st : Strand) (n : Nat) :
    (vs.foldl (fun st w => st.setV w.1.val w.2) st).v n = vAfter st vs n := by
  unfold vAfter
  induction vs generalizing st with
  | nil => rfl
  | cons w vs ih =>
    simp only [List.foldl_cons]
    rw [ih (st.setV w.1.val w.2)]
    congr 1
    rw [Strand.v_setV]
    by_cases h : n = w.1.val
    · simp [h]
    · simp [h, Ne.symm h]

theorem foldl_setV_poison (vs : List (VReg × VWord)) (st : Strand) (n : Nat) :
    (vs.foldl (fun st w => st.setV w.1.val w.2) st).poison.find n =
      if n ∈ vs.map (fun w => 64 + w.1.val) then none else st.poison.find n := by
  induction vs generalizing st with
  | nil => simp
  | cons w vs ih =>
    simp only [List.foldl_cons, List.map_cons, List.mem_cons]
    rw [ih (st.setV w.1.val w.2)]
    by_cases h1 : n = 64 + w.1.val <;> simp [Strand.setV, Tab.find_erase, h1]

/-! Retirement. -/

/-- The strand as retirement leaves it in its slot. -/
theorem retire_eq (cx : Ctx) (u : Uses) (d : Done) :
    ∃ st, st = strandAfter u d (d.jump.getD (successor d.s.cursor.header cx.st.pc)) st ∧
      (∀ n, st.x n = xAfter d.st d.xs n) ∧ (∀ n, st.v n = vAfter d.st d.vs n) ∧
      (∀ n, st.poison.find n = if n ∈ resultNums d then none else d.st.poison.find n) ∧
      retire cx u d =
        if d.ends then endStrand (portsAfter u d).1 cx.core cx.slot st
        else match d.trap with
        | some (c, det, v) => takeTrap ((portsAfter u d).1.setStrand cx.core cx.slot st) cx.core cx.slot st c det
            (successor d.s.cursor.header cx.st.pc) v
        | none =>
          if d.jump.isNone && (nextPc d.s.cursor.header cx.st.pc).isNone then
            takeTrap ((portsAfter u d).1.setStrand cx.core cx.slot st) cx.core cx.slot st .falloff 0
              (lineOf cx.st.pc + 66) (lineOf cx.st.pc)
          else match d.parks with
          | some (a, w) => parkIn ((portsAfter u d).1.setStrand cx.core cx.slot st) cx.core cx.slot a st w
          | none => (portsAfter u d).1.setStrand cx.core cx.slot st := by
  refine ⟨{ d.vs.foldl (fun st w => st.setV w.1.val w.2) (portsAfter u d).2 with
      fstat := (d.vs.foldl (fun st w => st.setV w.1.val w.2) (portsAfter u d).2).fstat ||| d.flags,
      srcnt := if d.sto then (d.vs.foldl (fun st w => st.setV w.1.val w.2) (portsAfter u d).2).srcnt + 1
        else (d.vs.foldl (fun st w => st.setV w.1.val w.2) (portsAfter u d).2).srcnt,
      wait := d.waits, declines := [], staying := false, trimming := none,
      qfence := (d.vs.foldl (fun st w => st.setV w.1.val w.2) (portsAfter u d).2).qfence && (destPorts u).isEmpty,
      resumed := false, pc := d.jump.getD (successor d.s.cursor.header cx.st.pc) }, ?_, ?_, ?_, ?_, ?_⟩
  · have h1 := (foldl_pop_frame (sourcePorts u) (d.s, d.st)).2
    have h2 := (foldl_writeReg_frame d.xs ((sourcePorts u).foldl (fun p k => popPort p.1 p.2 k) (d.s, d.st))).2
    have h3 := foldl_setV d.vs (portsAfter u d).2
    have h4 : (portsAfter u d).2 = { d.st with
        xs := (portsAfter u d).2.xs, poison := (portsAfter u d).2.poison, retiring := (portsAfter u d).2.retiring,
        nextSeq := (portsAfter u d).2.nextSeq, remote := (portsAfter u d).2.remote, pend := (portsAfter u d).2.pend } := by
      unfold portsAfter
      rw [h2, h1]
    unfold strandAfter
    simp only
    rw [h3]
    simp only
    rw [h4]
  · intro n
    have h1 := (foldl_pop_frame (sourcePorts u) (d.s, d.st)).2
    have h3 := foldl_setV d.vs (portsAfter u d).2
    have h5 := foldl_writeReg_x d.xs ((sourcePorts u).foldl (fun p k => popPort p.1 p.2 k) (d.s, d.st)) n
    rw [h1] at h5
    show (d.vs.foldl (fun st w => st.setV w.1.val w.2) (portsAfter u d).2).x n = _
    rw [h3]
    exact h5
  · intro n
    have h1 := (foldl_pop_frame (sourcePorts u) (d.s, d.st)).2
    have h2 := (foldl_writeReg_frame d.xs ((sourcePorts u).foldl (fun p k => popPort p.1 p.2 k) (d.s, d.st))).2
    show (d.vs.foldl (fun st w => st.setV w.1.val w.2) (portsAfter u d).2).v n = _
    rw [foldl_setV_v]
    unfold vAfter
    congr 1
    unfold portsAfter
    rw [h2, h1]
    rfl
  · intro n
    have h1 := (foldl_pop_frame (sourcePorts u) (d.s, d.st)).2
    show (d.vs.foldl (fun st w => st.setV w.1.val w.2) (portsAfter u d).2).poison.find n = _
    rw [foldl_setV_poison]
    have hp := foldl_writeReg_poison d.xs ((sourcePorts u).foldl (fun p k => popPort p.1 p.2 k) (d.s, d.st)) n
    rw [h1] at hp
    unfold portsAfter resultNums
    by_cases ha : n ∈ d.vs.map (fun w => 64 + w.1.val)
    · rw [if_pos ha, if_pos (by simp only [List.mem_append]; exact Or.inr ha)]
    · rw [if_neg ha]
      by_cases hb : n ∈ d.xs.filterMap (fun w => scalarNum w.1)
      · rw [hp.1 hb, if_pos (by simp only [List.mem_append]; exact Or.inl hb)]
      · rw [hp.2 hb, if_neg (by simp only [List.mem_append, not_or]; exact ⟨hb, ha⟩)]
  · rfl

theorem portsAfter_frame (u : Uses) (d : Done) :
    (portsAfter u d).1 = { d.s with queues := (portsAfter u d).1.queues } := by
  have h1 := (foldl_pop_frame (sourcePorts u) (d.s, d.st)).1
  have h2 := (foldl_writeReg_frame d.xs ((sourcePorts u).foldl (fun p k => popPort p.1 p.2 k) (d.s, d.st))).1
  unfold portsAfter
  rw [h2, h1]

/-- An instruction that neither ends nor parks its strand and has no trap of its own retires: the strand stands at the target,
or at the sequential successor, and what follows is FALLOFF at the most. -/
theorem retire_retired (cx : Ctx) (u : Uses) (d : Done) (he : d.ends = false) (ht : d.trap = none) (hp : d.parks = none) :
    ∃ t0, Retired cx u d (d.jump.getD (successor d.s.cursor.header cx.st.pc)) t0 ∧ Followed d.s cx d t0 (retire cx u d) := by
  obtain ⟨st, h1, h2, h3, h4, h5⟩ := retire_eq cx u d
  refine ⟨(portsAfter u d).1.setStrand cx.core cx.slot st, ⟨⟨st, by simp, h1, h2, h3, h4⟩, ?_, ?_⟩, ?_⟩
  · intro k hk
    rw [portsAfter_frame]
    simp [Tab.find_insert, hk]
  · rw [portsAfter_frame]; rfl
  · rw [h5]
    simp only [he, ht, hp, Bool.false_eq_true, if_false, Followed]
    split
    · exact ⟨st, by simp, rfl⟩
    · rfl

/-! The conditions of issue. -/

/-- What an instruction that has come to its operands does next: a token diverts; an owed destination, a unit without power and
a port in use wait; a poisoned register traps; a full port waits; and else it issues. -/
theorem gate_checked {s : State} {cx : Ctx} {u : Uses} (i : Instr) (h : Checked s cx u) :
    gate s i cx u =
      match ((sourcePorts u).map fun k => (k, headOf s cx.st k)).find? (fun h => h.2.any fun e => e.tag != 0) with
      | some (k, h) => .error (divert s cx k (h.getD retireEos))
      | none =>
        if (writeNums u).any cx.st.owed.contains = true then .error .stall
        else if (!(u.vsrc.isEmpty && u.vdst.isEmpty) && unitsOff s cx.core) = true then .error .stall
        else if (destPorts u ++ u.named.map (·.1)).any (portHeld s cx) = true then .error .stall
        else match (readNums u).find? (fun n => (cx.st.poison.find n).isSome) with
        | some n => .error (.detail .memUncorrectable ((cx.st.poison.find n).getD (0, 0)).1 ((cx.st.poison.find n).getD (0, 0)).2)
        | none =>
          if (!(destPorts u).isEmpty && fenced s cx.st) = true then .error .stall
          else match portFull s cx.st (destPorts u) 1 with
            | some k => .error (.keep (waitRoom s cx.st k))
            | none => .ok (operandsOf s cx) := by
  have hk : (isBlockedKind cx.st && (u.blocking || !(sourcePorts u).isEmpty)) = false := by
    cases hb : isBlockedKind cx.st with
    | false => rfl
    | true => obtain ⟨h1, h2⟩ := h.kind hb; simp [h1, h2]
  have hl : (u.privileged && cx.st.isUser) = false := by
    cases hb : u.privileged with
    | false => rfl
    | true => simp [Strand.isUser, h.level hb]
  have hknown : (operandNums u).any cx.st.owed.contains = false := by
    rw [List.any_eq_false]; intro n hn; simpa using h.paid n (List.mem_append_left _ hn)
  have howed : (readNums u).any cx.st.owed.contains = false := by
    rw [List.any_eq_false]; intro n hn; simpa using h.paid n (List.mem_append_right _ hn)
  have hvalid : (operandsKnown s cx u && u.invalid (readReg s cx)) = false := by
    cases hb : operandsKnown s cx u with
    | false => rfl
    | true => simp [h.valid hb]
  have hfree : (sourcePorts u).any (portHeld s cx) = false := by
    rw [List.any_eq_false]; intro k hk; simp [h.free k hk]
  have hacq : (!(sourcePorts u).isEmpty && cx.st.acquiring) = false := by
    cases h1 : sourcePorts u with
    | nil => rfl
    | cons a l => simp [h.acquired (by simp [h1])]
  have hheads : ((sourcePorts u).map fun k => (k, headOf s cx.st k)).any (fun h => h.2.isNone) = false := by
    rw [List.any_eq_false]; intro p hp
    simp only [List.mem_map] at hp
    obtain ⟨k, hk, rfl⟩ := hp
    obtain ⟨e, he, _⟩ := h.heads k hk
    simp [he]
  have good : ∀ p ∈ (sourcePorts u).map fun k => (k, headOf s cx.st k), (p.2.any (·.bad)) = false := by
    intro p hp
    simp only [List.mem_map] at hp
    obtain ⟨k, hk, rfl⟩ := hp
    obtain ⟨e, he, hb⟩ := h.heads k hk
    simp [he, hb]
  unfold gate
  simp only [h.legal, hknown, hvalid, hl, hk, h.bound, h.noFault, howed, hfree, hacq, hheads, Bool.false_eq_true, if_false]
  unfold takeToken
  cases ht : ((sourcePorts u).map fun k => (k, headOf s cx.st k)).find? (fun h => h.2.any fun e => e.tag != 0) with
  | some p => simp [good p (List.mem_of_find?_eq_some ht)]
  | none =>
    have hb : ((sourcePorts u).map fun k => (k, headOf s cx.st k)).find? (fun h => h.2.any (·.bad)) = none := by
      rw [List.find?_eq_none]; intro p hp; simp [good p hp]
    simp only [hb, Option.map_none]
    rfl

/-- A ready instruction passes every check of its issue. -/
theorem gate_ready {s : State} {cx : Ctx} {u : Uses} (i : Instr) (h : Ready s cx u) :
    gate s i cx u = .ok (operandsOf s cx) := by
  have htok : ((sourcePorts u).map fun k => (k, headOf s cx.st k)).find? (fun h => h.2.any fun e => e.tag != 0) = none := by
    rw [List.find?_eq_none]; intro p hp
    simp only [List.mem_map] at hp
    obtain ⟨k, hk, rfl⟩ := hp
    obtain ⟨e, he, _⟩ := h.heads k hk
    simp [he, h.data k hk e he]
  have howed : (writeNums u).any cx.st.owed.contains = false := by
    rw [List.any_eq_false]; intro n hn; simpa using h.owedNot n hn
  have hunits : (!(u.vsrc.isEmpty && u.vdst.isEmpty) && unitsOff s cx.core) = false := by
    cases h1 : u.vsrc with
    | cons a l => simp [h.units (Or.inl (by simp [h1]))]
    | nil =>
      cases h2 : u.vdst with
      | cons a l => simp [h.units (Or.inr (by simp [h2]))]
      | nil => rfl
  have hout : (destPorts u ++ u.named.map (·.1)).any (portHeld s cx) = false := by
    rw [List.any_eq_false]; intro k hk; simp [h.outFree k hk]
  have hpoison : (readNums u).find? (fun n => (cx.st.poison.find n).isSome) = none := by
    rw [List.find?_eq_none]; intro n hn; simp [h.clean n hn]
  rw [gate_checked i h.toChecked]
  simp only [htok, howed, hunits, hout, hpoison, Bool.false_eq_true, if_false]
  cases hd : destPorts u with
  | nil => simp [portFull]
  | cons a l =>
    obtain ⟨hf, hr⟩ := h.room (by simp [hd])
    rw [hd] at hr
    simp [hf, hr]

/-- The issue of a ready instruction comes down to its own effect. -/
theorem issue_ready {s : State} {cx : Ctx} (i : Instr) (uses : Ctx → Uses) (body : Vals → Except Stop Done)
    (h : Ready s cx (uses cx)) :
    issue i uses s body = match body (operandsOf s cx) with
      | .error e => .next (stopped s cx e)
      | .ok d => .next (retire cx (uses cx) d) := by
  unfold issue
  rw [h.strand]
  simp only [gate_ready i h]
  all_goals (cases body (operandsOf s cx) <;> rfl)

/-- A ready instruction that neither ends nor parks its strand and has no trap of its own retires. -/
theorem issue_retires {s : State} {cx : Ctx} (i : Instr) (uses : Ctx → Uses) (body : Vals → Except Stop Done)
    (h : Ready s cx (uses cx)) {d : Done} (hd : body (operandsOf s cx) = .ok d) (he : d.ends = false)
    (ht : d.trap = none) (hp : d.parks = none) :
    ∃ t0 t, issue i uses s body = .next t ∧
      Retired cx (uses cx) d (d.jump.getD (successor d.s.cursor.header cx.st.pc)) t0 ∧ Followed d.s cx d t0 t := by
  obtain ⟨t0, h1, h2⟩ := retire_retired cx (uses cx) d he ht hp
  exact ⟨t0, _, by rw [issue_ready i uses body h, hd], h1, h2⟩

/-- A ready instruction that cannot take effect leaves the state that its stop says. -/
theorem issue_stops {s : State} {cx : Ctx} (i : Instr) (uses : Ctx → Uses) (body : Vals → Except Stop Done)
    (h : Ready s cx (uses cx)) {e : Stop} (hd : body (operandsOf s cx) = .error e) :
    issue i uses s body = .next (stopped s cx e) := by
  rw [issue_ready i uses body h, hd]

/-! Traps. -/

/-- Entering the supervisor of a core whose SVEC is a head address of its firmware. -/
theorem enterSupervisor_entered {s : State} {core : Nat} (ecause evalue epc estrand : Word)
    (hg : svecGood (s.setCore core { s.core core with
      ecause := ecause, evalue := evalue, epc := epc, estrand := estrand, frozen := true }) core = true) :
    Entered s core ecause evalue epc estrand (enterSupervisor s core ecause evalue epc estrand) := by
  have hs : ∃ v, s.strand core supervisorSlot = some v := by
    unfold State.strand; split <;> simp
  obtain ⟨v, hv⟩ := hs
  have h : enterSupervisor s core ecause evalue epc estrand =
      ((s.setCore core { s.core core with
        ecause := ecause, evalue := evalue, epc := epc, estrand := estrand, frozen := true }).setCore core
        { s.core core with
          ecause := ecause, evalue := evalue, epc := epc, estrand := estrand, frozen := true, supRunning := true }).setStrand
        core supervisorSlot { v with pc := (s.core core).svec, wait := none } := by
    unfold enterSupervisor startSupervisor
    rw [if_pos hg]
    simp [hv]
  rw [h]
  refine ⟨by simp, ⟨v, hv, by simp⟩, ?_, ?_, rfl⟩
  · intro c hc; simp [State.core_setCore, hc]
  · intro k hk; simp [Tab.find_insert, hk]

end Sys2Proof.Machine
end

