-- ==== Sys2Proof/Laws/Memory.lean ====
section
/-! SUPPORT. What the memory operations do: reading after writing, what they leave alone, and the canonical form that each keeps. -/

namespace Sys2Proof.Machine

/-! One byte. -/

theorem State.setCell_memWf (s : State) (k : Nat) (b : Byte) (h : s.memWf = true) : (s.setCell k b).memWf = true := by
  simp only [State.memWf, Bool.and_eq_true] at h ⊢
  exact ⟨Tab.wf_set 0 k b h.1, h.2⟩

/-- Whoever agrees on both memories is canonical together. -/
theorem State.memWf_congr {s t : State} (hm : t.mem = s.mem) (hh : t.host.mem = s.host.mem) : t.memWf = s.memWf := by
  simp [State.memWf, hm, hh]

/-! A fold whose every step keeps a property keeps it. -/

theorem foldl_keeps {α β : Type} (p : β → Prop) (f : β → α → β) (hf : ∀ b a, p b → p (f b a)) (l : List α) (b : β)
    (hb : p b) : p (l.foldl f b) := by
  induction l generalizing b with
  | nil => exact hb
  | cons a l ih => exact ih _ (hf b a hb)

/-- A fold whose every step keeps a field keeps it. -/
theorem foldl_field {α β γ : Type} (g : β → γ) (f : β → α → β) (hf : ∀ b a, g (f b a) = g b) (l : List α) (b : β) :
    g (l.foldl f b) = g b :=
  foldl_keeps (fun c => g c = g b) f (fun c a h => (hf c a).trans h) l b rfl

/-! Lists of bytes. -/

theorem writeCells_memWf (s : State) (ws : List (Nat × Byte)) (h : s.memWf = true) : (writeCells s ws).memWf = true :=
  foldl_keeps (fun t => t.memWf = true) _ (fun t w ht => t.setCell_memWf w.1 w.2 ht) ws s h

/-- A byte that a list of writes does not name reads as before. -/
theorem writeCells_cell_other (s : State) (ws : List (Nat × Byte)) (k : Nat) (h : ∀ w ∈ ws, w.1 ≠ k) :
    (writeCells s ws).cell k = s.cell k := by
  induction ws generalizing s with
  | nil => rfl
  | cons w ws ih =>
    have hw : k ≠ w.1 := fun he => h w (by simp) he.symm
    rw [show writeCells s (w :: ws) = writeCells (s.setCell w.1 w.2) ws from rfl,
      ih _ (fun v hv => h v (by simp [hv])), State.cell_setCell, if_neg hw]

/-- A byte that a list of writes names once reads as that write gives. -/
theorem writeCells_cell (s : State) (ws : List (Nat × Byte)) (hn : (ws.map (·.1)).Nodup) {k : Nat} {b : Byte}
    (h : (k, b) ∈ ws) : (writeCells s ws).cell k = b := by
  induction ws generalizing s with
  | nil => simp at h
  | cons w ws ih =>
    simp only [List.map_cons, List.nodup_cons, List.mem_map, not_exists, not_and] at hn
    rw [show writeCells s (w :: ws) = writeCells (s.setCell w.1 w.2) ws from rfl]
    rcases List.mem_cons.mp h with he | hm
    · rw [writeCells_cell_other _ _ _ (fun v hv he' => hn.1 v hv (by rw [he', ← he])), State.cell_setCell, ← he]
      simp
    · exact ih _ hn.2 hm

@[simp] theorem writeCells_host (s : State) (ws : List (Nat × Byte)) : (writeCells s ws).host = s.host :=
  foldl_field (·.host) (fun (t : State) (w : Nat × Byte) => t.setCell w.1 w.2) (fun _ _ => rfl) ws s
@[simp] theorem writeCells_strands (s : State) (ws : List (Nat × Byte)) : (writeCells s ws).strands = s.strands :=
  foldl_field (·.strands) (fun (t : State) (w : Nat × Byte) => t.setCell w.1 w.2) (fun _ _ => rfl) ws s
@[simp] theorem writeCells_cores (s : State) (ws : List (Nat × Byte)) : (writeCells s ws).cores = s.cores :=
  foldl_field (·.cores) (fun (t : State) (w : Nat × Byte) => t.setCell w.1 w.2) (fun _ _ => rfl) ws s
@[simp] theorem writeCells_queues (s : State) (ws : List (Nat × Byte)) : (writeCells s ws).queues = s.queues :=
  foldl_field (·.queues) (fun (t : State) (w : Nat × Byte) => t.setCell w.1 w.2) (fun _ _ => rfl) ws s
@[simp] theorem writeCells_dies (s : State) (ws : List (Nat × Byte)) : (writeCells s ws).dies = s.dies :=
  foldl_field (·.dies) (fun (t : State) (w : Nat × Byte) => t.setCell w.1 w.2) (fun _ _ => rfl) ws s
@[simp] theorem writeCells_pkg (s : State) (ws : List (Nat × Byte)) : (writeCells s ws).pkg = s.pkg :=
  foldl_field (·.pkg) (fun (t : State) (w : Nat × Byte) => t.setCell w.1 w.2) (fun _ _ => rfl) ws s

/-! The watch comparison touches no memory. -/

@[simp] theorem setEntry_mem (s : State) (d idx : Nat) (e : WatchEntry) : (setEntry s d idx e).mem = s.mem := rfl
@[simp] theorem setEntry_host (s : State) (d idx : Nat) (e : WatchEntry) : (setEntry s d idx e).host = s.host := rfl
@[simp] theorem holdEvent_mem (s : State) (core : Nat) (e : HeldEvent) : (holdEvent s core e).mem = s.mem := rfl
@[simp] theorem holdEvent_host (s : State) (core : Nat) (e : HeldEvent) : (holdEvent s core e).host = s.host := rfl

@[simp] theorem raiseRunaway_mem (s : State) (d idx : Nat) (e : WatchEntry) (n why : Nat) :
    (raiseRunaway s d idx e n why).mem = s.mem := by
  unfold raiseRunaway; split <;> simp

@[simp] theorem raiseRunaway_host (s : State) (d idx : Nat) (e : WatchEntry) (n why : Nat) :
    (raiseRunaway s d idx e n why).host = s.host := by
  unfold raiseRunaway; split <;> simp

@[simp] theorem noteGranule_mem (s : State) (cell : Nat) (old new : List Byte) (depth : Nat) :
    (noteGranule s cell old new depth).mem = s.mem := by
  unfold noteGranule
  refine foldl_field (·.mem) _ (fun b a => ?_) _ s
  dsimp only
  repeat' split
  all_goals simp

@[simp] theorem noteGranule_host (s : State) (cell : Nat) (old new : List Byte) (depth : Nat) :
    (noteGranule s cell old new depth).host = s.host := by
  unfold noteGranule
  refine foldl_field (·.host) _ (fun b a => ?_) _ s
  dsimp only
  repeat' split
  all_goals simp

/-! Stores at their homes. -/

/-- A store changes memory as its bytes say, whatever watches it meets. -/
theorem storeCells_mem (s : State) (ws : List (Nat × Byte)) (depth : Nat) :
    (storeCells s ws depth).mem = (writeCells s ws).mem := by
  have h : ∀ (l : List (Nat × Byte)) (t u : State), t.mem = u.mem → (writeCells t l).mem = (writeCells u l).mem := by
    intro l
    induction l with
    | nil => intro t u h; exact h
    | cons w l ih => intro t u h; exact ih _ _ (by simp [State.setCell, h])
  unfold storeCells
  refine h ws _ s (foldl_field (·.mem) _ (fun t g => ?_) _ s)
  exact noteGranule_mem t g _ _ depth

@[simp] theorem storeCells_host (s : State) (ws : List (Nat × Byte)) (depth : Nat) :
    (storeCells s ws depth).host = s.host := by
  unfold storeCells
  rw [writeCells_host]
  exact foldl_field (·.host) _ (fun t g => noteGranule_host t g _ _ depth) _ s

theorem storeCells_memWf (s : State) (ws : List (Nat × Byte)) (depth : Nat) (h : s.memWf = true) :
    (storeCells s ws depth).memWf = true := by
  rw [State.memWf_congr (s := writeCells s ws) (storeCells_mem s ws depth) (by simp)]
  exact writeCells_memWf s ws h

/-- A byte that a store does not name reads as before. -/
theorem storeCells_cell_other (s : State) (ws : List (Nat × Byte)) (depth k : Nat) (h : ∀ w ∈ ws, w.1 ≠ k) :
    (storeCells s ws depth).cell k = s.cell k := by
  rw [State.cell, storeCells_mem, ← State.cell, writeCells_cell_other s ws k h]

/-- A byte that a store names once reads as the store gives. -/
theorem storeCells_cell (s : State) (ws : List (Nat × Byte)) (depth : Nat) (hn : (ws.map (·.1)).Nodup) {k : Nat} {b : Byte}
    (h : (k, b) ∈ ws) : (storeCells s ws depth).cell k = b := by
  rw [State.cell, storeCells_mem, ← State.cell, writeCells_cell s ws hn h]

/-! Writes at physical addresses, and to host memory. -/

theorem physWrite_memWf (s : State) (a : Nat) (bs : List Byte) (h : s.memWf = true) : (physWrite s a bs).memWf = true := by
  refine foldl_keeps (fun t => t.memWf = true) _ (fun t p ht => ?_) bs.zipIdx s h
  split
  · exact t.setCell_memWf _ _ ht
  · exact ht

@[simp] theorem physWrite_host (s : State) (a : Nat) (bs : List Byte) : (physWrite s a bs).host = s.host := by
  refine foldl_field (·.host) _ (fun t p => ?_) bs.zipIdx s
  split <;> rfl

theorem hostStore_memWf (s : State) (a : Nat) (bs : List Byte) (h : s.memWf = true) : (hostStore s a bs).memWf = true := by
  simp only [State.memWf, Bool.and_eq_true] at h ⊢
  exact ⟨h.1, foldl_keeps (fun m => Tab.wf 0 m = true) _ (fun m p hm => Tab.wf_set 0 (a + p.2) p.1 hm) bs.zipIdx _ h.2⟩

@[simp] theorem hostStore_mem (s : State) (a : Nat) (bs : List Byte) : (hostStore s a bs).mem = s.mem := rfl

/-! The memories at reset list nothing. -/

theorem reset_memWf : State.reset.memWf = true := rfl

end Sys2Proof.Machine
end

