-- ==== Sys2Proof/Laws/PerInstr.lean ====
section
/-! SUPPORT. For each instruction: its fields, written out by the encoder, are read as the same instruction. -/

/-- Whether fields stand in the layout that the opcode map gives their major (R58). -/
def Sys2Proof.Laws.Encoding.placed : Sys2Proof.Raw → Bool
  | .f0 mj _ => Sys2Proof.layoutOf mj == some .f0
  | .f1 mj _ => Sys2Proof.layoutOf mj == some .f1
  | .f2r mj _ => Sys2Proof.layoutOf mj == some .f2r
  | .f2i mj _ => Sys2Proof.layoutOf mj == some .f2i
  | .f2m mj _ => Sys2Proof.layoutOf mj == some .f2m
  | .f2s mj _ => Sys2Proof.layoutOf mj == some .f2s
  | .f2b mj _ => Sys2Proof.layoutOf mj == some .f2b
  | .f2j mj _ => Sys2Proof.layoutOf mj == some .f2j
  | .f3v mj _ => Sys2Proof.layoutOf mj == some .f3v
  | .f3e mj _ => Sys2Proof.layoutOf mj == some .f3e
  | .f3k mj _ => Sys2Proof.layoutOf mj == some .f3k

/-- The fields that the encoder gives an instruction name that instruction, and stand in the layout of its major; a step of
the hardware or the host has none. -/
def Sys2Proof.Laws.Encoding.Statement (i : Sys2Proof.Instr) : Prop :=
  ∀ r, Sys2Proof.toRaw i = some r → Sys2Proof.ofRaw r = some i ∧ Sys2Proof.Laws.Encoding.placed r = true

namespace Sys2Proof.Laws.Encoding

theorem add (d : Reg) (a : Reg) (b : Reg) : Statement (.add d a b) := by
  intro r h
  cases h
  refine ⟨?_, rfl⟩
  simp [ofRaw, fromF1]

theorem sub (d : Reg) (a : Reg) (b : Reg) : Statement (.sub d a b) := by
  intro r h
  cases h
  refine ⟨?_, rfl⟩
  simp [ofRaw, fromF1]

theorem and (d : Reg) (a : Reg) (b : Reg) : Statement (.and d a b) := by
  intro r h
  cases h
  refine ⟨?_, rfl⟩
  simp [ofRaw, fromF1]

theorem or (d : Reg) (a : Reg) (b : Reg) : Statement (.or d a b) := by
  intro r h
  cases h
  refine ⟨?_, rfl⟩
  simp [ofRaw, fromF1]

theorem xor (d : Reg) (a : Reg) (b : Reg) : Statement (.xor d a b) := by
  intro r h
  cases h
  refine ⟨?_, rfl⟩
  simp [ofRaw, fromF1]

theorem andn (d : Reg) (a : Reg) (b : Reg) : Statement (.andn d a b) := by
  intro r h
  cases h
  refine ⟨?_, rfl⟩
  simp [ofRaw, fromF1]

theorem sll (d : Reg) (a : Reg) (b : Reg) : Statement (.sll d a b) := by
  intro r h
  cases h
  refine ⟨?_, rfl⟩
  simp [ofRaw, fromF1]

theorem srl (d : Reg) (a : Reg) (b : Reg) : Statement (.srl d a b) := by
  intro r h
  cases h
  refine ⟨?_, rfl⟩
  simp [ofRaw, fromF1]

theorem sra (d : Reg) (a : Reg) (b : Reg) : Statement (.sra d a b) := by
  intro r h
  cases h
  refine ⟨?_, rfl⟩
  simp [ofRaw, fromF1]

theorem rol (d : Reg) (a : Reg) (b : Reg) : Statement (.rol d a b) := by
  intro r h
  cases h
  refine ⟨?_, rfl⟩
  simp [ofRaw, fromF1]

theorem min (d : Reg) (a : Reg) (b : Reg) : Statement (.min d a b) := by
  intro r h
  cases h
  refine ⟨?_, rfl⟩
  simp [ofRaw, fromF1]

theorem max (d : Reg) (a : Reg) (b : Reg) : Statement (.max d a b) := by
  intro r h
  cases h
  refine ⟨?_, rfl⟩
  simp [ofRaw, fromF1]

theorem minw (d : Reg) (a : Reg) (b : Reg) : Statement (.minw d a b) := by
  intro r h
  cases h
  refine ⟨?_, rfl⟩
  simp [ofRaw, fromF1]

theorem maxw (d : Reg) (a : Reg) (b : Reg) : Statement (.maxw d a b) := by
  intro r h
  cases h
  refine ⟨?_, rfl⟩
  simp [ofRaw, fromF1]

theorem mul (d : Reg) (a : Reg) (b : Reg) : Statement (.mul d a b) := by
  intro r h
  cases h
  refine ⟨?_, rfl⟩
  simp [ofRaw, fromF1]

theorem mulhs (d : Reg) (a : Reg) (b : Reg) : Statement (.mulhs d a b) := by
  intro r h
  cases h
  refine ⟨?_, rfl⟩
  simp [ofRaw, fromF1]

theorem mulhw (d : Reg) (a : Reg) (b : Reg) : Statement (.mulhw d a b) := by
  intro r h
  cases h
  refine ⟨?_, rfl⟩
  simp [ofRaw, fromF1]

theorem div (d : Reg) (a : Reg) (b : Reg) : Statement (.div d a b) := by
  intro r h
  cases h
  refine ⟨?_, rfl⟩
  simp [ofRaw, fromF1]

theorem divw (d : Reg) (a : Reg) (b : Reg) : Statement (.divw d a b) := by
  intro r h
  cases h
  refine ⟨?_, rfl⟩
  simp [ofRaw, fromF1]

theorem rem (d : Reg) (a : Reg) (b : Reg) : Statement (.rem d a b) := by
  intro r h
  cases h
  refine ⟨?_, rfl⟩
  simp [ofRaw, fromF1]

theorem remw (d : Reg) (a : Reg) (b : Reg) : Statement (.remw d a b) := by
  intro r h
  cases h
  refine ⟨?_, rfl⟩
  simp [ofRaw, fromF1]

theorem clz (d : Reg) (a : Reg) : Statement (.clz d a) := by
  intro r h
  cases h
  refine ⟨?_, rfl⟩
  simp [ofRaw, fromF1]

theorem ctz (d : Reg) (a : Reg) : Statement (.ctz d a) := by
  intro r h
  cases h
  refine ⟨?_, rfl⟩
  simp [ofRaw, fromF1]

theorem popc (d : Reg) (a : Reg) : Statement (.popc d a) := by
  intro r h
  cases h
  refine ⟨?_, rfl⟩
  simp [ofRaw, fromF1]

theorem bext (d : Reg) (a : Reg) (b : Reg) : Statement (.bext d a b) := by
  intro r h
  cases h
  refine ⟨?_, rfl⟩
  simp [ofRaw, fromF1]

theorem bdep (d : Reg) (a : Reg) (b : Reg) : Statement (.bdep d a b) := by
  intro r h
  cases h
  refine ⟨?_, rfl⟩
  simp [ofRaw, fromF1]

theorem mov (d : Reg) (a : Reg) : Statement (.mov d a) := by
  intro r h
  cases h
  refine ⟨?_, rfl⟩
  simp [ofRaw, fromF1]

theorem sext (d : Reg) (a : Reg) (n : BitVec 6) : Statement (.sext d a n) := by
  intro r h
  cases h
  refine ⟨?_, rfl⟩
  simp [ofRaw, fromF1]

theorem zext (d : Reg) (a : Reg) (n : BitVec 6) : Statement (.zext d a n) := by
  intro r h
  cases h
  refine ⟨?_, rfl⟩
  simp [ofRaw, fromF1]

theorem seq (d : Reg) (a : Reg) (b : Reg) : Statement (.seq d a b) := by
  intro r h
  cases h
  refine ⟨?_, rfl⟩
  simp [ofRaw, fromF1]

theorem sne (d : Reg) (a : Reg) (b : Reg) : Statement (.sne d a b) := by
  intro r h
  cases h
  refine ⟨?_, rfl⟩
  simp [ofRaw, fromF1]

theorem slt (d : Reg) (a : Reg) (b : Reg) : Statement (.slt d a b) := by
  intro r h
  cases h
  refine ⟨?_, rfl⟩
  simp [ofRaw, fromF1]

theorem sge (d : Reg) (a : Reg) (b : Reg) : Statement (.sge d a b) := by
  intro r h
  cases h
  refine ⟨?_, rfl⟩
  simp [ofRaw, fromF1]

theorem sltw (d : Reg) (a : Reg) (b : Reg) : Statement (.sltw d a b) := by
  intro r h
  cases h
  refine ⟨?_, rfl⟩
  simp [ofRaw, fromF1]

theorem sgew (d : Reg) (a : Reg) (b : Reg) : Statement (.sgew d a b) := by
  intro r h
  cases h
  refine ⟨?_, rfl⟩
  simp [ofRaw, fromF1]

theorem addi (d : Reg) (a : Reg) (k : BitVec 22) : Statement (.addi d a k) := by
  intro r h
  cases h
  refine ⟨?_, rfl⟩
  simp [ofRaw, fromF2i]

theorem andi (d : Reg) (a : Reg) (k : BitVec 22) : Statement (.andi d a k) := by
  intro r h
  cases h
  refine ⟨?_, rfl⟩
  simp [ofRaw, fromF2i]

theorem ori (d : Reg) (a : Reg) (k : BitVec 22) : Statement (.ori d a k) := by
  intro r h
  cases h
  refine ⟨?_, rfl⟩
  simp [ofRaw, fromF2i]

theorem xori (d : Reg) (a : Reg) (k : BitVec 22) : Statement (.xori d a k) := by
  intro r h
  cases h
  refine ⟨?_, rfl⟩
  simp [ofRaw, fromF2i]

theorem slli (d : Reg) (a : Reg) (k : BitVec 22) : Statement (.slli d a k) := by
  intro r h
  cases h
  refine ⟨?_, rfl⟩
  simp [ofRaw, fromF2i]

theorem srli (d : Reg) (a : Reg) (k : BitVec 22) : Statement (.srli d a k) := by
  intro r h
  cases h
  refine ⟨?_, rfl⟩
  simp [ofRaw, fromF2i]

theorem srai (d : Reg) (a : Reg) (k : BitVec 22) : Statement (.srai d a k) := by
  intro r h
  cases h
  refine ⟨?_, rfl⟩
  simp [ofRaw, fromF2i]

theorem roli (d : Reg) (a : Reg) (k : BitVec 22) : Statement (.roli d a k) := by
  intro r h
  cases h
  refine ⟨?_, rfl⟩
  simp [ofRaw, fromF2i]

theorem mini (d : Reg) (a : Reg) (k : BitVec 22) : Statement (.mini d a k) := by
  intro r h
  cases h
  refine ⟨?_, rfl⟩
  simp [ofRaw, fromF2i]

theorem maxi (d : Reg) (a : Reg) (k : BitVec 22) : Statement (.maxi d a k) := by
  intro r h
  cases h
  refine ⟨?_, rfl⟩
  simp [ofRaw, fromF2i]

theorem slti (d : Reg) (a : Reg) (k : BitVec 22) : Statement (.slti d a k) := by
  intro r h
  cases h
  refine ⟨?_, rfl⟩
  simp [ofRaw, fromF2i]

theorem seqi (d : Reg) (a : Reg) (k : BitVec 22) : Statement (.seqi d a k) := by
  intro r h
  cases h
  refine ⟨?_, rfl⟩
  simp [ofRaw, fromF2i]

theorem li (d : Reg) (k : BitVec 22) : Statement (.li d k) := by
  intro r h
  cases h
  refine ⟨?_, rfl⟩
  simp [ofRaw, fromF2i]

theorem li32 (d : Reg) (k : BitVec 32) : Statement (.li32 d k) := by
  intro r h
  cases h
  refine ⟨?_, rfl⟩
  simp [ofRaw, fromF3k]

theorem lih (d : Reg) (a : Reg) (k : BitVec 32) : Statement (.lih d a k) := by
  intro r h
  cases h
  refine ⟨?_, rfl⟩
  simp [ofRaw, fromF3k]

theorem lea (d : Reg) (m : MemRef) : Statement (.lea d m) := by
  intro r h
  cases h
  refine ⟨?_, rfl⟩
  simp [ofRaw, fromF2m]

theorem sel (d : Reg) (c : Reg) (a : Reg) (b : Reg) : Statement (.sel d c a b) := by
  intro r h
  cases h
  refine ⟨?_, rfl⟩
  simp [ofRaw, fromF2r]

theorem beq (a : Reg) (hint : Bool) (b : Reg) (off : BitVec 21) (head : BitVec 5) : Statement (.beq a hint b off head) := by
  intro r h
  cases h
  refine ⟨?_, rfl⟩
  simp [ofRaw, fromF2b]

theorem bne (a : Reg) (hint : Bool) (b : Reg) (off : BitVec 21) (head : BitVec 5) : Statement (.bne a hint b off head) := by
  intro r h
  cases h
  refine ⟨?_, rfl⟩
  simp [ofRaw, fromF2b]

theorem blt (a : Reg) (hint : Bool) (b : Reg) (off : BitVec 21) (head : BitVec 5) : Statement (.blt a hint b off head) := by
  intro r h
  cases h
  refine ⟨?_, rfl⟩
  simp [ofRaw, fromF2b]

theorem bge (a : Reg) (hint : Bool) (b : Reg) (off : BitVec 21) (head : BitVec 5) : Statement (.bge a hint b off head) := by
  intro r h
  cases h
  refine ⟨?_, rfl⟩
  simp [ofRaw, fromF2b]

theorem bltw (a : Reg) (hint : Bool) (b : Reg) (off : BitVec 21) (head : BitVec 5) : Statement (.bltw a hint b off head) := by
  intro r h
  cases h
  refine ⟨?_, rfl⟩
  simp [ofRaw, fromF2b]

theorem bgew (a : Reg) (hint : Bool) (b : Reg) (off : BitVec 21) (head : BitVec 5) : Statement (.bgew a hint b off head) := by
  intro r h
  cases h
  refine ⟨?_, rfl⟩
  simp [ofRaw, fromF2b]

theorem bbs (a : Reg) (hint : Bool) (bit : BitVec 6) (off : BitVec 21) (head : BitVec 5) : Statement (.bbs a hint bit off head) := by
  intro r h
  cases h
  refine ⟨?_, rfl⟩
  simp [ofRaw, fromF2b]

theorem bbc (a : Reg) (hint : Bool) (bit : BitVec 6) (off : BitVec 21) (head : BitVec 5) : Statement (.bbc a hint bit off head) := by
  intro r h
  cases h
  refine ⟨?_, rfl⟩
  simp [ofRaw, fromF2b]

theorem bz (a : Reg) (hint : Bool) (off : BitVec 21) (head : BitVec 5) : Statement (.bz a hint off head) := by
  intro r h
  cases h
  refine ⟨?_, rfl⟩
  simp [ofRaw, fromF2b]

theorem bnz (a : Reg) (hint : Bool) (off : BitVec 21) (head : BitVec 5) : Statement (.bnz a hint off head) := by
  intro r h
  cases h
  refine ⟨?_, rfl⟩
  simp [ofRaw, fromF2b]

theorem jmp (off : BitVec 27) (head : BitVec 5) : Statement (.jmp off head) := by
  intro r h
  cases h
  refine ⟨?_, rfl⟩
  simp [ofRaw, fromF2j]

theorem jal (d : Reg) (off : BitVec 27) (head : BitVec 5) : Statement (.jal d off head) := by
  intro r h
  cases h
  refine ⟨?_, rfl⟩
  simp [ofRaw, fromF2j]

theorem jr (a : Reg) : Statement (.jr a) := by
  intro r h
  cases h
  refine ⟨?_, rfl⟩
  simp [ofRaw, fromF1]

theorem ret (a : Reg) : Statement (.ret a) := by
  intro r h
  cases h
  refine ⟨?_, rfl⟩
  simp [ofRaw, fromF1]

theorem loop (s : Reg) (off : BitVec 21) (head : BitVec 5) : Statement (.loop s off head) := by
  intro r h
  cases h
  refine ⟨?_, rfl⟩
  simp [ofRaw, fromF2b]

theorem vadd (vd : VReg) (va : VReg) (vb : VReg) (m : Reg) (t : ElemTy) (rm : Rnd) : Statement (.vadd vd va vb m t rm) := by
  intro r h
  cases h
  refine ⟨?_, rfl⟩
  simp [ofRaw, fromF3v]

theorem vsub (vd : VReg) (va : VReg) (vb : VReg) (m : Reg) (t : ElemTy) (rm : Rnd) : Statement (.vsub vd va vb m t rm) := by
  intro r h
  cases h
  refine ⟨?_, rfl⟩
  simp [ofRaw, fromF3v]

theorem vmul (vd : VReg) (va : VReg) (vb : VReg) (m : Reg) (t : ElemTy) (rm : Rnd) : Statement (.vmul vd va vb m t rm) := by
  intro r h
  cases h
  refine ⟨?_, rfl⟩
  simp [ofRaw, fromF3v]

theorem vmin (vd : VReg) (va : VReg) (vb : VReg) (m : Reg) (t : ElemTy) : Statement (.vmin vd va vb m t) := by
  intro r h
  cases h
  refine ⟨?_, rfl⟩
  simp [ofRaw, fromF3v]

theorem vmax (vd : VReg) (va : VReg) (vb : VReg) (m : Reg) (t : ElemTy) : Statement (.vmax vd va vb m t) := by
  intro r h
  cases h
  refine ⟨?_, rfl⟩
  simp [ofRaw, fromF3v]

theorem vadds (vd : VReg) (va : VReg) (vb : VReg) (m : Reg) (t : ElemTy) : Statement (.vadds vd va vb m t) := by
  intro r h
  cases h
  refine ⟨?_, rfl⟩
  simp [ofRaw, fromF3v]

theorem vsubs (vd : VReg) (va : VReg) (vb : VReg) (m : Reg) (t : ElemTy) : Statement (.vsubs vd va vb m t) := by
  intro r h
  cases h
  refine ⟨?_, rfl⟩
  simp [ofRaw, fromF3v]

theorem vabs (vd : VReg) (va : VReg) (m : Reg) (t : ElemTy) : Statement (.vabs vd va m t) := by
  intro r h
  cases h
  refine ⟨?_, rfl⟩
  simp [ofRaw, fromF3v]

theorem vneg (vd : VReg) (va : VReg) (m : Reg) (t : ElemTy) : Statement (.vneg vd va m t) := by
  intro r h
  cases h
  refine ⟨?_, rfl⟩
  simp [ofRaw, fromF3v]

theorem vfma (vd : VReg) (va : VReg) (vb : VReg) (vc : VReg) (m : Reg) (t : ElemTy) (rm : Rnd) : Statement (.vfma vd va vb vc m t rm) := by
  intro r h
  cases h
  refine ⟨?_, rfl⟩
  simp [ofRaw, fromF3v]

theorem vfms (vd : VReg) (va : VReg) (vb : VReg) (vc : VReg) (m : Reg) (t : ElemTy) (rm : Rnd) : Statement (.vfms vd va vb vc m t rm) := by
  intro r h
  cases h
  refine ⟨?_, rfl⟩
  simp [ofRaw, fromF3v]

theorem vand (vd : VReg) (va : VReg) (vb : VReg) (m : Reg) (t : ElemTy) : Statement (.vand vd va vb m t) := by
  intro r h
  cases h
  refine ⟨?_, rfl⟩
  simp [ofRaw, fromF3v]

theorem vor (vd : VReg) (va : VReg) (vb : VReg) (m : Reg) (t : ElemTy) : Statement (.vor vd va vb m t) := by
  intro r h
  cases h
  refine ⟨?_, rfl⟩
  simp [ofRaw, fromF3v]

theorem vxor (vd : VReg) (va : VReg) (vb : VReg) (m : Reg) (t : ElemTy) : Statement (.vxor vd va vb m t) := by
  intro r h
  cases h
  refine ⟨?_, rfl⟩
  simp [ofRaw, fromF3v]

theorem vandn (vd : VReg) (va : VReg) (vb : VReg) (m : Reg) (t : ElemTy) : Statement (.vandn vd va vb m t) := by
  intro r h
  cases h
  refine ⟨?_, rfl⟩
  simp [ofRaw, fromF3v]

theorem vsll (vd : VReg) (va : VReg) (vb : VReg) (m : Reg) (t : ElemTy) : Statement (.vsll vd va vb m t) := by
  intro r h
  cases h
  refine ⟨?_, rfl⟩
  simp [ofRaw, fromF3v]

theorem vsrl (vd : VReg) (va : VReg) (vb : VReg) (m : Reg) (t : ElemTy) : Statement (.vsrl vd va vb m t) := by
  intro r h
  cases h
  refine ⟨?_, rfl⟩
  simp [ofRaw, fromF3v]

theorem vsra (vd : VReg) (va : VReg) (vb : VReg) (m : Reg) (t : ElemTy) : Statement (.vsra vd va vb m t) := by
  intro r h
  cases h
  refine ⟨?_, rfl⟩
  simp [ofRaw, fromF3v]

theorem vcmpeq (d : Reg) (va : VReg) (vb : VReg) (m : Reg) (t : ElemTy) : Statement (.vcmpeq d va vb m t) := by
  intro r h
  cases h
  refine ⟨?_, rfl⟩
  simp [ofRaw, fromF3v]

theorem vcmpne (d : Reg) (va : VReg) (vb : VReg) (m : Reg) (t : ElemTy) : Statement (.vcmpne d va vb m t) := by
  intro r h
  cases h
  refine ⟨?_, rfl⟩
  simp [ofRaw, fromF3v]

theorem vcmplt (d : Reg) (va : VReg) (vb : VReg) (m : Reg) (t : ElemTy) : Statement (.vcmplt d va vb m t) := by
  intro r h
  cases h
  refine ⟨?_, rfl⟩
  simp [ofRaw, fromF3v]

theorem vcmple (d : Reg) (va : VReg) (vb : VReg) (m : Reg) (t : ElemTy) : Statement (.vcmple d va vb m t) := by
  intro r h
  cases h
  refine ⟨?_, rfl⟩
  simp [ofRaw, fromF3v]

theorem vcmpgt (d : Reg) (va : VReg) (vb : VReg) (m : Reg) (t : ElemTy) : Statement (.vcmpgt d va vb m t) := by
  intro r h
  cases h
  refine ⟨?_, rfl⟩
  simp [ofRaw, fromF3v]

theorem vcmpge (d : Reg) (va : VReg) (vb : VReg) (m : Reg) (t : ElemTy) : Statement (.vcmpge d va vb m t) := by
  intro r h
  cases h
  refine ⟨?_, rfl⟩
  simp [ofRaw, fromF3v]

theorem vcmpun (d : Reg) (va : VReg) (vb : VReg) (m : Reg) (t : ElemTy) : Statement (.vcmpun d va vb m t) := by
  intro r h
  cases h
  refine ⟨?_, rfl⟩
  simp [ofRaw, fromF3v]

theorem vsel (vd : VReg) (va : VReg) (vb : VReg) (m : Reg) (t : ElemTy) : Statement (.vsel vd va vb m t) := by
  intro r h
  cases h
  refine ⟨?_, rfl⟩
  simp [ofRaw, fromF3v]

theorem vmov (vd : VReg) (va : VReg) (m : Reg) (t : ElemTy) : Statement (.vmov vd va m t) := by
  intro r h
  cases h
  refine ⟨?_, rfl⟩
  simp [ofRaw, fromF3v]

theorem vbcast (vd : VReg) (xs : Reg) (m : Reg) (t : ElemTy) : Statement (.vbcast vd xs m t) := by
  intro r h
  cases h
  refine ⟨?_, rfl⟩
  simp [ofRaw, fromF3v]

theorem vextr (d : Reg) (va : VReg) (xi : Reg) (t : ElemTy) : Statement (.vextr d va xi t) := by
  intro r h
  cases h
  refine ⟨?_, rfl⟩
  simp [ofRaw, fromF3v]

theorem vins (vd : VReg) (xs : Reg) (xi : Reg) (t : ElemTy) : Statement (.vins vd xs xi t) := by
  intro r h
  cases h
  refine ⟨?_, rfl⟩
  simp [ofRaw, fromF3v]

theorem vperm (vd : VReg) (va : VReg) (vb : VReg) (m : Reg) (t : ElemTy) : Statement (.vperm vd va vb m t) := by
  intro r h
  cases h
  refine ⟨?_, rfl⟩
  simp [ofRaw, fromF3v]

theorem vcompress (vd : VReg) (va : VReg) (m : Reg) (t : ElemTy) : Statement (.vcompress vd va m t) := by
  intro r h
  cases h
  refine ⟨?_, rfl⟩
  simp [ofRaw, fromF3v]

theorem vexpand (vd : VReg) (va : VReg) (m : Reg) (t : ElemTy) : Statement (.vexpand vd va m t) := by
  intro r h
  cases h
  refine ⟨?_, rfl⟩
  simp [ofRaw, fromF3v]

theorem vredsum (d : Reg) (va : VReg) (m : Reg) (t : ElemTy) (rm : Rnd) : Statement (.vredsum d va m t rm) := by
  intro r h
  cases h
  refine ⟨?_, rfl⟩
  simp [ofRaw, fromF3v]

theorem vredmax (d : Reg) (va : VReg) (m : Reg) (t : ElemTy) : Statement (.vredmax d va m t) := by
  intro r h
  cases h
  refine ⟨?_, rfl⟩
  simp [ofRaw, fromF3v]

theorem vredmin (d : Reg) (va : VReg) (m : Reg) (t : ElemTy) : Statement (.vredmin d va m t) := by
  intro r h
  cases h
  refine ⟨?_, rfl⟩
  simp [ofRaw, fromF3v]

theorem vamax (d : Reg) (va : VReg) (m : Reg) (t : ElemTy) : Statement (.vamax d va m t) := by
  intro r h
  cases h
  refine ⟨?_, rfl⟩
  simp [ofRaw, fromF3v]

theorem vscan (vd : VReg) (va : VReg) (m : Reg) (t : ElemTy) (rm : Rnd) (op : BitVec 2) : Statement (.vscan vd va m t rm op) := by
  intro r h
  cases h
  refine ⟨?_, rfl⟩
  have e1 : (0#11 ++ op : BitVec 13).extractLsb' 0 2 = op := extract_right 0#11 op
  simp [ofRaw, fromF3v, e1, -BitVec.getLsbD_eq_getElem, -BitVec.reduceAppend]

theorem vdiv (vd : VReg) (va : VReg) (vb : VReg) (m : Reg) (t : ElemTy) (rm : Rnd) : Statement (.vdiv vd va vb m t rm) := by
  intro r h
  cases h
  refine ⟨?_, rfl⟩
  simp [ofRaw, fromF3v]

theorem vsqrt (vd : VReg) (va : VReg) (m : Reg) (t : ElemTy) (rm : Rnd) : Statement (.vsqrt vd va m t rm) := by
  intro r h
  cases h
  refine ⟨?_, rfl⟩
  simp [ofRaw, fromF3v]

theorem vrsq (vd : VReg) (va : VReg) (m : Reg) (t : ElemTy) (rm : Rnd) : Statement (.vrsq vd va m t rm) := by
  intro r h
  cases h
  refine ⟨?_, rfl⟩
  simp [ofRaw, fromF3v]

theorem vrcp (vd : VReg) (va : VReg) (m : Reg) (t : ElemTy) (rm : Rnd) : Statement (.vrcp vd va m t rm) := by
  intro r h
  cases h
  refine ⟨?_, rfl⟩
  simp [ofRaw, fromF3v]

theorem vexp2 (vd : VReg) (va : VReg) (m : Reg) (t : ElemTy) (rm : Rnd) : Statement (.vexp2 vd va m t rm) := by
  intro r h
  cases h
  refine ⟨?_, rfl⟩
  simp [ofRaw, fromF3v]

theorem vlog2 (vd : VReg) (va : VReg) (m : Reg) (t : ElemTy) (rm : Rnd) : Statement (.vlog2 vd va m t rm) := by
  intro r h
  cases h
  refine ⟨?_, rfl⟩
  simp [ofRaw, fromF3v]

theorem vcvt (vd : VReg) (va : VReg) (m : Reg) (t : ElemTy) (rm : Rnd) (st : ElemTy) (part : BitVec 4) (sat : Bool) : Statement (.vcvt vd va m t rm st part sat) := by
  intro r h
  cases h
  refine ⟨?_, rfl⟩
  have e1 : (cvtMod st part sat).extractLsb' 9 4 = st.code := (extract_in_left (st.code ++ 0#4 ++ part) (BitVec.ofBool sat) 9 4 (by decide)).trans ((extract_in_left (st.code ++ 0#4) part 8 4 (by decide)).trans (extract_left st.code 0#4))
  have e2 : (cvtMod st part sat).extractLsb' 1 4 = part := (extract_in_left (st.code ++ 0#4 ++ part) (BitVec.ofBool sat) 1 4 (by decide)).trans (extract_right (st.code ++ 0#4) part)
  have e3 : (cvtMod st part sat).getLsbD 0 = sat := (getLsbD_in_right (st.code ++ 0#4 ++ part) (BitVec.ofBool sat) 0 (by decide)).trans (getLsbD_ofBool_zero _)
  simp [ofRaw, fromF3v, e1, e2, e3, -BitVec.getLsbD_eq_getElem, -BitVec.reduceAppend]

theorem vpackmx (vd : VReg) (va : VReg) (xs : Reg) (m : Reg) (t : ElemTy) (rm : Rnd) (st : ElemTy) (part : BitVec 4) (sat : Bool) : Statement (.vpackmx vd va xs m t rm st part sat) := by
  intro r h
  cases h
  refine ⟨?_, rfl⟩
  have e1 : (cvtMod st part sat).extractLsb' 9 4 = st.code := (extract_in_left (st.code ++ 0#4 ++ part) (BitVec.ofBool sat) 9 4 (by decide)).trans ((extract_in_left (st.code ++ 0#4) part 8 4 (by decide)).trans (extract_left st.code 0#4))
  have e2 : (cvtMod st part sat).extractLsb' 1 4 = part := (extract_in_left (st.code ++ 0#4 ++ part) (BitVec.ofBool sat) 1 4 (by decide)).trans (extract_right (st.code ++ 0#4) part)
  have e3 : (cvtMod st part sat).getLsbD 0 = sat := (getLsbD_in_right (st.code ++ 0#4 ++ part) (BitVec.ofBool sat) 0 (by decide)).trans (getLsbD_ofBool_zero _)
  simp [ofRaw, fromF3v, e1, e2, e3, -BitVec.getLsbD_eq_getElem, -BitVec.reduceAppend]

theorem vunpackmx (vd : VReg) (va : VReg) (xs : Reg) (m : Reg) (t : ElemTy) (rm : Rnd) (st : ElemTy) (part : BitVec 4) : Statement (.vunpackmx vd va xs m t rm st part) := by
  intro r h
  cases h
  refine ⟨?_, rfl⟩
  have e1 : (cvtMod st part false).extractLsb' 9 4 = st.code := (extract_in_left (st.code ++ 0#4 ++ part) (BitVec.ofBool false) 9 4 (by decide)).trans ((extract_in_left (st.code ++ 0#4) part 8 4 (by decide)).trans (extract_left st.code 0#4))
  have e2 : (cvtMod st part false).extractLsb' 1 4 = part := (extract_in_left (st.code ++ 0#4 ++ part) (BitVec.ofBool false) 1 4 (by decide)).trans (extract_right (st.code ++ 0#4) part)
  have e3 : (cvtMod st part false).getLsbD 0 = false := (getLsbD_in_right (st.code ++ 0#4 ++ part) (BitVec.ofBool false) 0 (by decide)).trans (getLsbD_ofBool_zero _)
  simp [ofRaw, fromF3v, e1, e2, e3, -BitVec.getLsbD_eq_getElem, -BitVec.reduceAppend]

theorem vnzx (qi : Reg) (va : VReg) (qv : Reg) (xb : Reg) (m : Reg) (t : ElemTy) : Statement (.vnzx qi va qv xb m t) := by
  intro r h
  cases h
  refine ⟨?_, rfl⟩
  simp [ofRaw, fromF3v]

theorem load (d : Reg) (m : MemRef) (sz : BitVec 2) : Statement (.load d m sz) := by
  intro r h
  cases h
  refine ⟨?_, rfl⟩
  simp [ofRaw, fromF2m]

theorem loadSigned (d : Reg) (m : MemRef) (sz : BitVec 2) : Statement (.loadSigned d m sz) := by
  intro r h
  cases h
  refine ⟨?_, rfl⟩
  simp [ofRaw, fromF2m]

theorem lda (d : Reg) (m : MemRef) (scope : Scope) (sz : BitVec 2) : Statement (.lda d m scope sz) := by
  intro r h
  cases h
  refine ⟨?_, rfl⟩
  simp [ofRaw, fromF2m]

theorem store (s : Reg) (m : MemRef) (sz : BitVec 2) : Statement (.store s m sz) := by
  intro r h
  cases h
  refine ⟨?_, rfl⟩
  simp [ofRaw, fromF2m]

theorem stl (s : Reg) (m : MemRef) (scope : Scope) (sz : BitVec 2) : Statement (.stl s m scope sz) := by
  intro r h
  cases h
  refine ⟨?_, rfl⟩
  simp [ofRaw, fromF2m]

theorem ldv (v : VReg) (m : MemRef) : Statement (.ldv v m) := by
  intro r h
  cases h
  refine ⟨?_, rfl⟩
  simp [ofRaw, fromF2m]

theorem stv (v : VReg) (m : MemRef) : Statement (.stv v m) := by
  intro r h
  cases h
  refine ⟨?_, rfl⟩
  simp [ofRaw, fromF2m]

theorem ldvs (v : VReg) (base : Reg) (stride : Reg) (m : Reg) (t : ElemTy) : Statement (.ldvs v base stride m t) := by
  intro r h
  cases h
  refine ⟨?_, rfl⟩
  simp [ofRaw, fromF3v]

theorem stvs (v : VReg) (base : Reg) (stride : Reg) (m : Reg) (t : ElemTy) : Statement (.stvs v base stride m t) := by
  intro r h
  cases h
  refine ⟨?_, rfl⟩
  simp [ofRaw, fromF3v]

theorem ldvx (v : VReg) (base : Reg) (vi : VReg) (m : Reg) (t : ElemTy) (sc : BitVec 2) : Statement (.ldvx v base vi m t sc) := by
  intro r h
  cases h
  refine ⟨?_, rfl⟩
  have e1 : (0#11 ++ sc : BitVec 13).extractLsb' 0 2 = sc := extract_right 0#11 sc
  simp [ofRaw, fromF3v, e1, -BitVec.getLsbD_eq_getElem, -BitVec.reduceAppend]

theorem stvx (v : VReg) (base : Reg) (vi : VReg) (m : Reg) (t : ElemTy) (sc : BitVec 2) : Statement (.stvx v base vi m t sc) := by
  intro r h
  cases h
  refine ⟨?_, rfl⟩
  have e1 : (0#11 ++ sc : BitVec 13).extractLsb' 0 2 = sc := extract_right 0#11 sc
  simp [ofRaw, fromF3v, e1, -BitVec.getLsbD_eq_getElem, -BitVec.reduceAppend]

theorem sld (d : Reg) (signed : Bool) (m : MemRef) (swz : BitVec 2) (sz : BitVec 2) : Statement (.sld d signed m swz sz) := by
  intro r h
  cases h
  refine ⟨?_, rfl⟩
  simp [ofRaw, fromF2s]

theorem sldRec (d : Reg) (signed : Bool) (m : MemRef) (sz : BitVec 2) : Statement (.sldRec d signed m sz) := by
  intro r h
  cases h
  refine ⟨?_, rfl⟩
  simp [ofRaw, fromF2s]

theorem sst (s : Reg) (m : MemRef) (swz : BitVec 2) (sz : BitVec 2) : Statement (.sst s m swz sz) := by
  intro r h
  cases h
  refine ⟨?_, rfl⟩
  simp [ofRaw, fromF2s]

theorem sldv (v : VReg) (m : MemRef) (swz : BitVec 2) : Statement (.sldv v m swz) := by
  intro r h
  cases h
  refine ⟨?_, rfl⟩
  simp [ofRaw, fromF2s]

theorem sstv (v : VReg) (m : MemRef) (swz : BitVec 2) : Statement (.sstv v m swz) := by
  intro r h
  cases h
  refine ⟨?_, rfl⟩
  simp [ofRaw, fromF2s]

theorem amoadd (d : Reg) (a : Reg) (b : Reg) (md : AmoMod) : Statement (.amoadd d a b md) := by
  intro r h
  cases h
  refine ⟨?_, rfl⟩
  simp [ofRaw, fromF2r]

theorem amoand (d : Reg) (a : Reg) (b : Reg) (md : AmoMod) : Statement (.amoand d a b md) := by
  intro r h
  cases h
  refine ⟨?_, rfl⟩
  simp [ofRaw, fromF2r]

theorem amoor (d : Reg) (a : Reg) (b : Reg) (md : AmoMod) : Statement (.amoor d a b md) := by
  intro r h
  cases h
  refine ⟨?_, rfl⟩
  simp [ofRaw, fromF2r]

theorem amoxor (d : Reg) (a : Reg) (b : Reg) (md : AmoMod) : Statement (.amoxor d a b md) := by
  intro r h
  cases h
  refine ⟨?_, rfl⟩
  simp [ofRaw, fromF2r]

theorem amomin (d : Reg) (a : Reg) (b : Reg) (md : AmoMod) : Statement (.amomin d a b md) := by
  intro r h
  cases h
  refine ⟨?_, rfl⟩
  simp [ofRaw, fromF2r]

theorem amomax (d : Reg) (a : Reg) (b : Reg) (md : AmoMod) : Statement (.amomax d a b md) := by
  intro r h
  cases h
  refine ⟨?_, rfl⟩
  simp [ofRaw, fromF2r]

theorem amominw (d : Reg) (a : Reg) (b : Reg) (md : AmoMod) : Statement (.amominw d a b md) := by
  intro r h
  cases h
  refine ⟨?_, rfl⟩
  simp [ofRaw, fromF2r]

theorem amomaxw (d : Reg) (a : Reg) (b : Reg) (md : AmoMod) : Statement (.amomaxw d a b md) := by
  intro r h
  cases h
  refine ⟨?_, rfl⟩
  simp [ofRaw, fromF2r]

theorem amoswap (d : Reg) (a : Reg) (b : Reg) (md : AmoMod) : Statement (.amoswap d a b md) := by
  intro r h
  cases h
  refine ⟨?_, rfl⟩
  simp [ofRaw, fromF2r]

theorem amocas (d : Reg) (a : Reg) (b : Reg) (md : AmoMod) : Statement (.amocas d a b md) := by
  intro r h
  cases h
  refine ⟨?_, rfl⟩
  simp [ofRaw, fromF2r]

theorem amofadd (d : Reg) (a : Reg) (b : Reg) (md : AmoMod) : Statement (.amofadd d a b md) := by
  intro r h
  cases h
  refine ⟨?_, rfl⟩
  simp [ofRaw, fromF2r]

theorem fence (scope : Scope) (ord : Ord) : Statement (.fence scope ord) := by
  intro r h
  cases h
  refine ⟨?_, rfl⟩
  have e1 : (scope.code ++ ord.code ++ 0#3 : BitVec 7).extractLsb' 5 2 = scope.code := (extract_in_left (scope.code ++ ord.code) 0#3 5 2 (by decide)).trans (extract_left scope.code ord.code)
  have e2 : (scope.code ++ ord.code ++ 0#3 : BitVec 7).extractLsb' 3 2 = ord.code := (extract_in_left (scope.code ++ ord.code) 0#3 3 2 (by decide)).trans (extract_right scope.code ord.code)
  simp [ofRaw, fromF0, e1, e2, -BitVec.getLsbD_eq_getElem, -BitVec.reduceAppend]

theorem pref (level : Bool) (m : MemRef) : Statement (.pref level m) := by
  intro r h
  cases h
  refine ⟨?_, rfl⟩
  have e1 : (0#6 ++ BitVec.ofBool level : BitVec 7).getLsbD 0 = level := (getLsbD_in_right 0#6 (BitVec.ofBool level) 0 (by decide)).trans (getLsbD_ofBool_zero _)
  simp [ofRaw, fromF2m, e1, aBit, -BitVec.getLsbD_eq_getElem, -BitVec.reduceAppend]

theorem get (d : Reg) (a : Reg) (pkg : Reg) (ord : Ord) (scope : Scope) (sz : BitVec 2) : Statement (.get d a pkg ord scope sz) := by
  intro r h
  cases h
  refine ⟨?_, rfl⟩
  have e1 : (0#2 ++ ord.code ++ scope.code ++ sz ++ 0#2 : BitVec 10).extractLsb' 6 2 = ord.code := (extract_in_left (0#2 ++ ord.code ++ scope.code ++ sz) 0#2 6 2 (by decide)).trans ((extract_in_left (0#2 ++ ord.code ++ scope.code) sz 4 2 (by decide)).trans ((extract_in_left (0#2 ++ ord.code) scope.code 2 2 (by decide)).trans (extract_right 0#2 ord.code)))
  have e2 : (0#2 ++ ord.code ++ scope.code ++ sz ++ 0#2 : BitVec 10).extractLsb' 4 2 = scope.code := (extract_in_left (0#2 ++ ord.code ++ scope.code ++ sz) 0#2 4 2 (by decide)).trans ((extract_in_left (0#2 ++ ord.code ++ scope.code) sz 2 2 (by decide)).trans (extract_right (0#2 ++ ord.code) scope.code))
  have e3 : (0#2 ++ ord.code ++ scope.code ++ sz ++ 0#2 : BitVec 10).extractLsb' 2 2 = sz := (extract_in_left (0#2 ++ ord.code ++ scope.code ++ sz) 0#2 2 2 (by decide)).trans (extract_right (0#2 ++ ord.code ++ scope.code) sz)
  simp [ofRaw, fromF2r, e1, e2, e3, -BitVec.getLsbD_eq_getElem, -BitVec.reduceAppend]

theorem put (a : Reg) (v : Reg) (pkg : Reg) (ord : Ord) (scope : Scope) (sz : BitVec 2) : Statement (.put a v pkg ord scope sz) := by
  intro r h
  cases h
  refine ⟨?_, rfl⟩
  have e1 : (0#2 ++ ord.code ++ scope.code ++ sz ++ 0#2 : BitVec 10).extractLsb' 6 2 = ord.code := (extract_in_left (0#2 ++ ord.code ++ scope.code ++ sz) 0#2 6 2 (by decide)).trans ((extract_in_left (0#2 ++ ord.code ++ scope.code) sz 4 2 (by decide)).trans ((extract_in_left (0#2 ++ ord.code) scope.code 2 2 (by decide)).trans (extract_right 0#2 ord.code)))
  have e2 : (0#2 ++ ord.code ++ scope.code ++ sz ++ 0#2 : BitVec 10).extractLsb' 4 2 = scope.code := (extract_in_left (0#2 ++ ord.code ++ scope.code ++ sz) 0#2 4 2 (by decide)).trans ((extract_in_left (0#2 ++ ord.code ++ scope.code) sz 2 2 (by decide)).trans (extract_right (0#2 ++ ord.code) scope.code))
  have e3 : (0#2 ++ ord.code ++ scope.code ++ sz ++ 0#2 : BitVec 10).extractLsb' 2 2 = sz := (extract_in_left (0#2 ++ ord.code ++ scope.code ++ sz) 0#2 2 2 (by decide)).trans (extract_right (0#2 ++ ord.code ++ scope.code) sz)
  simp [ofRaw, fromF2r, e1, e2, e3, -BitVec.getLsbD_eq_getElem, -BitVec.reduceAppend]

theorem puts (a : Reg) (off : Reg) (pkg : Reg) (ord : Ord) (scope : Scope) (n : BitVec 3) : Statement (.puts a off pkg ord scope n) := by
  intro r h
  cases h
  refine ⟨?_, rfl⟩
  have e1 : (0#2 ++ ord.code ++ scope.code ++ n ++ 0#1 : BitVec 10).extractLsb' 6 2 = ord.code := (extract_in_left (0#2 ++ ord.code ++ scope.code ++ n) 0#1 6 2 (by decide)).trans ((extract_in_left (0#2 ++ ord.code ++ scope.code) n 5 2 (by decide)).trans ((extract_in_left (0#2 ++ ord.code) scope.code 2 2 (by decide)).trans (extract_right 0#2 ord.code)))
  have e2 : (0#2 ++ ord.code ++ scope.code ++ n ++ 0#1 : BitVec 10).extractLsb' 4 2 = scope.code := (extract_in_left (0#2 ++ ord.code ++ scope.code ++ n) 0#1 4 2 (by decide)).trans ((extract_in_left (0#2 ++ ord.code ++ scope.code) n 3 2 (by decide)).trans (extract_right (0#2 ++ ord.code) scope.code))
  have e3 : (0#2 ++ ord.code ++ scope.code ++ n ++ 0#1 : BitVec 10).extractLsb' 1 3 = n := (extract_in_left (0#2 ++ ord.code ++ scope.code ++ n) 0#1 1 3 (by decide)).trans (extract_right (0#2 ++ ord.code ++ scope.code) n)
  simp [ofRaw, fromF2r, e1, e2, e3, -BitVec.getLsbD_eq_getElem, -BitVec.reduceAppend]

theorem ramo (d : Reg) (op : AmoOp) (a : Reg) (b : Reg) (pkg : Reg) (md : AmoMod) : Statement (.ramo d op a b pkg md) := by
  intro r h
  cases h
  refine ⟨?_, rfl⟩
  simp [ofRaw, fromF2r]

theorem amsg (dest : Reg) (a : Reg) (b : Reg) (c : Reg) (d : Reg) (scope : Scope) (cn : Option (BitVec 4)) : Statement (.amsg dest a b c d scope cn) := by
  intro r h
  cases h
  refine ⟨?_, rfl⟩
  simp [ofRaw, fromF3e]

theorem copy (st : Reg) (src : Reg) (dst : Reg) (len : Reg) (pkg : Reg) (scope : Scope) (spad : Bool) (cn : Option (BitVec 4)) : Statement (.copy st src dst len pkg scope spad cn) := by
  intro r h
  cases h
  refine ⟨?_, rfl⟩
  have e1 : (BitVec.ofBool spad ++ 0#12 : BitVec 13).getLsbD 12 = spad := (getLsbD_in_left (BitVec.ofBool spad) 0#12 12 (by decide)).trans (getLsbD_ofBool_zero _)
  simp [ofRaw, fromF3e, e1, -BitVec.getLsbD_eq_getElem, -BitVec.reduceAppend]

theorem send (st : Reg) (src : Reg) (len : Reg) (dest : Reg) (arr : Reg) (scope : Scope) (spad : Bool) (slab : Bool) (swz : BitVec 2) (cn : Option (BitVec 4)) : Statement (.send st src len dest arr scope spad slab swz cn) := by
  intro r h
  cases h
  refine ⟨?_, rfl⟩
  have e1 : (BitVec.ofBool spad ++ BitVec.ofBool slab ++ swz ++ 0#9 : BitVec 13).getLsbD 12 = spad := (getLsbD_in_left (BitVec.ofBool spad ++ BitVec.ofBool slab ++ swz) 0#9 12 (by decide)).trans ((getLsbD_in_left (BitVec.ofBool spad ++ BitVec.ofBool slab) swz 3 (by decide)).trans ((getLsbD_in_left (BitVec.ofBool spad) (BitVec.ofBool slab) 1 (by decide)).trans (getLsbD_ofBool_zero _)))
  have e2 : (BitVec.ofBool spad ++ BitVec.ofBool slab ++ swz ++ 0#9 : BitVec 13).getLsbD 11 = slab := (getLsbD_in_left (BitVec.ofBool spad ++ BitVec.ofBool slab ++ swz) 0#9 11 (by decide)).trans ((getLsbD_in_left (BitVec.ofBool spad ++ BitVec.ofBool slab) swz 2 (by decide)).trans ((getLsbD_in_right (BitVec.ofBool spad) (BitVec.ofBool slab) 0 (by decide)).trans (getLsbD_ofBool_zero _)))
  have e3 : (BitVec.ofBool spad ++ BitVec.ofBool slab ++ swz ++ 0#9 : BitVec 13).extractLsb' 9 2 = swz := (extract_in_left (BitVec.ofBool spad ++ BitVec.ofBool slab ++ swz) 0#9 9 2 (by decide)).trans (extract_right (BitVec.ofBool spad ++ BitVec.ofBool slab) swz)
  simp [ofRaw, fromF3e, e1, e2, e3, -BitVec.getLsbD_eq_getElem, -BitVec.reduceAppend]

theorem refs (st : Reg) (base : Reg) (qin : Reg) (qout : Reg) (ring : Reg) (row : Bool) (par : BitVec 12) (cn : Option (BitVec 4)) : Statement (.refs st base qin qout ring row par cn) := by
  intro r h
  cases h
  refine ⟨?_, rfl⟩
  have e1 : (BitVec.ofBool row ++ par : BitVec 13).getLsbD 12 = row := (getLsbD_in_left (BitVec.ofBool row) par 12 (by decide)).trans (getLsbD_ofBool_zero _)
  have e2 : (BitVec.ofBool row ++ par : BitVec 13).extractLsb' 0 12 = par := extract_right (BitVec.ofBool row) par
  simp [ofRaw, fromF3e, e1, e2, -BitVec.getLsbD_eq_getElem, -BitVec.reduceAppend]

theorem sread (st : Reg) (ns : Reg) (lba : Reg) (count : Reg) (mem : Reg) (cn : Option (BitVec 4)) : Statement (.sread st ns lba count mem cn) := by
  intro r h
  cases h
  refine ⟨?_, rfl⟩
  simp [ofRaw, fromF3e]

theorem swrite (st : Reg) (ns : Reg) (lba : Reg) (count : Reg) (mem : Reg) (cn : Option (BitVec 4)) : Statement (.swrite st ns lba count mem cn) := by
  intro r h
  cases h
  refine ⟨?_, rfl⟩
  simp [ofRaw, fromF3e]

theorem fship (st : Reg) (a : Reg) (op1 : Reg) (op2 : Reg) (res : Reg) (scope : Scope) (ord : Ord) (routine : BitVec 6) (cn : Option (BitVec 4)) : Statement (.fship st a op1 op2 res scope ord routine cn) := by
  intro r h
  cases h
  refine ⟨?_, rfl⟩
  have e1 : (0#5 ++ ord.code ++ routine : BitVec 13).extractLsb' 6 2 = ord.code := (extract_in_left (0#5 ++ ord.code) routine 6 2 (by decide)).trans (extract_right 0#5 ord.code)
  have e2 : (0#5 ++ ord.code ++ routine : BitVec 13).extractLsb' 0 6 = routine := extract_right (0#5 ++ ord.code) routine
  simp [ofRaw, fromF3e, e1, e2, -BitVec.getLsbD_eq_getElem, -BitVec.reduceAppend]

theorem ldc (d : Reg) (h : Reg) (c : Reg) (signed : Bool) : Statement (.ldc d h c signed) := by
  intro r h
  cases h
  refine ⟨?_, rfl⟩
  have e1 : (0#9 ++ BitVec.ofBool signed : BitVec 10).getLsbD 0 = signed := (getLsbD_in_right 0#9 (BitVec.ofBool signed) 0 (by decide)).trans (getLsbD_ofBool_zero _)
  simp [ofRaw, fromF2r, e1, -BitVec.getLsbD_eq_getElem, -BitVec.reduceAppend]

theorem stc (s : Reg) (h : Reg) (c : Reg) : Statement (.stc s h c) := by
  intro r h
  cases h
  refine ⟨?_, rfl⟩
  simp [ofRaw, fromF2r]

theorem ldcv (v : VReg) (h : Reg) (c : Reg) : Statement (.ldcv v h c) := by
  intro r h
  cases h
  refine ⟨?_, rfl⟩
  simp [ofRaw, fromF2r]

theorem stcv (v : VReg) (h : Reg) (c : Reg) : Statement (.stcv v h c) := by
  intro r h
  cases h
  refine ⟨?_, rfl⟩
  simp [ofRaw, fromF2r]

theorem cprobe (d : Reg) (h : Reg) (c : Reg) : Statement (.cprobe d h c) := by
  intro r h
  cases h
  refine ⟨?_, rfl⟩
  simp [ofRaw, fromF2r]

theorem ctrim (h : Reg) (c : Reg) : Statement (.ctrim h c) := by
  intro r h
  cases h
  refine ⟨?_, rfl⟩
  simp [ofRaw, fromF2r]

theorem tcfg (a : Reg) (k : BitVec 6) : Statement (.tcfg a k) := by
  intro r h
  cases h
  refine ⟨?_, rfl⟩
  simp [ofRaw, fromF1]

theorem tzero (acc : VReg) : Statement (.tzero acc) := by
  intro r h
  cases h
  refine ⟨?_, rfl⟩
  simp [ofRaw, fromF1]

theorem tamax (a : Reg) (k : BitVec 6) : Statement (.tamax a k) := by
  intro r h
  cases h
  refine ⟨?_, rfl⟩
  simp [ofRaw, fromF1]

theorem trowh (a : Reg) (k : BitVec 6) : Statement (.trowh a k) := by
  intro r h
  cases h
  refine ⟨?_, rfl⟩
  simp [ofRaw, fromF1]

theorem tresume : Statement .tresume := by
  intro r h
  cases h
  refine ⟨?_, rfl⟩
  simp [ofRaw, fromF1]

theorem tabort : Statement .tabort := by
  intro r h
  cases h
  refine ⟨?_, rfl⟩
  simp [ofRaw, fromF1]

theorem tmma (acc : VReg) (a : Reg) (b : Reg) (k : BitVec 2) (zero : Bool) (cn : Option (BitVec 4)) : Statement (.tmma acc a b k zero cn) := by
  intro r h
  cases h
  refine ⟨?_, rfl⟩
  have e1 : (k ++ BitVec.ofBool zero ++ 0#8 ++ 0#2 : BitVec 13).extractLsb' 11 2 = k := (extract_in_left (k ++ BitVec.ofBool zero ++ 0#8) 0#2 11 2 (by decide)).trans ((extract_in_left (k ++ BitVec.ofBool zero) 0#8 9 2 (by decide)).trans (extract_left k (BitVec.ofBool zero)))
  have e2 : (k ++ BitVec.ofBool zero ++ 0#8 ++ 0#2 : BitVec 13).getLsbD 10 = zero := (getLsbD_in_left (k ++ BitVec.ofBool zero ++ 0#8) 0#2 10 (by decide)).trans ((getLsbD_in_left (k ++ BitVec.ofBool zero) 0#8 8 (by decide)).trans ((getLsbD_in_right k (BitVec.ofBool zero) 0 (by decide)).trans (getLsbD_ofBool_zero _)))
  simp [ofRaw, fromF3e, e1, e2, -BitVec.getLsbD_eq_getElem, -BitVec.reduceAppend]

theorem tmmas (acc : VReg) (a : Reg) (b : Reg) (k : BitVec 2) (zero : Bool) (sel : BitVec 2) (cn : Option (BitVec 4)) : Statement (.tmmas acc a b k zero sel cn) := by
  intro r h
  cases h
  refine ⟨?_, rfl⟩
  have e1 : (k ++ BitVec.ofBool zero ++ 0#8 ++ sel : BitVec 13).extractLsb' 11 2 = k := (extract_in_left (k ++ BitVec.ofBool zero ++ 0#8) sel 11 2 (by decide)).trans ((extract_in_left (k ++ BitVec.ofBool zero) 0#8 9 2 (by decide)).trans (extract_left k (BitVec.ofBool zero)))
  have e2 : (k ++ BitVec.ofBool zero ++ 0#8 ++ sel : BitVec 13).getLsbD 10 = zero := (getLsbD_in_left (k ++ BitVec.ofBool zero ++ 0#8) sel 10 (by decide)).trans ((getLsbD_in_left (k ++ BitVec.ofBool zero) 0#8 8 (by decide)).trans ((getLsbD_in_right k (BitVec.ofBool zero) 0 (by decide)).trans (getLsbD_ofBool_zero _)))
  have e3 : (k ++ BitVec.ofBool zero ++ 0#8 ++ sel : BitVec 13).extractLsb' 0 2 = sel := extract_right (k ++ BitVec.ofBool zero ++ 0#8) sel
  simp [ofRaw, fromF3e, e1, e2, e3, -BitVec.getLsbD_eq_getElem, -BitVec.reduceAppend]

theorem tmmax (acc : VReg) (a : Reg) (b : Reg) (sa : Reg) (sb : Reg) (k : BitVec 2) (zero : Bool) (sel : BitVec 2) (cn : Option (BitVec 4)) : Statement (.tmmax acc a b sa sb k zero sel cn) := by
  intro r h
  cases h
  refine ⟨?_, rfl⟩
  have e1 : (k ++ BitVec.ofBool zero ++ 0#8 ++ sel : BitVec 13).extractLsb' 11 2 = k := (extract_in_left (k ++ BitVec.ofBool zero ++ 0#8) sel 11 2 (by decide)).trans ((extract_in_left (k ++ BitVec.ofBool zero) 0#8 9 2 (by decide)).trans (extract_left k (BitVec.ofBool zero)))
  have e2 : (k ++ BitVec.ofBool zero ++ 0#8 ++ sel : BitVec 13).getLsbD 10 = zero := (getLsbD_in_left (k ++ BitVec.ofBool zero ++ 0#8) sel 10 (by decide)).trans ((getLsbD_in_left (k ++ BitVec.ofBool zero) 0#8 8 (by decide)).trans ((getLsbD_in_right k (BitVec.ofBool zero) 0 (by decide)).trans (getLsbD_ofBool_zero _)))
  have e3 : (k ++ BitVec.ofBool zero ++ 0#8 ++ sel : BitVec 13).extractLsb' 0 2 = sel := extract_right (k ++ BitVec.ofBool zero ++ 0#8) sel
  simp [ofRaw, fromF3e, e1, e2, e3, -BitVec.getLsbD_eq_getElem, -BitVec.reduceAppend]

theorem tlacc (acc : VReg) (a : Reg) (stride : Reg) (k : BitVec 2) (spad : Bool) (cn : Option (BitVec 4)) : Statement (.tlacc acc a stride k spad cn) := by
  intro r h
  cases h
  refine ⟨?_, rfl⟩
  have e1 : (k ++ 0#10 ++ BitVec.ofBool spad : BitVec 13).extractLsb' 11 2 = k := (extract_in_left (k ++ 0#10) (BitVec.ofBool spad) 11 2 (by decide)).trans (extract_left k 0#10)
  have e2 : (k ++ 0#10 ++ BitVec.ofBool spad : BitVec 13).getLsbD 0 = spad := (getLsbD_in_right (k ++ 0#10) (BitVec.ofBool spad) 0 (by decide)).trans (getLsbD_ofBool_zero _)
  simp [ofRaw, fromF3e, e1, e2, -BitVec.getLsbD_eq_getElem, -BitVec.reduceAppend]

theorem tsacc (acc : VReg) (a : Reg) (stride : Reg) (k : BitVec 2) (spad : Bool) (cn : Option (BitVec 4)) : Statement (.tsacc acc a stride k spad cn) := by
  intro r h
  cases h
  refine ⟨?_, rfl⟩
  have e1 : (k ++ 0#10 ++ BitVec.ofBool spad : BitVec 13).extractLsb' 11 2 = k := (extract_in_left (k ++ 0#10) (BitVec.ofBool spad) 11 2 (by decide)).trans (extract_left k 0#10)
  have e2 : (k ++ 0#10 ++ BitVec.ofBool spad : BitVec 13).getLsbD 0 = spad := (getLsbD_in_right (k ++ 0#10) (BitVec.ofBool spad) 0 (by decide)).trans (getLsbD_ofBool_zero _)
  simp [ofRaw, fromF3e, e1, e2, -BitVec.getLsbD_eq_getElem, -BitVec.reduceAppend]

theorem tdrain (acc : VReg) (dest : Reg) (stride : Reg) (k : BitVec 2) (t : ElemTy) (rm : Rnd) (kind : BitVec 2) (sat : Bool) (cn : Option (BitVec 4)) : Statement (.tdrain acc dest stride k t rm kind sat cn) := by
  intro r h
  cases h
  refine ⟨?_, rfl⟩
  have e1 : (k ++ 0#1 ++ t.code ++ rm.code ++ kind ++ BitVec.ofBool sat : BitVec 13).extractLsb' 11 2 = k := (extract_in_left (k ++ 0#1 ++ t.code ++ rm.code ++ kind) (BitVec.ofBool sat) 11 2 (by decide)).trans ((extract_in_left (k ++ 0#1 ++ t.code ++ rm.code) kind 10 2 (by decide)).trans ((extract_in_left (k ++ 0#1 ++ t.code) rm.code 8 2 (by decide)).trans ((extract_in_left (k ++ 0#1) t.code 5 2 (by decide)).trans (extract_left k 0#1))))
  have e2 : (k ++ 0#1 ++ t.code ++ rm.code ++ kind ++ BitVec.ofBool sat : BitVec 13).getLsbD 10 = false := (getLsbD_in_left (k ++ 0#1 ++ t.code ++ rm.code ++ kind) (BitVec.ofBool sat) 10 (by decide)).trans ((getLsbD_in_left (k ++ 0#1 ++ t.code ++ rm.code) kind 9 (by decide)).trans ((getLsbD_in_left (k ++ 0#1 ++ t.code) rm.code 7 (by decide)).trans ((getLsbD_in_left (k ++ 0#1) t.code 4 (by decide)).trans ((getLsbD_in_right k 0#1 0 (by decide)).trans (rfl)))))
  have e3 : (k ++ 0#1 ++ t.code ++ rm.code ++ kind ++ BitVec.ofBool sat : BitVec 13).extractLsb' 6 4 = t.code := (extract_in_left (k ++ 0#1 ++ t.code ++ rm.code ++ kind) (BitVec.ofBool sat) 6 4 (by decide)).trans ((extract_in_left (k ++ 0#1 ++ t.code ++ rm.code) kind 5 4 (by decide)).trans ((extract_in_left (k ++ 0#1 ++ t.code) rm.code 3 4 (by decide)).trans (extract_right (k ++ 0#1) t.code)))
  have e4 : (k ++ 0#1 ++ t.code ++ rm.code ++ kind ++ BitVec.ofBool sat : BitVec 13).extractLsb' 3 3 = rm.code := (extract_in_left (k ++ 0#1 ++ t.code ++ rm.code ++ kind) (BitVec.ofBool sat) 3 3 (by decide)).trans ((extract_in_left (k ++ 0#1 ++ t.code ++ rm.code) kind 2 3 (by decide)).trans (extract_right (k ++ 0#1 ++ t.code) rm.code))
  have e5 : (k ++ 0#1 ++ t.code ++ rm.code ++ kind ++ BitVec.ofBool sat : BitVec 13).extractLsb' 1 2 = kind := (extract_in_left (k ++ 0#1 ++ t.code ++ rm.code ++ kind) (BitVec.ofBool sat) 1 2 (by decide)).trans (extract_right (k ++ 0#1 ++ t.code ++ rm.code) kind)
  have e6 : (k ++ 0#1 ++ t.code ++ rm.code ++ kind ++ BitVec.ofBool sat : BitVec 13).getLsbD 0 = sat := (getLsbD_in_right (k ++ 0#1 ++ t.code ++ rm.code ++ kind) (BitVec.ofBool sat) 0 (by decide)).trans (getLsbD_ofBool_zero _)
  simp [ofRaw, fromF3e, e1, e2, e3, e4, e5, e6, -BitVec.getLsbD_eq_getElem, -BitVec.reduceAppend]

theorem tdrainHandler (acc : VReg) (dest : Reg) (stride : Reg) (arg : Reg) (k : BitVec 2) (cn : Option (BitVec 4)) : Statement (.tdrainHandler acc dest stride arg k cn) := by
  intro r h
  cases h
  refine ⟨?_, rfl⟩
  have e1 : (k ++ 1#1 ++ 0#10 : BitVec 13).extractLsb' 11 2 = k := (extract_in_left (k ++ 1#1) 0#10 11 2 (by decide)).trans (extract_left k 1#1)
  have e2 : (k ++ 1#1 ++ 0#10 : BitVec 13).getLsbD 10 = true := (getLsbD_in_left (k ++ 1#1) 0#10 10 (by decide)).trans ((getLsbD_in_right k 1#1 0 (by decide)).trans (rfl))
  simp [ofRaw, fromF3e, e1, e2, -BitVec.getLsbD_eq_getElem, -BitVec.reduceAppend]

theorem rowout (dest : Reg) (m : Reg) (swz : BitVec 6) (t : ElemTy) (rm : Rnd) (kind : BitVec 2) (sat : Bool) : Statement (.rowout dest m swz t rm kind sat) := by
  intro r h
  cases h
  refine ⟨?_, rfl⟩
  have e1 : (t.code ++ rm.code ++ kind ++ BitVec.ofBool sat : BitVec 10).extractLsb' 6 4 = t.code := (extract_in_left (t.code ++ rm.code ++ kind) (BitVec.ofBool sat) 6 4 (by decide)).trans ((extract_in_left (t.code ++ rm.code) kind 5 4 (by decide)).trans (extract_left t.code rm.code))
  have e2 : (t.code ++ rm.code ++ kind ++ BitVec.ofBool sat : BitVec 10).extractLsb' 3 3 = rm.code := (extract_in_left (t.code ++ rm.code ++ kind) (BitVec.ofBool sat) 3 3 (by decide)).trans ((extract_in_left (t.code ++ rm.code) kind 2 3 (by decide)).trans (extract_right t.code rm.code))
  have e3 : (t.code ++ rm.code ++ kind ++ BitVec.ofBool sat : BitVec 10).extractLsb' 1 2 = kind := (extract_in_left (t.code ++ rm.code ++ kind) (BitVec.ofBool sat) 1 2 (by decide)).trans (extract_right (t.code ++ rm.code) kind)
  have e4 : (t.code ++ rm.code ++ kind ++ BitVec.ofBool sat : BitVec 10).getLsbD 0 = sat := (getLsbD_in_right (t.code ++ rm.code ++ kind) (BitVec.ofBool sat) 0 (by decide)).trans (getLsbD_ofBool_zero _)
  simp [ofRaw, fromF2r, e1, e2, e3, e4, -BitVec.getLsbD_eq_getElem, -BitVec.reduceAppend]

theorem mcfg (a : Reg) (n : BitVec 6) : Statement (.mcfg a n) := by
  intro r h
  cases h
  refine ⟨?_, rfl⟩
  simp [ofRaw, fromF1]

theorem mrun (out : Reg) (port : Bool) (tag : BitVec 3) (cn : Option (BitVec 4)) : Statement (.mrun out port tag cn) := by
  intro r h
  cases h
  refine ⟨?_, rfl⟩
  have e1 : (BitVec.ofBool port ++ tag ++ 0#9 : BitVec 13).getLsbD 12 = port := (getLsbD_in_left (BitVec.ofBool port ++ tag) 0#9 12 (by decide)).trans ((getLsbD_in_left (BitVec.ofBool port) tag 3 (by decide)).trans (getLsbD_ofBool_zero _))
  have e2 : (BitVec.ofBool port ++ tag ++ 0#9 : BitVec 13).extractLsb' 9 3 = tag := (extract_in_left (BitVec.ofBool port ++ tag) 0#9 9 3 (by decide)).trans (extract_right (BitVec.ofBool port) tag)
  simp [ofRaw, fromF3e, e1, e2, -BitVec.getLsbD_eq_getElem, -BitVec.reduceAppend]

theorem mstat (d : Reg) : Statement (.mstat d) := by
  intro r h
  cases h
  refine ⟨?_, rfl⟩
  simp [ofRaw, fromF1]

theorem mstop : Statement .mstop := by
  intro r h
  cases h
  refine ⟨?_, rfl⟩
  simp [ofRaw, fromF0]

theorem qtok (tag : BitVec 3) (port : BitVec 3) (s : Reg) : Statement (.qtok tag port s) := by
  intro r h
  cases h
  refine ⟨?_, rfl⟩
  have e1 : (tag ++ port : BitVec 6).extractLsb' 3 3 = tag := extract_left tag port
  have e2 : (tag ++ port : BitVec 6).extractLsb' 0 3 = port := extract_right tag port
  simp [ofRaw, fromF1, e1, e2, -BitVec.getLsbD_eq_getElem, -BitVec.reduceAppend]

theorem qtry (d : Reg) (xf : Reg) (q : Reg) : Statement (.qtry d xf q) := by
  intro r h
  cases h
  refine ⟨?_, rfl⟩
  simp [ofRaw, fromF1]

theorem qpeek (d : Reg) (xf : Reg) (q : Reg) : Statement (.qpeek d xf q) := by
  intro r h
  cases h
  refine ⟨?_, rfl⟩
  simp [ofRaw, fromF1]

theorem qlen (d : Reg) (q : Reg) : Statement (.qlen d q) := by
  intro r h
  cases h
  refine ⟨?_, rfl⟩
  simp [ofRaw, fromF1]

theorem qfence : Statement .qfence := by
  intro r h
  cases h
  refine ⟨?_, rfl⟩
  simp [ofRaw, fromF1]

theorem qtvec (q : Reg) (s : Reg) : Statement (.qtvec q s) := by
  intro r h
  cases h
  refine ⟨?_, rfl⟩
  simp [ofRaw, fromF1]

theorem cpost (c : BitVec 4) (k : BitVec 22) : Statement (.cpost c k) := by
  intro r h
  cases h
  refine ⟨?_, rfl⟩
  have e1 : (0#2 ++ c : BitVec 6).extractLsb' 0 4 = c := extract_right 0#2 c
  simp [ofRaw, fromF2i, e1, -BitVec.getLsbD_eq_getElem, -BitVec.reduceAppend]

theorem waitc (c : BitVec 4) (k : BitVec 22) : Statement (.waitc c k) := by
  intro r h
  cases h
  refine ⟨?_, rfl⟩
  have e1 : (0#2 ++ c : BitVec 6).extractLsb' 0 4 = c := extract_right 0#2 c
  simp [ofRaw, fromF2i, e1, -BitVec.getLsbD_eq_getElem, -BitVec.reduceAppend]

theorem cread (d : Reg) (c : BitVec 4) (clr : Bool) : Statement (.cread d c clr) := by
  intro r h
  cases h
  refine ⟨?_, rfl⟩
  have e1 : (0#2 ++ c : BitVec 6).extractLsb' 0 4 = c := extract_right 0#2 c
  have e2 : (0#21 ++ BitVec.ofBool clr : BitVec 22).getLsbD 0 = clr := (getLsbD_in_right 0#21 (BitVec.ofBool clr) 0 (by decide)).trans (getLsbD_ofBool_zero _)
  simp [ofRaw, fromF2i, e1, e2, -BitVec.getLsbD_eq_getElem, -BitVec.reduceAppend]

theorem wait (ld : BitVec 6) (st : BitVec 6) (cp : BitVec 6) (tl : BitVec 6) : Statement (.wait ld st cp tl) := by
  intro r h
  cases h
  refine ⟨?_, rfl⟩
  have e1 : (0#8 ++ ld ++ st ++ cp ++ tl : BitVec 32).extractLsb' 18 6 = ld := (extract_in_left (0#8 ++ ld ++ st ++ cp) tl 18 6 (by decide)).trans ((extract_in_left (0#8 ++ ld ++ st) cp 12 6 (by decide)).trans ((extract_in_left (0#8 ++ ld) st 6 6 (by decide)).trans (extract_right 0#8 ld)))
  have e2 : (0#8 ++ ld ++ st ++ cp ++ tl : BitVec 32).extractLsb' 12 6 = st := (extract_in_left (0#8 ++ ld ++ st ++ cp) tl 12 6 (by decide)).trans ((extract_in_left (0#8 ++ ld ++ st) cp 6 6 (by decide)).trans (extract_right (0#8 ++ ld) st))
  have e3 : (0#8 ++ ld ++ st ++ cp ++ tl : BitVec 32).extractLsb' 6 6 = cp := (extract_in_left (0#8 ++ ld ++ st ++ cp) tl 6 6 (by decide)).trans (extract_right (0#8 ++ ld ++ st) cp)
  have e4 : (0#8 ++ ld ++ st ++ cp ++ tl : BitVec 32).extractLsb' 0 6 = tl := extract_right (0#8 ++ ld ++ st ++ cp) tl
  simp [ofRaw, fromF3k, e1, e2, e3, e4, -BitVec.getLsbD_eq_getElem, -BitVec.reduceAppend]

theorem await (a : Reg) (t : Reg) (scope : Scope) : Statement (.await a t scope) := by
  intro r h
  cases h
  refine ⟨?_, rfl⟩
  have e1 : (0#4 ++ scope.code ++ 0#4 : BitVec 10).extractLsb' 4 2 = scope.code := (extract_in_left (0#4 ++ scope.code) 0#4 4 2 (by decide)).trans (extract_right 0#4 scope.code)
  simp [ofRaw, fromF2r, e1, -BitVec.getLsbD_eq_getElem, -BitVec.reduceAppend]

theorem bar : Statement .bar := by
  intro r h
  cases h
  refine ⟨?_, rfl⟩
  simp [ofRaw, fromF2r]

theorem parkC (c : BitVec 4) (t : Reg) : Statement (.parkC c t) := by
  intro r h
  cases h
  refine ⟨?_, rfl⟩
  have e1 : (0#2 ++ c ++ 0#4 : BitVec 10).extractLsb' 8 2 = 0#2 := (extract_in_left (0#2 ++ c) 0#4 8 2 (by decide)).trans (extract_left 0#2 c)
  have e2 : (0#2 ++ c ++ 0#4 : BitVec 10).extractLsb' 4 4 = c := (extract_in_left (0#2 ++ c) 0#4 4 4 (by decide)).trans (extract_right 0#2 c)
  simp [ofRaw, fromF2r, e1, e2, -BitVec.getLsbD_eq_getElem, -BitVec.reduceAppend]

theorem parkA (a : Reg) (t : Reg) (scope : Scope) : Statement (.parkA a t scope) := by
  intro r h
  cases h
  refine ⟨?_, rfl⟩
  have e1 : (1#2 ++ 0#2 ++ scope.code ++ 0#4 : BitVec 10).extractLsb' 8 2 = 1#2 := (extract_in_left (1#2 ++ 0#2 ++ scope.code) 0#4 8 2 (by decide)).trans ((extract_in_left (1#2 ++ 0#2) scope.code 4 2 (by decide)).trans (extract_left 1#2 0#2))
  have e2 : (1#2 ++ 0#2 ++ scope.code ++ 0#4 : BitVec 10).extractLsb' 4 2 = scope.code := (extract_in_left (1#2 ++ 0#2 ++ scope.code) 0#4 4 2 (by decide)).trans (extract_right (1#2 ++ 0#2) scope.code)
  simp [ofRaw, fromF2r, e1, e2, -BitVec.getLsbD_eq_getElem, -BitVec.reduceAppend]

theorem parkQ (port : BitVec 3) : Statement (.parkQ port) := by
  intro r h
  cases h
  refine ⟨?_, rfl⟩
  have e1 : (2#2 ++ 0#1 ++ port ++ 0#4 : BitVec 10).extractLsb' 8 2 = 2#2 := (extract_in_left (2#2 ++ 0#1 ++ port) 0#4 8 2 (by decide)).trans ((extract_in_left (2#2 ++ 0#1) port 4 2 (by decide)).trans (extract_left 2#2 0#1))
  have e2 : (2#2 ++ 0#1 ++ port ++ 0#4 : BitVec 10).extractLsb' 4 3 = port := (extract_in_left (2#2 ++ 0#1 ++ port) 0#4 4 3 (by decide)).trans (extract_right (2#2 ++ 0#1) port)
  simp [ofRaw, fromF2r, e1, e2, -BitVec.getLsbD_eq_getElem, -BitVec.reduceAppend]

theorem parkT (t : Reg) : Statement (.parkT t) := by
  intro r h
  cases h
  refine ⟨?_, rfl⟩
  have e1 : (3#2 ++ 0#8 : BitVec 10).extractLsb' 8 2 = 3#2 := extract_left 3#2 0#8
  simp [ofRaw, fromF2r, e1, -BitVec.getLsbD_eq_getElem, -BitVec.reduceAppend]

theorem yield : Statement .yield := by
  intro r h
  cases h
  refine ⟨?_, rfl⟩
  simp [ofRaw, fromF1]

theorem exit : Statement .exit := by
  intro r h
  cases h
  refine ⟨?_, rfl⟩
  simp [ofRaw, fromF1]

theorem sprio (n : BitVec 6) : Statement (.sprio n) := by
  intro r h
  cases h
  refine ⟨?_, rfl⟩
  simp [ofRaw, fromF1]

theorem launch (d : Reg) (p : Reg) : Statement (.launch d p) := by
  intro r h
  cases h
  refine ⟨?_, rfl⟩
  simp [ofRaw, fromF2r]

theorem slice (d : Reg) (j : Reg) (k : BitVec 6) (what : BitVec 2) (axis : Bool) : Statement (.slice d j k what axis) := by
  intro r h
  cases h
  refine ⟨?_, rfl⟩
  have e1 : (0#7 ++ what ++ BitVec.ofBool axis : BitVec 10).extractLsb' 1 2 = what := (extract_in_left (0#7 ++ what) (BitVec.ofBool axis) 1 2 (by decide)).trans (extract_right 0#7 what)
  have e2 : (0#7 ++ what ++ BitVec.ofBool axis : BitVec 10).getLsbD 0 = axis := (getLsbD_in_right (0#7 ++ what) (BitVec.ofBool axis) 0 (by decide)).trans (getLsbD_ofBool_zero _)
  simp [ofRaw, fromF2r, e1, e2, -BitVec.getLsbD_eq_getElem, -BitVec.reduceAppend]

theorem warm (w : Reg) (base : Reg) (size : Reg) : Statement (.warm w base size) := by
  intro r h
  cases h
  refine ⟨?_, rfl⟩
  simp [ofRaw, fromF2r]

theorem wdisarm (w : Reg) : Statement (.wdisarm w) := by
  intro r h
  cases h
  refine ⟨?_, rfl⟩
  simp [ofRaw, fromF2r]

theorem wstat (d : Reg) (w : Reg) : Statement (.wstat d w) := by
  intro r h
  cases h
  refine ⟨?_, rfl⟩
  simp [ofRaw, fromF2r]

theorem wack : Statement .wack := by
  intro r h
  cases h
  refine ⟨?_, rfl⟩
  simp [ofRaw, fromF2r]

theorem csrr (d : Reg) (csr : BitVec 12) : Statement (.csrr d csr) := by
  intro r h
  cases h
  refine ⟨?_, rfl⟩
  have e1 : (0#10 ++ csr : BitVec 22).extractLsb' 0 12 = csr := extract_right 0#10 csr
  simp [ofRaw, fromF2i, e1, -BitVec.getLsbD_eq_getElem, -BitVec.reduceAppend]

theorem csrw (csr : BitVec 12) (s : Reg) : Statement (.csrw csr s) := by
  intro r h
  cases h
  refine ⟨?_, rfl⟩
  have e1 : (0#10 ++ csr : BitVec 22).extractLsb' 0 12 = csr := extract_right 0#10 csr
  simp [ofRaw, fromF2i, e1, -BitVec.getLsbD_eq_getElem, -BitVec.reduceAppend]

theorem csrset (csr : BitVec 12) (s : Reg) : Statement (.csrset csr s) := by
  intro r h
  cases h
  refine ⟨?_, rfl⟩
  have e1 : (0#10 ++ csr : BitVec 22).extractLsb' 0 12 = csr := extract_right 0#10 csr
  simp [ofRaw, fromF2i, e1, -BitVec.getLsbD_eq_getElem, -BitVec.reduceAppend]

theorem csrclr (csr : BitVec 12) (s : Reg) : Statement (.csrclr csr s) := by
  intro r h
  cases h
  refine ⟨?_, rfl⟩
  have e1 : (0#10 ++ csr : BitVec 22).extractLsb' 0 12 = csr := extract_right 0#10 csr
  simp [ofRaw, fromF2i, e1, -BitVec.getLsbD_eq_getElem, -BitVec.reduceAppend]

theorem tlbw (a : Reg) (b : Reg) : Statement (.tlbw a b) := by
  intro r h
  cases h
  refine ⟨?_, rfl⟩
  simp [ofRaw, fromF1]

theorem tlbi (a : Reg) (b : Reg) : Statement (.tlbi a b) := by
  intro r h
  cases h
  refine ⟨?_, rfl⟩
  simp [ofRaw, fromF1]

theorem clbi (a : Reg) (b : Reg) : Statement (.clbi a b) := by
  intro r h
  cases h
  refine ⟨?_, rfl⟩
  simp [ofRaw, fromF1]

theorem migr (d : Reg) (a : Reg) (b : Reg) : Statement (.migr d a b) := by
  intro r h
  cases h
  refine ⟨?_, rfl⟩
  simp [ofRaw, fromF1]

theorem ecall (n : BitVec 7) : Statement (.ecall n) := by
  intro r h
  cases h
  refine ⟨?_, rfl⟩
  simp [ofRaw, fromF0]

theorem ebreak (n : BitVec 7) : Statement (.ebreak n) := by
  intro r h
  cases h
  refine ⟨?_, rfl⟩
  simp [ofRaw, fromF0]

theorem eret : Statement .eret := by
  intro r h
  cases h
  refine ⟨?_, rfl⟩
  simp [ofRaw, fromF0]

theorem repart (a : Reg) : Statement (.repart a) := by
  intro r h
  cases h
  refine ⟨?_, rfl⟩
  simp [ofRaw, fromF1]

theorem ctxsave (a : Reg) (b : Reg) : Statement (.ctxsave a b) := by
  intro r h
  cases h
  refine ⟨?_, rfl⟩
  simp [ofRaw, fromF1]

theorem ctxrest (a : Reg) (b : Reg) : Statement (.ctxrest a b) := by
  intro r h
  cases h
  refine ⟨?_, rfl⟩
  simp [ofRaw, fromF1]

theorem agedLevel (core : Nat) (slot : Nat) : Statement (.agedLevel core slot) := by
  intro r h
  cases h

theorem yieldExpiry (core : Nat) (slot : Nat) : Statement (.yieldExpiry core slot) := by
  intro r h
  cases h

theorem loadReturn (core : Nat) (slot : Nat) (seq : Piece) : Statement (.loadReturn core slot seq) := by
  intro r h
  cases h

theorem storePerformed (core : Nat) (slot : Nat) (seq : Piece) : Statement (.storePerformed core slot seq) := by
  intro r h
  cases h

theorem fabricPerformed (core : Nat) (slot : Nat) (seq : Nat) (ext : Word) : Statement (.fabricPerformed core slot seq ext) := by
  intro r h
  cases h

theorem remoteAck (core : Nat) (slot : Nat) (seq : Nat) : Statement (.remoteAck core slot seq) := by
  intro r h
  cases h

theorem negativeAck (core : Nat) (slot : Nat) (seq : Nat) : Statement (.negativeAck core slot seq) := by
  intro r h
  cases h

theorem shippedOperation (core : Nat) (slot : Nat) (seq : Nat) : Statement (.shippedOperation core slot seq) := by
  intro r h
  cases h

theorem elementPoppable (queue : Nat) (gen : Nat) : Statement (.elementPoppable queue gen) := by
  intro r h
  cases h

theorem creditReturn (queue : Nat) : Statement (.creditReturn queue) := by
  intro r h
  cases h

theorem porterRunStart (core : Nat) : Statement (.porterRunStart core) := by
  intro r h
  cases h

theorem tileOpStart (core : Nat) : Statement (.tileOpStart core) := by
  intro r h
  cases h

theorem tileUnitStop (core : Nat) : Statement (.tileUnitStop core) := by
  intro r h
  cases h

theorem tileOpComplete (core : Nat) (op : Nat) : Statement (.tileOpComplete core op) := by
  intro r h
  cases h

theorem amaxAtomic (core : Nat) (op : Nat) : Statement (.amaxAtomic core op) := by
  intro r h
  cases h

theorem rowHandlerDispatch (core : Nat) : Statement (.rowHandlerDispatch core) := by
  intro r h
  cases h

theorem mergeEmit (core : Nat) : Statement (.mergeEmit core) := by
  intro r h
  cases h

theorem mergeToken (core : Nat) : Statement (.mergeToken core) := by
  intro r h
  cases h

theorem mergeFault (core : Nat) : Statement (.mergeFault core) := by
  intro r h
  cases h

theorem referencePop (core : Nat) (op : Piece) : Statement (.referencePop core op) := by
  intro r h
  cases h

theorem referenceStop (core : Nat) (op : Nat) : Statement (.referenceStop core op) := by
  intro r h
  cases h

theorem sectorStep (core : Nat) (op : Piece) : Statement (.sectorStep core op) := by
  intro r h
  cases h

theorem engineStop (core : Nat) (op : Nat) : Statement (.engineStop core op) := by
  intro r h
  cases h

theorem engineComplete (core : Nat) (op : Nat) (ext : Nat) : Statement (.engineComplete core op ext) := by
  intro r h
  cases h

theorem storageComplete (core : Nat) (op : Nat) (status : Nat) : Statement (.storageComplete core op status) := by
  intro r h
  cases h

theorem channelTransferStart (core : Nat) (chan : Nat) : Statement (.channelTransferStart core chan) := by
  intro r h
  cases h

theorem beatDelivery (core : Nat) (chan : Piece) : Statement (.beatDelivery core chan) := by
  intro r h
  cases h

theorem migrationComplete (mig : Nat) : Statement (.migrationComplete mig) := by
  intro r h
  cases h

theorem triggerStart (die : Nat) (entry : Nat) : Statement (.triggerStart die entry) := by
  intro r h
  cases h

theorem watchRateWindow (die : Nat) (entry : Nat) : Statement (.watchRateWindow die entry) := by
  intro r h
  cases h

theorem parkSaveComplete (core : Nat) (area : Nat) : Statement (.parkSaveComplete core area) := by
  intro r h
  cases h

theorem unpark (core : Nat) (area : Nat) : Statement (.unpark core area) := by
  intro r h
  cases h

theorem balancerSample (lid : Nat) (stage : Nat) : Statement (.balancerSample lid stage) := by
  intro r h
  cases h

theorem elasticEos (core : Nat) (slot : Nat) : Statement (.elasticEos core slot) := by
  intro r h
  cases h

theorem watchdogStop (lid : Nat) : Statement (.watchdogStop lid) := by
  intro r h
  cases h

theorem watchdog (core : Nat) (lid : Nat) : Statement (.watchdog core lid) := by
  intro r h
  cases h

theorem hostInterrupt (core : Nat) (lid : Nat) (reason : Nat) : Statement (.hostInterrupt core lid reason) := by
  intro r h
  cases h

theorem preempt (core : Nat) (reason : Nat) : Statement (.preempt core reason) := by
  intro r h
  cases h

theorem watchRunaway (core : Nat) : Statement (.watchRunaway core) := by
  intro r h
  cases h

theorem undeliverable (core : Nat) (slot : Nat) : Statement (.undeliverable core slot) := by
  intro r h
  cases h

theorem claimGrant (part : Nat) : Statement (.claimGrant part) := by
  intro r h
  cases h

theorem launchEnd (lid : Nat) : Statement (.launchEnd lid) := by
  intro r h
  cases h

theorem frontEndPoll (queue : Nat) (fail : Nat) : Statement (.frontEndPoll queue fail) := by
  intro r h
  cases h

theorem launchPacket (queue : Nat) : Statement (.launchPacket queue) := by
  intro r h
  cases h

theorem launchLoadOnly (queue : Nat) : Statement (.launchLoadOnly queue) := by
  intro r h
  cases h

theorem copyin (queue : Nat) (buserr : Bool) : Statement (.copyin queue buserr) := by
  intro r h
  cases h

theorem copyout (queue : Nat) : Statement (.copyout queue) := by
  intro r h
  cases h

theorem signalSet (queue : Nat) : Statement (.signalSet queue) := by
  intro r h
  cases h

theorem signalAdd (queue : Nat) : Statement (.signalAdd queue) := by
  intro r h
  cases h

theorem waitsigGe (queue : Nat) : Statement (.waitsigGe queue) := by
  intro r h
  cases h

theorem waitsigEq (queue : Nat) : Statement (.waitsigEq queue) := by
  intro r h
  cases h

theorem waitsigPoll (queue : Nat) : Statement (.waitsigPoll queue) := by
  intro r h
  cases h

theorem fencePacket (queue : Nat) : Statement (.fencePacket queue) := by
  intro r h
  cases h

theorem pad (queue : Nat) : Statement (.pad queue) := by
  intro r h
  cases h

theorem packetComplete (queue : Nat) (index : Nat) : Statement (.packetComplete queue index) := by
  intro r h
  cases h

theorem queueEnable (queue : Nat) : Statement (.queueEnable queue) := by
  intro r h
  cases h

theorem queueDisable (queue : Nat) : Statement (.queueDisable queue) := by
  intro r h
  cases h

theorem queueResume (queue : Nat) : Statement (.queueResume queue) := by
  intro r h
  cases h

theorem hostRegisterWrite (off : Nat) (val : BarWrite) : Statement (.hostRegisterWrite off val) := by
  intro r h
  cases h

theorem ident (tag : Nat) : Statement (.ident tag) := by
  intro r h
  cases h

theorem setpkg (tag : Nat) : Statement (.setpkg tag) := by
  intro r h
  cases h

theorem partcfg (tag : Nat) : Statement (.partcfg tag) := by
  intro r h
  cases h

theorem partclr (tag : Nat) : Statement (.partclr tag) := by
  intro r h
  cases h

theorem peermap (tag : Nat) : Statement (.peermap tag) := by
  intro r h
  cases h

theorem unload (tag : Nat) : Statement (.unload tag) := by
  intro r h
  cases h

theorem stop (tag : Nat) : Statement (.stop tag) := by
  intro r h
  cases h

theorem fwload (tag : Nat) (ok : Bool) : Statement (.fwload tag ok) := by
  intro r h
  cases h

theorem attest (tag : Nat) : Statement (.attest tag) := by
  intro r h
  cases h

theorem winset (tag : Nat) : Statement (.winset tag) := by
  intro r h
  cases h

theorem evread (tag : Nat) : Statement (.evread tag) := by
  intro r h
  cases h

theorem certs (tag : Nat) : Statement (.certs tag) := by
  intro r h
  cases h

theorem telem (tag : Nat) : Statement (.telem tag) := by
  intro r h
  cases h

theorem mailboxComplete : Statement .mailboxComplete := by
  intro r h
  cases h

theorem windowRead (off : Nat) (size : Nat) : Statement (.windowRead off size) := by
  intro r h
  cases h

theorem windowWrite (off : Nat) (size : Nat) (val : Nat) : Statement (.windowWrite off size val) := by
  intro r h
  cases h

theorem peerInbound (port : Nat) (req : PeerReq) : Statement (.peerInbound port req) := by
  intro r h
  cases h

theorem perstRelease (boot : BootReport) : Statement (.perstRelease boot) := by
  intro r h
  cases h

theorem powerOff : Statement .powerOff := by
  intro r h
  cases h

theorem functionLevelReset : Statement .functionLevelReset := by
  intro r h
  cases h

theorem inputVoltageFault : Statement .inputVoltageFault := by
  intro r h
  cases h

theorem inputPowerLimit (duty : Nat) : Statement (.inputPowerLimit duty) := by
  intro r h
  cases h

theorem inputPowerRecover : Statement .inputPowerRecover := by
  intro r h
  cases h

theorem coolantInletLimit (die : Nat) (duty : Nat) : Statement (.coolantInletLimit die duty) := by
  intro r h
  cases h

theorem dieTemperatureLimit (die : Nat) (duty : Nat) : Statement (.dieTemperatureLimit die duty) := by
  intro r h
  cases h

theorem dieTemperaturePreempt (die : Nat) : Statement (.dieTemperaturePreempt die) := by
  intro r h
  cases h

theorem dieTemperatureRecover (die : Nat) : Statement (.dieTemperatureRecover die) := by
  intro r h
  cases h

theorem dieTemperatureShutdown (die : Nat) : Statement (.dieTemperatureShutdown die) := by
  intro r h
  cases h

theorem pageFence (line : Nat) : Statement (.pageFence line) := by
  intro r h
  cases h

theorem patrolScrub (stack : Nat) : Statement (.patrolScrub stack) := by
  intro r h
  cases h

theorem llcScrub (die : Nat) : Statement (.llcScrub die) := by
  intro r h
  cases h

theorem bankSparing (stack : Nat) (chan : Nat) (bank : Nat) : Statement (.bankSparing stack chan bank) := by
  intro r h
  cases h

theorem liveLaneRepair (link : Nat) (chan : Option Nat) : Statement (.liveLaneRepair link chan) := by
  intro r h
  cases h

theorem linkRetrain (port : Nat) (ok : Bool) : Statement (.linkRetrain port ok) := by
  intro r h
  cases h

theorem corePowerDown (core : Nat) : Statement (.corePowerDown core) := by
  intro r h
  cases h

end Sys2Proof.Laws.Encoding
end

