-- ==== Sys2Proof/Laws/Uses.lean ====
section
/-! SUPPORT. Every instruction goes through the conditions of issue (R60) for what it names. -/

namespace Sys2Proof.Machine

open Sys2Proof.Claims

/-- An instruction whose conditions of issue fail stops as they say. -/
theorem issue_stopped {i : Instr} {uses : Ctx → Uses} {s : State} {body : Vals → Except Stop Done} {cx : Ctx} {e : Stop}
    (hc : current s = some cx) (hg : gate s i cx (uses cx) = .error e) :
    issue i uses s body = .next (stopped s cx e) := by
  unfold issue
  rw [hc]
  simp only [hg]

/-- Whether an instruction stops as the conditions of issue for what it names say. -/
def Stops (i : Instr) : Prop :=
  ∀ s cx e, current s = some cx → gate s i cx (usesOf s cx i) = .error e → exec i s = .next (stopped s cx e)

theorem stops_add (d : Reg) (a : Reg) (b : Reg) : Stops (.add d a b) := by
  intro s cx e hc hg
  show execAdd d a b s = _
  unfold execAdd compute
  refine issue_stopped hc ?_
  exact hg

theorem stops_sub (d : Reg) (a : Reg) (b : Reg) : Stops (.sub d a b) := by
  intro s cx e hc hg
  show execSub d a b s = _
  unfold execSub compute
  refine issue_stopped hc ?_
  exact hg

theorem stops_and (d : Reg) (a : Reg) (b : Reg) : Stops (.and d a b) := by
  intro s cx e hc hg
  show execAnd d a b s = _
  unfold execAnd compute
  refine issue_stopped hc ?_
  exact hg

theorem stops_or (d : Reg) (a : Reg) (b : Reg) : Stops (.or d a b) := by
  intro s cx e hc hg
  show execOr d a b s = _
  unfold execOr compute
  refine issue_stopped hc ?_
  exact hg

theorem stops_xor (d : Reg) (a : Reg) (b : Reg) : Stops (.xor d a b) := by
  intro s cx e hc hg
  show execXor d a b s = _
  unfold execXor compute
  refine issue_stopped hc ?_
  exact hg

theorem stops_andn (d : Reg) (a : Reg) (b : Reg) : Stops (.andn d a b) := by
  intro s cx e hc hg
  show execAndn d a b s = _
  unfold execAndn compute
  refine issue_stopped hc ?_
  exact hg

theorem stops_sll (d : Reg) (a : Reg) (b : Reg) : Stops (.sll d a b) := by
  intro s cx e hc hg
  show execSll d a b s = _
  unfold execSll compute
  refine issue_stopped hc ?_
  exact hg

theorem stops_srl (d : Reg) (a : Reg) (b : Reg) : Stops (.srl d a b) := by
  intro s cx e hc hg
  show execSrl d a b s = _
  unfold execSrl compute
  refine issue_stopped hc ?_
  exact hg

theorem stops_sra (d : Reg) (a : Reg) (b : Reg) : Stops (.sra d a b) := by
  intro s cx e hc hg
  show execSra d a b s = _
  unfold execSra compute
  refine issue_stopped hc ?_
  exact hg

theorem stops_rol (d : Reg) (a : Reg) (b : Reg) : Stops (.rol d a b) := by
  intro s cx e hc hg
  show execRol d a b s = _
  unfold execRol compute
  refine issue_stopped hc ?_
  exact hg

theorem stops_min (d : Reg) (a : Reg) (b : Reg) : Stops (.min d a b) := by
  intro s cx e hc hg
  show execMin d a b s = _
  unfold execMin compute
  refine issue_stopped hc ?_
  exact hg

theorem stops_max (d : Reg) (a : Reg) (b : Reg) : Stops (.max d a b) := by
  intro s cx e hc hg
  show execMax d a b s = _
  unfold execMax compute
  refine issue_stopped hc ?_
  exact hg

theorem stops_minw (d : Reg) (a : Reg) (b : Reg) : Stops (.minw d a b) := by
  intro s cx e hc hg
  show execMinw d a b s = _
  unfold execMinw compute
  refine issue_stopped hc ?_
  exact hg

theorem stops_maxw (d : Reg) (a : Reg) (b : Reg) : Stops (.maxw d a b) := by
  intro s cx e hc hg
  show execMaxw d a b s = _
  unfold execMaxw compute
  refine issue_stopped hc ?_
  exact hg

theorem stops_mul (d : Reg) (a : Reg) (b : Reg) : Stops (.mul d a b) := by
  intro s cx e hc hg
  show execMul d a b s = _
  unfold execMul compute
  refine issue_stopped hc ?_
  exact hg

theorem stops_mulhs (d : Reg) (a : Reg) (b : Reg) : Stops (.mulhs d a b) := by
  intro s cx e hc hg
  show execMulhs d a b s = _
  unfold execMulhs compute
  refine issue_stopped hc ?_
  exact hg

theorem stops_mulhw (d : Reg) (a : Reg) (b : Reg) : Stops (.mulhw d a b) := by
  intro s cx e hc hg
  show execMulhw d a b s = _
  unfold execMulhw compute
  refine issue_stopped hc ?_
  exact hg

theorem stops_div (d : Reg) (a : Reg) (b : Reg) : Stops (.div d a b) := by
  intro s cx e hc hg
  show execDiv d a b s = _
  unfold execDiv compute
  refine issue_stopped hc ?_
  exact hg

theorem stops_divw (d : Reg) (a : Reg) (b : Reg) : Stops (.divw d a b) := by
  intro s cx e hc hg
  show execDivw d a b s = _
  unfold execDivw compute
  refine issue_stopped hc ?_
  exact hg

theorem stops_rem (d : Reg) (a : Reg) (b : Reg) : Stops (.rem d a b) := by
  intro s cx e hc hg
  show execRem d a b s = _
  unfold execRem compute
  refine issue_stopped hc ?_
  exact hg

theorem stops_remw (d : Reg) (a : Reg) (b : Reg) : Stops (.remw d a b) := by
  intro s cx e hc hg
  show execRemw d a b s = _
  unfold execRemw compute
  refine issue_stopped hc ?_
  exact hg

theorem stops_clz (d : Reg) (a : Reg) : Stops (.clz d a) := by
  intro s cx e hc hg
  show execClz d a s = _
  unfold execClz compute
  refine issue_stopped hc ?_
  exact hg

theorem stops_ctz (d : Reg) (a : Reg) : Stops (.ctz d a) := by
  intro s cx e hc hg
  show execCtz d a s = _
  unfold execCtz compute
  refine issue_stopped hc ?_
  exact hg

theorem stops_popc (d : Reg) (a : Reg) : Stops (.popc d a) := by
  intro s cx e hc hg
  show execPopc d a s = _
  unfold execPopc compute
  refine issue_stopped hc ?_
  exact hg

theorem stops_bext (d : Reg) (a : Reg) (b : Reg) : Stops (.bext d a b) := by
  intro s cx e hc hg
  show execBext d a b s = _
  unfold execBext compute
  refine issue_stopped hc ?_
  exact hg

theorem stops_bdep (d : Reg) (a : Reg) (b : Reg) : Stops (.bdep d a b) := by
  intro s cx e hc hg
  show execBdep d a b s = _
  unfold execBdep compute
  refine issue_stopped hc ?_
  exact hg

theorem stops_mov (d : Reg) (a : Reg) : Stops (.mov d a) := by
  intro s cx e hc hg
  show execMov d a s = _
  unfold execMov compute
  refine issue_stopped hc ?_
  exact hg

theorem stops_sext (d : Reg) (a : Reg) (n : BitVec 6) : Stops (.sext d a n) := by
  intro s cx e hc hg
  show execSext d a n s = _
  unfold execSext compute
  refine issue_stopped hc ?_
  exact hg

theorem stops_zext (d : Reg) (a : Reg) (n : BitVec 6) : Stops (.zext d a n) := by
  intro s cx e hc hg
  show execZext d a n s = _
  unfold execZext compute
  refine issue_stopped hc ?_
  exact hg

theorem stops_seq (d : Reg) (a : Reg) (b : Reg) : Stops (.seq d a b) := by
  intro s cx e hc hg
  show execSeq d a b s = _
  unfold execSeq compute
  refine issue_stopped hc ?_
  exact hg

theorem stops_sne (d : Reg) (a : Reg) (b : Reg) : Stops (.sne d a b) := by
  intro s cx e hc hg
  show execSne d a b s = _
  unfold execSne compute
  refine issue_stopped hc ?_
  exact hg

theorem stops_slt (d : Reg) (a : Reg) (b : Reg) : Stops (.slt d a b) := by
  intro s cx e hc hg
  show execSlt d a b s = _
  unfold execSlt compute
  refine issue_stopped hc ?_
  exact hg

theorem stops_sge (d : Reg) (a : Reg) (b : Reg) : Stops (.sge d a b) := by
  intro s cx e hc hg
  show execSge d a b s = _
  unfold execSge compute
  refine issue_stopped hc ?_
  exact hg

theorem stops_sltw (d : Reg) (a : Reg) (b : Reg) : Stops (.sltw d a b) := by
  intro s cx e hc hg
  show execSltw d a b s = _
  unfold execSltw compute
  refine issue_stopped hc ?_
  exact hg

theorem stops_sgew (d : Reg) (a : Reg) (b : Reg) : Stops (.sgew d a b) := by
  intro s cx e hc hg
  show execSgew d a b s = _
  unfold execSgew compute
  refine issue_stopped hc ?_
  exact hg

theorem stops_addi (d : Reg) (a : Reg) (k : BitVec 22) : Stops (.addi d a k) := by
  intro s cx e hc hg
  show execAddi d a k s = _
  unfold execAddi compute
  refine issue_stopped hc ?_
  exact hg

theorem stops_andi (d : Reg) (a : Reg) (k : BitVec 22) : Stops (.andi d a k) := by
  intro s cx e hc hg
  show execAndi d a k s = _
  unfold execAndi compute
  refine issue_stopped hc ?_
  exact hg

theorem stops_ori (d : Reg) (a : Reg) (k : BitVec 22) : Stops (.ori d a k) := by
  intro s cx e hc hg
  show execOri d a k s = _
  unfold execOri compute
  refine issue_stopped hc ?_
  exact hg

theorem stops_xori (d : Reg) (a : Reg) (k : BitVec 22) : Stops (.xori d a k) := by
  intro s cx e hc hg
  show execXori d a k s = _
  unfold execXori compute
  refine issue_stopped hc ?_
  exact hg

theorem stops_slli (d : Reg) (a : Reg) (k : BitVec 22) : Stops (.slli d a k) := by
  intro s cx e hc hg
  show execSlli d a k s = _
  unfold execSlli compute
  refine issue_stopped hc ?_
  exact hg

theorem stops_srli (d : Reg) (a : Reg) (k : BitVec 22) : Stops (.srli d a k) := by
  intro s cx e hc hg
  show execSrli d a k s = _
  unfold execSrli compute
  refine issue_stopped hc ?_
  exact hg

theorem stops_srai (d : Reg) (a : Reg) (k : BitVec 22) : Stops (.srai d a k) := by
  intro s cx e hc hg
  show execSrai d a k s = _
  unfold execSrai compute
  refine issue_stopped hc ?_
  exact hg

theorem stops_roli (d : Reg) (a : Reg) (k : BitVec 22) : Stops (.roli d a k) := by
  intro s cx e hc hg
  show execRoli d a k s = _
  unfold execRoli compute
  refine issue_stopped hc ?_
  exact hg

theorem stops_mini (d : Reg) (a : Reg) (k : BitVec 22) : Stops (.mini d a k) := by
  intro s cx e hc hg
  show execMini d a k s = _
  unfold execMini compute
  refine issue_stopped hc ?_
  exact hg

theorem stops_maxi (d : Reg) (a : Reg) (k : BitVec 22) : Stops (.maxi d a k) := by
  intro s cx e hc hg
  show execMaxi d a k s = _
  unfold execMaxi compute
  refine issue_stopped hc ?_
  exact hg

theorem stops_slti (d : Reg) (a : Reg) (k : BitVec 22) : Stops (.slti d a k) := by
  intro s cx e hc hg
  show execSlti d a k s = _
  unfold execSlti compute
  refine issue_stopped hc ?_
  exact hg

theorem stops_seqi (d : Reg) (a : Reg) (k : BitVec 22) : Stops (.seqi d a k) := by
  intro s cx e hc hg
  show execSeqi d a k s = _
  unfold execSeqi compute
  refine issue_stopped hc ?_
  exact hg

theorem stops_li (d : Reg) (k : BitVec 22) : Stops (.li d k) := by
  intro s cx e hc hg
  show execLi d k s = _
  unfold execLi compute
  refine issue_stopped hc ?_
  exact hg

theorem stops_li32 (d : Reg) (k : BitVec 32) : Stops (.li32 d k) := by
  intro s cx e hc hg
  show execLi32 d k s = _
  unfold execLi32 compute
  refine issue_stopped hc ?_
  exact hg

theorem stops_lih (d : Reg) (a : Reg) (k : BitVec 32) : Stops (.lih d a k) := by
  intro s cx e hc hg
  show execLih d a k s = _
  unfold execLih compute
  refine issue_stopped hc ?_
  exact hg

theorem stops_lea (d : Reg) (m : MemRef) : Stops (.lea d m) := by
  intro s cx e hc hg
  show execLea d m s = _
  unfold execLea compute
  refine issue_stopped hc ?_
  exact hg

theorem stops_sel (d : Reg) (c : Reg) (a : Reg) (b : Reg) : Stops (.sel d c a b) := by
  intro s cx e hc hg
  show execSel d c a b s = _
  unfold execSel compute
  refine issue_stopped hc ?_
  exact hg

theorem stops_beq (a : Reg) (hint : Bool) (b : Reg) (off : BitVec 21) (head : BitVec 5) : Stops (.beq a hint b off head) := by
  intro s cx e hc hg
  show execBeq a hint b off head s = _
  unfold execBeq branch
  refine issue_stopped hc ?_
  exact hg

theorem stops_bne (a : Reg) (hint : Bool) (b : Reg) (off : BitVec 21) (head : BitVec 5) : Stops (.bne a hint b off head) := by
  intro s cx e hc hg
  show execBne a hint b off head s = _
  unfold execBne branch
  refine issue_stopped hc ?_
  exact hg

theorem stops_blt (a : Reg) (hint : Bool) (b : Reg) (off : BitVec 21) (head : BitVec 5) : Stops (.blt a hint b off head) := by
  intro s cx e hc hg
  show execBlt a hint b off head s = _
  unfold execBlt branch
  refine issue_stopped hc ?_
  exact hg

theorem stops_bge (a : Reg) (hint : Bool) (b : Reg) (off : BitVec 21) (head : BitVec 5) : Stops (.bge a hint b off head) := by
  intro s cx e hc hg
  show execBge a hint b off head s = _
  unfold execBge branch
  refine issue_stopped hc ?_
  exact hg

theorem stops_bltw (a : Reg) (hint : Bool) (b : Reg) (off : BitVec 21) (head : BitVec 5) : Stops (.bltw a hint b off head) := by
  intro s cx e hc hg
  show execBltw a hint b off head s = _
  unfold execBltw branch
  refine issue_stopped hc ?_
  exact hg

theorem stops_bgew (a : Reg) (hint : Bool) (b : Reg) (off : BitVec 21) (head : BitVec 5) : Stops (.bgew a hint b off head) := by
  intro s cx e hc hg
  show execBgew a hint b off head s = _
  unfold execBgew branch
  refine issue_stopped hc ?_
  exact hg

theorem stops_bbs (a : Reg) (hint : Bool) (bit : BitVec 6) (off : BitVec 21) (head : BitVec 5) : Stops (.bbs a hint bit off head) := by
  intro s cx e hc hg
  show execBbs a hint bit off head s = _
  unfold execBbs branch
  refine issue_stopped hc ?_
  exact hg

theorem stops_bbc (a : Reg) (hint : Bool) (bit : BitVec 6) (off : BitVec 21) (head : BitVec 5) : Stops (.bbc a hint bit off head) := by
  intro s cx e hc hg
  show execBbc a hint bit off head s = _
  unfold execBbc branch
  refine issue_stopped hc ?_
  exact hg

theorem stops_bz (a : Reg) (hint : Bool) (off : BitVec 21) (head : BitVec 5) : Stops (.bz a hint off head) := by
  intro s cx e hc hg
  show execBz a hint off head s = _
  unfold execBz branch
  refine issue_stopped hc ?_
  exact hg

theorem stops_bnz (a : Reg) (hint : Bool) (off : BitVec 21) (head : BitVec 5) : Stops (.bnz a hint off head) := by
  intro s cx e hc hg
  show execBnz a hint off head s = _
  unfold execBnz branch
  refine issue_stopped hc ?_
  exact hg

theorem stops_jmp (off : BitVec 27) (head : BitVec 5) : Stops (.jmp off head) := by
  intro s cx e hc hg
  show execJmp off head s = _
  unfold execJmp
  refine issue_stopped hc ?_
  exact hg

theorem stops_jal (d : Reg) (off : BitVec 27) (head : BitVec 5) : Stops (.jal d off head) := by
  intro s cx e hc hg
  show execJal d off head s = _
  unfold execJal
  refine issue_stopped hc ?_
  exact hg

theorem stops_jr (a : Reg) : Stops (.jr a) := by
  intro s cx e hc hg
  show execJr a s = _
  unfold execJr
  refine issue_stopped hc ?_
  exact hg

theorem stops_ret (a : Reg) : Stops (.ret a) := by
  intro s cx e hc hg
  show execRet a s = _
  unfold execRet
  refine issue_stopped hc ?_
  exact hg

theorem stops_loop (s : Reg) (off : BitVec 21) (head : BitVec 5) : Stops (.loop s off head) := by
  intro σ cx e hc hg
  show execLoop s off head σ = _
  unfold execLoop
  refine issue_stopped hc ?_
  exact hg

theorem stops_vadd (vd : VReg) (va : VReg) (vb : VReg) (m : Reg) (t : ElemTy) (rm : Rnd) : Stops (.vadd vd va vb m t rm) := by
  intro s cx e hc hg
  show execVadd vd va vb m t rm s = _
  unfold execVadd lanes2 vectorOp
  refine issue_stopped hc ?_
  exact hg

theorem stops_vsub (vd : VReg) (va : VReg) (vb : VReg) (m : Reg) (t : ElemTy) (rm : Rnd) : Stops (.vsub vd va vb m t rm) := by
  intro s cx e hc hg
  show execVsub vd va vb m t rm s = _
  unfold execVsub lanes2 vectorOp
  refine issue_stopped hc ?_
  exact hg

theorem stops_vmul (vd : VReg) (va : VReg) (vb : VReg) (m : Reg) (t : ElemTy) (rm : Rnd) : Stops (.vmul vd va vb m t rm) := by
  intro s cx e hc hg
  show execVmul vd va vb m t rm s = _
  unfold execVmul lanes2 vectorOp
  refine issue_stopped hc ?_
  exact hg

theorem stops_vmin (vd : VReg) (va : VReg) (vb : VReg) (m : Reg) (t : ElemTy) : Stops (.vmin vd va vb m t) := by
  intro s cx e hc hg
  show execVmin vd va vb m t s = _
  unfold execVmin lanes2 vectorOp
  refine issue_stopped hc ?_
  exact hg

theorem stops_vmax (vd : VReg) (va : VReg) (vb : VReg) (m : Reg) (t : ElemTy) : Stops (.vmax vd va vb m t) := by
  intro s cx e hc hg
  show execVmax vd va vb m t s = _
  unfold execVmax lanes2 vectorOp
  refine issue_stopped hc ?_
  exact hg

theorem stops_vadds (vd : VReg) (va : VReg) (vb : VReg) (m : Reg) (t : ElemTy) : Stops (.vadds vd va vb m t) := by
  intro s cx e hc hg
  show execVadds vd va vb m t s = _
  unfold execVadds lanes2 vectorOp
  refine issue_stopped hc ?_
  exact hg

theorem stops_vsubs (vd : VReg) (va : VReg) (vb : VReg) (m : Reg) (t : ElemTy) : Stops (.vsubs vd va vb m t) := by
  intro s cx e hc hg
  show execVsubs vd va vb m t s = _
  unfold execVsubs lanes2 vectorOp
  refine issue_stopped hc ?_
  exact hg

theorem stops_vabs (vd : VReg) (va : VReg) (m : Reg) (t : ElemTy) : Stops (.vabs vd va m t) := by
  intro s cx e hc hg
  show execVabs vd va m t s = _
  unfold execVabs lanes1 vectorOp
  refine issue_stopped hc ?_
  exact hg

theorem stops_vneg (vd : VReg) (va : VReg) (m : Reg) (t : ElemTy) : Stops (.vneg vd va m t) := by
  intro s cx e hc hg
  show execVneg vd va m t s = _
  unfold execVneg lanes1 vectorOp
  refine issue_stopped hc ?_
  exact hg

theorem stops_vfma (vd : VReg) (va : VReg) (vb : VReg) (vc : VReg) (m : Reg) (t : ElemTy) (rm : Rnd) : Stops (.vfma vd va vb vc m t rm) := by
  intro s cx e hc hg
  show execVfma vd va vb vc m t rm s = _
  unfold execVfma lanes3 vectorOp
  refine issue_stopped hc ?_
  exact hg

theorem stops_vfms (vd : VReg) (va : VReg) (vb : VReg) (vc : VReg) (m : Reg) (t : ElemTy) (rm : Rnd) : Stops (.vfms vd va vb vc m t rm) := by
  intro s cx e hc hg
  show execVfms vd va vb vc m t rm s = _
  unfold execVfms lanes3 vectorOp
  refine issue_stopped hc ?_
  exact hg

theorem stops_vand (vd : VReg) (va : VReg) (vb : VReg) (m : Reg) (t : ElemTy) : Stops (.vand vd va vb m t) := by
  intro s cx e hc hg
  show execVand vd va vb m t s = _
  unfold execVand lanes2 vectorOp
  refine issue_stopped hc ?_
  exact hg

theorem stops_vor (vd : VReg) (va : VReg) (vb : VReg) (m : Reg) (t : ElemTy) : Stops (.vor vd va vb m t) := by
  intro s cx e hc hg
  show execVor vd va vb m t s = _
  unfold execVor lanes2 vectorOp
  refine issue_stopped hc ?_
  exact hg

theorem stops_vxor (vd : VReg) (va : VReg) (vb : VReg) (m : Reg) (t : ElemTy) : Stops (.vxor vd va vb m t) := by
  intro s cx e hc hg
  show execVxor vd va vb m t s = _
  unfold execVxor lanes2 vectorOp
  refine issue_stopped hc ?_
  exact hg

theorem stops_vandn (vd : VReg) (va : VReg) (vb : VReg) (m : Reg) (t : ElemTy) : Stops (.vandn vd va vb m t) := by
  intro s cx e hc hg
  show execVandn vd va vb m t s = _
  unfold execVandn lanes2 vectorOp
  refine issue_stopped hc ?_
  exact hg

theorem stops_vsll (vd : VReg) (va : VReg) (vb : VReg) (m : Reg) (t : ElemTy) : Stops (.vsll vd va vb m t) := by
  intro s cx e hc hg
  show execVsll vd va vb m t s = _
  unfold execVsll lanes2 vectorOp
  refine issue_stopped hc ?_
  exact hg

theorem stops_vsrl (vd : VReg) (va : VReg) (vb : VReg) (m : Reg) (t : ElemTy) : Stops (.vsrl vd va vb m t) := by
  intro s cx e hc hg
  show execVsrl vd va vb m t s = _
  unfold execVsrl lanes2 vectorOp
  refine issue_stopped hc ?_
  exact hg

theorem stops_vsra (vd : VReg) (va : VReg) (vb : VReg) (m : Reg) (t : ElemTy) : Stops (.vsra vd va vb m t) := by
  intro s cx e hc hg
  show execVsra vd va vb m t s = _
  unfold execVsra lanes2 vectorOp
  refine issue_stopped hc ?_
  exact hg

theorem stops_vcmpeq (d : Reg) (va : VReg) (vb : VReg) (m : Reg) (t : ElemTy) : Stops (.vcmpeq d va vb m t) := by
  intro s cx e hc hg
  show execVcmpeq d va vb m t s = _
  unfold execVcmpeq Machine.compare scalarOp
  refine issue_stopped hc ?_
  exact hg

theorem stops_vcmpne (d : Reg) (va : VReg) (vb : VReg) (m : Reg) (t : ElemTy) : Stops (.vcmpne d va vb m t) := by
  intro s cx e hc hg
  show execVcmpne d va vb m t s = _
  unfold execVcmpne Machine.compare scalarOp
  refine issue_stopped hc ?_
  exact hg

theorem stops_vcmplt (d : Reg) (va : VReg) (vb : VReg) (m : Reg) (t : ElemTy) : Stops (.vcmplt d va vb m t) := by
  intro s cx e hc hg
  show execVcmplt d va vb m t s = _
  unfold execVcmplt Machine.compare scalarOp
  refine issue_stopped hc ?_
  exact hg

theorem stops_vcmple (d : Reg) (va : VReg) (vb : VReg) (m : Reg) (t : ElemTy) : Stops (.vcmple d va vb m t) := by
  intro s cx e hc hg
  show execVcmple d va vb m t s = _
  unfold execVcmple Machine.compare scalarOp
  refine issue_stopped hc ?_
  exact hg

theorem stops_vcmpgt (d : Reg) (va : VReg) (vb : VReg) (m : Reg) (t : ElemTy) : Stops (.vcmpgt d va vb m t) := by
  intro s cx e hc hg
  show execVcmpgt d va vb m t s = _
  unfold execVcmpgt Machine.compare scalarOp
  refine issue_stopped hc ?_
  exact hg

theorem stops_vcmpge (d : Reg) (va : VReg) (vb : VReg) (m : Reg) (t : ElemTy) : Stops (.vcmpge d va vb m t) := by
  intro s cx e hc hg
  show execVcmpge d va vb m t s = _
  unfold execVcmpge Machine.compare scalarOp
  refine issue_stopped hc ?_
  exact hg

theorem stops_vcmpun (d : Reg) (va : VReg) (vb : VReg) (m : Reg) (t : ElemTy) : Stops (.vcmpun d va vb m t) := by
  intro s cx e hc hg
  show execVcmpun d va vb m t s = _
  unfold execVcmpun Machine.compare scalarOp
  refine issue_stopped hc ?_
  exact hg

theorem stops_vsel (vd : VReg) (va : VReg) (vb : VReg) (m : Reg) (t : ElemTy) : Stops (.vsel vd va vb m t) := by
  intro s cx e hc hg
  show execVsel vd va vb m t s = _
  unfold execVsel vectorOp
  refine issue_stopped hc ?_
  exact hg

theorem stops_vmov (vd : VReg) (va : VReg) (m : Reg) (t : ElemTy) : Stops (.vmov vd va m t) := by
  intro s cx e hc hg
  show execVmov vd va m t s = _
  unfold execVmov lanes1 vectorOp
  refine issue_stopped hc ?_
  exact hg

theorem stops_vbcast (vd : VReg) (xs : Reg) (m : Reg) (t : ElemTy) : Stops (.vbcast vd xs m t) := by
  intro s cx e hc hg
  show execVbcast vd xs m t s = _
  unfold execVbcast vectorOp
  refine issue_stopped hc ?_
  exact hg

theorem stops_vextr (d : Reg) (va : VReg) (xi : Reg) (t : ElemTy) : Stops (.vextr d va xi t) := by
  intro s cx e hc hg
  show execVextr d va xi t s = _
  unfold execVextr scalarOp
  refine issue_stopped hc ?_
  exact hg

theorem stops_vins (vd : VReg) (xs : Reg) (xi : Reg) (t : ElemTy) : Stops (.vins vd xs xi t) := by
  intro s cx e hc hg
  show execVins vd xs xi t s = _
  unfold execVins vectorOp
  refine issue_stopped hc ?_
  exact hg

theorem stops_vperm (vd : VReg) (va : VReg) (vb : VReg) (m : Reg) (t : ElemTy) : Stops (.vperm vd va vb m t) := by
  intro s cx e hc hg
  show execVperm vd va vb m t s = _
  unfold execVperm vectorOp
  refine issue_stopped hc ?_
  exact hg

theorem stops_vcompress (vd : VReg) (va : VReg) (m : Reg) (t : ElemTy) : Stops (.vcompress vd va m t) := by
  intro s cx e hc hg
  show execVcompress vd va m t s = _
  unfold execVcompress vectorOp
  refine issue_stopped hc ?_
  exact hg

theorem stops_vexpand (vd : VReg) (va : VReg) (m : Reg) (t : ElemTy) : Stops (.vexpand vd va m t) := by
  intro s cx e hc hg
  show execVexpand vd va m t s = _
  unfold execVexpand vectorOp
  refine issue_stopped hc ?_
  exact hg

theorem stops_vredsum (d : Reg) (va : VReg) (m : Reg) (t : ElemTy) (rm : Rnd) : Stops (.vredsum d va m t rm) := by
  intro s cx e hc hg
  show execVredsum d va m t rm s = _
  unfold execVredsum reduce scalarOp
  refine issue_stopped hc ?_
  exact hg

theorem stops_vredmax (d : Reg) (va : VReg) (m : Reg) (t : ElemTy) : Stops (.vredmax d va m t) := by
  intro s cx e hc hg
  show execVredmax d va m t s = _
  unfold execVredmax reduce scalarOp
  refine issue_stopped hc ?_
  exact hg

theorem stops_vredmin (d : Reg) (va : VReg) (m : Reg) (t : ElemTy) : Stops (.vredmin d va m t) := by
  intro s cx e hc hg
  show execVredmin d va m t s = _
  unfold execVredmin reduce scalarOp
  refine issue_stopped hc ?_
  exact hg

theorem stops_vamax (d : Reg) (va : VReg) (m : Reg) (t : ElemTy) : Stops (.vamax d va m t) := by
  intro s cx e hc hg
  show execVamax d va m t s = _
  unfold execVamax reduce scalarOp
  refine issue_stopped hc ?_
  exact hg

theorem stops_vscan (vd : VReg) (va : VReg) (m : Reg) (t : ElemTy) (rm : Rnd) (op : BitVec 2) : Stops (.vscan vd va m t rm op) := by
  intro s cx e hc hg
  show execVscan vd va m t rm op s = _
  unfold execVscan vectorOp
  refine issue_stopped hc ?_
  exact hg

theorem stops_vdiv (vd : VReg) (va : VReg) (vb : VReg) (m : Reg) (t : ElemTy) (rm : Rnd) : Stops (.vdiv vd va vb m t rm) := by
  intro s cx e hc hg
  show execVdiv vd va vb m t rm s = _
  unfold execVdiv lanes2 vectorOp
  refine issue_stopped hc ?_
  exact hg

theorem stops_vsqrt (vd : VReg) (va : VReg) (m : Reg) (t : ElemTy) (rm : Rnd) : Stops (.vsqrt vd va m t rm) := by
  intro s cx e hc hg
  show execVsqrt vd va m t rm s = _
  unfold execVsqrt lanes1 vectorOp
  refine issue_stopped hc ?_
  exact hg

theorem stops_vrsq (vd : VReg) (va : VReg) (m : Reg) (t : ElemTy) (rm : Rnd) : Stops (.vrsq vd va m t rm) := by
  intro s cx e hc hg
  show execVrsq vd va m t rm s = _
  unfold execVrsq lanes1 vectorOp
  refine issue_stopped hc ?_
  exact hg

theorem stops_vrcp (vd : VReg) (va : VReg) (m : Reg) (t : ElemTy) (rm : Rnd) : Stops (.vrcp vd va m t rm) := by
  intro s cx e hc hg
  show execVrcp vd va m t rm s = _
  unfold execVrcp lanes1 vectorOp
  refine issue_stopped hc ?_
  exact hg

theorem stops_vexp2 (vd : VReg) (va : VReg) (m : Reg) (t : ElemTy) (rm : Rnd) : Stops (.vexp2 vd va m t rm) := by
  intro s cx e hc hg
  show execVexp2 vd va m t rm s = _
  unfold execVexp2 lanes1 vectorOp
  refine issue_stopped hc ?_
  exact hg

theorem stops_vlog2 (vd : VReg) (va : VReg) (m : Reg) (t : ElemTy) (rm : Rnd) : Stops (.vlog2 vd va m t rm) := by
  intro s cx e hc hg
  show execVlog2 vd va m t rm s = _
  unfold execVlog2 lanes1 vectorOp
  refine issue_stopped hc ?_
  exact hg

theorem stops_vcvt (vd : VReg) (va : VReg) (m : Reg) (t : ElemTy) (rm : Rnd) (st : ElemTy) (part : BitVec 4) (sat : Bool) : Stops (.vcvt vd va m t rm st part sat) := by
  intro s cx e hc hg
  show execVcvt vd va m t rm st part sat s = _
  unfold execVcvt vectorOp
  refine issue_stopped hc ?_
  exact hg

theorem stops_vpackmx (vd : VReg) (va : VReg) (xs : Reg) (m : Reg) (t : ElemTy) (rm : Rnd) (st : ElemTy) (part : BitVec 4) (sat : Bool) : Stops (.vpackmx vd va xs m t rm st part sat) := by
  intro s cx e hc hg
  show execVpackmx vd va xs m t rm st part sat s = _
  unfold execVpackmx vectorOp
  refine issue_stopped hc ?_
  exact hg

theorem stops_vunpackmx (vd : VReg) (va : VReg) (xs : Reg) (m : Reg) (t : ElemTy) (rm : Rnd) (st : ElemTy) (part : BitVec 4) : Stops (.vunpackmx vd va xs m t rm st part) := by
  intro s cx e hc hg
  show execVunpackmx vd va xs m t rm st part s = _
  unfold execVunpackmx vectorOp
  refine issue_stopped hc ?_
  exact hg

theorem stops_vnzx (qi : Reg) (va : VReg) (qv : Reg) (xb : Reg) (m : Reg) (t : ElemTy) : Stops (.vnzx qi va qv xb m t) := by
  intro s cx e hc hg
  show execVnzx qi va qv xb m t s = _
  unfold execVnzx
  refine issue_stopped hc ?_
  exact hg

theorem stops_load (d : Reg) (m : MemRef) (sz : BitVec 2) : Stops (.load d m sz) := by
  intro s cx e hc hg
  show execLoad d m sz s = _
  unfold execLoad
  refine issue_stopped hc ?_
  exact hg

theorem stops_loadSigned (d : Reg) (m : MemRef) (sz : BitVec 2) : Stops (.loadSigned d m sz) := by
  intro s cx e hc hg
  show execLoadSigned d m sz s = _
  unfold execLoadSigned
  refine issue_stopped hc ?_
  exact hg

theorem stops_lda (d : Reg) (m : MemRef) (scope : Scope) (sz : BitVec 2) : Stops (.lda d m scope sz) := by
  intro s cx e hc hg
  show execLda d m scope sz s = _
  unfold execLda
  refine issue_stopped hc ?_
  exact hg

theorem stops_store (s : Reg) (m : MemRef) (sz : BitVec 2) : Stops (.store s m sz) := by
  intro σ cx e hc hg
  show execStore s m sz σ = _
  unfold execStore
  refine issue_stopped hc ?_
  exact hg

theorem stops_stl (s : Reg) (m : MemRef) (scope : Scope) (sz : BitVec 2) : Stops (.stl s m scope sz) := by
  intro σ cx e hc hg
  show execStl s m scope sz σ = _
  unfold execStl
  refine issue_stopped hc ?_
  exact hg

theorem stops_ldv (v : VReg) (m : MemRef) : Stops (.ldv v m) := by
  intro s cx e hc hg
  show execLdv v m s = _
  unfold execLdv
  refine issue_stopped hc ?_
  exact hg

theorem stops_stv (v : VReg) (m : MemRef) : Stops (.stv v m) := by
  intro s cx e hc hg
  show execStv v m s = _
  unfold execStv
  refine issue_stopped hc ?_
  exact hg

theorem stops_ldvs (v : VReg) (base : Reg) (stride : Reg) (m : Reg) (t : ElemTy) : Stops (.ldvs v base stride m t) := by
  intro s cx e hc hg
  show execLdvs v base stride m t s = _
  unfold execLdvs
  refine issue_stopped hc ?_
  exact hg

theorem stops_stvs (v : VReg) (base : Reg) (stride : Reg) (m : Reg) (t : ElemTy) : Stops (.stvs v base stride m t) := by
  intro s cx e hc hg
  show execStvs v base stride m t s = _
  unfold execStvs
  refine issue_stopped hc ?_
  exact hg

theorem stops_ldvx (v : VReg) (base : Reg) (vi : VReg) (m : Reg) (t : ElemTy) (sc : BitVec 2) : Stops (.ldvx v base vi m t sc) := by
  intro s cx e hc hg
  show execLdvx v base vi m t sc s = _
  unfold execLdvx
  refine issue_stopped hc ?_
  exact hg

theorem stops_stvx (v : VReg) (base : Reg) (vi : VReg) (m : Reg) (t : ElemTy) (sc : BitVec 2) : Stops (.stvx v base vi m t sc) := by
  intro s cx e hc hg
  show execStvx v base vi m t sc s = _
  unfold execStvx
  refine issue_stopped hc ?_
  exact hg

theorem stops_sld (d : Reg) (signed : Bool) (m : MemRef) (swz : BitVec 2) (sz : BitVec 2) : Stops (.sld d signed m swz sz) := by
  intro s cx e hc hg
  show execSld d signed m swz sz s = _
  unfold execSld
  refine issue_stopped hc ?_
  exact hg

theorem stops_sldRec (d : Reg) (signed : Bool) (m : MemRef) (sz : BitVec 2) : Stops (.sldRec d signed m sz) := by
  intro s cx e hc hg
  show execSldRec d signed m sz s = _
  unfold execSldRec
  refine issue_stopped hc ?_
  exact hg

theorem stops_sst (s : Reg) (m : MemRef) (swz : BitVec 2) (sz : BitVec 2) : Stops (.sst s m swz sz) := by
  intro σ cx e hc hg
  show execSst s m swz sz σ = _
  unfold execSst
  refine issue_stopped hc ?_
  exact hg

theorem stops_sldv (v : VReg) (m : MemRef) (swz : BitVec 2) : Stops (.sldv v m swz) := by
  intro s cx e hc hg
  show execSldv v m swz s = _
  unfold execSldv
  refine issue_stopped hc ?_
  exact hg

theorem stops_sstv (v : VReg) (m : MemRef) (swz : BitVec 2) : Stops (.sstv v m swz) := by
  intro s cx e hc hg
  show execSstv v m swz s = _
  unfold execSstv
  refine issue_stopped hc ?_
  exact hg

theorem stops_amoadd (d : Reg) (a : Reg) (b : Reg) (md : AmoMod) : Stops (.amoadd d a b md) := by
  intro s cx e hc hg
  show execAmoadd d a b md s = _
  unfold execAmoadd atomic
  refine issue_stopped hc ?_
  exact hg

theorem stops_amoand (d : Reg) (a : Reg) (b : Reg) (md : AmoMod) : Stops (.amoand d a b md) := by
  intro s cx e hc hg
  show execAmoand d a b md s = _
  unfold execAmoand atomic
  refine issue_stopped hc ?_
  exact hg

theorem stops_amoor (d : Reg) (a : Reg) (b : Reg) (md : AmoMod) : Stops (.amoor d a b md) := by
  intro s cx e hc hg
  show execAmoor d a b md s = _
  unfold execAmoor atomic
  refine issue_stopped hc ?_
  exact hg

theorem stops_amoxor (d : Reg) (a : Reg) (b : Reg) (md : AmoMod) : Stops (.amoxor d a b md) := by
  intro s cx e hc hg
  show execAmoxor d a b md s = _
  unfold execAmoxor atomic
  refine issue_stopped hc ?_
  exact hg

theorem stops_amomin (d : Reg) (a : Reg) (b : Reg) (md : AmoMod) : Stops (.amomin d a b md) := by
  intro s cx e hc hg
  show execAmomin d a b md s = _
  unfold execAmomin atomic
  refine issue_stopped hc ?_
  exact hg

theorem stops_amomax (d : Reg) (a : Reg) (b : Reg) (md : AmoMod) : Stops (.amomax d a b md) := by
  intro s cx e hc hg
  show execAmomax d a b md s = _
  unfold execAmomax atomic
  refine issue_stopped hc ?_
  exact hg

theorem stops_amominw (d : Reg) (a : Reg) (b : Reg) (md : AmoMod) : Stops (.amominw d a b md) := by
  intro s cx e hc hg
  show execAmominw d a b md s = _
  unfold execAmominw atomic
  refine issue_stopped hc ?_
  exact hg

theorem stops_amomaxw (d : Reg) (a : Reg) (b : Reg) (md : AmoMod) : Stops (.amomaxw d a b md) := by
  intro s cx e hc hg
  show execAmomaxw d a b md s = _
  unfold execAmomaxw atomic
  refine issue_stopped hc ?_
  exact hg

theorem stops_amoswap (d : Reg) (a : Reg) (b : Reg) (md : AmoMod) : Stops (.amoswap d a b md) := by
  intro s cx e hc hg
  show execAmoswap d a b md s = _
  unfold execAmoswap atomic
  refine issue_stopped hc ?_
  exact hg

theorem stops_amocas (d : Reg) (a : Reg) (b : Reg) (md : AmoMod) : Stops (.amocas d a b md) := by
  intro s cx e hc hg
  show execAmocas d a b md s = _
  unfold execAmocas atomic
  refine issue_stopped hc ?_
  exact hg

theorem stops_amofadd (d : Reg) (a : Reg) (b : Reg) (md : AmoMod) : Stops (.amofadd d a b md) := by
  intro s cx e hc hg
  show execAmofadd d a b md s = _
  unfold execAmofadd atomic
  refine issue_stopped hc ?_
  exact hg

theorem stops_fence (scope : Scope) (ord : Ord) : Stops (.fence scope ord) := by
  intro s cx e hc hg
  show execFence scope ord s = _
  unfold execFence
  refine issue_stopped hc ?_
  exact hg

theorem stops_pref (level : Bool) (m : MemRef) : Stops (.pref level m) := by
  intro s cx e hc hg
  show execPref level m s = _
  unfold execPref
  refine issue_stopped hc ?_
  exact hg

theorem stops_get (d : Reg) (a : Reg) (pkg : Reg) (ord : Ord) (scope : Scope) (sz : BitVec 2) : Stops (.get d a pkg ord scope sz) := by
  intro s cx e hc hg
  show execGet d a pkg ord scope sz s = _
  unfold execGet
  refine issue_stopped hc ?_
  exact hg

theorem stops_put (a : Reg) (v : Reg) (pkg : Reg) (ord : Ord) (scope : Scope) (sz : BitVec 2) : Stops (.put a v pkg ord scope sz) := by
  intro s cx e hc hg
  show execPut a v pkg ord scope sz s = _
  unfold execPut
  refine issue_stopped hc ?_
  exact hg

theorem stops_puts (a : Reg) (off : Reg) (pkg : Reg) (ord : Ord) (scope : Scope) (n : BitVec 3) : Stops (.puts a off pkg ord scope n) := by
  intro s cx e hc hg
  show execPuts a off pkg ord scope n s = _
  unfold execPuts
  refine issue_stopped hc ?_
  exact hg

theorem stops_ramo (d : Reg) (op : AmoOp) (a : Reg) (b : Reg) (pkg : Reg) (md : AmoMod) : Stops (.ramo d op a b pkg md) := by
  intro s cx e hc hg
  show execRamo d op a b pkg md s = _
  unfold execRamo
  refine issue_stopped hc ?_
  exact hg

theorem stops_amsg (dest : Reg) (a : Reg) (b : Reg) (c : Reg) (d : Reg) (scope : Scope) (cn : Option (BitVec 4)) : Stops (.amsg dest a b c d scope cn) := by
  intro s cx e hc hg
  show execAmsg dest a b c d scope cn s = _
  unfold execAmsg
  refine issue_stopped hc ?_
  exact hg

theorem stops_copy (st : Reg) (src : Reg) (dst : Reg) (len : Reg) (pkg : Reg) (scope : Scope) (spad : Bool) (cn : Option (BitVec 4)) : Stops (.copy st src dst len pkg scope spad cn) := by
  intro s cx e hc hg
  show execCopy st src dst len pkg scope spad cn s = _
  unfold execCopy
  refine issue_stopped hc ?_
  exact hg

theorem stops_send (st : Reg) (src : Reg) (len : Reg) (dest : Reg) (arr : Reg) (scope : Scope) (spad : Bool) (slab : Bool) (swz : BitVec 2) (cn : Option (BitVec 4)) : Stops (.send st src len dest arr scope spad slab swz cn) := by
  intro s cx e hc hg
  show execSend st src len dest arr scope spad slab swz cn s = _
  unfold execSend
  refine issue_stopped hc ?_
  exact hg

theorem stops_refs (st : Reg) (base : Reg) (qin : Reg) (qout : Reg) (ring : Reg) (row : Bool) (par : BitVec 12) (cn : Option (BitVec 4)) : Stops (.refs st base qin qout ring row par cn) := by
  intro s cx e hc hg
  show execRefs st base qin qout ring row par cn s = _
  unfold execRefs
  refine issue_stopped hc ?_
  exact hg

theorem stops_sread (st : Reg) (ns : Reg) (lba : Reg) (count : Reg) (mem : Reg) (cn : Option (BitVec 4)) : Stops (.sread st ns lba count mem cn) := by
  intro s cx e hc hg
  show execSread st ns lba count mem cn s = _
  unfold execSread
  refine issue_stopped hc ?_
  exact hg

theorem stops_swrite (st : Reg) (ns : Reg) (lba : Reg) (count : Reg) (mem : Reg) (cn : Option (BitVec 4)) : Stops (.swrite st ns lba count mem cn) := by
  intro s cx e hc hg
  show execSwrite st ns lba count mem cn s = _
  unfold execSwrite
  refine issue_stopped hc ?_
  exact hg

theorem stops_fship (st : Reg) (a : Reg) (op1 : Reg) (op2 : Reg) (res : Reg) (scope : Scope) (ord : Ord) (routine : BitVec 6) (cn : Option (BitVec 4)) : Stops (.fship st a op1 op2 res scope ord routine cn) := by
  intro s cx e hc hg
  show execFship st a op1 op2 res scope ord routine cn s = _
  unfold execFship
  refine issue_stopped hc ?_
  exact hg

theorem stops_ldc (d : Reg) (h : Reg) (c : Reg) (signed : Bool) : Stops (.ldc d h c signed) := by
  intro s cx e hc hg
  show execLdc d h c signed s = _
  unfold execLdc
  refine issue_stopped hc ?_
  exact hg

theorem stops_stc (s : Reg) (h : Reg) (c : Reg) : Stops (.stc s h c) := by
  intro σ cx e hc hg
  show execStc s h c σ = _
  unfold execStc
  refine issue_stopped hc ?_
  exact hg

theorem stops_ldcv (v : VReg) (h : Reg) (c : Reg) : Stops (.ldcv v h c) := by
  intro s cx e hc hg
  show execLdcv v h c s = _
  unfold execLdcv
  refine issue_stopped hc ?_
  exact hg

theorem stops_stcv (v : VReg) (h : Reg) (c : Reg) : Stops (.stcv v h c) := by
  intro s cx e hc hg
  show execStcv v h c s = _
  unfold execStcv
  refine issue_stopped hc ?_
  exact hg

theorem stops_cprobe (d : Reg) (h : Reg) (c : Reg) : Stops (.cprobe d h c) := by
  intro s cx e hc hg
  show execCprobe d h c s = _
  unfold execCprobe
  refine issue_stopped hc ?_
  exact hg

theorem stops_ctrim (h : Reg) (c : Reg) : Stops (.ctrim h c) := by
  intro s cx e hc hg
  show execCtrim h c s = _
  unfold execCtrim
  refine issue_stopped hc ?_
  exact hg

theorem stops_tcfg (a : Reg) (k : BitVec 6) : Stops (.tcfg a k) := by
  intro s cx e hc hg
  show execTcfg a k s = _
  unfold execTcfg
  refine issue_stopped hc ?_
  exact hg

theorem stops_tzero (acc : VReg) : Stops (.tzero acc) := by
  intro s cx e hc hg
  show execTzero acc s = _
  unfold execTzero
  refine issue_stopped hc ?_
  exact hg

theorem stops_tamax (a : Reg) (k : BitVec 6) : Stops (.tamax a k) := by
  intro s cx e hc hg
  show execTamax a k s = _
  unfold execTamax
  refine issue_stopped hc ?_
  exact hg

theorem stops_trowh (a : Reg) (k : BitVec 6) : Stops (.trowh a k) := by
  intro s cx e hc hg
  show execTrowh a k s = _
  unfold execTrowh
  refine issue_stopped hc ?_
  exact hg

theorem stops_tresume : Stops (.tresume) := by
  intro s cx e hc hg
  show execTresume s = _
  unfold execTresume
  refine issue_stopped hc ?_
  exact hg

theorem stops_tabort : Stops (.tabort) := by
  intro s cx e hc hg
  show execTabort s = _
  unfold execTabort
  refine issue_stopped hc ?_
  exact hg

theorem stops_tmma (acc : VReg) (a : Reg) (b : Reg) (k : BitVec 2) (zero : Bool) (cn : Option (BitVec 4)) : Stops (.tmma acc a b k zero cn) := by
  intro s cx e hc hg
  show execTmma acc a b k zero cn s = _
  unfold execTmma
  refine issue_stopped hc ?_
  exact hg

theorem stops_tmmas (acc : VReg) (a : Reg) (b : Reg) (k : BitVec 2) (zero : Bool) (sel : BitVec 2) (cn : Option (BitVec 4)) : Stops (.tmmas acc a b k zero sel cn) := by
  intro s cx e hc hg
  show execTmmas acc a b k zero sel cn s = _
  unfold execTmmas
  refine issue_stopped hc ?_
  exact hg

theorem stops_tmmax (acc : VReg) (a : Reg) (b : Reg) (sa : Reg) (sb : Reg) (k : BitVec 2) (zero : Bool) (sel : BitVec 2) (cn : Option (BitVec 4)) : Stops (.tmmax acc a b sa sb k zero sel cn) := by
  intro s cx e hc hg
  show execTmmax acc a b sa sb k zero sel cn s = _
  unfold execTmmax
  refine issue_stopped hc ?_
  exact hg

theorem stops_tlacc (acc : VReg) (a : Reg) (stride : Reg) (k : BitVec 2) (spad : Bool) (cn : Option (BitVec 4)) : Stops (.tlacc acc a stride k spad cn) := by
  intro s cx e hc hg
  show execTlacc acc a stride k spad cn s = _
  unfold execTlacc
  refine issue_stopped hc ?_
  exact hg

theorem stops_tsacc (acc : VReg) (a : Reg) (stride : Reg) (k : BitVec 2) (spad : Bool) (cn : Option (BitVec 4)) : Stops (.tsacc acc a stride k spad cn) := by
  intro s cx e hc hg
  show execTsacc acc a stride k spad cn s = _
  unfold execTsacc
  refine issue_stopped hc ?_
  exact hg

theorem stops_tdrain (acc : VReg) (dest : Reg) (stride : Reg) (k : BitVec 2) (t : ElemTy) (rm : Rnd) (kind : BitVec 2) (sat : Bool) (cn : Option (BitVec 4)) : Stops (.tdrain acc dest stride k t rm kind sat cn) := by
  intro s cx e hc hg
  show execTdrain acc dest stride k t rm kind sat cn s = _
  unfold execTdrain
  refine issue_stopped hc ?_
  exact hg

theorem stops_tdrainHandler (acc : VReg) (dest : Reg) (stride : Reg) (arg : Reg) (k : BitVec 2) (cn : Option (BitVec 4)) : Stops (.tdrainHandler acc dest stride arg k cn) := by
  intro s cx e hc hg
  show execTdrainHandler acc dest stride arg k cn s = _
  unfold execTdrainHandler
  refine issue_stopped hc ?_
  exact hg

theorem stops_rowout (dest : Reg) (m : Reg) (swz : BitVec 6) (t : ElemTy) (rm : Rnd) (kind : BitVec 2) (sat : Bool) : Stops (.rowout dest m swz t rm kind sat) := by
  intro s cx e hc hg
  show execRowout dest m swz t rm kind sat s = _
  unfold execRowout
  refine issue_stopped hc ?_
  exact hg

theorem stops_mcfg (a : Reg) (n : BitVec 6) : Stops (.mcfg a n) := by
  intro s cx e hc hg
  show execMcfg a n s = _
  unfold execMcfg
  refine issue_stopped hc ?_
  exact hg

theorem stops_mrun (out : Reg) (port : Bool) (tag : BitVec 3) (cn : Option (BitVec 4)) : Stops (.mrun out port tag cn) := by
  intro s cx e hc hg
  show execMrun out port tag cn s = _
  unfold execMrun
  refine issue_stopped hc ?_
  exact hg

theorem stops_mstat (d : Reg) : Stops (.mstat d) := by
  intro s cx e hc hg
  show execMstat d s = _
  unfold execMstat
  refine issue_stopped hc ?_
  exact hg

theorem stops_mstop : Stops (.mstop) := by
  intro s cx e hc hg
  show execMstop s = _
  unfold execMstop
  refine issue_stopped hc ?_
  exact hg

theorem stops_qtok (tag : BitVec 3) (port : BitVec 3) (s : Reg) : Stops (.qtok tag port s) := by
  intro σ cx e hc hg
  show execQtok tag port s σ = _
  unfold execQtok
  refine issue_stopped hc ?_
  exact hg

theorem stops_qtry (d : Reg) (xf : Reg) (q : Reg) : Stops (.qtry d xf q) := by
  intro s cx e hc hg
  show execQtry d xf q s = _
  unfold execQtry
  refine issue_stopped hc ?_
  exact hg

theorem stops_qpeek (d : Reg) (xf : Reg) (q : Reg) : Stops (.qpeek d xf q) := by
  intro s cx e hc hg
  show execQpeek d xf q s = _
  unfold execQpeek
  refine issue_stopped hc ?_
  exact hg

theorem stops_qlen (d : Reg) (q : Reg) : Stops (.qlen d q) := by
  intro s cx e hc hg
  show execQlen d q s = _
  unfold execQlen
  refine issue_stopped hc ?_
  exact hg

theorem stops_qfence : Stops (.qfence) := by
  intro s cx e hc hg
  show execQfence s = _
  unfold execQfence
  refine issue_stopped hc ?_
  exact hg

theorem stops_qtvec (q : Reg) (s : Reg) : Stops (.qtvec q s) := by
  intro σ cx e hc hg
  show execQtvec q s σ = _
  unfold execQtvec
  refine issue_stopped hc ?_
  exact hg

theorem stops_cpost (c : BitVec 4) (k : BitVec 22) : Stops (.cpost c k) := by
  intro s cx e hc hg
  show execCpost c k s = _
  unfold execCpost
  refine issue_stopped hc ?_
  exact hg

theorem stops_waitc (c : BitVec 4) (k : BitVec 22) : Stops (.waitc c k) := by
  intro s cx e hc hg
  show execWaitc c k s = _
  unfold execWaitc
  refine issue_stopped hc ?_
  exact hg

theorem stops_cread (d : Reg) (c : BitVec 4) (clr : Bool) : Stops (.cread d c clr) := by
  intro s cx e hc hg
  show execCread d c clr s = _
  unfold execCread
  refine issue_stopped hc ?_
  exact hg

theorem stops_wait (ld : BitVec 6) (st : BitVec 6) (cp : BitVec 6) (tl : BitVec 6) : Stops (.wait ld st cp tl) := by
  intro s cx e hc hg
  show execWait ld st cp tl s = _
  unfold execWait
  refine issue_stopped hc ?_
  exact hg

theorem stops_await (a : Reg) (t : Reg) (scope : Scope) : Stops (.await a t scope) := by
  intro s cx e hc hg
  show execAwait a t scope s = _
  unfold execAwait
  refine issue_stopped hc ?_
  exact hg

theorem stops_bar : Stops (.bar) := by
  intro s cx e hc hg
  show execBar s = _
  unfold execBar
  refine issue_stopped hc ?_
  exact hg

theorem stops_parkC (c : BitVec 4) (t : Reg) : Stops (.parkC c t) := by
  intro s cx e hc hg
  show execParkC c t s = _
  unfold execParkC
  refine issue_stopped hc ?_
  exact hg

theorem stops_parkA (a : Reg) (t : Reg) (scope : Scope) : Stops (.parkA a t scope) := by
  intro s cx e hc hg
  show execParkA a t scope s = _
  unfold execParkA
  refine issue_stopped hc ?_
  exact hg

theorem stops_parkQ (port : BitVec 3) : Stops (.parkQ port) := by
  intro s cx e hc hg
  show execParkQ port s = _
  unfold execParkQ
  refine issue_stopped hc ?_
  exact hg

theorem stops_parkT (t : Reg) : Stops (.parkT t) := by
  intro s cx e hc hg
  show execParkT t s = _
  unfold execParkT
  refine issue_stopped hc ?_
  exact hg

theorem stops_yield : Stops (.yield) := by
  intro s cx e hc hg
  show execYield s = _
  unfold execYield
  refine issue_stopped hc ?_
  exact hg

theorem stops_exit : Stops (.exit) := by
  intro s cx e hc hg
  show execExit s = _
  unfold execExit
  refine issue_stopped hc ?_
  exact hg

theorem stops_sprio (n : BitVec 6) : Stops (.sprio n) := by
  intro s cx e hc hg
  show execSprio n s = _
  unfold execSprio
  refine issue_stopped hc ?_
  exact hg

theorem stops_launch (d : Reg) (p : Reg) : Stops (.launch d p) := by
  intro s cx e hc hg
  show execLaunch d p s = _
  unfold execLaunch
  refine issue_stopped hc ?_
  exact hg

theorem stops_slice (d : Reg) (j : Reg) (k : BitVec 6) (what : BitVec 2) (axis : Bool) : Stops (.slice d j k what axis) := by
  intro s cx e hc hg
  show execSlice d j k what axis s = _
  unfold execSlice
  refine issue_stopped hc ?_
  exact hg

theorem stops_warm (w : Reg) (base : Reg) (size : Reg) : Stops (.warm w base size) := by
  intro s cx e hc hg
  show execWarm w base size s = _
  unfold execWarm
  refine issue_stopped hc ?_
  exact hg

theorem stops_wdisarm (w : Reg) : Stops (.wdisarm w) := by
  intro s cx e hc hg
  show execWdisarm w s = _
  unfold execWdisarm
  refine issue_stopped hc ?_
  exact hg

theorem stops_wstat (d : Reg) (w : Reg) : Stops (.wstat d w) := by
  intro s cx e hc hg
  show execWstat d w s = _
  unfold execWstat
  refine issue_stopped hc ?_
  exact hg

theorem stops_wack : Stops (.wack) := by
  intro s cx e hc hg
  show execWack s = _
  unfold execWack
  refine issue_stopped hc ?_
  exact hg

theorem stops_csrr (d : Reg) (csr : BitVec 12) : Stops (.csrr d csr) := by
  intro s cx e hc hg
  show execCsrr d csr s = _
  unfold execCsrr
  refine issue_stopped hc ?_
  exact hg

theorem stops_csrw (csr : BitVec 12) (s : Reg) : Stops (.csrw csr s) := by
  intro σ cx e hc hg
  show execCsrw csr s σ = _
  unfold execCsrw
  refine issue_stopped hc ?_
  exact hg

theorem stops_csrset (csr : BitVec 12) (s : Reg) : Stops (.csrset csr s) := by
  intro σ cx e hc hg
  show execCsrset csr s σ = _
  unfold execCsrset
  refine issue_stopped hc ?_
  exact hg

theorem stops_csrclr (csr : BitVec 12) (s : Reg) : Stops (.csrclr csr s) := by
  intro σ cx e hc hg
  show execCsrclr csr s σ = _
  unfold execCsrclr
  refine issue_stopped hc ?_
  exact hg

theorem stops_tlbw (a : Reg) (b : Reg) : Stops (.tlbw a b) := by
  intro s cx e hc hg
  show execTlbw a b s = _
  unfold execTlbw
  refine issue_stopped hc ?_
  exact hg

theorem stops_tlbi (a : Reg) (b : Reg) : Stops (.tlbi a b) := by
  intro s cx e hc hg
  show execTlbi a b s = _
  unfold execTlbi
  refine issue_stopped hc ?_
  exact hg

theorem stops_clbi (a : Reg) (b : Reg) : Stops (.clbi a b) := by
  intro s cx e hc hg
  show execClbi a b s = _
  unfold execClbi
  refine issue_stopped hc ?_
  exact hg

theorem stops_migr (d : Reg) (a : Reg) (b : Reg) : Stops (.migr d a b) := by
  intro s cx e hc hg
  show execMigr d a b s = _
  unfold execMigr
  refine issue_stopped hc ?_
  exact hg

theorem stops_ecall (n : BitVec 7) : Stops (.ecall n) := by
  intro s cx e hc hg
  show execEcall n s = _
  unfold execEcall
  refine issue_stopped hc ?_
  exact hg

theorem stops_ebreak (n : BitVec 7) : Stops (.ebreak n) := by
  intro s cx e hc hg
  show execEbreak n s = _
  unfold execEbreak
  refine issue_stopped hc ?_
  exact hg

theorem stops_eret : Stops (.eret) := by
  intro s cx e hc hg
  show execEret s = _
  unfold execEret
  refine issue_stopped hc ?_
  exact hg

theorem stops_repart (a : Reg) : Stops (.repart a) := by
  intro s cx e hc hg
  show execRepart a s = _
  unfold execRepart
  refine issue_stopped hc ?_
  exact hg

theorem stops_ctxsave (a : Reg) (b : Reg) : Stops (.ctxsave a b) := by
  intro s cx e hc hg
  show execCtxsave a b s = _
  unfold execCtxsave
  refine issue_stopped hc ?_
  exact hg

theorem stops_ctxrest (a : Reg) (b : Reg) : Stops (.ctxrest a b) := by
  intro s cx e hc hg
  show execCtxrest a b s = _
  unfold execCtxrest
  refine issue_stopped hc ?_
  exact hg

/-- Every instruction of the Gherad set passes the conditions of issue for the registers and ports that it names. -/
theorem exec_stopped {i : Instr} {s : State} {cx : Ctx} {e : Stop} (he : (encode i).isSome = true)
    (hc : current s = some cx) (hg : gate s i cx (usesOf s cx i) = .error e) : exec i s = .next (stopped s cx e) := by
  cases i
  case add => exact stops_add _ _ _ _ _ _ hc hg
  case sub => exact stops_sub _ _ _ _ _ _ hc hg
  case and => exact stops_and _ _ _ _ _ _ hc hg
  case or => exact stops_or _ _ _ _ _ _ hc hg
  case xor => exact stops_xor _ _ _ _ _ _ hc hg
  case andn => exact stops_andn _ _ _ _ _ _ hc hg
  case sll => exact stops_sll _ _ _ _ _ _ hc hg
  case srl => exact stops_srl _ _ _ _ _ _ hc hg
  case sra => exact stops_sra _ _ _ _ _ _ hc hg
  case rol => exact stops_rol _ _ _ _ _ _ hc hg
  case min => exact stops_min _ _ _ _ _ _ hc hg
  case max => exact stops_max _ _ _ _ _ _ hc hg
  case minw => exact stops_minw _ _ _ _ _ _ hc hg
  case maxw => exact stops_maxw _ _ _ _ _ _ hc hg
  case mul => exact stops_mul _ _ _ _ _ _ hc hg
  case mulhs => exact stops_mulhs _ _ _ _ _ _ hc hg
  case mulhw => exact stops_mulhw _ _ _ _ _ _ hc hg
  case div => exact stops_div _ _ _ _ _ _ hc hg
  case divw => exact stops_divw _ _ _ _ _ _ hc hg
  case rem => exact stops_rem _ _ _ _ _ _ hc hg
  case remw => exact stops_remw _ _ _ _ _ _ hc hg
  case clz => exact stops_clz _ _ _ _ _ hc hg
  case ctz => exact stops_ctz _ _ _ _ _ hc hg
  case popc => exact stops_popc _ _ _ _ _ hc hg
  case bext => exact stops_bext _ _ _ _ _ _ hc hg
  case bdep => exact stops_bdep _ _ _ _ _ _ hc hg
  case mov => exact stops_mov _ _ _ _ _ hc hg
  case sext => exact stops_sext _ _ _ _ _ _ hc hg
  case zext => exact stops_zext _ _ _ _ _ _ hc hg
  case seq => exact stops_seq _ _ _ _ _ _ hc hg
  case sne => exact stops_sne _ _ _ _ _ _ hc hg
  case slt => exact stops_slt _ _ _ _ _ _ hc hg
  case sge => exact stops_sge _ _ _ _ _ _ hc hg
  case sltw => exact stops_sltw _ _ _ _ _ _ hc hg
  case sgew => exact stops_sgew _ _ _ _ _ _ hc hg
  case addi => exact stops_addi _ _ _ _ _ _ hc hg
  case andi => exact stops_andi _ _ _ _ _ _ hc hg
  case ori => exact stops_ori _ _ _ _ _ _ hc hg
  case xori => exact stops_xori _ _ _ _ _ _ hc hg
  case slli => exact stops_slli _ _ _ _ _ _ hc hg
  case srli => exact stops_srli _ _ _ _ _ _ hc hg
  case srai => exact stops_srai _ _ _ _ _ _ hc hg
  case roli => exact stops_roli _ _ _ _ _ _ hc hg
  case mini => exact stops_mini _ _ _ _ _ _ hc hg
  case maxi => exact stops_maxi _ _ _ _ _ _ hc hg
  case slti => exact stops_slti _ _ _ _ _ _ hc hg
  case seqi => exact stops_seqi _ _ _ _ _ _ hc hg
  case li => exact stops_li _ _ _ _ _ hc hg
  case li32 => exact stops_li32 _ _ _ _ _ hc hg
  case lih => exact stops_lih _ _ _ _ _ _ hc hg
  case lea => exact stops_lea _ _ _ _ _ hc hg
  case sel => exact stops_sel _ _ _ _ _ _ _ hc hg
  case beq => exact stops_beq _ _ _ _ _ _ _ _ hc hg
  case bne => exact stops_bne _ _ _ _ _ _ _ _ hc hg
  case blt => exact stops_blt _ _ _ _ _ _ _ _ hc hg
  case bge => exact stops_bge _ _ _ _ _ _ _ _ hc hg
  case bltw => exact stops_bltw _ _ _ _ _ _ _ _ hc hg
  case bgew => exact stops_bgew _ _ _ _ _ _ _ _ hc hg
  case bbs => exact stops_bbs _ _ _ _ _ _ _ _ hc hg
  case bbc => exact stops_bbc _ _ _ _ _ _ _ _ hc hg
  case bz => exact stops_bz _ _ _ _ _ _ _ hc hg
  case bnz => exact stops_bnz _ _ _ _ _ _ _ hc hg
  case jmp => exact stops_jmp _ _ _ _ _ hc hg
  case jal => exact stops_jal _ _ _ _ _ _ hc hg
  case jr => exact stops_jr _ _ _ _ hc hg
  case ret => exact stops_ret _ _ _ _ hc hg
  case loop => exact stops_loop _ _ _ _ _ _ hc hg
  case vadd => exact stops_vadd _ _ _ _ _ _ _ _ _ hc hg
  case vsub => exact stops_vsub _ _ _ _ _ _ _ _ _ hc hg
  case vmul => exact stops_vmul _ _ _ _ _ _ _ _ _ hc hg
  case vmin => exact stops_vmin _ _ _ _ _ _ _ _ hc hg
  case vmax => exact stops_vmax _ _ _ _ _ _ _ _ hc hg
  case vadds => exact stops_vadds _ _ _ _ _ _ _ _ hc hg
  case vsubs => exact stops_vsubs _ _ _ _ _ _ _ _ hc hg
  case vabs => exact stops_vabs _ _ _ _ _ _ _ hc hg
  case vneg => exact stops_vneg _ _ _ _ _ _ _ hc hg
  case vfma => exact stops_vfma _ _ _ _ _ _ _ _ _ _ hc hg
  case vfms => exact stops_vfms _ _ _ _ _ _ _ _ _ _ hc hg
  case vand => exact stops_vand _ _ _ _ _ _ _ _ hc hg
  case vor => exact stops_vor _ _ _ _ _ _ _ _ hc hg
  case vxor => exact stops_vxor _ _ _ _ _ _ _ _ hc hg
  case vandn => exact stops_vandn _ _ _ _ _ _ _ _ hc hg
  case vsll => exact stops_vsll _ _ _ _ _ _ _ _ hc hg
  case vsrl => exact stops_vsrl _ _ _ _ _ _ _ _ hc hg
  case vsra => exact stops_vsra _ _ _ _ _ _ _ _ hc hg
  case vcmpeq => exact stops_vcmpeq _ _ _ _ _ _ _ _ hc hg
  case vcmpne => exact stops_vcmpne _ _ _ _ _ _ _ _ hc hg
  case vcmplt => exact stops_vcmplt _ _ _ _ _ _ _ _ hc hg
  case vcmple => exact stops_vcmple _ _ _ _ _ _ _ _ hc hg
  case vcmpgt => exact stops_vcmpgt _ _ _ _ _ _ _ _ hc hg
  case vcmpge => exact stops_vcmpge _ _ _ _ _ _ _ _ hc hg
  case vcmpun => exact stops_vcmpun _ _ _ _ _ _ _ _ hc hg
  case vsel => exact stops_vsel _ _ _ _ _ _ _ _ hc hg
  case vmov => exact stops_vmov _ _ _ _ _ _ _ hc hg
  case vbcast => exact stops_vbcast _ _ _ _ _ _ _ hc hg
  case vextr => exact stops_vextr _ _ _ _ _ _ _ hc hg
  case vins => exact stops_vins _ _ _ _ _ _ _ hc hg
  case vperm => exact stops_vperm _ _ _ _ _ _ _ _ hc hg
  case vcompress => exact stops_vcompress _ _ _ _ _ _ _ hc hg
  case vexpand => exact stops_vexpand _ _ _ _ _ _ _ hc hg
  case vredsum => exact stops_vredsum _ _ _ _ _ _ _ _ hc hg
  case vredmax => exact stops_vredmax _ _ _ _ _ _ _ hc hg
  case vredmin => exact stops_vredmin _ _ _ _ _ _ _ hc hg
  case vamax => exact stops_vamax _ _ _ _ _ _ _ hc hg
  case vscan => exact stops_vscan _ _ _ _ _ _ _ _ _ hc hg
  case vdiv => exact stops_vdiv _ _ _ _ _ _ _ _ _ hc hg
  case vsqrt => exact stops_vsqrt _ _ _ _ _ _ _ _ hc hg
  case vrsq => exact stops_vrsq _ _ _ _ _ _ _ _ hc hg
  case vrcp => exact stops_vrcp _ _ _ _ _ _ _ _ hc hg
  case vexp2 => exact stops_vexp2 _ _ _ _ _ _ _ _ hc hg
  case vlog2 => exact stops_vlog2 _ _ _ _ _ _ _ _ hc hg
  case vcvt => exact stops_vcvt _ _ _ _ _ _ _ _ _ _ _ hc hg
  case vpackmx => exact stops_vpackmx _ _ _ _ _ _ _ _ _ _ _ _ hc hg
  case vunpackmx => exact stops_vunpackmx _ _ _ _ _ _ _ _ _ _ _ hc hg
  case vnzx => exact stops_vnzx _ _ _ _ _ _ _ _ _ hc hg
  case load => exact stops_load _ _ _ _ _ _ hc hg
  case loadSigned => exact stops_loadSigned _ _ _ _ _ _ hc hg
  case lda => exact stops_lda _ _ _ _ _ _ _ hc hg
  case store => exact stops_store _ _ _ _ _ _ hc hg
  case stl => exact stops_stl _ _ _ _ _ _ _ hc hg
  case ldv => exact stops_ldv _ _ _ _ _ hc hg
  case stv => exact stops_stv _ _ _ _ _ hc hg
  case ldvs => exact stops_ldvs _ _ _ _ _ _ _ _ hc hg
  case stvs => exact stops_stvs _ _ _ _ _ _ _ _ hc hg
  case ldvx => exact stops_ldvx _ _ _ _ _ _ _ _ _ hc hg
  case stvx => exact stops_stvx _ _ _ _ _ _ _ _ _ hc hg
  case sld => exact stops_sld _ _ _ _ _ _ _ _ hc hg
  case sldRec => exact stops_sldRec _ _ _ _ _ _ _ hc hg
  case sst => exact stops_sst _ _ _ _ _ _ _ hc hg
  case sldv => exact stops_sldv _ _ _ _ _ _ hc hg
  case sstv => exact stops_sstv _ _ _ _ _ _ hc hg
  case amoadd => exact stops_amoadd _ _ _ _ _ _ _ hc hg
  case amoand => exact stops_amoand _ _ _ _ _ _ _ hc hg
  case amoor => exact stops_amoor _ _ _ _ _ _ _ hc hg
  case amoxor => exact stops_amoxor _ _ _ _ _ _ _ hc hg
  case amomin => exact stops_amomin _ _ _ _ _ _ _ hc hg
  case amomax => exact stops_amomax _ _ _ _ _ _ _ hc hg
  case amominw => exact stops_amominw _ _ _ _ _ _ _ hc hg
  case amomaxw => exact stops_amomaxw _ _ _ _ _ _ _ hc hg
  case amoswap => exact stops_amoswap _ _ _ _ _ _ _ hc hg
  case amocas => exact stops_amocas _ _ _ _ _ _ _ hc hg
  case amofadd => exact stops_amofadd _ _ _ _ _ _ _ hc hg
  case fence => exact stops_fence _ _ _ _ _ hc hg
  case pref => exact stops_pref _ _ _ _ _ hc hg
  case get => exact stops_get _ _ _ _ _ _ _ _ _ hc hg
  case put => exact stops_put _ _ _ _ _ _ _ _ _ hc hg
  case puts => exact stops_puts _ _ _ _ _ _ _ _ _ hc hg
  case ramo => exact stops_ramo _ _ _ _ _ _ _ _ _ hc hg
  case amsg => exact stops_amsg _ _ _ _ _ _ _ _ _ _ hc hg
  case copy => exact stops_copy _ _ _ _ _ _ _ _ _ _ _ hc hg
  case send => exact stops_send _ _ _ _ _ _ _ _ _ _ _ _ _ hc hg
  case refs => exact stops_refs _ _ _ _ _ _ _ _ _ _ _ hc hg
  case sread => exact stops_sread _ _ _ _ _ _ _ _ _ hc hg
  case swrite => exact stops_swrite _ _ _ _ _ _ _ _ _ hc hg
  case fship => exact stops_fship _ _ _ _ _ _ _ _ _ _ _ _ hc hg
  case ldc => exact stops_ldc _ _ _ _ _ _ _ hc hg
  case stc => exact stops_stc _ _ _ _ _ _ hc hg
  case ldcv => exact stops_ldcv _ _ _ _ _ _ hc hg
  case stcv => exact stops_stcv _ _ _ _ _ _ hc hg
  case cprobe => exact stops_cprobe _ _ _ _ _ _ hc hg
  case ctrim => exact stops_ctrim _ _ _ _ _ hc hg
  case tcfg => exact stops_tcfg _ _ _ _ _ hc hg
  case tzero => exact stops_tzero _ _ _ _ hc hg
  case tamax => exact stops_tamax _ _ _ _ _ hc hg
  case trowh => exact stops_trowh _ _ _ _ _ hc hg
  case tresume => exact stops_tresume _ _ _ hc hg
  case tabort => exact stops_tabort _ _ _ hc hg
  case tmma => exact stops_tmma _ _ _ _ _ _ _ _ _ hc hg
  case tmmas => exact stops_tmmas _ _ _ _ _ _ _ _ _ _ hc hg
  case tmmax => exact stops_tmmax _ _ _ _ _ _ _ _ _ _ _ _ hc hg
  case tlacc => exact stops_tlacc _ _ _ _ _ _ _ _ _ hc hg
  case tsacc => exact stops_tsacc _ _ _ _ _ _ _ _ _ hc hg
  case tdrain => exact stops_tdrain _ _ _ _ _ _ _ _ _ _ _ _ hc hg
  case tdrainHandler => exact stops_tdrainHandler _ _ _ _ _ _ _ _ _ hc hg
  case rowout => exact stops_rowout _ _ _ _ _ _ _ _ _ _ hc hg
  case mcfg => exact stops_mcfg _ _ _ _ _ hc hg
  case mrun => exact stops_mrun _ _ _ _ _ _ _ hc hg
  case mstat => exact stops_mstat _ _ _ _ hc hg
  case mstop => exact stops_mstop _ _ _ hc hg
  case qtok => exact stops_qtok _ _ _ _ _ _ hc hg
  case qtry => exact stops_qtry _ _ _ _ _ _ hc hg
  case qpeek => exact stops_qpeek _ _ _ _ _ _ hc hg
  case qlen => exact stops_qlen _ _ _ _ _ hc hg
  case qfence => exact stops_qfence _ _ _ hc hg
  case qtvec => exact stops_qtvec _ _ _ _ _ hc hg
  case cpost => exact stops_cpost _ _ _ _ _ hc hg
  case waitc => exact stops_waitc _ _ _ _ _ hc hg
  case cread => exact stops_cread _ _ _ _ _ _ hc hg
  case wait => exact stops_wait _ _ _ _ _ _ _ hc hg
  case await => exact stops_await _ _ _ _ _ _ hc hg
  case bar => exact stops_bar _ _ _ hc hg
  case parkC => exact stops_parkC _ _ _ _ _ hc hg
  case parkA => exact stops_parkA _ _ _ _ _ _ hc hg
  case parkQ => exact stops_parkQ _ _ _ _ hc hg
  case parkT => exact stops_parkT _ _ _ _ hc hg
  case yield => exact stops_yield _ _ _ hc hg
  case exit => exact stops_exit _ _ _ hc hg
  case sprio => exact stops_sprio _ _ _ _ hc hg
  case launch => exact stops_launch _ _ _ _ _ hc hg
  case slice => exact stops_slice _ _ _ _ _ _ _ _ hc hg
  case warm => exact stops_warm _ _ _ _ _ _ hc hg
  case wdisarm => exact stops_wdisarm _ _ _ _ hc hg
  case wstat => exact stops_wstat _ _ _ _ _ hc hg
  case wack => exact stops_wack _ _ _ hc hg
  case csrr => exact stops_csrr _ _ _ _ _ hc hg
  case csrw => exact stops_csrw _ _ _ _ _ hc hg
  case csrset => exact stops_csrset _ _ _ _ _ hc hg
  case csrclr => exact stops_csrclr _ _ _ _ _ hc hg
  case tlbw => exact stops_tlbw _ _ _ _ _ hc hg
  case tlbi => exact stops_tlbi _ _ _ _ _ hc hg
  case clbi => exact stops_clbi _ _ _ _ _ hc hg
  case migr => exact stops_migr _ _ _ _ _ _ hc hg
  case ecall => exact stops_ecall _ _ _ _ hc hg
  case ebreak => exact stops_ebreak _ _ _ _ hc hg
  case eret => exact stops_eret _ _ _ hc hg
  case repart => exact stops_repart _ _ _ _ hc hg
  case ctxsave => exact stops_ctxsave _ _ _ _ _ hc hg
  case ctxrest => exact stops_ctxrest _ _ _ _ _ hc hg
  case agedLevel => cases he
  case yieldExpiry => cases he
  case loadReturn => cases he
  case storePerformed => cases he
  case fabricPerformed => cases he
  case remoteAck => cases he
  case negativeAck => cases he
  case shippedOperation => cases he
  case elementPoppable => cases he
  case creditReturn => cases he
  case porterRunStart => cases he
  case tileOpStart => cases he
  case tileUnitStop => cases he
  case tileOpComplete => cases he
  case amaxAtomic => cases he
  case rowHandlerDispatch => cases he
  case mergeEmit => cases he
  case mergeToken => cases he
  case mergeFault => cases he
  case referencePop => cases he
  case referenceStop => cases he
  case sectorStep => cases he
  case engineStop => cases he
  case engineComplete => cases he
  case storageComplete => cases he
  case channelTransferStart => cases he
  case beatDelivery => cases he
  case migrationComplete => cases he
  case triggerStart => cases he
  case watchRateWindow => cases he
  case parkSaveComplete => cases he
  case unpark => cases he
  case balancerSample => cases he
  case elasticEos => cases he
  case watchdogStop => cases he
  case watchdog => cases he
  case hostInterrupt => cases he
  case preempt => cases he
  case watchRunaway => cases he
  case undeliverable => cases he
  case claimGrant => cases he
  case launchEnd => cases he
  case frontEndPoll => cases he
  case launchPacket => cases he
  case launchLoadOnly => cases he
  case copyin => cases he
  case copyout => cases he
  case signalSet => cases he
  case signalAdd => cases he
  case waitsigGe => cases he
  case waitsigEq => cases he
  case waitsigPoll => cases he
  case fencePacket => cases he
  case pad => cases he
  case packetComplete => cases he
  case queueEnable => cases he
  case queueDisable => cases he
  case queueResume => cases he
  case hostRegisterWrite => cases he
  case ident => cases he
  case setpkg => cases he
  case partcfg => cases he
  case partclr => cases he
  case peermap => cases he
  case unload => cases he
  case stop => cases he
  case fwload => cases he
  case attest => cases he
  case winset => cases he
  case evread => cases he
  case certs => cases he
  case telem => cases he
  case mailboxComplete => cases he
  case windowRead => cases he
  case windowWrite => cases he
  case peerInbound => cases he
  case perstRelease => cases he
  case powerOff => cases he
  case functionLevelReset => cases he
  case inputVoltageFault => cases he
  case inputPowerLimit => cases he
  case inputPowerRecover => cases he
  case coolantInletLimit => cases he
  case dieTemperatureLimit => cases he
  case dieTemperaturePreempt => cases he
  case dieTemperatureRecover => cases he
  case dieTemperatureShutdown => cases he
  case pageFence => cases he
  case patrolScrub => cases he
  case llcScrub => cases he
  case bankSparing => cases he
  case liveLaneRepair => cases he
  case linkRetrain => cases he
  case corePowerDown => cases he

end Sys2Proof.Machine
end

