-- ==== Sys2Proof/Laws/Traps.lean ====
section
/-! SUPPORT. What taking a trap does (R380 to R386), and the traps that the conditions of issue raise. -/

namespace Sys2Proof.Machine

open Sys2Proof.Claims

theorem svecGood_setStrand (s : State) (c p : Nat) (x : Strand) (k : Nat) :
    svecGood (s.setStrand c p x) k = svecGood s k := rfl

theorem svecGood_setCore (s : State) (c : Nat) (v : Core) (h : v.svec = (s.core c).svec) :
    svecGood (s.setCore c v) c = svecGood s c := by
  have hc : (s.setCore c v).core c = v := by simp [State.core, State.setCore, Tab.get, Tab.find_insert]
  unfold svecGood
  rw [hc, h]
  rfl

/-- A trap that finds SVEC good, and no trap of the supervisor's own in hand, enters the supervisor. -/
theorem takeTrap_entered {s : State} {core : Nat} {st : Strand} (hv : svecGood s core = true)
    (hn : st.kind = .supervisor → bit (s.core core).ecause 11 = false) (slot : Nat) (c : Cause) (detail : Nat)
    (epc value : Word) :
    Entered s core (ecauseWord 0 detail (st.kind == .supervisor) false c) value epc (estrandWord st slot)
      (takeTrap s core slot st c detail epc value) := by
  have hg : ∀ a b e f, svecGood (s.setCore core
      { s.core core with ecause := a, evalue := b, epc := e, estrand := f, frozen := true }) core = true := by
    intro a b e f
    rw [svecGood_setCore _ _ _ (by rfl)]
    exact hv
  unfold takeTrap
  by_cases hk : st.kind = .supervisor
  · have hs : (st.kind == StrandKind.supervisor) = true := by simp [hk]
    rw [if_pos hk, hs]
    simp only [hn hk, Bool.false_eq_true, if_false]
    exact enterSupervisor_entered _ _ _ _ (hg _ _ _ _)
  · have hs : (st.kind == StrandKind.supervisor) = false := by simp [hk]
    rw [if_neg hk, hs]
    exact enterSupervisor_entered _ _ _ _ (hg _ _ _ _)

/-- A trap taken before an instruction enters the supervisor, and changes nothing else but what the strand waited for. -/
theorem trapAt_trapped {s : State} {cx : Ctx} (h : CanTrap s cx) (c : Cause) (detail : Nat) (value : Word) :
    Trapped s cx c detail value (trapAt s cx c detail value) := by
  have hv : svecGood (s.setStrand cx.core cx.slot { cx.st with wait := none, declines := [], staying := false, resumed := false }) cx.core = true := h.1
  exact takeTrap_entered (st := { cx.st with wait := none, declines := [], staying := false, resumed := false }) hv h.2 cx.slot c detail cx.st.pc value

end Sys2Proof.Machine
end

