-- ==== Sys2Proof/Tests/Slice0.lean ====
section
/-! SUPPORT. Tests: a witness for the hypotheses of every statement, the field checks, decoding, and worked examples of the manual. -/

namespace Sys2Proof.Tests

open Sys2Proof Sys2Proof.Machine Sys2Proof.Claims

set_option Elab.async false

/-! The small package that the tests run on: one partition of dies 0 and 1, one launch, 1 MiB in the LLC window of die 0 and 1 MiB over both
dies, five objects translated in the L1 TLB of core 0, code whose first two lines hold 31 heads, and queues at ports 0 to 3. -/

/-- Sixteen units of 64 KiB of the window of die 0, shippable and watchable (R172). -/
def dataRegion : Word × Word := (0x84D0010002000400, 0x0000001000000400)

/-- The next MiB, interleaved over the windows of dies 0 and 1 by 256 bytes. -/
def pairRegion : Word × Word := (0x8410030002000410, 0x0000001000000410)

/-- The entry by which the firmware of the tests lies in the far tier (R172, R329). -/
def fwRegion : Word × Word :=
  (BitVec.ofNat 64 (0x8811000000000000 + Config.firmwareUnit 0), 0x0000010000000000)

/-- The cell of a byte of the region. -/
def regionCell (o : Nat) : Nat := cellOf 1 0 (67108864 + o)

/-- The physical address of a byte of the region. -/
def regionPhys (o : Nat) : Nat := 0x020004000000 + o

/-- A 64 KiB translation (R335). -/
def entry (oid kind : Nat) (rd wr ex : Bool) (o limit : Nat) : TlbEntry :=
  { oid := oid, obase := 0, sc := 0, kind := kind, rd := rd, wr := wr, ex := ex, pbase := regionPhys o, limit := limit }

/-- Object 1 is data, 2 code, 3 read-only data of 256 bytes, 4 a volume, 5 data on two dies,
6 a volume with an empty pool, 7 a volume of the other die, 8 a volume of two levels with an
empty root, 10 a volume whose pool lies on the other die. -/
def tlb0 : List TlbEntry :=
  [entry 1 0 true true false 0 0, entry 2 2 true false true 0x10000 0, entry 3 0 true false false 0x20000 256,
    entry 4 1 true true false 0x30000 0,
    entry 5 0 true true false 0x100000 0, entry 6 1 true true false 0x38000 0, entry 7 1 true true false 0x100100 0,
    entry 8 1 true true false 0x3B000 0,
    entry 10 1 true true false 0x3C000 0]

/-- Bytes: data at object 1, code lines 0 and 1 (31 heads each, stop clear), line 2 (one head, stop set), line 3 with a reserved
header bit, lines 4 to 7 (one head each: major 0x03 with minors 6 and 15, loop with A 48 and 63); two volumes of 0x700 elements of 8
bytes with one tree of one level (tile 0 present, tile 1 absent, tile 2 busy), the pool of one with a tile and that of the other
empty; the descriptors of objects 1 (a page of data, watchable) and 2 (a page that is only read) with their extents; the header of the
firmware's first line. -/
def mem0 : List Host.Cell :=
  [(regionCell 0x0, 0x11), (regionCell 0x1, 0x82), (regionCell 0x9, 0x07), (regionCell 0x10001, 0xF8),
    (regionCell 0x10041, 0xF8), (regionCell 0x10081, 0x0C), (regionCell 0x100C0, 0x01), (regionCell 0x100C1, 0x08),
    (regionCell 0x10101, 0x08), (regionCell 0x10102, 0x82), (regionCell 0x10103, 0x06), (regionCell 0x1013E, 0x06),
    (regionCell 0x10141, 0x08), (regionCell 0x10142, 0x82), (regionCell 0x10143, 0x06), (regionCell 0x1017E, 0x0F),
    (regionCell 0x10181, 0x08), (regionCell 0x10182, 0x60), (regionCell 0x10183, 0x3B), (regionCell 0x101C1, 0x08),
    (regionCell 0x101C2, 0x7E), (regionCell 0x101C3, 0x3B), (regionCell 0x30001, 0x90), (regionCell 0x30003, 0xC0),
    (regionCell 0x30007, 0x0E), (regionCell 0x30009, 0x07), (regionCell 0x30010, 0x01), (regionCell 0x30018, 0x01),
    (regionCell 0x30020, 0x01), (regionCell 0x30028, 0xAB), (regionCell 0x30031, 0x10), (regionCell 0x30032, 0x03),
    (regionCell 0x30033, 0x04), (regionCell 0x30035, 0x02), (regionCell 0x30039, 0x20), (regionCell 0x3003A, 0x03),
    (regionCell 0x3003B, 0x04), (regionCell 0x3003D, 0x02), (regionCell 0x31001, 0x30), (regionCell 0x31002, 0x03),
    (regionCell 0x31003, 0x04), (regionCell 0x31005, 0x02), (regionCell 0x31007, 0x80), (regionCell 0x31011, 0x40),
    (regionCell 0x31012, 0x03), (regionCell 0x31013, 0x04), (regionCell 0x31015, 0x02), (regionCell 0x31017, 0x40),
    (regionCell 0x32000, 0x01), (regionCell 0x32003, 0x02), (regionCell 0x32041, 0x50), (regionCell 0x32042, 0x03),
    (regionCell 0x32043, 0x04), (regionCell 0x32045, 0x02), (regionCell 0x38001, 0x90), (regionCell 0x38003, 0xC0),
    (regionCell 0x38007, 0x0E), (regionCell 0x38009, 0x07), (regionCell 0x38010, 0x01), (regionCell 0x38018, 0x01),
    (regionCell 0x38020, 0x01), (regionCell 0x38028, 0xAB), (regionCell 0x38031, 0x10), (regionCell 0x38032, 0x03),
    (regionCell 0x38033, 0x04), (regionCell 0x38035, 0x02), (regionCell 0x38039, 0x90), (regionCell 0x3803A, 0x03),
    (regionCell 0x3803B, 0x04), (regionCell 0x3803D, 0x02), (regionCell 0x39003, 0x02),
    (regionCell 0x3B001, 0x90), (regionCell 0x3B003, 0xC0), (regionCell 0x3B007, 0x16), (regionCell 0x3B009, 0x07), (regionCell 0x3B010, 0x01), (regionCell 0x3B018, 0x01), (regionCell 0x3B020, 0x01),
    (regionCell 0x3B028, 0xAB), (regionCell 0x3B031, 0xA0), (regionCell 0x3B032, 0x03), (regionCell 0x3B033, 0x04), (regionCell 0x3B035, 0x02), (regionCell 0x3B039, 0x20), (regionCell 0x3B03A, 0x03), (regionCell 0x3B03B, 0x04), (regionCell 0x3B03D, 0x02),
    (regionCell 0x3C001, 0x90), (regionCell 0x3C003, 0xC0), (regionCell 0x3C007, 0x0E), (regionCell 0x3C009, 0x07), (regionCell 0x3C010, 0x01), (regionCell 0x3C018, 0x01), (regionCell 0x3C020, 0x01),
    (regionCell 0x3C028, 0xAB), (regionCell 0x3C031, 0x10), (regionCell 0x3C032, 0x03), (regionCell 0x3C033, 0x04), (regionCell 0x3C035, 0x02), (regionCell 0x3C039, 0x01), (regionCell 0x3C03A, 0x10), (regionCell 0x3C03B, 0x04), (regionCell 0x3C03D, 0x02),
    (regionCell 0x40042, 0x01), (regionCell 0x40047, 0x9A), (regionCell 0x40052, 0x05), (regionCell 0x40053, 0x04), (regionCell 0x40055, 0x02),
    (regionCell 0x40058, 0x01), (regionCell 0x4005C, 0x01), (regionCell 0x40082, 0x01), (regionCell 0x40087, 0x90), (regionCell 0x40090, 0x10),
    (regionCell 0x40092, 0x05), (regionCell 0x40093, 0x04), (regionCell 0x40095, 0x02), (regionCell 0x40098, 0x01), (regionCell 0x4009C, 0x01),
    (regionCell 0x50004, 0x01), (regionCell 0x50009, 0x04), (regionCell 0x5000B, 0x02), (regionCell 0x50014, 0x01), (regionCell 0x50018, 0x01),
    (regionCell 0x50019, 0x04), (regionCell 0x5001B, 0x02), (cellOf 2 8 1, 0x08)]

def part0 : Partition := { dies := 3, carve := 1, otbase := 0x020004040000, otcount := 16, partreg := 3, peers := 0, ports := 1, queues := 1 }

def noImg : Image :=
  { width := 1, height := 1, stages := [], queues := [], records := [], objects := [], watches := [], code := [], routes := [] }

def stage0 : StageInfo :=
  { entry := 2, spad := 4096, kind := 2, least := 1, most := 2, elastic := true, wide := false, prio := 0, reserve := 1, park := false,
    cores := [0] }

def launch0 : Launch :=
  { lid := 7, part := 0, image := 0, seed := 5, status := 0, packet := none, auto := false, px := 0, py := 0, args := [],
    phase := .running, img := noImg, stages := [stage0], codeOid := 2, queues := [0, 1, 2, 3] }

/-- A user strand at head 1 of line 0 of object 2: port 0 consumes queue 0 (data), port 1 produces to queue 1, port 2 consumes
queue 2 (a token), port 3 produces to queue 3 (no credit), port 4 consumes queue 4 (empty). -/
def user : Strand :=
  { kind := .inst, gen := 1, stage := 0, rank := 0, lid := 7, pc := 0x0002000000000002
    xs := [(1, 0x0001000000000000), (2, 6), (3, 0x0001000000000008), (4, 1), (5, 0x00F0), (6, 0x0002000000000042), (7, 64)]
    ports := [(0, ⟨0, false, 0⟩), (1, ⟨1, true, 0⟩), (2, ⟨2, false, 0x0002000000000042⟩), (3, ⟨3, true, 0⟩), (4, ⟨4, false, 0⟩)] }

def elem (tag : Nat) (data : Word) : Elem := { tag := tag, data := some data, gen := 9, rank := 0, seq := 0, left := [1] }

def queueWith (ring : List Elem) (credits : Nat) : Queue :=
  { gen := 1, lid := 7, kind := 0, die := 0, depth := 4, ring := ring, producers := [(9, 0)], consumers := [(1, 0)], credits := credits }

def core0 : Core := { lid := some 7, tlb := tlb0, alloc := [(0, 0, 4096)] }

/-- A state of the small package, its firmware not loaded. -/
def base : State :=
  { cores := [(0, core0)], parts := [(0, part0)], launches := [launch0]
    queues := [(0, queueWith [elem 0 0xAB] 3), (1, queueWith [] 4), (2, queueWith [elem 2 0x55] 3), (3, queueWith [] 0),
      (4, queueWith [] 4)]
    mem := mem0, regions := [(0, dataRegion), (1, pairRegion), (2, fwRegion)], nextGen := 20, nextQueue := 8
    cursor := { core := 0, slot := 0, header := 0xF800, stalled := false } }

/-- A strand stands in slot 0 of core 0. -/
def with0 (st : Strand) : State := { base with strands := [(placeKey 0 0, st)] }

/-- The context of that strand. -/
def cx0 (st : Strand) : Ctx := { core := 0, slot := 0, st := st }

/-- The same with the firmware loaded and SVEC at its first head, so that traps can be taken. -/
def fw (s : State) (n : Nat := 0) : State :=
  { s with pkg := { s.pkg with boot := 7, farBytes := 2 ^ 30 }, regions := [(0, dataRegion), (1, pairRegion), (2, fwRegion)], mem := mem0
           cores := s.cores.insert n { s.core n with
             svec := 0xFFFF000000000000#64 + BitVec.ofNat 64 (Config.firmwareBase 0 + 2) } }

/-- The supervisor strand of core 0 runs. -/
def sup : Strand := { user with kind := .supervisor, ports := [] }

/-- The supervisor strand issues. -/
def withSup (st : Strand) : State :=
  { base with strands := [(placeKey 0 17, st)], cores := [(0, { core0 with supRunning := true })]
              cursor := { core := 0, slot := 17, header := 0xF800, stalled := false } }

def cxSup (st : Strand) : Ctx := { core := 0, slot := 17, st := st }

/-- The firmware of the tests lies where no user address lies. -/
theorem firmwareUnit_bounds (d : Nat) : Config.firmwareUnit d ≤ 2097151 * d + 2096895 := by
  induction d with
  | zero => have := (Config.firmwareGap 0).isLt; simp only [Config.firmwareUnit]; omega
  | succ d ih => have := (Config.firmwareGap (d + 1)).isLt; simp only [Config.firmwareUnit]; omega

theorem firmwareBase_bounds (d : Nat) (h : d < 8 := by omega) : Config.firmwareBase d + 16777216 ≤ 1099511627776 := by
  have := firmwareUnit_bounds d
  unfold Config.firmwareBase; omega

theorem inAnyFirmware_high (s : State) (a : Nat) (h : 1099511627776 ≤ a) : inAnyFirmware s a = false := by
  have : ∀ d < 8, inFirmware s d a = false := by
    intro d h8
    have hd := firmwareBase_bounds d h8
    have : ¬ a < Config.firmwareBase d + 16777216 := by omega
    simp [inFirmware, firmwareBytes, this]
  simp only [inAnyFirmware, Bool.and_eq_false_imp, List.any_eq_false, List.mem_range]
  exact fun _ d hd => by simp [this d hd]

theorem firmwareCell_high (s : State) (k : Nat) (h : 2 ^ 52 ≤ k) : firmwareCell s k = none := by
  have hd : ∀ d, d < 8 → ¬ (k < cellOf 0 d (Config.firmwareOffset d) + firmwareBytes) := by
    intro d hd
    have := (Config.firmwareUnitIn d).isLt
    unfold cellOf Config.firmwareOffset firmwareBytes
    omega
  have : firstBelow 8 (fun d => decide (cellOf 0 d (Config.firmwareOffset d) ≤ k)
      && decide (k < cellOf 0 d (Config.firmwareOffset d) + firmwareBytes)) = none := by
    unfold firstBelow
    rw [List.find?_eq_none]
    intro d hm
    have := hd d (by simpa using hm)
    simp [this]
  unfold firmwareCell
  rw [this]
  split <;> rfl

theorem fwRegion_word : fwRegion.1.toNat = 0x8811000000000000 + Config.firmwareUnit 0 := by
  have := firmwareUnit_bounds 0
  simp only [fwRegion, BitVec.toNat_ofNat]
  omega

theorem fwRegion_bit (n : Nat) :
    bit fwRegion.1 n = decide ((0x8811000000000000 + Config.firmwareUnit 0) / 2 ^ n % 2 = 1) := by
  rw [bit, BitVec.getLsbD, fwRegion_word, Nat.testBit_eq_decide_div_mod_eq]

theorem fwRegion_members : members fwRegion.1 = [8] := by
  have h := firmwareUnit_bounds 0
  have : ∀ k, k < 9 → bit fwRegion.1 (40 + k) = decide (k = 8) := by
    intro k hk
    rw [fwRegion_bit]
    congr 1
    interval_cases k <;> simp <;> omega
  unfold members
  have h2 : (List.range 9).filter (fun k => bit fwRegion.1 (40 + k)) = (List.range 9).filter (fun k => decide (k = 8)) :=
    List.filter_congr fun k hk => this k (by simpa using hk)
  rw [h2]; rfl

theorem fwRegion_base : regionBase fwRegion.1 = Config.firmwareBase 0 := by
  have := firmwareUnit_bounds 0
  simp only [regionBase, bits, fwRegion_word, Config.firmwareBase]
  omega

/-- The firmware's first two bytes lie in the far tier. -/
theorem cellAt_fw (s : State) (n i : Nat) (hi : i < 2) : cellAt (fw s n) (Config.firmwareBase 0 + i) = some (cellOf 2 8 i) := by
  have hu := firmwareUnit_bounds 0
  have hb := firmwareBase_bounds 0
  have hm := fwRegion_members
  have hbase := fwRegion_base
  have h1 : ¬ regionBase dataRegion.1 ≤ Config.firmwareBase 0 + i := by
    have : regionBase dataRegion.1 = 0x020004000000 := by decide
    omega
  have h1' : ¬ regionBase pairRegion.1 ≤ Config.firmwareBase 0 + i := by
    have : regionBase pairRegion.1 = 0x020004100000 := by decide
    omega
  have h2 : regionValid (fw s n) fwRegion = true := by
    have e1 : bits fwRegion.1 59 58 = 2 := by simp only [bits, fwRegion_word]; omega
    have e2 : bits fwRegion.1 57 56 = 0 := by simp only [bits, fwRegion_word]; omega
    have e3 : bits fwRegion.1 53 49 = 8 := by simp only [bits, fwRegion_word]; omega
    have e4 : bit fwRegion.1 63 = true := by rw [fwRegion_bit]; simp; omega
    have e5 : regionSize fwRegion.2 = 16777216 := by decide
    have e6 : bits fwRegion.2 31 0 = 0 := by decide
    simp only [regionValid, e1, e2, e3, e4, e5, e6, hm]
    simp [memberEnd, fw]
  have h3 : regionOf (fw s n) (Config.firmwareBase 0 + i) = some (2, fwRegion) := by
    have e5 : regionSize fwRegion.2 = 16777216 := by decide
    have : (fw s n).regions = [(0, dataRegion), (1, pairRegion), (2, fwRegion)] := rfl
    rw [regionOf, this]
    have hlt : Config.firmwareBase 0 + i < Config.firmwareBase 0 + 16777216 := by omega
    simp [List.find?, h1, h1', h2, hbase, e5, hlt]
  have e1 : bits fwRegion.1 59 58 = 2 := by simp only [bits, fwRegion_word]; omega
  have e3 : bits fwRegion.1 53 49 = 8 := by simp only [bits, fwRegion_word]; omega
  have e6 : bits fwRegion.2 31 0 = 0 := by decide
  simp only [cellAt, h3, homeIn, hm, hbase, e1, e3, e6]
  have : Config.firmwareBase 0 + i - Config.firmwareBase 0 = i := by omega
  rw [this]
  have h7 : i / 256 = 0 := by omega
  have h8 : i % 256 = i := by omega
  simp [h7, h8]

theorem svecGood_fw (s : State) (n : Nat := 0) (hn0 : dieOf n = 0 := by decide) : svecGood (fw s n) n = true := by
  have hu := firmwareUnit_bounds 0
  have hb := firmwareBase_bounds 0
  have hv : ((fw s n).core n).svec = 0xFFFF000000000000#64 + BitVec.ofNat 64 (Config.firmwareBase 0 + 2) := by
    simp [fw, State.core, Tab.get_insert]
  have hn : ((fw s n).core n).svec.toNat = 0xFFFF000000000000 + (Config.firmwareBase 0 + 2) := by
    rw [hv, BitVec.toNat_add, BitVec.toNat_ofNat, BitVec.toNat_ofNat]; omega
  have ha : bits ((fw s n).core n).svec 47 0 = Config.firmwareBase 0 + 2 := by
    simp only [bits, hn, Config.firmwareBase]; omega
  have hh : bits ((fw s n).core n).svec 63 48 = 0xFFFF := by
    simp only [bits, hn]; omega
  have hl : (Config.firmwareBase 0 + 2) % 64 = 2 := by unfold Config.firmwareBase; omega
  have hp : physRead (fw s n) (Config.firmwareBase 0) 2 = 0x0800 := by
    have c0 := cellAt_fw s n 0 (by omega)
    have c1 := cellAt_fw s n 1 (by omega)
    have b0 : (fw s n).byteAt (cellOf 2 8 0) = 0 := by
      rw [State.byteAt, firmwareCell_high _ _ (by decide)]; rfl
    have b1 : (fw s n).byteAt (cellOf 2 8 1) = 8 := by
      rw [State.byteAt, firmwareCell_high _ _ (by decide)]; rfl
    rw [Nat.add_zero] at c0
    simp only [physRead, show List.range 2 = [0, 1] from rfl, List.map_cons, List.map_nil, Nat.add_zero, c0, c1, b0, b1]
    rfl
  simp only [svecGood, ha, hh, hl]
  have h4 : Config.firmwareBase 0 + 2 - 2 = Config.firmwareBase 0 := by omega
  rw [h4, hp]
  have h5 : (Config.firmwareBase 0 + 2) % 2 = 0 := by omega
  have h6 : inFirmware (fw s n) (dieOf n) (Config.firmwareBase 0 + 2) = true := by
    rw [hn0]
    simp [inFirmware, firmwareLoaded, fw, firmwareBytes]
  simp [h5, h6]

/-! When a strand is ready, as a check that computes. -/

/-- The conditions of `Checked`, computed. -/
def checkedB (s : State) (cx : Ctx) (u : Uses) : Bool :=
  !isIllegal s cx u && (!u.privileged || cx.st.kind == .supervisor)
    && (!isBlockedKind cx.st || (!u.blocking && (sourcePorts u).isEmpty)) && (unboundPort cx.st u).isNone
    && (engineFault s cx.core cx.st u.sync (readNums u ++ writeNums u)).isNone
    && (operandNums u ++ readNums u).all (fun n => !cx.st.owed.contains n)
    && (!operandsKnown s cx u || !u.invalid (readReg s cx))
    && (sourcePorts u).all (fun k => !portHeld s cx k)
    && ((sourcePorts u).isEmpty || !cx.st.acquiring)
    && (sourcePorts u).all fun k => match headOf s cx.st k with | some e => !e.bad | none => false

/-- The conditions of `Ready`, computed. -/
def readyB (s : State) (cx : Ctx) (u : Uses) : Bool :=
  checkedB s cx u
    && (writeNums u).all (fun n => !cx.st.owed.contains n)
    && ((u.vsrc.isEmpty && u.vdst.isEmpty) || !unitsOff s cx.core)
    && (destPorts u ++ u.named.map (·.1)).all (fun k => !portHeld s cx k)
    && (sourcePorts u).all (fun k => match headOf s cx.st k with | some e => e.tag == 0 | none => true)
    && (readNums u).all (fun n => (cx.st.poison.find n).isNone)
    && ((destPorts u).isEmpty || (!fenced s cx.st && (portFull s cx.st (destPorts u) 1).isNone))

theorem checked_of {s : State} {cx : Ctx} {u : Uses} (h1 : current s = some cx) (h2 : checkedB s cx u = true) :
    Checked s cx u := by
  simp only [checkedB, Bool.and_eq_true, Bool.or_eq_true, Bool.not_eq_true', List.all_eq_true, List.isEmpty_iff,
    Option.isNone_iff_eq_none, beq_iff_eq] at h2
  obtain ⟨⟨⟨⟨⟨⟨⟨⟨⟨a, b⟩, c⟩, d⟩, e⟩, f⟩, v⟩, h⟩, i⟩, j⟩ := h2
  refine ⟨h1, a, fun hp => ?_, fun hk => ?_, d, e, fun n hn => ?_, fun hv => ?_, h, fun hs => ?_, fun k hk => ?_⟩
  · rcases b with b | b
    · rw [hp] at b; exact absurd b (by simp)
    · exact b
  · rcases c with c | c
    · rw [hk] at c; exact absurd c (by simp)
    · exact c
  · have := f n hn; simpa using this
  · rcases v with v | v
    · rw [hv] at v; exact absurd v (by simp)
    · exact v
  · rcases i with i | i
    · exact absurd i hs
    · exact i
  · have := j k hk
    split at this
    · rename_i e he; exact ⟨e, he, by simpa using this⟩
    · simp at this

theorem ready_of {s : State} {cx : Ctx} {u : Uses} (h1 : current s = some cx) (h2 : readyB s cx u = true) :
    Ready s cx u := by
  simp only [readyB, Bool.and_eq_true, Bool.or_eq_true, List.all_eq_true, List.isEmpty_iff, Option.isNone_iff_eq_none,
    Bool.not_eq_true'] at h2
  obtain ⟨⟨⟨⟨⟨⟨a, o⟩, g⟩, f⟩, b⟩, c⟩, d⟩ := h2
  refine { toChecked := checked_of h1 a, owedNot := fun n hn => ?_, units := fun hv => ?_, outFree := f,
           data := fun k hk e he => ?_, clean := c, room := fun hd => d.resolve_left hd }
  · have := o n hn; simpa using this
  · rcases g with g | g
    · rcases hv with hv | hv
      · exact absurd g.1 hv
      · exact absurd g.2 hv
    · exact g
  · have := b k hk
    rw [he] at this
    simpa using this

/-- The strand that issues in a state of the tests is ready, whenever the check says so. -/
theorem ready0 {st : Strand} {i : Instr} (h1 : current (with0 st) = some (cx0 st))
    (h2 : readyB (with0 st) (cx0 st) (usesOf (with0 st) (cx0 st) i) = true) :
    Ready (with0 st) (cx0 st) (usesOf (with0 st) (cx0 st) i) := ready_of h1 h2

theorem canTrap_fw (s : State) (cx : Ctx) (hc : cx.core = 0) (hk : cx.st.kind ≠ .supervisor) : CanTrap (fw s) cx :=
  ⟨by rw [hc]; exact svecGood_fw s, fun h => absurd h hk⟩

theorem canTrap_fwSup (s : State) (cx : Ctx) (hc : cx.core = 0) (hk : bit ((fw s).core 0).ecause 11 = false) : CanTrap (fw s) cx :=
  ⟨by rw [hc]; exact svecGood_fw s, fun _ => by rw [hc]; exact hk⟩

/-- Bytes off every firmware region read as memory holds them. -/
theorem readCells_high (s : State) (cells : List Nat) (h : ∀ c ∈ cells, 2 ^ 52 ≤ c) : readCells s cells = cells.map s.cell := by
  unfold readCells
  refine List.map_congr_left fun c hc => ?_
  rw [State.byteAt, firmwareCell_high s c (h c hc)]

/-! What meets the hypotheses of the statements about every instruction. -/

/-- One well-formed instruction of each family of the opcode table. -/
def sample : List Instr :=
  [.add (.x 1) (.x 2) (.x 3), .seq (.x 1) (.q 0) (.e 7), .li (.x 1) 5, .bz (.x 1) false 2 1, .loop (.x 5) 0x1FFFFF 31,
    .vadd 1 2 3 (.x 0) .f32 .sto, .vcvt 1 2 (.x 0) .s8 .rne .s16 1 false, .ldv 1 ⟨.x 1, .x 2, 6, 8⟩, .stvs 1 (.x 1) (.x 2) (.x 3) .w8,
    .fence .sys .acqrel, .exit, .eret, .csrr (.x 9) 0x023]

theorem sample_good : ∀ i ∈ sample, wellFormed i = true ∧ (encode i).isSome = true := by decide

theorem witness_DecodeOfEncode : ∃ i h t, wellFormed i = true ∧ encode i = some (h, t) :=
  ⟨.add (.x 1) (.x 2) (.x 3), _, _, by decide, rfl⟩

theorem witness_EncodeOfDecode : ∃ h t i, decode h t = .ok i ∧ t.toNat < 2 ^ (16 * tailLen h) :=
  ⟨0xF112, 0x00000023, .csrr (.x 9) 0x023, by decide, by decide⟩

theorem witness_StepKeepsMemoryCanonical :
    ∃ s t, s.memWf = true ∧ s.mem ≠ [] ∧ step s = .next t ∧ s.agenda = [.host 0x40 [1]] :=
  ⟨{ base with agenda := [.host 0x40 [1]] }, _, by decide, by decide, rfl, rfl⟩

theorem witness_StepNotesWakes : ∃ s t e, step s = .next t ∧ e ∈ t.strands ∧ 32 ≤ e.1 % 256 ∧ e.1 % 256 < 96 ∧
    wakeHolds t (e.1 / 256) e.2 = true :=
  ⟨{ base with agenda := [.host 0x40 [1]], strands := [(placeKey 0 32, { user with wake := some (.counter 0 5) })] }, _,
    (placeKey 0 32, { user with wake := some (.counter 0 5) }), rfl, List.mem_singleton.mpr rfl, by decide, by decide, by decide⟩

/-- The instruction at the fetch place is add x0, x0, x0, whichever way the step comes to it; and an event row. -/
theorem witness_StepRunsDecoded :
    (∃ r s cx bytes rest, prepare r 0 = s ∧ current (atCursor s 0 0) = some cx ∧
      codeLine (atCursor s 0 0) (partyOf cx.core cx.st) cx.st.pc = .ok bytes ∧
      malformed bytes = false ∧ cx.st.pc.toNat % 2 = 0 ∧ 1 ≤ headOfPc cx.st.pc ∧ headOfPc cx.st.pc ≤ headCount (halfAt bytes 0) ∧
      decode (halfAt bytes (headOfPc cx.st.pc)) (tailOf bytes (headOfPc cx.st.pc)) = .ok (.add (.x 0) (.x 0) (.x 0)) ∧
      candidates s 0 = 0 :: rest ∧ nextHeld s 0 = none ∧ nextHeld r 0 = none ∧
      r.agenda = [] ∧ r.cursor.others = false ∧ r.cursor.core = 0) ∧
    (∃ q r : State, q.agenda = [.arbiter 0] ∧ r = { q with agenda := [] } ∧ r = State.reset.withFetchWord 32 0x00800000) ∧
    encode (.agedLevel 0 0) = none :=
  ⟨⟨State.reset.withFetchWord 32 0x00800000, _, _, _, _, rfl, rfl, rfl, by decide, by decide, by decide, by decide, by decide, rfl, by decide,
      by decide, rfl, rfl, rfl⟩,
    ⟨{ State.reset.withFetchWord 32 0x00800000 with agenda := [.arbiter 0] }, _, rfl, rfl, rfl⟩, rfl⟩

/-! Traps before an instruction. -/

/-- The cells of a line of object 2. -/
def lineCells (n : Nat) : List Nat := (List.range 64).map (regionCell (0x10000 + 64 * n) + ·)

/-- A code line of the tests as fetch reads it, the firmware loaded or not. -/
theorem codeLine_fw (st : Strand) (n : Nat) (core slot : Nat) (h : ∀ c ∈ lineCells n, 2 ^ 52 ≤ c)
    (p : Party) (a : Word)
    (hl : codeLine (atCursor (fw (with0 st)) core slot) p a = .ok (readCells (atCursor (fw (with0 st)) core slot) (lineCells n))) :
    codeLine (atCursor (fw (with0 st)) core slot) p a = .ok ((lineCells n).map fun k => Tab.get 0 k mem0) := by
  rw [hl, readCells_high _ _ h]; rfl

/-- A malformed line, a head that is none, and a head that does not decode. -/
theorem witness_FetchTraps :
    (∃ s cx bytes, current (atCursor s 0 0) = some cx ∧ CanTrap (atCursor s 0 0) cx ∧
      codeLine (atCursor s 0 0) (partyOf cx.core cx.st) cx.st.pc = .ok bytes ∧ malformed bytes = true) ∧
    (∃ s cx bytes, current (atCursor s 0 0) = some cx ∧ CanTrap (atCursor s 0 0) cx ∧
      codeLine (atCursor s 0 0) (partyOf cx.core cx.st) cx.st.pc = .ok bytes ∧ malformed bytes = false ∧
      headCount (halfAt bytes 0) < headOfPc cx.st.pc) ∧
    (∃ s cx bytes e, current (atCursor s 0 0) = some cx ∧ CanTrap (atCursor s 0 0) cx ∧
      codeLine (atCursor s 0 0) (partyOf cx.core cx.st) cx.st.pc = .ok bytes ∧ malformed bytes = false ∧
      cx.st.pc.toNat % 2 = 0 ∧ 1 ≤ headOfPc cx.st.pc ∧ headOfPc cx.st.pc ≤ headCount (halfAt bytes 0) ∧
      decode (halfAt bytes (headOfPc cx.st.pc)) (tailOf bytes (headOfPc cx.st.pc)) = .error e) :=
  ⟨⟨fw (with0 { user with pc := 0x00020000000000C2 }), cx0 { user with pc := 0x00020000000000C2 }, _, rfl,
      canTrap_fw _ _ rfl (by decide), codeLine_fw _ 3 0 0 (by decide) _ _ rfl, by decide⟩,
    ⟨fw (with0 { user with pc := 0x0002000000000084 }), cx0 { user with pc := 0x0002000000000084 }, _, rfl,
      canTrap_fw _ _ rfl (by decide), codeLine_fw _ 2 0 0 (by decide) _ _ rfl, by decide, by decide⟩,
    ⟨fw (with0 user), cx0 user, _, .tailLength, rfl,
      canTrap_fw _ _ rfl (by decide), codeLine_fw _ 0 0 0 (by decide) _ _ rfl, by decide, by decide, by decide, by decide, by decide⟩⟩

/-- x24 in the W16 shape, v16 in the W16 shape, and e7 as a destination. -/
theorem witness_AbsentRegistersTrap : ∀ i ∈ [Instr.add (.x 24) (.x 1) (.x 2), .ldv 16 ⟨.x 1, .x 0, 0, 0⟩, .add (.e 7) (.x 1) (.x 2)],
    ∃ s cx, (encode i).isSome = true ∧ current s = some cx ∧ CanTrap s cx ∧ NamesAbsent s cx (usesOf s cx i) := by
  intro i hi
  refine ⟨fw (with0 user), cx0 user, ?_, rfl, canTrap_fw _ _ rfl (by decide), ?_⟩
  · revert i; decide
  · rcases List.mem_cons.mp hi with rfl | hi
    · exact .inl ⟨rfl, 24, by decide, by decide⟩
    rcases List.mem_cons.mp hi with rfl | hi
    · exact .inr (.inl ⟨rfl, 16, by decide, by decide⟩)
    · rw [List.mem_singleton.mp hi]; exact .inr (.inr ⟨7, by decide⟩)

/-- A user strand at eret, at tlbw and at a csrr of a core register. -/
theorem witness_PrivilegedTraps : ∀ i ∈ [Instr.eret, .tlbw (.x 1) (.x 2), .csrr (.x 9) 0x101],
    ∃ s cx, (encode i).isSome = true ∧ current s = some cx ∧ CanTrap s cx ∧ cx.st.kind ≠ .supervisor ∧
      Lawful s cx (usesOf s cx i) ∧ (usesOf s cx i).privileged = true := by
  intro i hi
  refine ⟨fw (with0 user), cx0 user, ?_, rfl, canTrap_fw _ _ rfl (by decide), by decide, ⟨?_, ?_, ?_⟩, ?_⟩
  · revert i; decide
  · revert i; decide
  · intro n _; exact List.not_mem_nil
  · simp only [List.mem_cons, List.not_mem_nil, or_false] at hi
    rcases hi with rfl | rfl | rfl <;> decide
  · revert i; decide

/-- A strand of another kind. -/
def kindOf (k : StrandKind) : Strand := { user with kind := k }

/-- A row handler at wait, a row handler that names a source port, and a porter strand at yield. -/
theorem witness_BlockingTraps :
    ∀ p ∈ [(StrandKind.handler, Instr.wait 0 0 0 0), (.handler, .add (.x 1) (.q 0) (.x 2)), (.porter, .yield)],
    ∃ s cx, (encode p.2).isSome = true ∧ current s = some cx ∧ CanTrap s cx ∧ cx.st.kind = p.1 ∧
      (p.1 = .handler ∨ p.1 = .porter) ∧
      Lawful s cx (usesOf s cx p.2) ∧ (usesOf s cx p.2).privileged = false ∧
      ((usesOf s cx p.2).blocking = true ∨ sourcePorts (usesOf s cx p.2) ≠ []) := by
  intro p hp
  simp only [List.mem_cons, List.not_mem_nil, or_false] at hp
  rcases hp with rfl | rfl | rfl
  · exact ⟨fw (with0 (kindOf .handler)), cx0 (kindOf .handler), by decide, rfl, canTrap_fw _ _ rfl (by decide), rfl, by decide,
      ⟨by decide, by decide, by decide⟩, by decide, by decide⟩
  · exact ⟨fw (with0 (kindOf .handler)), cx0 (kindOf .handler), by decide, rfl, canTrap_fw _ _ rfl (by decide), rfl, by decide,
      ⟨by decide, by decide, by decide⟩, by decide, by decide⟩
  · exact ⟨fw (with0 (kindOf .porter)), cx0 (kindOf .porter), by decide, rfl, canTrap_fw _ _ rfl (by decide), rfl, by decide,
      ⟨by decide, by decide, by decide⟩, by decide, by decide⟩

/-- An unbound source, a source used as a destination, and by their own rules: a token pushed to a source, a try and a length of a
port that is not bound, lane numbers pushed to a source, a park on a destination, a target for a destination, and a stream whose data
port is a source. -/
theorem witness_UnboundPortsTrap : ∀ p ∈ [(Instr.add (.x 1) (.q 7) (.x 2), 7), (.add (.q 0) (.x 1) (.x 2), 0), (.qtok 1 0 (.x 1), 0),
      (.qtry (.x 5) (.x 6) (.q 7), 7), (.qlen (.x 5) (.q 7), 7), (.vnzx (.q 0) 1 (.x 0) (.x 6) (.x 0) .f16, 0), (.parkQ 1, 1),
      (.qtvec (.q 1) (.x 6), 1), (.refs (.x 1) (.x 2) (.q 0) (.q 2) (.x 0) false 0 none, 2)],
    ∃ s cx, (encode p.1).isSome = true ∧ current s = some cx ∧ CanTrap s cx ∧ Lawful s cx (usesOf s cx p.1) ∧
      (usesOf s cx p.1).privileged = false ∧ isBlockedKind cx.st = false ∧ Unbound cx.st (usesOf s cx p.1) p.2 := by
  intro p hp
  refine ⟨fw (with0 user), cx0 user, ?_, rfl, canTrap_fw _ _ rfl (by decide), ⟨?_, ?_, ?_⟩, ?_, by decide, ?_⟩
  · revert p; decide
  · revert p; decide
  · intro n _; exact List.not_mem_nil
  · simp only [List.mem_cons, List.not_mem_nil, or_false] at hp
    rcases hp with rfl | rfl | rfl | rfl | rfl | rfl | rfl | rfl | rfl <;> decide
  · revert p; decide
  · simp only [List.mem_cons, List.not_mem_nil, or_false] at hp
    rcases hp with rfl | rfl | rfl | rfl | rfl | rfl | rfl | rfl | rfl <;> unfold Unbound <;> decide

/-- A token at port 2, whose target is head 1 of line 1; data at port 0 before it. -/
theorem witness_TokenDiverts : ∃ s cx e p, let i := Instr.add (.x 1) (.q 0) (.q 2)
    (encode i).isSome = true ∧ Checked s cx (usesOf s cx i) ∧ 2 ∈ sourcePorts (usesOf s cx i) ∧ headOf s cx.st 2 = some e ∧ e.tag ≠ 0 ∧
      (∀ j ∈ sourcePorts (usesOf s cx i), j < 2 → ∀ f, headOf s cx.st j = some f → f.tag = 0) ∧
      portOf cx.st 2 = some p ∧ p.target ≠ 0 ∧ checkHead s (partyOf cx.core cx.st) p.target = .good := by
  refine ⟨with0 user, cx0 user, elem 2 0x55, ⟨2, false, 0x0002000000000042⟩, by decide, checked_of rfl (by decide), by decide, rfl,
    by decide, ?_, rfl, by decide, by decide⟩
  intro j hj hlt f hf
  have h0 : ∀ j ∈ sourcePorts (usesOf (with0 user) (cx0 user) (.add (.x 1) (.q 0) (.q 2))), j < 2 → j = 0 := by decide
  have := h0 j hj hlt
  subst this
  have : f = elem 0 0xAB := by
    have h : headOf (with0 user) (cx0 user).st 0 = some (elem 0 0xAB) := rfl
    rw [h] at hf; exact (Option.some.inj hf).symm
  subst this; rfl

/-- A strand whose port 2 holds a token and has a target. -/
def tokenAt (t : Word) : Strand := { user with ports := [(2, ⟨2, false, t⟩)] }

/-- The same token where the port has no target, and where its target is no head. -/
theorem witness_TokenWithoutTarget : ∀ t ∈ [(0 : Word), 0x0002000000000041], ∃ s cx e p, let i := Instr.mov (.x 1) (.q 2)
    (encode i).isSome = true ∧ Checked s cx (usesOf s cx i) ∧ CanTrap s cx ∧ 2 ∈ sourcePorts (usesOf s cx i) ∧
      headOf s cx.st 2 = some e ∧ e.tag ≠ 0 ∧
      (∀ j ∈ sourcePorts (usesOf s cx i), j < 2 → ∀ f, headOf s cx.st j = some f → f.tag = 0) ∧
      portOf cx.st 2 = some p ∧ p.target = t ∧ (t ≠ 0 → checkHead s (partyOf cx.core cx.st) t = .bad) := by
  intro t ht
  have hp : ∀ j ∈ [2], j < 2 → False := by decide
  simp only [List.mem_cons, List.not_mem_nil, or_false] at ht
  rcases ht with rfl | rfl
  · exact ⟨fw (with0 (tokenAt 0)), cx0 (tokenAt 0), elem 2 0x55, ⟨2, false, 0⟩, by decide, checked_of rfl (by decide),
      canTrap_fw _ _ rfl (by decide), by decide, rfl, by decide, fun j hj hlt => (hp j hj hlt).elim, rfl, rfl, fun h => absurd rfl h⟩
  · refine ⟨fw (with0 (tokenAt 0x0002000000000041)), cx0 (tokenAt 0x0002000000000041), elem 2 0x55, ⟨2, false, 0x0002000000000041⟩,
      by decide, checked_of rfl (by decide),
      canTrap_fw _ _ rfl (by decide), by decide, rfl, by decide, fun j hj hlt => (hp j hj hlt).elim, rfl, rfl, fun _ => ?_⟩
    have hl := codeLine_fw (tokenAt 0x0002000000000041) 1 0 0 (by decide) (partyOf 0 (tokenAt 0x0002000000000041)) 0x0002000000000041 rfl
    have hl' : codeLine (fw (with0 (tokenAt 0x0002000000000041))) (partyOf 0 (tokenAt 0x0002000000000041)) 0x0002000000000041 =
      .ok ((lineCells 1).map fun k => Tab.get 0 k mem0) := hl
    unfold checkHead
    rw [show (cx0 (tokenAt 0x0002000000000041)).core = 0 from rfl,
      show (cx0 (tokenAt 0x0002000000000041)).st = tokenAt 0x0002000000000041 from rfl, hl']
    decide

/-- x2 is poisoned. -/
theorem witness_PoisonedReadTraps : ∃ s cx, let i := Instr.add (.x 1) (.x 2) (.x 3)
    (encode i).isSome = true ∧ Checked s cx (usesOf s cx i) ∧ CanTrap s cx ∧ sourcePorts (usesOf s cx i) = [] ∧
      2 ∈ readNums (usesOf s cx i) ∧ cx.st.poison.find 2 = some (0, 0x40) :=
  ⟨fw (with0 { user with poison := [(2, (0, 0x40))] }), cx0 { user with poison := [(2, (0, 0x40))] }, by decide,
    checked_of rfl (by decide), canTrap_fw _ _ rfl (by decide), by decide, by decide, rfl⟩

/-- The supervisor strand, handling a trap of its own, names x24; room is left for the event. -/
theorem witness_DoubleTrap : ∃ s cx, let i := Instr.add (.x 24) (.x 1) (.x 2)
    (encode i).isSome = true ∧ current s = some cx ∧ cx.st.kind = .supervisor ∧ bit (s.core cx.core).ecause 11 = true ∧
      NamesAbsent s cx (usesOf s cx i) ∧ s.pkg.events.length < 256 ∧ (∃ l ∈ s.launches, l.phase = .running) :=
  ⟨{ withSup sup with cores := [(0, { core0 with supRunning := true, ecause := 0x800 })] }, cxSup sup, by decide, rfl, rfl, by decide,
    .inl ⟨rfl, 24, by decide, by decide⟩, by decide, launch0, List.mem_singleton.mpr rfl, rfl⟩

/-! Scalar computation and control flow. -/

/-- The strand of the tests can run an instruction now: it is ready, and goes on to the next head. -/
def Runs (s : State) (cx : Ctx) (i : Instr) : Prop :=
  Ready s cx (usesOf s cx i) ∧ ∃ pc, nextPc s.cursor.header cx.st.pc = some pc

theorem runs_of {st : Strand} {i : Instr} (h1 : current (with0 st) = some (cx0 st))
    (h2 : readyB (with0 st) (cx0 st) (usesOf (with0 st) (cx0 st) i) = true)
    (h3 : (nextPc 0xF800 st.pc).isSome = true) : Runs (with0 st) (cx0 st) i :=
  ⟨ready_of h1 h2, Option.isSome_iff_exists.mp h3⟩

/-- One instruction of each shape, one reading a port and one writing a port among them. -/
theorem witness_ArithmeticResults :
    (∀ i ∈ [Instr.add (.x 1) (.x 2) (.x 3), .sub (.q 1) (.q 0) (.x 0), .div (.x 1) (.x 2) (.x 0), .sext (.x 0) (.x 2) 63, .clz (.x 1) (.x 0)],
      (∃ d f, arithmetic i = some (d, f)) ∧ Runs (with0 user) (cx0 user) i) ∧
    Runs (with0 user) (cx0 user) (.bext (.x 1) (.x 2) (.x 5)) ∧ Runs (with0 user) (cx0 user) (.bdep (.x 1) (.x 2) (.x 5)) := by
  refine ⟨fun i hi => ⟨?_, ?_⟩, runs_of rfl (by decide) (by decide), runs_of rfl (by decide) (by decide)⟩
  · simp only [List.mem_cons, List.not_mem_nil, or_false] at hi
    rcases hi with rfl | rfl | rfl | rfl | rfl <;> exact ⟨_, _, rfl⟩
  · refine runs_of rfl ?_ (by decide)
    revert i; decide

/-- A strand at the one head of a line of object 2. -/
def atLine (n : Nat) : Strand := { user with pc := BitVec.ofNat 64 (0x0002000000000002 + 64 * n) }

/-- The heads of major 0x03 with minors 6 and 15, met in a line. -/
theorem witness_CompareResults :
    ((∃ d f, comparison (.sltw (.x 1) (.x 2) (.x 3)) = some (d, f)) ∧ Runs (with0 user) (cx0 user) (.sltw (.x 1) (.x 2) (.x 3))) ∧
    (∀ p ∈ [(4, 6), (5, 15)], ∃ s cx bytes, current (atCursor s 0 0) = some cx ∧ CanTrap (atCursor s 0 0) cx ∧
      codeLine (atCursor s 0 0) (partyOf cx.core cx.st) cx.st.pc = .ok bytes ∧ malformed bytes = false ∧
      cx.st.pc.toNat % 2 = 0 ∧ 1 ≤ headOfPc cx.st.pc ∧ headOfPc cx.st.pc ≤ headCount (halfAt bytes 0) ∧
      halfAt bytes (headOfPc cx.st.pc) = BitVec.ofNat 16 (0x0680 + 2 * 1) ∧
      tailOf bytes (headOfPc cx.st.pc) = BitVec.ofNat 48 (1024 * 0 + 16 * 0 + p.2) ∧ cx.st.pc = (atLine p.1).pc) := by
  refine ⟨⟨⟨_, _, rfl⟩, runs_of rfl (by decide) (by decide)⟩, fun p hp => ?_⟩
  simp only [List.mem_cons, List.not_mem_nil, or_false] at hp
  rcases hp with rfl | rfl
  · exact ⟨fw (with0 (atLine 4)), cx0 (atLine 4), _, rfl, canTrap_fw _ _ rfl (by decide), codeLine_fw _ 4 0 0 (by decide) _ _ rfl,
      by decide, by decide, by decide, by decide, by decide, by decide, rfl⟩
  · exact ⟨fw (with0 (atLine 5)), cx0 (atLine 5), _, rfl, canTrap_fw _ _ rfl (by decide), codeLine_fw _ 5 0 0 (by decide) _ _ rfl,
      by decide, by decide, by decide, by decide, by decide, by decide, rfl⟩

theorem witness_ImmediateResults : ∀ i ∈ [Instr.addi (.x 1) (.x 2) 0x8000, .li (.x 1) 0x3F, .li32 (.x 1) 0x80000000,
      .lea (.x 1) ⟨.x 1, .x 2, 6, 3⟩, .lea (.x 1) ⟨.x 1, .x 0, 6, 3⟩, .sel (.q 1) (.q 0) (.x 2) (.x 3)],
    (∃ d f, immediate i = some (d, f)) ∧ Runs (with0 user) (cx0 user) i := by
  refine fun i hi => ⟨?_, ?_⟩
  · simp only [List.mem_cons, List.not_mem_nil, or_false] at hi
    rcases hi with rfl | rfl | rfl | rfl | rfl | rfl <;> exact ⟨_, _, rfl⟩
  · refine runs_of rfl ?_ (by decide)
    revert i; decide

/-- The line that the strand executes has one head and its stop bit set (R35). -/
def stopLine (s : State) : State := { s with cursor := { s.cursor with header := 0x0C00 } }

theorem witness_RetireThenTrap :
    (∃ s cx, cx.st.kind ≠ .supervisor ∧ svecGood s cx.core = true ∧ Ready s cx (usesOf s cx (.ecall 0xFF))) ∧
    (∃ s cx, cx.st.kind ≠ .supervisor ∧ svecGood s cx.core = true ∧ Ready s cx (usesOf s cx (.ebreak 3))) ∧
    (∃ i d f s cx, scalarResult i = some (d, f) ∧ Ready s cx (usesOf s cx i) ∧ CanTrap s cx ∧ nextPc s.cursor.header cx.st.pc = none) ∧
    (∃ (s : State) (cx : Ctx) (d : Done), d.jump ≠ none ∨ nextPc s.cursor.header cx.st.pc ≠ none) ∧
    (∃ (s : State) (cx : Ctx) (d : Done) (t0 : State), d.jump = none ∧ nextPc s.cursor.header cx.st.pc = none ∧ svecGood t0 cx.core = true ∧ d.st.kind ≠ .supervisor) :=
  ⟨⟨fw (with0 user), cx0 user, by decide, svecGood_fw _, ready_of rfl (by decide)⟩,
    ⟨fw (with0 user), cx0 user, by decide, svecGood_fw _, ready_of rfl (by decide)⟩,
    ⟨.add (.x 1) (.x 2) (.x 3), _, _, fw (stopLine (with0 user)), cx0 user, rfl, ready_of rfl (by decide), canTrap_fw _ _ rfl (by decide), rfl⟩,
    ⟨with0 user, cx0 user, { s := with0 user, st := user }, .inr (by decide)⟩,
    ⟨stopLine (with0 user), cx0 user, { s := with0 user, st := user }, fw (with0 user), rfl, rfl, svecGood_fw _, by decide⟩⟩

/-- A branch whose condition is false, one that is taken to head 31 of line 1, and taken ones whose target is head 0, head 2 of a
line of one head, a malformed line, a line of a data object, one of another object id, lines of a page declined, and a line with an
uncorrectable error. -/
theorem witness_BranchResults :
    (∃ f off h, branchOf (.bne (.x 2) false (.x 2) 1 31) = some (f, off, h) ∧ f (readReg (with0 user) (cx0 user)) = false) ∧
    Runs (with0 user) (cx0 user) (.bne (.x 2) false (.x 2) 1 31) ∧
    (∃ f off h, branchOf (.beq (.x 2) true (.x 2) 1 31) = some (f, off, h) ∧ f (readReg (with0 user) (cx0 user)) = true ∧
      GoodTarget (with0 user) (cx0 user) (targetLine (cx0 user) off) h) ∧
    Ready (with0 user) (cx0 user) (usesOf (with0 user) (cx0 user) (.beq (.x 2) true (.x 2) 1 31)) ∧
    (∃ s cx, CanTrap s cx ∧ Ready s cx (usesOf s cx (.bz (.x 0) false 1 0)) ∧
      ∃ bytes, codeLine s (partyOf cx.core cx.st) (targetLine cx (1 : BitVec 21)) = .ok bytes ∧ malformed bytes = false) ∧
    (∃ s cx, CanTrap s cx ∧ Ready s cx (usesOf s cx (.bz (.x 0) false 2 2)) ∧
      ∃ bytes, codeLine s (partyOf cx.core cx.st) (targetLine cx (2 : BitVec 21)) = .ok bytes ∧ malformed bytes = false ∧
        headCount (halfAt bytes 0) < 2) ∧
    (∃ s cx, CanTrap s cx ∧ Ready s cx (usesOf s cx (.bz (.x 0) false 3 1)) ∧
      ∃ bytes, codeLine s (partyOf cx.core cx.st) (targetLine cx (3 : BitVec 21)) = .ok bytes ∧ malformed bytes = true) ∧
    (∃ s cx, CanTrap s cx ∧ Ready s cx (usesOf s cx (.bz (.x 0) false 0 1)) ∧
      codeLine s (partyOf cx.core cx.st) (targetLine cx (0 : BitVec 21)) = .error .permission) ∧
    (∃ s cx, CanTrap s cx ∧ Ready s cx (usesOf s cx (.bz (.x 0) false 0x1FFFFF 1)) ∧ oidOf (targetLine cx (0x1FFFFF : BitVec 21)) ≠ oidOf cx.st.pc) ∧
    (∀ p ∈ [(2, LineFail.bounds), (1, .absent)], ∃ s cx, CanTrap s cx ∧ Ready s cx (usesOf s cx (.bz (.x 0) false 1024 1)) ∧
      oidOf (targetLine cx (1024 : BitVec 21)) = oidOf cx.st.pc ∧ cx.st.declines = [(0x200000001, p.1)] ∧
      codeLine s (partyOf cx.core cx.st) (targetLine cx (1024 : BitVec 21)) = .error p.2) ∧
    (∀ h ∈ [(0 : BitVec 5), 1], ∃ s cx, CanTrap s cx ∧ Ready s cx (usesOf s cx (.bz (.x 0) false 1 h)) ∧
      oidOf (targetLine cx (1 : BitVec 21)) = oidOf cx.st.pc ∧ codeLine s (partyOf cx.core cx.st) (targetLine cx (1 : BitVec 21)) = .error .poisoned) := by
  refine ⟨⟨_, _, _, rfl, by decide⟩, runs_of rfl (by decide) (by decide),
    ⟨_, _, _, rfl, by decide, by decide, _, rfl, by decide, by decide, by decide⟩, ready0 rfl (by decide),
    ⟨fw (with0 user), cx0 user, canTrap_fw _ _ rfl (by decide), ready_of rfl (by decide), _, codeLine_fw user 1 0 0 (by decide) _ _ rfl, by decide⟩,
    ⟨fw (with0 user), cx0 user, canTrap_fw _ _ rfl (by decide), ready_of rfl (by decide), _, codeLine_fw user 2 0 0 (by decide) _ _ rfl, by decide,
      by decide⟩,
    ⟨fw (with0 user), cx0 user, canTrap_fw _ _ rfl (by decide), ready_of rfl (by decide), _, codeLine_fw user 3 0 0 (by decide) _ _ rfl, by decide⟩,
    ⟨fw (with0 { user with pc := 0x0001000000000002 }), cx0 { user with pc := 0x0001000000000002 }, canTrap_fw _ _ rfl (by decide),
      ready_of rfl (by decide), rfl⟩,
    ⟨fw (with0 user), cx0 user, canTrap_fw _ _ rfl (by decide), ready_of rfl (by decide), by decide⟩, fun p hp => ?_, fun h hh => ?_⟩
  · simp only [List.mem_cons, List.not_mem_nil, or_false] at hp
    rcases hp with rfl | rfl
    · exact ⟨fw (with0 { user with declines := [(0x200000001, 2)] }), cx0 { user with declines := [(0x200000001, 2)] },
        canTrap_fw _ _ rfl (by decide), ready_of rfl (by decide), by decide, rfl, rfl⟩
    · exact ⟨fw (with0 { user with declines := [(0x200000001, 1)] }), cx0 { user with declines := [(0x200000001, 1)] },
        canTrap_fw _ _ rfl (by decide), ready_of rfl (by decide), by decide, rfl, rfl⟩
  · simp only [List.mem_cons, List.not_mem_nil, or_false] at hh
    rcases hh with rfl | rfl <;>
      exact ⟨fw { with0 user with poisoned := [regionCell 0x10040 / 64] }, cx0 user, canTrap_fw _ _ rfl (by decide),
        ready_of rfl (by decide), by decide, by rfl⟩

/-- The strand with an address in x6. -/
def x6At (a : Word) : Strand := { user with xs := [(6, a)] }

/-- jmp, jal, jr to a head, to none and into a malformed line, loop with a counter of 1 and of 0, and a loop head whose A field is 48 or 63. -/
theorem witness_JumpsAndLoops :
    (∀ i ∈ [Instr.jmp 1 31, .jal (.x 1) 1 31, .loop (.x 0) 1 31, .loop (.x 4) 1 31],
      Ready (with0 user) (cx0 user) (usesOf (with0 user) (cx0 user) i)) ∧
    GoodTarget (with0 user) (cx0 user) (targetLine (cx0 user) (1 : BitVec 21)) 31 ∧
    (∃ s cx line holds, CanTrap s cx ∧ Ready s cx (usesOf s cx (.jr (.x 6))) ∧
      checkHead s (partyOf cx.core cx.st) (readReg s cx (.x 6)) = .malformed line holds) ∧
    (readReg (with0 user) (cx0 user) (.x 4) = 1 ∧ readReg (with0 user) (cx0 user) (.x 0) ≠ 1) ∧
    (Ready (with0 user) (cx0 user) (usesOf (with0 user) (cx0 user) (.jr (.x 6))) ∧
      checkHead (with0 user) (partyOf 0 user) (readReg (with0 user) (cx0 user) (.x 6)) = .good) ∧
    (∃ s cx, Ready s cx (usesOf s cx (.ret (.x 2))) ∧ checkHead s (partyOf cx.core cx.st) (readReg s cx (.x 2)) = .bad ∧ CanTrap s cx) ∧
    (∀ p ∈ [(6, 48), (7, 63)], ∃ s cx bytes, current (atCursor s 0 0) = some cx ∧ CanTrap (atCursor s 0 0) cx ∧
      codeLine (atCursor s 0 0) (partyOf cx.core cx.st) cx.st.pc = .ok bytes ∧ malformed bytes = false ∧
      cx.st.pc.toNat % 2 = 0 ∧ 1 ≤ headOfPc cx.st.pc ∧ headOfPc cx.st.pc ≤ headCount (halfAt bytes 0) ∧
      halfAt bytes (headOfPc cx.st.pc) = BitVec.ofNat 16 (0x3B00 + 2 * p.2) ∧
      tailOf bytes (headOfPc cx.st.pc) = 0 ∧ cx.st.pc = (atLine p.1).pc) := by
  refine ⟨fun i hi => ready0 rfl ?_, ⟨by decide, _, rfl, by decide, by decide, by decide⟩,
    ⟨fw (with0 (x6At 0x00020000000000C2)), cx0 (x6At 0x00020000000000C2), 0x00020000000000C0, true, canTrap_fw _ _ rfl (by decide), ready_of rfl (by decide), ?_⟩,
    by decide, ⟨ready0 rfl (by decide), by decide⟩,
    ⟨fw (with0 user), cx0 user, ready_of rfl (by decide), by decide, canTrap_fw _ _ rfl (by decide)⟩, fun p hp => ?_⟩
  · revert i; decide
  · have h : codeLine (fw (with0 (x6At 0x00020000000000C2))) (partyOf 0 (x6At 0x00020000000000C2)) 0x00020000000000C2 =
        .ok ((lineCells 3).map fun k => Tab.get 0 k mem0) :=
      codeLine_fw (x6At 0x00020000000000C2) 3 0 0 (by decide) (partyOf 0 (x6At 0x00020000000000C2)) 0x00020000000000C2 rfl
    rw [checkHead, show readReg (fw (with0 (x6At 0x00020000000000C2))) (cx0 (x6At 0x00020000000000C2)) (.x 6) = 0x00020000000000C2 from rfl,
      show (cx0 (x6At 0x00020000000000C2)).core = 0 from rfl, show (cx0 (x6At 0x00020000000000C2)).st = x6At 0x00020000000000C2 from rfl, h]
    decide
  · simp only [List.mem_cons, List.not_mem_nil, or_false] at hp
    rcases hp with rfl | rfl
    · exact ⟨fw (with0 (atLine 6)), cx0 (atLine 6), _, rfl, canTrap_fw _ _ rfl (by decide), codeLine_fw _ 6 0 0 (by decide) _ _ rfl,
        by decide, by decide, by decide, by decide, by decide, by decide, rfl⟩
    · exact ⟨fw (with0 (atLine 7)), cx0 (atLine 7), _, rfl, canTrap_fw _ _ rfl (by decide), codeLine_fw _ 7 0 0 (by decide) _ _ rfl,
        by decide, by decide, by decide, by decide, by decide, by decide, rfl⟩

/-! Vectors. -/

theorem witness_VectorLanes : ∀ i ∈ [Instr.vadd 1 2 3 (.x 0) .f32 .sto, .vcompress 1 2 (.x 5) .w8, .vins 1 (.x 2) (.x 7) .s64,
      .vsel 1 2 3 (.x 5) .e4m3, .vlog2 1 2 (.x 0) .bf16 .dyn, .vexpand 1 2 (.x 5) .f64],
    wellFormed i = true ∧ (∃ r, laneRow (operandsOf (with0 user) (cx0 user)) i = some r) ∧ Runs (with0 user) (cx0 user) i := by
  refine fun i hi => ⟨?_, ?_, ?_⟩
  · revert i; decide
  · simp only [List.mem_cons, List.not_mem_nil, or_false] at hi
    rcases hi with rfl | rfl | rfl | rfl | rfl | rfl <;> exact ⟨_, rfl⟩
  · refine runs_of rfl ?_ (by decide)
    revert i; decide

theorem witness_VectorConversions : ∀ i ∈ [Instr.vcvt 1 2 (.x 0) .s8 .rne .s16 1 false, .vpackmx 1 2 (.x 7) (.x 0) .e2m1 .rne .f32 7 true,
      .vunpackmx 1 2 (.x 7) (.x 5) .f32 .rne .e4m3 3],
    wellFormed i = true ∧ (∃ r, conversionRow (operandsOf (with0 user) (cx0 user)) i = some r) ∧ Runs (with0 user) (cx0 user) i := by
  refine fun i hi => ⟨?_, ?_, ?_⟩
  · revert i; decide
  · simp only [List.mem_cons, List.not_mem_nil, or_false] at hi
    rcases hi with rfl | rfl | rfl <;> exact ⟨_, rfl⟩
  · refine runs_of rfl ?_ (by decide)
    revert i; decide

theorem witness_VectorScan : ∀ i ∈ [Instr.vscan 1 2 (.x 5) .f32 .sto 0, .vscan 1 2 (.x 0) .s8 .rne 2],
    wellFormed i = true ∧ Runs (with0 user) (cx0 user) i := by
  refine fun i hi => ⟨?_, runs_of rfl ?_ (by decide)⟩ <;> revert i <;> decide

theorem witness_VectorScalars :
    (∀ i ∈ [Instr.vcmpun (.x 1) 2 3 (.x 5) .f64, .vcmpeq (.q 1) 2 3 (.x 0) .w8],
      (∃ d a b m t, comparesLanes i = some (d, a, b, m, t)) ∧ wellFormed i = true ∧ Runs (with0 user) (cx0 user) i) ∧
    Runs (with0 user) (cx0 user) (.vextr (.x 1) 2 (.x 7) .s32) ∧
    (∀ i ∈ [Instr.vredsum (.x 1) 2 (.x 5) .f32 .sto, .vamax (.x 1) 2 (.x 0) .s64],
      (∃ d va m t md k pre op ext, reduction (operandsOf (with0 user) (cx0 user)) i = some (d, va, m, t, md, k, pre, op, ext)) ∧
        wellFormed i = true ∧ Runs (with0 user) (cx0 user) i) := by
  refine ⟨fun i hi => ⟨?_, ?_, runs_of rfl ?_ (by decide)⟩, runs_of rfl (by decide) (by decide),
    fun i hi => ⟨?_, ?_, runs_of rfl ?_ (by decide)⟩⟩
  · simp only [List.mem_cons, List.not_mem_nil, or_false] at hi
    rcases hi with rfl | rfl <;> exact ⟨_, _, _, _, _, rfl⟩
  · revert i; decide
  · revert i; decide
  · simp only [List.mem_cons, List.not_mem_nil, or_false] at hi
    rcases hi with rfl | rfl <;> exact ⟨_, _, _, _, _, _, _, _, _, rfl⟩
  · revert i; decide
  · revert i; decide

/-- A vector with one non-zero byte in each of four lanes of 64 bits; room for four at port 1 and for none at port 3. -/
def lanes4 : Strand := { user with vs := [(2, 0x0400000000000000030000000000000002000000000000000100)] }

set_option exponentiation.threshold 600 in
/-- Room at the index port, none at the port of a full queue, none at two ports of one element each, and none in the count of cross-die
pushes; lane numbers alone, and contents at another port and at the same one. -/
theorem witness_VnzxPushes :
    (∀ i ∈ [Instr.vnzx (.q 1) 2 (.x 0) (.x 7) (.x 0) .w64, .vnzx (.q 3) 2 (.x 0) (.x 7) (.x 0) .w64, .vnzx (.q 1) 2 (.q 3) (.x 7) (.x 0) .w64,
      .vnzx (.q 1) 2 (.q 1) (.x 7) (.x 0) .w64], Ready (with0 lanes4) (cx0 lanes4) (usesOf (with0 lanes4) (cx0 lanes4) i)) ∧
    ((List.range 8).filter fun k => decide (lane 64 ((cx0 lanes4).st.v 2) k ≠ 0)) = [0, 1, 2, 3] ∧
    fenced (with0 lanes4) lanes4 = false ∧ hasRoom (with0 lanes4) lanes4 1 4 = true ∧ hasRoom (with0 lanes4) lanes4 1 8 = false ∧
    hasRoom (with0 lanes4) lanes4 3 4 = false ∧
    (∃ s cx, Ready s cx (usesOf s cx (.vnzx (.q 1) 2 (.x 0) (.x 7) (.x 0) .w64)) ∧ s = { with0 cx.st with queues := s.queues } ∧
      ([1].filter fun k => (portOf cx.st k).any fun p => (s.queue p.queue).any fun q => q.kind == 2) = [1] ∧ 4095 < cx.st.remote + 4 * 1) := by
  refine ⟨fun i hi => ready0 rfl ?_, by decide, by decide, by decide, by decide, by decide,
    { with0 { lanes4 with remote := 4092 } with queues := [(1, { queueWith [] 4 with kind := 2 })] }, cx0 { lanes4 with remote := 4092 }, ready_of rfl (by decide +kernel), rfl,
    by decide, by decide⟩
  revert i; decide

/-! Loads, stores, atomics and fabric operations. -/

/-- A strand one below the limits of its counts. -/
def full : Strand := { user with ld := 62, st := 62, cp := 62, remote := 4094 }

/-- The cells of an access that passes its checks. -/
def okCells (r : Except Fail (List Nat)) : List Nat := match r with | .ok c => c | .error _ => []

/-- An access of the full strand passes its checks. -/
def passes (write locked : Bool) (a : Word) (n : Nat) (code : Bool := false) : Bool :=
  decide (accessCells (with0 full) (partyOf 0 full) .die write locked a n (code := code) =
    .ok (okCells (accessCells (with0 full) (partyOf 0 full) .die write locked a n (code := code))))

set_option exponentiation.threshold 600 in
/-- A plain load at an odd offset, an aligned acquire of scope sys into a port, a load into x0; a vector load; element loads of
eight lanes and of the two lanes of a mask. -/
theorem witness_LoadsBegin :
    (∀ i ∈ [Instr.loadSigned (.x 4) ⟨.x 1, .x 0, 0, 1⟩ 2, .lda (.q 1) ⟨.x 1, .x 0, 0, 8⟩ .sys 3, .load (.x 0) ⟨.x 1, .x 0, 0, 7⟩ 0],
      ∃ d a n sgn ord scope, loadOf (readReg (with0 full) (cx0 full)) i = some (d, a, n, sgn, ord, scope) ∧
        Runs (with0 full) (cx0 full) i ∧ full.ld < 63 ∧ (ord = .acq → a.toNat % n = 0) ∧ passes false false a n true = true) ∧
    (Runs (with0 full) (cx0 full) (.ldv 1 ⟨.x 1, .x 0, 0, 1⟩) ∧
      passes false false (addressOf (readReg (with0 full) (cx0 full)) ⟨.x 1, .x 0, 0, 1⟩) 64 true = true) ∧
    (∀ p ∈ [(Instr.ldvs 1 (.x 1) (.x 2) (.x 0) .w64, 8), (.ldvx 1 (.x 1) 2 (.x 2) .w8 3, 2)],
      ∃ vd t m addr, elementsOf (with0 full) (cx0 full) p.1 = some (vd, false, t, m, addr) ∧ Runs (with0 full) (cx0 full) p.1 ∧
        (activeOf (with0 full) (cx0 full) m t).length = p.2 ∧
        ∀ k ∈ activeOf (with0 full) (cx0 full) m t, passes false true (addr k) (widthOf t / 8) true = true) := by
  refine ⟨fun i hi => ?_, ⟨runs_of rfl (by decide) (by decide), by decide⟩, fun p hp => ?_⟩
  · simp only [List.mem_cons, List.not_mem_nil, or_false] at hi
    rcases hi with rfl | rfl | rfl
    all_goals exact ⟨_, _, _, _, _, _, rfl, runs_of rfl (by decide) (by decide), by decide, by decide, by decide⟩
  · simp only [List.mem_cons, List.not_mem_nil, or_false] at hp
    rcases hp with rfl | rfl
    all_goals exact ⟨_, _, _, _, rfl, runs_of rfl (by decide) (by decide), by decide, by decide⟩

set_option exponentiation.threshold 600 in
/-- A plain store of two bytes at an odd offset, an aligned release, a vector store, element stores. -/
theorem witness_StoresBegin :
    (∀ i ∈ [Instr.store (.x 2) ⟨.x 1, .x 0, 0, 1⟩ 1, .stl (.x 2) ⟨.x 1, .x 0, 0, 8⟩ .die 3, .stv 1 ⟨.x 1, .x 0, 0, 3⟩],
      ∃ a n val ord scope, storeOf (with0 full) (cx0 full) i = some (a, n, val, ord, scope) ∧
        Runs (with0 full) (cx0 full) i ∧ full.st < 63 ∧ (ord = .rel → a.toNat % n = 0) ∧ passes true true a n = true) ∧
    (∀ p ∈ [(Instr.stvs 1 (.x 1) (.x 2) (.x 0) .w64, 8), (.stvx 1 (.x 1) 2 (.x 2) .w8 3, 2)],
      ∃ vs t m addr, elementsOf (with0 full) (cx0 full) p.1 = some (vs, true, t, m, addr) ∧ Runs (with0 full) (cx0 full) p.1 ∧
        (activeOf (with0 full) (cx0 full) m t).length = p.2 ∧
        ∀ k ∈ activeOf (with0 full) (cx0 full) m t, passes true true (addr k) (widthOf t / 8) true = true) := by
  refine ⟨fun i hi => ?_, fun p hp => ?_⟩
  · simp only [List.mem_cons, List.not_mem_nil, or_false] at hi
    rcases hi with rfl | rfl | rfl
    all_goals exact ⟨_, _, _, _, _, rfl, runs_of rfl (by decide) (by decide), by decide, by decide, by decide⟩
  · simp only [List.mem_cons, List.not_mem_nil, or_false] at hp
    rcases hp with rfl | rfl
    all_goals exact ⟨_, _, _, _, rfl, runs_of rfl (by decide) (by decide), by decide, by decide⟩

/-- What a trap witness needs of a load or store: the strand is ready, can trap, and its address is as said. -/
def Meets (s : State) (cx : Ctx) (i : Instr) (a : Word) (n : Nat) (w ordered : Bool) : Prop :=
  accessOf s cx i = some (a, n, w, ordered) ∧ Ready s cx (usesOf s cx i) ∧ CanTrap s cx ∧ cx.st.ld < 63 ∧ cx.st.st < 63

/-- The same strand with its first source register at an address. -/
def at1 (a : Word) : Strand := { full with xs := [(1, a), (2, 6)] }

/-- Bytes above the near tier are in no firmware region. -/
theorem noFirmware (s : State) (phys : List Nat) (h : ∀ a ∈ phys, 1099511627776 ≤ a) : phys.any (inAnyFirmware s) = false := by
  simp only [List.any_eq_false]
  intro a ha
  rw [inAnyFirmware_high s a (h a ha)]; simp

/-- The range lock of an operation over the first bytes of object 1. -/
def lock1 : RangeLock := { index := 0, op := 3, written := false, spad := false, chan := none, slot := 0, engine := 2, first := 0x0001000000000000, span := 255 }

/-- The strand beside that lock. -/
def locked0 (st : Strand) : State := { with0 st with cores := [(0, { core0 with locks := [lock1] })] }

/-- The strand whose access of a page was declined with an answer. -/
def declined1 (a : Word) (ans : Nat) : Strand := { at1 a with declines := [(pageOf a, ans)] }

/-- The strand whose access of two pages was declined at each. -/
def declined2 : Strand := { at1 0x000900000000FFFF with declines := [(0x900000000, 1), (0x900000001, 1)] }

/-- A translation of the last page of volume 4. -/
def topVolume : TlbEntry := { entry 4 1 true true false 0x30000 0 with obase := 0xFFFFFFFF0000 }

/-- One state for each check of R221: alignment; object 0; past 2^48; past a limit by one byte; no right, a volume, a write to
code; declined either way; untranslated; the last byte of two untranslated; both pages of an access declined as absent; the second half of two bytes homed on the other die. -/
theorem witness_AccessChecks :
    (∃ s cx, Meets s cx (.lda (.x 4) ⟨.x 1, .x 0, 0, 1⟩ .die 3) 0x0001000000000001 8 false true) ∧
    (∃ s cx, Meets s cx (.load (.x 4) ⟨.x 0, .x 0, 0, 0x7FF⟩ 0) 0x7FF 1 false false) ∧
    (∃ s cx, Meets s cx (.load (.x 4) ⟨.x 1, .x 0, 0, 0⟩ 1) 0x0001FFFFFFFFFFFF 2 false false ∧ 2 ^ 48 < offOf 0x0001FFFFFFFFFFFF + 2 ∧
      pageState s (partyOf cx.core cx.st) 0x0001FFFFFFFFFFFF = .declined 2) ∧
    (∃ s cx e, Meets s cx (.load (.x 4) ⟨.x 1, .x 0, 0, 0⟩ 1) 0x0004FFFFFFFFFFFF 2 false false ∧ 2 ^ 48 < offOf 0x0004FFFFFFFFFFFF + 2 ∧
      pageState s (partyOf cx.core cx.st) 0x0004FFFFFFFFFFFF = .entry e ∧ e.kind = 1) ∧
    (∃ s cx e, Meets s cx (.load (.x 4) ⟨.x 1, .x 0, 0, 0⟩ 1) 0x00030000000000FF 2 false false ∧
      pageState s (partyOf cx.core cx.st) 0x0003000000000100 = .entry e ∧ e.kind ≠ 1 ∧ e.limit ≠ 0 ∧
      e.obase + e.limit ≤ offOf 0x0003000000000100) ∧
    (∀ p ∈ [((0x0003000000000000 : Word), true), (0x0002000000000000, true), (0x0004000000000000, false)],
      ∃ s cx e e', Meets s cx (if p.2 then .store (.x 2) ⟨.x 1, .x 0, 0, 0⟩ 1 else .load (.x 2) ⟨.x 1, .x 0, 0, 0⟩ 1) p.1 2 p.2 false ∧
        pageState s (partyOf cx.core cx.st) p.1 = .entry e ∧ pageState s (partyOf cx.core cx.st) (p.1 + 1) = .entry e' ∧
        beyond e p.1 = false ∧ beyond e' (p.1 + 1) = false ∧
        ¬(e.kind = 0 ∧ (if p.2 then e.wr else e.rd) = true) ∧ ¬(e.kind = 2 ∧ p.2 = false ∧ e.rd = true)) ∧
    (∀ ans ∈ [1, 2], ∃ s cx, Meets s cx (.load (.x 4) ⟨.x 1, .x 0, 0, 0⟩ 1) 0x0009000000000000 2 false false ∧
      pageState s (partyOf cx.core cx.st) 0x0009000000000000 = .declined ans ∧
      pageState s (partyOf cx.core cx.st) 0x0009000000000001 = .declined ans) ∧
    (∃ s cx, Meets s cx (.load (.x 4) ⟨.x 1, .x 0, 0, 0⟩ 1) 0x0009000000000000 2 false false ∧
      pageState s (partyOf cx.core cx.st) 0x0009000000000000 = .missing ∧
      pageState s (partyOf cx.core cx.st) 0x0009000000000001 = .missing ∧ (s.cluster (clusterOf cx.core)).misses.length < 64) ∧
    (∃ s cx, Meets s cx (.load (.x 4) ⟨.x 1, .x 0, 0, 0⟩ 1) 0x000100000000FFFF 2 false false ∧
      pageState s (partyOf cx.core cx.st) 0x0001000000010000 = .missing ∧
      (∃ e, pageState s (partyOf cx.core cx.st) 0x000100000000FFFF = .entry e ∧ beyond e 0x000100000000FFFF = false) ∧
      (s.cluster (clusterOf cx.core)).misses.length < 64) ∧
    (∃ s cx, Meets s cx (.load (.x 4) ⟨.x 1, .x 0, 0, 0⟩ 1) 0x000900000000FFFF 2 false false ∧
      pageState s (partyOf cx.core cx.st) 0x000900000000FFFF = .declined 1 ∧
      pageState s (partyOf cx.core cx.st) 0x0009000000010000 = .declined 1 ∧ PageLets s cx false 0x000900000000FFFF ∧
      PageLets s cx false 0x0009000000010000) ∧
    (∃ s cx, ∃ (e : Nat → TlbEntry) (c : Nat → Nat), Meets s cx (.store (.x 2) ⟨.x 1, .x 0, 0, 0⟩ 1) 0x00050000000000FF 2 true false ∧
      (∀ k < 2, pageState s (partyOf cx.core cx.st) (0x00050000000000FF + BitVec.ofNat 64 k) = .entry (e k) ∧ (e k).kind = 0 ∧
        (e k).wr = true ∧ beyond (e k) (0x00050000000000FF + BitVec.ofNat 64 k) = false ∧
        isMoving s cx.core (0x00050000000000FF + BitVec.ofNat 64 k) = false ∧
        inAnyFirmware s (physOf (e k) (0x00050000000000FF + BitVec.ofNat 64 k)) = false ∧
        cellAt s (physOf (e k) (0x00050000000000FF + BitVec.ofNat 64 k)) = some (c k)) ∧
      memberOf (c 0) = dieOf cx.core ∧ memberOf (c 1) ≠ dieOf cx.core) ∧
    (∃ s cx cells, Meets s cx (.store (.x 2) ⟨.x 1, .x 0, 0, 0⟩ 1) 0x00010000000000FF 2 true false ∧
      memLocked (s.core cx.core) 0x00010000000000FF 2 none = true ∧
      accessCells s (partyOf cx.core cx.st) .die true false 0x00010000000000FF 2 = .ok cells) := by
  have meets : ∀ (a b : Word) (i : Instr) (n : Nat) (w ordered : Bool), current (fw (with0 (at1 a))) = some (cx0 (at1 a)) →
      accessOf (fw (with0 (at1 a))) (cx0 (at1 a)) i = some (b, n, w, ordered) →
      readyB (fw (with0 (at1 a))) (cx0 (at1 a)) (usesOf (fw (with0 (at1 a))) (cx0 (at1 a)) i) = true →
      Meets (fw (with0 (at1 a))) (cx0 (at1 a)) i b n w ordered := fun a b i n w ordered h0 h1 h2 =>
    ⟨h1, ready_of h0 h2, canTrap_fw _ _ rfl (show StrandKind.inst ≠ .supervisor by decide), show 62 < 63 by decide, show 62 < 63 by decide⟩
  refine ⟨⟨_, _, meets 0x0001000000000000 _ _ _ _ _ rfl rfl (by decide)⟩, ⟨_, _, meets 0 _ _ _ _ _ rfl rfl (by decide)⟩,
    ⟨fw (with0 (declined1 0x0001FFFFFFFFFFFF 2)), cx0 (declined1 0x0001FFFFFFFFFFFF 2),
      ⟨rfl, ready_of rfl (by decide), canTrap_fw _ _ rfl (by decide), by decide, by decide⟩, by decide, rfl⟩,
    ⟨fw { with0 (at1 0x0004FFFFFFFFFFFF) with cores := [(0, { core0 with tlb := [topVolume] })] }, cx0 (at1 0x0004FFFFFFFFFFFF), topVolume,
      ⟨rfl, ready_of rfl (by decide), canTrap_fw _ _ rfl (by decide), by decide, by decide⟩, by decide, by decide, rfl⟩,
    ⟨_, _, _, meets 0x00030000000000FF _ _ _ _ _ rfl rfl (by decide), rfl, by decide, by decide, by decide⟩, fun p hp => ?_, fun ans h => ?_,
    ⟨_, _, meets 0x0009000000000000 _ _ _ _ _ rfl rfl (by decide), rfl, rfl, by decide⟩,
    ⟨_, _, meets 0x000100000000FFFF _ _ _ _ _ rfl rfl (by decide), rfl, ⟨_, rfl, by decide⟩, by decide⟩, ?_, ?_, ?_⟩
  · simp only [List.mem_cons, List.not_mem_nil, or_false] at hp
    rcases hp with rfl | rfl | rfl
    · exact ⟨_, _, _, _, meets 0x0003000000000000 _ _ _ _ _ rfl rfl (by decide), rfl, rfl, by decide, by decide, by decide, by decide⟩
    · exact ⟨_, _, _, _, meets 0x0002000000000000 _ _ _ _ _ rfl rfl (by decide), rfl, rfl, by decide, by decide, by decide, by decide⟩
    · exact ⟨_, _, _, _, meets 0x0004000000000000 _ _ _ _ _ rfl rfl (by decide), rfl, rfl, by decide, by decide, by decide, by decide⟩
  · simp only [List.mem_cons, List.not_mem_nil, or_false] at h
    rcases h with rfl | rfl
    · exact ⟨fw (with0 (declined1 0x0009000000000000 1)), cx0 (declined1 0x0009000000000000 1),
        ⟨rfl, ready_of rfl (by decide), canTrap_fw _ _ rfl (by decide), by decide, by decide⟩, rfl, rfl⟩
    · exact ⟨fw (with0 (declined1 0x0009000000000000 2)), cx0 (declined1 0x0009000000000000 2),
        ⟨rfl, ready_of rfl (by decide), canTrap_fw _ _ rfl (by decide), by decide, by decide⟩, rfl, rfl⟩
  · exact ⟨fw (with0 declined2), cx0 declined2, ⟨rfl, ready_of rfl (by decide), canTrap_fw _ _ rfl (by decide), by decide, by decide⟩,
      rfl, rfl, rfl, rfl⟩
  · refine ⟨_, _, fun _ => entry 5 0 true true false 0x100000 0, fun k => cellOf 1 k (0x4100000 + 255 - 255 * k),
      meets 0x00050000000000FF _ _ _ _ _ rfl rfl (by decide), fun k hk => ?_, by decide, by decide⟩
    have : k = 0 ∨ k = 1 := by omega
    rcases this with rfl | rfl
    · exact ⟨rfl, rfl, rfl, rfl, rfl, inAnyFirmware_high _ _ (by decide), rfl⟩
    · exact ⟨rfl, rfl, rfl, rfl, rfl, inAnyFirmware_high _ _ (by decide), rfl⟩
  · refine ⟨fw (locked0 (at1 0x00010000000000FF)), cx0 (at1 0x00010000000000FF), [regionCell 255, regionCell 256], ⟨rfl, ready_of rfl (by decide),
      canTrap_fw _ _ rfl (by decide), by decide, by decide⟩, by decide, ?_⟩
    have hn := noFirmware (fw (locked0 (at1 0x00010000000000FF))) [regionPhys 255, regionPhys 256] (by decide)
    have hf : List.find? (fun b => pageState (fw (locked0 (at1 0x00010000000000FF)))
        (partyOf (cx0 (at1 0x00010000000000FF)).core (cx0 (at1 0x00010000000000FF)).st) b == PageState.missing
        && !([0x00010000000000FF, after 0x00010000000000FF (2 - 1)].map (pageState (fw (locked0 (at1 0x00010000000000FF)))
          (partyOf (cx0 (at1 0x00010000000000FF)).core (cx0 (at1 0x00010000000000FF)).st))).any (·.isDeclined))
      [0x00010000000000FF, after 0x00010000000000FF (2 - 1)] = none := by decide
    unfold accessCells
    dsimp only
    rw [if_neg (by decide), if_neg (by decide), if_neg (by decide), if_neg (by decide), hf]
    dsimp only
    rw [if_neg (by decide), if_neg (by decide), if_neg (by decide), if_neg ?_]
    · decide
    · intro h
      have h2 : [regionPhys 255, regionPhys 256].any (inAnyFirmware (fw (locked0 (at1 0x00010000000000FF)))) = true := h
      rw [hn] at h2
      cases h2

/-- Scratchpad forms: a read at the last byte of the allocation, a vector read, the record page; stores free, and to a block that an
engine operation has registered. -/
theorem witness_ScratchpadAccesses :
    ((∀ i ∈ [Instr.sld (.x 4) true ⟨.x 0, .x 0, 0, 0xFFF⟩ 3 3, .sldv 1 ⟨.x 0, .x 0, 0, 0xFFF⟩ 1],
      Runs (with0 user) (cx0 user) i) ∧ user.acquiring = false ∧ 64 ≤ user.spadSize ∧
      ∀ k < 64, padPlace user 3 ((addressOf (readReg (with0 user) (cx0 user)) ⟨.x 0, .x 0, 0, 0xFFF⟩).toNat + k) ∉ core0.bad) ∧
    (Runs (with0 user) (cx0 user) (.sldRec (.x 4) false ⟨.x 0, .x 0, 0, 0xFFF⟩ 3) ∧
      ∀ k < 8, 2 ^ 20 + ((addressOf (readReg (with0 user) (cx0 user)) ⟨.x 0, .x 0, 0, 0xFFF⟩).toNat + k) % 4096 ∉ core0.bad) ∧
    ((∀ i ∈ [Instr.sst (.x 2) ⟨.x 0, .x 0, 0, 0xFFF⟩ 2 3, .sstv 1 ⟨.x 0, .x 0, 0, 0xFFF⟩ 0],
      Runs (with0 user) (cx0 user) i) ∧
      spadStoreWaits (with0 user) 0 user (addressOf (readReg (with0 user) (cx0 user)) ⟨.x 0, .x 0, 0, 0xFFF⟩).toNat 64 = false ∧
      spadLocked core0 user.spadBase user.spadSize (addressOf (readReg (with0 user) (cx0 user)) ⟨.x 0, .x 0, 0, 0xFFF⟩).toNat 64 none = false) ∧
    (∃ s cx, CanTrap s cx ∧ cx.st.kind ≠ .supervisor ∧ Ready s cx (usesOf s cx (.sst (.x 2) ⟨.x 0, .x 0, 0, 0x3FF⟩ 0 1)) ∧
      spadLocked (s.core cx.core) cx.st.spadBase cx.st.spadSize 0x3FF 2 none = true) := by
  refine ⟨⟨fun i hi => runs_of rfl ?_ (by decide), by decide, by decide, by decide⟩, ⟨runs_of rfl (by decide) (by decide), by decide⟩,
    ⟨fun i hi => runs_of rfl ?_ (by decide), by decide, by decide⟩, ?_⟩
  · revert i; decide
  · revert i; decide
  · exact ⟨fw { with0 user with cores := [(0, { core0 with locks := [{ lock1 with spad := true, first := 0x400, span := 0, size := 4096 }] })] },
      cx0 user, canTrap_fw _ _ rfl (by decide), by decide, ready_of rfl (by decide), by decide⟩

/-- A strand with a load of four bytes outstanding, not yet performed. -/
def loading : Access := { noAccess (.load 4 false) with
    seq := 0, addr := 0x0001000000000000, spans := [(0x0001000000000000, 4)], reads := readsOf ((List.range 4).map regionCell), dest := .x 4 }

/-- A COPY of the strand of which nothing has been read. -/
def copying0 : EngineOp :=
  { id := 0, kind := .copy, slot := 0, gen := 1, lid := 7, seq := 0, reg := 5, cn := none, scope := .die, depth := 0, spadBase := 0
    spadSize := 4096, src := 0x0001000000000000, dst := 0x0001000000000400, len := 256 }

/-- An atomic off its alignment, aligned near and at a routine engine, a fence whose waits are met and one whose are not, pref. -/
theorem witness_AtomicsFencesPref :
    (∃ s cx, Ready s cx (usesOf s cx (.amoadd (.x 4) (.x 1) (.x 2) ⟨0, .plain, .core, true⟩)) ∧ cx.st.st < 63 ∧ CanTrap s cx ∧
      (readReg s cx (.x 1)).toNat % 8 ≠ 0) ∧
    (∀ md ∈ [(⟨0, .plain, .core, true⟩ : AmoMod), ⟨2, .acqrel, .sys, false⟩], ∃ cells,
      Runs (with0 full) (cx0 full) (.amocas (.x 4) (.x 1) (.x 2) md) ∧
      (readReg (with0 full) (cx0 full) (.x 1)).toNat % (if md.wide then 8 else 4) = 0 ∧
      accessCells (with0 full) (partyOf 0 full) (if md.place = 2 then .ship else .die) true true (readReg (with0 full) (cx0 full) (.x 1))
        (if md.wide then 8 else 4) true = .ok cells) ∧
    (Runs (with0 user) (cx0 user) (.fence .sys .acqrel) ∧ user.pend = [] ∧ core0.ops = [] ∧ releaseWaitsMet (with0 user) (cx0 user) .sys) ∧
    (∃ s cx, Ready s cx (usesOf s cx (.fence .core .acq)) ∧ ∃ a ∈ cx.st.pend, a.op.reads = true ∧ a.performed = false) ∧
    (∃ s cx, Ready s cx (usesOf s cx (.fence .core .acq)) ∧
      ∃ o ∈ (s.core cx.core).ops, o.gen = cx.st.gen ∧ o.seq < cx.st.nextSeq ∧ o.readsLeft = true) ∧
    Runs (with0 user) (cx0 user) (.pref false ⟨.x 1, .x 0, 0, 0⟩) := by
  refine ⟨⟨fw (with0 (at1 0x0001000000000007)), cx0 (at1 0x0001000000000007), ready_of rfl (by decide), by decide,
      canTrap_fw _ _ rfl (by decide), by decide⟩, fun md hm => ?_,
    ⟨runs_of rfl (by decide) (by decide), rfl, rfl, ⟨fun a ha => absurd (show a ∈ [] from ha) List.not_mem_nil, by decide,
      fun o ho => absurd (show o ∈ [] from ho) List.not_mem_nil⟩⟩,
    ⟨with0 { user with pend := [loading] }, cx0 { user with pend := [loading] }, ready0 rfl (by decide), loading,
      List.mem_singleton.mpr rfl, by decide, by decide⟩,
    ⟨{ with0 { user with nextSeq := 1 } with cores := [(0, { core0 with ops := [copying0] })] }, cx0 { user with nextSeq := 1 },
      ready_of rfl (by decide), copying0, List.mem_singleton.mpr rfl, by decide, by decide, by decide⟩,
    runs_of rfl (by decide) (by decide)⟩
  simp only [List.mem_cons, List.not_mem_nil, or_false] at hm
  rcases hm with rfl | rfl
  · exact ⟨_, runs_of rfl (by decide) (by decide), by decide, rfl⟩
  · exact ⟨_, runs_of rfl (by decide) (by decide), by decide, rfl⟩

/-- get, put, puts and ramo off their alignment and aligned, in the package and for package 5. -/
theorem witness_FabricOperationsBegin :
    (∃ s cx, Ready s cx (usesOf s cx (.get (.x 4) (.x 1) (.x 0) .plain .core 3)) ∧ cx.st.ld < 63 ∧ CanTrap s cx ∧
      (readReg s cx (.x 1)).toNat % 2 ^ 3 ≠ 0) ∧
    (Runs (with0 full) (cx0 full) (.get (.x 4) (.x 1) (.x 0) .plain .core 3) ∧ ∃ cells,
      FabricReaches (with0 full) (cx0 full) (packageNamed (with0 full) (cx0 full) (.x 0)) .any false (readReg (with0 full) (cx0 full) (.x 1)) 8 true cells) ∧
    (Runs (with0 full) (cx0 full) (.get (.x 4) (.x 1) (.x 2) .acq .sys 3) ∧ packageNamed (with0 full) (cx0 full) (.x 2) = some 6) ∧
    (Runs (with0 full) (cx0 full) (.put (.x 1) (.x 2) (.x 0) .rel .die 3) ∧ full.remote < 4095 ∧ ∃ cells,
      FabricReaches (with0 full) (cx0 full) none .any true (readReg (with0 full) (cx0 full) (.x 1)) 8 false cells) ∧
    (Runs (with0 full) (cx0 full) (.puts (.x 1) (.x 2) (.x 0) .plain .core 7) ∧ (readReg (with0 full) (cx0 full) (.x 1)).toNat % 64 + 64 ≤ 64 ∧
      full.acquiring = false ∧ (∀ j < 64, padPlace full 0 ((readReg (with0 full) (cx0 full) (.x 2)).toNat + j) ∉ core0.bad) ∧ ∃ cells,
      FabricReaches (with0 full) (cx0 full) none .any true (readReg (with0 full) (cx0 full) (.x 1)) 64 false cells) ∧
    (∃ s cx, CanTrap s cx ∧ Ready s cx (usesOf s cx (.put (.x 1) (.x 2) (.x 0) .plain .core 3)) ∧ (readReg s cx (.x 1)).toNat % 2 ^ 3 ≠ 0 ∧
      Ready s cx (usesOf s cx (.puts (.x 1) (.x 2) (.x 0) .plain .core 7)) ∧ (readReg s cx (.x 1)).toNat % 8 ≠ 0) ∧
    (∃ s cx, CanTrap s cx ∧ Ready s cx (usesOf s cx (.ramo (.x 4) .add (.x 1) (.x 2) (.x 0) ⟨1, .plain, .core, true⟩)) ∧ cx.st.remote < 4095 ∧
      (readReg s cx (.x 1)).toNat % 8 ≠ 0) ∧
    (Runs (with0 full) (cx0 full) (.ramo (.x 4) .cas (.x 1) (.x 2) (.x 0) ⟨2, .acqrel, .sys, false⟩) ∧ ∃ cells,
      FabricReaches (with0 full) (cx0 full) none .ship true (readReg (with0 full) (cx0 full) (.x 1)) 4 true cells) := by
  refine ⟨⟨fw (with0 (at1 0x0001000000000007)), cx0 (at1 0x0001000000000007), ready_of rfl (by decide), by decide,
      canTrap_fw _ _ rfl (by decide), by decide⟩,
    ⟨runs_of rfl (by decide) (by decide), _, rfl⟩, ⟨runs_of rfl (by decide) (by decide), by decide⟩,
    ⟨runs_of rfl (by decide) (by decide), by decide, _, rfl⟩, ⟨runs_of rfl (by decide) (by decide), by decide, by decide, by decide, _, rfl⟩,
    ⟨fw (with0 (at1 0x0001000000000007)), cx0 (at1 0x0001000000000007), canTrap_fw _ _ rfl (by decide), ready_of rfl (by decide), by decide,
      ready_of rfl (by decide), by decide⟩,
    ⟨fw (with0 (at1 0x0001000000000007)), cx0 (at1 0x0001000000000007), canTrap_fw _ _ rfl (by decide), ready_of rfl (by decide), by decide,
      by decide⟩,
    ⟨runs_of rfl (by decide) (by decide), _, rfl⟩⟩

/-- A strand whose messages name core 1 of the package, or package 6. -/
def sending (w : Word) : Strand := { full with xs := [(1, 0x0001000000000000), (2, 6), (3, w)] }

theorem witness_MessagesAndShippingBegin :
    (∀ p ∈ [((0x0000000200060001 : Word), Scope.die), (0x0000000200000001, .core)], ∃ s cx,
      CanTrap s cx ∧ readReg s cx (.x 3) = p.1 ∧ s.pkg.id = 0 ∧ current s = some cx ∧
        let u := usesOf s cx (.amsg (.x 3) (.x 1) (.x 1) (.x 1) (.x 1) p.2 none)
        isIllegal s cx u = false ∧ (∀ n ∈ operandNums u, n ∉ cx.st.owed) ∧ operandsKnown s cx u = true) ∧
    (∃ s cx, CanTrap s cx ∧ readReg s cx (.q 0) = 0x0000000200060001 ∧ s.pkg.id = 0 ∧ current s = some cx ∧
      let u := usesOf s cx (.amsg (.q 0) (.x 1) (.x 1) (.x 1) (.x 1) .die none)
      isIllegal s cx u = false ∧ (∀ n ∈ operandNums u, n ∉ cx.st.owed) ∧ operandsKnown s cx u = true) ∧
    (∀ w ∈ [(0x0000000200000000 : Word), 0x0000000200001F3F], Runs (with0 (sending w)) (cx0 (sending w)) (.amsg (.x 3) (.x 1) (.x 1) (.x 1) (.x 1) .die (some 15)) ∧
      (sending w).remote < 4095) ∧
    (Runs (with0 full) (cx0 full) (.fship (.x 4) (.x 1) (.x 2) (.x 2) (.x 5) .die .rel 63 (some 0)) ∧ full.cp < 63 ∧ ∃ cells,
      accessCells (with0 full) (partyOf 0 full) .ship true false (lineOf (readReg (with0 full) (cx0 full) (.x 1))) 64 true = .ok cells) ∧
    (∃ s cx, Ready s cx (usesOf s cx (.fship (.x 4) (.x 1) (.x 2) (.x 2) (.x 5) .die .rel 63 none)) ∧ cx.st.cp < 63 ∧ CanTrap s cx ∧
      accessCells s (partyOf cx.core cx.st) .ship true false (lineOf (readReg s cx (.x 1))) 64 true = .error (.trap .objBounds 0)) := by
  refine ⟨fun p hp => ?_, ⟨fw { with0 full with queues := base.queues.insert 0 (queueWith [elem 0 0x0000000200060001] 3) }, cx0 full,
      canTrap_fw _ _ rfl (by decide), rfl, rfl, rfl, by decide, by decide, by decide⟩,
    fun w hw => ?_, ⟨runs_of rfl (by decide) (by decide), by decide, _, rfl⟩,
    ⟨fw (with0 (at1 0x7)), cx0 (at1 0x7), ready_of rfl (by decide), by decide, canTrap_fw _ _ rfl (by decide), rfl⟩⟩
  · simp only [List.mem_cons, List.not_mem_nil, or_false] at hp
    rcases hp with rfl | rfl
    · exact ⟨fw (with0 (sending 0x0000000200060001)), cx0 (sending 0x0000000200060001), canTrap_fw _ _ rfl (by decide), rfl, rfl, rfl,
        by decide, by decide, by decide⟩
    · exact ⟨fw (with0 (sending 0x0000000200000001)), cx0 (sending 0x0000000200000001), canTrap_fw _ _ rfl (by decide), rfl, rfl, rfl,
        by decide, by decide, by decide⟩
  · simp only [List.mem_cons, List.not_mem_nil, or_false] at hw
    rcases hw with rfl | rfl
    · exact ⟨runs_of rfl (by decide) (by decide), by decide⟩
    · exact ⟨runs_of rfl (by decide) (by decide), by decide⟩

/-! Events that complete accesses. -/

/-- A strand with accesses outstanding. -/
def pending (l : List Access) : Strand := { full with pend := l }

/-- The first access of a strand, where it has the kind. -/
theorem outstanding (l : List Access) (seq : Nat) (kind : AccOp → Bool) (a : Access)
    (h : l.find? (fun b => b.seq == seq && kind b.op) = some a) : Outstanding (with0 (pending l)) 0 0 seq kind (pending l) a :=
  ⟨rfl, h⟩

def cells8 : List Nat := (List.range 8).map regionCell

def loadingVec : Access :=
  { noAccess (.loadVec 8) with seq := 1, addr := 0x0001000000000000, reads := readsOf cells8, dest := .v 3 }

def getting : Access :=
  { noAccess (.get 8) with seq := 0, addr := 0x0001000000000000, reads := readsOf cells8, dest := .port 1, performed := true, value := 5 }

def acquiring0 : Access := { loading with ord := .acq }

/-- A whole-register load of a line, of which six units have been read. -/
def loadingLine : Access :=
  { noAccess (.loadVec 64) with
    seq := 1, addr := 0x0001000000000000, reads := readsOf ((List.range 16).map regionCell), dest := .v 3
    got := (List.range 48).map fun k => (16 + k, 0) }

/-- A part of a load that is performed now, and what it leaves. -/
def PartOf (s : State) (seq : Nat) (st : Strand) (a : Access) (r : Nat × Nat) (left : List (Nat × Nat)) : Prop :=
  Outstanding s 0 0 seq returns st a ∧ r ∈ a.reads ∧ mayPerform s 0 st (partWith a r) = true ∧ a.inOrder (partWith a r) = true ∧
    (a.reads.filter fun c => !(partWith a r).reads.contains c) = left

/-- A scalar load in one part, good and with an error; an element load; a unit of a whole-register load with one more to go; a get; a
load behind an acquire. -/
theorem witness_ReadsReturn :
    (PartOf (with0 (pending [loading])) 0 (pending [loading]) loading (0, regionCell 0) [] ∧
      ∀ c ∈ (List.range 4).map regionCell, isPoisoned (with0 (pending [loading])) c = false) ∧
    (∃ s : State, PartOf s 0 (pending [loading]) loading (0, regionCell 0) [] ∧
      ((partWith loading (0, regionCell 0)).reads.any fun c => isPoisoned s c.2) = true) ∧
    (PartOf (with0 (pending [loadingVec])) 1 (pending [loadingVec]) loadingVec (0, regionCell 0) [] ∧
      (∀ c ∈ loadingVec.reads, isPoisoned (with0 (pending [loadingVec])) c.2 = false ∧ c.1 < 64) ∧ (loadingVec.reads.map (·.1)).Nodup) ∧
    (∃ s : State, PartOf s 1 (pending [loadingVec]) loadingVec (0, regionCell 0) [] ∧
      ((partWith loadingVec (0, regionCell 0)).reads.any fun c => isPoisoned s c.2) = true) ∧
    PartOf (with0 (pending [loadingLine])) 1 (pending [loadingLine]) loadingLine (9, regionCell 9)
      ((List.range 8).map fun k => (k, regionCell k)) ∧
    (Outstanding (with0 (pending [getting])) 0 0 0 returns (pending [getting]) getting ∧ getting.performed = true ∧ getting.bad = false) ∧
    (Outstanding (with0 (pending [acquiring0, loadingVec])) 0 0 1 returns (pending [acquiring0, loadingVec]) loadingVec ∧
      acquiring0.acquires = true ∧ acquiring0.seq < loadingVec.seq) := by
  refine ⟨⟨⟨outstanding _ _ _ _ rfl, by decide, by decide, by decide, by decide⟩, by decide⟩,
    ⟨{ with0 (pending [loading]) with poisoned := [regionCell 0 / 64] }, ⟨⟨rfl, rfl⟩, by decide, by decide, by decide, by decide⟩, by decide⟩,
    ⟨⟨outstanding _ _ _ _ rfl, by decide, by decide, by decide, by decide⟩, by decide, by decide⟩,
    ⟨{ with0 (pending [loadingVec]) with poisoned := [regionCell 0 / 64] }, ⟨⟨rfl, rfl⟩, by decide, by decide, by decide, by decide⟩, by decide⟩,
    ⟨outstanding _ _ _ _ rfl, by decide, by decide, by decide, by decide⟩, ⟨outstanding _ _ _ _ rfl, by decide, by decide⟩,
    ⟨outstanding _ _ _ _ rfl, by decide, by decide⟩⟩

def storing : Access := { noAccess (.store 8) with seq := 1, addr := 0x0001000000000000, writes := cells8.map fun c => (c, 0x5A) }

def atomic0 (place : Nat) : Access :=
  { noAccess (.atomic .add true place 1 0) with seq := 0, addr := 0x0001000000000000, reads := readsOf cells8, writes := cells8.map fun c => (c, 0), dest := .x 4 }

def remoteAmo (done : Bool) : Access :=
  { noAccess (.ramo .max true 1 1 0) with
    seq := 0, addr := 0x0001000000000000, reads := readsOf cells8, writes := cells8.map (fun c => (c, 0)), dest := .x 4, performed := done, dropped := !done }

def putting : Access := { noAccess (.put false) with seq := 0, addr := 0x0001000000000000, writes := cells8.map fun c => (c, 1) }

def message0 (lid : Nat) : Message := { handler := 2, payload := [0, 0, 0, 0], sender := 0, senderPkg := 0, part := some 0, source := some 0, lid := lid, depth := 0, gen := 1, seq := 0 }

def messaging (lid core : Nat) : Access := { noAccess (.amsg (message0 lid) core 0 (some 3)) with seq := 0 }

/-- A shipped routine with its status register and the place of its result. -/
def shipping (n : Nat) (status : Nat := 5) (dest : Dest := .none) : Access :=
  { noAccess (.fship n 1 2 status (some 0)) with
    seq := 1, addr := 0x0001000000000000, reads := readsOf ((List.range 64).map regionCell), dest := dest }

/-- A ramo placed at a routine engine. -/
def shippedRamo : Access :=
  { noAccess (.ramo .add true 2 1 0) with
    seq := 1, addr := 0x0001000000000000, reads := readsOf cells8, writes := cells8.map (fun c => (c, 0)), dest := .x 4 }

/-- A whole-register store of which two units are left. -/
def storingLine : Access :=
  { noAccess (.store 64) with seq := 1, addr := 0x0001000000000000, writes := (List.range 16).map fun k => (regionCell k, 0x5A) }

/-- A part of a store that is performed now, and how many bytes it leaves. -/
def PutsPart (a : Access) (n : Nat) (w : Nat × Byte) (left : Nat) : Prop :=
  Outstanding (with0 (pending [a])) 0 0 1 storesNear (pending [a]) a ∧ a.op = .store n ∧ w ∈ nextElement n a.writes ∧
    mayPerform (with0 (pending [a])) 0 (pending [a]) { a with writes := storePart n (nextElement n a.writes) w.1 } = true ∧
    (nextElement n a.writes).length - (storePart n (nextElement n a.writes) w.1).length = left

/-- A store in one part, and a unit of a whole-register store with one more to go; an atomic; what is performed at home; a message for
which there is room; a store behind a read, and a shipped ramo behind one. -/
theorem witness_WritesPerformed :
    PutsPart storing 8 (regionCell 0, 0x5A) 0 ∧ PutsPart storingLine 64 (regionCell 9, 0x5A) 8 ∧
    (Outstanding (with0 (pending [atomic0 0])) 0 0 0 storesNear (pending [atomic0 0]) (atomic0 0) ∧
      mayPerform (with0 (pending [atomic0 0])) 0 (pending [atomic0 0]) (atomic0 0) = true ∧
      ∀ c ∈ cells8, isPoisoned (with0 (pending [atomic0 0])) c = false) ∧
    (∀ a ∈ [{ getting with performed := false }, putting, { remoteAmo true with performed := false }, messaging 8 0, messaging 7 2048],
      Outstanding (with0 (pending [a])) 0 0 0 atHome (pending [a]) a ∧ a.pkg = none ∧ mayPerform (with0 (pending [a])) 0 (pending [a]) a = true) ∧
    (∃ l, launchOf (with0 (pending [messaging 7 0])) 0 = some l ∧ l.lid = 7 ∧ core0.preempted = false ∧ core0.spill = [] ∧
      core0.inbox.length < 64) ∧
    (Outstanding (with0 (pending [loading, storing])) 0 0 1 storesNear (pending [loading, storing]) storing ∧ storing.op.writes = true ∧
      loading.seq < storing.seq ∧ loading.op.reads = true ∧ loading.performed = false) ∧
    (Outstanding (with0 (pending [loading, shippedRamo])) 0 0 1 atEngine (pending [loading, shippedRamo]) shippedRamo ∧
      shippedRamo.op.writes = true ∧ loading.seq < shippedRamo.seq) := by
  refine ⟨⟨outstanding _ _ _ _ rfl, rfl, by decide, by decide, by decide⟩, ⟨outstanding _ _ _ _ rfl, rfl, by decide, by decide, by decide⟩, ⟨outstanding _ _ _ _ rfl, by decide, by decide⟩, fun a ha => ?_, ⟨launch0, rfl, by decide, by decide, by decide, by decide⟩,
    ⟨outstanding _ _ _ _ rfl, by decide, by decide, by decide, by decide⟩, ⟨outstanding _ _ _ _ rfl, by decide, by decide⟩⟩
  simp only [List.mem_cons, List.not_mem_nil, or_false] at ha
  rcases ha with rfl | rfl | rfl | rfl | rfl <;> exact ⟨outstanding _ _ _ _ rfl, rfl, by decide⟩

/-- The package with routine 16 loaded. -/
def routines16 (a : Access) : State :=
  { with0 (pending [a]) with pkg := { base.pkg with routines := [(16, [])] } }

/-- What is acknowledged and refused; a shipped atomic and ramo; fixed routines that deliver to a register, to a port and nowhere, with
status register x0 as well; a loaded one; one that is not loaded; and one that meets a line with an error. -/
theorem witness_CompletionsOfAccesses :
    (∀ a ∈ [{ putting with performed := true }, { messaging 7 0 with performed := true }, remoteAmo true],
      Outstanding (with0 (pending [a])) 0 0 0 acked (pending [a]) a ∧ a.performed = true ∧ a.bad = false) ∧
    (∀ a ∈ [{ putting with dropped := true }, { messaging 7 0 with dropped := true }, remoteAmo false, { getting with dropped := true }],
      Outstanding (with0 (pending [a])) 0 0 0 refusable (pending [a]) a ∧ a.dropped = true) ∧
    (∀ a ∈ [{ atomic0 2 with seq := 1 }, shippedRamo, shipping 10, shipping 10 0 (.x 6), shipping 0 5 (.port 1), shipping 16],
      Outstanding (with0 (pending [a])) 0 0 1 atEngine (pending [a]) a ∧ a.pkg = none ∧ mayPerform (with0 (pending [a])) 0 (pending [a]) a = true ∧
      ∀ c ∈ a.reads, isPoisoned (with0 (pending [a])) c.2 = false) ∧
    ¬((16 : Nat) ≤ 10 ∨ (16 ≤ 16 ∧ (base.pkg.routines.find 16).isSome = true)) ∧
    (Outstanding (routines16 (shipping 16)) 0 0 1 atEngine (pending [shipping 16]) (shipping 16) ∧
      mayPerform (routines16 (shipping 16)) 0 (pending [shipping 16]) (shipping 16) = true ∧
      (∀ c ∈ (shipping 16).reads, isPoisoned (routines16 (shipping 16)) c.2 = false) ∧
      ((routines16 (shipping 16)).pkg.routines.find 16).isSome = true) ∧
    (∃ s : State, Outstanding s 0 0 1 atEngine (pending [shipping 10 5 (.x 6)]) (shipping 10 5 (.x 6)) ∧
      mayPerform s 0 (pending [shipping 10 5 (.x 6)]) (shipping 10 5 (.x 6)) = true ∧
      ∃ c ∈ (shipping 10 5 (.x 6)).reads, isPoisoned s c.2 = true) := by
  refine ⟨fun a ha => ?_, fun a ha => ?_, fun a ha => ?_, by decide,
    ⟨⟨rfl, rfl⟩, by decide, by decide, by decide⟩,
    ⟨{ with0 (pending [shipping 10 5 (.x 6)]) with poisoned := [regionCell 0 / 64] }, ⟨rfl, rfl⟩, by decide, by decide⟩⟩ <;>
    simp only [List.mem_cons, List.not_mem_nil, or_false] at ha
  · rcases ha with rfl | rfl | rfl <;> exact ⟨outstanding _ _ _ _ rfl, rfl, rfl⟩
  · rcases ha with rfl | rfl | rfl | rfl <;> exact ⟨outstanding _ _ _ _ rfl, rfl⟩
  · rcases ha with rfl | rfl | rfl | rfl | rfl | rfl <;> exact ⟨outstanding _ _ _ _ rfl, rfl, by decide, by decide⟩

/-! Queues, counters, waits and parking. -/

/-- Queue 0 with another head. -/
def headed (s : State) (r : List Elem) : State := { s with queues := (0, queueWith r 3) :: s.queues.tail }

def badElem : Elem := { elem 0 0 with bad := true }

/-- A strand with an acquire load outstanding. -/
def acquiringStrand : Strand := { user with pend := [{ noAccess (.load 4 false) with addr := 0x0001000000000000, ord := .acq }], nextSeq := 1 }

theorem witness_QueueInstructions :
    (Runs (with0 user) (cx0 user) (.qtok 7 1 (.x 2)) ∧ fenced (with0 user) user = false ∧ hasRoom (with0 user) user 1 1 = true) ∧
    (∀ i ∈ [Instr.qtry (.x 4) (.x 5) (.q 4), .qpeek (.x 4) (.x 5) (.q 4)], Runs (with0 user) (cx0 user) i ∧ headOf (with0 user) user 4 = none) ∧
    (∀ i ∈ [Instr.qtry (.x 4) (.x 5) (.q 2), .qpeek (.x 4) (.x 5) (.q 2)], Runs (with0 user) (cx0 user) i ∧
      headOf (with0 user) user 2 = some (elem 2 0x55)) ∧
    (∀ i ∈ [Instr.qtry (.x 4) (.x 5) (.q 0), .qpeek (.x 4) (.x 5) (.q 0)], Runs (with0 user) (cx0 user) i ∧
      headOf (with0 user) user 0 = some (elem 0 0xAB) ∧ user.acquiring = false) ∧
    (∃ s cx, Ready s cx (usesOf s cx (.qpeek (.x 4) (.x 5) (.q 0))) ∧ headOf s cx.st 0 = some badElem ∧ cx.st.acquiring = false ∧ CanTrap s cx) ∧
    (∀ i ∈ [Instr.qtry (.x 4) (.x 5) (.q 0), .qpeek (.x 4) (.x 5) (.q 4), .qlen (.x 4) (.q 0)],
      Runs (with0 acquiringStrand) (cx0 acquiringStrand) i ∧ acquiringStrand.acquiring = true ∧ isConsumer acquiringStrand 0 = true) ∧
    (∀ k ∈ [(0 : Fin 8), 1], Runs (with0 user) (cx0 user) (.qlen (.x 4) (.q k)) ∧ ∃ p q, portOf user k.val = some p ∧
      (with0 user).queue p.queue = some q ∧ p.out = decide (k = 1)) ∧ user.retiring = .no ∧
    Runs (with0 user) (cx0 user) .qfence ∧
    (∀ r ∈ [Reg.x 0, .x 2, .x 6], Runs (with0 user) (cx0 user) (.qtvec (.q 0) r) ∧ (portOf user 0).isSome = true) ∧
    oidOf (readReg (with0 user) (cx0 user) (.x 2)) = 0 ∧ launchOf (with0 user) 0 = some launch0 := by
  refine ⟨⟨runs_of rfl (by decide) (by decide), by decide, by decide⟩, fun i hi => ⟨runs_of rfl ?_ (by decide), rfl⟩,
    fun i hi => ⟨runs_of rfl ?_ (by decide), rfl⟩, fun i hi => ⟨runs_of rfl ?_ (by decide), rfl, by decide⟩,
    ⟨fw (headed (with0 user) [badElem]), cx0 user, ready_of rfl (by decide), rfl, by decide, canTrap_fw _ _ rfl (by decide)⟩,
    fun i hi => ⟨runs_of rfl ?_ (by decide), by decide⟩, fun k hk => ?_, rfl, runs_of rfl (by decide) (by decide), fun r hr => ⟨runs_of rfl ?_ (by decide), by decide⟩, by decide, rfl⟩
  · revert i; decide
  · revert i; decide
  · revert i; decide
  · revert i; decide
  · simp only [List.mem_cons, List.not_mem_nil, or_false] at hk
    rcases hk with rfl | rfl <;> exact ⟨runs_of rfl (by decide) (by decide), _, _, rfl, rfl, by decide⟩
  · revert r; decide

/-- A strand with a word to compare in x2; memory holds 0x8211 at the address in x1. -/
def awaiting (t : Word) : Strand := { user with xs := [(1, 0x0001000000000000), (2, t)], counters := [(3, ⟨4090, true⟩)] }

theorem witness_CountersAndWaits :
    (Runs (with0 (awaiting 0)) (cx0 (awaiting 0)) (.cpost 3 5) ∧ ((awaiting 0).counter 3).pending + 5 = 4095) ∧
    (∃ s cx, Ready s cx (usesOf s cx (.cpost 3 6)) ∧ (cx.st.counter 3).pending + 6 = 4096 ∧ CanTrap s cx) ∧
    Runs (with0 (awaiting 0)) (cx0 (awaiting 0)) (.cread (.x 4) 3 true) ∧
    (∀ k ∈ [(4090 : BitVec 22), 4089], Runs (with0 (awaiting 0)) (cx0 (awaiting 0)) (.waitc 3 k)) ∧
    (Runs (with0 full) (cx0 full) (.wait 62 62 62 0) ∧ Runs (with0 full) (cx0 full) (.wait 61 63 63 63)) ∧
    (∃ s cx, Ready s cx (usesOf s cx (.await (.x 1) (.x 2) .sys)) ∧ CanTrap s cx ∧ (readReg s cx (.x 1)).toNat % 8 ≠ 0) ∧
    (∀ t ∈ [(0x8211 : Word), 0x8212], Runs (with0 (awaiting t)) (cx0 (awaiting t)) (.await (.x 1) (.x 2) .sys) ∧
      accessCells (with0 (awaiting t)) (partyOf 0 (awaiting t)) .die false false 0x0001000000000000 8 (code := true) = .ok cells8 ∧
      (∀ c ∈ cells8, isPoisoned (with0 (awaiting t)) c = false) ∧
      mayPerform (with0 (awaiting t)) 0 (awaiting t) { noAccess (.load 8 false) with
        seq := 0, addr := 0x0001000000000000, ord := .acq, scope := .sys, spans := [(0x0001000000000000, 8)], reads := readsOf cells8 } = true ∧
      little (fun k => seen (with0 (awaiting t)) (awaiting t) 0 (cells8.getD k 0)) 8 = 0x8211) := by
  refine ⟨⟨runs_of rfl (by decide) (by decide), by decide⟩,
    ⟨fw (with0 (awaiting 0)), cx0 (awaiting 0), ready_of rfl (by decide), by decide, canTrap_fw _ _ rfl (by decide)⟩,
    runs_of rfl (by decide) (by decide), fun k hk => runs_of rfl ?_ (by decide),
    ⟨runs_of rfl (by decide) (by decide), runs_of rfl (by decide) (by decide)⟩,
    ⟨fw (with0 (at1 0x0001000000000007)), cx0 (at1 0x0001000000000007), ready_of rfl (by decide), canTrap_fw _ _ rfl (by decide), by decide⟩,
    fun t ht => ?_⟩
  · simp only [List.mem_cons, List.not_mem_nil, or_false] at hk
    rcases hk with rfl | rfl <;> decide
  · simp only [List.mem_cons, List.not_mem_nil, or_false] at ht
    rcases ht with rfl | rfl
    · exact ⟨runs_of rfl (by decide) (by decide), rfl, by decide, by decide, by decide⟩
    · exact ⟨runs_of rfl (by decide) (by decide), rfl, by decide, by decide, by decide⟩

/-- Every park area of core 0 is taken. -/
def allParked (st : Strand) : State :=
  { with0 st with strands := (placeKey 0 0, st) :: (List.range 64).map fun a => (placeKey 0 (32 + a), { st with gen := 100 + a }) }

/-- A strand that waits in its slot since no park area was free. -/
def stayed : Strand := { user with staying := true }

/-- A round of the stage in which the other instance has arrived and waits. -/
def lastArrival : State :=
  { with0 user with
    launches := [{ launch0 with rounds := [⟨0, [2, 1], [2]⟩] }]
    strands := [(placeKey 0 0, user), (placeKey 0 1, { user with gen := 2, rank := 1, wait := some .barrier })] }

/-- A second instance of the stage, in slot 1. -/
def withPeer (st : Strand) : State := { with0 st with strands := [(placeKey 0 0, st), (placeKey 0 1, { user with gen := 2, rank := 1 })] }

theorem witness_ParkingAndYielding :
    (∀ i ∈ [Instr.parkC 0 (.x 2), .parkQ 0, .parkT (.x 0)],
      Runs (with0 user) (cx0 user) i ∧ ∃ held w, parkOf (with0 user) (cx0 user) i = some (held, w) ∧ held) ∧
    (∀ i ∈ [Instr.parkC 3 (.x 0), .parkQ 4, .parkT (.x 1)], Runs (with0 (awaiting 0)) (cx0 (awaiting 0)) i ∧
      (∃ held w, parkOf (with0 (awaiting 0)) (cx0 (awaiting 0)) i = some (held, w) ∧ ¬held) ∧
      freeArea (with0 (awaiting 0)) 0 = some 0) ∧
    (∃ s cx, Ready s cx (usesOf s cx (.parkQ 4)) ∧ headOf s cx.st 4 = none ∧ freeArea s cx.core = none ∧ cx.st.staying = false) ∧
    (Runs (with0 stayed) (cx0 stayed) (.parkQ 4) ∧ headOf (with0 stayed) stayed 4 = none) ∧
    (∃ s cx, Ready s cx (usesOf s cx (.parkQ 4)) ∧ headOf s cx.st 4 = none ∧ freeArea s cx.core = some 0 ∧
      nextPc s.cursor.header cx.st.pc = none) ∧
    user.acquiring = false ∧
    (∀ t ∈ [(0x8211 : Word), 0x8212], Runs (with0 (awaiting t)) (cx0 (awaiting t)) (.parkA (.x 1) (.x 2) .sys) ∧
      freeArea (with0 (awaiting t)) 0 = some 0) ∧
    (∀ w ∈ [Wait.depart, .barrier], Runs (with0 { user with wait := some w }) (cx0 { user with wait := some w }) .bar) ∧
    (∃ s cx l, Ready s cx (usesOf s cx .bar) ∧ cx.st.wait = none ∧ cx.st.kind = .inst ∧ launchOf s cx.core = some l ∧
      releaseReady s cx.core cx.st cx.st.nextSeq (stageScope s l.part l.lid cx.st.stage) = true ∧ l.rounds = [] ∧
      ∃ g ∈ membersOf s l cx.st, g ≠ cx.st.gen) ∧
    (Runs (with0 user) (cx0 user) .bar ∧ membersOf (with0 user) launch0 user = [user.gen] ∧ launch0.rounds = [] ∧
      ∀ e ∈ (with0 user).strands, e.2.wait = some .barrier → e.2.gen ≠ user.gen) ∧
    (∃ l r, l ∈ lastArrival.launches ∧ launchOf lastArrival 0 = some l ∧ Ready lastArrival (cx0 user) (usesOf lastArrival (cx0 user) .bar) ∧
      l.rounds = [r] ∧ r.stage = user.stage ∧ user.gen ∈ r.members ∧ (∀ g ∈ r.members, g = user.gen ∨ g ∈ r.arrived) ∧
      releaseReady lastArrival 0 user user.nextSeq (stageScope lastArrival l.part l.lid user.stage) = true ∧ l.phase ≠ .waiting ∧
      ∀ e ∈ lastArrival.strands, e.2.wait = some .barrier → e.2.gen ≠ user.gen) ∧
    (∃ s cx l, Ready s cx (usesOf s cx .bar) ∧ cx.st.wait = none ∧ cx.st.kind = .inst ∧ launchOf s cx.core = some l ∧
      l.rounds = [⟨0, [2], []⟩] ∧ cx.st.stage = 0 ∧ cx.st.gen = 1) ∧
    Runs (with0 user) (cx0 user) .yield ∧
    (∃ st, (withPeer { user with wait := some (.yielding none 64) }).strand 0 0 = some st ∧ st.wait = some (.yielding none 64) ∧
      (readyOthers (withPeer { user with wait := some (.yielding none 64) }) 0 0).2 = [2]) ∧
    (∃ st, (withSup { sup with wait := some (.yielding none 64) }).strand 0 supervisorSlot = some st ∧ st.wait = some (.yielding none 64)) ∧
    Runs (with0 user) (cx0 user) (.sprio 3) ∧
    (Ready (with0 user) (cx0 user) (usesOf (with0 user) (cx0 user) .exit) ∧
      (user.ld = 0 ∧ user.st = 0 ∧ user.cp = 0 ∧ user.tl = 0 ∧ user.remote = 0)) ∧
    Ready (with0 full) (cx0 full) (usesOf (with0 full) (cx0 full) .exit) := by
  refine ⟨fun i hi => ?_, fun i hi => ?_, ⟨allParked user, cx0 user, ready_of rfl (by decide), by decide, by decide, rfl⟩,
    ⟨runs_of rfl (by decide) (by decide), by decide⟩, ⟨stopLine (with0 user), cx0 user, ready_of rfl (by decide), by decide, by decide, by decide⟩,
    by decide, fun t ht => ?_, fun w hw => ?_,
    ⟨withPeer user, cx0 user, launch0, ready_of rfl (by decide), rfl, rfl, rfl, by decide, rfl, by decide⟩,
    ⟨runs_of rfl (by decide) (by decide), by decide, rfl, by decide⟩,
    ⟨_, _, List.mem_singleton.mpr rfl, rfl, ready_of rfl (by decide), rfl, rfl, by decide, by decide, by decide, by decide, by decide⟩,
    ⟨{ with0 user with launches := [{ launch0 with rounds := [⟨0, [2], []⟩] }] }, cx0 user, _, ready_of rfl (by decide), rfl, rfl, rfl, rfl, rfl, rfl⟩,
    runs_of rfl (by decide) (by decide), ⟨_, rfl, rfl, by decide⟩, ⟨_, rfl, rfl⟩,
    runs_of rfl (by decide) (by decide), ⟨ready0 rfl (by decide), by decide⟩, ready0 rfl (by decide)⟩
  · simp only [List.mem_cons, List.not_mem_nil, or_false] at hi
    rcases hi with rfl | rfl | rfl
    · exact ⟨runs_of rfl (by decide) (by decide), _, _, rfl, by decide⟩
    · exact ⟨runs_of rfl (by decide) (by decide), _, _, rfl, by decide⟩
    · exact ⟨runs_of rfl (by decide) (by decide), _, _, rfl, by decide⟩
  · simp only [List.mem_cons, List.not_mem_nil, or_false] at hi
    rcases hi with rfl | rfl | rfl
    · exact ⟨runs_of rfl (by decide) (by decide), ⟨_, _, rfl, by decide⟩, by decide⟩
    · exact ⟨runs_of rfl (by decide) (by decide), ⟨_, _, rfl, by decide⟩, by decide⟩
    · exact ⟨runs_of rfl (by decide) (by decide), ⟨_, _, rfl, by decide⟩, by decide⟩
  · simp only [List.mem_cons, List.not_mem_nil, or_false] at ht
    rcases ht with rfl | rfl <;> exact ⟨runs_of rfl (by decide) (by decide), by decide⟩
  · simp only [List.mem_cons, List.not_mem_nil, or_false] at hw
    rcases hw with rfl | rfl <;> exact runs_of rfl (by decide) (by decide)

/-- Queue 1 with an element under way and a credit on its way back. -/
def moving (q : Queue → Queue) : State := { with0 user with queues := [(1, q { queueWith [] 1 with transit := [elem 0 5], returning := 1 })] }

/-- Three producers that wait for a credit, one of which no strand any longer, after the rank served last. -/
def waitersAfter (last : Nat) : State :=
  { withPeer user with
    queues := [(1, { queueWith [] 1 with returning := 1, waiters := [⟨1, 1, none⟩, ⟨3, 2, none⟩, ⟨4, 99, none⟩], lastRank := last })] }

theorem witness_ArbiterAndQueueEvents :
    (∃ q, (moving id).queue 1 = some q ∧ q.transit.filter (fun x => x.gen == 9) = [elem 0 5] ∧ (elem 0 5).data ≠ none ∧ (elem 0 5).drain = none ∧
      ownerOf (moving id) 9 = none ∧ q.ended = false ∧ 9 ∉ q.cut ∧ q.coalesce = false ∧ (elem 0 5).tag = 0 ∧
      q.held = [] ∧ q.round = []) ∧
    (∃ q, (moving fun q => { q with transit := [{ elem 0 5 with batch := 1 }, elem 0 6, elem 0 7] }).queue 1 = some q ∧
      q.transit.filter (fun x => x.gen == 9) = { elem 0 5 with batch := 1 } :: [elem 0 6, elem 0 7] ∧ [elem 0 6, elem 0 7].take 1 = [elem 0 6]) ∧
    (∃ q, (moving fun q => { q with ended := true }).queue 1 = some q ∧ q.transit.filter (fun x => x.gen == 9) = [elem 0 5] ∧ q.ended = true) ∧
    (∃ q, (moving id).queue 1 = some q ∧ 0 < q.returning ∧ q.waiters = []) ∧
    (∀ p ∈ [(0, 1), (2, 3), (3, 1)], ∃ q, ∃ w : Waiter, (waitersAfter p.1).queue 1 = some q ∧ 0 < q.returning ∧
      q.waiters.filter (stillWaits (waitersAfter p.1)) = [⟨1, 1, none⟩, ⟨3, 2, none⟩] ∧
      NextInTurn [⟨1, 1, none⟩, ⟨3, 2, none⟩] q.lastRank w ∧ w.rank = p.2) ∧
    (∃ (s : State) (st : Strand) (others : Option (List Nat)) (till : Nat), s.strand 0 0 = some st ∧ st.wait = some (.yielding others till) ∧
      till ≤ s.clk) ∧
    (∃ (s : State) (st : Strand), s.strand 0 0 = some st ∧ st.wait = some (.yielding (some []) 64)) ∧
    (∃ (s : State) (st : Strand), s.strand 0 0 = some st ∧ st.since = some 0 ∧ 0 + 256 ≤ s.clk) ∧
    (∃ s a b, a ∈ candidates s 0 ∧ b ∈ candidates s 0 ∧ issueClass s 0 a < issueClass s 0 b) ∧
    (∃ s a b st, a ∈ candidates s 0 ∧ b ∈ candidates s 0 ∧ 2 ≤ issueClass s 0 a ∧ issueClass s 0 a = issueClass s 0 b ∧
      s.strand 0 a = some st ∧ (s.core 0).turns.get 0 (if st.aged then 4 else st.level) ≤ a ∧
      b < (s.core 0).turns.get 0 (if st.aged then 4 else st.level)) :=
  ⟨⟨_, rfl, rfl, by decide, rfl, by decide, by decide, by decide, by decide, by decide, by decide, by decide⟩, ⟨_, rfl, rfl, rfl⟩,
    ⟨_, rfl, rfl, rfl⟩, ⟨_, rfl, by decide, rfl⟩, fun p hp => by
      simp only [List.mem_cons, List.not_mem_nil, or_false] at hp
      rcases hp with rfl | rfl | rfl
      · exact ⟨_, ⟨1, 1, none⟩, rfl, by decide, by decide, by unfold NextInTurn; decide, rfl⟩
      · exact ⟨_, ⟨3, 2, none⟩, rfl, by decide, by decide, by unfold NextInTurn; decide, rfl⟩
      · exact ⟨_, ⟨1, 1, none⟩, rfl, by decide, by decide, by unfold NextInTurn; decide, rfl⟩,
    ⟨{ with0 { user with wait := some (.yielding none 64) } with clk := 64 }, _, _, _, rfl, rfl, by decide⟩,
    ⟨with0 { user with wait := some (.yielding (some []) 64) }, _, rfl, rfl⟩,
    ⟨{ with0 { user with since := some 0 } with clk := 256 }, _, rfl, rfl, by decide⟩,
    ⟨withPeer { user with level := 1 }, 1, 0, by decide, by decide, by decide⟩,
    ⟨{ withPeer user with cores := [(0, { core0 with turns := [(0, 1)] })] }, 1, 0, _, by decide, by decide, by decide, by decide, rfl, by decide,
      by decide⟩⟩

/-! Engines. -/

/-- A strand with a source, a destination and a length in x1, x2 and x3. -/
def moveOf (a b n : Word) : Strand := { full with xs := [(1, a), (2, b), (3, n)] }

/-- An engine instruction of that strand runs. -/
def RunsMove (a b n : Word) (i : Instr) : Prop := Runs (with0 (moveOf a b n)) (cx0 (moveOf a b n)) i

def copy0 : Instr := .copy (.x 4) (.x 1) (.x 2) (.x 3) (.x 0) .die false (some 0)

def send0 : Instr := .send (.x 4) (.x 1) (.x 3) (.x 2) (.x 0) .die false false 0 none

theorem witness_CopyAndSendBegin :
    (RunsMove 0x0001000000000000 0x0001000000000100 0 copy0 ∧ RunsMove 0x0001000000000000 0x0001000000000100 0x100000000 copy0) ∧
    (∃ s cx, Ready s cx (usesOf s cx copy0) ∧ CanTrap s cx ∧
      rangeCheck s (partyOf cx.core cx.st) false (readReg s cx (.x 1)) 1 = .error (.trap .objBounds 0x0003000000000100) ∧ readReg s cx (.x 3) = 1) ∧
    (∃ s cx, Ready s cx (usesOf s cx copy0) ∧ CanTrap s cx ∧ RangeGood s cx false (readReg s cx (.x 1)) 1 ∧
      rangeCheck s (partyOf cx.core cx.st) true (readReg s cx (.x 2)) 1 = .error (.trap .objPermission 0x0003000000000000) ∧ readReg s cx (.x 3) = 1) ∧
    (∀ n ∈ [(0x100 : Word), 0x101], RunsMove 0x0001000000000000 0x0001000000000100 n copy0 ∧
      RangeGood (with0 (moveOf 0x0001000000000000 0x0001000000000100 n)) (cx0 (moveOf 0x0001000000000000 0x0001000000000100 n)) false 0x0001000000000000 n.toNat ∧
      RangeGood (with0 (moveOf 0x0001000000000000 0x0001000000000100 n)) (cx0 (moveOf 0x0001000000000000 0x0001000000000100 n)) true 0x0001000000000100 n.toNat) ∧
    (∃ c, takeLocks core0 [memRange (newOp (operandsOf (with0 full) (cx0 full)) .copy (.x 4) none .die) 2 false 0x0001000000000000 1] = some c) ∧
    (RunsMove 0x0001000000000000 0 0 send0 ∧ RunsMove 0x0001000000000000 0 0x100000000 send0) ∧
    (∀ w ∈ [(0 : Word), 0x0000000000080000, 0x0000000100000000], RunsMove 0x0001000000000000 w 64 send0 ∧
      RangeGood (with0 (moveOf 0x0001000000000000 w 64)) (cx0 (moveOf 0x0001000000000000 w 64)) false 0x0001000000000000 64) ∧
    (field 0x0000000000080000 28 19 ≠ 0 ∧ (sendDests (with0 full) 0 7 0 0 0 1 64 0 64).1 ≠ [] ∧ (sendDests (with0 full) 0 7 0 0 1 1 64 0 64).1 = []) ∧
    (∃ s cx, Ready s cx (usesOf s cx send0) ∧ launchOf s cx.core = none ∧ (readReg s cx (.x 3)).toNat = 64) ∧
    (∃ s cx, Ready s cx (usesOf s cx (.send (.x 4) (.x 1) (.x 3) (.x 2) (.x 2) .die false false 0 none)) ∧ CanTrap s cx ∧
      (readReg s cx (.x 2)).toNat % 8 ≠ 0 ∧ (readReg s cx (.x 3)).toNat = 64) := by
  refine ⟨⟨runs_of rfl (by decide) (by decide), runs_of rfl (by decide) (by decide)⟩,
    ⟨fw (with0 (moveOf 0x0003000000000100 0 1)), cx0 (moveOf 0x0003000000000100 0 1), ready_of rfl (by decide), canTrap_fw _ _ rfl (by decide),
      rfl, rfl⟩,
    ⟨fw (with0 (moveOf 0x0001000000000100 0x0003000000000000 1)), cx0 (moveOf 0x0001000000000100 0x0003000000000000 1),
      ready_of rfl (by decide), canTrap_fw _ _ rfl (by decide), rfl, rfl, rfl⟩,
    fun n hn => ?_, ⟨_, rfl⟩, ⟨runs_of rfl (by decide) (by decide), runs_of rfl (by decide) (by decide)⟩, fun w hw => ?_,
    ⟨by decide, by decide, by decide⟩,
    ⟨{ with0 (moveOf 0x0001000000000000 0 64) with launches := [] }, cx0 (moveOf 0x0001000000000000 0 64), ready_of rfl (by decide), rfl, by decide⟩,
    ⟨fw (with0 (moveOf 0x0001000000000000 7 64)), cx0 (moveOf 0x0001000000000000 7 64), ready_of rfl (by decide), canTrap_fw _ _ rfl (by decide),
      by decide, by decide⟩⟩
  · simp only [List.mem_cons, List.not_mem_nil, or_false] at hn
    rcases hn with rfl | rfl
    · exact ⟨runs_of rfl (by decide) (by decide), rfl, rfl⟩
    · exact ⟨runs_of rfl (by decide) (by decide), rfl, rfl⟩
  · simp only [List.mem_cons, List.not_mem_nil, or_false] at hw
    rcases hw with rfl | rfl | rfl
    · exact ⟨runs_of rfl (by decide) (by decide), rfl⟩
    · exact ⟨runs_of rfl (by decide) (by decide), rfl⟩
    · exact ⟨runs_of rfl (by decide) (by decide), rfl⟩

/-- The package with a device at port 0 that holds 16 blocks of 512 bytes. -/
def disk (s : State) : State :=
  { s with pkg := { s.pkg with rootPorts := [0], namespaces := [{ port := 0, nsid := 1, blockBytes := 512, blocks := 16, plainFormat := true }] } }

/-- A strand with a handle, a block, a count and a memory address in x1 to x4. -/
def blocksOf (h lba n : Word) : Strand := { full with xs := [(1, h), (2, lba), (3, n), (4, 0x0001000000000000)] }

/-- A strand with a ring word in x2. -/
def ringOf (w : Word) : Strand := { full with xs := [(1, 0x0001000000000000), (2, w)] }

theorem witness_StreamsAndStorageBegin :
    (∀ p ∈ [(false, (0 : Word)), (true, 0x0000000C00000000), (true, 0x0000000B00000000)],
      Runs (with0 (ringOf p.2)) (cx0 (ringOf p.2)) (.refs (.x 5) (.x 1) (.q 0) (.q 1) (.x 2) p.1 7 none) ∧
      portOf (ringOf p.2) 0 = some ⟨0, false, 0⟩ ∧ portOf (ringOf p.2) 1 = some ⟨1, true, 0⟩) ∧
    (∃ s cx, Ready s cx (usesOf s cx (.refs (.x 5) (.x 1) (.q 0) (.q 1) (.x 2) false 3 none)) ∧
      ((s.core cx.core).ops.filter fun o => o.kind == .refs).length = 1 ∧ isDense cx.core = true) ∧
    (∀ p ∈ [((1 : Word), (0 : Word), (0 : Word)), (0x0000000800000001, 0, 1), (1, 0, 65537), (2, 0, 1), (0x0000000100000001, 0, 1),
        (1, 15, 2), (1, 0, 16)],
      ∃ s cx, Ready s cx (usesOf s cx (.sread (.x 5) (.x 1) (.x 2) (.x 3) (.x 4) none)) ∧ (∃ pc, nextPc s.cursor.header cx.st.pc = some pc) ∧
        s.pkg.rootPorts.contains 0 = true ∧ (∃ q, (partOf s cx.core).bind s.parts.find = some q ∧ q.ports.testBit 0 = true) ∧
        (∃ n, namespaceAt s 0 1 = some n) ∧ RangeGood s cx true (readReg s cx (.x 4)) 512 ∧
        readReg s cx (.x 1) = p.1 ∧ readReg s cx (.x 2) = p.2.1 ∧ readReg s cx (.x 3) = p.2.2) ∧
    Runs (with0 (blocksOf 1 0 16)) (cx0 (blocksOf 1 0 16)) (.swrite (.x 5) (.x 1) (.x 2) (.x 3) (.x 4) none) := by
  refine ⟨fun p hp => ?_, ⟨{ with0 full with cores := [(0, { core0 with ops :=
      [{ newOp (operandsOf (with0 full) (cx0 full)) .refs (.x 4) none .core with qin := 5, qout := 6 }] })] }, cx0 full, ready_of rfl (by decide), by decide, by decide⟩,
    fun p hp => ?_, runs_of rfl (by decide) (by decide)⟩
  · simp only [List.mem_cons, List.not_mem_nil, or_false] at hp
    rcases hp with rfl | rfl | rfl
    · exact ⟨runs_of rfl (by decide) (by decide), rfl, rfl⟩
    · exact ⟨runs_of rfl (by decide) (by decide), rfl, rfl⟩
    · exact ⟨runs_of rfl (by decide) (by decide), rfl, rfl⟩
  · simp only [List.mem_cons, List.not_mem_nil, or_false] at hp
    rcases hp with rfl | rfl | rfl | rfl | rfl | rfl | rfl
    · exact ⟨disk (with0 (blocksOf 1 0 0)), cx0 (blocksOf 1 0 0), ready_of rfl (by decide), ⟨_, rfl⟩, rfl, ⟨_, rfl, by decide⟩, ⟨_, rfl⟩,
        by unfold RangeGood; decide, rfl, rfl, rfl⟩
    · exact ⟨disk (with0 (blocksOf 0x0000000800000001 0 1)), cx0 (blocksOf 0x0000000800000001 0 1), ready_of rfl (by decide), ⟨_, rfl⟩, rfl, ⟨_, rfl, by decide⟩, ⟨_, rfl⟩,
        by unfold RangeGood; decide, rfl, rfl, rfl⟩
    · exact ⟨disk (with0 (blocksOf 1 0 65537)), cx0 (blocksOf 1 0 65537), ready_of rfl (by decide), ⟨_, rfl⟩, rfl, ⟨_, rfl, by decide⟩, ⟨_, rfl⟩,
        by unfold RangeGood; decide, rfl, rfl, rfl⟩
    · exact ⟨disk (with0 (blocksOf 2 0 1)), cx0 (blocksOf 2 0 1), ready_of rfl (by decide), ⟨_, rfl⟩, rfl, ⟨_, rfl, by decide⟩, ⟨_, rfl⟩,
        by unfold RangeGood; decide, rfl, rfl, rfl⟩
    · exact ⟨disk (with0 (blocksOf 0x0000000100000001 0 1)), cx0 (blocksOf 0x0000000100000001 0 1), ready_of rfl (by decide), ⟨_, rfl⟩, rfl, ⟨_, rfl, by decide⟩, ⟨_, rfl⟩,
        by unfold RangeGood; decide, rfl, rfl, rfl⟩
    · exact ⟨disk (with0 (blocksOf 1 15 2)), cx0 (blocksOf 1 15 2), ready_of rfl (by decide), ⟨_, rfl⟩, rfl, ⟨_, rfl, by decide⟩, ⟨_, rfl⟩,
        by unfold RangeGood; decide, rfl, rfl, rfl⟩
    · exact ⟨disk (with0 (blocksOf 1 0 16)), cx0 (blocksOf 1 0 16), ready_of rfl (by decide), ⟨_, rfl⟩, rfl, ⟨_, rfl, by decide⟩, ⟨_, rfl⟩,
        by unfold RangeGood; decide, rfl, rfl, rfl⟩

/-- The user strand's core with operations, range locks and channels. -/
def engines (ops : List EngineOp) (locks : List RangeLock) (chans : Tab Channel) : State :=
  { with0 full with cores := [(0, { core0 with ops := ops, locks := locks, channels := chans })] }

/-- An operation of the strand, with number 3. -/
def op3 (k : EngineKind) : EngineOp := { newOp (operandsOf (with0 full) (cx0 full)) k (.x 4) (some 0) .die with id := 3 }

/-- A copy of 5,000 bytes from object 1 into itself at 8 KiB, at its first and at its last sector. -/
def copy3 (sector : Nat) : EngineOp :=
  { op3 .copy with src := 0x0001000000000000, dst := 0x0001000000002000, len := 4097, sector := sector }

def issuer1 : Issuer := { gen := 1, seq := 0, porter := false }

/-- A transfer of 128 bytes to the strand in slot 0 with beats of four bytes still to come. -/
def transferOf (beats : List Beat) : Transfer :=
  { srcCore := 0, op := 3, issuer := issuer1, gen := 1, slot := 0, off := 0xFC0, total := 128, swz := 3, arr := 0x0001000000000000
    scope := .die, depth := 0, beats := beats }

def beat4 : Beat := { bytes := [1, 2, 3, 4], arr := cells8 }

def add3 : Add :=
  { srcCore := 0, op := 3, issuer := issuer1, arr := 0x0001000000000000, cells := cells8, count := 64, scope := .die, depth := 0 }

/-- A send of 128 bytes to two destinations on core 1, with an arrival word, from object 1 or from the scratchpad. -/
def send3 (spad : Bool) : EngineOp :=
  { op3 .send with
    src := if spad then 0x100 else 0x0001000000000000, fromSpad := spad, len := 128, arr := 0x0001000000000000
    dests := [⟨1, 2, 1, 0, 0, 64, 0, 2, 64, false⟩, ⟨1, 3, 2, 1, 0, 64, 1, 2, 64, false⟩] }

/-- A read of a block of 512 bytes into object 1 at 8 KiB, and a write of one. -/
def sread3 : EngineOp := { op3 .sread with dst := 0x0001000000002000, len := 512, nsid := 1, count := 1 }

def swrite3 : EngineOp := { op3 .swrite with src := 0x0001000000000000, len := 512, nsid := 1, lba := 8, count := 1 }

/-- The copy with its first sector begun: its last beat not yet read, another read and not yet written. -/
def copying : EngineOp :=
  { copy3 1 with len := 66, srcCells := (List.range 66).map regionCell, dstCells := (List.range 66).map fun k => regionCell (0x2000 + k)
                 unread := [64], flight := [(0, [1, 2])] }

/-- The send with one beat of its only sector left to read. -/
def sending3 (spad : Bool) : EngineOp :=
  { send3 spad with
    sector := 1, srcCells := if spad then [] else (List.range 128).map regionCell, arrCells := cells8, unread := [64]
    flight := [(0, List.replicate 64 7)] }

/-- The swrite with one beat left to read. -/
def swriting : EngineOp :=
  { swrite3 with
    sector := 1, srcCells := (List.range 512).map regionCell, unread := [0]
    flight := (List.range 7).map fun k => (64 * (k + 1), List.replicate 64 7) }

/-- The sread with a sector on its way to memory. -/
def sreading : EngineOp :=
  { sread3 with sector := 1, dstCells := (List.range 512).map fun k => regionCell (0x2000 + k), flight := [(64, List.replicate 64 7)] }

def stream3 : EngineOp := { op3 .refs with src := 0x0001000000000000, size := 8, qin := 0, qout := 1, portIn := 0 }

/-- The row form of the stream. -/
def rowStream : EngineOp :=
  { op3 .refs with src := 0x0001000000000000, size := 128, row := true, ring := 0x1000, slots := 32, qin := 0, qout := 1 }

/-- A reference to row 0 with its second line read, and its first as `first` gives it. -/
def rowFetch (first : Bool) : Fetch :=
  { idx := 0, cells := (List.range 128).map regionCell, unread := if first then [] else [0]
    flight := (if first then [(0, List.replicate 64 5)] else []) ++ [(64, List.replicate 64 7)] }

/-- The row stream with that reference in flight. -/
def fetching (first : Bool) : EngineOp := { rowStream with fetches := [rowFetch first] }

/-- The value stream with the reference to value 0 read. -/
def fetched8 : EngineOp :=
  { stream3 with fetches := [{ idx := 0, cells := cells8, unread := [], flight := [(0, List.replicate 8 1)] }] }

/-- The stream beside a queue with given elements. -/
def streaming (o : EngineOp) (es : List Elem) (locks : List RangeLock := []) : State :=
  { engines [o] locks [] with queues := (0, queueWith es 3) :: base.queues.tail }

/-- What the sector clause asks of an operation in a state. -/
def Begins (s : State) (o : EngineOp) (from_ to_ : List Nat) : Prop :=
  Working s 0 3 o ∧ o.kind ≠ .refs ∧ o.pkg = none ∧ o.cause ∉ [4, 8, 11] ∧ o.unread = [] ∧ o.flight = [] ∧ 4096 * o.sector < o.len ∧
    SectorPasses s 0 o from_ to_

set_option maxRecDepth 20000 in
/-- The first sector of a copy, and the last one of a longer copy; those of a send from memory and from the scratchpad, of an sread and of an swrite. -/
theorem witness_EngineSteps_sectors :
    (∀ o ∈ [{ copy3 0 with len := 66 }, copy3 1], ∃ from_ to_ : List Nat, Begins (engines [o] [] []) o from_ to_ ∧ (sectorBytes (copy3 1)).2 = 1) ∧
    (∀ spad ∈ [false, true], ∃ from_ to_ : List Nat, Begins (engines [send3 spad] [] []) (send3 spad) from_ to_) ∧
    (∃ to_ : List Nat, Begins (engines [sread3] [] []) sread3 [] to_) ∧
    (∃ from_ : List Nat, Begins (engines [swrite3] [] []) swrite3 from_ []) := by
  refine ⟨fun k hk => ?_, fun b hb => ?_,
    ⟨_, ⟨rfl, by decide⟩, by decide, rfl, by decide, rfl, rfl, by decide, rfl, (show _ ∧ _ from ⟨rfl, by decide⟩)⟩,
    ⟨_, ⟨rfl, by decide⟩, by decide, rfl, by decide, rfl, rfl, by decide, (show _ ∧ _ from ⟨rfl, by decide⟩), rfl⟩⟩
  · simp only [List.mem_cons, List.not_mem_nil, or_false] at hk
    rcases hk with rfl | rfl
    · exact ⟨_, _, ⟨⟨rfl, by decide⟩, by decide, rfl, by decide, rfl, rfl, by decide, (show _ ∧ _ from ⟨rfl, by decide⟩),
        (show _ ∧ _ from ⟨rfl, by decide⟩)⟩, by decide⟩
    · exact ⟨_, _, ⟨⟨rfl, by decide⟩, by decide, rfl, by decide, rfl, rfl, by decide, (show _ ∧ _ from ⟨rfl, by decide⟩),
        (show _ ∧ _ from ⟨rfl, by decide⟩)⟩, by decide⟩
  · simp only [List.mem_cons, List.not_mem_nil, or_false] at hb
    rcases hb with rfl | rfl
    · exact ⟨_, _, ⟨rfl, by decide⟩, by decide, rfl, by decide, rfl, rfl, by decide, (show _ ∧ _ from ⟨rfl, by decide⟩), rfl⟩
    · exact ⟨_, _, ⟨rfl, by decide⟩, by decide, rfl, by decide, rfl, rfl, by decide, (show _ ∧ _ from ⟨rfl, by decide⟩), rfl⟩

/-- What the clause of a beat that is read asks of an operation in a state. -/
def Reads (s : State) (o : EngineOp) (b : Nat) : Prop :=
  Working s 0 3 o ∧ o.pkg = none ∧ o.cause ∉ [4, 8, 11] ∧ b ∈ o.unread ∧ ¬BeatBad s 0 o b ∧
    opMayRead s 0 o (o.src + BitVec.ofNat 64 b) (min 64 (o.len - b)) = true

/-- What the clause of a beat that is written asks. -/
def PutsBeat (s : State) (o : EngineOp) (b : Nat) (bytes : List Byte) : Prop :=
  Working s 0 3 o ∧ o.pkg = none ∧ o.cause ∉ [4, 8, 11] ∧ (b, bytes) ∈ o.flight ∧
    memLocked (s.core 0) (o.dst + BitVec.ofNat 64 b) (min 64 (o.len - b)) (some o.id) = false ∧
    opMayWrite s 0 o (o.dst + BitVec.ofNat 64 b) bytes.length = true

set_option maxRecDepth 20000 in
/-- The last beat that is read of a copy, of a send from memory and from the scratchpad, and of an swrite; beats that are written of a
copy and of an sread; stops at a registered destination, before a sector and within one, and at a source error. -/
theorem witness_EngineSteps_beats :
    Reads (engines [copying] [] []) copying 64 ∧
    (∀ spad ∈ [false, true], Reads (engines [sending3 spad] [] []) (sending3 spad) 64 ∧ (sending3 spad).unread.erase 64 = [] ∧
      beatRoom (engines [sending3 spad] [] []) (sending3 spad) 0 (List.replicate 128 7) = true) ∧
    (Reads (disk (engines [swriting] [] [])) swriting 0 ∧ swriting.unread.erase 0 = [] ∧
      ∃ n, namespaceAt (disk (engines [swriting] [] [])) swriting.port swriting.nsid = some n ∧ 0 < n.blockBytes ∧ n.blockBytes ∣ 4096 ∧
        n.blockBytes ∣ (gather (swriting.flight ++ [(0, beatBytes (disk (engines [swriting] [] [])) 0 swriting 0)]) (beatsAt 0 4096)).length) ∧
    PutsBeat (engines [copying] [] []) copying 0 [1, 2] ∧ PutsBeat (engines [sreading] [] []) sreading 64 (List.replicate 64 7) ∧
    (∃ from_ to_ : List Nat, ∃ s : State, Working s 0 3 (copy3 1) ∧ (copy3 1).lost = false ∧ (copy3 1).cause = 0 ∧
      accessCells s (partyOp 0 (copy3 1)) .die false false ((copy3 1).src + BitVec.ofNat 64 4096) 1 = .ok from_ ∧
      (∀ c ∈ from_, isPoisoned s c = false) ∧
      accessCells s (partyOp 0 (copy3 1)) .any true false ((copy3 1).dst + BitVec.ofNat 64 4096) 1 = .ok to_ ∧
      memLocked (s.core 0) ((copy3 1).dst + BitVec.ofNat 64 4096) 1 (some 3) = true) ∧
    (∃ s : State, Working s 0 3 copying ∧ (0, [1, 2]) ∈ copying.flight ∧ (∀ c ∈ copying.unread, ¬BeatBad s 0 copying c) ∧
      memLocked (s.core 0) (copying.dst + BitVec.ofNat 64 0) (min 64 (copying.len - 0)) (some copying.id) = true) ∧
    (∃ s : State, Working s 0 3 copying ∧ ∃ b ∈ copying.unread, BeatBad s 0 copying b) := by
  refine ⟨⟨⟨rfl, by decide⟩, rfl, by decide, by decide, by unfold BeatBad; decide, by decide⟩, fun b hb => ?_,
    ⟨⟨⟨rfl, by decide⟩, rfl, by decide, by decide, by unfold BeatBad; decide, by decide⟩, by decide, _, rfl, by decide, by decide, by decide⟩,
    ⟨⟨rfl, by decide⟩, rfl, by decide, by decide, by decide, by decide⟩, ⟨⟨rfl, by decide⟩, rfl, by decide, by decide, by decide, by decide⟩,
    ⟨_, _, engines [copy3 1] [{ lock1 with op := 5, first := 0x0001000000003000 }] [], ⟨rfl, by decide⟩, rfl, rfl, rfl, by decide, rfl, by decide⟩,
    ⟨engines [copying] [{ lock1 with op := 5, first := 0x0001000000002000 }] [], ⟨rfl, by decide⟩, by decide, by unfold BeatBad; decide, by decide⟩,
    ⟨{ engines [copying] [] [] with poisoned := [regionCell 64 / 64] }, ⟨rfl, by decide⟩, 64, by decide, by unfold BeatBad; decide⟩⟩
  simp only [List.mem_cons, List.not_mem_nil, or_false] at hb
  rcases hb with rfl | rfl <;>
    exact ⟨⟨⟨rfl, by decide⟩, rfl, by decide, by decide, by unfold BeatBad; decide, by decide⟩, by decide, by decide⟩

/-- A channel of the core takes a transfer; one in progress has a beat in the middle, and its last; an add. -/
theorem witness_EngineSteps_channels :
    (∃ (s : State) (place : Nat) (st : Strand) (c : Core), ((s.core 0).channels.get {} 2).busy = false ∧ (s.core 0).preempted = false ∧
      ((s.core 0).channels.get {} 2).waiting = [transferOf [beat4]] ∧ s.liveGen 0 1 = some (place, st) ∧ (transferOf [beat4]).total ≤ st.spadSize ∧
      takeLocks (s.core 0) [inboundLock 2 (transferOf [beat4]) st] = some c) ∧
    (∀ p ∈ [(0xFC0, [beat4, beat4]), (0x103C, [beat4])], ∃ (s : State) (place : Nat) (st : Strand), (s.core 0).preempted = false ∧
      ((s.core 0).channels.get {} 2).current = some (transferOf p.2) ∧ s.liveGen 0 1 = some (place, st) ∧ 4 ≤ st.spadSize ∧
      beatLet s ((s.core 0).channels.get {} 2) (transferOf p.2) st.spadSize 4 = true ∧
      (((s.core 0).channels.get {} 2).wp + 4 < ((s.core 0).channels.get {} 2).stop ↔ p.1 = 0xFC0) ∧
      (((s.core 0).channels.get {} 2).wp + 4 < ((s.core 0).channels.get {} 2).stop ∨ p.2.tail = []) ∧
      findOp s 0 3 = some (send3 false)) ∧
    (∃ s : State, add3 ∈ ((s.core 0).channels.get {} 2).adds ∧ add3.cells.length = 8 ∧ (∀ c ∈ add3.cells, isPoisoned s c = false) ∧
      addLet s add3 = true) := by
  refine ⟨⟨engines [] [] [(2, { waiting := [transferOf [beat4]] })], _, _, _, rfl, rfl, rfl, rfl, by decide, rfl⟩, fun p hp => ?_,
    ⟨engines [] [] [(2, { adds := [add3] })], List.mem_singleton.mpr rfl, rfl, by decide, by decide⟩⟩
  simp only [List.mem_cons, List.not_mem_nil, or_false] at hp
  rcases hp with rfl | rfl
  · exact ⟨engines [send3 false] [] [(2, { busy := true, stop := 0x1040, wp := 0xFC0, current := some (transferOf [beat4, beat4]) })], _, _,
      rfl, rfl, rfl, by decide, by decide, by decide, by decide, rfl⟩
  · exact ⟨engines [send3 false] [] [(2, { busy := true, stop := 0x1040, wp := 0x103C, current := some (transferOf [beat4]) })], _, _,
      rfl, rfl, rfl, by decide, by decide, by decide, by decide, rfl⟩

/-- What the clauses of a stream ask of it. -/
def Streams (s : State) (o : EngineOp) (e : Elem) (tag : Nat) : Prop :=
  Working s 0 3 o ∧ o.kind = .refs ∧ indexHead s 0 o = some e ∧ e.tag = tag ∧ inFlight s 0 o = o.fetches

set_option maxRecDepth 20000 in
/-- A stream that takes up its first index, and one more behind a reference in flight; that reads a line; that pushes a value and a
row; that meets a token. -/
theorem witness_EngineSteps_streams :
    (Streams (streaming stream3 [elem 0 0]) stream3 (elem 0 0) 0 ∧ ∃ x cells, (streamIndices (streaming stream3 [elem 0 0]) 0 stream3)[0]? = some x ∧
      x.bad = false ∧ accessCells (streaming stream3 [elem 0 0]) (partyOp 0 stream3) .die false false
        (stream3.src + x.data.getD 0 * BitVec.ofNat 64 8) 8 = .ok cells) ∧
    (Streams (streaming fetched8 [elem 0 0, elem 0 1]) fetched8 (elem 0 0) 0 ∧ ∃ x, fetched8.fetches.length = 1 ∧
      (streamIndices (streaming fetched8 [elem 0 0, elem 0 1]) 0 fetched8)[1]? = some x ∧ x = elem 0 1) ∧
    (Streams (streaming (fetching false) [elem 0 0]) (fetching false) (elem 0 0) 0 ∧ (fetching false).fetches[0]? = some (rowFetch false) ∧
      0 ∈ (rowFetch false).unread ∧
      (∀ c ∈ Machine.lineCells (rowFetch false).cells 0, isPoisoned (streaming (fetching false) [elem 0 0]) c = false) ∧
      opMayRead (streaming (fetching false) [elem 0 0]) 0 (fetching false)
        ((fetching false).src + (rowFetch false).idx * BitVec.ofNat 64 128) 128 = true) ∧
    (Streams (streaming fetched8 [elem 0 0]) fetched8 (elem 0 0) 0 ∧ ∃ f rest qo, fetched8.fetches = f :: rest ∧ f.unread = [] ∧
      (streaming fetched8 [elem 0 0]).queue 1 = some qo ∧ 0 < creditsOf qo fetched8.gen ∧ (gather f.flight (linesOf f.cells)).length = 8) ∧
    (Streams (streaming (fetching true) [elem 0 0]) (fetching true) (elem 0 0) 0 ∧ (rowFetch true).unread = [] ∧
      (gather (rowFetch true).flight (linesOf (rowFetch true).cells)).length = 128 ∧ (fetching true).size ≤ (fetching true).spadSize ∧
      rowsOut (streaming (fetching true) [elem 0 0]) (fetching true) ≤ (fetching true).slots - 2 ∧
      spadLocked ((streaming (fetching true) [elem 0 0]).core 0) 0 4096 0 128 (some 3) = false) ∧
    (∀ tag ∈ [2, 4], Streams (streaming stream3 [elem tag 0]) stream3 (elem tag 0) tag ∧ (elem tag 0).bad = false) := by
  refine ⟨⟨⟨⟨rfl, by decide⟩, rfl, rfl, rfl, by decide⟩, _, _, rfl, rfl, rfl⟩, ⟨⟨⟨rfl, by decide⟩, rfl, rfl, rfl, by decide⟩, _, rfl, rfl, rfl⟩,
    ⟨⟨⟨rfl, by decide⟩, rfl, rfl, rfl, by decide⟩, rfl, by decide, by decide, by decide⟩,
    ⟨⟨⟨rfl, by decide⟩, rfl, rfl, rfl, by decide⟩, _, _, _, rfl, rfl, rfl, by decide, by decide⟩,
    ⟨⟨⟨rfl, by decide⟩, rfl, rfl, rfl, by decide⟩, rfl, by decide, by decide, by decide, by decide⟩, fun t ht => ?_⟩
  simp only [List.mem_cons, List.not_mem_nil, or_false] at ht
  rcases ht with rfl | rfl <;> exact ⟨⟨⟨rfl, by decide⟩, rfl, rfl, rfl, by decide⟩, rfl⟩

/-- A stream whose index has an error, names what it may not reach, whose reference meets an error, or whose row goes to a range that
another operation has registered. -/
theorem witness_EngineSteps_streamStops :
    (∃ s, Working s 0 3 stream3 ∧ indexHead s 0 stream3 = some badElem ∧ badElem.bad = true) ∧
    (∃ v, Streams (streaming { stream3 with src := 0 } [elem 0 0]) { stream3 with src := 0 } (elem 0 0) 0 ∧
      inFlight (streaming { stream3 with src := 0 } [elem 0 0]) 0 { stream3 with src := 0 } = [] ∧
      accessCells (streaming { stream3 with src := 0 } [elem 0 0]) (partyOp 0 stream3) .die false false 0 8 = .error (.trap .objBounds v)) ∧
    (∃ s, Streams s (fetching false) (elem 0 0) 0 ∧ inFlight s 0 (fetching false) = [rowFetch false] ∧
      ∃ b ∈ (rowFetch false).unread, ∃ c ∈ Machine.lineCells (rowFetch false).cells b, isPoisoned s c = true) ∧
    (∃ s, Streams s (fetching true) (elem 0 0) 0 ∧ (rowFetch true).unread = [] ∧ rowsOut s (fetching true) ≤ (fetching true).slots - 2 ∧
      spadLocked (s.core 0) 0 4096 0 128 (some 3) = true) := by
  refine ⟨⟨streaming stream3 [badElem], ⟨rfl, by decide⟩, rfl, rfl⟩, ⟨_, ⟨⟨rfl, by decide⟩, rfl, rfl, rfl, by decide⟩, by decide, rfl⟩,
    ⟨{ streaming (fetching false) [elem 0 0] with poisoned := [regionCell 0 / 64] }, ⟨⟨rfl, by decide⟩, rfl, rfl, rfl, by decide⟩, by decide, 0, by decide,
      regionCell 0, by decide, by decide⟩,
    ⟨streaming (fetching true) [elem 0 0] [{ lock1 with op := 5, spad := true, first := 0, span := 63, size := 4096 }],
      ⟨⟨rfl, by decide⟩, rfl, rfl, rfl, by decide⟩, rfl, by decide, by decide⟩⟩

/-- A command of the strand that ends. -/
def EndsNow (o : EngineOp) : Prop :=
  ∃ place st, findOp (engines [o] [] []) 0 3 = some o ∧ (engines [o] [] []).byGen 0 o.gen = some (place, st) ∧
    ((engines [o] [] []).core 0).preempted = false ∧ o.lost = false

/-- A copy here, and to a package that is reached and one that is not; a send; storage commands with a cause, with a status and without;
a copy with status register x0. -/
theorem witness_EngineSteps_ends :
    (∀ o ∈ [copy3 2, { copy3 2 with reg := 0 }], EndsNow o ∧ o.pkg = none ∧ o.stop = none ∧ o.len ≤ 4096 * o.sector ∧ o.unread = [] ∧ o.flight = []) ∧
    (EndsNow { copy3 2 with pkg := some 5 } ∧ peerReaches (engines [{ copy3 2 with pkg := some 5 }] [] []) 0 5 = false) ∧
    (∃ s : State, findOp s 0 3 = some { copy3 2 with pkg := some 5 } ∧ (∃ p, s.byGen 0 1 = some p) ∧ (s.core 0).preempted = false ∧
      peerReaches s 0 5 = true) ∧
    (EndsNow { send3 false with sector := 1, dests := [] } ∧ ∀ d ∈ ([] : List SendDest), d.ended = true) ∧
    EndsNow { op3 .sread with cause := 6 } ∧
    (EndsNow { op3 .swrite with sector := 1, len := 4096 } ∧ (1 : Nat) % 2048 ≠ 0 ∧ (0 : Nat) % 2048 = 0) := by
  refine ⟨fun o ho => ?_, ⟨⟨_, _, rfl, rfl, rfl, rfl⟩, by decide⟩,
    ⟨{ engines [{ copy3 2 with pkg := some 5 }] [] [] with
        pkg := { base.pkg with id := 1, peermap := [(5, 1)] }, parts := [(0, { part0 with peers := 1 })] }, rfl, ⟨_, rfl⟩, rfl, by decide⟩,
    ⟨⟨_, _, rfl, rfl, rfl, rfl⟩, by decide⟩, ⟨_, _, rfl, rfl, rfl, rfl⟩, ⟨_, _, rfl, rfl, rfl, rfl⟩, by decide, by decide⟩
  simp only [List.mem_cons, List.not_mem_nil, or_false] at ho
  rcases ho with rfl | rfl <;> exact ⟨⟨_, _, rfl, rfl, rfl, rfl⟩, rfl, rfl, by decide, rfl, rfl⟩

/-! Volumes. -/

/-- A state of the tests reads memory as though no firmware were loaded, since its firmware lies below the window. -/
def unloaded (s : State) : State := { s with pkg := { s.pkg with boot := 0 } }

theorem byteAt_unloaded (s : State) (k : Nat) (h : 2 ^ 52 ≤ k) : s.byteAt k = (unloaded s).byteAt k := by
  rw [State.byteAt, State.byteAt, firmwareCell_high s k h, firmwareCell_high (unloaded s) k h]; rfl

/-- The bytes at a physical address lie in the window. -/
def inWindow (s : State) (a n : Nat) : Bool := (List.range n).all fun i => (cellAt s (a + i)).all fun k => decide (2 ^ 52 ≤ k)

theorem physRead_unloaded (s : State) (a n : Nat) (h : inWindow s a n = true) : physRead s a n = physRead (unloaded s) a n := by
  unfold physRead
  congr 1
  refine List.map_congr_left fun i hi => ?_
  have hc : cellAt (unloaded s) (a + i) = cellAt s (a + i) := rfl
  rw [hc]
  simp only [inWindow, List.all_eq_true] at h
  have := h i hi
  cases hk : cellAt s (a + i) with
  | none => rfl
  | some k => rw [hk] at this; exact byteAt_unloaded s k (by simpa using this)

theorem readVolume_unloaded (s : State) (p : Nat) (h : (List.range 8).all (fun k => inWindow s (p + 8 * k) 8) = true) :
    readVolume s p = readVolume (unloaded s) p := by
  simp only [List.all_eq_true] at h
  have hw : ∀ k < 8, BitVec.ofNat 64 (physRead s (p + 8 * k) 8) = BitVec.ofNat 64 (physRead (unloaded s) (p + 8 * k) 8) :=
    fun k hk => by rw [physRead_unloaded s _ _ (h k (by simpa using hk))]
  unfold readVolume
  simp only [hw 0 (by omega), hw 1 (by omega), hw 2 (by omega), hw 3 (by omega), hw 4 (by omega), hw 5 (by omega), hw 6 (by omega), hw 7 (by omega)]

theorem readCells_unloaded (s : State) (cells : List Nat) (h : ∀ c ∈ cells, 2 ^ 52 ≤ c) : readCells s cells = readCells (unloaded s) cells := by
  rw [readCells_high s cells h, readCells_high (unloaded s) cells h]; rfl

/-- The volume of object 4, and that of object 6. -/
def volume4 (pool : Nat) : Volume :=
  { dims := 1, depth := 1, esz := 3, fw := [12, 0, 0, 0], ts := [9, 0, 0, 0], extent := [0x700, 1, 1, 1], background := 0xAB
    root := regionPhys 0x31000, pool := regionPhys pool }

/-- A strand with a handle and a coordinate in x1 and x2. -/
def reaching (h c : Word) : Strand := { full with xs := [(1, h), (2, c), (3, 77)] , st := 0 }

/-- A coordinate word reaches the volume of object 4 in a state. -/
def GoodAt (s : State) (cx : Ctx) (c : Word) (w : Bool) : Prop := VolumeGood s cx 0x0004000000000000 c w (volume4 0x32000)

/-- The state of a strand that reaches a coordinate of object 4. -/
def volState (st : Strand) (clb : List ClbEntry) : State := { with0 st with cores := [(0, { core0 with clb := clb })] }

/-- A volume instruction of that strand runs there. -/
def RunsVol (i : Instr) (st : Strand) (c : Word) (clb : List ClbEntry) (w : Bool) : Prop :=
  Runs (volState st clb) (cx0 st) i ∧ GoodAt (volState st clb) (cx0 st) c w ∧ readReg (volState st clb) (cx0 st) (.x 2) = c

theorem runsVol_of {i : Instr} {st : Strand} {c : Word} {clb : List ClbEntry} {w : Bool} (h1 : current (volState st clb) = some (cx0 st))
    (h2 : readyB (volState st clb) (cx0 st) (usesOf (volState st clb) (cx0 st) i) = true)
    (h3 : pageState (volState st clb) (partyOf 0 st) 0x0004000000000000 = .entry (entry 4 1 true true false 0x30000 0))
    (h4 : cellAt (volState st clb) (regionPhys 0x30000) = some (regionCell 0x30000))
    (h10 : isPoisoned (volState st clb) (regionCell 0x30000) = false)
    (h5 : volume4 0x32000 = readVolume (volState st clb) (regionPhys 0x30000))
    (h6 : ∀ k < 4, (volume4 0x32000).coord c k < (volume4 0x32000).extent.getD k 0) (h7 : c.toNat < 2 ^ (volume4 0x32000).fieldAt 4)
    (h8 : (nextPc 0xF800 st.pc).isSome = true) (h9 : readReg (volState st clb) (cx0 st) (.x 2) = c) :
    RunsVol i st c clb w :=
  ⟨⟨ready_of h1 h2, Option.isSome_iff_exists.mp h8⟩,
    ⟨⟨_, _, ⟨by decide, h3⟩, rfl, by cases w <;> rfl, h4, show memberOf (regionCell 0x30000) = dieOf 0 by decide, h10, h5⟩, by decide, h6, h7⟩, h9⟩

/-- A strand that reaches a coordinate of object 4. -/
def vol4 (c : Word) : Strand := reaching 0x0004000000000000 c

/-- The translation of tile 0, and of tile 1. -/
def clb4 : List ClbEntry := [⟨4, 0, regionPhys 0x33000⟩]

/-- The volume instructions in the firmware's package: id 0, a data object, the other die, a coordinate at the extent and one past
the summed widths. -/
theorem witness_VolumeInstructions_checks :
    (∃ s cx, Ready s cx (usesOf s cx (.cprobe (.x 4) (.x 1) (.x 2))) ∧ CanTrap s cx ∧ oidOf (readReg s cx (.x 1)) = 0) ∧
    (∃ s cx, Ready s cx (usesOf s cx (.ctrim (.x 1) (.x 2))) ∧ CanTrap s cx ∧ trimHere cx.st = none ∧ cx.st.st = 0 ∧
      oidOf (readReg s cx (.x 1)) = 0) ∧
    (∃ s cx e k, Ready s cx (usesOf s cx (.ldc (.x 4) (.x 1) (.x 2) false)) ∧ CanTrap s cx ∧ Handle s cx (readReg s cx (.x 1)) e ∧ e.kind = 1 ∧
      e.rd = true ∧ cellAt s e.pbase = some k ∧ memberOf k = dieOf cx.core ∧ isPoisoned s k = true) ∧
    (∃ s cx e, Ready s cx (usesOf s cx (.stc (.x 4) (.x 1) (.x 2))) ∧ CanTrap s cx ∧ Handle s cx (readReg s cx (.x 1)) e ∧ e.kind ≠ 1) ∧
    (∃ s cx e k, Ready s cx (usesOf s cx (.ldc (.x 4) (.x 1) (.x 2) false)) ∧ CanTrap s cx ∧ Handle s cx (readReg s cx (.x 1)) e ∧ e.kind = 1 ∧
      e.rd = true ∧ cellAt s e.pbase = some k ∧ memberOf k ≠ dieOf cx.core) ∧
    (∀ c ∈ [(0x700 : Word), 0x1000], ∃ s cx e k, Ready s cx (usesOf s cx (.ldc (.x 4) (.x 1) (.x 2) false)) ∧ CanTrap s cx ∧
      Handle s cx (readReg s cx (.x 1)) e ∧ e.kind = 1 ∧ e.rd = true ∧ cellAt s e.pbase = some k ∧ memberOf k = dieOf cx.core ∧
      (readVolume s e.pbase).valid = true ∧ readReg s cx (.x 2) = c ∧
      ((∃ j < 4, (readVolume s e.pbase).extent.getD j 0 ≤ (readVolume s e.pbase).coord c j) ∨
        2 ^ (readVolume s e.pbase).fieldAt 4 ≤ c.toNat)) := by
  refine ⟨⟨fw (with0 (reaching 0 0)), cx0 (reaching 0 0), ready_of rfl (by decide), canTrap_fw _ _ rfl (by decide), by decide⟩,
    ⟨fw (with0 (reaching 0 0)), cx0 (reaching 0 0), ready_of rfl (by decide), canTrap_fw _ _ rfl (by decide), rfl, rfl, by decide⟩,
    ⟨fw { with0 (vol4 0) with poisoned := [regionCell 0x30000 / 64] }, cx0 (vol4 0), _, _, ready_of rfl (by decide),
      canTrap_fw _ _ rfl (by decide), ⟨by decide, rfl⟩, rfl, rfl, rfl, by decide, by decide⟩,
    ⟨fw (with0 (reaching 0x0001000000000000 0)), cx0 (reaching 0x0001000000000000 0), _, ready_of rfl (by decide),
      canTrap_fw _ _ rfl (by decide), ⟨by decide, rfl⟩, by decide⟩,
    ⟨fw (with0 (reaching 0x0007000000000000 0)), cx0 (reaching 0x0007000000000000 0), _, _, ready_of rfl (by decide),
      canTrap_fw _ _ rfl (by decide), ⟨by decide, rfl⟩, rfl, rfl, rfl, by decide⟩, fun c hc => ?_⟩
  simp only [List.mem_cons, List.not_mem_nil, or_false] at hc
  rcases hc with rfl | rfl
  · have h1 : (List.range 8).all (fun k => inWindow (fw (with0 (vol4 0x700))) (regionPhys 0x30000 + 8 * k) 8) = true := by decide
    have h2 : readVolume (unloaded (fw (with0 (vol4 0x700)))) (regionPhys 0x30000) = volume4 0x32000 := by decide
    refine ⟨fw (with0 (vol4 0x700)), cx0 (vol4 0x700), entry 4 1 true true false 0x30000 0, regionCell 0x30000, ready_of rfl (by decide),
      canTrap_fw _ _ rfl (by decide), ⟨by decide, rfl⟩, rfl, rfl, rfl, by decide, ?_, rfl, .inl ⟨0, by decide, ?_⟩⟩
    all_goals
      rw [show (entry 4 1 true true false 0x30000 0).pbase = regionPhys 0x30000 from rfl, readVolume_unloaded _ _ h1, h2]
      decide
  · have h1 : (List.range 8).all (fun k => inWindow (fw (with0 (vol4 0x1000))) (regionPhys 0x30000 + 8 * k) 8) = true := by decide
    have h2 : readVolume (unloaded (fw (with0 (vol4 0x1000)))) (regionPhys 0x30000) = volume4 0x32000 := by decide
    refine ⟨fw (with0 (vol4 0x1000)), cx0 (vol4 0x1000), entry 4 1 true true false 0x30000 0, regionCell 0x30000, ready_of rfl (by decide),
      canTrap_fw _ _ rfl (by decide), ⟨by decide, rfl⟩, rfl, rfl, rfl, by decide, ?_, rfl, .inr ?_⟩
    all_goals
      rw [show (entry 4 1 true true false 0x30000 0).pbase = regionPhys 0x30000 from rfl, readVolume_unloaded _ _ h1, h2]
      decide

/-- That state with the translation of the handle in the L1 TLB. -/
def volHandled (st : Strand) (clb : List ClbEntry) : State := handled (volState st clb) (cx0 st) 0x0004000000000000

/-- Loads of the last element of tile 0, with and without its translation, and of tile 1, which is absent. -/
theorem witness_VolumeInstructions_loads :
    (∀ clb ∈ [[], clb4], RunsVol (.ldc (.x 4) (.x 1) (.x 2) true) (vol4 0x1FF) 0x1FF clb false ∧ ∃ cells s',
      LoadFinds (volHandled (vol4 0x1FF) clb) (cx0 (vol4 0x1FF)) 0x0004000000000000 (volume4 0x32000) 0x1FF (regionPhys 0x33000) s' ∧
      cellsOnDie s' 0 (regionPhys 0x33000 + (volume4 0x32000).byteIn 0x1FF) 8 = some cells) ∧
    (RunsVol (.ldc (.x 4) (.x 1) (.x 2) true) (vol4 0x200) 0x200 [] false ∧
      AbsentTile (volHandled (vol4 0x200) []) (cx0 (vol4 0x200)) 0x0004000000000000 (volume4 0x32000) 0x200 ∧ (vol4 0x200).acquiring = false) ∧
    (RunsVol (.ldcv 1 (.x 1) (.x 2)) (vol4 0x1F8) 0x1F8 clb4 false ∧ RunGood (volume4 0x32000) 0x1F8 ∧ ∃ cells,
      cellsOnDie (volHandled (vol4 0x1F8) clb4) 0 (regionPhys 0x33000 + (volume4 0x32000).byteIn 0x1F8) 64 = some cells) ∧
    (RunsVol (.ldcv 1 (.x 1) (.x 2)) (vol4 0x200) 0x200 [] false ∧ RunGood (volume4 0x32000) 0x200) := by
  refine ⟨fun clb h => ?_, ⟨runsVol_of rfl (by decide) rfl rfl (by decide) (by decide) (by decide) (by decide) (by decide) rfl, ⟨by decide, .inr ⟨_, rfl⟩⟩, by decide⟩,
    ⟨runsVol_of rfl (by decide) rfl rfl (by decide) (by decide) (by decide) (by decide) (by decide) rfl, by unfold RunGood; decide, _, rfl⟩,
    runsVol_of rfl (by decide) rfl rfl (by decide) (by decide) (by decide) (by decide) (by decide) rfl, by unfold RunGood; decide⟩
  simp only [List.mem_cons, List.not_mem_nil, or_false] at h
  rcases h with rfl | rfl
  · exact ⟨runsVol_of rfl (by decide) rfl rfl (by decide) (by decide) (by decide) (by decide) (by decide) rfl, _, _, .inr ⟨rfl, ⟨_, rfl⟩, rfl⟩, rfl⟩
  · exact ⟨runsVol_of rfl (by decide) rfl rfl (by decide) (by decide) (by decide) (by decide) (by decide) rfl, _, _, .inl ⟨rfl, rfl⟩, rfl⟩

/-- A strand that has taken the tile at 0x35000 for the entry of tile k. -/
def taking (c : Word) (k : Nat) : Strand :=
  { vol4 c with work := some (.tile 4 (regionPhys 0x31000 + 8 * k) (regionPhys 0x35000) (regionPhys 0x32000)) }

/-- Stores to tile 0, and to tile 1, which is taken from the pool, published, or given back when its entry is no longer absent. -/
theorem witness_VolumeInstructions_stores :
    (RunsVol (.stc (.x 3) (.x 1) (.x 2)) (vol4 0x1FF) 0x1FF clb4 true ∧ (vol4 0x1FF).st < 63 ∧ ∃ cells s',
      StoreFinds (volHandled (vol4 0x1FF) clb4) (cx0 (vol4 0x1FF)) 0x0004000000000000 (volume4 0x32000) 0x1FF (regionPhys 0x33000) s' ∧
      cellsOnDie s' 0 (regionPhys 0x33000 + (volume4 0x32000).byteIn 0x1FF) 8 = some cells) ∧
    (RunsVol (.stcv 1 (.x 1) (.x 2)) (vol4 0x200) 0x200 [] true ∧ RunGood (volume4 0x32000) 0x200 ∧ (vol4 0x200).work = none ∧
      ∃ slot leaf a g, grow (volHandled (vol4 0x200) []) 0 (volume4 0x32000) ((volume4 0x32000).key 0x200) 1 0 (regionPhys 0x31000) = .absent slot leaf ∧
        poolOnDie (volHandled (vol4 0x200) []) 0 (regionPhys 0x32000) 0 = true ∧ poolPoisoned (volHandled (vol4 0x200) []) (regionPhys 0x32000) = false ∧
        poolPop (volHandled (vol4 0x200) []) (regionPhys 0x32000) = some (a, g) ∧ a % 4096 = 0 ∧ a < 2 ^ 48 ∧ tileOnDie g 0 a = true) ∧
    (∀ k ∈ [0, 1], RunsVol (.stcv 1 (.x 1) (.x 2)) (taking 0x200 k) 0x200 [] true ∧
      (readEntry (volHandled (taking 0x200 k) []) 0 (regionPhys 0x31000 + 8 * k) = .absent ↔ k = 1) ∧
      releaseReady (volHandled (taking 0x200 k) []) 0 (taking 0x200 k) (taking 0x200 k).nextSeq .die = true) ∧
    (RunsVol (.stcv 1 (.x 1) (.x 2)) { taking 0x200 1 with pend := [loading], nextSeq := 1 } 0x200 [] true ∧
      releaseReady (volHandled { taking 0x200 1 with pend := [loading], nextSeq := 1 } []) 0 { taking 0x200 1 with pend := [loading], nextSeq := 1 } 1
        .die = false) := by
  refine ⟨⟨runsVol_of rfl (by decide) rfl rfl (by decide) (by decide) (by decide) (by decide) (by decide) rfl, by decide, _, _,
      ⟨rfl, .inl ⟨rfl, rfl⟩⟩, rfl⟩,
    ⟨runsVol_of rfl (by decide) rfl rfl (by decide) (by decide) (by decide) (by decide) (by decide) rfl, by unfold RunGood; decide, rfl,
      _, _, _, _, rfl, by decide, by decide, rfl, by decide, by decide, by decide⟩, fun k hk => ?_,
    ⟨runsVol_of rfl (by decide) rfl rfl (by decide) (by decide) (by decide) (by decide) (by decide) rfl, by decide⟩⟩
  simp only [List.mem_cons, List.not_mem_nil, or_false] at hk
  rcases hk with rfl | rfl
  · exact ⟨runsVol_of rfl (by decide) rfl rfl (by decide) (by decide) (by decide) (by decide) (by decide) rfl, by decide, by decide⟩
  · exact ⟨runsVol_of rfl (by decide) rfl rfl (by decide) (by decide) (by decide) (by decide) (by decide) rfl, by decide, by decide⟩

theorem readEntry_unloaded (s : State) (die p : Nat) (cells : List Nat) (h1 : cellsOnDie s die p 8 = some cells)
    (h2 : ∀ c ∈ cells, 2 ^ 52 ≤ c) : readEntry s die p = readEntry (unloaded s) die p := by
  have h3 : cellsOnDie (unloaded s) die p 8 = some cells := h1
  unfold readEntry
  rw [h1, h3]
  dsimp only
  rw [readCells_unloaded s cells h2]
  rfl

/-- Where a volume lies in the firmware's package. -/
theorem goodFw (st : Strand) (h c : Word) (w : Bool) (e : TlbEntry) (o pool : Nat) (d : oidOf h ≠ 0 ∧ oidOf h ≠ 0xFFFF)
    (h3 : pageState (fw (with0 st)) (partyOf 0 st) (BitVec.ofNat 64 (oidOf h * 2 ^ 48)) = .entry e) (he : e.kind = 1)
    (hw : (if w then e.wr else e.rd) = true) (hp : e.pbase = regionPhys o) (h4 : cellAt (fw (with0 st)) e.pbase = some (regionCell o))
    (hm : memberOf (regionCell o) = dieOf 0)
    (h1 : (List.range 8).all (fun k => inWindow (fw (with0 st)) (regionPhys o + 8 * k) 8) = true)
    (hb : isPoisoned (fw (with0 st)) (regionCell o) = false)
    (h2 : readVolume (unloaded (fw (with0 st))) (regionPhys o) = volume4 pool) (hv : (volume4 pool).valid = true)
    (h6 : ∀ k < 4, (volume4 pool).coord c k < (volume4 pool).extent.getD k 0) (h7 : c.toNat < 2 ^ (volume4 pool).fieldAt 4) :
    VolumeGood (fw (with0 st)) (cx0 st) h c w (volume4 pool) :=
  ⟨⟨e, regionCell o, ⟨d, h3⟩, he, hw, h4, hm, hb, by rw [hp, readVolume_unloaded _ _ h1, h2]⟩, hv, h6, h7⟩

/-- Runs that pass the extent by one element, and that start off their alignment. -/
theorem witness_VolumeInstructions_runs : ∀ c ∈ [(0x6F9 : Word), 0x6F1], ∃ s cx vol,
    Ready s cx (usesOf s cx (.stcv 1 (.x 1) (.x 2))) ∧ CanTrap s cx ∧ VolumeGood s cx (readReg s cx (.x 1)) (readReg s cx (.x 2)) true vol ∧
    readReg s cx (.x 2) = c ∧ (c = 0x6F9 → vol.extent.getD 0 0 < vol.coord c 0 + 64 / vol.elem) ∧
    (c = 0x6F1 → vol.coord c 0 + 64 / vol.elem ≤ vol.extent.getD 0 0 ∧ ¬RunGood vol c) := by
  intro c hc
  simp only [List.mem_cons, List.not_mem_nil, or_false] at hc
  rcases hc with rfl | rfl
  · exact ⟨fw (with0 (vol4 0x6F9)), cx0 (vol4 0x6F9), volume4 0x32000, ready_of rfl (by decide), canTrap_fw _ _ rfl (by decide),
      goodFw (vol4 0x6F9) _ _ _ (entry 4 1 true true false 0x30000 0) 0x30000 _ (by decide) rfl rfl rfl rfl rfl (by decide) (by decide) (by decide)
        (by decide) (by decide) (by decide) (by decide), rfl, by decide, fun h => absurd h (by decide)⟩
  · exact ⟨fw (with0 (vol4 0x6F1)), cx0 (vol4 0x6F1), volume4 0x32000, ready_of rfl (by decide), canTrap_fw _ _ rfl (by decide),
      goodFw (vol4 0x6F1) _ _ _ (entry 4 1 true true false 0x30000 0) 0x30000 _ (by decide) rfl rfl rfl rfl rfl (by decide) (by decide) (by decide)
        (by decide) (by decide) (by decide) (by decide), rfl, by decide, fun _ => ⟨by decide, by unfold RunGood; decide⟩⟩

/-- A strand that reaches tile 1 of object 6. -/
def vol6 : Strand := reaching 0x0006000000000000 0x200

theorem grow_empty : grow (fw (with0 vol6)) 0 (volume4 0x39000) ((volume4 0x39000).key 0x200) 1 0 (regionPhys 0x31000) =
    .absent (regionPhys 0x31008) true := by
  have h1 : readEntry (fw (with0 vol6)) 0 (regionPhys 0x31000 + 8 * (volume4 0x39000).index ((volume4 0x39000).key 0x200) 0) = .absent := by
    rw [readEntry_unloaded _ _ _ ((List.range 8).map (regionCell 0x31008 + ·)) (by decide) (by decide)]
    decide
  simp only [grow, h1]
  rfl

theorem witness_VolumeInstructions_empty : ∃ s cx vol slot leaf, Ready s cx (usesOf s cx (.stc (.x 3) (.x 1) (.x 2))) ∧
    VolumeGood s cx (readReg s cx (.x 1)) (readReg s cx (.x 2)) true vol ∧ cx.st.st < 63 ∧ cx.st.work = none ∧
    handled s cx (readReg s cx (.x 1)) = s ∧
    clbTile (s.core cx.core) (oidOf (readReg s cx (.x 1))) (vol.key (readReg s cx (.x 2))) = none ∧
    grow s (dieOf cx.core) vol (vol.key (readReg s cx (.x 2))) vol.depth 0 vol.root = .absent slot leaf ∧
    poolOnDie s (dieOf cx.core) vol.pool 0 = true ∧ poolPoisoned s vol.pool = false ∧ poolPop s vol.pool = none ∧ CanTrap s cx := by
  refine ⟨fw (with0 vol6), cx0 vol6, volume4 0x39000, _, _, ready_of rfl (by decide),
    goodFw vol6 _ _ _ (entry 6 1 true true false 0x38000 0) 0x38000 _ (by decide) rfl rfl rfl rfl rfl (by decide) (by decide) (by decide)
      (by decide) (by decide) (by decide) (by decide), by decide, rfl, rfl, by decide, grow_empty, ?_, ?_, ?_,
    canTrap_fw _ _ rfl (by decide)⟩
  · unfold poolOnDie poolHeader
    rw [physRead_unloaded _ _ _ (by decide)]
    decide
  · unfold poolPoisoned poolHeader
    rw [physRead_unloaded _ _ _ (by decide)]
    decide
  · unfold poolPop poolHeader
    rw [physRead_unloaded _ _ _ (by decide)]
    rfl

/-- Probes of tiles 1 (absent), 2 (busy) and 0 (present), and of a volume whose first level is absent. -/
theorem witness_VolumeInstructions_probes :
    (RunsVol (.cprobe (.x 4) (.x 1) (.x 2)) (vol4 0x200) 0x200 [] false ∧
      ∃ slot, walked (volHandled (vol4 0x200) []) (cx0 (vol4 0x200)) (volume4 0x32000) 0x200 = .leaf slot .absent) ∧
    (RunsVol (.cprobe (.x 4) (.x 1) (.x 2)) (vol4 0x400) 0x400 [] false ∧
      ∃ slot t, walked (volHandled (vol4 0x400) []) (cx0 (vol4 0x400)) (volume4 0x32000) 0x400 = .leaf slot (.busy t)) ∧
    (RunsVol (.cprobe (.x 4) (.x 1) (.x 2)) (vol4 0) 0 [] false ∧
      ∃ slot t, walked (volHandled (vol4 0) []) (cx0 (vol4 0)) (volume4 0x32000) 0 = .leaf slot (.present t)) ∧
    (∃ cx vol, cx = cx0 (reaching 0x0008000000000000 0) ∧ Runs (with0 cx.st) cx (.cprobe (.x 4) (.x 1) (.x 2)) ∧
      VolumeGood (with0 cx.st) cx (readReg (with0 cx.st) cx (.x 1)) 0 false vol ∧ walked (with0 cx.st) cx vol 0 = .absent) :=
  ⟨⟨runsVol_of rfl (by decide) rfl rfl (by decide) (by decide) (by decide) (by decide) (by decide) rfl, _, rfl⟩,
    ⟨runsVol_of rfl (by decide) rfl rfl (by decide) (by decide) (by decide) (by decide) (by decide) rfl, _, _, rfl⟩,
    ⟨runsVol_of rfl (by decide) rfl rfl (by decide) (by decide) (by decide) (by decide) (by decide) rfl, _, _, rfl⟩,
    ⟨_, { volume4 0x32000 with depth := 2, root := regionPhys 0x3A000 }, rfl, runs_of rfl (by decide) (by decide),
      ⟨⟨entry 8 1 true true false 0x3B000 0, regionCell 0x3B000, ⟨by decide, rfl⟩, rfl, rfl, rfl, by decide, by decide, by decide⟩, by decide, by decide, by decide⟩,
      rfl⟩⟩

/-- The strand whose trim of tile 2 is under way, and whose trim has been performed. -/
def trimming (done : Bool) : Strand := { vol4 0x400 with
    trimming := some ⟨user.pc, 0x400, 1, regionPhys 0x32000⟩, nextSeq := 2
    pend := if done then [] else [{ noAccess (.trim (regionPhys 0x31010) (regionPhys 0x34000) (regionPhys 0x32000) 4 2) with
      seq := 1, addr := 0x400, ord := .rel, scope := .die }] }

/-- The trim of tile 2, outstanding. -/
def trim2 : Access :=
  { noAccess (.trim (regionPhys 0x31010) (regionPhys 0x34000) (regionPhys 0x32000) 4 2) with seq := 1, addr := 0x400, ord := .rel, scope := .die }

/-- Another strand reads tile 2. -/
def trimmed (s : State) : State :=
  { s with strands := s.strands ++ [(placeKey 0 1, { user with gen := 2, pend := [{ loading with reads := [(0, regionCell 0x34000)] }] })] }

theorem witness_VolumeInstructions_trims :
    (∀ n ∈ [1, 63], RunsVol (.ctrim (.x 1) (.x 2)) { vol4 0 with st := n } 0 [] true ∧ trimHere { vol4 0 with st := n } = none) ∧
    (RunsVol (.ctrim (.x 1) (.x 2)) (vol4 0x200) 0x200 [] true ∧
      ∃ slot, walked (volHandled (vol4 0x200) []) (cx0 (vol4 0x200)) (volume4 0x32000) 0x200 = .leaf slot .absent) ∧
    (RunsVol (.ctrim (.x 1) (.x 2)) (vol4 0x400) 0x400 [] true ∧ (vol4 0x400).st = 0 ∧ trimHere (vol4 0x400) = none ∧
      ∃ slot t, walked (volHandled (vol4 0x400) []) (cx0 (vol4 0x400)) (volume4 0x32000) 0x400 = .leaf slot (.busy t)) ∧
    (RunsVol (.ctrim (.x 1) (.x 2)) (vol4 0) 0 [] true ∧ (vol4 0).st = 0 ∧ trimHere (vol4 0) = none ∧
      (∃ slot t, walked (volHandled (vol4 0) []) (cx0 (vol4 0)) (volume4 0x32000) 0 = .leaf slot (.present t) ∧
        tileOnDie (volHandled (vol4 0) []) 0 t = true) ∧
      poolOnDie (volHandled (vol4 0) []) 0 (regionPhys 0x32000) 1 = true ∧ headerPoisoned (volHandled (vol4 0) []) (regionPhys 0x32000) = false) ∧
    (∀ done ∈ [false, true], RunsVol (.ctrim (.x 1) (.x 2)) (trimming done) 0x400 [] true ∧
      InHand (cx0 (trimming done)) ⟨user.pc, 0x400, 1, regionPhys 0x32000⟩ done ∧
      headerPoisoned (volState (trimming done) []) (regionPhys 0x32000) = false) ∧
    (∃ s st, Outstanding s 0 0 1 storesNear st trim2 ∧ mayPerform s 0 st trim2 = true ∧ tileInUse s 0 (regionPhys 0x34000) = false) ∧
    (∃ s st, Outstanding s 0 0 1 storesNear st trim2 ∧ tileInUse s 0 (regionPhys 0x34000) = true) ∧
    (∃ s st, Outstanding s 0 0 1 storesNear st trim2 ∧ mayPerform s 0 st trim2 = false) := by
  refine ⟨fun n hn => ?_,
    ⟨runsVol_of rfl (by decide) rfl rfl (by decide) (by decide) (by decide) (by decide) (by decide) rfl, _, rfl⟩,
    ⟨runsVol_of rfl (by decide) rfl rfl (by decide) (by decide) (by decide) (by decide) (by decide) rfl, by decide, rfl, _, _, rfl⟩,
    ⟨runsVol_of rfl (by decide) rfl rfl (by decide) (by decide) (by decide) (by decide) (by decide) rfl, by decide, rfl, ⟨_, _, rfl, by decide⟩, by decide, by decide⟩,
    fun b hb => ?_, ⟨with0 (pending [trim2]), _, ⟨rfl, rfl⟩, by decide, by decide⟩,
    ⟨trimmed (with0 (pending [trim2])), _, ⟨rfl, rfl⟩, by decide⟩,
    ⟨with0 (pending [loading, trim2]), _, ⟨rfl, rfl⟩, by decide⟩⟩
  · simp only [List.mem_cons, List.not_mem_nil, or_false] at hn
    rcases hn with rfl | rfl <;> exact ⟨runsVol_of rfl (by decide) rfl rfl (by decide) (by decide) (by decide) (by decide) (by decide) rfl, rfl⟩
  · simp only [List.mem_cons, List.not_mem_nil, or_false] at hb
    rcases hb with rfl | rfl <;>
      exact ⟨runsVol_of rfl (by decide) rfl rfl (by decide) (by decide) (by decide) (by decide) (by decide) rfl, ⟨rfl, by decide⟩, by decide⟩

/-! The tile unit. -/

/-- Set 0 multiplies bytes with a chunk of 32, set 1 MX types, set 2 writes a maximum that object 3 forbids. -/
def tset0 : Tab Word :=
  [(0, 0x0001000101000088), (1, 0x0001000000000100), (2, 0x0002000000000042), (3, 0x00010001010000CC), (7, 0x0003000000000000)]

/-- A strand of a dense core, with configuration words, addresses and strides. -/
def tiler : Strand :=
  { user with
    xs := [(1, 0x0001000000000000), (2, 0x0001000000000020), (3, 0x40), (4, 0x0001000101000088), (5, 0x0001000181000088),
      (6, 0x0002000000000042), (7, 0x0001000000000002), (8, 0x0002000000000041)]
    spadSize := 4096 }

/-- The tile unit of core 0 stands as `t`, and slot 0 of core 0 issues. -/
def tileState (t : TileUnit) (st : Strand) : State := { with0 st with cores := [(0, { core0 with tile := t })] }

def unit0 : TileUnit := { tset := tset0 }

def stU : State := tileState unit0 tiler

/-- Words that R135 allows and forbids, at the last set and at set 0. -/
theorem witness_TileIssue_sets :
    (Ready stU (cx0 tiler) (usesOf stU (cx0 tiler) (.tcfg (.x 4) 3)) ∧ readReg stU (cx0 tiler) (.x 4) = 0x0001000101000088) ∧
    (∀ r ∈ [Reg.x 5, .q 0], ∃ s, current s = some (cx0 tiler) ∧ CanTrap s (cx0 tiler) ∧
      isIllegal s (cx0 tiler) (usesOf s (cx0 tiler) (.tcfg r 3)) = false ∧
      (∀ n ∈ operandNums (usesOf s (cx0 tiler) (.tcfg r 3)), n ∉ tiler.owed) ∧
      operandsKnown s (cx0 tiler) (usesOf s (cx0 tiler) (.tcfg r 3)) = true ∧ ¬ConfigGood (readReg s (cx0 tiler) r)) ∧
    (Ready stU (cx0 tiler) (usesOf stU (cx0 tiler) (.tamax (.x 2) 0)) ∧ (readReg stU (cx0 tiler) (.x 2)).toNat % 4 = 0) ∧
    (∃ s, Ready s (cx0 tiler) (usesOf s (cx0 tiler) (.tamax (.x 7) 0)) ∧ CanTrap s (cx0 tiler) ∧
      (readReg s (cx0 tiler) (.x 7)).toNat % 4 ≠ 0) ∧
    (Ready stU (cx0 tiler) (usesOf stU (cx0 tiler) (.trowh (.x 0) 0)) ∧ readReg stU (cx0 tiler) (.x 0) = 0) ∧
    (Ready stU (cx0 tiler) (usesOf stU (cx0 tiler) (.trowh (.x 6) 0)) ∧
      checkHead stU (partyOf 0 tiler) (readReg stU (cx0 tiler) (.x 6)) = .good) ∧
    (∃ s, Ready s (cx0 tiler) (usesOf s (cx0 tiler) (.trowh (.x 8) 0)) ∧ CanTrap s (cx0 tiler) ∧ readReg s (cx0 tiler) (.x 8) ≠ 0 ∧
      checkHead s (partyOf 0 tiler) (readReg s (cx0 tiler) (.x 8)) = .bad) := by
  refine ⟨⟨ready_of rfl (by decide), rfl⟩, fun r hr => ?_,
    ⟨ready_of rfl (by decide), by decide⟩, ⟨fw stU, ready_of rfl (by decide), canTrap_fw _ _ rfl (by decide), by decide⟩,
    ⟨ready_of rfl (by decide), rfl⟩, ⟨ready_of rfl (by decide), by decide⟩,
    ⟨fw stU, ready_of rfl (by decide), canTrap_fw _ _ rfl (by decide), by decide, ?_⟩⟩
  · simp only [List.mem_cons, List.not_mem_nil, or_false] at hr
    rcases hr with rfl | rfl
    · exact ⟨fw stU, rfl, canTrap_fw _ _ rfl (by decide), by decide, by decide, by decide, by unfold ConfigGood; decide⟩
    · exact ⟨fw { stU with queues := base.queues.insert 0 (queueWith [elem 0 0x0001000181000088] 3) }, rfl, canTrap_fw _ _ rfl (by decide),
        by decide, by decide, by decide, by unfold ConfigGood; decide⟩
  have hl : codeLine (fw stU) (partyOf 0 tiler) 0x0002000000000041 = .ok (readCells (fw stU) (lineCells 1)) := rfl
  rw [readCells_high _ _ (by decide)] at hl
  unfold checkHead
  rw [show readReg (fw stU) (cx0 tiler) (.x 8) = 0x0002000000000041 from rfl, hl]
  decide

/-- Every operation that joins the queue: with operands in memory, in scratchpad, on a port; with and without a counter. -/
def tileOps : List Instr :=
  [.tzero 31, .tmma 0 (.x 1) (.x 1) 0 true none, .tmmas 1 (.x 2) (.x 1) 0 false 2 (some 3), .tmmax 2 (.x 3) (.x 3) (.x 0) (.x 3) 1 true 3 none,
    .tlacc 3 (.x 1) (.x 3) 0 false none, .tlacc 3 (.x 0) (.x 2) 0 true none, .tsacc 4 (.x 1) (.x 3) 0 false (some 15), .tsacc 4 (.x 0) (.x 2) 0 true none,
    .tdrain 5 (.x 1) (.x 3) 3 .bf16 .rne 0 false none, .tdrain 5 (.x 1) (.x 3) 0 .bf16 .sto 1 false none,
    .tdrain 5 (.q 1) (.x 0) 0 .f32 .rne 2 false none, .tdrainHandler 6 (.x 1) (.x 3) (.x 4) 0 (some 1)]

theorem witness_TileIssue_queues : ∀ i ∈ tileOps, wellFormed i = true ∧ Ready stU (cx0 tiler) (usesOf stU (cx0 tiler) i) ∧
    (∃ pc, nextPc stU.cursor.header tiler.pc = some pc) ∧ tiler.tl < 63 := by
  refine fun i hi => ⟨?_, ready_of rfl ?_, Option.isSome_iff_exists.mp (by decide), by decide⟩ <;> revert i <;> decide

/-- An operation in progress: of set 0, with operands in scratchpad. -/
def opOf (kind : TileKind) : TileOp :=
  { id := 3, slot := 0, gen := 1, kind := kind, acc := 2, a := 64, b := 64, cfg := 0x0001000101000088, sel := 3, spadSize := 4096
    lid := 7, handler := 0x0002000000000042 }

/-- A table of range locks with no free entry. -/
def fullLocks : List RangeLock := (List.range 32).map fun k =>
  { index := k, op := 40, written := false, spad := false, chan := none, slot := 1, engine := 0, first := 0, span := 0 }

set_option maxRecDepth 4000 in
/-- Ranges of operands: within the table, and where it is full; the queue full; tl at 63. -/
theorem witness_TileIssue_room :
    (takeLocks (stU.core 0) [rowsLock (newTile (operandsOf stU (cx0 tiler)) .sacc 4 0 none) true true 256]).isSome = true ∧
    (∃ s, Ready s (cx0 tiler) (usesOf s (cx0 tiler) (.tsacc 4 (.x 0) (.x 2) 0 true none)) ∧ ∀ l, takeLocks (s.core 0) [l] = none) ∧
    (∃ s, Ready s (cx0 tiler) (usesOf s (cx0 tiler) (.tzero 0)) ∧ (s.core 0).tile.queue.length = 8) ∧
    (∃ st, Ready (tileState unit0 st) (cx0 st) (usesOf (tileState unit0 st) (cx0 st) (.tzero 0)) ∧ st.tl = 63) := by
  refine ⟨by decide, ⟨{ stU with cores := [(0, { core0 with tile := unit0, locks := fullLocks })] }, ready_of rfl (by decide), fun l => ?_⟩,
    ⟨tileState { unit0 with queue := List.replicate 8 (opOf .zero) } tiler, ready_of rfl (by decide), rfl⟩,
    ⟨{ tiler with tl := 63 }, ready_of rfl (by decide), rfl⟩⟩
  rfl

/-- Bases in memory off 64 bytes; an amax word that its object forbids. -/
theorem witness_TileIssue_traps :
    (∀ i ∈ [Instr.tmma 0 (.x 2) (.x 1) 0 true none, .tmmas 0 (.x 1) (.x 2) 0 true 0 none, .tmmas 0 (.x 2) (.x 2) 0 true 2 none,
        .tlacc 0 (.x 2) (.x 3) 0 false none, .tsacc 0 (.x 1) (.x 2) 0 false none], ∃ s, Ready s (cx0 tiler) (usesOf s (cx0 tiler) i) ∧ CanTrap s (cx0 tiler)) ∧
    tiler.x 2 = 0x0001000000000020 ∧
    (∃ s c v, Ready s (cx0 tiler) (usesOf s (cx0 tiler) (.tdrain 5 (.x 1) (.x 3) 2 .bf16 .rne 0 false none)) ∧ CanTrap s (cx0 tiler) ∧
      tsetWord (s.core 0).tile 2 1 ≠ 0 ∧
      accessCells s (partyOf 0 tiler) .die true false (tsetWord (s.core 0).tile 2 1) 4 true = .error (.trap c v)) ∧
    (∃ cells, accessCells stU (partyOf 0 tiler) .die true false (tsetWord (stU.core 0).tile 0 1) 4 true = .ok cells) := by
  refine ⟨fun i hi => ⟨fw stU, ready_of rfl ?_, canTrap_fw _ _ rfl (by decide)⟩, rfl,
    ⟨fw stU, .objPermission, 0x0003000000000000, ready_of rfl (by decide), canTrap_fw _ _ rfl (by decide), by decide, rfl⟩, _, rfl⟩
  revert i; decide

def stopped : TileUnit :=
  { unit0 with rowprog := 0x9028000000002800, queue := [{ opOf .mma with slot := 5 }, { opOf .zero with id := 4, slot := 5 }, { opOf .zero with id := 5 }] }

theorem witness_TileIssue_stop : ∀ i ∈ [Instr.tresume, .tabort],
    (∃ s, Ready s (cxSup sup) (usesOf s (cxSup sup) i) ∧ (s.core 0).tile.rowprog.getLsbD 63 = false) ∧
    (∃ s st o rest, Ready s (cxSup st) (usesOf s (cxSup st) i) ∧ (s.core 0).tile.rowprog.getLsbD 63 = true ∧
      (s.core 0).tile.queue = o :: rest ∧ ∀ p ∈ rest, p.id ≠ o.id) := by
  refine fun i hi => ⟨⟨withSup sup, ready_of rfl ?_, by decide⟩,
    { withSup { sup with gen := 2 } with cores := [(0, { core0 with supRunning := true, tile := stopped })] }, { sup with gen := 2 }, _, _, ready_of rfl ?_, by decide, rfl, by decide⟩
  all_goals revert i; decide

def handler0 : Strand := { tiler with kind := .handler, drain := some (3, 0), ports := [(1, ⟨1, true, 0⟩)], xs := (9, 0xF0) :: tiler.xs }

/-- The row handler writes to memory, with columns 4 to 7 active, and to a port. -/
theorem witness_TileIssue_rowoutElsewhere :
    (∃ cells : Nat → List Nat, Ready (tileState unit0 handler0) (cx0 handler0)
        (usesOf (tileState unit0 handler0) (cx0 handler0) (.rowout (.x 1) (.x 9) 0 .bf16 .rne 0 false)) ∧
      (ghostPlace (tileState unit0 handler0) 0).isSome = true ∧ handler0.st < 63 ∧
      columnsOf (tileState unit0 handler0) (cx0 handler0) (.x 9) = [4, 5, 6, 7] ∧
      ∀ j ∈ [4, 5, 6, 7], accessCells (tileState unit0 handler0) (partyOf 0 handler0) .die true true
        (readReg (tileState unit0 handler0) (cx0 handler0) (.x 1) + BitVec.ofNat 64 (j * 2)) 2 (code := true) = .ok (cells j)) ∧
    (∃ s, Ready s (cx0 handler0) (usesOf s (cx0 handler0) (.rowout (.q 1) (.x 9) 0 .s8 .rne 2 false)) ∧ GhostRoom s (cx0 handler0) ∧
      fenced s handler0 = false ∧ earlierRow s 0 handler0.drain = false ∧ hasRoom s handler0 1 8 = true) :=
  ⟨⟨fun j => (List.range 2).map fun b => regionCell (2 * j + b), ready_of rfl (by decide), by decide, by decide, by decide, by decide⟩,
    ⟨{ tileState unit0 handler0 with queues := base.queues.insert 1 { queueWith [] 8 with depth := 8 } }, ready_of rfl (by decide), .inl rfl,
      by decide, by decide, by decide⟩⟩

theorem witness_TileIssue_rowout : ∃ s cx, Ready s cx (usesOf s cx (.rowout (.x 3) (.x 4) 1 .bf16 .rne 1 true)) ∧
    (∀ j < 64, spadStoreWaits s cx.core cx.st ((readReg s cx (.x 3)).toNat + j * 2) 2 = false) ∧
    (∀ j < 64, spadLocked (s.core cx.core) cx.st.spadBase cx.st.spadSize ((readReg s cx (.x 3)).toNat + j * 2) 2 none = false) ∧
    64 * 2 ≤ cx.st.spadSize ∧ GhostRoom s cx ∧ cx.st.kind = .handler :=
  ⟨tileState unit0 handler0, cx0 handler0, ready_of rfl (by decide), by decide, by decide, by decide, .inl rfl, rfl⟩

/-! Steps of the unit. -/

/-- The unit works on an operation for a strand that has issued it. -/
def working (o : TileOp) : State := tileState { unit0 with queue := [o], acc := [(8192, 0x3F800000)] } { tiler with tl := 1 }

theorem works_of {s : State} {core : Nat} {o : TileOp} (h1 : (s.core core).tile.queue.head? = some o) (h2 : tileMayWork s core o = true) :
    UnitWorks s core o := ⟨h1, h2⟩

theorem witness_TileEvents_zero : ∃ (s : State) (o : TileOp), UnitWorks s 0 o ∧ o.kind = .zero :=
  ⟨working (opOf .zero), opOf .zero, works_of rfl (by decide), rfl⟩

set_option exponentiation.threshold 600 in
/-- A multiply in its first row and in its last; one whose A repeats; one with scales. -/
theorem witness_TileEvents_multiply :
    (∃ (s : State) (o : TileOp), ∃ a b ca cb, UnitWorks s 0 o ∧ o.kind = .mmas ∧ o.row = 0 ∧ accBad (s.core 0).tile o.acc o.row = false ∧
      unitRead s 0 o true (o.a + BitVec.ofNat 64 (0 * 64 + typeBytes 8 (32 * o.chunk))) (typeBytes 8 32) = .data a [] ca ∧
      unitReads s 0 o true (chunkB o o.chunk) = .data b [] cb) ∧
    (∃ (s : State) (o : TileOp), ∃ a ca, UnitWorks s 0 o ∧ o.kind = .mma ∧ o.row = 63 ∧ accBad (s.core 0).tile o.acc o.row = false ∧ o.sel = 0 ∧
      unitRead s 0 o false (o.a + BitVec.ofNat 64 (63 * 64 + typeBytes 8 (32 * o.chunk))) (typeBytes 8 32) = .data a [] ca) ∧
    (∃ (s : State) (o : TileOp), UnitWorks s 0 o ∧ o.kind = .mmas ∧ o.row = 5 ∧ field o.cfg 63 48 = 0 ∧ accBad (s.core 0).tile o.acc o.row = false) ∧
    (∃ (s : State) (o : TileOp), ∃ a ca x cx, UnitWorks s 0 o ∧ o.kind = .mmax ∧ o.row = 7 ∧ accBad (s.core 0).tile o.acc o.row = false ∧
      unitRead s 0 o true (o.a + BitVec.ofNat 64 (7 * 64 + typeBytes 12 (32 * o.chunk))) (typeBytes 12 32) = .data a [] ca ∧
      unitRead s 0 o true (o.sa + BitVec.ofNat 64 (7 * 1 + o.chunk)) 1 = .data [x] [] cx) :=
  ⟨⟨working (opOf .mmas), opOf .mmas, _, _, _, _, works_of rfl (by decide), rfl, rfl, by decide, rfl, rfl⟩,
    ⟨working { opOf .mma with row := 63, sel := 0, a := 0x0001000000000000, b := 0x0001000000000000 },
      { opOf .mma with row := 63, sel := 0, a := 0x0001000000000000, b := 0x0001000000000000 }, _, _, works_of rfl (by decide), rfl, rfl, by decide, rfl, rfl⟩,
    ⟨working { opOf .mmas with row := 5, cfg := 0x0000000101000088 }, _, works_of rfl (by decide), rfl, rfl, by decide, by decide⟩,
    ⟨working { opOf .mmax with row := 7, cfg := 0x00010001010000CC }, { opOf .mmax with row := 7, cfg := 0x00010001010000CC }, _, _, _, _,
      works_of rfl (by decide), rfl, rfl, by decide, rfl, rfl⟩⟩

set_option maxRecDepth 4000 in
theorem witness_TileEvents_rows :
    (∃ (s : State) (o : TileOp), ∃ bs cs, UnitWorks s 0 o ∧ o.kind = .lacc ∧ o.row = 63 ∧
      unitReads s 0 o (o.sel.testBit 0) (pieces (o.a + BitVec.ofNat 64 o.row * o.b) 256) = .data bs [] cs ∧ bs.length = 256) ∧
    (∃ (s : State) (o : TileOp), ∃ cells, UnitWorks s 0 o ∧ o.kind = .sacc ∧ o.sel.testBit 0 = false ∧ accBad (s.core 0).tile o.acc o.row = false ∧
      unitWrites s 0 o false (pieces (o.a + BitVec.ofNat 64 o.row * o.b) 256) = .data [] [] cells ∧ cells.length = 256) ∧
    (∃ (s : State) (o : TileOp), ∃ cells, UnitWorks s 0 o ∧ o.kind = .drain ∧ o.dest = 0 ∧ accBad (s.core 0).tile o.acc o.row = false ∧ o.dtype = .bf16 ∧
      unitWrites s 0 o false (pieces (o.a + BitVec.ofNat 64 o.row * o.b) 128) = .data [] [] cells ∧ cells.length = 128) ∧
    (∃ (s : State) (o : TileOp), UnitWorks s 0 o ∧ o.kind = .sacc ∧ o.sel.testBit 0 = true ∧ accBad (s.core 0).tile o.acc o.row = false ∧
      unitWrites s 0 o true (pieces (o.a + BitVec.ofNat 64 o.row * o.b) 256) = .data [] [] [] ∧ 256 ≤ o.spadSize) ∧
    (∀ n ∈ [0, 1], ∃ (s : State) (o : TileOp) (q : Queue), UnitWorks s 0 o ∧ o.kind = .drain ∧ o.dest = 2 ∧ accBad (s.core 0).tile o.acc o.row = false ∧
      s.queue o.queue = some q ∧ 8 ≤ widthOf o.dtype ∧ creditsOf q o.gen = n) := by
  refine ⟨⟨working { opOf .lacc with row := 63 }, { opOf .lacc with row := 63 }, _, _, works_of rfl (by decide), rfl, rfl, rfl, by decide⟩,
    ⟨working { opOf .sacc with sel := 0, a := 0x0001000000000100 }, { opOf .sacc with sel := 0, a := 0x0001000000000100 }, _,
      works_of rfl (by decide), rfl, rfl, by decide, rfl, by decide⟩,
    ⟨working { opOf .drain with sel := 0, a := 0x0001000000000100, dtype := .bf16 }, { opOf .drain with sel := 0, a := 0x0001000000000100, dtype := .bf16 }, _,
      works_of rfl (by decide), rfl, rfl, by decide, rfl, rfl, by decide⟩,
    ⟨working { opOf .sacc with sel := 1 }, { opOf .sacc with sel := 1 }, works_of rfl (by decide), rfl, rfl, by decide, rfl, by decide⟩,
    fun n hn => ?_⟩
  simp only [List.mem_cons, List.not_mem_nil, or_false] at hn
  rcases hn with rfl | rfl
  · exact ⟨{ working { opOf .drain with dest := 2, queue := 1, dtype := .s8 } with queues := [(1, queueWith [] 0)] },
      { opOf .drain with dest := 2, queue := 1, dtype := .s8 }, _, works_of rfl (by decide), rfl, rfl, by decide, rfl, by decide, by decide⟩
  · exact ⟨{ working { opOf .drain with dest := 2, queue := 1, dtype := .s8 } with queues := [(1, queueWith [] 1)] },
      { opOf .drain with dest := 2, queue := 1, dtype := .s8 }, _, works_of rfl (by decide), rfl, rfl, by decide, rfl, by decide, by decide⟩

/-- A row whose accumulator has an error; the stop that follows. -/
theorem witness_TileEvents_faults :
    (∃ (s : State) (o : TileOp), ∃ w, UnitWorks s 0 o ∧ tileRow s 0 o = .fault w) ∧
    (∃ (s : State) (o : TileOp), ∃ w, (s.core 0).tile.fault = some w ∧ (s.core 0).tile.queue.head? = some o ∧ o.kind ≠ .zero ∧ o.kind ≠ .drainHandler ∧
      o.acc < 32 ∧ o.slot < 16 ∧ o.row = 63 ∧ o.chunk = 127) :=
  ⟨⟨tileState { unit0 with queue := [opOf .sacc], bad := [8192] } tiler, opOf .sacc, _, works_of rfl (by decide), rfl⟩,
    ⟨tileState { unit0 with queue := [{ opOf .mma with row := 63, chunk := 127, acc := 31, slot := 15 }], fault := some 5 } tiler, _, _, rfl, rfl,
      by decide, by decide, by decide, by decide, rfl, rfl⟩⟩

theorem witness_TileEvents_completes :
    (∃ (s : State) (o : TileOp), ∃ place st rest, (s.core 0).tile.ended = o :: rest ∧ s.byGen 0 o.gen = some (place, st) ∧ o.kind = .drainHandler ∧ 64 ≤ o.rowsDone ∧ rowsPending s 0 o = false) ∧
    (∃ (s : State) (o : TileOp), ∃ place st rest, (s.core 0).tile.ended = o :: rest ∧ s.byGen 0 o.gen = some (place, st) ∧ o.kind ≠ .drainHandler ∧ o.amaxDone = true ∧
      o.amaxFault = none ∧ drainPushing s o = false ∧ o.cn = some 15) :=
  ⟨⟨tileState { unit0 with ended := [{ opOf .drainHandler with rowsDone := 64 }] } tiler, _, 0, _, _, rfl, rfl, rfl, by decide, by decide⟩,
    ⟨tileState { unit0 with ended := [{ opOf .mma with cn := some 15 }] } tiler, _, 0, _, _, rfl, rfl, by decide, rfl, rfl, by decide, rfl⟩⟩

theorem witness_TileEvents_amax : ∃ (s : State) (o : TileOp), ∃ cells, (s.core 0).tile.ended.find? (fun p => p.id == 3) = some o ∧ o.amaxDone = false ∧
    o.amaxFault = none ∧ o.wait = none ∧ memLocked (s.core 0) o.amax 4 (some o.id) = false ∧
    accessCells s (partyTile 0 o) .die true false o.amax 4 true = .ok cells ∧ cells.length = 4 ∧ (∀ c ∈ cells, isPoisoned s c = false) :=
  ⟨tileState { unit0 with ended := [{ opOf .drain with amax := 0x0001000000000100, amaxDone := false }] } tiler,
    { opOf .drain with amax := 0x0001000000000100, amaxDone := false }, _, rfl, rfl, rfl, rfl, by decide, rfl, by decide, by decide⟩

/-- The word of that atomic lies in a range that another operation has registered as read. -/
theorem witness_TileEvents_amaxLocked : ∃ (s : State) (o : TileOp), ∃ cells, (s.core 0).tile.ended.find? (fun p => p.id == 3) = some o ∧
    o.amaxDone = false ∧ o.amaxFault = none ∧ o.wait = none ∧ memLocked (s.core 0) o.amax 4 (some o.id) = true ∧
    accessCells s (partyTile 0 o) .die true false o.amax 4 true = .ok cells :=
  ⟨{ with0 tiler with cores := [(0, { core0 with
      tile := { unit0 with ended := [{ opOf .drain with amax := 0x0001000000000080, amaxDone := false }] }, locks := [{ lock1 with op := 5 }] })] },
    { opOf .drain with amax := 0x0001000000000080, amaxDone := false }, _, rfl, rfl, rfl, rfl, by decide, rfl⟩

theorem witness_TileEvents_handler : ∀ row ∈ [0, 63], ∃ (s : State) (o : TileOp), ∃ slot g, UnitWorks s 0 o ∧ o.kind = .drainHandler ∧ o.row = row ∧
    (s.core 0).reserved.find? (fun r => r.2 == o.stage && slotFree s 0 r.1) = some (slot, g) ∧ accBad (s.core 0).tile o.acc o.row = false := by
  intro row hr
  simp only [List.mem_cons, List.not_mem_nil, or_false] at hr
  rcases hr with rfl | rfl
  · exact ⟨{ working (opOf .drainHandler) with cores := [(0, { core0 with tile := { unit0 with queue := [opOf .drainHandler] }, reserved := [(3, 0)] })] },
      opOf .drainHandler, _, _, works_of rfl (by decide), rfl, rfl, rfl, by decide⟩
  · exact ⟨{ working (opOf .drainHandler) with cores := [(0, { core0 with tile := { unit0 with queue := [{ opOf .drainHandler with row := 63 }] }, reserved := [(3, 0)] })] },
      { opOf .drainHandler with row := 63 }, _, _, works_of rfl (by decide), rfl, rfl, rfl, by decide⟩

/-! The merge unit. -/

theorem runsAt {s : State} {cx : Ctx} {i : Instr} (h1 : current s = some cx) (h2 : readyB s cx (usesOf s cx i) = true)
    (h3 : (nextPc s.cursor.header cx.st.pc).isSome = true) : Runs s cx i :=
  ⟨ready_of h1 h2, Option.isSome_iff_exists.mp h3⟩

theorem canTrap_fwAt (s : State) (cx : Ctx) (n : Nat) (hc : cx.core = n) (hn : dieOf n = 0) (hk : cx.st.kind ≠ .supervisor) :
    CanTrap (fw s n) cx :=
  ⟨by rw [hc]; exact svecGood_fw s n hn, fun h => absurd h hk⟩

/-- A strand of a sparse core. -/
def merger : Strand := { user with xs := [(1, 0x40), (2, 0x80), (3, 0xC0), (4, 0x200)], spadSize := 4096 }

def cx1 (st : Strand) : Ctx := { core := 1, slot := 0, st := st }

/-- Descriptors at 0 (port 0, a ring of two pairs at 0x100), at 0x40 (port 0 twice), at 0x80 (port 7) and at 0xC0 (a kind of 2); the
pairs (5, 1.0) and (5, 2.0) at 0x100, (5, 0.5) and (9, 1.0) at 0x110. -/
def pad1 : Tab Byte :=
  [(3, 0x40), (20, 2), (25, 1), (0x43, 0x40), (0x53, 0x40), (0x83, 0x78), (0xC3, 0x80), (0x100, 5), (0x106, 0x80), (0x107, 0x3F), (0x108, 5),
    (0x10F, 0x40), (0x110, 5), (0x117, 0x3F), (0x118, 9), (0x11E, 0x80), (0x11F, 0x3F)]

/-- Slot 0 of core 1 issues, its merge unit as `m`. -/
def mergeState (m : MergeUnit) (st : Strand) : State :=
  { base with strands := [(placeKey 1 0, st)], cores := [(0, core0), (1, { core0 with merge := m, spad := pad1 })]
              cursor := { core := 1, slot := 0, header := 0xF800, stalled := false } }

def run1 : MergeRun := { slot := 0, gen := 1, op := 3, toPort := false, out := 0x200, tag := 0, cn := some 15, spadBase := 0, spadSize := 4096, seq := 1, rank := 0 }

def ring (count off pos : Nat) : Fibre := { isQueue := false, queue := 0, gen := 1, port := 0, count := count, off := off, pos := pos }

def rings : MergeUnit := { fibres := [ring 2 0x100 0, ring 2 0x110 0, ring 0 0x180 0], run := some run1 }

/-- The range of a ring of two pairs at 0x100. -/
def ringLock : RangeLock :=
  { index := 0, op := 0, written := false, spad := true, chan := none, slot := 0, engine := 1, first := 0x100, span := 15, base := 0, size := 4096 }

set_option maxRecDepth 4000 in
theorem witness_MergeRuns_mcfg :
    (Runs (mergeState {} merger) (cx1 merger) (.mcfg (.x 0) 1) ∧ merger.acquiring = false ∧
      ∀ k < 32, padPlace merger 0 k ∉ ((mergeState {} merger).core 1).bad) ∧
    Runs (mergeState rings merger) (cx1 merger) (.mcfg (.x 0) 63) ∧
    (∀ p ∈ [((1 : Fin 48), (1 : BitVec 6)), (2, 0), (3, 0)], ∃ s, Runs s (cx1 merger) (.mcfg (.x p.1) p.2) ∧ CanTrap s (cx1 merger) ∧
      (s.core 1).merge.run = none ∧ ∀ k, little (fun j => (s.core 1).spad.get 0 (padPlace merger 0 k + j)) 4 =
        little (fun j => pad1.get 0 (padPlace merger 0 k + j)) 4) := by
  refine ⟨⟨runsAt rfl (by decide) (by decide), rfl, fun k _ => by rw [show ((mergeState {} merger).core 1).bad = [] from rfl]; simp⟩,
    runsAt rfl (by decide) (by decide), fun p hp => ⟨fw (mergeState {} merger) 1, ?_, canTrap_fwAt _ _ 1 rfl (by decide) (by decide), rfl, fun _ => rfl⟩⟩
  simp only [List.mem_cons, List.not_mem_nil, or_false] at hp
  rcases hp with rfl | rfl | rfl <;> exact runsAt rfl (by decide) (by decide)

theorem witness_MergeRuns_mrun :
    (∀ i ∈ [Instr.mrun (.x 4) false 0 none, .mrun (.q 1) true 4 (some 15)], wellFormed i = true ∧
      Runs (mergeState { rings with run := none } merger) (cx1 merger) i ∧ merger.tl < 63) ∧
    (takeLocks ((mergeState { rings with run := none } merger).core 1) [ringLock]).isSome = true ∧
    Runs (mergeState rings merger) (cx1 merger) (.mrun (.x 4) false 0 none) ∧
    Runs (mergeState {} { merger with tl := 63 }) (cx1 { merger with tl := 63 }) (.mrun (.x 4) false 0 none) ∧
    (∃ s, Runs s (cx1 merger) (.mrun (.x 4) false 0 none) ∧ takeLocks (s.core 1) [ringLock] = none) ∧
    Runs (mergeState rings merger) (cx1 merger) (.mstat (.x 1)) ∧ Runs (mergeState rings merger) (cx1 merger) .mstop ∧
    Runs (mergeState {} merger) (cx1 merger) .mstop := by
  refine ⟨fun i hi => ⟨?_, runsAt rfl ?_ (by decide), by decide⟩, by decide, runsAt rfl (by decide) (by decide), runsAt rfl (by decide) (by decide),
    ⟨{ mergeState { rings with run := none } merger with cores := [(1, { core0 with merge := { rings with run := none }, locks := fullLocks })] },
      runsAt rfl (by decide) (by decide), rfl⟩, runsAt rfl (by decide) (by decide), runsAt rfl (by decide) (by decide), runsAt rfl (by decide) (by decide)⟩
  all_goals revert i; decide

theorem ringsRun_of {m : MergeUnit} (h : (m.run = some run1) ∧ ∀ f ∈ m.fibres, f.isQueue = false) : RingsRun (mergeState m merger) 1 run1 :=
  { run := h.1, idle := rfl, going := rfl, sources := rfl, rings := h.2 }

theorem witness_MergeRuns_emit : ∃ s m, m = (s.core 1).merge ∧ RingsRun s 1 run1 ∧ m.stopAsked = false ∧ outputBad (s.core 1) run1 = none ∧ (s.core 1).bad = [] ∧
    (∃ f ∈ m.fibres, f.pos < f.count ∧ (ringPair s 1 f f.pos).1 = 5) ∧ (∀ f ∈ m.fibres, f.pos < f.count → 5 ≤ (ringPair s 1 f f.pos).1) ∧
    summands s 1 5 m.fibres = [0x3F800000, 0x40000000, 0x3F000000] :=
  ⟨mergeState rings merger, rings, rfl, ringsRun_of ⟨rfl, by decide⟩, rfl, by decide, rfl, by decide, by decide, by decide⟩

/-- A run over the queue at port 0 and a ring, whose least coordinate 5 both hold once. -/
def mixed (toPort : Bool) : State :=
  { mergeState { fibres := [{ ring 0 0 0 with isQueue := true, queue := 0, port := 0 }, ring 2 0x110 0]
                 run := some { run1 with toPort := toPort, out := if toPort then 1 else 0x200, tag := 1 } } merger with
    queues := (0, queueWith [elem 0 0x3F80000000000005, elem 0 0x3F80000000000007] 3) :: base.queues.tail }

/-- The fibres of that run once each has given its pair at coordinate 5. -/
def mixedFibres : Fibre × Fibre :=
  ({ ring 0 0 0 with isQueue := true, queue := 0, port := 0, pos := 1, last := some 5 }, { ring 2 0x110 1 with last := some 5 })

/-- The run takes the queue's pair and the ring's first, then meets coordinate 9; there is room where it writes or pushes. -/
theorem witness_MergeRuns_mixed : ∀ toPort ∈ [false, true], ∃ r vs u, Going (mixed toPort) 1 r ∧ FibresBound (mixed toPort) 1 ∧
    ((mixed toPort).core 1).merge.stopAsked = false ∧
    fibreHeads (mixed toPort) 1 = [.pair 5 0x3F800000, .pair 5 0x3F000000] ∧
    Draws 1 5 (mixed toPort) 0 vs u ∧ vs = [0x3F800000, 0x3F000000] ∧ r.toPort = toPort ∧
    (if r.toPort then OutputRoom u r else outputBad (u.core 1) r = none) := by
  intro b hb
  simp only [List.mem_cons, List.not_mem_nil, or_false] at hb
  have bound : ∀ b, FibresBound (mixed b) 1 := by
    intro b f hf hq place st hs
    have hf' : f ∈ [{ ring 0 0 0 with isQueue := true, queue := 0, port := 0 }, ring 2 0x110 0] := hf
    simp only [List.mem_cons, List.not_mem_nil, or_false] at hf'
    rcases hf' with rfl | rfl
    · have : (mixed b).byGen 1 1 = some (0, merger) := rfl
      have e := hs.symm.trans this
      obtain ⟨-, rfl⟩ : place = 0 ∧ st = merger := by simpa using e
      exact ⟨_, rfl, rfl⟩
    · cases hq
  have draws : ∀ b, ∃ u, Draws 1 5 (mixed b) 0 [0x3F800000, 0x3F000000] u ∧ u = popFibre (popFibre (mixed b) 1 0 5) 1 1 5 := by
    intro b
    refine ⟨_, ?_, rfl⟩
    have h1 : fibreHead (mixed b) 1 { ring 0 0 0 with isQueue := true, queue := 0, port := 0 } = .pair 5 0x3F800000 := by cases b <;> rfl
    have h2 : (popFibre (mixed b) 1 0 5).core 1 |>.merge.fibres[0]? = some mixedFibres.1 := by cases b <;> rfl
    have h3 : fibreHead (popFibre (mixed b) 1 0 5) 1 mixedFibres.1 = .pair 7 0x3F800000 := by cases b <;> rfl
    have h4 : (popFibre (mixed b) 1 0 5).core 1 |>.merge.fibres[1]? = some (ring 2 0x110 0) := by cases b <;> rfl
    have h5 : fibreHead (popFibre (mixed b) 1 0 5) 1 (ring 2 0x110 0) = .pair 5 0x3F000000 := by cases b <;> rfl
    have h6 : (popFibre (popFibre (mixed b) 1 0 5) 1 1 5).core 1 |>.merge.fibres[1]? = some mixedFibres.2 := by cases b <;> rfl
    have h7 : fibreHead (popFibre (popFibre (mixed b) 1 0 5) 1 1 5) 1 mixedFibres.2 = .pair 9 0x3F800000 := by cases b <;> rfl
    have h8 : (popFibre (popFibre (mixed b) 1 0 5) 1 1 5).core 1 |>.merge.fibres[2]? = none := by cases b <;> rfl
    exact .pair _ 0 _ _ _ _ rfl h1 (.next _ 0 _ _ _ h2 (.inr (.inr ⟨7, _, h3, by decide⟩))
      (.pair _ 1 _ _ _ _ h4 h5 (.next _ 1 _ _ _ h6 (.inr (.inr ⟨9, _, h7, by decide⟩)) (.done _ 2 h8))))
  rcases hb with rfl | rfl
  · obtain ⟨u, hd, rfl⟩ := draws false
    exact ⟨_, _, _, ⟨rfl, rfl, rfl, rfl⟩, bound _, rfl, rfl, hd, rfl, rfl, (show _ = _ from rfl)⟩
  · obtain ⟨u, hd, rfl⟩ := draws true
    exact ⟨_, _, _, ⟨rfl, rfl, rfl, rfl⟩, bound _, rfl, rfl, hd, rfl, rfl, (show ∃ _, _ from ⟨_, rfl, by decide⟩)⟩

/-- The run that pushes to queue 1 with tag 1, and its unit with exhausted rings, or with a token at its queue fibre. -/
def run2 : MergeRun := { run1 with toPort := true, out := 1, tag := 1 }

/-- A run to a port whose rings are exhausted, and one at the end of a segment, with room at the port. -/
theorem witness_MergeRuns_ports :
    (∃ s, RingsRun s 1 run2 ∧ (s.core 1).merge.stopAsked = false ∧ (∀ f ∈ (s.core 1).merge.fibres, f.count ≤ f.pos) ∧ OutputRoom s run2 ∧
      ∃ p, s.byGen 1 run2.gen = some p) ∧
    (∃ s f0, (s.core 1).merge.run = some run2 ∧ (s.core 1).preempted = false ∧ (s.core 1).merge.stopAsked = false ∧ OutputRoom s run2 ∧
      (s.core 1).merge.fibres = [f0] ∧ f0.isQueue = true ∧ fibreHead s 1 f0 = .token 2 0x55) :=
  ⟨⟨mergeState { fibres := [ring 2 0x100 2], run := some run2 } merger, ⟨⟨rfl, rfl, rfl, rfl⟩, by decide⟩, rfl, by decide, ⟨_, rfl, by decide⟩, _, rfl⟩,
    ⟨mergeState { fibres := [{ ring 0 0 0 with isQueue := true, queue := 2, port := 2 }], run := some run2 } merger, _, rfl, rfl, rfl,
      ⟨_, rfl, by decide⟩, rfl, rfl, rfl⟩⟩

/-- Runs that end: asked to stop, or with their rings exhausted; a segment that ends with a token; an error in a ring. -/
theorem witness_MergeRuns_ends :
    (∃ s place st, RingsRun s 1 run1 ∧ (s.core 1).merge.stopAsked = true ∧ s.byGen 1 run1.gen = some (place, st)) ∧
    (∃ s place st, RingsRun s 1 run1 ∧ (s.core 1).merge.stopAsked = false ∧ (∀ f ∈ (s.core 1).merge.fibres, f.count ≤ f.pos) ∧
      s.byGen 1 run1.gen = some (place, st)) ∧
    (∃ s : State, (s.core 1).merge.run = some run1 ∧ (s.core 1).preempted = false ∧ (s.core 1).merge.stopAsked = false ∧
      (∃ f ∈ (s.core 1).merge.fibres, f.isQueue = true) ∧
      ∀ f ∈ (s.core 1).merge.fibres, if f.isQueue then ∃ p, fibreHead s 1 f = .token 2 p else f.count ≤ f.pos) ∧
    (∃ (s : State) (o : Nat), (s.core 1).merge.run = some run1 ∧ (s.core 1).preempted = false ∧ FibreHead.bad o ∈ fibreHeads s 1 ∧
      ∀ w, FibreHead.bad w ∈ fibreHeads s 1 → w = o) := by
  refine ⟨⟨mergeState { rings with stopAsked := true } merger, 0, _, ringsRun_of ⟨rfl, by decide⟩, rfl, rfl⟩,
    ⟨mergeState { rings with fibres := [ring 2 0x100 2] } merger, 0, _, ringsRun_of ⟨rfl, by decide⟩, rfl, by decide, rfl⟩,
    ⟨mergeState { rings with fibres := [ring 2 0x100 2, { ring 0 0 0 with isQueue := true, queue := 2, port := 2 }] } merger, rfl, rfl, rfl, by decide, fun f hf => ?_⟩,
    { mergeState rings merger with cores := [(1, { core0 with merge := rings, spad := pad1, bad := [0x104] })] }, 0x104, rfl, rfl, by decide, ?_⟩
  · rw [show ((mergeState { rings with fibres := [ring 2 0x100 2, { ring 0 0 0 with isQueue := true, queue := 2, port := 2 }] } merger).core 1).merge.fibres
      = [ring 2 0x100 2, { ring 0 0 0 with isQueue := true, queue := 2, port := 2 }] from rfl] at hf
    simp only [List.mem_cons, List.not_mem_nil, or_false] at hf
    rcases hf with rfl | rfl
    · decide
    · exact ⟨0x55, rfl⟩
  · intro w hw
    rw [show fibreHeads _ 1 = [.bad 0x104, .pair 5 0x3F000000, .ended] from rfl] at hw
    simpa using hw

/-! System registers. -/

/-- A watch on the first granule of object 1. -/
def watch0 : WatchEntry :=
  { start := 0x0001000000000000, granules := 1, climit := 3, rate := 9, lid := 7, stage := 0, number := 0, armed := true, cells := [(regionCell 0, 0x0001000000000000)]
    why := 0, ovf := false, ovfCount := 0, ovfDepth := 0, tracks := [], silent := 0, dropped := 0, started := 0, coalesced := 0, window := 0
    windowCount := 0 }

/-- The core has a range lock, a watch and the handle of object 4. -/
def supState (st : Strand) (c : Core) : State :=
  { withSup st with
    cores := [(0, { c with supRunning := true })], dies := [(0, { watch := [(0, watch0)] })] }

def coreS : Core :=
  { core0 with
    locks := [{ index := 31, op := 1, written := true, spad := true, chan := some 7, slot := 16, engine := 5, first := 0x80, span := 0x7F }], rlocksel := 31
    vhandle := 0x0004000000000000 }

/-- What a handle names, from what its checks find. -/
theorem volume_of (v : Vals) (h c : Word) (w : Bool) (e : TlbEntry) (k : Nat) (vol : Volume) (h0 : oidOf h ≠ 0 ∧ oidOf h ≠ 0xFFFF)
    (h1 : pageState v.s (partyOf v.cx.core v.cx.st) (put (oidOf h) 48) = .entry e) (h2 : e.kind = 1 ∧ (if w then e.wr else e.rd) = true)
    (h3 : cellAt v.s e.pbase = some k) (h4 : memberOf k = dieOf v.cx.core) (h5 : readVolume v.s e.pbase = vol)
    (h6 : vol.valid = true ∧ vol.inRange c = true) (h7 : isPoisoned v.s k = false) (x : Word) : volumeOf v h c w x = .ok (oidOf h, vol) := by
  simp [volumeOf, h0.1, h0.2, h1, h2.1, h2.2, h3, h4, h5, h6.1, h6.2, h7]

/-- The pool of object 4 is full. -/
def poolFull : State := { supState sup coreS with mem := Tab.set 0 (regionCell 0x32000) 2 mem0 }

/-- The volume of object 4, for the supervisor strand. -/
theorem volume_sup (s : State) (w : Bool) (x : Word) (hs : s = supState sup coreS ∨ s = poolFull) :
    volumeOf (operandsOf s (cxSup sup)) 0x0004000000000000 0 w x = .ok (4, volume4 0x32000) := by
  rcases hs with rfl | rfl
  · exact volume_of _ _ _ w (entry 4 1 true true false 0x30000 0) (regionCell 0x30000) _ (by decide) rfl (by revert w; decide) (by decide) (by decide) (by decide) (by decide) (by decide) x
  · exact volume_of _ _ _ w (entry 4 1 true true false 0x30000 0) (regionCell 0x30000) _ (by decide) rfl (by revert w; decide) (by decide) (by decide) (by decide) (by decide) (by decide) x

/-- Registers that a csrr of a dense core reads. -/
theorem witness_SystemRegisterReads : ∀ n ∈ [(0 : BitVec 12), 1, 0x10, 0x1E, 0x20, 0x27, 0x100, 0x101, 0x102, 0x103, 0x104, 0x105, 0x110, 0x120, 0x130, 0x160, 0x161, 0x121, 0x122, 0x131, 0x132, 0x133, 0x134, 0x140, 0x141, 0x142, 0x143, 0x162],
    Runs (supState sup coreS) (cxSup sup) (.csrr (.x 9) n) := by
  intro n hn
  simp only [List.mem_cons, List.not_mem_nil, or_false] at hn
  rcases hn with rfl | rfl | rfl | rfl | rfl | rfl | rfl | rfl | rfl | rfl | rfl | rfl | rfl | rfl | rfl | rfl | rfl | rfl | rfl | rfl | rfl | rfl | rfl | rfl | rfl | rfl | rfl | rfl <;> exact runsAt rfl (by decide) (by decide)

/-- The strand of scrivener 0. -/
def scrivener (l : List Miss) : State :=
  { base with strands := [(placeKey 2048 17, sup)], cores := [(2048, { supRunning := true })], clusters := [(0, { misses := l })]
              cursor := { core := 2048, slot := 17, header := 0xF800, stalled := false } }

def miss63 : Miss := { num := 63, page := 0x000700000000, need := 3, waiters := 127, read := false }

theorem witness_SystemRegisterReads_entries :
    Runs (with0 (pending [acquiring0])) (cx0 (pending [acquiring0])) (.csrr (.x 9) 0x20) ∧
    (Runs (supState sup core0) (cxSup sup) (.csrr (.x 9) 0x122) ∧ ∀ l ∈ ((supState sup core0).core 0).locks, l.index ≠ 0) ∧
    (∃ l, ((supState sup coreS).core 0).locks.find? (fun l => l.index == ((supState sup coreS).core 0).rlocksel) = some l ∧ l.slot = 16 ∧ l.engine = 5 ∧
      l.chan = some 7) ∧
    ((supState sup coreS).die 0).watch.find 0 = some watch0 ∧ watch0.why < 4 ∧ watch0.tracks.length ≤ 64 ∧
    (∃ p, partOf (supState sup coreS) 0 = some 0 ∧ (supState sup coreS).parts.find 0 = some p ∧ p.otcount < 2 ^ 17 ∧ p.otbase < 2 ^ 48) ∧
    volumeOf (operandsOf (supState sup coreS) (cxSup sup)) 0x0004000000000000 0 false 0x0004000000000000 = .ok (4, volume4 0x32000) ∧
    headerPoisoned (supState sup coreS) (volume4 0x32000).pool = false ∧
    (cellsOnDie (supState sup coreS) 0 (volume4 0x32000).pool 64).isSome = true :=
  ⟨runsAt rfl (by decide) (by decide), ⟨runsAt rfl (by decide) (by decide), by decide⟩,
    ⟨_, rfl, rfl, rfl, rfl⟩, rfl, by decide, by decide, ⟨part0, by decide, rfl, by decide, by decide⟩, volume_sup _ _ _ (.inl rfl), by decide, by decide⟩

theorem witness_SystemRegisterReads_misses :
    (Runs (scrivener []) { core := 2048, slot := 17, st := sup } (.csrr (.x 9) 0x150) ∧ ∀ m ∈ ((scrivener []).cluster 0).misses, m.read = true) ∧
    (∃ m, Runs (scrivener [{ miss63 with read := true }, miss63]) { core := 2048, slot := 17, st := sup } (.csrr (.x 9) 0x150) ∧
      ((scrivener [{ miss63 with read := true }, miss63]).cluster (clusterOf 2048)).misses.find? (fun m => !m.read) = some m ∧ m.num = 63 ∧ m.need = 3 ∧
      m.waiters = 127 ∧ m.page < 2 ^ 48) :=
  ⟨⟨runsAt rfl (by decide) (by decide), by decide⟩, miss63, runsAt rfl (by decide) (by decide), rfl, rfl, rfl, rfl, by decide⟩

theorem witness_SystemRegisterReads_traps : ∃ s cx, current s = some cx ∧ csrAssigned cx.core 0x3FF = false ∧ CanTrap s cx :=
  ⟨fw (with0 user), cx0 user, rfl, by decide, canTrap_fw _ _ rfl (by decide)⟩

/-- Every register that a modifying instruction writes. -/
theorem witness_SystemRegisterWrites : ∀ n ∈ [(0 : BitVec 12), 1, 0x10, 0x1E, 0x101, 0x102, 0x103, 0x104, 0x105, 0x120, 0x130, 0x160],
    ∀ i ∈ [Instr.csrw n (.x 5), .csrset n (.x 5), .csrclr n (.x 5)], (csrValue (supState sup coreS) (cxSup sup) i).isSome = true ∧
      Runs (supState sup coreS) (cxSup sup) i := by
  intro n hn i hi
  simp only [List.mem_cons, List.not_mem_nil, or_false] at hi hn
  rcases hi with rfl | rfl | rfl
  all_goals
    refine ⟨rfl, ?_⟩
    rcases hn with rfl | rfl | rfl | rfl | rfl | rfl | rfl | rfl | rfl | rfl | rfl | rfl <;> exact runsAt rfl (by decide) (by decide)

theorem witness_SystemRegisterWrites_pool :
    (∃ s r, Runs s (cxSup sup) (.csrw 0x161 (.x 5)) ∧ volumeOf (operandsOf s (cxSup sup)) (s.core 0).vhandle 0 true (s.core 0).vhandle = .ok r ∧
      poolOnDie s 0 r.2.pool 1 = true ∧ headerPoisoned s r.2.pool = false ∧
      field (BitVec.ofNat 64 (physRead s r.2.pool 8)) 23 0 ≠ field (BitVec.ofNat 64 (physRead s r.2.pool 8)) 47 24) ∧
    (∃ s r, Runs s (cxSup sup) (.csrw 0x161 (.x 5)) ∧ volumeOf (operandsOf s (cxSup sup)) (s.core 0).vhandle 0 true (s.core 0).vhandle = .ok r ∧
      field (BitVec.ofNat 64 (physRead s r.2.pool 8)) 23 0 = field (BitVec.ofNat 64 (physRead s r.2.pool 8)) 47 24 ∧
      field (BitVec.ofNat 64 (physRead s r.2.pool 8)) 63 48 < 0xFFFF) := by
  refine ⟨⟨supState sup coreS, _, runsAt rfl (by decide) (by decide), volume_sup _ _ _ (.inl rfl), by decide, by decide,
      by simp only [show physRead (supState sup coreS) (volume4 0x32000).pool 8 = 0x02000001 from by decide]; decide⟩,
    ⟨poolFull, _, runsAt rfl (by decide) (by decide), volume_sup _ _ _ (.inr rfl), ?_, ?_⟩⟩
  all_goals
    simp only [show physRead poolFull (volume4 0x32000).pool 8 = 0x02000002 from by decide]
    decide

/-- The core's handle names object 10, whose pool lies on the other die. -/
def farPool : State := fw (supState sup { coreS with vhandle := 0x000A000000000000 })

theorem volume_far (w : Bool) (x : Word) : volumeOf (operandsOf farPool (cxSup sup)) 0x000A000000000000 0 w x = .ok (10, volume4 0x100100) := by
  refine volume_of _ _ _ w (entry 10 1 true true false 0x3C000 0) (regionCell 0x3C000) _ (by decide) rfl (by revert w; decide) (by decide) (by decide)
    ?_ (by decide) (by decide) x
  rw [show (entry 10 1 true true false 0x3C000 0).pbase = regionPhys 0x3C000 from rfl, readVolume_unloaded _ _ (by decide)]
  decide

theorem witness_SystemRegisters_farPool :
    (∃ r, Runs farPool (cxSup sup) (.csrw 0x161 (.x 5)) ∧ CanTrap farPool (cxSup sup) ∧
      volumeOf (operandsOf farPool (cxSup sup)) (farPool.core 0).vhandle 0 true (farPool.core 0).vhandle = .ok r ∧ poolOnDie farPool 0 r.2.pool 1 = false) ∧
    (∃ r, Runs farPool (cxSup sup) (.csrr (.x 5) 0x162) ∧
      volumeOf (operandsOf farPool (cxSup sup)) (farPool.core 0).vhandle 0 false (farPool.core 0).vhandle = .ok r ∧ cellsOnDie farPool 0 r.2.pool 64 = none) :=
  ⟨⟨_, runsAt rfl (by decide) (by decide), canTrap_fwSup _ _ rfl (by decide), volume_far _ _, by decide⟩,
    _, runsAt rfl (by decide) (by decide), volume_far _ _, by decide⟩

/-- The header of the pool of object 4 has an error. -/
def badPool : State := { supState sup coreS with poisoned := [regionCell 0x32000 / 64] }

theorem volume_bad (w : Bool) (x : Word) :
    volumeOf (operandsOf (fw badPool) (cxSup sup)) 0x0004000000000000 0 w x = .ok (4, volume4 0x32000) := by
  refine volume_of _ _ _ w (entry 4 1 true true false 0x30000 0) (regionCell 0x30000) _ (by decide) rfl (by revert w; decide) (by decide) (by decide)
    ?_ (by decide) (by decide) x
  rw [show (entry 4 1 true true false 0x30000 0).pbase = regionPhys 0x30000 from rfl, readVolume_unloaded _ _ (by decide)]
  decide

theorem poolOnDie_bad : poolOnDie (fw badPool) 0 (volume4 0x32000).pool 1 = true := by
  unfold poolOnDie poolHeader
  rw [physRead_unloaded _ _ _ (by decide)]
  decide

theorem witness_SystemRegisters_badPool :
    (∃ r, Runs (fw badPool) (cxSup sup) (.csrw 0x161 (.x 5)) ∧ CanTrap (fw badPool) (cxSup sup) ∧
      volumeOf (operandsOf (fw badPool) (cxSup sup)) ((fw badPool).core 0).vhandle 0 true ((fw badPool).core 0).vhandle = .ok r ∧
      poolOnDie (fw badPool) 0 r.2.pool 1 = true ∧ headerPoisoned (fw badPool) r.2.pool = true) ∧
    (∃ r, Runs (fw badPool) (cxSup sup) (.csrr (.x 5) 0x162) ∧
      volumeOf (operandsOf (fw badPool) (cxSup sup)) ((fw badPool).core 0).vhandle 0 false ((fw badPool).core 0).vhandle = .ok r ∧
      (cellsOnDie (fw badPool) 0 r.2.pool 64).isSome = true ∧ headerPoisoned (fw badPool) r.2.pool = true) :=
  ⟨⟨_, runsAt rfl (by decide) (by decide), canTrap_fwSup _ _ rfl (by decide), volume_bad _ _, poolOnDie_bad, by decide⟩,
    _, runsAt rfl (by decide) (by decide), volume_bad _ _, by decide, by decide⟩

theorem witness_SystemRegisterWrites_traps :
    (∀ n ∈ [(0x3FF : BitVec 12), 0x20, 0x27], ∃ s cx, current s = some cx ∧ CanTrap s cx ∧
      (csrAssigned cx.core n.toNat = false ∨ (n.toNat ∈ readOnlyCsr ∧ n.toNat < 0x100))) ∧
    (∀ n ∈ [(0x100 : BitVec 12), 0x162], ∃ s cx, current s = some cx ∧ CanTrap s cx ∧ n.toNat ∈ readOnlyCsr ∧ cx.st.kind = .supervisor) ∧
    (∀ i ∈ [Instr.csrset 0x161 (.x 5), .csrclr 0x161 (.x 5)], (∃ s cx, current s = some cx ∧ CanTrap s cx) ∧ i ≠ .csrw 0x161 (.x 5)) := by
  refine ⟨fun n hn => ⟨fw (with0 user), cx0 user, rfl, canTrap_fw _ _ rfl (by decide), ?_⟩,
    fun n hn => ⟨fw (withSup sup), cxSup sup, rfl, canTrap_fwSup _ _ rfl (by decide), ?_, rfl⟩,
    fun i hi => ⟨⟨fw (withSup sup), cxSup sup, rfl, canTrap_fwSup _ _ rfl (by decide)⟩, by revert i; decide⟩⟩
  all_goals
    simp only [List.mem_cons, List.not_mem_nil, or_false] at hn
  · rcases hn with rfl | rfl | rfl <;> decide
  · rcases hn with rfl | rfl <;> decide

/-! Translations and moves. -/

/-- The supervisor strand with operands in x1 and x2. -/
def supWith (a b : Word) : Strand := { sup with xs := [(1, a), (2, b)] }

/-- The supervisor strand issues, while a strand of slot 0 waits for page 1 of object 0x31. -/
def fillState (st : Strand) : State :=
  { withSup st with
    strands := [(placeKey 0 0, { user with wait := some (.fill 0x3100000001) }), (placeKey 0 17, st)]
    clusters := [(0, { misses := [{ num := 1, page := 0x3100000001, need := 0, waiters := 1, read := true }] })] }

/-- The words of R336, with the page in the window: an entry, and a decline. -/
theorem witness_TranslationsAndMoves_tlbw : ∀ p ∈ [((0x0031000000010060 : Word), (0x0200040000000000 : Word)), (0x0031000000010200, 0)],
    Runs (fillState (supWith p.1 p.2)) (cxSup (supWith p.1 p.2)) (.tlbw (.x 1) (.x 2)) ∧ ¬tlbwBad p.1 p.2 ∧
    (field p.1 10 9 ≠ 0 ∨ inPartreg (fillState (supWith p.1 p.2)) 0 (field p.2 63 32 * 65536) 65536 = true) ∧
    inSpan p.1 0x3100000001 ∧
    (fillState (supWith p.1 p.2)).strands.find 0 = some { user with wait := some (.fill 0x3100000001) } := by
  intro p hp
  simp only [List.mem_cons, List.not_mem_nil, or_false] at hp
  rcases hp with rfl | rfl
  · exact ⟨runsAt rfl (by decide) (by decide), by unfold tlbwBad; decide, .inr (by decide), by unfold inSpan; decide, rfl⟩
  · exact ⟨runsAt rfl (by decide) (by decide), by unfold tlbwBad; decide, .inl (by decide), by unfold inSpan; decide, rfl⟩

/-- An instruction whose operand values stand, which no check before has turned away. -/
def Illegally (s : State) (cx : Ctx) (i : Instr) : Prop :=
  current s = some cx ∧ isIllegal s cx (usesOf s cx i) = false ∧ (∀ n ∈ operandNums (usesOf s cx i), n ∉ cx.st.owed) ∧
    operandsKnown s cx (usesOf s cx i) = true

/-- An answer of 3, and a page outside the partition's memory. -/
theorem witness_TranslationsAndMoves_tlbwTraps :
    (∃ s, Illegally s (cxSup (supWith 0x0031000000010600 0)) (.tlbw (.x 1) (.x 2)) ∧
      CanTrap s (cxSup (supWith 0x0031000000010600 0)) ∧ tlbwBad 0x0031000000010600 0) ∧
    (∃ s, Ready s (cxSup (supWith 0x0031000000010060 0)) (usesOf s (cxSup (supWith 0x0031000000010060 0)) (.tlbw (.x 1) (.x 2))) ∧
      CanTrap s (cxSup (supWith 0x0031000000010060 0)) ∧ ¬tlbwBad 0x0031000000010060 0 ∧ inPartreg s 0 0 65536 = false) := by
  refine ⟨⟨fw (withSup (supWith 0x0031000000010600 0)), ⟨rfl, by decide, by decide, by decide⟩, canTrap_fwSup _ _ rfl (by decide), by unfold tlbwBad; decide⟩,
    ⟨fw { withSup (supWith 0x0031000000010060 0) with parts := [] }, ready_of rfl (by decide), canTrap_fwSup _ _ rfl (by decide),
      by unfold tlbwBad; decide, ?_⟩⟩
  unfold inPartreg
  rw [show partitionOf (fw { withSup (supWith 0x0031000000010060 0) with parts := [] }) 0 = none from rfl]
  simp only [Option.map_none, Option.any_none, List.all_eq_false]
  refine ⟨0, by decide, ?_⟩
  split <;> simp

/-- The supervisor strand issues while a load of slot 0 is out. -/
def supLoading (st : Strand) : State := { withSup st with strands := [(placeKey 0 0, pending [loading]), (placeKey 0 17, st)] }

/-- The entry of object 1 is removed with no access out, with one out, and while the removal is awaited. -/
theorem witness_TranslationsAndMoves_tlbi :
    (∀ b ∈ [(0 : Word), 16, 48], ∃ s cx, Runs s cx (.tlbi (.x 1) (.x 2)) ∧ readReg s cx (.x 1) = 0x0001000000000000 ∧ readReg s cx (.x 2) = b ∧
      cx.st.wait ≠ some .removal ∧ accessOut s cx.core 1 = false) ∧
    (∃ s cx, Runs s cx (.tlbi (.x 1) (.x 2)) ∧ readReg s cx (.x 1) = 0 ∧ readReg s cx (.x 2) = 0 ∧
      cx.st.wait ≠ some .removal ∧ accessOut s cx.core 0 = true) ∧
    (∀ w ∈ [Wait.removal], ∃ s cx, Runs s cx (.tlbi (.x 1) (.x 2)) ∧ readReg s cx (.x 1) = 0x0001000000000000 ∧ cx.st.wait = some w ∧
      accessOut s cx.core 1 = true) ∧
    (∃ s cx, Runs s cx (.tlbi (.x 1) (.x 2)) ∧ readReg s cx (.x 1) = 0x0001000000000000 ∧ cx.st.wait = some .removal ∧ accessOut s cx.core 1 = false) ∧
    (∀ b ∈ [(15 : Word), 49], ∃ s cx, Illegally s cx (.tlbi (.x 1) (.x 2)) ∧ CanTrap s cx ∧ readReg s cx (.x 2) = b ∧
      ¬tlbiLegal (readReg s cx (.x 1)) b) := by
  refine ⟨fun b hb => ?_, ⟨supLoading (supWith 0 0), cxSup (supWith 0 0),
      runsAt rfl (by decide) (by decide), rfl, rfl, by decide, by decide⟩, fun w hw => ?_,
    ⟨withSup { supWith 0x0001000000000000 0 with wait := some .removal }, cxSup { supWith 0x0001000000000000 0 with wait := some .removal },
      runsAt rfl (by decide) (by decide), rfl, rfl, by decide⟩, fun b hb => ?_⟩
  · simp only [List.mem_cons, List.not_mem_nil, or_false] at hb
    rcases hb with rfl | rfl | rfl
    · exact ⟨withSup (supWith 0x0001000000000000 0), cxSup (supWith 0x0001000000000000 0), runsAt rfl (by decide) (by decide), rfl, rfl, by decide, by decide⟩
    · exact ⟨withSup (supWith 0x0001000000000000 16), cxSup (supWith 0x0001000000000000 16), runsAt rfl (by decide) (by decide), rfl, rfl, by decide, by decide⟩
    · exact ⟨withSup (supWith 0x0001000000000000 48), cxSup (supWith 0x0001000000000000 48), runsAt rfl (by decide) (by decide), rfl, rfl, by decide, by decide⟩
  · rw [List.mem_singleton.mp hw]
    exact ⟨supLoading { supWith 0x0001000000000000 0 with wait := some .removal },
      cxSup { supWith 0x0001000000000000 0 with wait := some .removal }, runsAt rfl (by decide) (by decide), rfl, rfl, by decide⟩
  · simp only [List.mem_cons, List.not_mem_nil, or_false] at hb
    rcases hb with rfl | rfl
    · exact ⟨fw (withSup (supWith 0x0001000000000000 15)), cxSup (supWith 0x0001000000000000 15), ⟨rfl, by decide, by decide, by decide⟩, canTrap_fwSup _ _ rfl (by decide), rfl,
        by unfold tlbiLegal; decide⟩
    · exact ⟨fw (withSup (supWith 0x0001000000000000 49)), cxSup (supWith 0x0001000000000000 49), ⟨rfl, by decide, by decide, by decide⟩, canTrap_fwSup _ _ rfl (by decide), rfl,
        by unfold tlbiLegal; decide⟩

set_option maxRecDepth 8000 in
/-- clbi while a strand of the die still reads the tile of the translation that it names. -/
theorem witness_TranslationsAndMoves_clbiBusy : ∃ s cx, Runs s cx (.clbi (.x 1) (.x 0)) ∧
    ∃ p ∈ s.cores, dieOf p.1 = dieOf cx.core ∧ ∃ f ∈ p.2.clb, f.oid = 4 ∧ readReg s cx (.x 1) = 0x0004000000000000 ∧
      tileInUse s (dieOf cx.core) f.tile = true :=
  ⟨{ withSup (supWith 0x0004000000000000 0) with
      cores := [(0, { core0 with supRunning := true, clb := clb4 })]
      strands := [(placeKey 0 1, { user with gen := 2, pend := [{ loading with reads := [(0, regionCell 0x33000)] }] }),
        (placeKey 0 17, supWith 0x0004000000000000 0)] }, cxSup (supWith 0x0004000000000000 0), runsAt rfl (by decide) (by decide),
    _, List.mem_singleton.mpr rfl, rfl, _, List.mem_singleton.mpr rfl, rfl, rfl, by decide⟩

theorem witness_TranslationsAndMoves_clbi :
    ∀ i ∈ [Instr.clbi (.x 0) (.x 0), .clbi (.x 1) (.x 0), .clbi (.x 1) (.x 2)], wellFormed i = true ∧
      Runs (withSup (supWith 0x0004000000000000 0x200)) (cxSup (supWith 0x0004000000000000 0x200)) i ∧
      (∀ p ∈ (withSup (supWith 0x0004000000000000 0x200)).strands, p.2.pend = []) ∧
      ∃ e, lookup (withSup (supWith 0x0004000000000000 0x200)) 0 0x0004000000000000 = some e ∧ e.kind = 1 := by
  intro i hi
  simp only [List.mem_cons, List.not_mem_nil, or_false] at hi
  rcases hi with rfl | rfl | rfl <;> exact ⟨by decide, runsAt rfl (by decide) (by decide), by decide, _, rfl, rfl⟩

/-- clbi of a coordinate of a volume that has no translation here. -/
theorem witness_TranslationsAndMoves_clbiUnknown : ∃ s cx, Runs s cx (.clbi (.x 1) (.x 2)) ∧ readReg s cx (.x 1) = 0x0009000000000000 ∧
    lookup s cx.core 0x0009000000000000 = none ∧ clbiGone s cx (.x 1) (.x 2) ⟨9, 3, regionPhys 0x33000⟩ ∧
    ∀ p ∈ s.strands, p.2.pend = [] :=
  ⟨withSup (supWith 0x0009000000000000 0x200), cxSup (supWith 0x0009000000000000 0x200), runsAt rfl (by decide) (by decide), rfl, rfl,
    .inr ⟨by decide, .inr fun e h => (by cases h)⟩, by decide⟩

/-- A move of page 0 of object 9, whose descriptor and extent stand in memory. -/
def move9 : Move :=
  { id := 5, engine := 1, part := 0, core := 0, gen := 1, reg := 9, addr := 0x0009000000000000, oid := 9, off := 0, target := regionPhys 0x70000, code := 0 }

def movingState (m : Move) (cap : Byte := 1) : State :=
  { withSup sup with
    parts := [(0, { part0 with otbase := regionPhys 0x40000 })], moves := [m]
    mem := [(regionCell 0x40247, 0x80), (regionCell 0x40252, 0x05), (regionCell 0x40253, 0x04), (regionCell 0x40255, 0x02), (regionCell 0x40258, 1),
      (regionCell 0x4025C, cap), (regionCell 0x50004, 1), (regionCell 0x50008, 6), (regionCell 0x50009, 4), (regionCell 0x5000B, 2)] }

set_option maxRecDepth 4000 in
theorem witness_TranslationsAndMoves_moves :
    Runs (movingState move9) (cxSup sup) (.migr (.x 9) (.x 1) (.x 2)) ∧
    (∃ m st, (movingState { move9 with code := 5 }).moves.find? (fun m => m.id == 5) = some m ∧ (movingState { move9 with code := 5 }).strand 0 17 = some st ∧ m.code = 5) ∧
    (∃ m st part p phys x n, (movingState move9).moves.find? (fun m => m.id == 5) = some m ∧ (movingState move9).strand m.core 17 = some st ∧ m.code = 0 ∧
      partitionOf (movingState move9) m.core = some (part, p) ∧ pageHome (movingState move9) p m.addr = some (phys, x, n) ∧
      phys = regionPhys 0x60000 ∧ storesOut (movingState move9) m.core phys = false ∧ accessOut (movingState move9) m.core m.oid = false ∧
      (addedExtents x move9.off).length = 0 ∧ field (descWord (movingState move9) p 9 3) 31 0 ≤ field (descWord (movingState move9) p 9 3) 63 32 ∧
      ∀ c, isPoisoned (movingState move9) c = false) ∧
    (∃ p, partitionOf (movingState move9 0) 0 = some (0, p) ∧ (pageHome (movingState move9 0) p move9.addr).isSome = true ∧
      field (descWord (movingState move9 0) p 9 3) 63 32 < field (descWord (movingState move9 0) p 9 3) 31 0) ∧
    tableReadable (movingState move9) { part0 with otbase := regionPhys 0x40000 } 9 = true ∧
    (∃ s p, partitionOf s 0 = some (0, p) ∧ (pageHome s p move9.addr).isSome = true ∧ tableReadable s p 9 = false ∧ s.moves = [move9] ∧
      Runs s (cxSup sup) (.migr (.x 9) (.x 1) (.x 2))) ∧
    (∃ s p, partitionOf s 0 = some (0, p) ∧ tableReadable s p 9 = false ∧ 9 < p.otcount ∧
      Runs s (cxSup (supWith 0x0009000000000000 0)) (.migr (.x 9) (.x 1) (.x 2))) ∧
    (accessOut { movingState { move9 with oid := 1 } with strands := [(placeKey 0 0, pending [loading]), (placeKey 0 17, sup)] } 0 1 = true) ∧
    (isPoisoned { movingState move9 with poisoned := [regionCell 0x60000 / 64] } (regionCell 0x60000) = true) := by
  refine ⟨runsAt rfl (by decide) (by decide), ⟨_, sup, rfl, rfl, rfl⟩,
    ⟨move9, sup, 0, _, regionPhys 0x60000, (0, 65536, regionPhys 0x60000), 0, rfl, rfl, rfl, rfl, by decide, rfl, rfl, by decide, by decide, by decide, fun _ => rfl⟩,
    ⟨_, rfl, by decide, by decide⟩, by decide,
    ⟨{ movingState move9 with poisoned := [regionCell 0x40240 / 64] }, _, rfl, by decide, by decide, rfl, runsAt rfl (by decide) (by decide)⟩,
    ⟨{ movingState move9 with
        poisoned := [regionCell 0x40240 / 64], strands := [(placeKey 0 17, supWith 0x0009000000000000 0)] }, _, rfl, by decide, by decide,
      runsAt rfl (by decide) (by decide)⟩, by decide, by decide⟩

/-- A core that holds only its supervisor strand, and one with a launch. -/
theorem witness_TranslationsAndMoves_repart :
    (∀ b ∈ [(0 : Word), 1], ∃ s cx, Runs s cx (.repart (.x 2)) ∧ quiescent s cx.core = true ∧ readReg s cx (.x 2) = b) ∧
    (∃ s cx, Ready s cx (usesOf s cx (.repart (.x 2))) ∧ CanTrap s cx ∧ quiescent s cx.core = false ∧ readReg s cx (.x 2) = 1) ∧
    (∃ s cx, Illegally s cx (.repart (.x 2)) ∧ CanTrap s cx ∧ readReg s cx (.x 2) = 2) := by
  refine ⟨fun b hb => ?_, ⟨fw (withSup (supWith 0 1)), cxSup (supWith 0 1), ready_of rfl (by decide), canTrap_fwSup _ _ rfl (by decide), by decide, rfl⟩,
    ⟨fw (withSup (supWith 0 2)), cxSup (supWith 0 2), ⟨rfl, by decide, by decide, by decide⟩, canTrap_fwSup _ _ rfl (by decide), rfl⟩⟩
  simp only [List.mem_cons, List.not_mem_nil, or_false] at hb
  rcases hb with rfl | rfl
  · exact ⟨{ withSup (supWith 0 0) with cores := [(0, { supRunning := true, tlb := tlb0 })] }, cxSup (supWith 0 0), runsAt rfl (by decide) (by decide), by decide, rfl⟩
  · exact ⟨{ withSup (supWith 0 1) with cores := [(0, { supRunning := true, tlb := tlb0 })] }, cxSup (supWith 0 1), runsAt rfl (by decide) (by decide), by decide, rfl⟩

/-! Returns from traps, and context records. -/

def supCore (c : Core) : State := { withSup sup with strands := [(placeKey 0 0, user), (placeKey 0 17, sup)], cores := [(0, { c with supRunning := true })] }

/-- The strands of user slots of a core that holds `user` in slot 0 have nothing undeliverable. -/
theorem supCore_slots (c : Core) : ∀ k ≤ 17, ∀ st, (supCore c).strand 0 k = some st → st.undeliverable = false := by
  intro k hk st h
  interval_cases k
  · rw [show st = user from (Option.some.inj h).symm]; rfl
  all_goals first
    | (simp [State.strand, supCore, placeKey, Tab.find, supervisorSlot] at h; done)
    | (rw [show st = sup from (Option.some.inj h).symm]; rfl)

/-- eret: nested; after a trap of slot 0 that goes on or ends; after an event; after an ending launch. -/
theorem witness_ReturnsAndContexts_eret :
    (∃ s cx, Ready s cx (usesOf s cx .eret) ∧ (s.core cx.core).ecause.getLsbD 11 = true ∧ cx.slot = 17) ∧
    (∀ p ∈ [((0x0000000000000003 : Word), (0x0000000100000000 : Word)), (0x4000000000000003, 0x0000000100000000), (0x0000000000000003, estrandNone),
        (0x8000000000000003, estrandNone)],
      ∃ s cx, Ready s cx (usesOf s cx .eret) ∧ cx.slot = 17 ∧ (s.core cx.core).ecause = p.1 ∧ (s.core cx.core).estrand = p.2 ∧
        (s.core cx.core).ecause.getLsbD 11 = false ∧ (s.core cx.core).restoring = false ∧ (s.core cx.core).ops = [] ∧ (s.core cx.core).held = [] ∧
        (∀ k ≤ 17, ∀ st, s.strand cx.core k = some st → st.undeliverable = false) ∧ s.strand cx.core 0 = some user ∧
        user.claim = none ∧ user.message = none ∧ user.drain = none ∧ user.gen = 1 ∧ (s.core cx.core).lid = some 7 ∧ partOf s cx.core = some 0) ∧
    field estrandNone 4 0 = 31 := by
  refine ⟨⟨supCore { core0 with ecause := 0x800 }, cxSup sup, ready_of rfl (by decide), by decide, rfl⟩, fun p hp => ?_, by decide⟩
  simp only [List.mem_cons, List.not_mem_nil, or_false] at hp
  rcases hp with rfl | rfl | rfl | rfl
  · exact ⟨supCore { core0 with ecause := 0x0000000000000003, estrand := 0x0000000100000000 }, cxSup sup, ready_of rfl (by decide), rfl, rfl, rfl, by decide, rfl, rfl, rfl,
      supCore_slots _, rfl, rfl, rfl, rfl, rfl, rfl, by decide⟩
  · exact ⟨supCore { core0 with ecause := 0x4000000000000003, estrand := 0x0000000100000000 }, cxSup sup, ready_of rfl (by decide), rfl, rfl, rfl, by decide, rfl, rfl, rfl,
      supCore_slots _, rfl, rfl, rfl, rfl, rfl, rfl, by decide⟩
  · exact ⟨supCore { core0 with ecause := 0x0000000000000003, estrand := estrandNone }, cxSup sup, ready_of rfl (by decide), rfl, rfl, rfl, by decide, rfl, rfl, rfl,
      supCore_slots _, rfl, rfl, rfl, rfl, rfl, rfl, by decide⟩
  · exact ⟨supCore { core0 with ecause := 0x8000000000000003, estrand := estrandNone }, cxSup sup, ready_of rfl (by decide), rfl, rfl, rfl, by decide, rfl, rfl, rfl,
      supCore_slots _, rfl, rfl, rfl, rfl, rfl, rfl, by decide⟩

/-- A trapped strand of slot 0 with a claim, a row to drain or a message, beside the strand of slot 1 that may have sent the message. -/
def endingCore (st : Strand) : State :=
  { supCore { core0 with ecause := 0x4000000000000003, estrand := 0x0000000100000000, tile := { core0.tile with queue := [
      { id := 3, slot := 1, gen := 2, kind := .drainHandler, acc := 0 }] } } with
    strands := [(placeKey 0 0, st), (placeKey 0 1, { user with gen := 2 }), (placeKey 0 17, sup)] }

/-- act 1 for a handler that runs, drains a row, or received a message from the host or from a strand of the core. -/
theorem witness_ReturnsAndContexts_ends : ∀ st ∈ [({ user with claim := some (0, 1, 2) } : Strand), { user with drain := some (3, 0) },
      { user with message := some ⟨0, [], 0, 0, 7, 0, none, none, 0, 0⟩ }, { user with message := some ⟨0, [], 0, 0, 7, 0, none, some 0, 2, 5⟩ }],
    ∃ s cx, Ready s cx (usesOf s cx .eret) ∧ cx.slot = 17 ∧ (s.core cx.core).ecause.getLsbD 11 = false ∧ (s.core cx.core).restoring = false ∧
      (∀ o ∈ (s.core cx.core).ops, o.taken = false) ∧ (s.core cx.core).held = [] ∧
      (∀ k ≤ 17, ∀ st, s.strand cx.core k = some st → st.undeliverable = false) ∧
      (if (s.core cx.core).noAct then 0 else field (s.core cx.core).ecause 63 62) = 1 ∧ field (s.core cx.core).estrand 4 0 = 0 ∧
      s.strand cx.core 0 = some st ∧ field (s.core cx.core).estrand 63 32 = st.gen % 2 ^ 32 ∧
      (∃ x, s.byGen 0 2 = some (1, x)) ∧ (s.core cx.core).tile.queue.any (fun o => o.id == 3) = true := by
  intro st hst
  simp only [List.mem_cons, List.not_mem_nil, or_false] at hst
  have h : ∀ k ≤ 17, ∀ u, (endingCore st).strand 0 k = some u → u.undeliverable = false := by
    intro k hk u hu
    interval_cases k
    · rw [show u = st from (Option.some.inj hu).symm]; rcases hst with rfl | rfl | rfl | rfl <;> rfl
    · rw [show u = { user with gen := 2 } from (Option.some.inj hu).symm]; rfl
    all_goals first
      | (simp [State.strand, endingCore, supCore, placeKey, Tab.find, supervisorSlot] at hu; done)
      | (rw [show u = sup from (Option.some.inj hu).symm]; rfl)
  refine ⟨endingCore st, cxSup sup, ?_, rfl, (show BitVec.getLsbD (0x4000000000000003 : Word) 11 = false by decide), rfl, fun o ho => absurd (show o ∈ ([] : List EngineOp) from ho) List.not_mem_nil, rfl, h,
    (show field 0x4000000000000003 63 62 = 1 by decide), (show field 0x0000000100000000 4 0 = 0 by decide), rfl, ?_, ?_, rfl⟩
  all_goals rcases hst with rfl | rfl | rfl | rfl
  all_goals first | exact ready_of rfl (by decide) | rfl | exact ⟨_, rfl⟩

/-- A slot that has been saved, slot 8 in the W32 shape, and slot 18; a core that is not pre-empted; a record off 4 KiB. -/
theorem witness_ReturnsAndContexts_traps : ∀ i ∈ [Instr.ctxsave (.x 1) (.x 2), .ctxrest (.x 1) (.x 2)],
    (∃ s cx, Illegally s cx i ∧ CanTrap s cx ∧ readReg s cx (.x 1) = 18 ∧ (s.core cx.core).preempted = true) ∧
    (∃ s cx, Illegally s cx i ∧ CanTrap s cx ∧ readReg s cx (.x 1) = 8 ∧ (s.core cx.core).wide = true ∧ (s.core cx.core).preempted = true) ∧
    (∃ s cx, Illegally s cx i ∧ CanTrap s cx ∧ readReg s cx (.x 1) = 2 ∧ (s.core cx.core).preempted = false) ∧
    (∃ s cx, Ready s cx (usesOf s cx i) ∧ CanTrap s cx ∧ readReg s cx (.x 1) = 2 ∧ 2 ∈ (s.core cx.core).vacated ∧
      (readReg s cx (.x 2)).toNat % 4096 ≠ 0) ∧
    (∃ s cx, Ready s cx (usesOf s cx i) ∧ CanTrap s cx ∧ readReg s cx (.x 1) = 17 ∧ (s.core cx.core).wide = false ∧ (s.core cx.core).preempted = true ∧
      17 ∉ (s.core cx.core).vacated ∧ (readReg s cx (.x 2)).toNat % 4096 ≠ 0) := by
  intro i hi
  simp only [List.mem_cons, List.not_mem_nil, or_false] at hi
  rcases hi with rfl | rfl
  all_goals exact
    ⟨⟨fw { withSup (supWith 18 0) with cores := [(0, { core0 with preempted := true, supRunning := true })] }, cxSup (supWith 18 0),
        ⟨rfl, by decide, by decide, by decide⟩, canTrap_fwSup _ _ rfl (by decide), rfl, rfl⟩,
      ⟨fw { withSup (supWith 8 0) with cores := [(0, { core0 with preempted := true, supRunning := true, wide := true })] }, cxSup (supWith 8 0),
        ⟨rfl, by decide, by decide, by decide⟩, canTrap_fwSup _ _ rfl (by decide), rfl, rfl, rfl⟩,
      ⟨fw (withSup (supWith 2 0)), cxSup (supWith 2 0), ⟨rfl, by decide, by decide, by decide⟩, canTrap_fwSup _ _ rfl (by decide), rfl, rfl⟩,
      ⟨fw { withSup (supWith 2 0xFFF) with cores := [(0, { core0 with preempted := true, supRunning := true, vacated := [2] })] }, cxSup (supWith 2 0xFFF),
        ready_of rfl (by decide), canTrap_fwSup _ _ rfl (by decide), rfl, by decide, by decide⟩,
      ⟨fw { withSup (supWith 17 0xFFF) with cores := [(0, { core0 with preempted := true, supRunning := true })] }, cxSup (supWith 17 0xFFF),
        ready_of rfl (by decide), canTrap_fwSup _ _ rfl (by decide), rfl, rfl, rfl, by decide, by decide⟩⟩

/-- A user strand with a selection that names something, on a core that is not pre-empted. -/
theorem witness_ReturnsAndContexts_user : ∀ i ∈ [Instr.ctxsave (.x 1) (.x 2), .ctxrest (.x 1) (.x 2)],
    ∃ s cx, current s = some cx ∧ CanTrap s cx ∧ isIllegal s cx (usesOf s cx i) = false ∧
      (∀ n ∈ operandNums (usesOf s cx i), n ∉ cx.st.owed) ∧ operandsKnown s cx (usesOf s cx i) = true ∧
      readReg s cx (.x 1) = 2 ∧ (s.core cx.core).wide = false ∧ (s.core cx.core).preempted = false ∧ cx.st.kind ≠ .supervisor := by
  intro i hi
  simp only [List.mem_cons, List.not_mem_nil, or_false] at hi
  rcases hi with rfl | rfl
  all_goals exact ⟨fw (with0 { user with xs := [(1, 2)] }), cx0 { user with xs := [(1, 2)] }, by decide, canTrap_fw _ _ rfl (by decide), by decide,
    by decide, by decide, rfl, rfl, rfl, by decide⟩

/-- 4 MiB of the window of die 0. -/
def bigRegion : Word × Word := (0x84D0010002000400, 0x0000004000000400)

theorem cellAt_big (s : State) (hr : s.regions = [(0, bigRegion)]) (hv : regionValid s bigRegion = true) (o : Nat) (ho : o < 4194304) :
    cellAt s (0x020004000000 + o) = some (regionCell o) := by
  have h1 : regionBase bigRegion.1 = 0x020004000000 := by decide
  have h2 : regionSize bigRegion.2 = 4194304 := by decide
  have h3 : members bigRegion.1 = [0] := by decide
  have h4 : bits bigRegion.1 53 49 = 8 := by decide
  have h5 : bits bigRegion.1 59 58 = 1 := by decide
  have h6 : bits bigRegion.2 31 0 = 1024 := by decide
  have h7 : regionOf s (0x020004000000 + o) = some (0, bigRegion) := by
    simp [regionOf, hr, hv, h1, h2]; omega
  simp only [cellAt, h7, homeIn, h1, h3, h4, h5, h6, List.length_singleton, Nat.mod_one, Nat.add_sub_cancel_left, regionCell, cellOf]
  simp
  omega

/-- The address of byte o of that memory, as the supervisor names it. -/
def physWord (o : Nat) : Word := BitVec.ofNat 64 (0xFFFF020004000000 + o)

theorem after_phys (o i : Nat) : after (physWord o) i = physWord (o + i) := by
  simp only [after, physWord, ← BitVec.ofNat_add, Nat.add_assoc]

theorem offOf_phys (o : Nat) (ho : o < 4194304) : offOf (physWord o) = 0x020004000000 + o := by
  simp only [offOf, bits, physWord, BitVec.toNat_ofNat]; omega

theorem oidOf_phys (o : Nat) (ho : o < 4194304) : oidOf (physWord o) = 0xFFFF := by
  simp only [oidOf, bits, physWord, BitVec.toNat_ofNat]; omega

theorem accessCells_big (s : State) (p : Party) (w : Bool) (o n : Nat) (hr : s.regions = [(0, bigRegion)])
    (hv : regionValid s bigRegion = true) (hp : p.sup = true) (hc : dieOf p.core = 0) (hcv : carveOf s 0 = 16777216)
    (hb : firmwareLoaded s = false) (hn : o + n ≤ 4194304) (h0 : 0 < n) :
    accessCells s p .die w false (physWord o) n = .ok ((List.range n).map fun i => regionCell (o + i)) := by
  have hres : reservedRange s (0x020004000000 + o) n = false := by
    have h0 : (0x020004000000 + o - 0x020000000000) / 0x20000000 = 0 := by omega
    have h1 : reservedAddr s (0x020004000000 + o) = false := by
      simp only [reservedAddr, h0, hcv]
      have h1 : ¬ (0x020004000000 + o < 0x010000000000) := by omega
      have h2 : ¬ (0x020004000000 + o < 0x020000000000) := by omega
      have h3 : 0x020004000000 + o < 0x020100000000 := by omega
      rw [if_neg h1, if_neg h2, if_pos h3]
      simp; omega
    have h2 : ∀ d, ¬ 0x020000000000 + 0x20000000 * d + 67108864 + carveOf s d < 0x020004000000 + o + n := by
      intro d
      rcases d with _ | d
      · rw [hcv]; omega
      · omega
    simp only [reservedRange, List.any_eq_false, List.mem_append, List.mem_cons, List.not_mem_nil, or_false, List.mem_map,
      Bool.and_eq_true, decide_eq_true_eq, not_and, Bool.not_eq_true]
    rintro m ((rfl | rfl | rfl | rfl | rfl) | ⟨d, -, rfl⟩) hm
    · exact h1
    all_goals first | exact absurd hm.2 (h2 d) | omega
  have hall : ((List.range n).map (after (physWord o))).map offOf = (List.range n).map fun i => 0x020004000000 + (o + i) := by
    rw [List.map_map]
    refine List.map_congr_left fun i hi => ?_
    rw [List.mem_range] at hi
    simp only [Function.comp, after_phys]
    exact offOf_phys _ (by omega)
  have hcell : ∀ i ∈ List.range n, cellAt s (0x020004000000 + (o + i)) = some (regionCell (o + i)) := by
    intro i hi; rw [List.mem_range] at hi
    exact cellAt_big s hr hv _ (by omega)
  have hreg : ∀ i ∈ List.range n, (regionOf s (0x020004000000 + (o + i))).isNone = false := by
    intro i hi
    have := hcell i hi
    unfold cellAt at this
    split at this
    · rename_i h; rw [h]; rfl
    · exact absurd this (by simp)
  have hcells : ((List.range n).map fun i => 0x020004000000 + (o + i)).map (fun p => (cellAt s p).getD 0) =
      (List.range n).map fun i => regionCell (o + i) := by
    rw [List.map_map]
    refine List.map_congr_left fun i hi => ?_
    simp only [Function.comp, hcell i hi, Option.getD_some]
  have hmem : ∀ i ∈ List.range n, memberOf (regionCell (o + i)) = 0 := by
    intro i hi; rw [List.mem_range] at hi
    simp only [memberOf, regionCell, cellOf]; omega
  have g1 : ¬ oidOf (physWord o) = 0 := by rw [oidOf_phys _ (by omega)]; decide
  have g2 : ¬ 2 ^ 48 < offOf (physWord o) + n := by rw [offOf_phys _ (by omega)]; omega
  have g3 : oidOf (physWord o) = 0xFFFF := oidOf_phys _ (by omega)
  have g4 : reservedRange s (offOf (physWord o)) n = false := by rw [offOf_phys _ (by omega)]; exact hres
  have g5 : firmwareRange s (offOf (physWord o)) n = false := by simp [firmwareRange, hb]
  have : (((List.range n).map fun i => regionCell (o + i)).findIdx? fun k => memberOf k != dieOf p.core) = none := by
    rw [List.findIdx?_eq_none_iff]
    intro k hk
    rw [List.mem_map] at hk
    obtain ⟨i, hi, rfl⟩ := hk
    simp [hmem i hi, hc]
  have hr1 : (((List.range n).map fun i => 0x020004000000 + (o + i)).map fun p => regionOf s p).any (·.isNone) = false := by
    rw [List.map_map, List.any_map, List.any_eq_false]
    intro i hi; simp only [Function.comp, hreg i hi]; simp
  unfold accessCells
  dsimp only
  rw [if_neg g1, if_pos g3, if_neg (by rw [hp]; simpa using g2), if_neg (by rw [g4]; simp), if_neg (by rw [g5]; simp), hall]
  unfold homeCells
  dsimp only
  rw [if_neg (by rw [hr1]; simp), if_neg (by simp), hcells, this]
theorem recordCells_big (s : State) (p : Party) (w : Bool) (hr : s.regions = [(0, bigRegion)]) (hv : regionValid s bigRegion = true)
    (hp : p.sup = true) (hc : dieOf p.core = 0) (hcv : carveOf s 0 = 16777216) (hb : firmwareLoaded s = false) :
    ∀ k o, o + 4096 * k ≤ 4194304 → recordCells s p w (physWord o) k = .ok ((List.range (4096 * k)).map fun i => regionCell (o + i))
  | 0, _, _ => rfl
  | k + 1, o, h => by
    unfold recordCells
    have h2 : o + 4096 ≤ 4194304 ∧ o + 4096 + 4096 * k ≤ 4194304 := by clear hc hcv; omega
    have h1 := accessCells_big s p w o 4096 hr hv hp hc hcv hb h2.1 (by decide)
    simp only [h1]
    rw [after_phys, recordCells_big s p w hr hv hp hc hcv hb k (o + 4096) h2.2]
    dsimp only
    rw [Nat.mul_succ, Nat.add_comm (4096 * k), List.range_add, List.map_append, List.map_map]
    congr 2
    refine List.map_congr_left fun i _ => ?_
    simp only [Function.comp, Nat.add_assoc]

/-- The supervisor strand of a pre-empted core names a slot, with the record at byte 0 of that memory. -/
def recState (slot : Word) (c : Core) (rest : Tab Strand) (m : List Host.Cell) : State :=
  { withSup (supWith slot (physWord 0)) with
    strands := rest ++ [(placeKey 0 17, supWith slot (physWord 0))], cores := [(0, { c with preempted := true, supRunning := true })]
    regions := [(0, bigRegion)], mem := m }

theorem rec_valid : regionValid (recState 0 {} [] []) bigRegion = true := by decide

theorem dieOf_zero : dieOf 0 = 0 := by decide

theorem rec_carve : carveOf (recState 0 {} [] []) 0 = 16777216 := by decide

theorem recordGood_of (slot : Nat) (c : Core) (rest : Tab Strand) (m : List Host.Cell) (w : Bool) (h : slot ≤ 17) (hw : c.wide = false) :
    RecordGood (recState (BitVec.ofNat 64 slot) c rest m) (cxSup (supWith (BitVec.ofNat 64 slot) (physWord 0))) (.x 1) (.x 2) w slot
      ((List.range (4096 * if slot = 17 then 288 else 1)).map fun i => regionCell (0 + i)) where
  selects := rfl
  named := ⟨h, fun hw' => absurd hw' (by show ¬ (c.wide = true); rw [hw]; simp)⟩
  preempted := rfl
  aligned := by show (physWord 0).toNat % 4096 = 0; decide
  found := recordCells_big _ _ w rfl (by exact rec_valid) rfl (by exact dieOf_zero) (by exact rec_carve) rfl _ 0 (by split <;> decide)

/-- A byte of the record. -/
theorem byte_rec (s : State) (n o : Nat) (ho : o < n) (hb : firmwareLoaded s = false) :
    (((List.range n).map fun i => regionCell (0 + i)).map s.byteAt).getD o 0 = Tab.get 0 (regionCell o) s.mem := by
  have : o < (((List.range n).map fun i => regionCell (0 + i)).map s.byteAt).length := by simpa using ho
  rw [List.getD_eq_getElem _ _ this]
  simp [State.byteAt, firmwareCell, hb, State.cell]

/-- The header of the record of slot 2, of an empty slot or not. -/
def head2 (valid : Bool) : List Host.Cell :=
  [(regionCell 0, if valid then 0x40 else 0), (regionCell 1, 2), (regionCell 4, 0x58), (regionCell 5, 0x43), (regionCell 6, 0x52), (regionCell 7, 0x56)]

theorem wordIn_rec (s : State) (n : Nat) (hb : firmwareLoaded s = false) (o : Nat := 0) (hn : o + 8 ≤ n := by decide) :
    wordIn (((List.range n).map fun i => regionCell (0 + i)).map s.byteAt) o =
      BitVec.ofNat 64 (little (fun k => Tab.get 0 (regionCell (o + k)) s.mem) 8) := by
  unfold wordIn
  congr 1
  have h : ∀ k < 8, (((List.range n).map fun i => regionCell (0 + i)).map s.byteAt).getD (o + k) 0 = Tab.get 0 (regionCell (o + k)) s.mem := by
    intro k hk; exact byte_rec s n (o + k) (by omega) hb
  simp only [little]
  rw [h 0 (by omega), h 1 (by omega), h 2 (by omega), h 3 (by omega), h 4 (by omega), h 5 (by omega), h 6 (by omega), h 7 (by omega)]
/-- A strand, its slot and its header for the tests of slot 2. -/
def saved2 (copy : List Byte) : Core := { core0 with vacated := [2], copies := [(2, copy)] }

/-- Saves of an empty slot, of a strand with loads out, of a settled strand, and of the core. -/
theorem witness_ReturnsAndContexts_saves :
    (∀ rest ∈ [([] : Tab Strand), [(placeKey 0 2, full)], [(placeKey 0 2, user)]], ∃ s cx cells, Ready s cx (usesOf s cx (.ctxsave (.x 1) (.x 2))) ∧
      (∃ pc, nextPc s.cursor.header cx.st.pc = some pc) ∧ RecordGood s cx (.x 1) (.x 2) true 2 cells ∧ 2 ∉ (s.core cx.core).vacated ∧
      s.strand cx.core 2 = rest.head?.map (·.2)) ∧
    full.ld ≠ 0 ∧ user.ld = 0 ∧ user.st = 0 ∧ user.remote = 0 ∧ user.pend = [] ∧
    (∀ ops ∈ [([] : List EngineOp), [copying]], ∃ s cx cells, Ready s cx (usesOf s cx (.ctxsave (.x 1) (.x 2))) ∧ (∃ pc, nextPc s.cursor.header cx.st.pc = some pc) ∧
      RecordGood s cx (.x 1) (.x 2) true 17 cells ∧ 17 ∉ (s.core cx.core).vacated ∧
      unitsPaused (s.core cx.core) = decide (ops = [])) := by
  refine ⟨fun rest hr => ?_, by decide, rfl, rfl, rfl, rfl, fun ops ho => ?_⟩
  rotate_left
  · simp only [List.mem_cons, List.not_mem_nil, or_false] at ho
    rcases ho with rfl | rfl
    · exact ⟨recState 17 core0 [] [], cxSup (supWith 17 (physWord 0)), _, ready_of rfl (by decide), Option.isSome_iff_exists.mp (by decide),
        recordGood_of 17 core0 [] [] true (by decide) rfl, by decide, by decide⟩
    · exact ⟨recState 17 { core0 with ops := [copying] } [] [], cxSup (supWith 17 (physWord 0)), _, ready_of rfl (by decide),
        Option.isSome_iff_exists.mp (by decide), recordGood_of 17 { core0 with ops := [copying] } [] [] true (by decide) rfl, by decide, by decide⟩
  simp only [List.mem_cons, List.not_mem_nil, or_false] at hr
  rcases hr with rfl | rfl | rfl
  · exact ⟨recState 2 core0 [] [], cxSup (supWith 2 (physWord 0)), _, ready_of rfl (by decide), Option.isSome_iff_exists.mp (by decide),
      recordGood_of 2 core0 [] [] true (by decide) rfl, by decide, rfl⟩
  · exact ⟨recState 2 core0 [(placeKey 0 2, full)] [], cxSup (supWith 2 (physWord 0)), _, ready_of rfl (by decide), Option.isSome_iff_exists.mp (by decide),
      recordGood_of 2 core0 _ [] true (by decide) rfl, by decide, rfl⟩
  · exact ⟨recState 2 core0 [(placeKey 0 2, user)] [], cxSup (supWith 2 (physWord 0)), _, ready_of rfl (by decide), Option.isSome_iff_exists.mp (by decide),
      recordGood_of 2 core0 _ [] true (by decide) rfl, by decide, rfl⟩

/-- The records of an empty slot and of a saved strand. -/
theorem witness_ReturnsAndContexts_restores :
    (∃ s cx cells, Ready s cx (usesOf s cx (.ctxrest (.x 1) (.x 2))) ∧ RecordGood s cx (.x 1) (.x 2) false 2 cells ∧ (∀ k, isPoisoned s k = false) ∧
      s.strand cx.core 2 = none ∧ 2 ∉ (s.core cx.core).vacated ∧ wordIn (cells.map s.byteAt) 0 = slotHeader s cx.core 2 false) ∧
    (∀ st ∈ [user, { user with wait := some .depart, pc := 0 }], ∃ s cx cells copy, Ready s cx (usesOf s cx (.ctxrest (.x 1) (.x 2))) ∧ RecordGood s cx (.x 1) (.x 2) false 2 cells ∧ (∀ k, isPoisoned s k = false) ∧
      2 ∈ (s.core cx.core).vacated ∧ s.strand cx.core (savedPlace 2) = some st ∧ (s.core cx.core).copies.find 2 = some copy ∧
      wordIn (cells.map s.byteAt) 0 = slotHeader s cx.core 2 true ∧ wordIn (cells.map s.byteAt) 0x10 = 0 ∧
      ∀ o < 4096, changeable o = false → (cells.map s.byteAt).getD o 0 = copy.getD o 0) := by
  refine ⟨⟨recState 2 core0 [] (head2 false), cxSup (supWith 2 (physWord 0)), _, ready_of rfl (by decide), recordGood_of 2 core0 [] _ false (by decide) rfl,
      fun _ => rfl, rfl, by decide, ?_⟩,
    fun st hs => ?_⟩
  · rw [wordIn_rec _ _ rfl]; decide
  have hr : Ready (recState 2 (saved2 ((List.range 4096).map fun o => Tab.get 0 (regionCell o) (head2 true))) [(placeKey 0 (savedPlace 2), st)] (head2 true))
      (cxSup (supWith 2 (physWord 0))) (usesOf (recState 2 (saved2 ((List.range 4096).map fun o => Tab.get 0 (regionCell o) (head2 true)))
        [(placeKey 0 (savedPlace 2), st)] (head2 true)) (cxSup (supWith 2 (physWord 0))) (.ctxrest (.x 1) (.x 2))) := by
    simp only [List.mem_cons, List.not_mem_nil, or_false] at hs
    rcases hs with rfl | rfl <;> exact ready_of rfl (by rfl)
  refine ⟨_, cxSup (supWith 2 (physWord 0)), _, (List.range 4096).map fun o => Tab.get 0 (regionCell o) (head2 true), hr,
    recordGood_of 2 (saved2 _) _ _ false (by decide) rfl, fun _ => rfl, List.mem_singleton.mpr rfl, rfl, rfl, ?_, ?_, fun o ho _ => ?_⟩
  · rw [wordIn_rec _ _ rfl]
    show BitVec.ofNat 64 (little (fun k => Tab.get 0 (regionCell (0 + k)) (head2 true)) 8) = slotHeader _ 0 2 true
    rw [slotHeader, show ((recState 2 (saved2 _) [(placeKey 0 (savedPlace 2), st)] (head2 true)).core 0).wide = false from rfl]
    decide
  · rw [if_neg (by decide), wordIn_rec _ _ rfl 0x10]
    show BitVec.ofNat 64 (little (fun k => Tab.get 0 (regionCell (0x10 + k)) (head2 true)) 8) = 0
    decide
  · rw [if_neg (by decide), byte_rec _ _ o (by omega) rfl, List.getD_eq_getElem _ _ (by simpa using ho)]
    simp [recState]

/-- The header of the core record of core 0, with a check value. -/
def headCore (x : BitVec 32) : List Host.Cell :=
  [(regionCell 1, 8), (regionCell 4, 0x4F), (regionCell 5, 0x43), (regionCell 6, 0x52), (regionCell 7, 0x56), (regionCell 8, BitVec.ofNat 8 x.toNat),
    (regionCell 9, BitVec.ofNat 8 (x.toNat / 256)), (regionCell 10, BitVec.ofNat 8 (x.toNat / 65536)),
    (regionCell 11, BitVec.ofNat 8 (x.toNat / 16777216))]

theorem headCore_zero (x : BitVec 32) (o : Nat) (ho : 12 ≤ o) : Tab.get 0 (regionCell o) (headCore x) = 0 := by
  have : ∀ k < 12, ¬ regionCell o = regionCell k := by intro k hk; simp only [regionCell, cellOf]; omega
  simp [headCore, Tab.get, Tab.find, this]

/-- The bytes of a core record from 4096 on are zeros. -/
theorem zeros_rec (s : State) (x : BitVec 32) (hb : firmwareLoaded s = false) (hm : s.mem = headCore x) :
    ((((List.range 1179648).map fun i => regionCell (0 + i)).map s.byteAt).drop 0x1000).take 126976 = List.replicate 126976 0 := by
  refine List.eq_replicate_iff.mpr ⟨by simp, fun b hmem => ?_⟩
  obtain ⟨i, hi, rfl⟩ := List.getElem_of_mem hmem
  have hlt : 0x1000 + i < 1179648 := by simp at hi; omega
  have := byte_rec s 1179648 (0x1000 + i) hlt hb
  rw [List.getD_eq_getElem _ _ (by simpa using hlt), hm, headCore_zero _ _ (by omega)] at this
  simpa using this

/-- The check value in the header of a core record. -/
theorem core_rec (s : State) (x : BitVec 32) (hb : firmwareLoaded s = false) (hm : s.mem = headCore x) :
    little (fun k => (((List.range 1179648).map fun i => regionCell (0 + i)).map s.byteAt).getD (8 + k) 0) 4 = x.toNat := by
  have h : ∀ k < 4, (((List.range 1179648).map fun i => regionCell (0 + i)).map s.byteAt).getD (8 + k) 0 = Tab.get 0 (regionCell (8 + k)) (headCore x) := by
    intro k hk; rw [← hm]; exact byte_rec s 1179648 (8 + k) (by omega) hb
  have hx := x.isLt
  have h0 : Tab.get 0 (regionCell 8) (headCore x) = BitVec.ofNat 8 x.toNat := rfl
  have h1 : Tab.get 0 (regionCell 9) (headCore x) = BitVec.ofNat 8 (x.toNat / 256) := rfl
  have h2 : Tab.get 0 (regionCell 10) (headCore x) = BitVec.ofNat 8 (x.toNat / 65536) := rfl
  have h3 : Tab.get 0 (regionCell 11) (headCore x) = BitVec.ofNat 8 (x.toNat / 16777216) := rfl
  generalize ((List.range 1179648).map fun i => regionCell (0 + i)).map s.byteAt = bs at h ⊢
  simp only [little]
  rw [h 0 (by decide), h 1 (by decide), h 2 (by decide), h 3 (by decide)]
  simp only [Nat.reduceAdd, h0, h1, h2, h3, BitVec.toNat_ofNat]
  omega

/-- The record of a core, whose storage is zero, with any check value. -/
theorem coreGood (x : BitVec 32) (hx : x = crc32 (List.replicate 126976 0)) :
    let s := recState 17 core0 [] (headCore x)
    let cells := (List.range (4096 * if 17 = 17 then 288 else 1)).map fun i => regionCell (0 + i)
    wordIn (cells.map s.byteAt) 0 = coreHeader s 0 ∧
    little (fun k => (cells.map s.byteAt).getD (8 + k) 0) 4 = (crc32 (((cells.map s.byteAt).drop 0x1000).take 126976)).toNat := by
  refine ⟨?_, ?_⟩
  · rw [if_pos rfl, wordIn_rec (recState 17 core0 [] (headCore x)) _ rfl,
      show little (fun k => Tab.get 0 (regionCell (0 + k)) (recState 17 core0 [] (headCore x)).mem) 8 = 0x5652434F00000800 by
        simp [little, Tab.get, Tab.find, recState, headCore, regionCell, cellOf]]
    unfold coreHeader
    rw [show ((recState 17 core0 [] (headCore x)).core 0).wide = false from rfl]
    decide
  · rw [if_pos rfl]
    have h1 := core_rec (recState 17 core0 [] (headCore x)) x rfl rfl
    have h2 := zeros_rec (recState 17 core0 [] (headCore x)) x rfl rfl
    rw [show 4096 * 288 = 1179648 from rfl, h1, h2, ← hx]

theorem witness_ReturnsAndContexts_core : ∃ s cx cells, Ready s cx (usesOf s cx (.ctxrest (.x 1) (.x 2))) ∧ RecordGood s cx (.x 1) (.x 2) false 17 cells ∧
    (∀ k, isPoisoned s k = false) ∧ wordIn (cells.map s.byteAt) 0 = coreHeader s cx.core ∧
    little (fun k => (cells.map s.byteAt).getD (8 + k) 0) 4 = (crc32 (((cells.map s.byteAt).drop 0x1000).take 126976)).toNat := by
  exact ⟨recState 17 core0 [] (headCore (crc32 (List.replicate 126976 0))), cxSup (supWith 17 (physWord 0)), _, ready_of rfl (by decide),
    recordGood_of 17 core0 [] _ false (by decide) rfl, fun _ => rfl, (coreGood _ rfl).1, (coreGood _ rfl).2⟩

/-- A core before it is powered down: pre-empted and saved, with or without a send that has an arrival-word add on its way. -/
def savedCore (now : Bool) : Core :=
  { core0 with
    preempted := true, ops := if now then [sending3 true] else []
    channels := if now then [(2, { adds := [⟨0, 0, ⟨1, 0, false⟩, 0x0001000000000000, cells8, 1, .die, 0⟩] })] else [] }

/-- A pre-empted core that holds nothing but sends and whose record has been saved, and a core that is not pre-empted. -/
theorem witness_ReturnsAndContexts_power :
    (∀ now, ∃ (s : State) (core tag : Nat) (r : SavedCore), (s.core core).preempted = true ∧ (∀ k ≤ 16, s.strands.find (placeKey core k) = none) ∧
      (tag, r) ∈ s.records ∧ r.core = core ∧ r.queues = localQueues s core ∧ r.state.locks = (s.core core).locks ∧
      r.state.ops.map (withReports (s.core core).ops) = (s.core core).ops ∧ r.state.tile = (s.core core).tile ∧
      r.state.merge = (s.core core).merge ∧
      withAdds r.state.channels (s.core core).channels = withAdds (s.core core).channels (s.core core).channels ∧
      (s.core core).poweredDown = false ∧ (s.core core).supRunning = false ∧ (s.core core).channels = (savedCore now).channels) ∧
    (∃ s : State, (s.core 0).preempted = false) := by
  refine ⟨fun now => ⟨{ base with cores := [(0, savedCore now)], queues := [], records := [(4, { core := 0, state := { savedCore now with channels := [] }, queues := [] })] }, 0, 4, _, rfl, fun _ _ => rfl,
      List.mem_singleton.mpr rfl, rfl, rfl, rfl, ?_, rfl, rfl, ?_, rfl, rfl, rfl⟩, base, rfl⟩
  all_goals cases now <;> decide

/-! Watches. -/

def info0 : WatchInfo := { object := 0, offset := 0, size := 64, handler := 0, coalesce := 2, rate := 10 }

/-- The launch has one watch, of the first granule of object 1. -/
def launchW : Launch := { launch0 with img := { noImg with watches := [info0] }, objects := [0x0001000000000000] }

def watcher (claim : Option (Nat × Nat × Nat)) : Strand :=
  { user with
    xs := [(1, 0x0001000000000000), (2, 6), (3, 0x000100000000FFC0), (4, 0x0001000000000020), (5, 0x0002000000000000), (7, 64), (8, 128)]
    claim := claim }

/-- Slot 0 of core 0 issues; the watch table of die 0. -/
def watchState (es : Tab WatchEntry) (st : Strand) : State :=
  { with0 st with launches := [launchW], dies := [(0, { watch := es })], cores := [(0, { core0 with reserved := [(3, 0)] })] }

/-- Watch 6 is none of the launch's. -/
theorem witness_WatchInstructions_names : ∀ i ∈ [Instr.warm (.x 2) (.x 0) (.x 0), .wdisarm (.x 2), .wstat (.x 1) (.x 2)], wellFormed i = true ∧
    ∃ s cx, Illegally s cx i ∧ CanTrap s cx ∧ ∀ l info, ¬NamesWatch s cx (.x 2) l info := by
  intro i hi
  have h : ∀ l info, ¬NamesWatch (fw (watchState [] (watcher none))) (cx0 (watcher none)) (.x 2) l info := by
    intro l info h
    have h1 := h.launch
    rw [show launchOf (fw (watchState [] (watcher none))) (cx0 (watcher none)).core = some launchW from rfl] at h1
    have h2 := h.watch
    rw [← Option.some.inj h1] at h2
    simp [launchW, info0, readReg, watcher, cx0, Strand.x, Tab.get, Tab.find] at h2
  simp only [List.mem_cons, List.not_mem_nil, or_false] at hi
  rcases hi with rfl | rfl | rfl <;>
    exact ⟨by decide, fw (watchState [] (watcher none)), cx0 (watcher none), ⟨rfl, by decide, by decide, by decide⟩, canTrap_fw _ _ rfl (by decide), h⟩

theorem descWord_unloaded (s : State) (p : Partition) (oid k : Nat) (h : inWindow s (p.otbase + 64 * oid + 8 * k) 8 = true) :
    descWord s p oid k = descWord (unloaded s) p oid k := by
  unfold descWord; rw [physRead_unloaded s _ _ h]

/-- Starts and sizes off 64 bytes, of size 0, and from the last granule of the page. -/
theorem witness_WatchInstructions_warm :
    (∀ r ∈ [((4 : Fin 48), (7 : Fin 48)), (1, 2)], ∃ s cx l info, Runs s cx (.warm (.x 0) (.x r.1) (.x r.2)) ∧ NamesWatch s cx (.x 0) l info ∧ CanTrap s cx ∧
      ((readReg s cx (.x r.1)).toNat % 64 ≠ 0 ∨ (readReg s cx (.x r.2)).toNat % 64 ≠ 0)) ∧
    (∃ s cx l info, Runs s cx (.warm (.x 0) (.x 3) (.x 6)) ∧ NamesWatch s cx (.x 0) l info ∧ (readReg s cx (.x 3)).toNat % 64 = 0 ∧
      readReg s cx (.x 6) = 0) := by
  refine ⟨fun r hr => ?_, watchState [(0, watch0)] (watcher none), cx0 (watcher none), launchW, info0, runsAt rfl (by decide) (by decide), ⟨rfl, rfl, rfl⟩, by decide, rfl⟩
  simp only [List.mem_cons, List.not_mem_nil, or_false] at hr
  rcases hr with rfl | rfl <;>
    exact ⟨fw (watchState [] (watcher none)), cx0 (watcher none), launchW, info0, runsAt rfl (by decide) (by decide), ⟨rfl, rfl, rfl⟩,
      canTrap_fw _ _ rfl (by decide), by decide⟩

/-- A range past the end of object 1, and a range of object 2, which may not be watched. -/
theorem witness_WatchInstructions_range :
    (∃ s cx l info p, Runs s cx (.warm (.x 0) (.x 3) (.x 8)) ∧ NamesWatch s cx (.x 0) l info ∧ CanTrap s cx ∧ s.parts.find l.part = some p ∧
      rangeInObject s p (readReg s cx (.x 3)) (readReg s cx (.x 8)).toNat = false) ∧
    (∃ s cx l info p, Runs s cx (.warm (.x 0) (.x 5) (.x 7)) ∧ NamesWatch s cx (.x 0) l info ∧ CanTrap s cx ∧ s.parts.find l.part = some p ∧
      rangeInObject s p (readReg s cx (.x 5)) (readReg s cx (.x 7)).toNat = true ∧
      watchableObject s p (field (readReg s cx (.x 5)) 63 48) (field l.image 63 48) = false) := by
  refine ⟨⟨fw (watchState [] (watcher none)), cx0 (watcher none), launchW, info0, part0, runsAt rfl (by decide) (by decide), ⟨rfl, rfl, rfl⟩,
      canTrap_fw _ _ rfl (by decide), rfl, ?_⟩,
    ⟨fw (watchState [] (watcher none)), cx0 (watcher none), launchW, info0, part0, runsAt rfl (by decide) (by decide), ⟨rfl, rfl, rfl⟩,
      canTrap_fw _ _ rfl (by decide), rfl, ?_, ?_⟩⟩
  · unfold rangeInObject
    rw [show oidOf (readReg (fw (watchState [] (watcher none))) (cx0 (watcher none)) (.x 3)) = 1 from rfl, descWord_unloaded _ part0 1 0 (by decide)]
    decide
  · unfold rangeInObject
    rw [show oidOf (readReg (fw (watchState [] (watcher none))) (cx0 (watcher none)) (.x 5)) = 2 from rfl, descWord_unloaded _ part0 2 0 (by decide)]
    decide
  · unfold watchableObject
    rw [show field (readReg (fw (watchState [] (watcher none))) (cx0 (watcher none)) (.x 5)) 63 48 = 2 from by decide,
      descWord_unloaded _ part0 2 0 (by decide), descWord_unloaded _ part0 2 1 (by decide)]
    decide

/-- What arming the watch over a range meets: the range, its cells, and a place in the table of every die that homes part of it. -/
structure Arms (s : State) (cx : Ctx) (a b : Fin 48) (w : Word) (n : Nat) (cells : List (Nat × Word)) : Prop where
  runs : Runs s cx (.warm (.x 0) (.x a) (.x b))
  names : ∃ l info p, NamesWatch s cx (.x 0) l info ∧ s.parts.find l.part = some p ∧ rangeInObject s p w n = true ∧
    watchableObject s p (field w 63 48) (field l.image 63 48) = true ∧ watchCells s p w n = some cells ∧
    armable s l { start := w, size := n, climit := info.coalesce, rate := info.rate, stage := info.handler, number := 0 } cells = true ∧
    (if a = 0 then l.objects.getD info.object 0 + BitVec.ofNat 64 info.offset else readReg s cx (.x a)) = w ∧
    (if a = 0 then info.size else (readReg s cx (.x b)).toNat) = n

/-- The first granule and the last one, with no entry before; a watch armed anew while a strand claims it. -/
theorem witness_WatchInstructions_arms :
    Arms (watchState [] (watcher none)) (cx0 (watcher none)) 0 0 0x0001000000000000 64 [(regionCell 0, 0x0001000000000000)] ∧
    Arms (watchState [] (watcher none)) (cx0 (watcher none)) 3 7 0x000100000000FFC0 64 [(regionCell 0xFFC0, 0x000100000000FFC0)] ∧
    (Arms (watchState [(0, { watch0 with windowCount := 2 })] (watcher (some (0, 0, 3)))) (cx0 (watcher (some (0, 0, 3)))) 3 7 0x000100000000FFC0 64
        [(regionCell 0xFFC0, 0x000100000000FFC0)] ∧
      indexFor (watchState [(0, { watch0 with windowCount := 2 })] (watcher (some (0, 0, 3)))) launchW 0 0 = some 0 ∧
      ofWatch (watchState [(0, { watch0 with windowCount := 2 })] (watcher (some (0, 0, 3)))) launchW 0 0 { watch0 with windowCount := 2 } = true ∧
      claimLeft (watchState [(0, { watch0 with windowCount := 2 })] (watcher (some (0, 0, 3)))) launchW 0 (some (0, 0, 3)) = none) :=
  ⟨⟨runsAt rfl (by decide) (by decide), launchW, info0, part0, ⟨rfl, rfl, rfl⟩, rfl, by decide, by decide, by decide, by decide, rfl, rfl⟩,
    ⟨runsAt rfl (by decide) (by decide), launchW, info0, part0, ⟨rfl, rfl, rfl⟩, rfl, by decide, by decide, by decide, by decide, rfl, rfl⟩,
    ⟨runsAt rfl (by decide) (by decide), launchW, info0, part0, ⟨rfl, rfl, rfl⟩, rfl, by decide, by decide, by decide, by decide, rfl, rfl⟩,
    by decide, by decide, by decide⟩

/-- Object 1 interleaved over dies 0 and 1, watchable, with a handler stage on both; its first 512 bytes. -/
def stateW2 : State :=
  { with0 (watcher none) with
    launches := [{ launchW with img := { noImg with watches := [{ info0 with size := 512 }] }, stages := [{ stage0 with cores := [0, 16] }] }]
    mem := (regionCell 0x50008, 0x10) :: mem0, regions := [(0, dataRegion), (1, (0x8450030002000410, 0x0000001000000410))] }

set_option maxRecDepth 8000 in
theorem witness_WatchInstructions_twoDies : ∃ cells, Arms stateW2 (cx0 (watcher none)) 0 0 0x0001000000000000 512 cells ∧
    homedOn cells 0 ≠ [] ∧ homedOn cells 1 ≠ [] :=
  ⟨_, ⟨runsAt rfl (by decide) (by decide), _, _, part0, ⟨rfl, rfl, rfl⟩, rfl, by decide, by decide, rfl, by decide, rfl, rfl⟩, by decide, by decide⟩

/-- A triggered strand. -/
def triggered (c : Option (Nat × Nat × Nat)) : Strand := { watcher c with kind := .triggered }

/-- A trigger, pending or claimed. -/
def track (running : Bool) (late : Nat) : Track :=
  { pos := 3, granule := 0x0001000000000000, overflow := false, running := running, stamp := 4, count := 2, sat := false, word := 0, before := 1, after := 2
    marks := 1, depth := 0, lateCount := late }

theorem witness_WatchInstructions_state :
    (∃ s cx l info, Runs s cx (.wdisarm (.x 0)) ∧ NamesWatch s cx (.x 0) l info) ∧
    (∃ s cx l info e, Runs s cx (.wstat (.x 1) (.x 0)) ∧ NamesWatch s cx (.x 0) l info ∧ e ∈ (entriesOf s l.part l.lid 0).map (·.2.2) ∧ e.why = 3 ∧
      ∀ f ∈ (entriesOf s l.part l.lid 0).map (·.2.2), f = e) ∧
    (∃ s cx l info, Runs s cx (.wstat (.x 1) (.x 0)) ∧ NamesWatch s cx (.x 0) l info ∧ ∀ f ∈ (entriesOf s l.part l.lid 0).map (·.2.2), f.why = 0) ∧
    (∃ s cx, Runs s cx .wack ∧ cx.st.claim = none) ∧
    (∀ n ∈ [0, 9], ∃ s cx e t, Runs s cx .wack ∧ cx.st.claim = some (0, 0, 3) ∧ (s.die 0).watch.find 0 = some e ∧
      e.tracks.find? (fun t => t.pos == 3 && t.running) = some t ∧ t.lateCount = 0 ∧ e.ovf = true ∧ e.rate = n ∧
      (rollWindow s.clk e).windowCount = 0 ∧ firstBelow 64 (fun p => (e.tracks.filter fun u => u.pos != 3).all (·.pos != p)) = some 0) ∧
    (∀ n ∈ [0, 5], ∃ s cx e t, Runs s cx .wack ∧ cx.st.claim = some (0, 0, 3) ∧ (s.die 0).watch.find 0 = some e ∧
      e.tracks.find? (fun t => t.pos == 3 && t.running) = some t ∧ e.ovf = false ∧ t.lateCount = n ∧ t.overflow = false) := by
  refine ⟨⟨watchState [(0, watch0)] (watcher none), cx0 (watcher none), launchW, info0, runsAt rfl (by decide) (by decide), ⟨rfl, rfl, rfl⟩⟩,
    ⟨watchState [(0, { watch0 with why := 3, armed := false })] (watcher none), cx0 (watcher none), launchW, info0, { watch0 with why := 3, armed := false },
      runsAt rfl (by decide) (by decide), ⟨rfl, rfl, rfl⟩, ?_, rfl, ?_⟩,
    ⟨watchState [(0, watch0)] (watcher none), cx0 (watcher none), launchW, info0, runsAt rfl (by decide) (by decide), ⟨rfl, rfl, rfl⟩, by decide⟩,
    ⟨watchState [] (triggered none), cx0 (triggered none), runsAt rfl (by decide) (by decide), rfl⟩,
    fun n hn => ?_, fun n hn => ?_⟩
  · rw [show (entriesOf _ _ _ _).map _ = [{ watch0 with why := 3, armed := false }] from rfl]; exact List.mem_singleton.mpr rfl
  · rw [show (entriesOf _ _ _ _).map _ = [{ watch0 with why := 3, armed := false }] from rfl]; exact fun f hf => List.mem_singleton.mp hf
  · simp only [List.mem_cons, List.not_mem_nil, or_false] at hn
    rcases hn with rfl | rfl
    · exact ⟨watchState [(0, { watch0 with tracks := [track true 0], ovf := true, rate := 0 })] (triggered (some (0, 0, 3))),
        cx0 (triggered (some (0, 0, 3))), _, track true 0, runsAt rfl (by decide) (by decide), rfl, rfl, rfl, rfl, rfl, rfl, rfl, by decide⟩
    · exact ⟨watchState [(0, { watch0 with tracks := [track true 0], ovf := true, rate := 9 })] (triggered (some (0, 0, 3))),
        cx0 (triggered (some (0, 0, 3))), _, track true 0, runsAt rfl (by decide) (by decide), rfl, rfl, rfl, rfl, rfl, rfl, rfl, by decide⟩
  · simp only [List.mem_cons, List.not_mem_nil, or_false] at hn
    rcases hn with rfl | rfl
    · exact ⟨watchState [(0, { watch0 with tracks := [track true 0] })] (triggered (some (0, 0, 3))), cx0 (triggered (some (0, 0, 3))), _, _,
        runsAt rfl (by decide) (by decide), rfl, rfl, rfl, rfl, rfl, rfl⟩
    · exact ⟨watchState [(0, { watch0 with tracks := [track true 5] })] (triggered (some (0, 0, 3))), cx0 (triggered (some (0, 0, 3))), _, _,
        runsAt rfl (by decide) (by decide), rfl, rfl, rfl, rfl, rfl, rfl⟩

theorem witness_WatchInstructions_events :
    (∀ ovf, ∃ (s : State) (e : WatchEntry), ∃ t l g core slot, (s.die 0).watch.find 0 = some e ∧ oldestTrigger s 0 e = some t ∧ t.overflow = ovf ∧
      (partOfDie s 0).bind (fun p => s.launch p e.lid) = some l ∧ l.stages[e.stage]? = some g ∧ l.phase = .running ∧
      triggerPlace s 0 e.stage g = some (core, slot)) ∧
    (∃ s, triggerPlace s 0 0 stage0 = none) ∧ (base.die 0).watch.find 0 = none ∧
    (∃ s, (s.die 0).watch.find 0 = some watch0 ∧ oldestTrigger s 0 watch0 = none) ∧
    (∀ k ∈ [3999, 4000], ∃ (s : State) (e : WatchEntry), (s.die 0).watch.find 0 = some e ∧ s.clk = e.window + k) :=
  ⟨fun ovf => ⟨watchState [(0, { watch0 with tracks := [{ track false 0 with overflow := ovf }] })] (watcher none), _, { track false 0 with overflow := ovf },
      launchW, stage0, 0, 3, rfl, by cases ovf <;> decide, rfl, rfl, rfl, rfl, by decide +revert⟩,
    ⟨base, by decide⟩, rfl, ⟨watchState [(0, watch0)] (watcher none), rfl, by decide⟩,
    fun k _ => ⟨{ watchState [(0, watch0)] (watcher none) with clk := k }, watch0, rfl, (Nat.zero_add k).symm⟩⟩

/-! Launches. -/

/-- Scratchpad with a packet of a LAUNCH at 0, one with a status record and a group at 0x80, and one whose header is 0 at 0x100. -/
def packets : Tab Byte := [(0, 1), (2, 7), (0x80, 1), (0x82, 7), (0x9E, 1), (0xA4, 5)]

def launcher : Strand := { user with xs := [(1, 0), (2, 0x80), (3, 0x100)], spadSize := 4096 }

/-- Slot 0 of core 0 issues with these launches beside its own. -/
def launchState (more : List Launch) (st : Strand) : State :=
  { with0 st with cores := [(0, { core0 with spad := packets })], launches := launch0 :: more }

def waiting0 : Launch := { launch0 with phase := .waiting, lid := 9, px := 2, py := 0, stages := [], queues := [], img := { noImg with stages := [{ stage0 with kind := 0 }] } }

set_option maxRecDepth 4000 in
theorem witness_LaunchesStart_launch :
    (∃ s cx part q, Runs s cx (.launch (.x 4) (.x 1)) ∧ partOf s cx.core = some part ∧ s.parts.find part = some q ∧ s.launches.length < 2 ^ 30 ∧
      cx.st.acquiring = true) ∧
    (∀ r ∈ [((1 : Fin 48), (0 : Nat)), (2, 5)], ∃ s cx part q, Runs s cx (.launch (.x 4) (.x r.1)) ∧ partOf s cx.core = some part ∧ s.parts.find part = some q ∧
      s.launches.length < 2 ^ 30 ∧ cx.st.acquiring = false ∧ (s.core cx.core).bad = [] ∧
      (let w := packetWord s cx (readReg s cx (.x r.1)).toNat
       w 0 = 0x70001 ∧ (w 3 = 0 ∨ (w 3).toNat % 16 = 0 ∧ (hostPhys s part true (w 3) 16).isSome = true) ∧ field (w 4) 31 17 = 0 ∧
         w 5 = 0 ∧ (field (w 4) 16 16 = 0 ∨ field (w 4) 15 0 = 0) ∧ field (w 4) 63 32 = r.2) ∧ (waitingOf s part).length < 64) ∧
    (∃ s cx, Runs s cx (.launch (.x 4) (.x 3)) ∧ packetWord s cx (readReg s cx (.x 3)).toNat 0 = 0 ∧ cx.st.acquiring = false ∧ partOf s cx.core = some 0) ∧
    (∃ s cx, Runs s cx (.launch (.x 4) (.x 1)) ∧ (waitingOf s 0).length = 64 ∧ partOf s cx.core = some 0 ∧ s.launches.length < 2 ^ 30) := by
  refine ⟨⟨{ with0 (pending [acquiring0]) with cursor := base.cursor }, cx0 (pending [acquiring0]), 0, part0, runsAt rfl (by decide) (by decide), by decide, rfl, by decide, by decide⟩,
    fun r hr => ?_, ⟨launchState [] launcher, cx0 launcher, runsAt rfl (by decide) (by decide), by decide, by decide, by decide⟩,
    ⟨launchState (List.replicate 64 waiting0) launcher, cx0 launcher, runsAt rfl (by decide) (by decide), by decide, by decide, by decide⟩⟩
  simp only [List.mem_cons, List.not_mem_nil, or_false] at hr
  rcases hr with rfl | rfl
  · exact ⟨launchState [] launcher, cx0 launcher, 0, part0, runsAt rfl (by decide) (by decide), by decide, rfl, by decide, by decide, rfl, by decide, by decide⟩
  · exact ⟨launchState [] launcher, cx0 launcher, 0, part0, runsAt rfl (by decide) (by decide), by decide, rfl, by decide, by decide, rfl, by decide, by decide⟩

/-- Object 1 holds an image of one stage at 16 KiB, and the first bytes of one of version 2 at 20 KiB. -/
def imageMem : List Host.Cell :=
  mem0 ++ [(regionCell 0x4000, 0x47), (regionCell 0x4001, 0x54), (regionCell 0x4002, 0x49), (regionCell 0x4003, 0x4D), (regionCell 0x4004, 1),
    (regionCell 0x4006, 1), (regionCell 0x4007, 1), (regionCell 0x4008, 1), (regionCell 0x4018, 0x40), (regionCell 0x4019, 0x08)]
    ++ (List.range 8).flatMap (fun k => [(regionCell (0x4840 + 16 * k), (if k = 6 then 0 else 0xC0 : Byte)),
      (regionCell (0x4841 + 16 * k), (if k = 6 then 9 else 8 : Byte)), (regionCell (0x4848 + 16 * k), (if k = 0 then 32 else if k = 6 then 64 else 0 : Byte))])
    ++ [(regionCell 0x48C0, 1), (regionCell 0x48C2, 1), (regionCell 0x48D0, 2), (regionCell 0x48D9, 0x10), (regionCell 0x4901, 0xF8),
      (regionCell 0x5000, 0x47), (regionCell 0x5001, 0x54), (regionCell 0x5002, 0x49), (regionCell 0x5003, 0x4D), (regionCell 0x5004, 2)]

/-- The packets of LAUNCHes of an image with some place words, by the register that addresses each. -/
def imagePackets : List (Fin 48 × Word × Word) :=
  [(1, 0, 0), (2, 0x0001000000006000, 0), (3, 0x0001000000005000, 0), (4, 0x0001000000004000, 0x0000000500000000),
    (5, 0x0001000000004000, 0x8000000100000000), (6, 0x0001000000004000, 0x000000000000003F), (7, 0x0001000000004000, 0)]

/-- Slot 0 of core 0 issues, with those packets in its scratchpad; the image at 16 KiB of object 1 has been loaded. -/
def imageState : State :=
  { launchState [{ launch0 with lid := 0x80000001 }] { launcher with xs := (List.range 7).map fun k => (k + 1, BitVec.ofNat 64 (0x80 * k)) } with
    mem := imageMem, loaded := [{ part := 0, addr := 0x0001000000004000, code := 2, objects := [] }]
    cores := [(0, { core0 with spad := (imagePackets.zipIdx.flatMap fun p => [(0x80 * p.2, 1), (0x80 * p.2 + 2, 7)]
      ++ ((leBytes 8 p.1.2.1.toNat).zipIdx (0x80 * p.2 + 8)).map (fun b => (b.2, b.1))
      ++ ((leBytes 8 p.1.2.2.toNat).zipIdx (0x80 * p.2 + 0x20)).map (fun b => (b.2, b.1))) })] }

def imageCx : Ctx := cx0 { launcher with xs := (List.range 7).map fun k => (k + 1, BitVec.ofNat 64 (0x80 * k)) }

/-- The LAUNCHes of those packets, in order, are ready. -/
theorem launches_ready : ∀ p ∈ imagePackets, Runs imageState imageCx (.launch (.x 8) (.x p.1)) ∧
    (let w := packetWord imageState imageCx (readReg imageState imageCx (.x p.1)).toNat
    w 0 = 0x70001 ∧ w 1 = p.2.1 ∧ w 3 = 0 ∧ w 4 = p.2.2 ∧ w 5 = 0 ∧ field (w 4) 31 17 = 0) := by
  intro p hp
  simp only [imagePackets, List.mem_cons, List.not_mem_nil, or_false] at hp
  rcases hp with rfl | rfl | rfl | rfl | rfl | rfl | rfl <;> exact ⟨runsAt rfl (by decide) (by decide), by decide⟩

theorem witness_LaunchesStart_words : partOf imageState 0 = some 0 ∧ imageState.parts.find 0 = some part0 ∧ imageCx.st.acquiring = false ∧
    (imageState.core 0).bad = [] ∧ (waitingOf imageState 0).length < 64 := ⟨by decide, rfl, by decide, rfl, by decide⟩

/-- The state with the id of a launch without a group. -/
def idState : State := (assignLid imageState 0).2

set_option maxRecDepth 8000 in
/-- Images that fail: no address, no magic, version 2. -/
theorem witness_LaunchesStart_fails : hostRead idState 0 0 64 = none ∧ readImage idState 0 0 = .error 1 ∧
    ∀ a ∈ [(0x0001000000006000 : Word), 0x0001000000005000], ∃ hd, hostRead idState 0 a 64 = some hd ∧
      (little (fun k => hd.getD k 0) 4 ≠ 0x4D495447 ∨ little (fun k => hd.getD (4 + k) 0) 2 ≠ 1) := by
  refine ⟨by decide, by rfl, fun a ha => ?_⟩
  simp only [List.mem_cons, List.not_mem_nil, or_false] at ha
  rcases ha with rfl | rfl
  · exact ⟨_, rfl, by decide⟩
  · exact ⟨_, rfl, by decide⟩

/-- The header, the table and the sections of the image at 16 KiB. -/
def imageHead : List Byte := [0x47, 0x54, 0x49, 0x4D, 1, 0, 1, 1, 1] ++ List.replicate 15 0 ++ [0x40, 0x08] ++ List.replicate 38 0

def imageTable : List Byte := (List.range 8).flatMap fun k =>
  [if k = 6 then 0 else 0xC0, if k = 6 then 9 else 8, 0, 0, 0, 0, 0, 0, if k = 0 then 32 else if k = 6 then 64 else 0, 0, 0, 0, 0, 0, 0, 0]

def imageStage : List Byte := [1, 0, 1] ++ List.replicate 13 0 ++ [2] ++ List.replicate 8 0 ++ [0x10] ++ List.replicate 6 0

def imageCode : List Byte := [0, 0xF8] ++ List.replicate 62 0

set_option maxRecDepth 8000 in
theorem image_reads : ∀ s ∈ [imageState, idState], hostRead s 0 0x0001000000004000 64 = some imageHead ∧
    hostRead s 0 0x0001000000004840 128 = some imageTable ∧
    (List.range 8).mapM (sectionBytes s 0 0x0001000000004000 imageTable) = some [imageStage, [], [], [], [], [], imageCode, []] := by
  intro s hs
  simp only [List.mem_cons, List.not_mem_nil, or_false] at hs
  rcases hs with rfl | rfl <;> exact ⟨by decide +kernel, by decide +kernel, by decide +kernel⟩

/-- The image at 16 KiB is read: one stage of one core. -/
theorem image_read (s : State) (hs : s ∈ [imageState, idState]) : ∃ img, readImage s 0 0x0001000000004000 = .ok img ∧ img.width = 1 ∧ img.height = 1 := by
  obtain ⟨h1, h2, h3⟩ := image_reads s hs
  unfold readImage
  rw [h1]
  dsimp only
  rw [if_neg (by decide), show after (0x0001000000004000 : Word) (ofLe ((imageHead.drop 24).take 8)) = 0x0001000000004840 by decide, h2]
  dsimp only
  rw [h3]
  dsimp only
  rw [if_neg (by decide), if_neg (by decide)]
  exact ⟨_, rfl, by decide, by decide⟩

/-- It has been loaded: groups that may not be named, a rectangle outside the partition, and a launch that waits. -/
theorem witness_LaunchesStart_loads :
    (∀ s ∈ [imageState, idState], ∃ img ld, loadImage s 0 0x0001000000004000 = .ok (s, img, ld) ∧ img.width = 1 ∧ img.height = 1) ∧
    (∀ g ∈ [(5 : Nat), 0x80000001], g ≠ 0 ∧ (g < 2 ^ 31 ∨ ∃ m ∈ imageState.launches, m.part = 0 ∧ m.lid = g)) ∧
    ∀ l : Launch, l.part = 0 → l.auto = false → l.py = 0 → l.img.width = 1 → l.img.height = 1 →
      (l.px = 63 → claimOrigin idState l false = none) ∧ (l.px = 0 → claimOrigin idState l false = some (0, 0)) := by
  refine ⟨fun s hs => ?_, by decide, fun l hp ha hy hw hh => ⟨fun hx => ?_, fun hx => ?_⟩⟩
  · obtain ⟨img, h, hw, hh⟩ := image_read s hs
    refine ⟨img, { part := 0, addr := 0x0001000000004000, code := 2, objects := [] }, ?_, hw, hh⟩
    unfold loadImage
    rw [h]
    dsimp only
    rw [show loadedAt s 0 0x0001000000004000 = some { part := 0, addr := 0x0001000000004000, code := 2, objects := [] } by
      simp only [List.mem_cons, List.not_mem_nil, or_false] at hs
      rcases hs with rfl | rfl <;> rfl]
  all_goals unfold claimOrigin; rw [ha, hp, hx, hy, hw, hh]; decide

/-- A record page whose shape record 0 has one dimension, and whose record 1 is empty. -/
theorem witness_LaunchesStart_slice : ∀ i ∈ [Instr.slice (.x 4) (.x 1) 0 0 false, .slice (.x 4) (.x 1) 0 1 true, .slice (.x 4) (.x 1) 0 2 false,
    .slice (.x 4) (.x 1) 1 2 true], wellFormed i = true ∧ ∃ s cx, Runs s cx i ∧ (s.core cx.core).bad = [] ∧ field (shapeWord s cx.core 0 1) 7 4 = 1 ∧
      field (shapeWord s cx.core 1 1) 7 4 = 0 := by
  intro i hi
  simp only [List.mem_cons, List.not_mem_nil, or_false] at hi
  rcases hi with rfl | rfl | rfl | rfl <;>
    exact ⟨by decide, { with0 launcher with cores := [(0, { core0 with recPage := [(0x108, 0x1E)] })] }, cx0 launcher, runsAt rfl (by decide) (by decide), rfl,
      by decide, by decide⟩

/-- A claim of a free rectangle, and one of a core that a launch holds. -/
def claimOf (l : Launch) : State := { launchState [l] launcher with regions := [(0, dataRegion), (1, pairRegion)] }

/-- Its image has a watch, and its stage handles it. -/
def waitingW : Launch :=
  { waiting0 with img := { waiting0.img with watches := [info0] }, objects := [0x0001000000000000], px := 3, packet := some (0, 0) }

def placing0 (core : Nat) : Placing := { uses := [⟨core, 0, some 0⟩, ⟨core, 0, none⟩], modes := [(core, false)], cores := [[core]] }

set_option maxRecDepth 8000 in
/-- Claims that start: a strand's, without a watch; a host's, with one. -/
theorem witness_LaunchesStart_claims :
    (∃ s : State, ∀ l ∈ s.launches, l.part = 0 → l.phase ≠ .waiting) ∧
    (∃ (s : State) (l : Launch), s.launches.find? (fun l => l.part == 0 && l.phase == .waiting) = some l ∧ claimOrigin s l true = none) ∧
    (∀ w ∈ [waiting0, waitingW], ∃ s l px py p q rs, let rect := rectCores px py l.img.width l.img.height
      s.launches.find? (fun l => l.part == 0 && l.phase == .waiting) = some l ∧ l = w ∧ claimOrigin s l true = some (px, py) ∧
      s.parts.find 0 = some q ∧ WatchesFit s l q p rs ∧
      placeStages rect l.img.stages.zipIdx { uses := [], modes := [], cores := [] } = .ok p ∧
      placeFits l.img.stages rect p = true ∧ localFits l.img p rect = true ∧ (∀ d ∈ rect.map dieOf, carveNeed l.img p rect d ≤ carveRoom s d) ∧
      routesAgree p l.img px py = true ∧ (∀ k ∈ routeLinks l.img px py, k ∉ s.pkg.downLinks) ∧ placedInsts p rect s.nextGen ≠ []) := by
  refine ⟨⟨base, by decide⟩, ⟨claimOf { waiting0 with px := 0 }, { waiting0 with px := 0 }, rfl, by decide⟩, fun w hw => ?_⟩
  simp only [List.mem_cons, List.not_mem_nil, or_false] at hw
  rcases hw with rfl | rfl
  · exact ⟨claimOf waiting0, waiting0, 2, 0, placing0 2, part0, [], rfl, rfl, by decide, rfl,
      ⟨rfl, fun r hr => absurd hr List.not_mem_nil, by decide⟩, rfl, by decide, by decide, by decide, by decide, by decide, by decide⟩
  · exact ⟨claimOf waitingW, waitingW, 3, 0, placing0 3, part0,
      [({ start := 0x0001000000000000, size := 64, climit := 2, rate := 10, stage := 0, number := 0 }, [(regionCell 0, 0x0001000000000000)])],
      rfl, rfl, by decide, rfl, ⟨by decide, fun r hr => by
        rw [List.mem_singleton.mp hr]
        refine ⟨by decide, by decide, fun d hd hne => ?_⟩
        interval_cases d
        · exact ⟨_, rfl, by decide, 3, by decide, by decide⟩
        all_goals exact absurd rfl hne, by decide⟩, rfl, by decide, by decide, by decide, by decide, by decide, by decide⟩

/-- A waiting launch of these stages on core 2, with a completion record in object 1. -/
def waitingAs (stages : List StageInfo) : Launch := { waiting0 with img := { noImg with stages := stages }, status := 0x0001000000000010 }

/-- A stage whose count is 1, with no reserve. -/
def single (kind spad : Nat) : StageInfo := { stage0 with kind := kind, most := 1, elastic := false, reserve := 0, spad := spad }

/-- The claim's turn has come for a launch of a free rectangle. -/
structure ClaimTurn (s : State) (l : Launch) (px py : Nat) : Prop where
  first : s.launches.find? (fun l => l.part == 0 && l.phase == .waiting) = some l
  origin : claimOrigin s l true = some (px, py)

theorem claimTurn_of (l : Launch) (h : l.part = 0 ∧ l.phase = .waiting ∧ l.auto = false ∧ l.px = 2 ∧ l.py = 0 ∧ l.img.height = 1)
    (hw : l.img.width = 1 ∨ l.img.width = 2) : ClaimTurn (claimOf l) l 2 0 where
  first := by obtain ⟨h1, h2, -⟩ := h; simp [claimOf, launchState, launch0, h1, h2]
  origin := by
    obtain ⟨h1, -, h3, h4, h5, h6⟩ := h
    have ho : ∀ w, w = 1 ∨ w = 2 → rectFits (claimOf l) 0 2 0 w 1 = true ∧ (rectCores 2 0 w 1).all (fun c => ((claimOf l).core c).lid.isNone) = true := by
      rintro w (rfl | rfl) <;> exact ⟨by rfl, by rfl⟩
    unfold claimOrigin
    rw [h1, h3, h4, h5, h6]
    simp [ho _ hw]

/-- What a launch that is to fail has: its turn, a record, and a host queue that has its packet. -/
def Failing (s : State) (l : Launch) : Prop :=
  ClaimTurn s l 2 0 ∧ (l.packet = none → l.status ≠ 0 ∧ ∃ cells, hostCells s l.part true l.status 16 = some cells) ∧
    ∀ h num, l.packet = some (h, num) → ∃ p, (hostQueue s h).packets.find? (fun p => p.num == num) = some p ∧ p.silent = false

/-- Stages with no core of their kind or too little reserve, of a strand's launch and of a host's; a record that the rectangle does not
cover; too much scratchpad; a partition without carve. -/
theorem witness_LaunchesStart_claimFails :
    (∀ g ∈ [(single 2 4096, 3), ({ stage0 with kind := 0, reserve := 0 }, 7)], ∃ s l, Failing s l ∧ l.packet = none ∧
      placeStages (rectCores 2 0 l.img.width l.img.height) l.img.stages.zipIdx { uses := [], modes := [], cores := [] } = .error g.2) ∧
    (∃ s l, Failing s l ∧ l.packet = some (0, 0) ∧
      placeStages (rectCores 2 0 l.img.width l.img.height) l.img.stages.zipIdx { uses := [], modes := [], cores := [] } = .error 3) ∧
    (∃ s l p, Failing s l ∧ placeStages (rectCores 2 0 l.img.width l.img.height) l.img.stages.zipIdx { uses := [], modes := [], cores := [] } = .ok p ∧
      l.img.recordFields.all (recordFits (l.img.stages.map (·.kind)) 2 l.img.width) = false) ∧
    (∃ s l p, Failing s l ∧ placeStages (rectCores 2 0 l.img.width l.img.height) l.img.stages.zipIdx { uses := [], modes := [], cores := [] } = .ok p ∧
      l.img.recordFields = [] ∧ placeFits l.img.stages (rectCores 2 0 l.img.width l.img.height) p = false) ∧
    (∃ s l p, let rect := rectCores 2 0 l.img.width l.img.height
      Failing s l ∧ placeStages rect l.img.stages.zipIdx { uses := [], modes := [], cores := [] } = .ok p ∧
      l.img.recordFields = [] ∧ placeFits l.img.stages rect p = true ∧ localFits l.img p rect = true ∧
      ∃ d ∈ rect.map dieOf, carveRoom s d < carveNeed l.img p rect d) := by
  have mk : ∀ l : Launch, ClaimTurn (claimOf l) l 2 0 → l.packet = none → l.status = 0x0001000000000010 →
      (∃ cells, hostCells (claimOf l) l.part true l.status 16 = some cells) → Failing (claimOf l) l :=
    fun l h hp hs hc => ⟨h, fun _ => ⟨by rw [hs]; decide, hc⟩, fun h num hh => by rw [hp] at hh; cases hh⟩
  refine ⟨fun g hg => ?_, ?_, ?_, ?_, ?_⟩
  · simp only [List.mem_cons, List.not_mem_nil, or_false] at hg
    rcases hg with rfl | rfl
    · exact ⟨_, waitingAs [single 2 4096], mk _ (claimTurn_of _ ⟨rfl, rfl, rfl, rfl, rfl, rfl⟩ (.inl rfl)) rfl rfl ⟨_, rfl⟩, rfl, by rfl⟩
    · exact ⟨_, waitingAs [{ stage0 with kind := 0, reserve := 0 }], mk _ (claimTurn_of _ ⟨rfl, rfl, rfl, rfl, rfl, rfl⟩ (.inl rfl)) rfl rfl ⟨_, rfl⟩, rfl, by rfl⟩
  · refine ⟨{ claimOf { waitingAs [single 2 4096] with packet := some (0, 0) } with
        host := { queues := [(0, { packets := [{ num := 0, op := 1, var := false, intr := false, words := [], finished := false }] })] } },
      { waitingAs [single 2 4096] with packet := some (0, 0) }, ⟨⟨rfl, by decide⟩, fun h => (by cases h), fun h num hh => ?_⟩, rfl, by rfl⟩
    cases hh
    exact ⟨_, rfl, rfl⟩
  · exact ⟨_, { waitingAs [single 0 4096] with img := { noImg with stages := [single 0 4096], recordFields := [[0, 0, 0, 1, 8, 1, 1, 1, 1, 0, 1, 0]] } }, _,
      mk _ (claimTurn_of _ ⟨rfl, rfl, rfl, rfl, rfl, rfl⟩ (.inl rfl)) rfl rfl ⟨_, rfl⟩, by rfl, by decide⟩
  · exact ⟨_, waitingAs [single 0 524288, single 0 4096], _, mk _ (claimTurn_of _ ⟨rfl, rfl, rfl, rfl, rfl, rfl⟩ (.inl rfl)) rfl rfl ⟨_, rfl⟩, by rfl, rfl, by decide⟩
  · refine ⟨{ claimOf (waitingAs [single 0 4096]) with launches := [{ launch0 with carve := [(0, 16777216)] }, waitingAs [single 0 4096]] }, waitingAs [single 0 4096], _, ⟨⟨rfl, by decide⟩, fun _ => ⟨by decide, _, rfl⟩, fun h num hh => ?_⟩,
      by rfl, rfl, by decide, by decide, 0, by decide, by decide⟩
    cases hh

/-- A launch of two stages joined by a queue, on one core or on two. -/
def waitingQueue (width : Nat) : Launch :=
  { waiting0 with status := 0x0001000000000010, img := { noImg with
      width := width, stages := [single 0 4096, { single 1 4096 with kind := if width = 1 then 0 else 2 }]
      queues := [⟨0, 0, 1, 0, 8⟩] } }

/-- The route section disagrees with one of two placements of a queue, since it gives the queue one kind. -/
theorem witness_LaunchesStart_routes : ∃ w, (w = 1 ∨ w = 2) ∧ ∃ p, ClaimTurn (claimOf (waitingQueue w)) (waitingQueue w) 2 0 ∧
    placeStages (rectCores 2 0 w 1) (waitingQueue w).img.stages.zipIdx { uses := [], modes := [], cores := [] } = .ok p ∧
    placeFits (waitingQueue w).img.stages (rectCores 2 0 w 1) p = true ∧ localFits (waitingQueue w).img p (rectCores 2 0 w 1) = true ∧
    (∀ d ∈ (rectCores 2 0 w 1).map dieOf, carveNeed (waitingQueue w).img p (rectCores 2 0 w 1) d ≤ carveRoom (claimOf (waitingQueue w)) d) ∧
    routesAgree p (waitingQueue w).img 2 0 = false := by
  by_cases h : (routeOf noImg 0).kind = 0
  · refine ⟨2, .inr rfl, _, claimTurn_of _ ⟨rfl, rfl, rfl, rfl, rfl, rfl⟩ (.inr rfl), by rfl, by decide, by decide, by decide, ?_⟩
    show (routeGood _ _ 2 0 (⟨0, 0, 1, 0, 8⟩, none, 1, 0) (routeOf noImg 0) && true) = false
    simp [routeGood, h]
  · refine ⟨1, .inl rfl, _, claimTurn_of _ ⟨rfl, rfl, rfl, rfl, rfl, rfl⟩ (.inl rfl), by rfl, by decide, by decide, by decide, ?_⟩
    show (routeGood _ _ 2 0 (⟨0, 0, 1, 0, 8⟩, none, 0, 0) (routeOf noImg 0) && true) = false
    simp [routeGood, h]

/-- A strand that waits in park area 0, its condition met. -/
theorem witness_LaunchesRun_unpark : ∃ (s : State) (st : Strand) (slot : Nat), s.strand 0 32 = some st ∧ freeUnreserved (noteWakes s) 0 = some slot ∧
    (noteWakes s).woken.find? (fun k => k / 256 == 0 && !(s.core 0).parking.any fun p => parkPlace p.1 == k % 256) = some 32 :=
  ⟨{ base with strands := [(placeKey 0 32, { user with wake := some (.counter 0 5) })] }, { user with wake := some (.counter 0 5) }, 0, rfl, by decide, by decide⟩

def queueInfo0 : QueueInfo := { fromStage := 1, fromPort := 0, toStage := 0, toPort := 0, depth := 4 }

/-- A launch whose stage 0 reads queue 0, with counts of its samples. -/
def elastic0 (above below : Nat) : Launch :=
  { launch0 with img := { noImg with queues := [queueInfo0], stages := [stage0, stage0] }, stages := [{ stage0 with above := above, below := below }], queues := [0] }

/-- A sample falls due: the input queue holds n of 4 elements. -/
def sampleState (l : Launch) (n : Nat) (more : Tab Strand) : State :=
  { base with
    launches := [l], clk := 4096, queues := [(0, queueWith (List.replicate n (elem 0 0xAB)) 4)], strands := (placeKey 0 0, user) :: more
    cores := [(0, { core0 with reserved := [(3, 0)] })] }

theorem witness_LaunchesRun_samples :
    (∃ s l g g', SampleDue s 7 0 l g g' ∧ g'.above = 1 ∧ g'.below = 0) ∧
    (∃ s l g g' c k, SampleDue s 7 0 l g g' ∧ g'.above = 2 ∧ (instancesOf s l.part 7 0).length < g.most ∧
      (g.cores.findSome? fun c => (freeReserved s c 0 (allocFree s c)).map fun k => (c, k)) = some (c, k)) ∧
    (∃ s l g g' e, SampleDue s 7 0 l g g' ∧ g'.below = 2 ∧ g.least < (instancesOf s l.part 7 0).length ∧ e.2.1 < 256 ∧
      (instancesOf s l.part 7 0).find? (fun e => (instancesOf s l.part 7 0).all fun f => decide (f.2.2.rank ≤ e.2.2.rank)) = some e) :=
  ⟨⟨sampleState (elastic0 0 1) 4 [], elastic0 0 1, { stage0 with below := 1 }, { stage0 with sampled := 1, above := 1 }, ⟨rfl, rfl, 4, 4, rfl, rfl⟩, rfl, rfl⟩,
    ⟨sampleState (elastic0 1 0) 4 [], elastic0 1 0, { stage0 with above := 1 }, { stage0 with sampled := 1, above := 2 }, 0, 3, ⟨rfl, rfl, 4, 4, rfl, rfl⟩, rfl,
      by decide, by decide⟩,
    ⟨sampleState (elastic0 0 1) 0 [(placeKey 0 1, { user with rank := 1, gen := 2 })], elastic0 0 1, { stage0 with below := 1 },
      { stage0 with sampled := 1, below := 2 }, (0, 1, { user with rank := 1, gen := 2 }), ⟨rfl, rfl, 0, 4, rfl, rfl⟩, rfl, by decide, by decide, rfl⟩⟩

theorem witness_LaunchesRun_ends :
    (∀ r ∈ [Retiring.closed, .no], ∃ (s : State) (st : Strand), s.strand 0 0 = some st ∧ st.retiring = r) ∧
    (∃ s : State, ∀ l ∈ s.launches, l.lid = 7 → stillLaunch s l = false) ∧
    (∃ (s : State) (l : Launch), s.launches.find? (fun l => l.lid == 7 && stillLaunch s l) = some l ∧ s.pkg.events.length < 256) ∧
    (∃ s : State, ∀ l ∈ s.launches, l.lid = 7 → l.phase ≠ .ending ∧ launchDone s l = false) ∧
    (∃ (s : State) (l : Launch), s.launches.find? (fun l => l.lid == 7 && (l.phase == .ending || launchDone s l)) = some l ∧ l.phase = .ending ∧
      ∃ c ∈ coresOf s l, strandsLeft s c = true) ∧
    (∃ (s : State) (l : Launch), s.launches.find? (fun l => l.lid == 7 && (l.phase == .ending || launchDone s l)) = some l ∧ launchDone s l = true ∧ l.status = 0) ∧
    (∃ (s : State) (l : Launch), s.launches.find? (fun l => l.lid == 7 && (l.phase == .ending || launchDone s l)) = some l ∧ l.phase = .ending ∧
      (∀ c ∈ coresOf s l, strandsLeft s c = false) ∧ (∀ c ∈ coresOf s l, coreSettled s c = true) ∧ l.status = 0) ∧
    (∃ (s : State) (l : Launch), s.launches.find? (fun l => l.lid == 7 && (l.phase == .ending || launchDone s l)) = some l ∧ launchDone s l = true ∧
      l.packet = some (0, 0) ∧ l.status ≠ 0 ∧ ∃ p, (hostQueue s 0).packets.find? (fun p => p.num == 0) = some p ∧ p.silent = false) ∧
    (∃ (s : State) (l : Launch) (cells : List Nat), s.launches.find? (fun l => l.lid == 7 && (l.phase == .ending || launchDone s l)) = some l ∧
      launchDone s l = true ∧ l.packet = none ∧ l.status ≠ 0 ∧ hostCells s l.part true l.status 16 = some cells) :=
  ⟨fun r _ => ⟨with0 { user with retiring := r }, { user with retiring := r }, rfl, rfl⟩, ⟨with0 user, by decide⟩,
    ⟨{ with0 user with clk := 1048576 }, launch0, rfl, by decide⟩, ⟨with0 user, by decide⟩,
    ⟨{ with0 user with launches := [{ launch0 with phase := .ending }] }, { launch0 with phase := .ending }, rfl, rfl, 0, by decide, by decide⟩,
    ⟨base, launch0, rfl, by decide, rfl⟩,
    ⟨{ base with launches := [{ launch0 with phase := .ending }] }, { launch0 with phase := .ending }, rfl, rfl, by decide, by decide, rfl⟩,
    ⟨{ base with launches := [{ launch0 with status := 0x1000, packet := some (0, 0) }],
                 host := { queues := [(0, { packets := [{ num := 0, op := 1, var := false, intr := false, words := [], finished := false }] })] } },
      { launch0 with status := 0x1000, packet := some (0, 0) }, rfl, by decide, rfl, by decide, _, rfl, rfl⟩,
    ⟨{ base with launches := [{ launch0 with status := 0x0001000000000010 }] }, { launch0 with status := 0x0001000000000010 }, _, rfl, by decide, rfl,
      by decide, rfl⟩⟩

/-! Events and host queues. -/

/-- Core 0 holds these events, in this slot 0, its supervisor running or not, pre-empted or not. -/
def eventState (es : List HeldEvent) (st : Strand) (running preempted : Bool) : State :=
  { with0 st with cores := [(0, { core0 with held := es, supRunning := running, preempted := preempted })] }

def dropped1 : Strand := { user with undeliverable := true, drops := 3, firstDrop := 0x00010002 }

theorem witness_EventsBetweenInstructions_held : ∀ r ∈ [(0 : Nat), 2175], ∃ s : State, (s.core r).supRunning = true ∧ r < coreCount :=
  fun r hr => by
    simp only [List.mem_cons, List.not_mem_nil, or_false] at hr
    rcases hr with rfl | rfl
    · exact ⟨eventState [] user true false, rfl, by decide⟩
    · exact ⟨{ base with cores := [(2175, { core0 with supRunning := true })] }, rfl, by decide⟩

theorem witness_EventsBetweenInstructions_taken :
    (∀ e ∈ [HeldEvent.watchdog 7, .hostInterrupt 7 255, .runaway 5], ∃ s : State, (s.core 0).supRunning = false ∧ (s.core 0).halted = false ∧
      (s.core 0).preempted = false ∧ svecGood s 0 = true ∧ nextHeld s 0 = some e) ∧
    (∃ s st, (s.core 0).supRunning = false ∧ (s.core 0).halted = false ∧ svecGood s 0 = true ∧ nextHeld s 0 = some (.undeliverable 0) ∧
      s.strand 0 0 = some st ∧ HeldEvent.undeliverable 0 ∉ (s.core 0).held ∧ st.drops < 2 ^ 32 ∧ st.firstDrop.toNat < 2 ^ 32) ∧
    (∀ b ∈ [false, true], ∃ s : State, (s.core 0).supRunning = false ∧ (s.core 0).halted = false ∧ svecGood s 0 = true ∧ heldEvents s 0 = [] ∧
      (s.core 0).preempted = b) := by
  refine ⟨fun e he => ?_, ⟨fw (eventState [] dropped1 false false), dropped1, rfl, rfl, svecGood_fw _, rfl, rfl, ?_, by decide, by decide⟩,
    fun b hb => ⟨fw (eventState [] user false b), rfl, rfl, svecGood_fw _, rfl, rfl⟩⟩
  · simp only [List.mem_cons, List.not_mem_nil, or_false] at he
    rcases he with rfl | rfl | rfl
    · exact ⟨fw (eventState [.watchdog 7] user false false), rfl, rfl, rfl, svecGood_fw _, rfl⟩
    · exact ⟨fw (eventState [.hostInterrupt 7 255] user false false), rfl, rfl, rfl, svecGood_fw _, rfl⟩
    · exact ⟨fw (eventState [.runaway 5] user false false), rfl, rfl, rfl, svecGood_fw _, rfl⟩
  · exact List.not_mem_nil

/-- A message of launch `lid` for head 1 of line 1 of the code has arrived. -/
def arrived (lid : Nat) (handler : Nat := 0x42) : Message := { message0 lid with handler := handler }

def inboxState (lid : Nat) (handler : Nat := 0x42) : State := { with0 user with cores := [(0, { core0 with inbox := [arrived lid handler] })] }

/-- Handlers of the launch: a head, the head of a malformed line, another offset of that line, and an odd address. -/
theorem witness_EventsBetweenInstructions_handlers : ∀ r ∈ [((0x42 : Nat), (0 : Nat)), (0xC2, 1), (0xC4, 2), (0x41, 3)],
    ∃ s m rest l, (s.core 0).inbox = m :: rest ∧ (s.core 0).halted = false ∧ (s.core 0).preempted = false ∧
      slotFree s 0 16 = true ∧ porterQuiet s 0 = true ∧ launchOf s 0 = some l ∧ m.lid = l.lid ∧ (∃ place st, m.source = some 0 ∧ s.byGen 0 m.gen = some (place, st)) ∧
      (match checkHead s { core := 0, sup := false, declined := (s.core 0).porterWait.toList }
        (BitVec.ofNat 64 (l.codeOid * 2 ^ 48) ||| BitVec.ofNat 64 (m.handler % 2 ^ 32)) with
        | .good => 0 | .malformed _ true => 1 | .malformed _ false => 2 | .bad => 3 | .miss _ => 4) = r.2 := by
  intro r hr
  refine ⟨inboxState 7 r.1, arrived 7 r.1, [], launch0, rfl, rfl, rfl, rfl, ?_, rfl, rfl, ⟨0, _, rfl, rfl⟩, ?_⟩ <;> revert r <;> decide

/-- A porter run whose store is still on its way. -/
theorem witness_EventsBetweenInstructions_quiet : ∃ s : State, porterQuiet s 0 = false ∧ slotFree s 0 16 = true ∧ (s.core 0).halted = false ∧
    (s.core 0).preempted = false :=
  ⟨{ inboxState 7 with strands := [(placeKey 0 160, { user with kind := .porter, gen := 3, pend := [messaging 7 0] })] }, by decide, by decide, rfl, rfl⟩

theorem witness_EventsBetweenInstructions_messages :
    (∃ s m rest l, (s.core 0).inbox = m :: rest ∧ (s.core 0).frozen = false ∧ (s.core 0).halted = false ∧ (s.core 0).preempted = false ∧
      slotFree s 0 16 = true ∧ porterQuiet s 0 = true ∧ launchOf s 0 = some l ∧ m.lid = l.lid ∧
      checkHead s { core := 0, sup := false, declined := (s.core 0).porterWait.toList }
        (BitVec.ofNat 64 (l.codeOid * 2 ^ 48) ||| BitVec.ofNat 64 (m.handler % 2 ^ 32)) = .good) ∧
    (∃ s m rest, (s.core 0).inbox = m :: rest ∧ (s.core 0).frozen = false ∧ (s.core 0).halted = false ∧ (s.core 0).preempted = false ∧
      slotFree s 0 16 = true ∧ porterQuiet s 0 = true ∧ (∀ l, launchOf s 0 = some l → m.lid ≠ l.lid) ∧
      ∃ place st, m.source = some 0 ∧ s.byGen 0 m.gen = some (place, st)) ∧
    (∃ s m rest, (s.core 0).inbox = m :: rest ∧ (s.core 0).halted = false ∧ (s.core 0).preempted = false ∧
      slotFree s 0 16 = true ∧ porterQuiet s 0 = true ∧ (∀ l, launchOf s 0 = some l → m.lid ≠ l.lid) ∧ m.source = none) ∧
    (∃ s : State, slotFree s 0 16 = false) ∧ (∃ s : State, (s.core 0).inbox = []) :=
  ⟨⟨inboxState 7, arrived 7, [], launch0, rfl, rfl, rfl, rfl, rfl, by decide, rfl, rfl, by decide⟩,
    ⟨inboxState 8, arrived 8, [], rfl, rfl, rfl, rfl, rfl, by decide, by intro l h; cases h; decide, 0, _, rfl, rfl⟩,
    ⟨{ inboxState 8 with cores := [(0, { core0 with inbox := [{ arrived 8 with source := none }] })] }, _, [], rfl, rfl, rfl, rfl, by decide,
      by intro l h; cases h; decide, rfl⟩,
    ⟨{ base with strands := [(placeKey 0 16, user)] }, by decide⟩, ⟨base, rfl⟩⟩

/-! Host queues. The ring of queue 0 lies at host address 0x10000, its pointers at 0x20000. -/

/-- The host memory of a ring that holds these words. -/
def ringMem (w : Nat) (ws : List Nat) : List Host.Cell :=
  (((ws.zipIdx).flatMap fun (p : Nat × Nat) => (List.range 8).map fun k => (0x10000 + 8 * p.2 + k, BitVec.ofNat 8 (p.1 / 256 ^ k))) ++
    ((List.range 2).map fun k => (0x20000 + k, BitVec.ofNat 8 (w / 256 ^ k)))).filter fun c => c.2 != 0

/-- A queue of 4 KiB, whose write pointer was read as w. -/
def hostQueue0 (w : Option Nat) : HostQueue := { qbase := 0x10000, ptra := 0x20000, lsize := 12, enable := true, wptr := w }

/-- Queue 0 with the words of a packet. -/
def queueState (v : HostQueue) (w : Nat) (ws : List Nat) : State :=
  { base with host := { queues := [(0, v)], mem := ringMem w ws } }

/-- The packet that starts. -/
def packet0 (op : Nat) (var : Bool) (ws : List Nat) : Packet :=
  { num := 0, op := op, var := var, intr := false, words := ws.map (BitVec.ofNat 64 ·), finished := false }

/-- The words of a two-word packet with op, var and three argument words. -/
def args (op : Nat) (var : Bool) (a b c : Nat) : List Nat := [0x20000 + (if var then 32 else 0) + op, a, b, c]

theorem witness_HostQueuePackets_polls :
    (∃ s : State, (hostQueue s 0).enable = false) ∧ (∃ s : State, (hostQueue s 0).halt = true) ∧
    (∀ w ∈ [(8 : Nat), 4096, 0, 4080], ∃ s, (hostQueue s 0).enable = true ∧ (hostQueue s 0).halt = false ∧ claimWaiting s 0 = false ∧ (hostQueue s 0).lsize = 12 ∧
      little (fun k => hostAt s (field (hostQueue s 0).ptra 63 4 * 16 + k)) 8 = w) ∧
    (∃ s v, hostQueue s 0 = v ∧ v.enable = true ∧ v.halt = false ∧ claimWaiting s 0 = false ∧
      little (fun k => hostAt s (field v.ptra 63 4 * 16 + k)) 8 = 32 ∧ packetAt s { v with wptr := some 32 } 32 = some (.error 1) ∧
      headerCode { v with wptr := some 32 } (headerWord s { v with wptr := some 32 }) = 1) ∧
    (∃ s v, hostQueue s 0 = v ∧ v.enable = true ∧ v.halt = false ∧ claimWaiting s 0 = false ∧
      little (fun k => hostAt s (field v.ptra 63 4 * 16 + k)) 8 = 32 ∧ headerCode { v with wptr := some 32 } (headerWord s { v with wptr := some 32 }) = 0 ∧
      ∃ p, packetAt s { v with wptr := some 32 } 32 = some (.ok p)) ∧
    (∃ s v, hostQueue s 0 = v ∧ v.enable = true ∧ v.halt = false ∧ claimWaiting s 0 = false ∧
      little (fun k => hostAt s (field v.ptra 63 4 * 16 + k)) 8 = 16 ∧ headerCode { v with wptr := some 16 } (headerWord s { v with wptr := some 16 }) = 0 ∧
      packetAt s { v with wptr := some 16 } 16 = none) ∧
    (∃ s v, hostQueue s 0 = v ∧ v.enable = true ∧ v.halt = false ∧ claimWaiting s 0 = false ∧
      little (fun k => hostAt s (field v.ptra 63 4 * 16 + k)) 8 = 32 ∧ headerCode { v with wptr := some 32 } (headerWord s { v with wptr := some 32 }) = 0 ∧
      packetAt s { v with wptr := some 32 } 32 = some (.error 3)) := by
  refine ⟨⟨base, rfl⟩, ⟨queueState { hostQueue0 none with halt := true } 0 [], rfl⟩, fun w hw => ?_,
    ⟨queueState (hostQueue0 none) 32 [], hostQueue0 none, rfl, rfl, rfl, by decide, by decide, rfl, by decide⟩,
    ⟨queueState (hostQueue0 none) 32 (args 6 true 0 0 0), hostQueue0 none, rfl, rfl, rfl, by decide, by decide, by decide, _, rfl⟩,
    ⟨queueState (hostQueue0 none) 16 (args 6 true 0 0 0), hostQueue0 none, rfl, rfl, rfl, by decide, by decide, by decide, rfl⟩,
    ⟨queueState (hostQueue0 none) 32 (args 22 true 0 0 0), hostQueue0 none, rfl, rfl, rfl, by decide, by decide, by decide, rfl⟩⟩
  · simp only [List.mem_cons, List.not_mem_nil, or_false] at hw
    rcases hw with rfl | rfl | rfl | rfl
    · exact ⟨queueState (hostQueue0 none) 8 [], rfl, rfl, by decide, rfl, by decide⟩
    · exact ⟨queueState (hostQueue0 none) 4096 [], rfl, rfl, by decide, rfl, by decide⟩
    · exact ⟨queueState (hostQueue0 none) 0 [], rfl, rfl, by decide, rfl, by decide⟩
    · exact ⟨queueState (hostQueue0 none) 4080 [], rfl, rfl, by decide, rfl, by decide⟩

/-- The queue state of a packet of two words. -/
def startState (ws : List Nat) : State := queueState (hostQueue0 (some 32)) 32 ws

theorem startState_next (op : Nat) (var : Bool) (a b c : Nat)
    (h : nextPacket (startState (args op var a b c)) 0 = some (packet0 op var (args op var a b c))) :
    MayStart (startState (args op var a b c)) 0 0 op (packet0 op var (args op var a b c)) :=
  ⟨h, rfl, rfl⟩

theorem witness_HostQueuePackets_copies :
    (∀ w ∈ [true, false], ∃ s p, MayStart s 0 0 (if w then 2 else 3) p ∧ field (arg p 3) 31 0 = 0) ∧
    (∃ s p, MayStart s 0 0 2 p ∧ field (arg p 3) 31 0 ≠ 0 ∧ hostCells s 0 true (arg p 2) (field (arg p 3) 31 0) = none) ∧
    (∃ s p cells, MayStart s 0 0 2 p ∧ field (arg p 3) 31 0 ≠ 0 ∧ hostCells s 0 true (arg p 2) (field (arg p 3) 31 0) = some cells ∧
      hostMoving s 0 (arg p 2) (field (arg p 3) 31 0) = false) ∧
    (∃ s p cells, MayStart s 0 0 2 p ∧ field (arg p 3) 31 0 ≠ 0 ∧ hostCells s 0 true (arg p 2) (field (arg p 3) 31 0) = some cells ∧
      hostMoving s 0 (arg p 2) (field (arg p 3) 31 0) = true) ∧
    (∃ s p, MayStart s 0 0 3 p ∧ field (arg p 3) 31 0 ≠ 0 ∧ hostPhys s 0 false (arg p 2) (field (arg p 3) 31 0) = none) ∧
    (∃ (s : State) (p : Packet) (phys : List Nat), MayStart s 0 0 3 p ∧ field (arg p 3) 31 0 ≠ 0 ∧ hostPhys s 0 false (arg p 2) (field (arg p 3) 31 0) = some phys ∧
      phys.length = field (arg p 3) 31 0 ∧ ∀ x ∈ phys, ∃ c, cellAt s x = some c ∧ isPoisoned s c = false) := by
  refine ⟨fun w hw => ?_, ⟨_, _, startState_next 2 false 0x30000 0x0002000000000000 16 (by decide +kernel), by decide, by decide⟩,
    ⟨_, _, _, startState_next 2 false 0x30000 0x0001000000000008 16 (by decide +kernel), by decide, rfl, by decide⟩,
    ⟨{ startState (args 2 false 0x30000 0x0001000000000008 16) with moves := [{ move9 with addr := 0x0001000000000000, oid := 1 }] },
      packet0 2 false (args 2 false 0x30000 0x0001000000000008 16), _, ⟨by decide +kernel, rfl, rfl⟩, by decide, rfl, by decide⟩,
    ⟨_, _, startState_next 3 false 0x30000 0x000100000000FFF8 16 (by decide +kernel), by decide, by decide⟩,
    ⟨_, _, _, startState_next 3 false 0x30000 0x000100000000FFF0 16 (by decide +kernel), by decide, rfl, rfl, fun x hx => ⟨(cellAt (startState []) x).getD 0, ?_, ?_⟩⟩⟩
  · simp only [List.mem_cons, List.not_mem_nil, or_false] at hw
    rcases hw with rfl | rfl
    · exact ⟨_, _, startState_next 2 false 0x30000 0 0 (by decide +kernel), by decide⟩
    · exact ⟨_, _, startState_next 3 false 0x30000 0 0 (by decide +kernel), by decide⟩
  · revert x; decide
  · revert x; decide

theorem witness_HostQueuePackets_signals :
    (∀ add ∈ [false, true], ∃ s p, MayStart s 0 0 4 p ∧ p.var = add ∧ (arg p 1).toNat % 8 ≠ 0) ∧
    (∀ add ∈ [false, true], ∃ s p cells, MayStart s 0 0 4 p ∧ p.var = add ∧ (arg p 1).toNat % 8 = 0 ∧ hostCells s 0 true (arg p 1) 8 = some cells ∧
      hostMoving s 0 (arg p 1) 8 = false ∧ (∀ c ∈ cells, isPoisoned s c = false) ∧ cells.length = 8) ∧
    (∀ eq ∈ [false, true], ∃ s p, MayStart s 0 0 5 p ∧ p.var = eq ∧ hostCells s 0 false (arg p 1) 8 = none) ∧
    (∀ eq ∈ [false, true], ∃ s p cells, MayStart s 0 0 5 p ∧ p.var = eq ∧ (arg p 1).toNat % 8 = 0 ∧ hostCells s 0 false (arg p 1) 8 = some cells ∧
      (∀ c ∈ cells, isPoisoned s c = false) ∧ cells.length = 8) := by
  refine ⟨fun b hb => ?_, fun b hb => ?_, fun b hb => ?_, fun b hb => ?_⟩ <;>
    simp only [List.mem_cons, List.not_mem_nil, or_false] at hb <;> rcases hb with rfl | rfl
  · exact ⟨_, _, startState_next 4 false 0x0001000000000004 5 0 (by decide +kernel), rfl, by decide⟩
  · exact ⟨_, _, startState_next 4 true 0x0001000000000004 5 0 (by decide +kernel), rfl, by decide⟩
  · exact ⟨_, _, _, startState_next 4 false 0x0001000000000008 5 0 (by decide +kernel), rfl, by decide, rfl, by decide, by decide, rfl⟩
  · exact ⟨_, _, _, startState_next 4 true 0x0001000000000008 5 0 (by decide +kernel), rfl, by decide, rfl, by decide, by decide, rfl⟩
  · exact ⟨_, _, startState_next 5 false 0x0009000000000008 5 0 (by decide +kernel), rfl, by decide⟩
  · exact ⟨_, _, startState_next 5 true 0x0009000000000008 5 0 (by decide +kernel), rfl, by decide⟩
  · exact ⟨_, _, _, startState_next 5 false 0x0001000000000008 5 0 (by decide +kernel), rfl, by decide, rfl, by decide, rfl⟩
  · exact ⟨_, _, _, startState_next 5 true 0x0001000000000008 5 0 (by decide +kernel), rfl, by decide, rfl, by decide, rfl⟩

/-- The words of a LAUNCH packet, its header apart. -/
def launchWords (var : Bool) : List Nat := [0x70001 + (if var then 32 else 0), 0x0001000000000000] ++ List.replicate 12 0

def launchPacketState (var : Bool) : State := queueState (hostQueue0 (some 112)) 112 (launchWords var)

theorem witness_HostQueuePackets_others :
    (∀ var ∈ [false, true], ∃ s p, MayStart s 0 0 6 p ∧ p.var = var) ∧
    (∀ var ∈ [false, true], ∃ s p, MayStart s 0 0 1 p ∧ p.var = var) ∧
    (∃ s, queuePart s 0 = some 0) ∧
    (∃ s p, (hostQueue s 0).packets.find? (fun p => p.num == 0) = some p ∧ p.finished = true ∧ p.intr = false ∧ p.silent = false) ∧
    (∃ s : State, s.pkg.boot ≠ 0 ∧ (hostQueue s 63).enable = false ∧ (hostQueue s 63).lsize < 12) ∧
    (∀ n ∈ [(12 : Nat), 20], ∃ s : State, s.pkg.boot ≠ 0 ∧ (hostQueue s 0).enable = false ∧ (hostQueue s 0).lsize = n ∧ (hostQueue s 0).packets = [] ∧
      (queuePart s 0).isSome = true) ∧
    (∃ s : State, (hostQueue s 0).enable = true ∧ ∀ l ∈ s.launches, l.phase ≠ .waiting) ∧
    (∃ s : State, (hostQueue s 0).halt = true) := by
  refine ⟨fun b hb => ?_, fun b hb => ?_, ⟨base, rfl⟩,
    ⟨queueState { hostQueue0 none with packets := [{ packet0 6 true [] with finished := true }] } 0 [], { packet0 6 true [] with finished := true }, rfl, rfl, rfl, rfl⟩,
    ⟨{ base with pkg := { base.pkg with boot := 7 } }, by decide, rfl, by decide⟩,
    fun n hn => ⟨{ queueState { hostQueue0 none with enable := false, lsize := n } 0 [] with pkg := { base.pkg with boot := 7 } }, Nat.succ_ne_zero 6, rfl, rfl, rfl, rfl⟩,
    ⟨startState [], rfl, by decide⟩, ⟨queueState { hostQueue0 none with halt := true } 0 [], rfl⟩⟩ <;>
    simp only [List.mem_cons, List.not_mem_nil, or_false] at hb <;> rcases hb with rfl | rfl
  · exact ⟨queueState (hostQueue0 (some 16)) 16 [0x10006, 0], packet0 6 false [0x10006, 0], ⟨by decide +kernel, rfl, rfl⟩, rfl⟩
  · exact ⟨_, _, startState_next 6 true 0 0 0 (by decide +kernel), rfl⟩
  · exact ⟨launchPacketState false, packet0 1 false (launchWords false), ⟨by decide +kernel, rfl, rfl⟩, rfl⟩
  · exact ⟨launchPacketState true, packet0 1 true (launchWords true), ⟨by decide +kernel, rfl, rfl⟩, rfl⟩

/-! The mailbox, the window, peers, power and repair. -/

/-- The part has booted to this state; the mailbox holds these data words, busy or not. -/
def mailbox (boot : Nat) (busy : Bool) (ws : Tab Word) : State :=
  { base with pkg := { base.pkg with boot := boot, farBytes := 2 ^ 30 }, host := { base.host with busy := busy, mbd := ws } }

/-- A booted part with these data words and no partition. -/
def bare (ws : Tab Word) : State := { mailbox 7 false ws with parts := [], cores := [], launches := [] }

theorem witness_HostCommandsAndWindow_states : isCommand 5 (.setpkg 5) ∧ isCommand 5 (.fwload 5 true) ∧
    (∃ s : State, s.pkg.boot ≠ 0 ∧ s.host.busy = true) ∧ (∃ s : State, s.pkg.boot ≠ 0 ∧ s.host.busy = false ∧ s.pkg.boot ≠ 7 ∧ 0x80 ≤ s.pkg.boot) ∧
    (∃ s : State, s.pkg.boot ≠ 0 ∧ s.host.busy = false ∧ s.pkg.boot ≠ 7 ∧ s.pkg.boot < 0x80) ∧ (∃ s : State, s.pkg.boot = 7 ∧ s.host.busy = false) :=
  ⟨.inl (by decide), .inr ⟨true, rfl⟩, ⟨mailbox 3 true [], by decide, rfl⟩, ⟨mailbox 0x85 false [], by decide, rfl, by decide, by decide⟩, ⟨mailbox 6 false [], by decide, rfl, by decide, by decide⟩,
    ⟨mailbox 7 false [], rfl, rfl⟩⟩

/-- A booted part whose mailbox is idle. -/
def Idle (s : State) : Prop := s.pkg.boot = 7 ∧ s.host.busy = false

theorem witness_HostCommandsAndWindow_parts :
    (∃ s : State, Idle s ∧ field (s.host.mbd.get 0 0) 15 0 = 0) ∧
    (∃ s : State, Idle s ∧ field (s.host.mbd.get 0 0) 15 0 = 65535 ∧ s.parts ≠ []) ∧ (∃ s : State, Idle s ∧ field (s.host.mbd.get 0 0) 15 0 = 1 ∧ s.parts = []) ∧
    (∀ w ∈ [(0 : Nat), 1, 2], ∃ s : State, Idle s ∧ partcfgBad s = some w) ∧
    (∃ s : State, Idle s ∧ s.parts.find (field (s.host.mbd.get 0 0) 2 0) = none) ∧
    (∃ s p, Idle s ∧ s.parts.find (field (s.host.mbd.get 0 0) 2 0) = some p ∧ ∃ l ∈ s.launches, l.part = field (s.host.mbd.get 0 0) 2 0) ∧
    (∃ s p, Idle s ∧ s.parts.find (field (s.host.mbd.get 0 0) 2 0) = some p ∧ (∀ l ∈ s.launches, l.part ≠ field (s.host.mbd.get 0 0) 2 0) ∧
      launchOutstanding s p = false) ∧
    (∃ s p, Idle s ∧ s.parts.find (field (s.host.mbd.get 0 0) 2 0) = some p ∧ launchOutstanding s p = true) := by
  refine ⟨⟨bare [], ⟨rfl, rfl⟩, by decide⟩, ⟨mailbox 7 false [(0, 65535)], ⟨rfl, rfl⟩, by decide, by decide⟩, ⟨bare [(0, 1)], ⟨rfl, rfl⟩, by decide, rfl⟩, fun w hw => ?_,
    ⟨bare [], ⟨rfl, rfl⟩, rfl⟩, ⟨mailbox 7 false [], part0, ⟨rfl, rfl⟩, rfl, launch0, by decide, by decide⟩,
    ⟨{ mailbox 7 false [] with launches := [] }, part0, ⟨rfl, rfl⟩, rfl, by decide, by decide⟩,
    ⟨{ mailbox 7 false [] with host := { base.host with queues := [(0, { packets := [⟨0, 1, false, false, [], false, false⟩] })] } }, part0, ⟨rfl, rfl⟩, rfl, by decide⟩⟩
  simp only [List.mem_cons, List.not_mem_nil, or_false] at hw
  rcases hw with rfl | rfl | rfl
  · exact ⟨bare [], ⟨rfl, rfl⟩, by decide⟩
  · exact ⟨bare [(0, 1), (1, 13)], ⟨rfl, rfl⟩, by decide⟩
  · exact ⟨bare [(0, 1), (1, 12), (2, 0x020004000000)], ⟨rfl, rfl⟩, by decide⟩

/-- Words of PARTCFG for partition 3: dies 0 and 1, one MiB group, the object table in the region of entry e. -/
def partWords (e : Nat) : Tab Word := [(0, 0x303), (1, 1), (2, 0x020004000000), (3, 16), (4, BitVec.ofNat 64 (2 ^ e)), (5, 0x0100), (6, 1)]

/-- One MiB of the near tier of die 0. -/
def nearRegion : Word × Word := (0x80D0010002000400, 0x0000001000000000)

def asking (e : Nat) : State :=
  { bare (partWords e) with regions := [(e, nearRegion)], dies := [(0, { near := 2 ^ 30 }), (1, { near := 2 ^ 30 })] }

/-- An entry that holds no die's firmware serves. -/
theorem partcfgGood : ∃ e < 64, partcfgBad (asking e) = none := by
  have hfree : ∃ e < 64, ∀ d < 8, Config.firmwareEntry d ≠ e := by
    by_contra hne
    push Not at hne
    choose! f hf1 hf2 using hne
    have hcard := Finset.card_le_card_of_injOn (s := Finset.range 64) (t := Finset.range 8) f (fun e he => by
      simpa using hf1 e (by simpa using he)) (fun a ha b hb hab => by
        rw [← hf2 a (by simpa using ha), ← hf2 b (by simpa using hb), hab])
    simp at hcard
  obtain ⟨e, he, hd⟩ := hfree
  refine ⟨e, he, ?_⟩
  have hn : ∀ k, (bit (BitVec.ofNat 64 (2 ^ e)) k) = decide (k = e) := by
    intro k
    rw [bit, BitVec.getLsbD_ofNat, Nat.testBit_two_pow]
    by_cases h : e = k
    · subst h; simp [he]
    · simp [h, Ne.symm h]
  have hfw : ((List.range 8).map Config.firmwareEntry).any (fun k => bit (BitVec.ofNat 64 (2 ^ e)) k) = false := by
    rw [List.any_eq_false]
    intro k hk
    rw [hn]
    simp only [List.mem_map, List.mem_range] at hk
    obtain ⟨d, hd8, rfl⟩ := hk
    simpa using hd d hd8
  have hlist : (asking e).regions.filter (fun x => bit ((asking e).mbd 4) x.1) = [(e, nearRegion)] := by
    have : (asking e).mbd 4 = BitVec.ofNat 64 (2 ^ e) := rfl
    rw [this]
    simp only [asking, List.filter_cons, hn, decide_true, if_true, List.filter_nil]
  have hvalid : regionValid { asking e with parts := [(3, partcfgPartition (asking e))] } nearRegion = true := rfl
  have h0 : (asking e).mbd 0 = 0x303 := rfl
  have h1 : (asking e).mbd 1 = 1 := rfl
  have h2 : (asking e).mbd 2 = 0x020004000000 := rfl
  have h4 : (asking e).mbd 4 = BitVec.ofNat 64 (2 ^ e) := rfl
  have h5 : (asking e).parts = [] := rfl
  have hs : regionBase nearRegion.1 = 0x020004000000 := by decide
  have hz : regionSize nearRegion.2 = 1048576 := by decide
  have hm : memberOf (homeIn nearRegion 0x020004000000) = 0 := by decide
  have ht : bits nearRegion.1 59 58 = 0 := by decide
  have hdies : diesOf (bits (0x303 : Word) 7 0) = [0, 1] := by decide
  have hu0 : ((asking e).die 0).unusable = false := rfl
  have hu1 : ((asking e).die 1).unusable = false := rfl
  rw [h4] at hlist
  unfold partcfgBad
  simp only [h0, h1, h2, h4, h5, hlist, hdies, hfw, List.filter_nil, List.any_nil, List.any_cons, hu0, hu1, hs, hz, ht]
  simp [hm]
  exact hvalid

theorem witness_HostCommandsAndWindow_partcfg : ∃ s : State, Idle s ∧ partcfgBad s = none ∧ s.parts.find (field (s.host.mbd.get 0 0) 10 8) = none ∧
    (∀ die, partOfDie s die = none) ∧ ∀ c, (s.core c).lid = none :=
  partcfgGood.elim fun e h => ⟨asking e, ⟨rfl, rfl⟩, h.2, rfl, fun _ => rfl, fun _ => rfl⟩

/-- An image that stands, and its launch running, ending or not there. -/
def loadedState (ls : List Launch) : State :=
  { mailbox 7 false [(0, 0), (1, 7)] with launches := ls, loaded := [{ part := 0, addr := 7, code := 2, objects := [] }] }

theorem witness_HostCommandsAndWindow_images :
    (∃ s : State, Idle s ∧ s.parts.find (s.host.mbd.get 0 0).toNat = none) ∧
    (∀ b ∈ [true, false], ∃ s p l, Idle s ∧ s.parts.find (s.host.mbd.get 0 0).toNat = some p ∧ loadedAt s (s.host.mbd.get 0 0).toNat (s.host.mbd.get 0 1) = some l ∧
      (b = true ↔ ∃ m ∈ s.launches, m.part = (s.host.mbd.get 0 0).toNat ∧ m.image = s.host.mbd.get 0 1)) ∧
    (∃ s : State, Idle s ∧ ∀ l ∈ s.launches, ¬(l.part = (s.host.mbd.get 0 0).toNat ∧ l.lid = (s.host.mbd.get 0 1).toNat)) ∧
    (∀ ph ∈ [Phase.ending, .running], ∃ s l, Idle s ∧
      s.launches.find? (fun l => l.part == (s.host.mbd.get 0 0).toNat && l.lid == (s.host.mbd.get 0 1).toNat) = some l ∧ l.phase = ph) := by
  refine ⟨⟨bare [], ⟨rfl, rfl⟩, rfl⟩, fun b hb => ?_, ⟨loadedState [], ⟨rfl, rfl⟩, by decide⟩,
    fun ph _ => ⟨loadedState [{ launch0 with phase := ph }], { launch0 with phase := ph }, ⟨rfl, rfl⟩, rfl, rfl⟩⟩
  simp only [List.mem_cons, List.not_mem_nil, or_false] at hb
  rcases hb with rfl | rfl
  · exact ⟨loadedState [{ launch0 with image := 7 }], part0, _, ⟨rfl, rfl⟩, rfl, rfl, by decide⟩
  · exact ⟨loadedState [], part0, _, ⟨rfl, rfl⟩, rfl, rfl, by decide⟩

theorem witness_HostCommandsAndWindow_reports :
    (∃ s : State, Idle s ∧ (s.host.mbd.get 0 0).toNat % 4096 ≠ 0) ∧ (∃ s : State, Idle s ∧ (s.host.mbd.get 0 0).toNat % 4096 = 0 ∧ s.parts.find (s.host.mbd.get 0 1).toNat = none) ∧
    (∃ s : State, Idle s ∧ (s.host.mbd.get 0 0).toNat % 4096 = 0 ∧ (s.parts.find (s.host.mbd.get 0 1).toNat).isSome = true) ∧
    (∃ s : State, Idle s ∧ (s.host.mbd.get 0 1).toNat < Config.certsLength) ∧ (∃ s : State, Idle s ∧ Config.certsLength ≤ (s.host.mbd.get 0 1).toNat) ∧
    (∃ s : State, Idle s ∧ (s.host.mbd.get 0 1).toNat % 65536 ≠ 0) ∧
    (∃ s : State, Idle s ∧ (s.host.mbd.get 0 1).toNat % 65536 = 0 ∧ (s.parts.find (field (s.host.mbd.get 0 2) 2 0)).isSome = true) ∧
    (∃ s : State, Idle s ∧ (s.host.mbd.get 0 1).toNat % 65536 = 0 ∧ s.host.mbd.get 0 1 = 0 ∧ s.parts = []) ∧
    (∃ s : State, Idle s ∧ s.pkg.events = []) ∧ (∃ s e es, Idle s ∧ s.pkg.events = e :: es) := by
  have hc : Config.certsLength ≤ 4294967296 := by have := Config.certsMore.isLt; unfold Config.certsLength; omega
  exact ⟨⟨mailbox 7 false [(0, 8)], ⟨rfl, rfl⟩, by decide⟩, ⟨bare [(0, 4096)], ⟨rfl, rfl⟩, by decide, rfl⟩,
    ⟨mailbox 7 false [(0, 4096)], ⟨rfl, rfl⟩, by decide, rfl⟩, ⟨mailbox 7 false [], ⟨rfl, rfl⟩, Nat.succ_pos _⟩,
    ⟨mailbox 7 false [(1, 0x100000000)], ⟨rfl, rfl⟩, hc⟩, ⟨mailbox 7 false [(1, 8)], ⟨rfl, rfl⟩, by decide⟩,
    ⟨mailbox 7 false [(1, 0x0001000000000000)], ⟨rfl, rfl⟩, by decide, rfl⟩, ⟨bare [], ⟨rfl, rfl⟩, by decide, rfl, rfl⟩,
    ⟨bare [], ⟨rfl, rfl⟩, rfl⟩,
    ⟨{ bare [] with pkg := { (bare []).pkg with events := [⟨7, 0, 0⟩] } }, ⟨7, 0, 0⟩, [], ⟨rfl, rfl⟩, rfl⟩⟩

/-- A result stands, INTSTAT.mbox set. -/
theorem witness_HostCommandsAndWindow_registers :
    (∃ s : State, s.host.result = some (0, 0, [(0, 5)]) ∧ s.host.intMbox = true) ∧
    (∀ off ∈ [(8 : Nat), 0x40], ∀ b ∈ [false, true], ∃ s : State, s.pkg.boot ≠ 0 ∧ off % 8 = 0 ∧ 0 < off ∧ off ≤ 0x40 ∧ s.host.busy = b) ∧
    (∃ (s : State) (off : Nat) (w : BarWrite), s.pkg.boot ≠ 0 ∧ (w.size ≠ 8 ∨ off % 8 ≠ 0)) ∧
    (∃ s : State, s.pkg.boot ≠ 0 ∧ (hostQueue s 63).enable = false) :=
  ⟨⟨{ base with host := { base.host with result := some (0, 0, [(0, 5)]), intMbox := true } }, rfl, rfl⟩,
    fun off h b _ => ⟨mailbox 7 b [], by simp [mailbox], by
      simp only [List.mem_cons, List.not_mem_nil, or_false] at h
      rcases h with rfl | rfl <;> exact ⟨by decide, by decide, by decide, rfl⟩⟩, ⟨mailbox 7 false [], 8, ⟨4, 1⟩, by decide, .inl (by decide)⟩, ⟨mailbox 7 false [], by decide, rfl⟩⟩

/-- Commands 1 and 13 and their neighbours, the edges of the offsets that R364 lists and of the MSI-X table, and queue 63 enabled or not. -/
theorem witness_HostCommandsAndWindow_bar :
    CommandOp 1 5 (.ident 5) ∧ CommandOp 13 5 (.telem 5) ∧ (∀ v ∈ [(0 : Word), 14], field v 7 0 = 0 ∨ 13 < field v 7 0) ∧
    (∀ off ∈ [(0x50 : Nat), 0xFF8, 0x1008, 0xFFF8, 0x11000, 0x1FFF8, 0x20480], off % 8 = 0 ∧ unlisted off) ∧
    (∀ off ∈ [(0 : Nat), 0x48, 0x1000, 0x10000, 0x10FF8, 0x20000, 0x20478], off % 8 = 0 ∧ ¬unlisted off) ∧
    (∀ b ∈ [false, true], ∃ s : State, s.pkg.boot ≠ 0 ∧ (hostQueue s 63).enable = b) ∧
    (∃ s : State, s.pkg.boot ≠ 0 ∧ s.host.msixPending = [0, 1] ∧ vectorMasked s.host 0 = false ∧ vectorMasked s.host 1 = true) := by
  unfold unlisted
  refine ⟨.inl ⟨rfl, rfl⟩, by simp [CommandOp], fun v h => ?_, fun off h => ?_, fun off h => ?_, fun b _ => ⟨{ mailbox 7 false [] with host := { queues := [(63, { enable := b })] } }, Nat.succ_ne_zero 6, rfl⟩,
    { mailbox 7 false [] with host := { (mailbox 7 false []).host with msixPending := [0, 1], msix := [(8, 0)] } }, by decide, rfl, by decide, by decide⟩
  · fin_cases h <;> decide
  · fin_cases h <;> omega
  · fin_cases h <;> omega

/-- A move of the first page of object 1. -/
def pageMove : Move := { id := 0, engine := 0, part := 0, core := 0, gen := 1, reg := 1, addr := 0x0001000000000000, oid := 1, off := 0, target := 0, code := 0 }

/-- Aperture 1 maps object 1 from its first byte; the objects have their descriptors in memory. -/
def windowed : State := { base with host := { base.host with windows := [(1, (0x0001000000000000, 0))] } }

theorem witness_HostCommandsAndWindow_window :
    (∀ w ∈ [false, true], ∃ s off, windowPhys s off 4 w = none) ∧
    (∃ (s : State) (off : Nat) (a : Word) (k : Nat) (phys : List Nat), windowPhys s off 4 false = some (a, k, phys) ∧ ∀ x ∈ phys, ∃ c, cellAt s x = some c ∧ isPoisoned s c = false) ∧
    (∀ b ∈ [false, true], ∃ s off a k phys, windowPhys s off 4 true = some (a, k, phys) ∧ hostMoving s k a 4 = b ∧ ∀ w ∈ s.host.stalled, w.aperture ≠ off / 2 ^ 31) ∧
    (∃ s off a k phys, windowPhys s off 4 true = some (a, k, phys) ∧ ¬∀ w ∈ s.host.stalled, w.aperture ≠ off / 2 ^ 31) := by
  refine ⟨fun w _ => ⟨base, 0, rfl⟩, ⟨windowed, 0x80000008, 0x0001000000000008, 0, (List.range 4).map fun k => regionPhys (8 + k), by decide +kernel, fun x hx => ⟨(cellAt windowed x).getD 0, ?_, ?_⟩⟩,
    fun b hb => ?_, { windowed with host := { windowed.host with stalled := [⟨1, 0x0001000000000000, 0, [1]⟩] } }, 0x80000008, 0x0001000000000008, 0,
    (List.range 4).map fun k => regionPhys (8 + k), by decide +kernel, by decide⟩
  · revert x; decide
  · revert x; decide
  · simp only [List.mem_cons, List.not_mem_nil, or_false] at hb
    rcases hb with rfl | rfl
    · exact ⟨windowed, 0x80000008, 0x0001000000000008, 0, (List.range 4).map fun k => regionPhys (8 + k), by decide +kernel, by decide +kernel, by decide⟩
    · exact ⟨{ windowed with moves := [pageMove] }, 0x80000008, 0x0001000000000008, 0, (List.range 4).map fun k => regionPhys (8 + k), by decide +kernel, by decide +kernel, by decide⟩

/-- Package 5, the peer port 3 in partition 0. -/
def peering : State := { base with pkg := { base.pkg with id := 5 }, parts := [(0, { part0 with peers := 8 })] }

/-- The cells of eight bytes of object 1, each with its physical address. -/
def eightAt : List (Nat × Nat) := (List.range 8).map fun k => (regionPhys (8 + k), regionCell (8 + k))

/-- A move of the page of those bytes is pending. -/
def peerMoving : State := { peering with moves := [pageMove] }

/-- No operation of another package may be shipped into the region of those bytes. -/
def peerUnshipped : State := { peering with regions := [(0, (0x8450010002000400, 0x0000001000000400)), (1, pairRegion)] }

theorem witness_HostCommandsAndWindow_peers :
    (∃ s : State, s.pkg.id = 0) ∧ (∃ s : State, s.pkg.id ≠ 0 ∧ ∀ p ∈ s.parts, p.2.peers.testBit 3 = false) ∧
    (peering.pkg.id ≠ 0 ∧ (peering.parts.find? fun p => p.2.peers.testBit 3).map (·.1) = some 0) ∧
    peerCells peering 0 false true 0 8 = none ∧
    (∀ b ∈ [false, true], ∃ s : State, s.pkg = peering.pkg ∧ s.parts = peering.parts ∧ peerCells s 0 false true 0x0001000000000008 8 = some eightAt ∧
      ((∃ c ∈ eightAt.map (·.2), isPoisoned s c = true) ↔ b = true)) :=
  ⟨⟨base, rfl⟩, ⟨{ base with pkg := { base.pkg with id := 5 } }, by decide, by decide⟩, ⟨by decide, by decide⟩, by decide +kernel, fun b hb => by
    simp only [List.mem_cons, List.not_mem_nil, or_false] at hb
    rcases hb with rfl | rfl
    · exact ⟨peering, rfl, rfl, by decide +kernel, by decide +kernel⟩
    · exact ⟨{ peering with poisoned := [regionCell 8 / 64] }, rfl, rfl, by decide +kernel, by decide +kernel⟩⟩

theorem witness_HostCommandsAndWindow_peerWrites :
    (∀ b ∈ [false, true], ∃ s : State, s.pkg = peering.pkg ∧ s.parts = peering.parts ∧
      peerCells s 0 true false 0x0001000000000008 (List.replicate 8 (1 : Byte)).length = some eightAt ∧ hostMoving s 0 0x0001000000000008 8 = b) ∧
    (∃ s : State, s.pkg = peering.pkg ∧ s.parts = peering.parts ∧ peerCells s 0 true true 0x0001000000000008 8 = some eightAt ∧
      ∃ k ∈ eightAt, memberOf k.2 = 8 ∨ ∀ r, regionOf s k.1 = some r → r.2.1.getLsbD 55 = false) := by
  refine ⟨fun b hb => ?_, peerUnshipped, rfl, rfl, by decide +kernel, (regionPhys 8, regionCell 8), by decide +kernel, .inr fun r hr => ?_⟩
  · simp only [List.mem_cons, List.not_mem_nil, or_false] at hb
    rcases hb with rfl | rfl
    · exact ⟨peering, rfl, rfl, by decide +kernel, by decide +kernel⟩
    · exact ⟨peerMoving, rfl, rfl, by decide +kernel, by decide +kernel⟩
  · have : regionOf peerUnshipped (regionPhys 8) = some (0, 0x8450010002000400, 0x0000001000000400) := by decide +kernel
    rw [this] at hr
    cases hr
    decide

/-! Power and repair. -/

/-- What step of boot fails, no image given. -/
def bootReport0 (fail : Nat) : BootReport :=
  { images := [], routines := [], failStep := fail, farBytes := 2 ^ 40, rootPorts := [0, 2], cxlPorts := [1], badPorts := [2],
    namespaces := [], unusable := [7], lanes := [], selfTest := [] }

/-- A part that boots, at this step. -/
def booting (n fail : Nat) : State :=
  { mailbox n false [] with agenda := [.boot], pkg := { (mailbox n false []).pkg with report := some (bootReport0 fail) } }

/-- The steps of boot: each of the first five may fail; steps 3 and 6 take no image, so they succeed here. -/
theorem witness_PowerAndRepair_boot :
    (∃ s : State, s.pkg.boot ≠ 0) ∧ (∃ s : State, s.pkg.boot = 0) ∧
    (∀ n ∈ [(1 : Nat), 2, 3, 4, 5, 6], ∃ (s : State) (r : BootReport), s.agenda = .boot :: [] ∧ s.pkg.report = some r ∧ s.pkg.boot = n ∧ r.failStep = n) ∧
    (∀ n ∈ [(3 : Nat), 6], ∃ (s : State) (r : BootReport), s.agenda = .boot :: [] ∧ s.pkg.report = some r ∧ s.pkg.boot = n ∧ r.failStep ≠ n) :=
  ⟨⟨mailbox 7 false [], by decide⟩, ⟨base, rfl⟩, fun n _ => ⟨booting n n, bootReport0 n, rfl, rfl, rfl, rfl⟩,
    fun n h => ⟨booting n 0, bootReport0 0, rfl, rfl, rfl, by revert n; decide⟩⟩

/-- A die of a booted part. -/
def dieState (d : Die) : State := { mailbox 7 false [] with dies := [(7, d)] }

theorem witness_PowerAndRepair_limits :
    (∀ k ∈ [(2 : Nat), 3, 4], ∀ b ∈ [true, false], ∃ (s : State) (i : Instr), i = .coolantInletLimit 7 k ∧ s.pkg.boot = 7 ∧
      ((s.die 7).duty = (withLimit (s.die 7) 1 k).duty ↔ b = true) ∧ s.pkg.events.length < 256) ∧
    (∃ s : State, s.pkg.boot = 7) ∧ (∀ b ∈ [false, true], ∃ s : State, s.pkg.boot = 7 ∧ (s.die 7).unitsDown = b) ∧
    (∃ s : State, ∃ l ∈ s.launches, l.phase = .running ∧ ∃ c, c ∈ coresOf s l) := by
  refine ⟨fun k hk b hb => ?_, ⟨dieState { near := 0 }, rfl⟩, fun b _ => ⟨dieState { near := 0, unitsDown := b }, rfl, rfl⟩, ⟨base, launch0, by decide, rfl, 0, by decide⟩⟩
  simp only [List.mem_cons, List.not_mem_nil, or_false] at hk hb
  rcases hk with rfl | rfl | rfl <;> rcases hb with rfl | rfl
  · exact ⟨dieState { near := 0, duty := 2 }, _, rfl, rfl, by decide, by decide⟩
  · exact ⟨dieState { near := 0, duty := 4 }, _, rfl, rfl, by decide, by decide⟩
  · exact ⟨dieState { near := 0, duty := 3 }, _, rfl, rfl, by decide, by decide⟩
  · exact ⟨dieState { near := 0, duty := 4 }, _, rfl, rfl, by decide, by decide⟩
  · exact ⟨dieState { near := 0, duty := 4 }, _, rfl, rfl, by decide, by decide⟩
  · exact ⟨dieState { near := 0, duty := 2 }, _, rfl, rfl, by decide, by decide⟩

/-- A booted part with these spared channels, spent lanes and TSVs, and these links at half width. -/
def repairState (spared : List Nat) (lanes tsvs : Tab Nat) (half : List Nat) : State :=
  { mailbox 7 false [] with pkg := { (mailbox 7 false []).pkg with spared := spared, lanes := lanes, tsvs := tsvs, halfLinks := half } }

/-- A line of the region's group holds an uncorrectable error. -/
def oneBad : State := { mailbox 7 false [] with poisoned := [regionCell 0x10FC0 / 64] }

theorem witness_PowerAndRepair_fences :
    (∃ s k, s.pkg.boot = 7 ∧ cellAt s (regionPhys 0x10FFF / 64 * 64) = some k ∧ pageBusy s (regionPhys 0x10FFF / 65536) = false ∧
      s.pkg.fences.length < 4096 ∧ regionPhys 0x10FFF / 65536 ∉ s.pkg.fences) ∧
    (∃ s k, s.pkg.boot = 7 ∧ cellAt s (regionPhys 0x10FFF / 64 * 64) = some k ∧ pageBusy s (regionPhys 0x10FFF / 65536) = false ∧
      4096 ≤ s.pkg.fences.length ∧ regionPhys 0x10FFF / 65536 ∉ s.pkg.fences ∧ s.pkg.events.length < 256 ∧
      ∃ l ∈ s.launches, partOfPhys s (regionPhys 0x10FFF / 64 * 64) = some l.part) ∧
    (∃ s k, s.pkg.boot = 7 ∧ cellAt s (regionPhys 0 / 64 * 64) = some k ∧ pageBusy s (regionPhys 0 / 65536) = true) ∧
    (∃ s : State, s.pkg.boot = 7 ∧ ∀ k ∈ s.poisoned, memberOf (k * 64) ≠ 7) ∧
    (∃ s line p, s.pkg.boot = 7 ∧ s.poisoned = [line] ∧ physOfCell s (line * 64) = some p ∧ pageBusy s (p / 65536) = false ∧
      s.pkg.fences.length < 4096 ∧ memberOf (line * 64) < 8) :=
  ⟨⟨mailbox 7 false [], _, rfl, rfl, by decide +kernel, by decide, by decide⟩,
    ⟨{ mailbox 7 false [] with pkg := { (mailbox 7 false []).pkg with fences := List.replicate 4096 0 } }, _, rfl, rfl, by decide +kernel,
      by simp only [List.length_replicate]; decide, fun h => absurd (List.eq_of_mem_replicate h) (by decide), by decide, launch0, List.mem_singleton.mpr rfl, by decide +kernel⟩,
    ⟨{ mailbox 7 false [] with strands := [(placeKey 0 0, pending [loading])] }, _, rfl, rfl, by decide +kernel⟩,
    ⟨mailbox 7 false [], rfl, by decide⟩,
    ⟨oneBad, regionCell 0x10FC0 / 64, regionPhys 0x10FC0, rfl, rfl, by decide +kernel, by decide +kernel, by decide, by decide +kernel⟩⟩

theorem witness_PowerAndRepair_repairs :
    (∀ b ∈ [false, true], ∃ s : State, s.pkg.boot = 7 ∧ (s.pkg.repairs.get [] 15).length < 1024 ∧ (64 * 15 + 31 ∈ s.pkg.spared ↔ b = true)) ∧
    (∀ n ∈ [(0 : Nat), 1, 2], ∃ s : State, s.pkg.boot = 7 ∧ s.pkg.lanes.get 0 13 = n ∧ 13 ∉ s.pkg.halfLinks) ∧
    (∃ s : State, s.pkg.boot = 7 ∧ s.pkg.lanes.get 0 13 = 2 ∧ 13 ∈ s.pkg.halfLinks) ∧
    (∀ n ∈ [(0 : Nat), 3, 4], ∃ s : State, s.pkg.boot = 7 ∧ (s.pkg.repairs.get [] 15).length < 1024 ∧ s.pkg.tsvs.get 0 (64 * 15 + 63) = n) ∧
    (∃ s : State, s.pkg.boot = 7 ∧ 7 ∉ s.pkg.portsDown) := by
  refine ⟨fun b hb => ?_, fun n _ => ⟨repairState [] [(13, n)] [] [], rfl, rfl, List.not_mem_nil⟩, ⟨repairState [] [(13, 2)] [] [13], rfl, rfl, by decide⟩,
    fun n _ => ⟨repairState [] [] [(1023, n)] [], rfl, Nat.zero_lt_succ 1023, rfl⟩, ⟨mailbox 7 false [], rfl, by decide⟩⟩
  simp only [List.mem_cons, List.not_mem_nil, or_false] at hb
  rcases hb with rfl | rfl
  · exact ⟨repairState [] [] [] [], rfl, by decide, by decide⟩
  · exact ⟨repairState [991] [] [] [], rfl, by decide, by decide⟩

/-! Decoding: a head and tail for every instruction, written from the layouts of R39 to R51 and the field tables of each chapter, with
operands at the ends of their ranges where they can be; and the words that the manual's listings print. -/

/-- Integer instructions (R102 to R107). -/
def wordsScalar : List (Half × BitVec 48 × Instr) :=
  [(0x008A, 0x2720, .add (.x 5) (.x 9) (.q 2)), (0x008A, 0x2721, .sub (.x 5) (.x 9) (.q 2)), (0x008A, 0x2722, .and (.x 5) (.x 9) (.q 2)),
    (0x008A, 0x2723, .or (.x 5) (.x 9) (.q 2)), (0x008A, 0x2724, .xor (.x 5) (.x 9) (.q 2)), (0x008A, 0x2725, .andn (.x 5) (.x 9) (.q 2)),
    (0x008A, 0x2726, .sll (.x 5) (.x 9) (.q 2)), (0x008A, 0x2727, .srl (.x 5) (.x 9) (.q 2)), (0x008A, 0x2728, .sra (.x 5) (.x 9) (.q 2)),
    (0x008A, 0x2729, .rol (.x 5) (.x 9) (.q 2)), (0x008A, 0x272A, .min (.x 5) (.x 9) (.q 2)), (0x008A, 0x272B, .max (.x 5) (.x 9) (.q 2)),
    (0x008A, 0x272C, .minw (.x 5) (.x 9) (.q 2)), (0x008A, 0x272D, .maxw (.x 5) (.x 9) (.q 2)), (0x028A, 0x2720, .mul (.x 5) (.x 9) (.q 2)),
    (0x028A, 0x2721, .mulhs (.x 5) (.x 9) (.q 2)), (0x028A, 0x2722, .mulhw (.x 5) (.x 9) (.q 2)), (0x028A, 0x2723, .div (.x 5) (.x 9) (.q 2)),
    (0x028A, 0x2724, .divw (.x 5) (.x 9) (.q 2)), (0x028A, 0x2725, .rem (.x 5) (.x 9) (.q 2)), (0x028A, 0x2726, .remw (.x 5) (.x 9) (.q 2)),
    (0x04DE, 0xE400, .clz (.x 47) (.e 1)), (0x04DE, 0xE401, .ctz (.x 47) (.e 1)), (0x04DE, 0xE402, .popc (.x 47) (.e 1)),
    (0x048A, 0x24A3, .bext (.x 5) (.x 9) (.x 10)), (0x048A, 0x24A4, .bdep (.x 5) (.x 9) (.x 10)), (0x04E6, 0x2405, .mov (.q 3) (.x 9)),
    (0x048A, 0x27F6, .sext (.x 5) (.x 9) 63), (0x048A, 0x27F7, .zext (.x 5) (.x 9) 63), (0x068A, 0x2720, .seq (.x 5) (.x 9) (.q 2)),
    (0x068A, 0x2721, .sne (.x 5) (.x 9) (.q 2)), (0x068A, 0x2722, .slt (.x 5) (.x 9) (.q 2)), (0x068A, 0x2723, .sge (.x 5) (.x 9) (.q 2)),
    (0x068A, 0x2724, .sltw (.x 5) (.x 9) (.q 2)), (0x068A, 0x2725, .sgew (.x 5) (.x 9) (.q 2)), (0x090A, 0x243FFFFE, .addi (.x 5) (.x 9) 0x3ffffe),
    (0x090A, 0x247FFFFE, .andi (.x 5) (.x 9) 0x3ffffe), (0x090A, 0x24BFFFFE, .ori (.x 5) (.x 9) 0x3ffffe),
    (0x090A, 0x24FFFFFE, .xori (.x 5) (.x 9) 0x3ffffe), (0x090A, 0x2500003F, .slli (.x 5) (.x 9) 0x3f),
    (0x090A, 0x2540003F, .srli (.x 5) (.x 9) 0x3f), (0x090A, 0x2580003F, .srai (.x 5) (.x 9) 0x3f), (0x090A, 0x25C0003F, .roli (.x 5) (.x 9) 0x3f),
    (0x090A, 0x263FFFFE, .mini (.x 5) (.x 9) 0x3ffffe), (0x090A, 0x267FFFFE, .maxi (.x 5) (.x 9) 0x3ffffe),
    (0x090A, 0x26BFFFFE, .slti (.x 5) (.x 9) 0x3ffffe), (0x090A, 0x26FFFFFE, .seqi (.x 5) (.x 9) 0x3ffffe), (0x0B0A, 0x200000, .li (.x 5) 0x200000),
    (0x0D8C, 0x3C800000, .li32 (.x 6) 0x3C800000), (0x0D90, 0x24400000000C, .lih (.x 8) (.x 9) 12)]

/-- lea, sel, branches, jumps and loop (R108 to R114). -/
def wordsBranch : List (Half × BitVec 48 × Instr) :=
  [(0x0F0A, 0x10780FF8, .lea (.x 5) ⟨.x 4, .x 7, 2, 0xFF8⟩), (0x110A, 0x24A2C000, .sel (.x 5) (.x 9) (.x 10) (.x 11)),
    (0x210B, 0x27FFFFFF, .beq (.x 5) true (.x 9) 0x1FFFFF 31), (0x230B, 0x27FFFFFF, .bne (.x 5) true (.x 9) 0x1FFFFF 31),
    (0x250B, 0x27FFFFFF, .blt (.x 5) true (.x 9) 0x1FFFFF 31), (0x270B, 0x27FFFFFF, .bge (.x 5) true (.x 9) 0x1FFFFF 31),
    (0x290B, 0x27FFFFFF, .bltw (.x 5) true (.x 9) 0x1FFFFF 31), (0x2B0B, 0x27FFFFFF, .bgew (.x 5) true (.x 9) 0x1FFFFF 31),
    (0x2D0A, 0xFC000041, .bbs (.x 5) false 63 2 1), (0x2F0A, 0xFC000041, .bbc (.x 5) false 63 2 1), (0x310B, 0x41, .bz (.x 5) true 2 1),
    (0x330B, 0x41, .bnz (.x 5) true 2 1), (0x3500, 0xFFFFFFE3, .jmp 0x7FFFFFF 3), (0x3702, 0x43, .jal (.x 1) 2 3), (0x3880, 0x2400, .jr (.x 9)),
    (0x3880, 0x401, .ret (.x 1)), (0x3B0A, 0x3FFFFE2, .loop (.x 5) 0x1FFFFF 2)]

/-- Vector instructions (R117 to R128). -/
def wordsVector : List (Half × BitVec 48 × Instr) :=
  [(0x41BE, 0x444003A20000, .vadd 31 17 4 (.x 3) .f32 .rtz), (0x41BE, 0x444003A22000, .vsub 31 17 4 (.x 3) .f32 .rtz),
    (0x41BE, 0x444003A24000, .vmul 31 17 4 (.x 3) .f32 .rtz), (0x4186, 0x444003106000, .vmin 3 17 4 (.x 3) .s16),
    (0x4186, 0x444003108000, .vmax 3 17 4 (.x 3) .s16), (0x4186, 0x44400310A000, .vadds 3 17 4 (.x 3) .s16),
    (0x4186, 0x44400310C000, .vsubs 3 17 4 (.x 3) .s16), (0x4186, 0x440003B0E000, .vabs 3 17 (.x 3) .f64),
    (0x4186, 0x440003B10000, .vneg 3 17 (.x 3) .f64), (0x439E, 0x4D03809E0000, .vfma 15 19 16 14 (.x 0) .bf16 .dyn),
    (0x439E, 0x4D03809E2000, .vfms 15 19 16 14 (.x 0) .bf16 .dyn), (0x4586, 0x444003700000, .vand 3 17 4 (.x 3) .w64),
    (0x4586, 0x444003702000, .vor 3 17 4 (.x 3) .w64), (0x4586, 0x444003704000, .vxor 3 17 4 (.x 3) .w64),
    (0x4586, 0x444003706000, .vandn 3 17 4 (.x 3) .w64), (0x4586, 0x444003708000, .vsll 3 17 4 (.x 3) .w64),
    (0x4586, 0x44400370A000, .vsrl 3 17 4 (.x 3) .w64), (0x4586, 0x44400370C000, .vsra 3 17 4 (.x 3) .w64),
    (0x47A8, 0x444003800000, .vcmpeq (.x 20) 17 4 (.x 3) .f16), (0x47A8, 0x444003802000, .vcmpne (.x 20) 17 4 (.x 3) .f16),
    (0x47A8, 0x444003804000, .vcmplt (.x 20) 17 4 (.x 3) .f16), (0x47A8, 0x444003806000, .vcmple (.x 20) 17 4 (.x 3) .f16),
    (0x47A8, 0x444003808000, .vcmpgt (.x 20) 17 4 (.x 3) .f16), (0x47A8, 0x44400380A000, .vcmpge (.x 20) 17 4 (.x 3) .f16),
    (0x47A8, 0x44400380C000, .vcmpun (.x 20) 17 4 (.x 3) .f16), (0x4986, 0x444003C00000, .vsel 3 17 4 (.x 3) .e4m3),
    (0x4986, 0x440003402000, .vmov 3 17 (.x 3) .w8), (0x49A8, 0xCC0000804000, .vbcast 20 (.q 3) (.x 0) .f16),
    (0x49D0, 0x449000606000, .vextr (.x 40) 17 (.x 9) .w32), (0x498E, 0x350000608000, .vins 7 (.x 13) (.x 16) .w32),
    (0x498C, 0x5400060A000, .vperm 6 1 20 (.x 0) .w32), (0x498C, 0x4000230C000, .vcompress 6 1 (.x 2) .s64),
    (0x498C, 0x4000230E000, .vexpand 6 1 (.x 2) .s64), (0x4B8A, 0x100000A60000, .vredsum (.x 5) 4 (.x 0) .f32 .rup),
    (0x4B8A, 0x100001002000, .vredmax (.x 5) 4 (.x 1) .s8), (0x4B8A, 0x100001004000, .vredmin (.x 5) 4 (.x 1) .s8),
    (0x4B8A, 0x100001006000, .vamax (.x 5) 4 (.x 1) .s8), (0x4B8A, 0x100001508002, .vscan 5 4 (.x 1) .w16 .rne 2),
    (0x4D8A, 0x187001BA0000, .vdiv 5 6 7 (.x 1) .f64 .sto), (0x4D8A, 0x180001BC2000, .vsqrt 5 6 (.x 1) .f64 .odd),
    (0x4D8A, 0x140000A84000, .vrsq 5 5 (.x 0) .f32 .rna), (0x4D8A, 0x140000A86000, .vrcp 5 5 (.x 0) .f32 .rna),
    (0x4D8A, 0x140000A88000, .vexp2 5 5 (.x 0) .f32 .rna), (0x4D8A, 0x140000A8A000, .vlog2 5 5 (.x 0) .f32 .rna),
    (0x4FA8, 0x40000801403, .vcvt 20 1 (.x 0) .f16 .rne .f32 1 true), (0x4FA8, 0x49002E43006, .vpackmx 20 1 (.x 9) (.x 2) .e2m1 .rdn .f16 3 false),
    (0x4FA8, 0x49002A05A06, .vunpackmx 20 1 (.x 9) (.x 2) .f32 .rne .e5m2 3), (0x51E0, 0x71180800000, .vnzx (.q 0) 1 (.q 1) (.x 6) (.x 0) .f16)]

/-- Memory instructions (R212 to R229). -/
def wordsMemory : List (Half × BitVec 48 × Instr) :=
  [(0x810A, 0x10783FF8, .load (.x 5) ⟨.x 4, .x 7, 2, 0xFF8⟩ 3), (0x810B, 0x10782FF8, .loadSigned (.x 5) ⟨.x 4, .x 7, 2, 0xFF8⟩ 2),
    (0x810A, 0x10799FF8, .lda (.x 5) ⟨.x 4, .x 7, 2, 0xFF8⟩ .pkg 1), (0x830A, 0x10780FF8, .store (.x 5) ⟨.x 4, .x 7, 2, 0xFF8⟩ 0),
    (0x830A, 0x107AFFF8, .stl (.x 5) ⟨.x 4, .x 7, 2, 0xFF8⟩ .sys 3), (0x8502, 0x10780FF8, .ldv 1 ⟨.x 4, .x 7, 2, 0xFF8⟩),
    (0x8529, 0x10780FF8, .stv 20 ⟨.x 4, .x 7, 2, 0xFF8⟩), (0x8792, 0x132003500000, .ldvs 9 (.x 4) (.q 2) (.x 3) .w16),
    (0x8792, 0x132003502000, .stvs 9 (.x 4) (.q 2) (.x 3) .w16), (0x8792, 0x11F003704003, .ldvx 9 (.x 4) 31 (.x 3) .w64 3),
    (0x8792, 0x11F003706003, .stvx 9 (.x 4) 31 (.x 3) .w64 3), (0x890B, 0x107B1FF8, .sld (.x 5) true ⟨.x 4, .x 7, 2, 0xFF8⟩ 3 1),
    (0x890A, 0x1078BFF8, .sldRec (.x 5) false ⟨.x 4, .x 7, 2, 0xFF8⟩ 3), (0x8B0A, 0x10793FF8, .sst (.x 5) ⟨.x 4, .x 7, 2, 0xFF8⟩ 1 3),
    (0x8D22, 0x107A0FF8, .sldv 17 ⟨.x 4, .x 7, 2, 0xFF8⟩ 2), (0x8D23, 0x10790FF8, .sstv 17 ⟨.x 4, .x 7, 2, 0xFF8⟩ 1),
    (0x8F0A, 0x949001D8, .amoadd (.x 5) (.x 37) (.x 9) ⟨1, .acqrel, .die, true⟩),
    (0x8F0A, 0x949005D8, .amoand (.x 5) (.x 37) (.x 9) ⟨1, .acqrel, .die, true⟩),
    (0x8F0A, 0x949009D8, .amoor (.x 5) (.x 37) (.x 9) ⟨1, .acqrel, .die, true⟩),
    (0x8F0A, 0x94900DD8, .amoxor (.x 5) (.x 37) (.x 9) ⟨1, .acqrel, .die, true⟩),
    (0x8F0A, 0x949011D8, .amomin (.x 5) (.x 37) (.x 9) ⟨1, .acqrel, .die, true⟩),
    (0x8F0A, 0x949015D8, .amomax (.x 5) (.x 37) (.x 9) ⟨1, .acqrel, .die, true⟩),
    (0x8F0A, 0x949019D8, .amominw (.x 5) (.x 37) (.x 9) ⟨1, .acqrel, .die, true⟩),
    (0x8F0A, 0x94901DD8, .amomaxw (.x 5) (.x 37) (.x 9) ⟨1, .acqrel, .die, true⟩),
    (0x8F0A, 0x949021D8, .amoswap (.x 5) (.x 37) (.x 9) ⟨1, .acqrel, .die, true⟩),
    (0x8F0A, 0x949025D8, .amocas (.x 5) (.x 37) (.x 9) ⟨1, .acqrel, .die, true⟩),
    (0x8F0A, 0x949029D8, .amofadd (.x 5) (.x 37) (.x 9) ⟨1, .acqrel, .die, true⟩), (0x9058, 0x0, .fence .pkg .acqrel),
    (0x9301, 0x10780FF8, .pref true ⟨.x 4, .x 7, 2, 0xFF8⟩)]

/-- Fabric, engine and volume instructions (R232 to R251). -/
def wordsFabric : List (Half × BitVec 48 × Instr) :=
  [(0xA10A, 0x24A00078, .get (.x 5) (.x 9) (.x 10) .acq .sys 2), (0xA300, 0x24A2C0BC, .put (.x 9) (.x 10) (.x 11) .rel .sys 3),
    (0xA500, 0x40A000AE, .puts (.x 16) (.x 10) (.x 0) .rel .pkg 7),
    (0xA70A, 0x24A2E278, .ramo (.x 5) .swap (.x 9) (.x 10) (.x 11) ⟨2, .acq, .sys, true⟩),
    (0xA98A, 0x24A2CC384000, .amsg (.x 5) (.x 9) (.x 10) (.x 11) (.x 12) .pkg (some 3)),
    (0xB18A, 0x28B30D387000, .copy (.x 5) (.x 10) (.x 11) (.x 12) (.x 13) .sys true (some 3)),
    (0xB392, 0x28B30DF86C00, .send (.x 9) (.x 10) (.x 11) (.x 12) (.x 13) .sys false true 2 (some 15)),
    (0xB592, 0x170C4800103F, .refs (.x 9) (.x 5) (.q 0) (.q 1) (.x 8) true 63 none),
    (0xB790, 0x3CA40E180000, .sread (.x 8) (.x 15) (.x 10) (.x 16) (.x 14) (some 1)),
    (0xB988, 0x800C1000000, .swrite (.x 4) (.x 2) (.x 0) (.x 3) (.x 1) none),
    (0xBB90, 0x831070840E1, .fship (.x 8) (.x 2) (.x 3) (.x 4) (.x 7) .pkg .acqrel 33 (some 0)),
    (0xD91A, 0x50B00001, .ldc (.x 13) (.x 20) (.x 11) true), (0xD924, 0x4D500400, .stc (.x 18) (.x 19) (.x 21)),
    (0xD902, 0x50A00800, .ldcv 1 (.x 20) (.x 10)), (0xD902, 0x54A00C00, .stcv 1 (.x 21) (.x 10)),
    (0xD91A, 0x50E01000, .cprobe (.x 13) (.x 20) (.x 14)), (0xD900, 0x50E01400, .ctrim (.x 20) (.x 14))]

/-- Tile, merge, queue, waiting, launch, watch and system instructions. -/
def wordsSystem : List (Half × BitVec 48 × Instr) :=
  [(0xC080, 0x430, .tcfg (.x 1) 3), (0xC0BE, 0x1, .tzero 31), (0xC080, 0x422, .tamax (.x 1) 2), (0xC080, 0x413, .trowh (.x 1) 1),
    (0xC080, 0x4, .tresume), (0xC080, 0x5, .tabort), (0xC38A, 0x2CF000281400, .tmma 5 (.x 11) (.x 15) 2 true (some 2)),
    (0xC586, 0x28B000280C03, .tmmas 3 (.x 10) (.x 11) 1 true 3 (some 2)),
    (0xC7A0, 0x28B30D181802, .tmmax 16 (.x 10) (.x 11) (.x 12) (.x 13) 3 false 2 (some 1)),
    (0xC9A0, 0x28B000181001, .tlacc 16 (.x 10) (.x 11) 2 true (some 1)), (0xC9A0, 0x28B000188800, .tsacc 16 (.x 10) (.x 11) 1 false (some 1)),
    (0xCBA2, 0xC1000000A5B, .tdrain 17 (.x 3) (.x 1) 1 .bf16 .rup 1 true none),
    (0xCB88, 0x1C2580381400, .tdrainHandler 4 (.x 7) (.x 2) (.x 22) 2 (some 3)), (0xCD00, 0x830824B, .rowout (.x 2) (.x 3) 2 .bf16 .rtz 1 true),
    (0xD080, 0x27F0, .mcfg (.x 9) 63), (0xD380, 0xC40000481600, .mrun (.q 1) true 3 (some 4)), (0xD48A, 0x0, .mstat (.x 5)), (0xD600, 0x0, .mstop),
    (0xDA80, 0x2470, .qtok 1 1 (.x 7)), (0xDA8A, 0xDC91, .qtry (.x 5) (.x 9) (.q 7)), (0xDA8A, 0xDC92, .qpeek (.x 5) (.x 9) (.q 7)),
    (0xDA8A, 0xDC03, .qlen (.x 5) (.q 7)), (0xDA80, 0x4, .qfence), (0xDA80, 0xC855, .qtvec (.q 2) (.x 5)), (0xDD00, 0xC000FFF, .cpost 3 4095),
    (0xDD00, 0x3C400004, .waitc 15 4), (0xDD0A, 0xC800001, .cread (.x 5) 3 true), (0xDF80, 0x420FF, .wait 1 2 3 63),
    (0xE100, 0x10300020, .await (.x 4) (.x 3) .pkg), (0xE100, 0x400, .bar), (0xE100, 0x24000850, .parkC 5 (.x 9)),
    (0xE100, 0x24A00910, .parkA (.x 9) (.x 10) .die), (0xE100, 0xA70, .parkQ 7), (0xE100, 0x24000B00, .parkT (.x 9)), (0xE880, 0x0, .yield),
    (0xE880, 0x1, .exit), (0xE880, 0x32, .sprio 3), (0xEB0A, 0x24000000, .launch (.x 5) (.x 9)),
    (0xEB0C, 0x1C200404, .slice (.x 6) (.x 7) 2 2 false), (0xED00, 0x24A2C000, .warm (.x 9) (.x 10) (.x 11)), (0xED00, 0x24000400, .wdisarm (.x 9)),
    (0xED18, 0x800, .wstat (.x 12) (.x 0)), (0xED00, 0xC00, .wack), (0xF112, 0x23, .csrr (.x 9) 0x023), (0xF100, 0x1C400001, .csrw 1 (.x 7)),
    (0xF100, 0x1C800101, .csrset 0x101 (.x 7)), (0xF100, 0x1CC00101, .csrclr 0x101 (.x 7)), (0xF280, 0x1050, .tlbw (.x 4) (.x 5)),
    (0xF280, 0x1051, .tlbi (.x 4) (.x 5)), (0xF280, 0x1052, .clbi (.x 4) (.x 5)), (0xF28C, 0x1053, .migr (.x 6) (.x 4) (.x 5)),
    (0xF47F, 0x0, .ecall 127), (0xF603, 0x0, .ebreak 3), (0xF800, 0x0, .eret), (0xFA80, 0x2400, .repart (.x 9)),
    (0xFA80, 0x1051, .ctxsave (.x 4) (.x 5)), (0xFA80, 0x1052, .ctxrest (.x 4) (.x 5))]

/-- Words of the manual's listings (R418, R424, R430, R437, R444). -/
def wordsListed : List (Half × BitVec 48 × Instr) :=
  [(0x890A, 0xB708, .sldRec (.x 5) false ⟨.x 0, .x 0, 0, 0x708⟩ 3), (0x8502, 0x10000000, .ldv 1 ⟨.x 4, .x 0, 0, 0⟩),
    (0x51E0, 0x71180800000, .vnzx (.q 0) 1 (.q 1) (.x 6) (.x 0) .f16), (0xDA80, 0x8000, .qtok 4 0 (.x 0)), (0xDA80, 0xC855, .qtvec (.q 2) (.x 5)),
    (0x0D90, 0x400000000C, .lih (.x 8) (.x 0) 12), (0xB592, 0x170C4800103F, .refs (.x 9) (.x 5) (.q 0) (.q 1) (.x 8) true 63 none),
    (0x0094, 0xC800, .add (.x 10) (.q 2) (.x 0)), (0x49A8, 0xCC0000804000, .vbcast 20 (.q 3) (.x 0) .f16),
    (0x8D22, 0x28000040, .sldv 17 ⟨.x 10, .x 0, 0, 64⟩ 0), (0x4FA6, 0x440000A01002, .vcvt 19 17 (.x 0) .f32 .rne .f16 1 false),
    (0x439E, 0x4D03C0A00000, .vfma 15 19 16 15 (.x 0) .f32 .rne), (0x4FA8, 0x40000801402, .vcvt 20 1 (.x 0) .f16 .rne .f32 1 false),
    (0x8529, 0x30000040, .stv 20 ⟨.x 12, .x 0, 0, 64⟩), (0xC082, 0x1, .tzero 1),
    (0xC582, 0x495000180003, .tmmas 1 (.x 18) (.x 21) 0 false 3 (some 1)),
    (0xB39C, 0x48D040003000, .send (.x 14) (.x 18) (.x 13) (.x 1) (.x 0) .die true false 0 none), (0xE100, 0x10300010, .await (.x 4) (.x 3) .die),
    (0xDD00, 0x4000004, .cpost 1 4), (0x9030, 0x0, .fence .die .rel), (0xA500, 0x25100000, .puts (.x 9) (.x 17) (.x 0) .plain .core 0),
    (0x8306, 0x18027000, .stl (.x 3) ⟨.x 6, .x 0, 0, 0⟩ .die 3), (0xDD00, 0x4400000, .waitc 1 0), (0xF410, 0x0, .ecall 16),
    (0xC080, 0x410, .tcfg (.x 1) 1), (0xC080, 0x403, .trowh (.x 1) 0), (0xC38A, 0x2CF000000400, .tmma 5 (.x 11) (.x 15) 0 true none),
    (0xCB88, 0x1C2580380400, .tdrainHandler 4 (.x 7) (.x 2) (.x 22) 0 (some 3)),
    (0xC5A0, 0x392000181002, .tmmas 16 (.x 14) (.x 18) 2 false 2 (some 1)), (0x4B8A, 0x100000A00000, .vredsum (.x 5) 4 (.x 0) .f32 .rne),
    (0x4D8A, 0x140000A04000, .vrsq 5 5 (.x 0) .f32 .rne), (0x0D8C, 0x3C800000, .li32 (.x 6) 0x3C800000),
    (0xCD00, 0x8000242, .rowout (.x 2) (.x 0) 0 .bf16 .rne 1 false), (0xCBA2, 0xC1000000240, .tdrain 17 (.x 3) (.x 1) 0 .bf16 .rne 0 false none),
    (0xD900, 0xA0E00400, .stc (.x 0) (.x 40) (.x 14)), (0xD91A, 0x50E01000, .cprobe (.x 13) (.x 20) (.x 14)),
    (0xD902, 0x50A00800, .ldcv 1 (.x 20) (.x 10)), (0xD902, 0x54A00C00, .stcv 1 (.x 21) (.x 10)),
    (0xD91A, 0x50B00000, .ldc (.x 13) (.x 20) (.x 11) false), (0xE100, 0xC100020, .await (.x 3) (.x 1) .pkg),
    (0x8F00, 0x94100108, .amoadd (.x 0) (.x 37) (.x 1) ⟨1, .plain, .core, true⟩),
    (0x8F00, 0xC102900, .amofadd (.x 0) (.x 3) (.x 1) ⟨1, .plain, .core, false⟩), (0x498C, 0x5400060A000, .vperm 6 1 20 (.x 0) .w32),
    (0x498E, 0x350000608000, .vins 7 (.x 13) (.x 16) .w32), (0xB988, 0x800C1000000, .swrite (.x 4) (.x 2) (.x 0) (.x 3) (.x 1) none),
    (0xE100, 0x400, .bar), (0xB790, 0x3CA40E180000, .sread (.x 8) (.x 15) (.x 10) (.x 16) (.x 14) (some 1)), (0xE100, 0x810, .parkC 1 (.x 0)),
    (0x4180, 0x1000700000, .vadd 0 0 1 (.x 0) .w64 .rne), (0x8F00, 0x51600198, .amoadd (.x 0) (.x 20) (.x 22) ⟨1, .rel, .die, true⟩),
    (0xED18, 0x800, .wstat (.x 12) (.x 0))]

/-- The decoder reads each head and tail as the instruction beside it. -/
def reads (ws : List (Half × BitVec 48 × Instr)) : Bool := ws.all fun w => (decode w.1 w.2.1).toOption == some w.2.2

theorem test_decode_wordsScalar : reads wordsScalar = true := by decide +kernel

theorem test_decode_wordsBranch : reads wordsBranch = true := by decide +kernel

theorem test_decode_wordsVector : reads wordsVector = true := by decide +kernel

theorem test_decode_wordsMemory : reads wordsMemory = true := by decide +kernel

theorem test_decode_wordsFabric : reads wordsFabric = true := by decide +kernel

theorem test_decode_wordsSystem : reads wordsSystem = true := by decide +kernel

theorem test_decode_wordsListed : reads wordsListed = true := by decide +kernel

/-! Field checks, and the manual's worked examples. -/

/-- An ill-formed term for each check of the fields (R45, R48, R49, R51, R58 and the chapters' tables). -/
def illFormed : List Instr :=
  [.slli (.x 1) (.x 2) 64, .srli (.x 1) (.x 2) 0x200000, .srai (.x 1) (.x 2) 64, .roli (.x 1) (.x 2) 64,
    .vadd 0 1 2 (.x 0) .s8 .rtz, .vsub 0 1 2 (.x 0) .e4m3 .rne, .vmul 0 1 2 (.x 0) .e8m0 .rne, .vmin 0 1 2 (.x 0) .e5m2, .vmax 0 1 2 (.x 0) .e2m1,
    .vabs 0 1 (.x 0) .e4m3, .vneg 0 1 (.x 0) .e8m0, .vadds 0 1 2 (.x 0) .f16, .vsubs 0 1 2 (.x 0) .f64, .vfma 0 1 2 3 (.x 0) .s32 .rne,
    .vfms 0 1 2 3 (.x 0) .e4m3 .rne, .vand 0 1 2 (.x 0) .f32, .vsll 0 1 2 (.x 0) .bf16, .vcmpeq (.x 1) 1 2 (.x 0) .e4m3, .vcmpun (.x 1) 1 2 (.x 0) .s8,
    .vsel 0 1 2 (.x 0) .e2m1, .vcompress 0 1 (.x 0) .e8m0, .vredsum (.x 1) 1 (.x 0) .w8 .rtz, .vamax (.x 1) 1 (.x 0) .e4m3,
    .vscan 0 1 (.x 0) .f32 .rne 3, .vscan 0 1 (.x 0) .f32 .rup 1, .vscan 0 1 (.x 0) .s32 .rup 0, .vdiv 0 1 2 (.x 0) .w32 .rne, .vsqrt 0 1 (.x 0) .s32 .rne,
    .vrsq 0 1 (.x 0) .f64 .rne, .vcvt 0 1 (.x 0) .f32 .rne .f16 2 false, .vcvt 0 1 (.x 0) .e2m1 .rne .e2m1 0 false, .vcvt 0 1 (.x 0) .f32 .rtz .f16 0 false,
    .vcvt 0 1 (.x 0) .s8 .rtz .s16 0 false, .vcvt 0 1 (.x 0) .f16 .rne .s32 0 true, .vcvt 0 1 (.x 0) .s16 .rne .f32 0 true,
    .vpackmx 0 1 (.x 2) (.x 0) .f16 .rne .f32 0 false, .vpackmx 0 1 (.x 2) (.x 0) .e4m3 .rne .f64 0 false, .vpackmx 0 1 (.x 2) (.x 0) .e4m3 .rne .f32 4 false,
    .vunpackmx 0 1 (.x 2) (.x 0) .f64 .rne .e4m3 0, .vunpackmx 0 1 (.x 2) (.x 0) .f32 .rne .e8m0 0, .vnzx (.x 1) 1 (.x 0) (.x 6) (.x 0) .f16,
    .vnzx (.q 0) 1 (.q 0) (.x 6) (.x 0) .f16, .vnzx (.q 0) 1 (.x 3) (.x 6) (.x 0) .f16, .vnzx (.q 0) 1 (.x 0) (.x 6) (.x 0) .e2m1,
    .loadSigned (.x 1) ⟨.x 2, .x 0, 0, 0⟩ 3, .ldvs 0 (.x 1) (.x 2) (.x 0) .e2m1, .stvx 0 (.x 1) 2 (.x 0) .e8m0 0, .sld (.x 1) true ⟨.x 2, .x 0, 0, 0⟩ 0 3,
    .sldRec (.x 1) true ⟨.x 2, .x 0, 0, 0⟩ 3, .amoadd (.x 1) (.x 2) (.x 3) ⟨3, .acq, .die, true⟩, .amoswap (.x 1) (.x 2) (.x 3) ⟨0, .plain, .die, true⟩,
    .amocas (.q 1) (.x 2) (.x 3) ⟨0, .acq, .die, true⟩, .fence .die .plain, .get (.x 1) (.x 2) (.x 0) .rel .die 0, .get (.x 1) (.x 2) (.x 3) .acq .pkg 0,
    .put (.x 1) (.x 2) (.x 0) .acq .die 0, .puts (.x 1) (.x 2) (.x 3) .rel .die 0, .ramo (.x 1) .add (.x 2) (.x 3) (.x 0) ⟨0, .acq, .die, true⟩,
    .ramo (.e 1) .cas (.x 2) (.x 3) (.x 0) ⟨1, .acq, .die, true⟩, .copy (.q 1) (.x 2) (.x 3) (.x 4) (.x 0) .die false none,
    .copy (.x 1) (.x 2) (.x 3) (.x 4) (.x 5) .pkg false none, .send (.e 1) (.x 2) (.x 3) (.x 4) (.x 0) .die false false 0 none,
    .refs (.q 1) (.x 2) (.q 0) (.q 1) (.x 0) false 0 none, .refs (.x 1) (.x 2) (.x 3) (.q 1) (.x 0) false 0 none, .refs (.x 1) (.x 2) (.q 0) (.x 4) (.x 0) false 0 none,
    .refs (.x 1) (.x 2) (.q 0) (.q 1) (.x 5) false 0 none, .refs (.x 1) (.x 2) (.q 0) (.q 1) (.x 0) false 8 none, .refs (.x 1) (.x 2) (.q 0) (.q 1) (.x 5) true 512 none,
    .sread (.q 1) (.x 2) (.x 3) (.x 4) (.x 5) none, .swrite (.e 0) (.x 2) (.x 3) (.x 4) (.x 5) none,
    .fship (.x 1) (.x 2) (.x 3) (.x 4) (.q 5) .die .acqrel 0 none, .tcfg (.x 1) 4, .tamax (.x 1) 63, .trowh (.x 1) 4, .tmmas 0 (.x 1) (.x 2) 0 false 0 none,
    .tdrain 0 (.x 1) (.x 2) 0 .f64 .rne 0 false none, .tdrain 0 (.x 1) (.x 2) 0 .f16 .rne 3 false none, .tdrain 0 (.x 1) (.x 2) 0 .f32 .rtz 0 false none,
    .tdrain 0 (.x 1) (.x 0) 0 .f16 .rne 2 false none, .tdrain 0 (.q 1) (.x 2) 0 .f16 .rne 2 false none, .rowout (.x 1) (.x 0) 1 .f16 .rne 0 false,
    .rowout (.x 1) (.x 0) 4 .f16 .rne 1 false, .rowout (.x 1) (.x 0) 0 .f16 .rne 2 false, .mrun (.x 1) true 0 none, .mrun (.x 1) false 5 none,
    .qtok 0 1 (.x 0), .qtok 5 1 (.x 0), .qtry (.x 1) (.x 2) (.x 3), .qpeek (.x 1) (.x 1) (.q 3), .qtry (.e 1) (.x 2) (.q 3), .qlen (.x 1) (.e 0),
    .qtvec (.x 1) (.x 2), .cpost 0 4096, .waitc 0 0x3FFFFF, .sprio 4, .slice (.x 1) (.x 2) 8 0 false, .slice (.x 1) (.x 2) 0 3 false,
    .warm (.x 1) (.x 0) (.x 2), .loop (.q 1) 0 1, .clbi (.x 0) (.x 1)]

theorem test_illFormed : illFormed.all (fun i => !wellFormed i) = true := by decide +kernel

/-- Encodings that are refused: shift by 64, a type code outside its set, a plain atomic of a scope, an
unassigned minor and major, a reserved bit of A, of rs2 and of mod, and a head of another tail length (R40, R45, R59). -/
def refusedWords : List (Half × BitVec 48) :=
  [(0x0902, 0x09000040), (0x4180, 0x4000E00000), (0x8F02, 0x00800010), (0x0080, 0x000E), (0x1282, 0), (0x0083, 0x0400), (0x0480, 0x0411),
    (0x1102, 0x04200001), (0x0100, 0)]

theorem test_refused : refusedWords.all (fun w => (decode w.1 w.2).toOption == none) = true := by decide +kernel

/-- R104: bext and bdep of 0xB5 under 0xF0F0. -/
theorem test_bext_bdep : gatherBits 0xB5 0xF0F0 = 0xB ∧ scatterBits 0xB5 0xF0F0 = 0xB050 := by decide +kernel

/-- R102, R103: the least number wraps; division by 0 and of the least number by −1. -/
theorem test_divide : quoS 0x8000000000000000 (-1) = 0x8000000000000000 ∧ remS 0x8000000000000000 (-1) = 0 ∧ quoS 7 0 = -1 ∧ remS 7 0 = 7 ∧
    quoS (-7) 2 = -3 ∧ remS (-7) 2 = -1 ∧ mulHighS (-1) 1 = -1 ∧ mulHighW (-1) 2 = 1 := by decide

/-- R87: 1 + 2^−9 + 2^−11 to bf16 under sto, at the draw where the result turns. -/
theorem test_sto : roundFin .bf16 false 2053 (-11) false .sto false 0xB0000000 = (0x3F81, flagNx) ∧
    roundFin .bf16 false 2053 (-11) false .sto false 0xAFFFFFFF = (0x3F80, flagNx) := by decide +kernel

/-- R78 to R82: ties to even and away, overflow and its saturated form, a NaN to e2m1, and a conversion to s8 that does not fit. -/
theorem test_convert : convert .f32 .f16 0x3F801000 .rne false 0 = (0x3C00, flagNx) ∧ convert .f32 .f16 0x3F801000 .rna false 0 = (0x3C01, flagNx) ∧
    convert .f32 .f16 0x477FF000 .rne false 0 = (0x7C00, flagOf + flagNx) ∧ convert .f32 .f16 0x477FF000 .rne true 0 = (0x7BFF, flagOf + flagNx) ∧
    convert .f32 .e2m1 0x7FC00000 .rne false 0 = (0, flagNv) ∧ convert .f32 .s8 0x43800000 .rne false 0 = (0x7F, flagNv) := by decide +kernel

/-- R83: 2^−128 rounds to the e8m0 code 0, and 2^128 to 0xFF, or to 0xFE under sat. -/
theorem test_e8m0 : convert .f64 .e8m0 0x37F0000000000000 .rne false 0 = (0, flagUf + flagNx) ∧
    convert .f64 .e8m0 0x47F0000000000000 .rne true 0 = (0xFE, flagOf + flagNx) ∧
    convert .f64 .e8m0 0x47F0000000000000 .rne false 0 = (0xFF, flagOf + flagNx) := by decide +kernel

/-- R94: 2^24, then 1, then −2^24 in three chunks leaves +0; in one chunk the exact sum is 1. -/
theorem test_tile_accumulate : let p := fun (k : Int) => FVal.fin (k < 0) k.natAbs 0 false
    accumulate (accumulate (accumulate 0 (chunkSum [p 16777216])) (chunkSum [p 1])) (chunkSum [p (-16777216)]) = 0 ∧
      accumulate 0 (chunkSum [p 16777216, p 1, p (-16777216)]) = 0x3F800000 := by decide +kernel

/-- R12 to R15: core (37, 20) is on die 6 in cluster 5 of it, and its e2 is 0x1425. -/
theorem test_core_numbers : dieOf (20 * 64 + 37) = 6 ∧ clusterOf (20 * 64 + 37) = 6 * 16 + 5 ∧ e2Of (20 * 64 + 37) = 0x1425 := by decide

/-- R174: dies 1, 2 and 5 at a stride of 4 KiB. -/
theorem test_home : let e : Word × Word := (0x8418260000000000, 0)
    homeIn e 0 = cellOf 1 1 0 ∧ homeIn e 0x2010 = cellOf 1 5 0x10 ∧ homeIn e 0x15234 = cellOf 1 1 0x7234 ∧ homeIn e 0x16010 = cellOf 1 2 0x7010 := by
  decide +kernel

/-- R336: the words of a 64 KiB span. -/
theorem test_tlbw_words : tlbwEntry 0x0031000000010060 0x00004A3600000000 =
    { oid := 0x31, obase := 0x10000, sc := 0, kind := 0, rd := true, wr := true, ex := false, pbase := 0x4A360000, limit := 0 } := by decide +kernel

/-- R270: six dense ranks and three sparse ones on a 4 × 2 rectangle at (10, 3). -/
theorem test_placement : (placeStages (rectCores 10 3 4 2) [({ stage0 with kind := 1, least := 6, reserve := 1, elastic := false }, 0),
      ({ stage0 with kind := 2, least := 3, reserve := 0, elastic := false }, 1)] { uses := [], modes := [], cores := [] }).toOption.map (fun p =>
        ((p.uses.filter fun u => u.rank.isSome).map fun u => (pxOf u.core, pyOf u.core), (p.slotsOf (3 * 64 + 10)).length, (p.slotsOf (3 * 64 + 12)).length,
          (p.slotsOf (4 * 64 + 13)).length)) =
    some ([(10, 3), (12, 3), (10, 4), (12, 4), (10, 3), (12, 3), (11, 3), (13, 3), (11, 4)], 3, 3, 0) := by decide +kernel

/-- A state that places a table word to be fetched runs it as its first instruction: add, addi, and a head of an unassigned major, which traps. -/
theorem test_withFetchWord :
    (match step (State.reset.withFetchWord 48 (0x090A * 2 ^ 32 + 63)) with | .next s => (s.strand 0 0).map (fun st => (st.x 5, st.pc)) | _ => none) =
      some (63, 0x0001000000000042) ∧
    decodeTableWord 32 0x008A2450 = some (.add (.x 5) (.x 9) (.x 5)) := by decide +kernel

/-! Worked examples that take one step. -/

/-- What a step leaves, read by f; none when it does not answer a next state. -/
def after? {α : Type} (o : Host.Outcome State Fault Refusal) (f : State → α) : Option α :=
  match o with
  | .next t => some (f t)
  | _ => none

/-- The data of what has been pushed to a queue. -/
def pushed (s : State) (q : Nat) : List (Option Word) := ((s.queue q).map fun x => (x.ring ++ x.transit ++ x.held).map (·.data)).getD []

/-- R129: lanes 0, 10, 20 and 30 of v1 hold 1.0, −2.0, 0.5 and −0; port 1 takes the lane numbers and port 3 the contents. -/
def nonzeros : Strand :=
  { user with vs := [(1, BitVec.ofNat 512 (0x3C00 + 0xC000 * 2 ^ 160 + 0x3800 * 2 ^ 320 + 0x8000 * 2 ^ 480))], xs := [(6, 0)] }

theorem test_vnzx : after? (exec (.vnzx (.q 1) 1 (.q 3) (.x 6) (.x 0) .f16)
      { with0 nonzeros with queues := [(1, queueWith [] 4), (3, queueWith [] 4)] }) (fun t => (pushed t 1, pushed t 3)) =
    some ([some 0, some 10, some 20], [some 0x3C00, some 0xC000, some 0x3800]) := by decide +kernel

/-- R315: record 2 has rank 2, type f32, extents 256 and 1,000, dimension 1 split over x block-cyclic by 64; the rectangle is 16 wide at
(0, 0), stage 0 is dense, and the strand at px 14 is part 7. -/
def sliceCore : Core :=
  { core0 with recPage := [(0x12, 16), (0x13, 8), (0x182, 2), (0x188, 0x2A), (0x189, 0x0D), (0x191, 1), (0x198, 0xE8), (0x199, 3), (0x1B0, 64),
      (0x309, 0x40)] }

theorem test_slice : sliceValue sliceCore 14 0 2 2 1 false = 0x20000 + 0xF0000 ∧ sliceValue sliceCore 14 0 2 1 1 false = 40 ∧
    sliceValue sliceCore 14 0 2 1 2 false = 0 ∧ sliceValue sliceCore 14 0 2 0 2 false = 1000 := by decide +kernel

/-- R152: acc0 of slot 5 stopped at row 40 of chunk 0. -/
theorem test_rowprog : rowprogWord { opOf .mma with acc := 0, slot := 5, row := 40, chunk := 0 } = 0x9028000000002800 := by decide +kernel

/-- R156: two ring fibres with pairs (3, 1.0) and (3, 2.0) emit the pair (3, 3.0). -/
def pad2 : Tab Byte :=
  [(0x100, 3), (0x106, 0x80), (0x107, 0x3F), (0x110, 3), (0x117, 0x40)]

theorem test_merge_emit : after? (exec (.mergeEmit 1) { mergeState { fibres := [ring 1 0x100 0, ring 1 0x110 0], run := some run1 } merger with
      cores := [(1, { core0 with spad := pad2, merge := { fibres := [ring 1 0x100 0, ring 1 0x110 0], run := some run1 } })] })
    (fun t => ((List.range 8).map fun k => (t.core 1).spad.get 0 (0x200 + k), (t.core 1).merge.fibres.map (·.pos))) =
    some ([3, 0, 0, 0, 0, 0, 0x40, 0x40], [1, 1]) := by decide +kernel

/-- R94 as the unit runs it: an unwritten element of an accumulator reads 0, and TZERO completes with every element 0. -/
theorem test_tzero : after? (exec (.tzero 2) (tileState unit0 tiler)) (fun t => ((t.core 0).tile.queue.length, (t.strand 0 0).map (·.tl))) = some (1, some 1) := by
  decide +kernel

/-- R102 and R23: an add that wraps, and one whose destination is x0. -/
theorem test_add : after? (exec (.add (.x 1) (.x 2) (.x 3)) (with0 { user with xs := [(2, -1), (3, 2)] })) (fun t => (t.strand 0 0).map fun st => (st.x 1, st.pc)) =
      some (some (1, 0x0002000000000004)) ∧
    after? (exec (.add (.x 0) (.x 2) (.x 3)) (with0 { user with xs := [(2, -1), (3, 2)] })) (fun t => (t.strand 0 0).map fun st => st.x 0) = some (some 0) := by
  decide +kernel

/-- R53, R54: an instruction that names port 0 pops its element. -/
theorem test_pop : after? (exec (.add (.x 1) (.q 0) (.q 0)) (with0 user)) (fun t => ((t.strand 0 0).map (·.x 1), pushed t 0)) = some (some 0x156, []) := by
  decide +kernel

/-- R107: lih keeps the low half of its source. -/
theorem test_lih : after? (exec (.lih (.x 1) (.x 2) 0x80000001) (with0 { user with xs := [(2, 0xFFFFFFFF00000005)] })) (fun t => (t.strand 0 0).map (·.x 1)) =
    some (some 0x8000000100000005) := by decide +kernel

/-- R114: loop counts down and goes back while the count is not 0. -/
theorem test_loop : after? (exec (.loop (.x 4) 1 1) (with0 { user with xs := [(4, 1)] })) (fun t => (t.strand 0 0).map fun st => (st.x 4, st.pc)) =
      some (some (0, 0x0002000000000004)) ∧
    after? (exec (.loop (.x 4) 1 1) (with0 { user with xs := [(4, 2)] })) (fun t => (t.strand 0 0).map fun st => (st.x 4, st.pc)) =
      some (some (1, 0x0002000000000042)) := by decide +kernel

end Sys2Proof.Tests
end

section
namespace Sys2Proof

/-! What is listed in a sparse table. -/

theorem Tab.mem_of_find {α : Type} {k : Nat} {v : α} {t : Tab α} (h : t.find k = some v) : (k, v) ∈ t := by
  induction t with
  | nil => cases h
  | cons e t ih =>
    obtain ⟨k', v'⟩ := e
    unfold Tab.find at h
    split at h
    next hk => cases h; cases hk; exact List.mem_cons_self
    next => exact List.mem_cons_of_mem _ (ih h)

theorem Tab.mem_insert {α : Type} {k : Nat} {v : α} {t : Tab α} {e : Nat × α} (h : e ∈ t.insert k v) :
    e = (k, v) ∨ e ∈ t := by
  induction t with
  | nil => exact Or.inl (List.mem_singleton.mp h)
  | cons a t ih =>
    obtain ⟨k', v'⟩ := a
    unfold Tab.insert at h
    split at h
    next => exact List.mem_cons.mp h
    next => split at h
            next => exact (List.mem_cons.mp h).imp_right (List.mem_cons_of_mem _)
            next => rcases List.mem_cons.mp h with h | h
                    · exact Or.inr (h ▸ List.mem_cons_self)
                    · exact (ih h).imp_right (List.mem_cons_of_mem _)

theorem Tab.mem_erase {α : Type} {k : Nat} {t : Tab α} {e : Nat × α} (h : e ∈ t.erase k) : e ∈ t := by
  induction t with
  | nil => exact h
  | cons a t ih =>
    obtain ⟨k', v'⟩ := a
    unfold Tab.erase at h
    split at h
    next => exact List.mem_cons_of_mem _ (ih h)
    next => rcases List.mem_cons.mp h with h | h
            · exact h ▸ List.mem_cons_self
            · exact List.mem_cons_of_mem _ (ih h)

/-- A write under one key lists nothing else under another. -/
theorem Tab.find_set_ne {α : Type} [DecidableEq α] {d v : α} {j k : Nat} (h : j ≠ k) (t : Tab α) :
    (Tab.set d k v t).find j = t.find j := by
  unfold Tab.set
  split
  · exact Tab.find_erase_ne h t
  · exact Tab.find_insert_ne h v t

end Sys2Proof

namespace Sys2Proof.Machine

variable {M Z : Prop} {s t : State} {st st' : Strand} {α β : Type}

/-! The invariant. -/

/-- A strand lists no value for x0 (R23), where `Z` asks for it. -/
def NoX0 (Z : Prop) (st : Strand) : Prop := Z → st.xs.find 0 = none

/-- What every step keeps: where `M` asks for it, both memories are in canonical form; where `Z` asks for it, no strand lists
a value for x0. One development serves both invariants, and each can be had without the other. -/
structure Kept (M Z : Prop) (s : State) : Prop where
  memories : M → s.memWf = true
  zeros : Z → s.zeroWf = true

/-- A state and a strand that goes back to it. -/
def PairKept (M Z : Prop) (p : State × Strand) : Prop := Kept M Z p.1 ∧ NoX0 Z p.2

/-- A state and something else. -/
def FstKept (M Z : Prop) (p : State × α) : Prop := Kept M Z p.1

/-- Something else and a state. -/
def SndKept (M Z : Prop) (p : α × State) : Prop := Kept M Z p.2

/-- A state, a strand that goes back to it, and something else. -/
def TripleKept (M Z : Prop) (p : State × Strand × α) : Prop := Kept M Z p.1 ∧ NoX0 Z p.2.1

/-- What an outcome that is a next state leaves is kept. -/
def OutKept (M Z : Prop) : Host.Outcome State Fault Refusal → Prop
  | .next s => Kept M Z s
  | _ => True

/-- The values that an instruction works on come from a kept state. -/
structure ValsKept (M Z : Prop) (v : Vals) : Prop where
  state : Kept M Z v.s
  strand : NoX0 Z v.cx.st

/-- A state that an instruction leaves while it waits is kept. -/
def StopKept (M Z : Prop) : Stop → Prop
  | .keep s => Kept M Z s
  | _ => True

/-- What an instruction leaves when it retires is kept. -/
def DoneKept (M Z : Prop) (d : Done) : Prop := Kept M Z d.s ∧ NoX0 Z d.st

/-- A check that may stop an instruction: what it stops with is kept, and what it answers is as `p` says. -/
def ExceptKept (M Z : Prop) (p : α → Prop) : Except Stop α → Prop
  | .error e => StopKept M Z e
  | .ok a => p a

/-- The effect of an instruction: it stops, or it is done. -/
abbrev BodyKept (M Z : Prop) : Except Stop Done → Prop := ExceptKept M Z (DoneKept M Z)

/-- The state that a fetch stops with is kept. -/
def FetchedKept (M Z : Prop) : Fetched → Prop
  | .stop s => Kept M Z s
  | _ => True

/-- The state that a row of a tile unit leaves is kept. -/
def UnitKept (M Z : Prop) : UnitStep → Prop
  | .next s _ | .hold s => Kept M Z s
  | _ => True

/-- A thing that may go on keeps what is kept. -/
def GoingKept (M Z : Prop) (g : Going) : Prop := ∀ s, Kept M Z s → OutKept M Z (g s)

/-- Each of some things that may go on keeps what is kept. -/
def GoingsKept (M Z : Prop) (gs : List Going) : Prop := ∀ g ∈ gs, GoingKept M Z g

/-- An answer, if there is one, is as `p` says. -/
def OptKept (p : α → Prop) (o : Option α) : Prop := ∀ a, o = some a → p a

/-! Strands. -/

/-- A change of anything but the x registers. -/
theorem NoX0.frame
    {kind : StrandKind} {gen stage rank lid : Nat} {vs : Tab VWord} {ports : Tab Port} {e5 : Word} {counters : Tab Counter}
    {ld st cp tl remote : Nat} {pc fstat srcnt : Word} {poison : Tab (Nat × Word)} {owed : List Nat} {undeliverable : Bool}
    {drops : Nat} {firstDrop : Word} {level : Nat} {since : Option Nat} {aged staying : Bool} {depth : Nat}
    {claim : Option (Nat × Nat × Nat)} {drain : Option (Nat × Nat)} {acts : Option Nat} {message : Option Message}
    {pend : List Access} {nextSeq : Nat} {wait : Option Wait} {declines : List (Nat × Nat)} {wake : Option Wake}
    {work : Option TreeWork} {trimming : Option Trimming} {spadBase spadSize : Nat} {qfence : Bool} {retiring : Retiring}
    {elastic resumed : Bool}
    {y : Strand} (h : NoX0 Z y) :
    NoX0 Z { y with
      kind := kind, gen := gen, stage := stage, rank := rank, lid := lid, vs := vs, ports := ports, e5 := e5, counters :=
      counters, ld := ld, st := st, cp := cp, tl := tl, remote := remote, pc := pc, fstat := fstat, srcnt := srcnt, poison
      := poison, owed := owed, undeliverable := undeliverable, drops := drops, firstDrop := firstDrop, level := level, since
      := since, aged := aged, staying := staying, depth := depth, claim := claim, drain := drain, acts := acts, message :=
      message, pend := pend, nextSeq := nextSeq, wait := wait, declines := declines, wake := wake, work := work, trimming :=
      trimming, spadBase := spadBase, spadSize := spadSize, qfence := qfence, retiring := retiring, elastic := elastic,
      resumed := resumed } := h

/-- A strand that starts with no register listed. -/
theorem NoX0.ofEmpty (hx : st.xs = [] := by rfl) : NoX0 Z st := by
  unfold NoX0; rw [hx]; exact fun _ => rfl

/-! States. -/

theorem State.zeroWf_iff : s.zeroWf = true ↔ ∀ e ∈ s.strands, e.2.xs.find 0 = none := by
  simp [State.zeroWf]

/-- The strands of a kept state. -/
theorem Kept.mem_strands (h : Kept M Z s) {e : Nat × Strand} (he : e ∈ s.strands) : NoX0 Z e.2 :=
  fun hz => State.zeroWf_iff.mp (h.zeros hz) e he

/-- A state with the same memories whose strands are each as they should be. -/
theorem Kept.withStrands (h : Kept M Z s) (hs : ∀ e ∈ t.strands, NoX0 Z e.2) (hm : t.mem = s.mem := by rfl)
    (hh : t.host.mem = s.host.mem := by rfl) : Kept M Z t :=
  ⟨fun h' => (State.memWf_congr hm hh).trans (h.memories h'), fun hz => State.zeroWf_iff.mpr fun e he => hs e he hz⟩

/-- A change of anything but strands and memories. -/
theorem Kept.frame
    {cores : Tab Core} {clusters : Tab Cluster} {dies : Tab Die} {parts : Tab Partition} {launches : List Launch}
    {loaded : List Loaded} {queues : Tab Queue} {poisoned : List Nat} {regions : Tab (Word × Word)} {moves : List Move}
    {records : Tab SavedCore} {woken : List Nat} {pkg : Package} {clk nextGen nextQueue stamp free : Nat} {agenda : List Act}
    {cursor : Cursor} {host : HostSide} (h : Kept M Z s) (hh : host.mem = s.host.mem := by rfl) :
    Kept M Z { s with
      host := host, cores := cores, clusters := clusters, dies := dies, parts := parts, launches := launches, loaded :=
      loaded, queues := queues, poisoned := poisoned, regions := regions, moves := moves, records := records, woken :=
      woken, pkg := pkg, clk := clk, nextGen := nextGen, nextQueue := nextQueue, stamp := stamp, free := free, agenda :=
      agenda, cursor := cursor } :=
  h.withStrands (fun _ he => h.mem_strands he) rfl hh

/-- A change of each strand by itself, and of anything but memories. -/
theorem Kept.mapStrands
    {cores : Tab Core} {clusters : Tab Cluster} {dies : Tab Die} {parts : Tab Partition} {launches : List Launch}
    {loaded : List Loaded} {queues : Tab Queue} {poisoned : List Nat} {regions : Tab (Word × Word)} {moves : List Move}
    {records : Tab SavedCore} {woken : List Nat} {pkg : Package} {clk nextGen nextQueue stamp free : Nat} {agenda : List Act}
    {cursor : Cursor} {host : HostSide} {f : Nat × Strand → Nat × Strand} (h : Kept M Z s) (hf : ∀ e, NoX0 Z e.2 → NoX0 Z (f e).2)
    (hh : host.mem = s.host.mem := by rfl) :
    Kept M Z { s with
      strands := s.strands.map f, host := host, cores := cores, clusters := clusters, dies := dies, parts := parts, launches
      := launches, loaded := loaded, queues := queues, poisoned := poisoned, regions := regions, moves := moves, records :=
      records, woken := woken, pkg := pkg, clk := clk, nextGen := nextGen, nextQueue := nextQueue, stamp := stamp, free :=
      free, agenda := agenda, cursor := cursor } := by
  refine h.withStrands (fun e he => ?_) rfl hh
  obtain ⟨e', he', rfl⟩ := List.mem_map.mp he
  exact hf e' (h.mem_strands he')

/-- A write of device memory in canonical form, and of nothing else. -/
theorem Kept.withMemories (h : Kept M Z s) (hw : s.memWf = true → t.memWf = true) (hs : t.strands = s.strands := by rfl) :
    Kept M Z t :=
  ⟨fun h' => hw (h.memories h'), fun hz => State.zeroWf_iff.mpr fun _ he => h.mem_strands (hs ▸ he) hz⟩

/-! The pieces of answers. -/

theorem OutKept.next (h : Kept M Z s) : OutKept M Z (.next s) := h

/-- The state that an outcome is. -/
theorem OutKept.get {x : Host.Outcome State Fault Refusal} (h : OutKept M Z x) (he : x = .next t) : Kept M Z t := by
  subst he; exact h

theorem FetchedKept.get {x : Fetched} (h : FetchedKept M Z x) (he : x = .stop t) : Kept M Z t := by subst he; exact h

theorem UnitKept.get {x : UnitStep} {o : TileOp} (h : UnitKept M Z x) (he : x = .next t o) : Kept M Z t := by subst he; exact h

theorem UnitKept.held {x : UnitStep} (h : UnitKept M Z x) (he : x = .hold t) : Kept M Z t := by subst he; exact h

theorem UnitKept.next {o : TileOp} (h : Kept M Z s) : UnitKept M Z (.next s o) := h

theorem FetchedKept.stop (h : Kept M Z s) : FetchedKept M Z (.stop s) := h

theorem StopKept.keep (h : Kept M Z s) : StopKept M Z (.keep s) := h

theorem FstKept.intro {a : α} (h : Kept M Z s) : FstKept M Z (s, a) := h

theorem SndKept.intro {a : α} (h : Kept M Z s) : SndKept M Z (a, s) := h

theorem ExceptKept.error {p : α → Prop} {e : Stop} (h : StopKept M Z e) : ExceptKept M Z p (.error e) := h

theorem ExceptKept.keep {p : α → Prop} (h : Kept M Z s) : ExceptKept M Z p (.error (.keep s)) := h

theorem ExceptKept.ok {p : α → Prop} {a : α} (h : p a) : ExceptKept M Z p (.ok a) := h

theorem BodyKept.ok {d : Done} (hs : Kept M Z d.s) (hst : NoX0 Z d.st) : BodyKept M Z (.ok d) := ⟨hs, hst⟩

/-- What a check stops with. -/
theorem ExceptKept.stop {p : α → Prop} {x : Except Stop α} {e : Stop} (h : ExceptKept M Z p x) (he : x = .error e) :
    StopKept M Z e := by subst he; exact h

/-- What a check answers. -/
theorem ExceptKept.get {p : α → Prop} {x : Except Stop α} {a : α} (h : ExceptKept M Z p x) (he : x = .ok a) : p a := by
  subst he; exact h

theorem OptKept.none {p : α → Prop} : OptKept p none := nofun

theorem OptKept.some {p : α → Prop} {a : α} (h : p a) : OptKept p (some a) := by rintro _ ⟨⟩; exact h

theorem OptKept.getD {p : α → Prop} {o : Option α} {a : α} (h : OptKept p o) (ha : p a) : p (o.getD a) := by
  cases o with
  | none => exact ha
  | some b => exact h b rfl

theorem OptKept.filter {p : α → Prop} {o : Option α} (h : OptKept p o) (f : α → Bool) : OptKept p (o.filter f) :=
  fun a ha => h a (Option.filter_eq_some_iff.mp ha).1

theorem OptKept.find? {p : α → Prop} {l : List α} {f : α → Bool} (h : ∀ a ∈ l, p a) : OptKept p (l.find? f) :=
  fun a ha => h a (List.mem_of_find?_eq_some ha)

theorem OptKept.map {p : β → Prop} {q : α → Prop} {o : Option β} (h : OptKept p o) {f : β → α}
    (hf : ∀ b, p b → q (f b)) : OptKept q (o.map f) := by
  rintro a ha
  obtain ⟨b, hb, rfl⟩ := Option.map_eq_some_iff.mp ha
  exact hf b (h b hb)

theorem FstKept.of_eq {p : State × α} {a : α} (h : FstKept M Z p) (he : p = (t, a)) : Kept M Z t := by subst he; exact h

theorem SndKept.of_eq {p : α × State} {a : α} (h : SndKept M Z p) (he : p = (a, t)) : Kept M Z t := by subst he; exact h

theorem TripleKept.of_eq {p : State × Strand × α} {a : α} (h : TripleKept M Z p) (he : p = (t, st, a)) :
    Kept M Z t ∧ NoX0 Z st := by subst he; exact h

theorem OptKept.orElse {p : α → Prop} {o : Option α} {f : Unit → Option α} (h : OptKept p o) (hf : OptKept p (f ())) :
    OptKept p (o.orElse f) := by
  cases o with
  | none => exact hf
  | some a => exact h

theorem OptKept.of_map {q : α → Prop} {o : Option β} {f : β → α} (hf : ∀ b, q (f b)) : OptKept q (o.map f) := by
  rintro a ha
  obtain ⟨b, -, rfl⟩ := Option.map_eq_some_iff.mp ha
  exact hf b

theorem PairKept.of_eq {p : State × Strand} (h : PairKept M Z p) (he : p = (t, st)) : Kept M Z t ∧ NoX0 Z st := by
  subst he; exact h

end Sys2Proof.Machine
end

section
/-! O3: what the functions of Sys2Proof.Machine.Ops keep. -/

namespace Sys2Proof.Machine

set_option Elab.async false

variable {M Z : Prop} {s t : State} {st st' : Strand} {v : Vals} {cx : Ctx} {α β : Type}

theorem kept_reset : Kept M Z State.reset := ⟨fun _ => reset_memWf, fun _ => rfl⟩

theorem Kept.setCore {c : Nat} {v : Core} (hs : Kept M Z s) : Kept M Z (State.setCore s c v) := by
  unfold State.setCore
  exact hs.frame

theorem Kept.setDie {d : Nat} {v : Die} (hs : Kept M Z s) : Kept M Z (State.setDie s d v) := by
  unfold State.setDie
  exact hs.frame

theorem Kept.setCluster {k : Nat} {v : Cluster} (hs : Kept M Z s) : Kept M Z (State.setCluster s k v) := by
  unfold State.setCluster
  exact hs.frame

theorem noX0_supervisorStrand : NoX0 Z (supervisorStrand) := by
  unfold Machine.supervisorStrand
  exact NoX0.ofEmpty

theorem Kept.of_find {k : Nat} (hs : Kept M Z s) (he : s.strands.find k = some st) : NoX0 Z st :=
  hs.mem_strands (Tab.mem_of_find he)

theorem Kept.strand {core place : Nat} (hs : Kept M Z s) : OptKept (NoX0 Z) (s.strand core place) := by
  intro st he
  unfold State.strand at he
  split at he
  · cases he
    exact hs.of_find ‹_›
  · split at he
    · cases he
      exact noX0_supervisorStrand
    · cases he

theorem Kept.setStrand {core place : Nat} (hs : Kept M Z s) (hst : NoX0 Z st) : Kept M Z (s.setStrand core place st) := by
  refine hs.withStrands fun e he => ?_
  rcases Tab.mem_insert he with he | he
  · subst he
    exact hst
  · exact hs.mem_strands he

theorem Kept.dropStrand {core place : Nat} (hs : Kept M Z s) : Kept M Z (s.dropStrand core place) :=
  hs.withStrands fun _ he => hs.mem_strands (Tab.mem_erase he)

theorem Kept.byGen {core gen : Nat} (hs : Kept M Z s) : OptKept (fun p => NoX0 Z p.2) (s.byGen core gen) := by
  unfold State.byGen
  split
  · exact hs.strand.map fun _ hst => hst
  · split
    next k x he =>
      have hx : NoX0 Z (k, x).2 := hs.mem_strands (List.mem_of_find?_eq_some he)
      exact OptKept.some hx
    · exact OptKept.none

theorem Kept.liveGen {core gen : Nat} (hs : Kept M Z s) : OptKept (fun p => NoX0 Z p.2) (State.liveGen s core gen) := by
  unfold State.liveGen
  exact hs.byGen.filter _

theorem Kept.onGen {core gen : Nat} {f : Strand → Strand} (hs : Kept M Z s) (hf : ∀ st, NoX0 Z st → NoX0 Z (f st)) :
    Kept M Z (s.onGen core gen f) := by
  unfold State.onGen
  split
  next he => exact hs.setStrand (hf _ (hs.byGen _ he))
  · exact hs

theorem Kept.live (hs : Kept M Z s) : ∀ p ∈ s.live, NoX0 Z p.2.2 := by
  intro p hp
  obtain ⟨e, he, rfl⟩ := List.mem_map.mp hp
  show NoX0 Z e.2
  exact hs.mem_strands he

theorem Kept.setLaunch {l : Launch} (hs : Kept M Z s) : Kept M Z (State.setLaunch s l) := by
  unfold State.setLaunch
  exact hs.frame

theorem Kept.noteLaunchMoved {part lid : Nat} (hs : Kept M Z s) : Kept M Z (noteLaunchMoved s part lid) := by
  unfold Machine.noteLaunchMoved
  split
  · exact hs.setLaunch
  · exact hs

theorem Kept.noteRan {l : Launch} (hs : Kept M Z s) : Kept M Z (noteRan s l) := by
  unfold Machine.noteRan
  exact hs.setLaunch

theorem Kept.noteMoved {core : Nat} (hs : Kept M Z s) : Kept M Z (noteMoved s core) := by
  unfold Machine.noteMoved
  split
  · exact hs.setLaunch
  · exact hs

theorem NoX0.setX {n : Nat} {v : Word} (hst : NoX0 Z st) : NoX0 Z (st.setX n v) := by
  unfold Strand.setX
  split
  next => exact hst
  next hn => exact fun hz => (Tab.find_set_ne (Ne.symm hn) _).trans (hst hz)

theorem NoX0.setV {n : Nat} {v : VWord} (hst : NoX0 Z st) : NoX0 Z (Strand.setV st n v) := by
  unfold Strand.setV
  exact hst.frame

theorem NoX0.setCounter {n : Nat} {c : Counter} (hst : NoX0 Z st) : NoX0 Z (Strand.setCounter st n c) := by
  unfold Strand.setCounter
  exact hst.frame

theorem NoX0.complete {cn : Option Nat} (hst : NoX0 Z st) : NoX0 Z (Strand.complete st cn) := by
  unfold Strand.complete
  dsimp only
  split
  · exact hst
  · split
    · exact hst.setCounter
    · exact hst.setCounter

theorem Kept.setCell {k : Nat} {b : Byte} (hs : Kept M Z s) : Kept M Z (s.setCell k b) :=
  hs.withMemories (s.setCell_memWf k b)

theorem Kept.physWrite {a : Nat} {bs : List Byte} (hs : Kept M Z s) : Kept M Z (physWrite s a bs) := by
  unfold Machine.physWrite
  refine foldl_keeps (Kept M Z) _ (fun t a1 ht => ?_) _ _ hs
  split
  · exact ht.setCell
  · exact ht

theorem Kept.raiseVector {v : Nat} (hs : Kept M Z s) : Kept M Z (raiseVector s v) := by
  unfold Machine.raiseVector
  dsimp only
  split
  · exact hs.frame
  · exact hs.frame

theorem Kept.raiseEvent {e : PkgEvent} (hs : Kept M Z s) : Kept M Z (raiseEvent s e) := by
  unfold Machine.raiseEvent
  dsimp only
  split
  · exact hs.frame
  · exact hs.frame.raiseVector

theorem Kept.endLaunch {part lid code : Nat} (hs : Kept M Z s) : Kept M Z (endLaunch s part lid code) := by
  unfold Machine.endLaunch
  exact hs.frame

theorem Kept.raiseAbandoned {core : Nat} (hs : Kept M Z s) : Kept M Z (raiseAbandoned s core) := by
  unfold Machine.raiseAbandoned
  exact hs.raiseEvent

theorem Kept.abandon {core : Nat} (hs : Kept M Z s) : Kept M Z (abandon s core) := by
  unfold Machine.abandon
  split
  · exact hs.endLaunch.raiseAbandoned
  · exact hs

theorem Kept.doubleTrap {core : Nat} (hs : Kept M Z s) : Kept M Z (doubleTrap s core) := by
  unfold Machine.doubleTrap
  dsimp only
  split
  · exact hs.setCore.abandon
  · exact hs.setCore.raiseAbandoned

theorem Kept.startSupervisor {core : Nat} (hs : Kept M Z s) : Kept M Z (startSupervisor s core) := by
  unfold Machine.startSupervisor
  dsimp only
  refine iteInduction (fun _ => ?_) fun _ => hs.doubleTrap
  split
  next he =>
    exact hs.setCore.setStrand ((hs.strand _ he).frame)
  · exact hs

theorem Kept.enterSupervisor {core : Nat} {ecause evalue epc estrand : Word} (hs : Kept M Z s) :
    Kept M Z (enterSupervisor s core ecause evalue epc estrand) := by
  unfold Machine.enterSupervisor
  dsimp only
  exact hs.setCore.startSupervisor

theorem Kept.takeTrap {core slot : Nat} {c : Cause} {detail : Nat} {epc evalue : Word} (hs : Kept M Z s) :
    Kept M Z (takeTrap s core slot st c detail epc evalue) := by
  unfold Machine.takeTrap
  dsimp only
  refine iteInduction (fun _ => ?_) fun _ => hs.enterSupervisor
  split
  · exact hs.doubleTrap
  · exact hs.enterSupervisor

theorem Kept.takeEvent {core : Nat} {c : Cause} {epc evalue estrand : Word} (hs : Kept M Z s) :
    Kept M Z (takeEvent s core c epc evalue estrand) := by
  unfold Machine.takeEvent
  exact hs.enterSupervisor

theorem Kept.holdEvent {core : Nat} {e : HeldEvent} (hs : Kept M Z s) : Kept M Z (holdEvent s core e) := by
  unfold Machine.holdEvent
  dsimp only
  exact hs.setCore

end Sys2Proof.Machine
end

section
/-! O3: what the functions of Sys2Proof.Machine.Access keep. -/

namespace Sys2Proof.Machine

set_option Elab.async false

variable {M Z : Prop} {s t : State} {st st' : Strand} {v : Vals} {cx : Ctx} {α β : Type}

theorem Kept.touch {core : Nat} {a : Word} (hs : Kept M Z s) : Kept M Z (touch s core a) := by
  unfold Machine.touch
  dsimp only
  split
  · exact hs.setCore.frame
  · exact hs

theorem Kept.joinMiss {core page need : Nat} (hs : Kept M Z s) : OptKept (Kept M Z) (joinMiss s core page need) := by
  unfold Machine.joinMiss
  dsimp only
  refine iteInduction (fun _ => OptKept.some hs.setCluster) fun _ => ?_
  split
  · exact OptKept.some hs.setCluster
  · exact OptKept.none

end Sys2Proof.Machine
end

section
/-! O3: what the functions of Sys2Proof.Machine.Watch keep. -/

namespace Sys2Proof.Machine

set_option Elab.async false

variable {M Z : Prop} {s t : State} {st st' : Strand} {v : Vals} {cx : Ctx} {α β : Type}

theorem Kept.raiseRunaway {d idx : Nat} {e : WatchEntry} {dropped why : Nat} (hs : Kept M Z s) :
    Kept M Z (raiseRunaway s d idx e dropped why) := by
  unfold Machine.raiseRunaway
  split
  · exact hs.holdEvent
  · exact hs

theorem Kept.setEntry {d idx : Nat} {e : WatchEntry} (hs : Kept M Z s) : Kept M Z (setEntry s d idx e) := by
  unfold Machine.setEntry
  dsimp only
  exact hs.setDie

theorem Kept.noteGranule {cell : Nat} {old new : List Byte} {depth : Nat} (hs : Kept M Z s) :
    Kept M Z (noteGranule s cell old new depth) := by
  unfold Machine.noteGranule
  dsimp only
  refine foldl_keeps (Kept M Z) _ (fun t a ht => ?_) _ _ hs
  split
  · refine iteInduction (fun _ => ht) fun _ => ?_
    refine iteInduction (fun _ => ht.setEntry) fun _ => ?_
    split
    · exact ht.setEntry.frame
    · exact ht.setEntry.frame.raiseRunaway
  · exact ht

theorem Kept.writeCells {ws : List (Nat × Byte)} (hs : Kept M Z s) : Kept M Z (writeCells s ws) := by
  unfold Machine.writeCells
  exact foldl_keeps (Kept M Z) _ (fun _ _ ht => ht.setCell) _ _ hs

theorem Kept.storeCells {ws : List (Nat × Byte)} {depth : Nat} (hs : Kept M Z s) : Kept M Z (storeCells s ws depth) := by
  unfold Machine.storeCells
  dsimp only
  exact (foldl_keeps (Kept M Z) _ (fun _ _ ht => ht.noteGranule) _ _ hs).writeCells

theorem Kept.endClaim {d idx pos : Nat} (hs : Kept M Z s) : Kept M Z (endClaim s d idx pos) := by
  unfold Machine.endClaim
  dsimp only
  split
  · exact hs
  · split
    · exact hs
    · refine iteInduction (fun _ => hs.setEntry.frame) fun _ => ?_
      split
      · exact hs.setEntry.frame
      · exact hs.setEntry.frame.raiseRunaway

end Sys2Proof.Machine
end

section
/-! O3: what the functions of Sys2Proof.Machine.Queues keep. -/

namespace Sys2Proof.Machine

set_option Elab.async false

variable {M Z : Prop} {s t : State} {st st' : Strand} {v : Vals} {cx : Ctx} {α β : Type}

theorem Kept.setQueue {q : Nat} {v : Queue} (hs : Kept M Z s) : Kept M Z (State.setQueue s q v) := by
  unfold State.setQueue
  exact hs.frame

theorem Kept.popQueue {q gen : Nat} (hs : Kept M Z s) : Kept M Z (popQueue s q gen) := by
  unfold Machine.popQueue
  dsimp only
  split
  · exact hs.setQueue
  · exact hs

theorem Kept.popPort {k : Nat} (hs : Kept M Z s) (hst : NoX0 Z st) : PairKept M Z (popPort s st k) := by
  unfold Machine.popPort
  dsimp only
  refine iteInduction (fun _ => ⟨hs, hst.frame⟩) fun _ => ?_
  split
  · refine ⟨hs.popQueue, ?_⟩
    split
    · exact hst.frame
    · exact hst
  · exact ⟨hs, hst⟩

theorem Kept.popForGen {core gen port qn : Nat} (hs : Kept M Z s) : Kept M Z (popForGen s core gen port qn) := by
  unfold Machine.popForGen
  dsimp only
  split
  next he =>
    exact ((hs.popPort (hs.byGen _ he)).1).setStrand ((hs.popPort (hs.byGen _ he)).2)
  · exact hs.popQueue

theorem Kept.awaitCredit {qn : Nat} {w : Waiter} (hs : Kept M Z s) : Kept M Z (awaitCredit s qn w) := by
  unfold Machine.awaitCredit
  split
  · split
    · exact hs
    · exact hs.setQueue
  · exact hs

theorem Kept.stopWaiting {gen : Nat} (hs : Kept M Z s) : Kept M Z (stopWaiting s gen) := by
  unfold Machine.stopWaiting
  dsimp only
  exact hs.frame

theorem Kept.sendElem {qn : Nat} {e : Elem} (hs : Kept M Z s) : Kept M Z (sendElem s qn e) := by
  unfold Machine.sendElem
  dsimp only
  split
  · exact hs.setQueue
  · exact hs

theorem Kept.pushPort {k tag : Nat} {data : Option Word} {batch : Nat} {drain : Option Nat} (hs : Kept M Z s)
    (hst : NoX0 Z st) : PairKept M Z (pushPort s st k tag data batch drain) := by
  unfold Machine.pushPort
  dsimp only
  split
  · exact ⟨hs, hst⟩
  · split
    · exact ⟨hs.sendElem, hst.frame⟩
    · exact ⟨hs.sendElem, hst.frame⟩

theorem Kept.notePushes {qn : Nat} (hs : Kept M Z s) : Kept M Z (notePushes s qn) := by
  unfold Machine.notePushes
  dsimp only
  split
  · exact hs
  · refine iteInduction (fun _ => hs) fun _ => ?_
    refine hs.mapStrands (fun e hst => ?_)
    split
    · exact hst.frame
    · exact hst

theorem Kept.leaveQueues {core gen : Nat} (hs : Kept M Z s) : Kept M Z (leaveQueues s core gen) := by
  unfold Machine.leaveQueues
  dsimp only
  exact foldl_keeps (Kept M Z) _ (fun _ _ ht => ht.notePushes) _ _ hs.frame

end Sys2Proof.Machine
end

section
/-! O3: what the functions of Sys2Proof.Machine.Engine keep. -/

namespace Sys2Proof.Machine

set_option Elab.async false

variable {M Z : Prop} {s t : State} {st st' : Strand} {v : Vals} {cx : Ctx} {α β : Type}

theorem NoX0.deliverX {n : Nat} {v : Word} (hst : NoX0 Z st) : NoX0 Z (Strand.deliverX st n v) := by
  unfold Strand.deliverX
  dsimp only
  exact hst.setX.frame

theorem Kept.completeEngine {core : Nat} {o : EngineOp} {ok : Bool} {cause detail : Nat} (hs : Kept M Z s) :
    Kept M Z (completeEngine s core o ok cause detail) := by
  unfold Machine.completeEngine
  dsimp only
  exact hs.setCore.onGen (fun _ hst => hst.deliverX.complete.frame)

theorem Kept.completeTile {core : Nat} {o : TileOp} (hs : Kept M Z s) : Kept M Z (completeTile s core o) := by
  unfold Machine.completeTile
  dsimp only
  exact hs.setCore.onGen (fun _ hst => hst.complete.frame)

theorem Kept.completeMerge {core : Nat} {r : MergeRun} (hs : Kept M Z s) : Kept M Z (completeMerge s core r) := by
  unfold Machine.completeMerge
  dsimp only
  exact hs.setCore.onGen (fun _ hst => hst.complete.frame)

theorem Kept.engineFault_command {core : Nat} {y : Sync} {named : List Nat} {c : Core} (hs : Kept M Z s) :
    OptKept (fun p => SndKept M Z p) (engineFault.command s core st y named c) := by
  unfold engineFault.command
  split
  · refine OptKept.some (SndKept.intro ?_)
    split
    · exact hs.completeEngine
    · exact hs.setCore
  · exact OptKept.none

theorem Kept.engineFault_rest {core : Nat} {y : Sync} {named : List Nat} {c : Core} {t : TileUnit} (hs : Kept M Z s) :
    OptKept (fun p => SndKept M Z p) (engineFault.rest s core st y named c t) := by
  unfold engineFault.rest
  split
  · exact OptKept.some hs.completeTile
  · split
    · exact OptKept.some hs.completeMerge
    · exact hs.engineFault_command

theorem Kept.engineFault {core : Nat} {y : Sync} {named : List Nat} (hs : Kept M Z s) :
    OptKept (fun p => SndKept M Z p) (engineFault s core st y named) := by
  unfold Machine.engineFault
  dsimp only
  split
  · split
    · exact OptKept.some hs.setCore
    · exact hs.engineFault_rest
  · exact hs.engineFault_rest

theorem Kept.parkIn {core slot area : Nat} {w : Wake} (hs : Kept M Z s) (hst : NoX0 Z st) :
    Kept M Z (parkIn s core slot area st w) := by
  unfold Machine.parkIn
  dsimp only
  exact (hs.dropStrand.setStrand hst.frame).setCore

theorem Kept.leaveRounds {gen : Nat} (hs : Kept M Z s) : Kept M Z (leaveRounds s gen) := by
  unfold Machine.leaveRounds
  exact hs.frame

theorem Kept.closeRounds (hs : Kept M Z s) : Kept M Z (closeRounds s) := by
  unfold Machine.closeRounds
  dsimp only
  refine iteInduction (fun _ => hs) fun _ => ?_
  refine hs.mapStrands (fun e hst => ?_)
  split
  · exact hst.frame
  · exact hst

theorem Kept.rowDone {core : Nat} {drain : Option (Nat × Nat)} (hs : Kept M Z s) : Kept M Z (rowDone s core drain) := by
  unfold Machine.rowDone
  dsimp only
  split
  · exact hs
  · exact hs.setCore

theorem Kept.acknowledge {m : Message} {dropped : Bool} (hs : Kept M Z s) : Kept M Z (acknowledge s m dropped) := by
  unfold Machine.acknowledge
  dsimp only
  split
  · exact hs.frame
  · exact hs.onGen (fun _ hst => hst.frame)

theorem noX0_ghostOf : NoX0 Z (ghostOf st) := by
  unfold Machine.ghostOf
  exact NoX0.ofEmpty

theorem Kept.leaveGhost {core : Nat} (hs : Kept M Z s) : Kept M Z (leaveGhost s core st) := by
  unfold Machine.leaveGhost
  dsimp only
  split
  · exact hs
  · exact hs.setStrand noX0_ghostOf

theorem Kept.endStrand {core place : Nat} (hs : Kept M Z s) : Kept M Z (endStrand s core place st) := by
  unfold Machine.endStrand
  dsimp only
  split
  · refine ((Kept.rowDone ?_).leaveGhost).acknowledge
    split
    · exact hs.dropStrand.leaveRounds.closeRounds.leaveQueues.endClaim
    · exact hs.dropStrand.leaveRounds.closeRounds.leaveQueues
  · refine (Kept.rowDone ?_).leaveGhost
    split
    · exact hs.dropStrand.leaveRounds.closeRounds.leaveQueues.endClaim
    · exact hs.dropStrand.leaveRounds.closeRounds.leaveQueues

end Sys2Proof.Machine
end

section
/-! O3: what the functions of Sys2Proof.Machine.Operands keep. -/

namespace Sys2Proof.Machine

set_option Elab.async false

variable {M Z : Prop} {s t : State} {st st' : Strand} {v : Vals} {cx : Ctx} {α β : Type}

theorem Kept.stall (hs : Kept M Z s) : Kept M Z (stall s) := by
  unfold Machine.stall
  dsimp only
  exact hs.frame

theorem Kept.waitFill {page need : Nat} (hs : Kept M Z s) (hst : NoX0 Z cx.st) : Kept M Z (waitFill s cx page need) := by
  unfold Machine.waitFill
  dsimp only
  split
  · exact hs.stall
  next he =>
    split
    · split
      · exact ((hs.joinMiss _ he).parkIn hst.frame).stall
      · exact ((hs.joinMiss _ he).setStrand hst.frame).stall
    · exact ((hs.joinMiss _ he).setStrand hst.frame).stall

theorem Kept.trapAt {c : Cause} {d : Nat} {value : Word} (hs : Kept M Z s) (hst : NoX0 Z cx.st) :
    Kept M Z (trapAt s cx c d value) := by
  unfold Machine.trapAt
  dsimp only
  exact (hs.setStrand hst.frame).takeTrap

theorem Kept.stopped {b : Stop} (hs : Kept M Z s) (hst : NoX0 Z cx.st) (hp : StopKept M Z b) : Kept M Z (stopped s cx b) := by
  unfold Machine.stopped
  split
  · exact hs.trapAt hst
  · exact hs.trapAt hst
  · exact hs.stall
  · exact hs.waitFill hst
  · exact hp

theorem kept_Fail_stop {b : Fail} : StopKept M Z (Fail.stop b) := by
  unfold Fail.stop
  split
  · exact trivial
  · exact trivial
  · exact trivial

theorem Kept.divert {k : Nat} {e : Elem} (hs : Kept M Z s) (hst : NoX0 Z cx.st) : StopKept M Z (divert s cx k e) := by
  unfold Machine.divert
  dsimp only
  refine iteInduction (fun _ => trivial) fun _ => ?_
  split
  · exact trivial
  · exact trivial
  · exact trivial
  · exact (((hs.popPort hst).1).setStrand (((hs.popPort hst).2).frame)).stopWaiting

theorem Kept.waitRoom {k : Nat} (hs : Kept M Z s) : Kept M Z (waitRoom s st k) := by
  unfold Machine.waitRoom
  split
  · exact hs.awaitCredit.stall
  · exact hs.stall

theorem Kept.takeToken {heads : List (Nat × Option Elem)} (hs : Kept M Z s) (hst : NoX0 Z cx.st) :
    OptKept (fun p => StopKept M Z p) (takeToken s cx heads) := by
  unfold Machine.takeToken
  dsimp only
  split
  · refine OptKept.some ?_
    split
    · exact trivial
    · exact hs.divert hst
  · exact OptKept.of_map (fun _ => trivial)

theorem Kept.gate {i : Instr} {u : Uses} (hs : Kept M Z s) (hst : NoX0 Z cx.st) :
    ExceptKept M Z (fun p => ValsKept M Z p) (gate s i cx u) := by
  unfold Machine.gate
  dsimp only
  refine iteInduction (fun _ => trivial) fun _ => ?_
  refine iteInduction (fun _ => trivial) fun _ => ?_
  refine iteInduction (fun _ => trivial) fun _ => ?_
  refine iteInduction (fun _ => trivial) fun _ => ?_
  refine iteInduction (fun _ => trivial) fun _ => ?_
  split
  · exact trivial
  · split
    next he1 =>
      exact ExceptKept.keep ((hs.engineFault _ he1).trapAt (OptKept.getD (p := NoX0 Z) ((hs.engineFault _ he1).strand) hst))
    · refine iteInduction (fun _ => trivial) fun _ => ?_
      refine iteInduction (fun _ => trivial) fun _ => ?_
      refine iteInduction (fun _ => trivial) fun _ => ?_
      refine iteInduction (fun _ => trivial) fun _ => ?_
      split
      next he2 =>
        exact ExceptKept.error ((hs.takeToken hst) _ he2)
      · refine iteInduction (fun _ => trivial) fun _ => ?_
        refine iteInduction (fun _ => trivial) fun _ => ?_
        refine iteInduction (fun _ => trivial) fun _ => ?_
        split
        · exact trivial
        · refine iteInduction (fun _ => trivial) fun _ => ?_
          split
          · exact ExceptKept.keep hs.waitRoom
          · exact ExceptKept.ok ⟨hs, hst⟩

theorem PairKept.writeReg {p : State × Strand} {b : Reg × Word} (hp : PairKept M Z p) : PairKept M Z (writeReg p b) := by
  unfold Machine.writeReg
  split
  · exact ⟨hp.1, hp.2.setX⟩
  · exact hp.1.pushPort hp.2
  · exact hp

/-- Ports are popped, and results written, on the state and the strand that goes back to it (R54, R57). -/
theorem PairKept.pops {p : State × Strand} {ks : List Nat} (hp : PairKept M Z p) :
    PairKept M Z (ks.foldl (fun p k => Machine.popPort p.1 p.2 k) p) :=
  foldl_keeps (PairKept M Z) _ (fun _ _ hp => hp.1.popPort hp.2) _ _ hp

theorem PairKept.writes {p : State × Strand} {xs : List (Reg × Word)} (hp : PairKept M Z p) :
    PairKept M Z (xs.foldl Machine.writeReg (p.1, p.2)) :=
  foldl_keeps (PairKept M Z) _ (fun _ _ hp => hp.writeReg) _ _ hp

theorem NoX0.setVs {vs : List (VReg × VWord)} (hst : NoX0 Z st) :
    NoX0 Z (vs.foldl (fun st w => st.setV w.1.val w.2) st) :=
  foldl_keeps (NoX0 Z) _ (fun _ _ hst => hst.setV) _ _ hst

/-- What retires an instruction keeps what its effect kept, trapped or parked or not. -/
theorem DoneKept.retire {u : Uses} {d : Done} (hd : DoneKept M Z d) : Kept M Z (retire cx u d) := by
  unfold Machine.retire
  dsimp only
  have hp : PairKept M Z (d.s, d.st) := hd
  obtain ⟨hs, hst⟩ := (hp.pops (ks := sourcePorts u)).writes (xs := d.xs)
  refine iteInduction (fun _ => hs.endStrand) fun _ => ?_
  split
  · exact (hs.setStrand hst.setVs.frame).takeTrap
  · refine iteInduction (fun _ => (hs.setStrand hst.setVs.frame).takeTrap) fun _ => ?_
    split
    · exact (hs.setStrand hst.setVs.frame).parkIn hst.setVs.frame
    · exact hs.setStrand hst.setVs.frame

theorem Kept.current (hs : Kept M Z s) : OptKept (fun p => NoX0 Z p.st) (current s) := by
  rintro cx he
  unfold Machine.current at he
  dsimp only at he
  split at he
  · cases he
  · next st hst =>
    obtain ⟨-, hcx⟩ := Option.ite_none_right_eq_some.mp he
    cases hcx
    exact hs.strand _ hst

/-- The one gate that instructions pass: where the effect of an instruction keeps, so does its issue. -/
theorem Kept.issue {i : Instr} {uses : Ctx → Uses} {body : Vals → Except Stop Done} (hs : Kept M Z s)
    (hb : ∀ v, ValsKept M Z v → BodyKept M Z (body v)) : OutKept M Z (issue i uses s body) := by
  unfold Machine.issue
  split
  · exact hs.stall
  · next cx hcx =>
    have hst : NoX0 Z cx.st := hs.current _ hcx
    have hg := hs.gate (i := i) (u := uses cx) hst
    split
    · next he => exact hs.stopped hst (hg.stop he)
    · next v he =>
      have hd := hb v (hg.get he)
      split
      · next he => exact hs.stopped hst (hd.stop he)
      · next he => exact DoneKept.retire (hd.get he)

theorem ValsKept.results {xs : List (Reg × Word)} (hv : ValsKept M Z v) : BodyKept M Z (results v xs) := by
  unfold Machine.results
  exact BodyKept.ok hv.state hv.strand

end Sys2Proof.Machine
end

section
/-! O3: what the functions of Sys2Proof.Machine.Order keep. -/

namespace Sys2Proof.Machine

set_option Elab.async false

variable {M Z : Prop} {s t : State} {st st' : Strand} {v : Vals} {cx : Ctx} {α β : Type}

theorem NoX0.begin {a : Access} (hst : NoX0 Z st) : NoX0 Z (Strand.begin st a) := by
  unfold Strand.begin
  exact hst.frame

theorem Kept.reserve {d : Reg} (hs : Kept M Z s) (hst : NoX0 Z st) : TripleKept M Z (reserve s st d) := by
  unfold Machine.reserve
  dsimp only
  split
  · split
    · exact ⟨hs, hst⟩
    · exact ⟨hs, hst.frame⟩
  · exact ⟨(hs.pushPort hst).1, ((hs.pushPort hst).2).frame⟩
  · exact ⟨hs, hst⟩

theorem NoX0.reserveV {v : VReg} (hst : NoX0 Z st) : NoX0 Z (reserveV st v).1 := hst.frame

theorem Kept.fillElem {queue gen seq : Nat} {v : Word} {bad : Bool} (hs : Kept M Z s) :
    Kept M Z (fillElem s queue gen seq v bad) := by
  unfold Machine.fillElem
  split
  · exact hs.setQueue
  · exact hs

theorem Kept.deliver {a : Access} {v : Word} {bad : Bool} (hs : Kept M Z s) (hst : NoX0 Z st) :
    PairKept M Z (deliver s st a v bad) := by
  unfold Machine.deliver
  split
  · exact ⟨hs, hst⟩
  · split
    · exact ⟨hs, hst.frame⟩
    · exact ⟨hs, hst.deliverX⟩
  · exact ⟨hs, hst⟩
  · split
    · exact ⟨hs.fillElem, hst⟩
    · exact ⟨hs, hst⟩

theorem NoX0.deliverV {a : Access} {v : VWord} {bad : Bool} (hst : NoX0 Z st) : NoX0 Z (deliverV st a v bad) := by
  unfold Machine.deliverV
  dsimp only
  split
  · split
    · exact hst.frame
    · exact hst.setV.frame
  · exact hst

end Sys2Proof.Machine
end

section
/-! O3: what the functions of Sys2Proof.Machine.Scalar keep. -/

namespace Sys2Proof.Machine

set_option Elab.async false

variable {M Z : Prop} {s t : State} {st st' : Strand} {v : Vals} {cx : Ctx} {α β : Type}

theorem Kept.compute {i : Instr} {d : Reg} {src : List Reg} {f : (Reg → Word) → Word} (hs : Kept M Z s) :
    OutKept M Z (compute i d src s f) := by
  unfold Machine.compute
  exact hs.issue (fun _ hv => hv.results)

theorem Kept.execAdd {d a b : Reg} (hs : Kept M Z s) : OutKept M Z (execAdd d a b s) := by
  unfold Machine.execAdd
  exact hs.compute

theorem Kept.execSub {d a b : Reg} (hs : Kept M Z s) : OutKept M Z (execSub d a b s) := by
  unfold Machine.execSub
  exact hs.compute

theorem Kept.execAnd {d a b : Reg} (hs : Kept M Z s) : OutKept M Z (execAnd d a b s) := by
  unfold Machine.execAnd
  exact hs.compute

theorem Kept.execOr {d a b : Reg} (hs : Kept M Z s) : OutKept M Z (execOr d a b s) := by
  unfold Machine.execOr
  exact hs.compute

theorem Kept.execXor {d a b : Reg} (hs : Kept M Z s) : OutKept M Z (execXor d a b s) := by
  unfold Machine.execXor
  exact hs.compute

theorem Kept.execAndn {d a b : Reg} (hs : Kept M Z s) : OutKept M Z (execAndn d a b s) := by
  unfold Machine.execAndn
  exact hs.compute

theorem Kept.execSll {d a b : Reg} (hs : Kept M Z s) : OutKept M Z (execSll d a b s) := by
  unfold Machine.execSll
  exact hs.compute

theorem Kept.execSrl {d a b : Reg} (hs : Kept M Z s) : OutKept M Z (execSrl d a b s) := by
  unfold Machine.execSrl
  exact hs.compute

theorem Kept.execSra {d a b : Reg} (hs : Kept M Z s) : OutKept M Z (execSra d a b s) := by
  unfold Machine.execSra
  exact hs.compute

theorem Kept.execRol {d a b : Reg} (hs : Kept M Z s) : OutKept M Z (execRol d a b s) := by
  unfold Machine.execRol
  exact hs.compute

theorem Kept.execMin {d a b : Reg} (hs : Kept M Z s) : OutKept M Z (execMin d a b s) := by
  unfold Machine.execMin
  exact hs.compute

theorem Kept.execMax {d a b : Reg} (hs : Kept M Z s) : OutKept M Z (execMax d a b s) := by
  unfold Machine.execMax
  exact hs.compute

theorem Kept.execMinw {d a b : Reg} (hs : Kept M Z s) : OutKept M Z (execMinw d a b s) := by
  unfold Machine.execMinw
  exact hs.compute

theorem Kept.execMaxw {d a b : Reg} (hs : Kept M Z s) : OutKept M Z (execMaxw d a b s) := by
  unfold Machine.execMaxw
  exact hs.compute

theorem Kept.execMul {d a b : Reg} (hs : Kept M Z s) : OutKept M Z (execMul d a b s) := by
  unfold Machine.execMul
  exact hs.compute

theorem Kept.execMulhs {d a b : Reg} (hs : Kept M Z s) : OutKept M Z (execMulhs d a b s) := by
  unfold Machine.execMulhs
  exact hs.compute

theorem Kept.execMulhw {d a b : Reg} (hs : Kept M Z s) : OutKept M Z (execMulhw d a b s) := by
  unfold Machine.execMulhw
  exact hs.compute

theorem Kept.execDiv {d a b : Reg} (hs : Kept M Z s) : OutKept M Z (execDiv d a b s) := by
  unfold Machine.execDiv
  exact hs.compute

theorem Kept.execDivw {d a b : Reg} (hs : Kept M Z s) : OutKept M Z (execDivw d a b s) := by
  unfold Machine.execDivw
  exact hs.compute

theorem Kept.execRem {d a b : Reg} (hs : Kept M Z s) : OutKept M Z (execRem d a b s) := by
  unfold Machine.execRem
  exact hs.compute

theorem Kept.execRemw {d a b : Reg} (hs : Kept M Z s) : OutKept M Z (execRemw d a b s) := by
  unfold Machine.execRemw
  exact hs.compute

theorem Kept.execClz {d a : Reg} (hs : Kept M Z s) : OutKept M Z (execClz d a s) := by
  unfold Machine.execClz
  exact hs.compute

theorem Kept.execCtz {d a : Reg} (hs : Kept M Z s) : OutKept M Z (execCtz d a s) := by
  unfold Machine.execCtz
  exact hs.compute

theorem Kept.execPopc {d a : Reg} (hs : Kept M Z s) : OutKept M Z (execPopc d a s) := by
  unfold Machine.execPopc
  exact hs.compute

theorem Kept.execBext {d a b : Reg} (hs : Kept M Z s) : OutKept M Z (execBext d a b s) := by
  unfold Machine.execBext
  exact hs.compute

theorem Kept.execBdep {d a b : Reg} (hs : Kept M Z s) : OutKept M Z (execBdep d a b s) := by
  unfold Machine.execBdep
  exact hs.compute

theorem Kept.execMov {d a : Reg} (hs : Kept M Z s) : OutKept M Z (execMov d a s) := by
  unfold Machine.execMov
  exact hs.compute

theorem Kept.execSext {d a : Reg} {n : BitVec 6} (hs : Kept M Z s) : OutKept M Z (execSext d a n s) := by
  unfold Machine.execSext
  exact hs.compute

theorem Kept.execZext {d a : Reg} {n : BitVec 6} (hs : Kept M Z s) : OutKept M Z (execZext d a n s) := by
  unfold Machine.execZext
  exact hs.compute

theorem Kept.execSeq {d a b : Reg} (hs : Kept M Z s) : OutKept M Z (execSeq d a b s) := by
  unfold Machine.execSeq
  exact hs.compute

theorem Kept.execSne {d a b : Reg} (hs : Kept M Z s) : OutKept M Z (execSne d a b s) := by
  unfold Machine.execSne
  exact hs.compute

theorem Kept.execSlt {d a b : Reg} (hs : Kept M Z s) : OutKept M Z (execSlt d a b s) := by
  unfold Machine.execSlt
  exact hs.compute

theorem Kept.execSge {d a b : Reg} (hs : Kept M Z s) : OutKept M Z (execSge d a b s) := by
  unfold Machine.execSge
  exact hs.compute

theorem Kept.execSltw {d a b : Reg} (hs : Kept M Z s) : OutKept M Z (execSltw d a b s) := by
  unfold Machine.execSltw
  exact hs.compute

theorem Kept.execSgew {d a b : Reg} (hs : Kept M Z s) : OutKept M Z (execSgew d a b s) := by
  unfold Machine.execSgew
  exact hs.compute

theorem Kept.execAddi {d a : Reg} {k : BitVec 22} (hs : Kept M Z s) : OutKept M Z (execAddi d a k s) := by
  unfold Machine.execAddi
  exact hs.compute

theorem Kept.execAndi {d a : Reg} {k : BitVec 22} (hs : Kept M Z s) : OutKept M Z (execAndi d a k s) := by
  unfold Machine.execAndi
  exact hs.compute

theorem Kept.execOri {d a : Reg} {k : BitVec 22} (hs : Kept M Z s) : OutKept M Z (execOri d a k s) := by
  unfold Machine.execOri
  exact hs.compute

theorem Kept.execXori {d a : Reg} {k : BitVec 22} (hs : Kept M Z s) : OutKept M Z (execXori d a k s) := by
  unfold Machine.execXori
  exact hs.compute

theorem Kept.execSlli {d a : Reg} {k : BitVec 22} (hs : Kept M Z s) : OutKept M Z (execSlli d a k s) := by
  unfold Machine.execSlli
  exact hs.compute

theorem Kept.execSrli {d a : Reg} {k : BitVec 22} (hs : Kept M Z s) : OutKept M Z (execSrli d a k s) := by
  unfold Machine.execSrli
  exact hs.compute

theorem Kept.execSrai {d a : Reg} {k : BitVec 22} (hs : Kept M Z s) : OutKept M Z (execSrai d a k s) := by
  unfold Machine.execSrai
  exact hs.compute

theorem Kept.execRoli {d a : Reg} {k : BitVec 22} (hs : Kept M Z s) : OutKept M Z (execRoli d a k s) := by
  unfold Machine.execRoli
  exact hs.compute

theorem Kept.execMini {d a : Reg} {k : BitVec 22} (hs : Kept M Z s) : OutKept M Z (execMini d a k s) := by
  unfold Machine.execMini
  exact hs.compute

theorem Kept.execMaxi {d a : Reg} {k : BitVec 22} (hs : Kept M Z s) : OutKept M Z (execMaxi d a k s) := by
  unfold Machine.execMaxi
  exact hs.compute

theorem Kept.execSlti {d a : Reg} {k : BitVec 22} (hs : Kept M Z s) : OutKept M Z (execSlti d a k s) := by
  unfold Machine.execSlti
  exact hs.compute

theorem Kept.execSeqi {d a : Reg} {k : BitVec 22} (hs : Kept M Z s) : OutKept M Z (execSeqi d a k s) := by
  unfold Machine.execSeqi
  exact hs.compute

theorem Kept.execLi {d : Reg} {k : BitVec 22} (hs : Kept M Z s) : OutKept M Z (execLi d k s) := by
  unfold Machine.execLi
  exact hs.compute

theorem Kept.execLi32 {d : Reg} {k : BitVec 32} (hs : Kept M Z s) : OutKept M Z (execLi32 d k s) := by
  unfold Machine.execLi32
  exact hs.compute

theorem Kept.execLih {d a : Reg} {k : BitVec 32} (hs : Kept M Z s) : OutKept M Z (execLih d a k s) := by
  unfold Machine.execLih
  exact hs.compute

theorem Kept.execLea {d : Reg} {m : MemRef} (hs : Kept M Z s) : OutKept M Z (execLea d m s) := by
  unfold Machine.execLea
  exact hs.compute

theorem Kept.execSel {d c a b : Reg} (hs : Kept M Z s) : OutKept M Z (execSel d c a b s) := by
  unfold Machine.execSel
  exact hs.compute

end Sys2Proof.Machine
end

section
/-! O3: what the functions of Sys2Proof.Machine.Float keep. -/

namespace Sys2Proof.Machine

set_option Elab.async false

variable {M Z : Prop} {s t : State} {st st' : Strand} {v : Vals} {cx : Ctx} {α β : Type}

theorem NoX0.finish {a : Access} (hst : NoX0 Z st) : NoX0 Z (Strand.finish st a) := by
  unfold Strand.finish
  exact hst.frame

end Sys2Proof.Machine
end

section
/-! O3: what the functions of Sys2Proof.Machine.Vector keep. -/

namespace Sys2Proof.Machine

set_option Elab.async false

variable {M Z : Prop} {s t : State} {st st' : Strand} {v : Vals} {cx : Ctx} {α β : Type}

theorem Kept.vectorOp {i : Instr} {vd : VReg} {vsrc : List VReg} {src : List Reg} {rm : Rnd} {f : Vals → Rnd → VWord × Nat}
    (hs : Kept M Z s) : OutKept M Z (vectorOp i vd vsrc src rm s f) := by
  unfold Machine.vectorOp
  dsimp only
  exact hs.issue (fun _ hv => BodyKept.ok hv.state hv.strand)

theorem Kept.scalarOp {i : Instr} {d : Reg} {vsrc : List VReg} {src : List Reg} {rm : Rnd} {f : Vals → Rnd → Word × Nat}
    (hs : Kept M Z s) : OutKept M Z (scalarOp i d vsrc src rm s f) := by
  unfold Machine.scalarOp
  dsimp only
  exact hs.issue (fun _ hv => BodyKept.ok hv.state hv.strand)

theorem Kept.lanes2 {i : Instr} {vd va vb : VReg} {m : Reg} {t : ElemTy} {rm : Rnd} {f : Rnd → Nat → Nat → Nat → Nat × Nat}
    (hs : Kept M Z s) : OutKept M Z (lanes2 i vd va vb m t rm s f) := by
  unfold Machine.lanes2
  dsimp only
  exact hs.vectorOp

theorem Kept.lanes1 {i : Instr} {vd va : VReg} {m : Reg} {t : ElemTy} {rm : Rnd} {f : Rnd → Nat → Nat → Nat × Nat}
    (hs : Kept M Z s) : OutKept M Z (lanes1 i vd va m t rm s f) := by
  unfold Machine.lanes1
  dsimp only
  exact hs.vectorOp

theorem Kept.lanes3 {i : Instr} {vd va vb vc : VReg} {m : Reg} {t : ElemTy} {rm : Rnd}
    {f : Rnd → Nat → Nat → Nat → Nat → Nat × Nat} (hs : Kept M Z s) : OutKept M Z (lanes3 i vd va vb vc m t rm s f) := by
  unfold Machine.lanes3
  dsimp only
  exact hs.vectorOp

theorem Kept.compare {i : Instr} {d : Reg} {va vb : VReg} {m : Reg} {t : ElemTy} {p : Option ℤ → Bool} (hs : Kept M Z s) :
    OutKept M Z (compare i d va vb m t s p) := by
  unfold Machine.compare
  dsimp only
  exact hs.scalarOp

theorem Kept.reduce {i : Instr} {d : Reg} {va : VReg} {m : Reg} {t : ElemTy} {rm : Rnd} {ident : Nat} {pre : Nat → Nat}
    {op : Rnd → Nat → Nat → Nat → Nat × Nat} {ext : Nat → Word} (hs : Kept M Z s) :
    OutKept M Z (reduce i d va m t rm ident s pre op ext) := by
  unfold Machine.reduce
  dsimp only
  exact hs.scalarOp

theorem Kept.execVadd {vd va vb : VReg} {m : Reg} {t : ElemTy} {rm : Rnd} (hs : Kept M Z s) :
    OutKept M Z (execVadd vd va vb m t rm s) := by
  unfold Machine.execVadd
  exact hs.lanes2

theorem Kept.execVsub {vd va vb : VReg} {m : Reg} {t : ElemTy} {rm : Rnd} (hs : Kept M Z s) :
    OutKept M Z (execVsub vd va vb m t rm s) := by
  unfold Machine.execVsub
  exact hs.lanes2

theorem Kept.execVmul {vd va vb : VReg} {m : Reg} {t : ElemTy} {rm : Rnd} (hs : Kept M Z s) :
    OutKept M Z (execVmul vd va vb m t rm s) := by
  unfold Machine.execVmul
  exact hs.lanes2

theorem Kept.execVmin {vd va vb : VReg} {m : Reg} {t : ElemTy} (hs : Kept M Z s) : OutKept M Z (execVmin vd va vb m t s) := by
  unfold Machine.execVmin
  exact hs.lanes2

theorem Kept.execVmax {vd va vb : VReg} {m : Reg} {t : ElemTy} (hs : Kept M Z s) : OutKept M Z (execVmax vd va vb m t s) := by
  unfold Machine.execVmax
  exact hs.lanes2

theorem Kept.execVadds {vd va vb : VReg} {m : Reg} {t : ElemTy} (hs : Kept M Z s) : OutKept M Z (execVadds vd va vb m t s) := by
  unfold Machine.execVadds
  exact hs.lanes2

theorem Kept.execVsubs {vd va vb : VReg} {m : Reg} {t : ElemTy} (hs : Kept M Z s) : OutKept M Z (execVsubs vd va vb m t s) := by
  unfold Machine.execVsubs
  exact hs.lanes2

theorem Kept.execVabs {vd va : VReg} {m : Reg} {t : ElemTy} (hs : Kept M Z s) : OutKept M Z (execVabs vd va m t s) := by
  unfold Machine.execVabs
  exact hs.lanes1

theorem Kept.execVneg {vd va : VReg} {m : Reg} {t : ElemTy} (hs : Kept M Z s) : OutKept M Z (execVneg vd va m t s) := by
  unfold Machine.execVneg
  exact hs.lanes1

theorem Kept.execVfma {vd va vb vc : VReg} {m : Reg} {t : ElemTy} {rm : Rnd} (hs : Kept M Z s) :
    OutKept M Z (execVfma vd va vb vc m t rm s) := by
  unfold Machine.execVfma
  exact hs.lanes3

theorem Kept.execVfms {vd va vb vc : VReg} {m : Reg} {t : ElemTy} {rm : Rnd} (hs : Kept M Z s) :
    OutKept M Z (execVfms vd va vb vc m t rm s) := by
  unfold Machine.execVfms
  exact hs.lanes3

theorem Kept.execVand {vd va vb : VReg} {m : Reg} {t : ElemTy} (hs : Kept M Z s) : OutKept M Z (execVand vd va vb m t s) := by
  unfold Machine.execVand
  exact hs.lanes2

theorem Kept.execVor {vd va vb : VReg} {m : Reg} {t : ElemTy} (hs : Kept M Z s) : OutKept M Z (execVor vd va vb m t s) := by
  unfold Machine.execVor
  exact hs.lanes2

theorem Kept.execVxor {vd va vb : VReg} {m : Reg} {t : ElemTy} (hs : Kept M Z s) : OutKept M Z (execVxor vd va vb m t s) := by
  unfold Machine.execVxor
  exact hs.lanes2

theorem Kept.execVandn {vd va vb : VReg} {m : Reg} {t : ElemTy} (hs : Kept M Z s) : OutKept M Z (execVandn vd va vb m t s) := by
  unfold Machine.execVandn
  exact hs.lanes2

theorem Kept.execVsll {vd va vb : VReg} {m : Reg} {t : ElemTy} (hs : Kept M Z s) : OutKept M Z (execVsll vd va vb m t s) := by
  unfold Machine.execVsll
  exact hs.lanes2

theorem Kept.execVsrl {vd va vb : VReg} {m : Reg} {t : ElemTy} (hs : Kept M Z s) : OutKept M Z (execVsrl vd va vb m t s) := by
  unfold Machine.execVsrl
  exact hs.lanes2

theorem Kept.execVsra {vd va vb : VReg} {m : Reg} {t : ElemTy} (hs : Kept M Z s) : OutKept M Z (execVsra vd va vb m t s) := by
  unfold Machine.execVsra
  exact hs.lanes2

theorem Kept.execVcmpeq {d : Reg} {va vb : VReg} {m : Reg} {t : ElemTy} (hs : Kept M Z s) :
    OutKept M Z (execVcmpeq d va vb m t s) := by
  unfold Machine.execVcmpeq
  exact hs.compare

theorem Kept.execVcmpne {d : Reg} {va vb : VReg} {m : Reg} {t : ElemTy} (hs : Kept M Z s) :
    OutKept M Z (execVcmpne d va vb m t s) := by
  unfold Machine.execVcmpne
  exact hs.compare

theorem Kept.execVcmplt {d : Reg} {va vb : VReg} {m : Reg} {t : ElemTy} (hs : Kept M Z s) :
    OutKept M Z (execVcmplt d va vb m t s) := by
  unfold Machine.execVcmplt
  exact hs.compare

theorem Kept.execVcmple {d : Reg} {va vb : VReg} {m : Reg} {t : ElemTy} (hs : Kept M Z s) :
    OutKept M Z (execVcmple d va vb m t s) := by
  unfold Machine.execVcmple
  exact hs.compare

theorem Kept.execVcmpgt {d : Reg} {va vb : VReg} {m : Reg} {t : ElemTy} (hs : Kept M Z s) :
    OutKept M Z (execVcmpgt d va vb m t s) := by
  unfold Machine.execVcmpgt
  exact hs.compare

theorem Kept.execVcmpge {d : Reg} {va vb : VReg} {m : Reg} {t : ElemTy} (hs : Kept M Z s) :
    OutKept M Z (execVcmpge d va vb m t s) := by
  unfold Machine.execVcmpge
  exact hs.compare

theorem Kept.execVcmpun {d : Reg} {va vb : VReg} {m : Reg} {t : ElemTy} (hs : Kept M Z s) :
    OutKept M Z (execVcmpun d va vb m t s) := by
  unfold Machine.execVcmpun
  exact hs.compare

theorem Kept.execVsel {vd va vb : VReg} {m : Reg} {t : ElemTy} (hs : Kept M Z s) : OutKept M Z (execVsel vd va vb m t s) := by
  unfold Machine.execVsel
  dsimp only
  exact hs.vectorOp

theorem Kept.execVmov {vd va : VReg} {m : Reg} {t : ElemTy} (hs : Kept M Z s) : OutKept M Z (execVmov vd va m t s) := by
  unfold Machine.execVmov
  exact hs.lanes1

theorem Kept.execVbcast {vd : VReg} {xs m : Reg} {t : ElemTy} (hs : Kept M Z s) : OutKept M Z (execVbcast vd xs m t s) := by
  unfold Machine.execVbcast
  exact hs.vectorOp

theorem Kept.execVextr {d : Reg} {va : VReg} {xi : Reg} {t : ElemTy} (hs : Kept M Z s) : OutKept M Z (execVextr d va xi t s) := by
  unfold Machine.execVextr
  exact hs.scalarOp

theorem Kept.execVins {vd : VReg} {xs xi : Reg} {t : ElemTy} (hs : Kept M Z s) : OutKept M Z (execVins vd xs xi t s) := by
  unfold Machine.execVins
  exact hs.vectorOp

theorem Kept.execVperm {vd va vb : VReg} {m : Reg} {t : ElemTy} (hs : Kept M Z s) : OutKept M Z (execVperm vd va vb m t s) := by
  unfold Machine.execVperm
  dsimp only
  exact hs.vectorOp

theorem Kept.execVcompress {vd va : VReg} {m : Reg} {t : ElemTy} (hs : Kept M Z s) : OutKept M Z (execVcompress vd va m t s) := by
  unfold Machine.execVcompress
  dsimp only
  exact hs.vectorOp

theorem Kept.execVexpand {vd va : VReg} {m : Reg} {t : ElemTy} (hs : Kept M Z s) : OutKept M Z (execVexpand vd va m t s) := by
  unfold Machine.execVexpand
  dsimp only
  exact hs.vectorOp

theorem Kept.execVredsum {d : Reg} {va : VReg} {m : Reg} {t : ElemTy} {rm : Rnd} (hs : Kept M Z s) :
    OutKept M Z (execVredsum d va m t rm s) := by
  unfold Machine.execVredsum
  exact hs.reduce

theorem Kept.execVredmax {d : Reg} {va : VReg} {m : Reg} {t : ElemTy} (hs : Kept M Z s) :
    OutKept M Z (execVredmax d va m t s) := by
  unfold Machine.execVredmax
  exact hs.reduce

theorem Kept.execVredmin {d : Reg} {va : VReg} {m : Reg} {t : ElemTy} (hs : Kept M Z s) :
    OutKept M Z (execVredmin d va m t s) := by
  unfold Machine.execVredmin
  exact hs.reduce

theorem Kept.execVamax {d : Reg} {va : VReg} {m : Reg} {t : ElemTy} (hs : Kept M Z s) : OutKept M Z (execVamax d va m t s) := by
  unfold Machine.execVamax
  exact hs.reduce

theorem Kept.execVscan {vd va : VReg} {m : Reg} {t : ElemTy} {rm : Rnd} {op : BitVec 2} (hs : Kept M Z s) :
    OutKept M Z (execVscan vd va m t rm op s) := by
  unfold Machine.execVscan
  dsimp only
  exact hs.vectorOp

theorem Kept.execVdiv {vd va vb : VReg} {m : Reg} {t : ElemTy} {rm : Rnd} (hs : Kept M Z s) :
    OutKept M Z (execVdiv vd va vb m t rm s) := by
  unfold Machine.execVdiv
  exact hs.lanes2

theorem Kept.execVsqrt {vd va : VReg} {m : Reg} {t : ElemTy} {rm : Rnd} (hs : Kept M Z s) :
    OutKept M Z (execVsqrt vd va m t rm s) := by
  unfold Machine.execVsqrt
  exact hs.lanes1

theorem Kept.execVrsq {vd va : VReg} {m : Reg} {t : ElemTy} {rm : Rnd} (hs : Kept M Z s) :
    OutKept M Z (execVrsq vd va m t rm s) := by
  unfold Machine.execVrsq
  exact hs.lanes1

theorem Kept.execVrcp {vd va : VReg} {m : Reg} {t : ElemTy} {rm : Rnd} (hs : Kept M Z s) :
    OutKept M Z (execVrcp vd va m t rm s) := by
  unfold Machine.execVrcp
  exact hs.lanes1

theorem Kept.execVexp2 {vd va : VReg} {m : Reg} {t : ElemTy} {rm : Rnd} (hs : Kept M Z s) :
    OutKept M Z (execVexp2 vd va m t rm s) := by
  unfold Machine.execVexp2
  exact hs.lanes1

theorem Kept.execVlog2 {vd va : VReg} {m : Reg} {t : ElemTy} {rm : Rnd} (hs : Kept M Z s) :
    OutKept M Z (execVlog2 vd va m t rm s) := by
  unfold Machine.execVlog2
  exact hs.lanes1

theorem Kept.execVcvt {vd va : VReg} {m : Reg} {t : ElemTy} {rm : Rnd} {st : ElemTy} {part : BitVec 4} {sat : Bool}
    (hs : Kept M Z s) : OutKept M Z (execVcvt vd va m t rm st part sat s) := by
  unfold Machine.execVcvt
  exact hs.vectorOp

theorem Kept.execVpackmx {vd va : VReg} {xs m : Reg} {t : ElemTy} {rm : Rnd} {st : ElemTy} {part : BitVec 4} {sat : Bool}
    (hs : Kept M Z s) : OutKept M Z (execVpackmx vd va xs m t rm st part sat s) := by
  unfold Machine.execVpackmx
  dsimp only
  exact hs.vectorOp

theorem Kept.execVunpackmx {vd va : VReg} {xs m : Reg} {t : ElemTy} {rm : Rnd} {st : ElemTy} {part : BitVec 4}
    (hs : Kept M Z s) : OutKept M Z (execVunpackmx vd va xs m t rm st part s) := by
  unfold Machine.execVunpackmx
  dsimp only
  exact hs.vectorOp

theorem Kept.execVnzx {qi : Reg} {va : VReg} {qv xb m : Reg} {t : ElemTy} (hs : Kept M Z s) :
    OutKept M Z (execVnzx qi va qv xb m t s) := by
  unfold Machine.execVnzx
  dsimp only
  refine hs.issue fun v hv => ?_
  refine iteInduction (fun _ => trivial) fun _ => ?_
  split
  · exact ExceptKept.keep hv.state.waitRoom
  · refine BodyKept.ok ?_ (NoX0.frame ?_)
    · split
      · exact (foldl_keeps (PairKept M Z) _ (fun _ _ hb => hb.1.pushPort hb.2) _ _ ⟨hv.state, hv.strand⟩).1
      · exact (foldl_keeps (PairKept M Z) _ (fun _ _ hb => hb.1.pushPort hb.2) _ _
            (foldl_keeps (PairKept M Z) _ (fun _ _ hb => hb.1.pushPort hb.2) _ _ ⟨hv.state, hv.strand⟩)).1
    · split
      · exact (foldl_keeps (PairKept M Z) _ (fun _ _ hb => hb.1.pushPort hb.2) _ _ ⟨hv.state, hv.strand⟩).2
      · exact (foldl_keeps (PairKept M Z) _ (fun _ _ hb => hb.1.pushPort hb.2) _ _
            (foldl_keeps (PairKept M Z) _ (fun _ _ hb => hb.1.pushPort hb.2) _ _ ⟨hv.state, hv.strand⟩)).2

end Sys2Proof.Machine
end

section
/-! O3: what the functions of Sys2Proof.Machine.Memory keep. -/

namespace Sys2Proof.Machine

set_option Elab.async false

variable {M Z : Prop} {s t : State} {st st' : Strand} {v : Vals} {cx : Ctx} {α β : Type}

theorem NoX0.countLd (hst : NoX0 Z st) : OptKept (NoX0 Z) (countLd st) := by
  unfold Machine.countLd
  split
  · exact OptKept.some hst.frame
  · exact OptKept.none

theorem NoX0.countSt (hst : NoX0 Z st) : OptKept (NoX0 Z) (countSt st) := by
  unfold Machine.countSt
  split
  · exact OptKept.some hst.frame
  · exact OptKept.none

theorem NoX0.countRemote (hst : NoX0 Z st) : OptKept (NoX0 Z) (countRemote st) := by
  unfold Machine.countRemote
  split
  · exact OptKept.some hst.frame
  · exact OptKept.none

theorem Kept.touchEnds {core : Nat} {a : Word} {n : Nat} (hs : Kept M Z s) : Kept M Z (touchEnds s core a n) := by
  unfold Machine.touchEnds
  exact hs.touch.touch

theorem ValsKept.loadAt {d : Reg} {a : Word} {n : Nat} {signed : Bool} {ord : Ord} {scope : Scope} (hv : ValsKept M Z v) :
    BodyKept M Z (loadAt v d a n signed ord scope) := by
  unfold Machine.loadAt
  split
  · exact trivial
  next he =>
    refine iteInduction (fun _ => trivial) fun _ => ?_
    split
    · exact ExceptKept.error kept_Fail_stop
    · exact BodyKept.ok (hv.state.touchEnds.reserve (hv.strand.countLd _ he)).1
        (hv.state.touchEnds.reserve (hv.strand.countLd _ he)).2.begin

theorem ValsKept.storeAt {a : Word} {n val : Nat} {ord : Ord} {scope : Scope} (hv : ValsKept M Z v) :
    BodyKept M Z (storeAt v a n val ord scope) := by
  unfold Machine.storeAt
  dsimp only
  split
  · exact trivial
  next he =>
    refine iteInduction (fun _ => trivial) fun _ => ?_
    split
    · exact ExceptKept.error kept_Fail_stop
    · exact BodyKept.ok hv.state.touchEnds ((hv.strand.countSt _ he).begin)

theorem ValsKept.loadVecAt {vd : VReg} {a : Word} {chunk : Nat} {spans : List (Word × Nat)} {reads : List (Nat × Nat)}
    (hv : ValsKept M Z v) (hs : Kept M Z s) : BodyKept M Z (loadVecAt v s vd a chunk spans reads) := by
  unfold Machine.loadVecAt reserveV
  dsimp only
  split
  · exact trivial
  next he =>
    exact BodyKept.ok hs (((hv.strand.countLd _ he).frame).begin)

theorem Kept.touchAll {core n : Nat} {as : List (Nat × Word)} (hs : Kept M Z s) : Kept M Z (touchAll s core n as) := by
  unfold Machine.touchAll
  exact foldl_keeps (Kept M Z) _ (fun _ _ ht => ht.touchEnds) _ _ hs

theorem ValsKept.loadElements {vd : VReg} {t : ElemTy} {as : List (Nat × Word)} (hv : ValsKept M Z v) :
    BodyKept M Z (loadElements v vd t as) := by
  unfold Machine.loadElements
  dsimp only
  split
  · exact ExceptKept.error kept_Fail_stop
  · exact hv.loadVecAt hv.state.touchAll

theorem ValsKept.storeLanes {n : Nat} {val : Nat → Nat} {as : List (Nat × Word)} (hv : ValsKept M Z v) :
    BodyKept M Z (storeLanes v n val as) := by
  unfold Machine.storeLanes
  dsimp only
  split
  · exact trivial
  next he =>
    split
    · exact ExceptKept.error kept_Fail_stop
    · exact BodyKept.ok hv.state.touchAll ((hv.strand.countSt _ he).begin)

theorem ValsKept.storeElements {vs : VReg} {t : ElemTy} {as : List (Nat × Word)} (hv : ValsKept M Z v) :
    BodyKept M Z (storeElements v vs t as) := by
  unfold Machine.storeElements
  exact hv.storeLanes

theorem kept_spadLoad {o n mode : Nat} : ExceptKept M Z (fun _ => True) (spadLoad v o n mode) := by
  unfold Machine.spadLoad
  dsimp only
  refine iteInduction (fun _ => trivial) fun _ => ?_
  split
  · exact trivial
  · exact trivial

theorem ValsKept.spadStore {o n mode val : Nat} (hv : ValsKept M Z v) : BodyKept M Z (spadStore v o n mode val) := by
  unfold Machine.spadStore
  dsimp only
  refine iteInduction (fun _ => trivial) fun _ => ?_
  split
  · exact trivial
  · exact BodyKept.ok hv.state.setCore hv.strand

theorem Kept.atomic {i : Instr} {op : AmoOp} {d a b : Reg} {md : AmoMod} (hs : Kept M Z s) :
    OutKept M Z (atomic i op d a b md s) := by
  refine hs.issue fun v hv => ?_
  dsimp only
  split
  · exact trivial
  next he =>
    refine iteInduction (fun _ => trivial) fun _ => ?_
    split
    · exact ExceptKept.error kept_Fail_stop
    · exact BodyKept.ok (hv.state.touchEnds.reserve (hv.strand.countSt _ he)).1
        (hv.state.touchEnds.reserve (hv.strand.countSt _ he)).2.begin

theorem Kept.execLoad {d : Reg} {m : MemRef} {sz : BitVec 2} (hs : Kept M Z s) : OutKept M Z (execLoad d m sz s) := by
  unfold Machine.execLoad
  exact hs.issue (fun _ hv => hv.loadAt)

theorem Kept.execLoadSigned {d : Reg} {m : MemRef} {sz : BitVec 2} (hs : Kept M Z s) : OutKept M Z (execLoadSigned d m sz s) := by
  unfold Machine.execLoadSigned
  exact hs.issue (fun _ hv => hv.loadAt)

theorem Kept.execLda {d : Reg} {m : MemRef} {scope : Scope} {sz : BitVec 2} (hs : Kept M Z s) :
    OutKept M Z (execLda d m scope sz s) := by
  unfold Machine.execLda
  exact hs.issue (fun _ hv => hv.loadAt)

theorem Kept.execStore {r0 : Reg} {m : MemRef} {sz : BitVec 2} (hs : Kept M Z s) : OutKept M Z (execStore r0 m sz s) := by
  unfold Machine.execStore
  exact hs.issue (fun _ hv => hv.storeAt)

theorem Kept.execStl {r0 : Reg} {m : MemRef} {scope : Scope} {sz : BitVec 2} (hs : Kept M Z s) :
    OutKept M Z (execStl r0 m scope sz s) := by
  unfold Machine.execStl
  exact hs.issue (fun _ hv => hv.storeAt)

theorem Kept.execLdv {vd : VReg} {m : MemRef} (hs : Kept M Z s) : OutKept M Z (execLdv vd m s) := by
  unfold Machine.execLdv
  dsimp only
  refine hs.issue fun v hv => ?_
  split
  · exact ExceptKept.error kept_Fail_stop
  · exact hv.loadVecAt hv.state.touchEnds

theorem Kept.execStv {vs : VReg} {m : MemRef} (hs : Kept M Z s) : OutKept M Z (execStv vs m s) := by
  unfold Machine.execStv
  exact hs.issue (fun _ hv => hv.storeAt)

theorem Kept.execLdvs {vd : VReg} {base stride m : Reg} {t : ElemTy} (hs : Kept M Z s) :
    OutKept M Z (execLdvs vd base stride m t s) := by
  unfold Machine.execLdvs
  exact hs.issue (fun _ hv => hv.loadElements)

theorem Kept.execStvs {vs : VReg} {base stride m : Reg} {t : ElemTy} (hs : Kept M Z s) :
    OutKept M Z (execStvs vs base stride m t s) := by
  unfold Machine.execStvs
  exact hs.issue (fun _ hv => hv.storeElements)

theorem Kept.execLdvx {vd : VReg} {base : Reg} {vi : VReg} {m : Reg} {t : ElemTy} {sc : BitVec 2} (hs : Kept M Z s) :
    OutKept M Z (execLdvx vd base vi m t sc s) := by
  unfold Machine.execLdvx
  exact hs.issue (fun _ hv => hv.loadElements)

theorem Kept.execStvx {vs : VReg} {base : Reg} {vi : VReg} {m : Reg} {t : ElemTy} {sc : BitVec 2} (hs : Kept M Z s) :
    OutKept M Z (execStvx vs base vi m t sc s) := by
  unfold Machine.execStvx
  exact hs.issue (fun _ hv => hv.storeElements)

theorem Kept.execSld {d : Reg} {sgn : Bool} {m : MemRef} {swz sz : BitVec 2} (hs : Kept M Z s) :
    OutKept M Z (execSld d sgn m swz sz s) := by
  unfold Machine.execSld
  refine hs.issue fun v hv => ?_
  split
  next he =>
    exact ExceptKept.error (kept_spadLoad.stop he)
  · exact hv.results

theorem Kept.execSldRec {d : Reg} {sgn : Bool} {m : MemRef} {sz : BitVec 2} (hs : Kept M Z s) :
    OutKept M Z (execSldRec d sgn m sz s) := by
  unfold Machine.execSldRec
  refine hs.issue fun v hv => ?_
  split
  · exact trivial
  · exact hv.results

theorem Kept.execSst {r0 : Reg} {m : MemRef} {swz sz : BitVec 2} (hs : Kept M Z s) : OutKept M Z (execSst r0 m swz sz s) := by
  unfold Machine.execSst
  exact hs.issue (fun _ hv => hv.spadStore)

theorem Kept.execSldv {vd : VReg} {m : MemRef} {swz : BitVec 2} (hs : Kept M Z s) : OutKept M Z (execSldv vd m swz s) := by
  unfold Machine.execSldv
  refine hs.issue fun v hv => ?_
  split
  next he =>
    exact ExceptKept.error (kept_spadLoad.stop he)
  · exact BodyKept.ok hv.state hv.strand

theorem Kept.execSstv {vs : VReg} {m : MemRef} {swz : BitVec 2} (hs : Kept M Z s) : OutKept M Z (execSstv vs m swz s) := by
  unfold Machine.execSstv
  exact hs.issue (fun _ hv => hv.spadStore)

theorem Kept.execAmoadd {d a b : Reg} {md : AmoMod} (hs : Kept M Z s) : OutKept M Z (execAmoadd d a b md s) := by
  unfold Machine.execAmoadd
  exact hs.atomic

theorem Kept.execAmoand {d a b : Reg} {md : AmoMod} (hs : Kept M Z s) : OutKept M Z (execAmoand d a b md s) := by
  unfold Machine.execAmoand
  exact hs.atomic

theorem Kept.execAmoor {d a b : Reg} {md : AmoMod} (hs : Kept M Z s) : OutKept M Z (execAmoor d a b md s) := by
  unfold Machine.execAmoor
  exact hs.atomic

theorem Kept.execAmoxor {d a b : Reg} {md : AmoMod} (hs : Kept M Z s) : OutKept M Z (execAmoxor d a b md s) := by
  unfold Machine.execAmoxor
  exact hs.atomic

theorem Kept.execAmomin {d a b : Reg} {md : AmoMod} (hs : Kept M Z s) : OutKept M Z (execAmomin d a b md s) := by
  unfold Machine.execAmomin
  exact hs.atomic

theorem Kept.execAmomax {d a b : Reg} {md : AmoMod} (hs : Kept M Z s) : OutKept M Z (execAmomax d a b md s) := by
  unfold Machine.execAmomax
  exact hs.atomic

theorem Kept.execAmominw {d a b : Reg} {md : AmoMod} (hs : Kept M Z s) : OutKept M Z (execAmominw d a b md s) := by
  unfold Machine.execAmominw
  exact hs.atomic

theorem Kept.execAmomaxw {d a b : Reg} {md : AmoMod} (hs : Kept M Z s) : OutKept M Z (execAmomaxw d a b md s) := by
  unfold Machine.execAmomaxw
  exact hs.atomic

theorem Kept.execAmoswap {d a b : Reg} {md : AmoMod} (hs : Kept M Z s) : OutKept M Z (execAmoswap d a b md s) := by
  unfold Machine.execAmoswap
  exact hs.atomic

theorem Kept.execAmocas {d a b : Reg} {md : AmoMod} (hs : Kept M Z s) : OutKept M Z (execAmocas d a b md s) := by
  unfold Machine.execAmocas
  exact hs.atomic

theorem Kept.execAmofadd {d a b : Reg} {md : AmoMod} (hs : Kept M Z s) : OutKept M Z (execAmofadd d a b md s) := by
  unfold Machine.execAmofadd
  exact hs.atomic

theorem Kept.execFence {scope : Scope} {ord : Ord} (hs : Kept M Z s) : OutKept M Z (execFence scope ord s) := by
  unfold Machine.execFence
  dsimp only
  refine hs.issue fun v hv => ?_
  refine iteInduction (fun _ => trivial) fun _ => ?_
  split
  · exact trivial
  · exact hv.results

theorem Kept.execPref {level : Bool} {m : MemRef} (hs : Kept M Z s) : OutKept M Z (execPref level m s) := by
  unfold Machine.execPref
  exact hs.issue (fun _ hv => hv.results)

end Sys2Proof.Machine
end

section
/-! O3: what the functions of Sys2Proof.Machine.Volumes keep. -/

namespace Sys2Proof.Machine

set_option Elab.async false

variable {M Z : Prop} {s t : State} {st st' : Strand} {v : Vals} {cx : Ctx} {α β : Type}

theorem Kept.setPool {p lost cap top : Nat} (hs : Kept M Z s) : Kept M Z (setPool s p lost cap top) := by
  unfold Machine.setPool
  exact hs.physWrite

theorem Kept.poolPop {p : Nat} (hs : Kept M Z s) : OptKept (fun p => SndKept M Z p) (poolPop s p) := by
  unfold Machine.poolPop
  dsimp only
  split
  · exact OptKept.none
  · exact OptKept.some hs.setPool

theorem Kept.poolPush {p tile : Nat} (hs : Kept M Z s) : Kept M Z (poolPush s p tile) := by
  unfold Machine.poolPush
  dsimp only
  refine iteInduction (fun _ => hs) fun _ => ?_
  split
  · exact hs.setPool
  · exact hs.physWrite.setPool

theorem Kept.takeTile {die oid : Nat} {d : Volume} {slot : Nat} {leaf : Bool} (hs : Kept M Z s) :
    (∀ t w, takeTile s die oid d slot leaf = .ok (t, w) → Kept M Z t) ∧
      ∀ c t, takeTile s die oid d slot leaf = .error (c, t) → Kept M Z t := by
  unfold Machine.takeTile
  constructor
  · intro t w he
    split at he
    · cases he
    · split at he
      · cases he
      · split at he
        · cases he
        next hp =>
          split at he
          · cases he
          · cases he
            exact ((hs.poolPop _ hp).of_eq rfl).physWrite
  · intro c t he
    split at he
    · cases he; exact hs
    · split at he
      · cases he; exact hs
      · split at he
        · cases he; exact hs
        next hp =>
          split at he
          · cases he
            exact (hs.poolPop _ hp).of_eq rfl
          · cases he

theorem Kept.publish {die slot tile pool : Nat} (hs : Kept M Z s) : Kept M Z (publish s die slot tile pool) := by
  unfold Machine.publish
  split
  · exact hs.physWrite
  · exact hs.poolPush

theorem kept_volumePoison {value : Word} : StopKept M Z (volumePoison value) := by
  unfold Machine.volumePoison
  exact trivial

theorem kept_volumeOf {h c : Word} {write : Bool} {value : Word} :
    ExceptKept M Z (fun _ => True) (volumeOf v h c write value) := by
  unfold Machine.volumeOf
  refine iteInduction (fun _ => trivial) fun _ => iteInduction (fun _ => trivial) fun _ => ?_
  split
  · exact trivial
  · exact trivial
  next e _ =>
    refine iteInduction (fun _ => trivial) fun _ => ?_
    split
    · exact trivial
    · refine iteInduction (fun _ => trivial) fun _ => iteInduction (fun _ => ?_) fun _ => ?_
      · unfold volumePoison; exact trivial
      · dsimp only
        generalize readVolume v.s e.pbase = d
        refine iteInduction (fun _ => ExceptKept.error trivial) fun _ => ?_
        exact iteInduction (fun _ => ExceptKept.error trivial) fun _ => ExceptKept.ok trivial

theorem ValsKept.touched {h : Word} (hv : ValsKept M Z v) : ValsKept M Z (Vals.touched v h) := by
  unfold Vals.touched
  exact ⟨hv.state.touch, hv.strand⟩

theorem Kept.clbFill {core oid key tile : Nat} (hs : Kept M Z s) : Kept M Z (clbFill s core oid key tile) := by
  unfold Machine.clbFill
  dsimp only
  split
  · exact hs
  · exact hs.setCore.frame

theorem kept_walkTrap {poisoned : Bool} {c : Word} : StopKept M Z (walkTrap poisoned c) := by
  unfold Machine.walkTrap
  split
  · exact kept_volumePoison
  · exact trivial

theorem ValsKept.tileForLoad {oid : Nat} {d : Volume} {c : Word} (hv : ValsKept M Z v) :
    ExceptKept M Z (fun p => OptKept (fun p => SndKept M Z p) p) (tileForLoad v oid d c) := by
  unfold Machine.tileForLoad
  dsimp only
  split
  · exact ExceptKept.ok (OptKept.some hv.state)
  · split
    · exact ExceptKept.error kept_walkTrap
    · exact ExceptKept.error kept_walkTrap
    · exact trivial
    · exact ExceptKept.ok OptKept.none
    · split
      · exact ExceptKept.ok (OptKept.some hv.state.clbFill)
      · exact trivial
      · exact ExceptKept.ok OptKept.none

theorem ValsKept.tileForStore {oid : Nat} {d : Volume} {c : Word} (hv : ValsKept M Z v) :
    ExceptKept M Z (fun p => SndKept M Z p) (tileForStore v oid d c) := by
  unfold Machine.tileForStore
  dsimp only
  split
  · refine iteInduction (fun _ => trivial) fun _ => ?_
    refine iteInduction (fun _ => ExceptKept.keep (hv.state.stopped hv.strand.frame (by unfold volumePoison; trivial))) fun
        _ => ?_
    exact ExceptKept.keep (hv.state.publish.setStrand hv.strand.frame).stall
  · split
    · exact hv.state
    · split
      · exact trivial
      · exact ExceptKept.error kept_walkTrap
      · exact trivial
      · exact hv.state.clbFill
      · split
        next he => exact ExceptKept.keep ((hv.state.takeTile.1 _ _ he).setStrand hv.strand.frame).stall
        next he => exact ExceptKept.keep ((hv.state.takeTile.2 _ _ he).trapAt hv.strand)

theorem kept_runCheck {d : Volume} {c : Word} : ExceptKept M Z (fun _ => True) (runCheck d c) := by
  unfold Machine.runCheck
  dsimp only
  refine iteInduction (fun _ => trivial) fun _ => ?_
  split
  · exact trivial
  · exact trivial

theorem kept_elementAt {d : Volume} {tile n : Nat} {c : Word} : ExceptKept M Z (fun _ => True) (elementAt s v d tile n c) := by
  unfold Machine.elementAt
  split
  · exact trivial
  · exact trivial

theorem ValsKept.storeElement {h c : Word} {run : Bool} {val : Nat} (hv : ValsKept M Z v) :
    BodyKept M Z (storeElement v h c run val) := by
  unfold Machine.storeElement
  dsimp only
  split
  next he => exact ExceptKept.error (kept_volumeOf.stop he)
  next d _ =>
    split
    next he =>
      have hc : ExceptKept M Z (fun _ => True) (if run then runCheck d c else .ok ()) :=
        iteInduction (fun _ => kept_runCheck) fun _ => trivial
      exact ExceptKept.error (hc.stop he)
    · split
      · exact trivial
      next hn =>
        split
        next he => exact ExceptKept.error (hv.touched.tileForStore.stop he)
        next he =>
          split
          next he => exact ExceptKept.error (kept_elementAt.stop he)
          · exact BodyKept.ok (hv.touched.tileForStore.get he) (hv.touched.strand.countSt _ hn).begin

theorem Kept.clbDrop {die : Nat} {p : ClbEntry → Bool} (hs : Kept M Z s) : Kept M Z (clbDrop s die p) := by
  unfold Machine.clbDrop
  dsimp only
  exact hs.frame

theorem Kept.execLdc {d h c : Reg} {sgn : Bool} (hs : Kept M Z s) : OutKept M Z (execLdc d h c sgn s) := by
  refine hs.issue fun v hv => ?_
  dsimp only
  split
  next he => exact ExceptKept.error (kept_volumeOf.stop he)
  next =>
    split
    next he => exact ExceptKept.error (hv.touched.tileForLoad.stop he)
    next => exact iteInduction (fun _ => trivial) fun _ => hv.touched.results
    next t s' ht =>
      split
      · exact trivial
      · exact ExceptKept.error (kept_elementAt.stop ‹_›)
      next hc _ =>
        exact BodyKept.ok ((hv.touched.tileForLoad.get ht _ rfl : Kept M Z s').reserve (hv.touched.strand.countLd _ hc)).1
          ((hv.touched.tileForLoad.get ht _ rfl : Kept M Z s').reserve (hv.touched.strand.countLd _ hc)).2.begin

theorem Kept.execStc {r0 h c : Reg} (hs : Kept M Z s) : OutKept M Z (execStc r0 h c s) := by
  unfold Machine.execStc
  exact hs.issue (fun _ hv => hv.storeElement)

theorem Kept.execLdcv {vd : VReg} {h c : Reg} (hs : Kept M Z s) : OutKept M Z (execLdcv vd h c s) := by
  unfold Machine.execLdcv
  dsimp only
  refine hs.issue fun v hv => ?_
  split
  next he =>
    exact ExceptKept.error (kept_volumeOf.stop he)
  · split
    next he1 =>
      exact ExceptKept.error (kept_runCheck.stop he1)
    · split
      next he2 =>
        exact ExceptKept.error (hv.touched.tileForLoad.stop he2)
      · split
        · exact trivial
        · exact BodyKept.ok hv.touched.state hv.touched.strand
      next he2 =>
        split
        next he3 =>
          exact ExceptKept.error (kept_elementAt.stop he3)
        · exact hv.touched.loadVecAt ((hv.touched.tileForLoad.get he2) _ rfl)

theorem Kept.execStcv {vs : VReg} {h c : Reg} (hs : Kept M Z s) : OutKept M Z (execStcv vs h c s) := by
  unfold Machine.execStcv
  exact hs.issue (fun _ hv => hv.storeElement)

theorem Kept.execCprobe {d h c : Reg} (hs : Kept M Z s) : OutKept M Z (execCprobe d h c s) := by
  unfold Machine.execCprobe
  dsimp only
  refine hs.issue fun v hv => ?_
  split
  next he =>
    exact ExceptKept.error (kept_volumeOf.stop he)
  · split
    · exact ExceptKept.error kept_walkTrap
    · exact ExceptKept.error kept_walkTrap
    · exact trivial
    · split
      · exact trivial
      · exact hv.touched.results
    · split
      · exact trivial
      · exact hv.touched.results

theorem ValsKept.beginTrim {u : Uses} {slot tile pool oid key : Nat} {w : Word} (hv : ValsKept M Z v) :
    Kept M Z (beginTrim v u slot tile pool oid key w) := by
  unfold Machine.beginTrim
  dsimp only
  exact (((foldl_keeps (PairKept M Z) _ (fun _ _ hb => hb.1.popPort hb.2) _ _
      ⟨hv.state.physWrite, hv.strand.frame⟩).1).setStrand ((((foldl_keeps (PairKept M Z) _ (fun _ _ hb => hb.1.popPort hb.2)
      _ _ ⟨hv.state.physWrite, hv.strand.frame⟩).2).begin).frame)).stall

theorem Kept.execCtrim {h c : Reg} (hs : Kept M Z s) : OutKept M Z (execCtrim h c s) := by
  unfold Machine.execCtrim
  dsimp only
  refine hs.issue fun v hv => ?_
  split
  · refine iteInduction (fun _ => trivial) fun _ => ?_
    split
    · exact ExceptKept.error kept_volumePoison
    · exact hv.results
  · refine iteInduction (fun _ => trivial) fun _ => ?_
    split
    next he1 =>
      exact ExceptKept.error (kept_volumeOf.stop he1)
    · split
      · exact ExceptKept.error kept_walkTrap
      · exact ExceptKept.error kept_walkTrap
      · exact trivial
      · exact hv.touched.results
      · split
        · refine iteInduction (fun _ => trivial) fun _ => ?_
          split
          · exact ExceptKept.error kept_volumePoison
          · exact ExceptKept.keep hv.touched.beginTrim
        · exact trivial
        · exact hv.touched.results

end Sys2Proof.Machine
end

section
/-! O3: what the functions of Sys2Proof.Machine.Fabric keep. -/

namespace Sys2Proof.Machine

set_option Elab.async false

variable {M Z : Prop} {s t : State} {st st' : Strand} {v : Vals} {cx : Ctx} {α β : Type}

theorem Kept.touchFabric {core : Nat} {pkg : Option Nat} {a : Word} {n : Nat} (hs : Kept M Z s) :
    Kept M Z (touchFabric s core pkg a n) := by
  unfold Machine.touchFabric
  split
  · exact hs
  · exact hs.touchEnds

theorem ValsKept.putAt {a : Word} {pkg : Option Nat} {bytes : List Byte} {block : Bool} {ord : Ord} {scope : Scope}
    (hv : ValsKept M Z v) : BodyKept M Z (putAt v a pkg bytes block ord scope) := by
  unfold Machine.putAt
  dsimp only
  split
  · exact trivial
  next he =>
    split
    · exact ExceptKept.error kept_Fail_stop
    · exact BodyKept.ok hv.state.touchFabric ((hv.strand.countRemote _ he).begin)

theorem NoX0.noteDrop {kind dest : Nat} (hst : NoX0 Z st) : NoX0 Z (noteDrop st kind dest) := by
  unfold Machine.noteDrop
  exact hst.frame

theorem NoX0.update {a b : Access} (hst : NoX0 Z st) : NoX0 Z (Strand.update st a b) := by
  unfold Strand.update
  exact hst.frame

theorem Kept.onAccess {core place seq : Nat} {p : AccOp → Bool} {f : Strand → Access → State} (hs : Kept M Z s)
    (hf : ∀ st a, NoX0 Z st → Kept M Z (f st a)) : OutKept M Z (onAccess s core place seq p f) := by
  unfold Machine.onAccess
  split
  · exact hs
  · next st he =>
    split
    · exact hs
    · exact hf _ _ (hs.strand _ he)

theorem Kept.performAtomic {a : Access} {op : AmoOp} {wide : Bool} {b expect : Word} {depth : Nat} (hs : Kept M Z s) :
    Kept M Z (performAtomic s a op wide b expect depth) := by
  unfold Machine.performAtomic
  exact hs.storeCells

theorem Kept.acceptMessage {core : Nat} {m : Message} (hs : Kept M Z s) : Kept M Z (acceptMessage s core m) := by
  unfold Machine.acceptMessage
  dsimp only
  split
  · exact hs.setCore
  · exact hs.setCore

theorem Kept.execGet {d a pkg : Reg} {ord : Ord} {scope : Scope} {sz : BitVec 2} (hs : Kept M Z s) :
    OutKept M Z (execGet d a pkg ord scope sz s) := by
  refine hs.issue fun v hv => ?_
  dsimp only
  split
  · exact trivial
  next he =>
    refine iteInduction (fun _ => trivial) fun _ => ?_
    split
    · exact ExceptKept.error kept_Fail_stop
    · exact BodyKept.ok (hv.state.touchFabric.reserve (hv.strand.countLd _ he)).1
        (hv.state.touchFabric.reserve (hv.strand.countLd _ he)).2.begin

theorem Kept.execPut {a val pkg : Reg} {ord : Ord} {scope : Scope} {sz : BitVec 2} (hs : Kept M Z s) :
    OutKept M Z (execPut a val pkg ord scope sz s) := by
  unfold Machine.execPut
  dsimp only
  refine hs.issue fun v hv => ?_
  split
  · exact trivial
  · exact hv.putAt

theorem Kept.execPuts {a off pkg : Reg} {ord : Ord} {scope : Scope} {n : BitVec 3} (hs : Kept M Z s) :
    OutKept M Z (execPuts a off pkg ord scope n s) := by
  unfold Machine.execPuts
  dsimp only
  refine hs.issue fun v hv => ?_
  refine iteInduction (fun _ => trivial) fun _ => ?_
  refine iteInduction (fun _ => trivial) fun _ => ?_
  split
  next he =>
    exact ExceptKept.error (hv.putAt.stop he)
  next he =>
    split
    · exact trivial
    · exact (hv.putAt.get he)

theorem Kept.execRamo {d : Reg} {op : AmoOp} {a b pkg : Reg} {md : AmoMod} (hs : Kept M Z s) :
    OutKept M Z (execRamo d op a b pkg md s) := by
  refine hs.issue fun v hv => ?_
  dsimp only
  split
  · exact trivial
  next he =>
    refine iteInduction (fun _ => trivial) fun _ => ?_
    split
    · exact ExceptKept.error kept_Fail_stop
    · exact BodyKept.ok (hv.state.touchFabric.reserve (hv.strand.countRemote _ he)).1
        (hv.state.touchFabric.reserve (hv.strand.countRemote _ he)).2.begin

theorem Kept.execAmsg {dest a b c d : Reg} {scope : Scope} {cn : Option (BitVec 4)} (hs : Kept M Z s) :
    OutKept M Z (execAmsg dest a b c d scope cn s) := by
  unfold Machine.execAmsg
  dsimp only
  refine hs.issue fun v hv => ?_
  refine iteInduction (fun _ => trivial) fun _ => ?_
  split
  · exact trivial
  next he =>
    exact BodyKept.ok hv.state ((hv.strand.countRemote _ he).begin)

theorem Kept.execFship {r0 a op1 op2 res : Reg} {scope : Scope} {ord : Ord} {routine : BitVec 6} {cn : Option (BitVec 4)}
    (hs : Kept M Z s) : OutKept M Z (execFship r0 a op1 op2 res scope ord routine cn s) := by
  refine hs.issue fun v hv => ?_
  dsimp only
  refine iteInduction (fun _ => trivial) fun _ => ?_
  split
  · exact trivial
  · exact ExceptKept.error kept_Fail_stop
  · exact BodyKept.ok (hv.state.touchEnds.reserve hv.strand.frame).1
      (hv.state.touchEnds.reserve hv.strand.frame).2.frame.begin

theorem Kept.deliverLoad {core slot : Nat} {a : Access} (hs : Kept M Z s) (hst : NoX0 Z st) :
    Kept M Z (deliverLoad s core slot st a) := by
  unfold Machine.deliverLoad
  dsimp only
  split
  · exact ((hs.deliver hst.finish.frame).1).setStrand ((hs.deliver hst.finish.frame).2)
  · exact hs.setStrand hst.finish.frame.deliverV

theorem Kept.execLoadReturn {core slot : Nat} {seq : Piece} (hs : Kept M Z s) : OutKept M Z (execLoadReturn core slot seq s) := by
  unfold Machine.execLoadReturn
  dsimp only
  refine hs.onAccess (fun st a hst => ?_)
  split
  · split
    · exact hs
    · exact ((hs.deliver hst.finish.frame).1).setStrand ((hs.deliver hst.finish.frame).2)
  · refine iteInduction (fun _ => hs) fun _ => ?_
    split
    · exact hs.deliverLoad hst
    · exact hs.setStrand hst.update

theorem Kept.finishTrim {core slot : Nat} {a : Access} {entry tile pool oid key : Nat} (hs : Kept M Z s) (hst : NoX0 Z st) :
    Kept M Z (finishTrim s core slot st a entry tile pool oid key) := by
  unfold Machine.finishTrim
  dsimp only
  exact (((hs.setStrand hst.finish.frame).clbDrop).physWrite).poolPush

theorem Kept.execStorePerformed {core slot : Nat} {seq : Piece} (hs : Kept M Z s) :
    OutKept M Z (execStorePerformed core slot seq s) := by
  unfold Machine.execStorePerformed
  dsimp only
  refine hs.onAccess (fun st a hst => ?_)
  split
  · refine iteInduction (fun _ => hs) fun _ => ?_
    refine (hs.setStrand ?_).storeCells
    split
    · exact hst.finish.frame
    · exact hst.update
  · refine iteInduction (fun _ => hs) fun _ => ?_
    split
    · exact ((hs.deliver hst.finish.frame).1).setStrand ((hs.deliver hst.finish.frame).2)
    · exact (((hs.deliver hst.finish.frame).1).setStrand ((hs.deliver hst.finish.frame).2)).performAtomic
  · split
    · exact hs
    · exact hs.finishTrim hst
  · exact hs

theorem Kept.execFabricPerformed {core slot seq : Nat} {ext : Word} (hs : Kept M Z s) :
    OutKept M Z (execFabricPerformed core slot seq ext s) := by
  unfold Machine.execFabricPerformed
  dsimp only
  refine hs.onAccess (fun st a hst => ?_)
  refine iteInduction (fun _ => hs) fun _ => ?_
  refine iteInduction (fun _ => hs) fun _ => ?_
  split
  · exact hs.setStrand hst.update
  · exact hs.setStrand hst.update
  · exact hs.setStrand hst.update
  · exact hs.setStrand hst.update
  · exact (hs.setStrand hst.update).storeCells
  · split
    · exact hs.setStrand hst.update
    · exact (hs.setStrand hst.update).performAtomic
  · refine iteInduction (fun _ => hs.setStrand hst.update) fun _ => ?_
    split
    · exact hs
    · exact ((hs.setStrand hst.update).acceptMessage).noteMoved
  · exact hs

theorem Kept.execRemoteAck {core slot seq : Nat} (hs : Kept M Z s) : OutKept M Z (execRemoteAck core slot seq s) := by
  unfold Machine.execRemoteAck
  dsimp only
  refine hs.onAccess (fun st a hst => ?_)
  refine iteInduction (fun _ => hs) fun _ => ?_
  split
  · exact ((hs.deliver hst.finish.frame).1).setStrand ((hs.deliver hst.finish.frame).2)
  · exact hs.setStrand hst.finish.frame.complete
  · exact hs.setStrand hst.finish.frame

theorem Kept.execNegativeAck {core slot seq : Nat} (hs : Kept M Z s) : OutKept M Z (execNegativeAck core slot seq s) := by
  unfold Machine.execNegativeAck
  dsimp only
  refine hs.onAccess (fun st a hst => ?_)
  refine iteInduction (fun _ => hs) fun _ => ?_
  split
  · exact ((hs.deliver hst.finish.noteDrop.frame).1).setStrand ((hs.deliver hst.finish.noteDrop.frame).2)
  · exact ((hs.deliver hst.finish.noteDrop.frame).1).setStrand ((hs.deliver hst.finish.noteDrop.frame).2)
  · exact hs.setStrand hst.finish.noteDrop.frame.complete
  · exact hs.setStrand hst.finish.noteDrop.frame

theorem Kept.execShippedOperation {core slot seq : Nat} (hs : Kept M Z s) :
    OutKept M Z (execShippedOperation core slot seq s) := by
  unfold Machine.execShippedOperation
  dsimp only
  refine hs.onAccess (fun st a hst => ?_)
  refine iteInduction (fun _ => hs) fun _ => ?_
  split
  · split
    · exact ((hs.deliver hst.finish.frame.noteDrop).1).setStrand ((hs.deliver hst.finish.frame.noteDrop).2)
    · exact (((hs.deliver hst.finish.frame).1).setStrand ((hs.deliver hst.finish.frame).2)).performAtomic
  · refine iteInduction (fun _ => hs) fun _ => ?_
    split
    · exact hs.setStrand hst.update.noteDrop
    · exact (hs.setStrand hst.update).performAtomic
  · refine iteInduction (fun _ => ((hs.deliver hst.finish.frame).1).setStrand
        ((((hs.deliver hst.finish.frame).2).deliverX).complete)) fun _ => ?_
    split
    · exact ((hs.deliver hst.finish.frame).1).setStrand ((((hs.deliver hst.finish.frame).2).deliverX).complete)
    · exact (((hs.deliver hst.finish.frame).1).setStrand ((((hs.deliver hst.finish.frame).2).deliverX).complete)).storeCells
  · exact hs

end Sys2Proof.Machine
end

section
/-! O3: what the functions of Sys2Proof.Machine.Fetch keep. -/

namespace Sys2Proof.Machine

set_option Elab.async false

variable {M Z : Prop} {s t : State} {st st' : Strand} {v : Vals} {cx : Ctx} {α β : Type}

theorem Kept.fetch (hs : Kept M Z s) (hst : NoX0 Z cx.st) : FetchedKept M Z (fetch s cx) := by
  unfold Machine.fetch
  dsimp only
  split
  · exact FetchedKept.stop (hs.waitFill hst)
  · split
    · exact FetchedKept.stop (hs.trapAt hst)
    · exact FetchedKept.stop (hs.trapAt hst)
  · exact FetchedKept.stop (hs.trapAt hst)
  · exact FetchedKept.stop (hs.trapAt hst)
  · exact FetchedKept.stop (hs.trapAt hst)
  · refine iteInduction (fun _ => FetchedKept.stop (hs.trapAt hst)) fun _ => ?_
    refine iteInduction (fun _ => FetchedKept.stop (hs.trapAt hst)) fun _ => ?_
    split
    · exact trivial
    · exact FetchedKept.stop (hs.trapAt hst)

theorem Kept.fetched {header : Half} (hs : Kept M Z s) : Kept M Z (fetched s cx header) := by
  unfold Machine.fetched
  dsimp only
  exact hs.frame.touch

theorem Kept.ageStrands {core : Nat} (hs : Kept M Z s) : Kept M Z (ageStrands s core) := by
  unfold Machine.ageStrands
  dsimp only
  refine hs.mapStrands (fun e hst => ?_)
  split
  · exact hst.frame
  · exact hst

theorem Kept.install {cluster : Nat} {e : TlbEntry} (hs : Kept M Z s) : Kept M Z (install s cluster e) := by
  unfold Machine.install
  dsimp only
  exact hs.setCluster.frame

theorem NoX0.answered {page : Nat} {decline : Option Nat} (hst : NoX0 Z st) : NoX0 Z (Strand.answered st page decline) := by
  unfold Strand.answered
  exact hst.frame

theorem Kept.answerMisses {cluster : Nat} {sel : Nat → Bool} {decline : Option Nat} (hs : Kept M Z s) :
    Kept M Z (answerMisses s cluster sel decline) := by
  unfold Machine.answerMisses
  dsimp only
  refine hs.setCluster.mapStrands (fun e hst => ?_)
  split
  · exact hst
  · split
    · split
      · exact hst.answered
      · exact hst
    · split
      · split
        · exact hst.answered.frame
        · exact hst
      · exact hst

theorem Kept.scrivenerAnswer {cluster : Nat} (hs : Kept M Z s) : Kept M Z (scrivenerAnswer s cluster) := by
  unfold Machine.scrivenerAnswer
  split
  · refine iteInduction (fun _ => hs) fun _ => ?_
    split
    · split
      · exact hs.install.answerMisses
      · exact hs
    · exact hs.answerMisses
  · exact hs

end Sys2Proof.Machine
end

section
/-! O3: what the functions of Sys2Proof.Machine.Waiting keep. -/

namespace Sys2Proof.Machine

set_option Elab.async false

variable {M Z : Prop} {s t : State} {st st' : Strand} {v : Vals} {cx : Ctx} {α β : Type}

theorem kept_badHead {k : Nat} : StopKept M Z (badHead k) := by
  unfold Machine.badHead
  exact trivial

theorem kept_arrivalWord {a : Word} {scope : Scope} : ExceptKept M Z (fun _ => True) (arrivalWord v a scope) := by
  unfold Machine.arrivalWord
  dsimp only
  refine iteInduction (fun _ => trivial) fun _ => ?_
  split
  · exact ExceptKept.error kept_Fail_stop
  · refine iteInduction (fun _ => trivial) fun _ => ?_
    split
    · exact trivial
    · exact trivial

theorem ValsKept.parkOr {w : Wake} (hv : ValsKept M Z v) : BodyKept M Z (parkOr v w) := by
  unfold Machine.parkOr
  dsimp only
  refine iteInduction (fun _ => trivial) fun _ => ?_
  split
  · exact BodyKept.ok hv.state hv.strand
  · exact ExceptKept.keep ((hv.state.setStrand hv.strand.frame).stall)

theorem Kept.execQtok {tag port : BitVec 3} {r0 : Reg} (hs : Kept M Z s) : OutKept M Z (execQtok tag port r0 s) := by
  unfold Machine.execQtok
  dsimp only
  refine hs.issue fun v hv => ?_
  refine iteInduction (fun _ => trivial) fun _ => ?_
  split
  · exact ExceptKept.keep hv.state.waitRoom
  · exact BodyKept.ok ((hv.state.pushPort hv.strand).1) (((hv.state.pushPort hv.strand).2).frame)

theorem Kept.execQtry {d xf q : Reg} (hs : Kept M Z s) : OutKept M Z (execQtry d xf q s) := by
  unfold Machine.execQtry
  dsimp only
  refine hs.issue fun v hv => ?_
  refine iteInduction (fun _ => trivial) fun _ => ?_
  refine iteInduction (fun _ => ExceptKept.error kept_badHead) fun _ => ?_
  refine BodyKept.ok ?_ ?_
  · split
    · exact (hv.state.popPort hv.strand).1
    · exact hv.state
  · split
    · exact (hv.state.popPort hv.strand).2
    · exact hv.strand

theorem Kept.execQpeek {d xf q : Reg} (hs : Kept M Z s) : OutKept M Z (execQpeek d xf q s) := by
  unfold Machine.execQpeek
  dsimp only
  refine hs.issue fun v hv => ?_
  refine iteInduction (fun _ => trivial) fun _ => ?_
  split
  · exact ExceptKept.error kept_badHead
  · exact hv.results

theorem Kept.execQlen {d q : Reg} (hs : Kept M Z s) : OutKept M Z (execQlen d q s) := by
  unfold Machine.execQlen
  refine hs.issue fun v hv => ?_
  split
  · exact trivial
  · exact hv.results

theorem Kept.execQfence (hs : Kept M Z s) : OutKept M Z (execQfence s) := by
  unfold Machine.execQfence
  dsimp only
  exact hs.issue (fun _ hv => BodyKept.ok hv.state hv.strand.frame)

theorem Kept.execQtvec {q r0 : Reg} (hs : Kept M Z s) : OutKept M Z (execQtvec q r0 s) := by
  unfold Machine.execQtvec
  dsimp only
  refine hs.issue fun v hv => ?_
  split
  · exact BodyKept.ok hv.state hv.strand.frame
  · exact trivial

theorem Kept.execCpost {c : BitVec 4} {k : BitVec 22} (hs : Kept M Z s) : OutKept M Z (execCpost c k s) := by
  unfold Machine.execCpost
  dsimp only
  refine hs.issue fun v hv => ?_
  split
  · exact trivial
  · exact BodyKept.ok hv.state hv.strand.setCounter

theorem Kept.execWaitc {c : BitVec 4} {k : BitVec 22} (hs : Kept M Z s) : OutKept M Z (execWaitc c k s) := by
  unfold Machine.execWaitc
  refine hs.issue fun v hv => ?_
  split
  · exact hv.results
  · exact trivial

theorem Kept.execCread {d : Reg} {c : BitVec 4} {clr : Bool} (hs : Kept M Z s) : OutKept M Z (execCread d c clr s) := by
  unfold Machine.execCread
  dsimp only
  refine hs.issue (fun v hv => BodyKept.ok hv.state ?_)
  split
  · exact hv.strand.setCounter
  · exact hv.strand

theorem Kept.execWait {ld st cp tl : BitVec 6} (hs : Kept M Z s) : OutKept M Z (execWait ld st cp tl s) := by
  unfold Machine.execWait
  dsimp only
  refine hs.issue fun v hv => ?_
  split
  · exact hv.results
  · exact trivial

theorem Kept.execAwait {a t : Reg} {scope : Scope} (hs : Kept M Z s) : OutKept M Z (execAwait a t scope s) := by
  unfold Machine.execAwait
  refine hs.issue fun v hv => ?_
  split
  next he =>
    exact ExceptKept.error (kept_arrivalWord.stop he)
  · split
    · exact BodyKept.ok hv.state.touchEnds hv.strand
    · exact trivial

theorem Kept.execBar (hs : Kept M Z s) : OutKept M Z (execBar s) := by
  unfold Machine.execBar
  dsimp only
  refine hs.issue fun v hv => ?_
  split
  · exact hv.results
  · exact trivial
  · split
    · exact hv.results
    · refine iteInduction (fun _ => hv.results) fun _ => ?_
      refine iteInduction (fun _ => trivial) fun _ => ?_
      split
      · exact trivial
      · split
        next he2 =>
          split
          · exact BodyKept.ok ((hv.state.setLaunch.setStrand hv.strand.frame).closeRounds)
                ((((hv.state.setLaunch.setStrand hv.strand.frame).closeRounds).strand) _ he2)
          · exact ExceptKept.keep (((hv.state.setLaunch.setStrand hv.strand.frame).closeRounds).stall)
        · exact trivial

theorem Kept.execParkC {c : BitVec 4} {t : Reg} (hs : Kept M Z s) : OutKept M Z (execParkC c t s) := by
  unfold Machine.execParkC
  refine hs.issue fun v hv => ?_
  split
  · exact hv.results
  · exact hv.parkOr

theorem Kept.execParkA {a t : Reg} {scope : Scope} (hs : Kept M Z s) : OutKept M Z (execParkA a t scope s) := by
  unfold Machine.execParkA
  dsimp only
  refine hs.issue fun v hv => ?_
  split
  next he =>
    exact ExceptKept.error (kept_arrivalWord.stop he)
  · split
    · exact ValsKept.results ⟨hv.state.touchEnds, hv.strand⟩
    · exact ValsKept.parkOr ⟨hv.state.touchEnds, hv.strand⟩

theorem Kept.execParkQ {port : BitVec 3} (hs : Kept M Z s) : OutKept M Z (execParkQ port s) := by
  unfold Machine.execParkQ
  refine hs.issue fun v hv => ?_
  refine iteInduction (fun _ => trivial) fun _ => ?_
  split
  · exact hv.results
  · exact hv.parkOr

theorem Kept.execParkT {t : Reg} (hs : Kept M Z s) : OutKept M Z (execParkT t s) := by
  unfold Machine.execParkT
  refine hs.issue fun v hv => ?_
  split
  · exact hv.results
  · exact hv.parkOr

theorem Kept.execYield (hs : Kept M Z s) : OutKept M Z (execYield s) := by
  unfold Machine.execYield
  dsimp only
  exact hs.issue (fun _ hv => BodyKept.ok hv.state hv.strand.frame)

theorem Kept.execExit (hs : Kept M Z s) : OutKept M Z (execExit s) := by
  unfold Machine.execExit
  dsimp only
  refine hs.issue fun v hv => ?_
  split
  · exact BodyKept.ok hv.state hv.strand
  · exact trivial

theorem Kept.execSprio {n : BitVec 6} (hs : Kept M Z s) : OutKept M Z (execSprio n s) := by
  unfold Machine.execSprio
  dsimp only
  exact hs.issue (fun _ hv => BodyKept.ok hv.state hv.strand.frame)

theorem Kept.execYieldExpiry {core slot : Nat} (hs : Kept M Z s) : OutKept M Z (execYieldExpiry core slot s) := by
  unfold Machine.execYieldExpiry
  split
  next he =>
    split
    · split
      · exact hs.setStrand ((hs.strand _ he).frame)
      · exact hs
    · exact hs
  · exact hs

theorem Kept.execAgedLevel {core slot : Nat} (hs : Kept M Z s) : OutKept M Z (execAgedLevel core slot s) := by
  unfold Machine.execAgedLevel
  split
  next he =>
    split
    · exact hs.setStrand ((hs.strand _ he).frame)
    · exact hs
  · exact hs

theorem Kept.ownerOf {gen : Nat} (hs : Kept M Z s) : OptKept (fun p => NoX0 Z p.2) (ownerOf s gen) := by
  unfold Machine.ownerOf
  exact OptKept.find? fun _ he => hs.mem_strands he

theorem Kept.dropBatch {qn : Nat} {q : Queue} {gen : Nat} {es : List Elem} (hs : Kept M Z s) :
    Kept M Z (dropBatch s qn q gen es) := by
  unfold Machine.dropBatch
  dsimp only
  refine foldl_keeps (Kept M Z) _ (fun t a ht => ?_) _ _ hs.setQueue
  split
  · exact ht
  next he =>
    split
    · exact ht.setStrand ((ht.ownerOf _ he).update)
    · exact ht.setStrand ((ht.ownerOf _ he).noteDrop)

theorem Kept.execElementPoppable {queue gen : Nat} (hs : Kept M Z s) : OutKept M Z (execElementPoppable queue gen s) := by
  unfold Machine.execElementPoppable
  dsimp only
  split
  · exact hs
  · refine iteInduction (fun _ => hs) fun _ => ?_
    refine iteInduction (fun _ => hs.dropBatch) fun _ => ?_
    split
    · exact hs.setQueue.notePushes.noteLaunchMoved
    · exact hs.setQueue.notePushes

theorem Kept.execCreditReturn {queue : Nat} (hs : Kept M Z s) : OutKept M Z (execCreditReturn queue s) := by
  unfold Machine.execCreditReturn
  split
  · exact hs.setQueue
  · exact hs

end Sys2Proof.Machine
end

section
/-! O3: what the functions of Sys2Proof.Machine.Commands keep. -/

namespace Sys2Proof.Machine

set_option Elab.async false

variable {M Z : Prop} {s t : State} {st st' : Strand} {v : Vals} {cx : Ctx} {α β : Type}

theorem ValsKept.doneAtOnce {r0 : Reg} {cn : Option (BitVec 4)} {ok : Bool} {cause : Nat} (hv : ValsKept M Z v) :
    BodyKept M Z (doneAtOnce v r0 cn ok cause) := by
  unfold Machine.doneAtOnce
  split
  · exact trivial
  · exact BodyKept.ok hv.state hv.strand.complete

theorem ValsKept.accept {o : EngineOp} {locks : List RangeLock} (hv : ValsKept M Z v) : BodyKept M Z (accept v o locks) := by
  unfold Machine.accept
  dsimp only
  refine iteInduction (fun _ => trivial) fun _ => ?_
  split
  · exact trivial
  · exact BodyKept.ok hv.state.setCore hv.strand.frame

theorem ValsKept.checkRanges {rs : List (Bool × Word × Nat)} (hv : ValsKept M Z v) :
    ExceptKept M Z (fun p => ValsKept M Z p) (checkRanges v rs) := by
  unfold Machine.checkRanges
  split
  · exact ExceptKept.error kept_Fail_stop
  · exact ExceptKept.ok ⟨foldl_keeps (Kept M Z) _ (fun _ _ ht => ht.touchEnds) _ _ hv.state, hv.strand⟩

theorem Kept.instanceAt {part lid stage rank : Nat} (hs : Kept M Z s) :
    OptKept (fun p => NoX0 Z p.2.2) (instanceAt s part lid stage rank) := by
  unfold Machine.instanceAt
  exact OptKept.find? (hs.live)

theorem Kept.opStrand {core : Nat} {o : EngineOp} (hs : Kept M Z s) : OptKept (NoX0 Z) (opStrand s core o) := by
  unfold Machine.opStrand
  exact hs.byGen.map (fun _ hst => hst)

theorem Kept.setOp {core : Nat} {o : EngineOp} (hs : Kept M Z s) : Kept M Z (setOp s core o) := by
  unfold Machine.setOp
  dsimp only
  exact hs.setCore

theorem Kept.diskWrite {port nsid blk : Nat} {bs : List Byte} (hs : Kept M Z s) : Kept M Z (diskWrite s port nsid blk bs) := by
  unfold Machine.diskWrite
  dsimp only
  exact hs.frame

theorem Kept.opMiss {core : Nat} {o : EngineOp} {page need : Nat} (hs : Kept M Z s) : Kept M Z (opMiss s core o page need) := by
  unfold Machine.opMiss
  split
  next he =>
    exact (hs.joinMiss _ he).setOp
  · exact hs

theorem Kept.putBeats {core : Nat} {o : EngineOp} {d : SendDest} {beats : List Beat} (hs : Kept M Z s) :
    Kept M Z (putBeats s core o d beats) := by
  unfold Machine.putBeats
  dsimp only
  exact hs.setCore

theorem Kept.endDest {t : Transfer} {cause : Nat} (hs : Kept M Z s) : Kept M Z (endDest s t cause) := by
  unfold Machine.endDest
  split
  · exact hs.setOp
  · exact hs

theorem Kept.dropBeats {t : Transfer} (hs : Kept M Z s) : Kept M Z (dropBeats s t) := by
  unfold Machine.dropBeats
  split
  · exact hs.setOp
  · exact hs

theorem Kept.endTransfer {core chan : Nat} {t : Transfer} {cause : Nat} (hs : Kept M Z s) :
    Kept M Z (endTransfer s core chan t cause) := by
  unfold Machine.endTransfer
  dsimp only
  exact hs.setCore.dropBeats.endDest

theorem Kept.enginePush {o : EngineOp} {tag : Nat} {data : Word} (hs : Kept M Z s) : Kept M Z (enginePush s o tag data) := by
  unfold Machine.enginePush
  exact hs.sendElem

theorem Kept.onOp {core id : Nat} {p : EngineOp → Bool} {f : EngineOp → State} (hs : Kept M Z s)
    (hf : ∀ o, Kept M Z (f o)) : OutKept M Z (onOp s core id p f) := by
  unfold Machine.onOp
  split
  · refine iteInduction (fun _ => hf _) fun _ => hs
  · exact hs

theorem Kept.execCopy {r0 src dst len pkg : Reg} {scope : Scope} {spad : Bool} {cn : Option (BitVec 4)} (hs : Kept M Z s) :
    OutKept M Z (execCopy r0 src dst len pkg scope spad cn s) := by
  unfold Machine.execCopy
  dsimp only
  refine hs.issue fun v hv => ?_
  refine iteInduction (fun _ => hv.doneAtOnce) fun _ => ?_
  refine iteInduction (fun _ => hv.doneAtOnce) fun _ => ?_
  split
  next he =>
    exact ExceptKept.error (hv.checkRanges.stop he)
  next he =>
    split
    · exact (hv.checkRanges.get he).doneAtOnce
    · exact (hv.checkRanges.get he).accept

theorem Kept.execSend {r0 src len dest arr : Reg} {scope : Scope} {spad slab : Bool} {swz : BitVec 2} {cn : Option (BitVec 4)}
    (hs : Kept M Z s) : OutKept M Z (execSend r0 src len dest arr scope spad slab swz cn s) := by
  unfold Machine.execSend
  dsimp only
  refine hs.issue fun v hv => ?_
  refine iteInduction (fun _ => hv.doneAtOnce) fun _ => ?_
  refine iteInduction (fun _ => hv.doneAtOnce) fun _ => ?_
  refine iteInduction (fun _ => trivial) fun _ => ?_
  split
  next he =>
    exact ExceptKept.error (hv.checkRanges.stop he)
  next he =>
    split
    · exact trivial
    · refine iteInduction (fun _ => (hv.checkRanges.get he).doneAtOnce) fun _ => ?_
      split
      · split
        · exact (hv.checkRanges.get he).doneAtOnce
        · exact (hv.checkRanges.get he).accept
      · split
        · exact (hv.checkRanges.get he).doneAtOnce
        · exact (hv.checkRanges.get he).accept

theorem Kept.execRefs {r0 base qin qout ring : Reg} {row : Bool} {par : BitVec 12} {cn : Option (BitVec 4)} (hs : Kept M Z s) :
    OutKept M Z (execRefs r0 base qin qout ring row par cn s) := by
  unfold Machine.execRefs
  dsimp only
  refine hs.issue fun v hv => ?_
  refine iteInduction (fun _ => trivial) fun _ => ?_
  refine iteInduction (fun _ => hv.doneAtOnce) fun _ => ?_
  split
  · exact hv.accept
  · exact trivial

theorem Kept.execSread {r0 ns lba count mem : Reg} {cn : Option (BitVec 4)} (hs : Kept M Z s) :
    OutKept M Z (execSread r0 ns lba count mem cn s) := by
  unfold Machine.execSread
  dsimp only
  refine hs.issue fun v hv => ?_
  refine iteInduction (fun _ => hv.doneAtOnce) fun _ => ?_
  refine iteInduction (fun _ => hv.doneAtOnce) fun _ => ?_
  split
  · split
    next he2 =>
      exact ExceptKept.error (hv.checkRanges.stop he2)
    next he2 =>
      split
      · exact (hv.checkRanges.get he2).doneAtOnce
      · exact (hv.checkRanges.get he2).accept
  · exact hv.doneAtOnce

theorem Kept.execSwrite {r0 ns lba count mem : Reg} {cn : Option (BitVec 4)} (hs : Kept M Z s) :
    OutKept M Z (execSwrite r0 ns lba count mem cn s) := by
  unfold Machine.execSwrite
  dsimp only
  refine hs.issue fun v hv => ?_
  refine iteInduction (fun _ => hv.doneAtOnce) fun _ => ?_
  refine iteInduction (fun _ => hv.doneAtOnce) fun _ => ?_
  split
  · split
    next he2 =>
      exact ExceptKept.error (hv.checkRanges.stop he2)
    next he2 =>
      split
      · exact (hv.checkRanges.get he2).doneAtOnce
      · exact (hv.checkRanges.get he2).accept
  · exact hv.doneAtOnce

theorem Kept.openSector {core : Nat} {o : EngineOp} {bytes : List Byte} {src cells : List Nat} (hs : Kept M Z s) :
    Kept M Z (openSector s core o bytes src cells) := by
  unfold Machine.openSector
  dsimp only
  exact hs.setOp

theorem Kept.sectorRead {core : Nat} {o : EngineOp} (hs : Kept M Z s) : Kept M Z (sectorRead s core o) := by
  unfold Machine.sectorRead
  dsimp only
  split
  · refine foldl_keeps (Kept M Z) _ (fun t a ht => ?_) _ _ hs.setOp
    split
    · exact ht
    · exact ht.putBeats
  · exact foldl_keeps (Kept M Z) _ (fun _ _ ht => ht.diskWrite) _ _ hs.setOp
  · exact hs.setOp

theorem Kept.readBeat {core : Nat} {o : EngineOp} {b : Nat} (hs : Kept M Z s) : Kept M Z (readBeat s core o b) := by
  unfold Machine.readBeat
  dsimp only
  refine iteInduction (fun _ => hs) fun _ => ?_
  refine iteInduction (fun _ => ?_) fun _ => hs.setOp.noteMoved
  split
  · split
    · exact hs
    · exact hs.sectorRead.noteMoved
  · split
    · exact hs
    · exact hs.sectorRead.noteMoved

theorem Kept.writeBeat {core : Nat} {o : EngineOp} {b : Nat} {bytes : List Byte} (hs : Kept M Z s) :
    Kept M Z (writeBeat s core o b bytes) := by
  unfold Machine.writeBeat
  dsimp only
  refine iteInduction (fun _ => hs.setOp.noteMoved) fun _ => ?_
  split
  · exact hs
  · exact hs.setOp.storeCells.noteMoved

theorem Kept.touchSector {core : Nat} {o : EngineOp} (hs : Kept M Z s) : Kept M Z (touchSector s core o) := by
  unfold Machine.touchSector
  dsimp only
  split
  · split
    · refine Kept.touchEnds ?_
      split
      · exact hs
      · exact hs.touchEnds
    · split
      · exact hs
      · exact hs.touchEnds
  · refine Kept.touch ?_
    split
    · refine Kept.touchEnds ?_
      split
      · exact hs
      · exact hs.touchEnds
    · split
      · exact hs
      · exact hs.touchEnds

theorem Kept.execSectorStep {core : Nat} {op : Piece} (hs : Kept M Z s) : OutKept M Z (execSectorStep core op s) := by
  unfold Machine.execSectorStep
  dsimp only
  refine hs.onOp (fun o => ?_)
  refine iteInduction (fun _ => hs) fun _ => ?_
  split
  · split
    · exact hs.opMiss
    · exact hs.touchSector.openSector
    · exact hs
  · split
    · exact hs.readBeat
    · exact hs.writeBeat
    · exact hs

theorem Kept.execEngineStop {core op : Nat} (hs : Kept M Z s) : OutKept M Z (execEngineStop core op s) := by
  unfold Machine.execEngineStop
  dsimp only
  refine hs.onOp (fun o => ?_)
  split
  · split
    · exact hs.setOp
    · exact hs.setOp
  · split
    · split
      · split
        · exact hs.setOp
        · exact hs.setOp
      · split
        · exact hs.setOp
        · exact hs.setOp
      · exact hs
    · split
      · split
        · exact hs.setOp
        · exact hs.setOp
      · refine iteInduction (fun _ => ?_) fun _ => hs
        split
        · exact hs.setOp
        · exact hs.setOp

theorem Kept.execEngineComplete {core op ext : Nat} (hs : Kept M Z s) : OutKept M Z (execEngineComplete core op ext s) := by
  unfold Machine.execEngineComplete
  refine hs.onOp (fun o => ?_)
  split
  · refine iteInduction (fun _ => hs.completeEngine) fun _ => ?_
    refine iteInduction (fun _ => hs.completeEngine) fun _ => ?_
    split
    · exact hs.completeEngine
    · exact hs
  · split
    · split
      · exact hs.completeEngine
      · exact hs
    · split
      · exact hs.completeEngine
      · exact hs

theorem Kept.execStorageComplete {core op status : Nat} (hs : Kept M Z s) :
    OutKept M Z (execStorageComplete core op status s) := by
  unfold Machine.execStorageComplete
  refine hs.onOp (fun o => ?_)
  refine iteInduction (fun _ => hs.completeEngine) fun _ => ?_
  refine iteInduction (fun _ => hs.completeEngine) fun _ => ?_
  split
  · exact hs.completeEngine
  · exact hs

theorem Kept.startTransfer {core chan : Nat} (hs : Kept M Z s) : Kept M Z (startTransfer s core chan) := by
  unfold Machine.startTransfer
  dsimp only
  split
  · split
    · exact hs.setCore.dropBeats.endDest
    · refine iteInduction (fun _ => hs.setCore.dropBeats.endDest) fun _ => ?_
      split
      · exact hs
      · exact hs.setCore
  · exact hs

theorem Kept.deliverBeat {core chan : Nat} (hs : Kept M Z s) : Kept M Z (deliverBeat s core chan) := by
  unfold Machine.deliverBeat
  dsimp only
  split
  · exact hs
  · split
    · exact hs.endTransfer
    · refine iteInduction (fun _ => hs) fun _ => ?_
      split
      · refine Kept.endTransfer ?_
        split
        · exact hs.setCore.noteMoved.setOp
        · exact hs.setCore.noteMoved
      · split
        · exact hs.setCore.noteMoved.setOp
        · exact hs.setCore.noteMoved
    · split
      · exact hs.endTransfer
      · exact hs

theorem Kept.performAdd {core chan : Nat} {a : Add} (hs : Kept M Z s) : Kept M Z (performAdd s core chan a) := by
  unfold Machine.performAdd
  dsimp only
  split
  · split
    · exact hs.setCore.setOp
    · exact hs.setCore
  · refine Kept.storeCells ?_
    split
    · exact hs.setCore.setOp
    · exact hs.setCore

theorem Kept.execChannelTransferStart {core chan : Nat} (hs : Kept M Z s) :
    OutKept M Z (execChannelTransferStart core chan s) := by
  unfold Machine.execChannelTransferStart
  refine OutKept.next ?_
  split
  · exact hs
  · exact hs.startTransfer

theorem Kept.execBeatDelivery {core : Nat} {chan : Piece} (hs : Kept M Z s) : OutKept M Z (execBeatDelivery core chan s) := by
  unfold Machine.execBeatDelivery
  split
  · refine OutKept.next ?_
    split
    · exact hs
    · exact hs.deliverBeat
  · split
    · refine OutKept.next ?_
      split
      · exact hs.performAdd
      · exact hs
    · exact hs

theorem Kept.pushReference {core : Nat} {o : EngineOp} {f : Fetch} (hs : Kept M Z s) : Kept M Z (pushReference s core o f) := by
  unfold Machine.pushReference
  dsimp only
  split
  · exact hs.popForGen.setOp.noteMoved.setCore.enginePush
  · exact hs.popForGen.setOp.noteMoved.enginePush

theorem Kept.streamStep {core : Nat} {o : EngineOp} {q : Queue} {b : StreamStep} (hs : Kept M Z s) :
    Kept M Z (streamStep s core o q b) := by
  unfold Machine.streamStep
  dsimp only
  split
  · split
    · refine iteInduction (fun _ => hs.setOp) fun _ => ?_
      split
      · exact hs
      · exact hs.awaitCredit
    · split
      · exact hs
      · exact hs.pushReference
  · split
    · exact hs
    · exact hs.setOp
  · split
    · exact hs.opMiss
    · exact hs.touchEnds.setOp
    · exact hs

theorem Kept.execReferencePop {core : Nat} {op : Piece} (hs : Kept M Z s) : OutKept M Z (execReferencePop core op s) := by
  unfold Machine.execReferencePop
  dsimp only
  refine hs.onOp (fun o => ?_)
  split
  · split
    · refine iteInduction (fun _ => hs) fun _ => ?_
      refine iteInduction (fun _ => hs.awaitCredit) fun _ => ?_
      split
      · exact hs.popForGen.enginePush.completeEngine
      · exact hs.popForGen.enginePush
    · split
      · exact hs.streamStep
      · exact hs
  · exact hs

theorem Kept.execReferenceStop {core op : Nat} (hs : Kept M Z s) : OutKept M Z (execReferenceStop core op s) := by
  unfold Machine.execReferenceStop
  dsimp only
  refine hs.onOp (fun o => ?_)
  split
  · refine iteInduction (fun _ => hs.setOp) fun _ => ?_
    refine iteInduction (fun _ => hs) fun _ => ?_
    split
    · refine iteInduction (fun _ => hs.setOp) fun _ => ?_
      split
      · exact hs.setOp
      · exact hs
    · split
      · exact hs.setOp
      · exact hs
  · exact hs

end Sys2Proof.Machine
end

section
/-! O3: what the functions of Sys2Proof.Machine.Tile keep. -/

namespace Sys2Proof.Machine

set_option Elab.async false

variable {M Z : Prop} {s t : State} {st st' : Strand} {v : Vals} {cx : Ctx} {α β : Type}

theorem Kept.setTset {core k f : Nat} {w : Word} (hs : Kept M Z s) : Kept M Z (setTset s core k f w) := by
  unfold Machine.setTset
  dsimp only
  exact hs.setCore

theorem ValsKept.acceptTile {o : TileOp} {locks : List RangeLock} {sto : Bool} (hv : ValsKept M Z v) :
    BodyKept M Z (acceptTile v o locks sto) := by
  unfold Machine.acceptTile
  dsimp only
  refine iteInduction (fun _ => trivial) fun _ => ?_
  split
  · exact trivial
  · exact BodyKept.ok hv.state.setCore hv.strand.frame

theorem ValsKept.multiply {o : TileOp} (hv : ValsKept M Z v) : BodyKept M Z (multiply v o) := by
  unfold Machine.multiply
  refine iteInduction (fun _ => trivial) fun _ => ?_
  split
  · exact trivial
  · exact hv.acceptTile

theorem Kept.sectorStep {x : Sector} {k : List Byte → List Nat → UnitStep} (hs : Kept M Z s)
    (hk : ∀ b c, UnitKept M Z (k b c)) : UnitKept M Z (x.step s k) := by
  unfold Sector.step
  split
  · exact hk _ _
  · exact trivial
  · exact hs
  · exact trivial
  · exact trivial

theorem Kept.unitTouch {core : Nat} {spad : Bool} {ps : List (Word × Nat)} (hs : Kept M Z s) :
    Kept M Z (unitTouch s core spad ps) := by
  unfold Machine.unitTouch
  split
  · exact hs
  · exact foldl_keeps (Kept M Z) _ (fun _ _ ht => ht.touchEnds) _ _ hs

theorem Kept.setTile {core : Nat} {t : TileUnit} (hs : Kept M Z s) : Kept M Z (setTile s core t) := by
  unfold Machine.setTile
  dsimp only
  exact hs.setCore

theorem Kept.setTileOp {core : Nat} {o : TileOp} (hs : Kept M Z s) : Kept M Z (setTileOp s core o) := by
  unfold Machine.setTileOp
  dsimp only
  exact hs.setTile

theorem Kept.multiplyRow {core : Nat} {o : TileOp} (hs : Kept M Z s) : UnitKept M Z (multiplyRow s core o) := by
  unfold Machine.multiplyRow
  dsimp only
  refine hs.sectorStep (fun b c => hs.sectorStep (fun b1 c1 => hs.sectorStep (fun b2 c2 => hs.sectorStep (fun b3 c3 => ?_))))
  split
  · exact trivial
  · exact hs.unitTouch.unitTouch.setTile

theorem Kept.copyRow {core : Nat} {o : TileOp} (hs : Kept M Z s) : UnitKept M Z (copyRow s core o) := by
  unfold Machine.copyRow
  dsimp only
  refine iteInduction (fun _ => hs.sectorStep (fun _ _ => hs.unitTouch.setTile)) fun _ => ?_
  refine iteInduction (fun _ => trivial) fun _ => ?_
  refine hs.sectorStep (fun b c => ?_)
  split
  · exact hs.setCore
  · exact hs.unitTouch.storeCells

theorem Kept.tilePush {o : TileOp} {data : Word} (hs : Kept M Z s) : Kept M Z (tilePush s o data) := by
  unfold Machine.tilePush
  exact hs.sendElem

theorem Kept.drainRow {core : Nat} {o : TileOp} (hs : Kept M Z s) : UnitKept M Z (drainRow s core o) := by
  unfold Machine.drainRow
  dsimp only
  refine iteInduction (fun _ => trivial) fun _ => ?_
  split
  · split
    · exact hs
    · split
      · exact hs.awaitCredit
      · exact hs.tilePush
  · exact hs.sectorStep (fun _ _ => hs.setCore)
  · exact hs.sectorStep (fun _ _ => hs.unitTouch.storeCells)

theorem Kept.tileRow {core : Nat} {o : TileOp} (hs : Kept M Z s) : UnitKept M Z (tileRow s core o) := by
  unfold Machine.tileRow
  dsimp only
  split
  · exact hs.setTile
  · exact hs.multiplyRow
  · exact hs.multiplyRow
  · exact hs.multiplyRow
  · exact hs.copyRow
  · exact hs.copyRow
  · exact hs.drainRow
  · exact hs

theorem Kept.endUnitPart {core : Nat} {o : TileOp} (hs : Kept M Z s) : Kept M Z (endUnitPart s core o) := by
  unfold Machine.endUnitPart
  dsimp only
  exact hs.setTile

theorem Kept.tileMiss {core : Nat} {o : TileOp} {page need : Nat} (hs : Kept M Z s) : Kept M Z (tileMiss s core o page need) := by
  unfold Machine.tileMiss
  split
  next he =>
    exact (hs.joinMiss _ he).setTileOp
  · exact hs

theorem Kept.clearStop {core : Nat} (hs : Kept M Z s) : Kept M Z (clearStop s core) := by
  unfold Machine.clearStop
  dsimp only
  exact hs.setTile

theorem Kept.abortSlot {core slot : Nat} (hs : Kept M Z s) : Kept M Z (abortSlot s core slot) := by
  unfold Machine.abortSlot
  dsimp only
  exact foldl_keeps (Kept M Z) _ (fun _ _ ht => ht.completeTile) _ _ hs

theorem Kept.execTcfg {a : Reg} {k : BitVec 6} (hs : Kept M Z s) : OutKept M Z (execTcfg a k s) := by
  unfold Machine.execTcfg
  refine hs.issue fun v hv => ?_
  split
  · exact trivial
  · exact BodyKept.ok hv.state.setTset hv.strand

theorem Kept.execTzero {acc : VReg} (hs : Kept M Z s) : OutKept M Z (execTzero acc s) := by
  unfold Machine.execTzero
  exact hs.issue (fun _ hv => hv.acceptTile)

theorem Kept.execTamax {a : Reg} {k : BitVec 6} (hs : Kept M Z s) : OutKept M Z (execTamax a k s) := by
  unfold Machine.execTamax
  refine hs.issue fun v hv => ?_
  split
  · exact trivial
  · exact BodyKept.ok hv.state.setTset hv.strand

theorem Kept.execTrowh {a : Reg} {k : BitVec 6} (hs : Kept M Z s) : OutKept M Z (execTrowh a k s) := by
  unfold Machine.execTrowh
  dsimp only
  refine hs.issue fun v hv => ?_
  refine iteInduction (fun _ => BodyKept.ok hv.state.setTset hv.strand) fun _ => ?_
  split
  · exact BodyKept.ok hv.state.setTset hv.strand
  · exact BodyKept.ok hv.state.setTset hv.strand
  · exact trivial
  · exact trivial
  · exact trivial

theorem Kept.execTresume (hs : Kept M Z s) : OutKept M Z (execTresume s) := by
  unfold Machine.execTresume
  refine hs.issue fun v hv => ?_
  split
  · exact hv.results
  · exact BodyKept.ok hv.state.clearStop.setTileOp hv.strand

theorem Kept.execTabort (hs : Kept M Z s) : OutKept M Z (execTabort s) := by
  unfold Machine.execTabort
  refine hs.issue fun v hv => ?_
  split
  · exact hv.results
  · exact BodyKept.ok hv.state.clearStop.abortSlot hv.strand

theorem Kept.execTmma {acc : VReg} {a b : Reg} {k : BitVec 2} {zero : Bool} {cn : Option (BitVec 4)} (hs : Kept M Z s) :
    OutKept M Z (execTmma acc a b k zero cn s) := by
  unfold Machine.execTmma
  dsimp only
  exact hs.issue (fun _ hv => hv.multiply)

theorem Kept.execTmmas {acc : VReg} {a b : Reg} {k : BitVec 2} {zero : Bool} {sel : BitVec 2} {cn : Option (BitVec 4)}
    (hs : Kept M Z s) : OutKept M Z (execTmmas acc a b k zero sel cn s) := by
  unfold Machine.execTmmas
  dsimp only
  exact hs.issue (fun _ hv => hv.multiply)

theorem Kept.execTmmax {acc : VReg} {a b sa sb : Reg} {k : BitVec 2} {zero : Bool} {sel : BitVec 2} {cn : Option (BitVec 4)}
    (hs : Kept M Z s) : OutKept M Z (execTmmax acc a b sa sb k zero sel cn s) := by
  unfold Machine.execTmmax
  dsimp only
  exact hs.issue (fun _ hv => hv.multiply)

theorem Kept.execTlacc {acc : VReg} {a stride : Reg} {k : BitVec 2} {spad : Bool} {cn : Option (BitVec 4)} (hs : Kept M Z s) :
    OutKept M Z (execTlacc acc a stride k spad cn s) := by
  unfold Machine.execTlacc
  dsimp only
  refine hs.issue fun v hv => ?_
  split
  · exact trivial
  · exact hv.acceptTile

theorem Kept.execTsacc {acc : VReg} {a stride : Reg} {k : BitVec 2} {spad : Bool} {cn : Option (BitVec 4)} (hs : Kept M Z s) :
    OutKept M Z (execTsacc acc a stride k spad cn s) := by
  unfold Machine.execTsacc
  dsimp only
  refine hs.issue fun v hv => ?_
  split
  · exact trivial
  · exact hv.acceptTile

theorem Kept.execTdrain {acc : VReg} {dest stride : Reg} {k : BitVec 2} {t : ElemTy} {rm : Rnd} {kind : BitVec 2} {sat : Bool}
    {cn : Option (BitVec 4)} (hs : Kept M Z s) : OutKept M Z (execTdrain acc dest stride k t rm kind sat cn s) := by
  unfold Machine.execTdrain
  dsimp only
  refine hs.issue fun v hv => ?_
  split
  · exact trivial
  · split
    · exact ExceptKept.error kept_Fail_stop
    · refine ValsKept.acceptTile ⟨?_, hv.strand⟩
      split
      · exact hv.state
      · exact hv.state.touchEnds

theorem Kept.execTdrainHandler {acc : VReg} {dest stride arg : Reg} {k : BitVec 2} {cn : Option (BitVec 4)} (hs : Kept M Z s) :
    OutKept M Z (execTdrainHandler acc dest stride arg k cn s) := by
  unfold Machine.execTdrainHandler
  dsimp only
  exact hs.issue (fun _ hv => hv.acceptTile)

theorem Kept.execRowout {dest m : Reg} {swz : BitVec 6} {t : ElemTy} {rm : Rnd} {kind : BitVec 2} {sat : Bool}
    (hs : Kept M Z s) : OutKept M Z (execRowout dest m swz t rm kind sat s) := by
  unfold Machine.execRowout
  dsimp only
  refine hs.issue fun v hv => ?_
  refine iteInduction (fun _ => trivial) fun _ => ?_
  split
  · refine iteInduction (fun _ => trivial) fun _ => ?_
    split
    · split
      · exact ExceptKept.keep hv.state.waitRoom
      · exact BodyKept.ok ((foldl_keeps (PairKept M Z) _ (fun _ _ hb => hb.1.pushPort hb.2) _ _ ⟨hv.state, hv.strand⟩).1)
            ((foldl_keeps (PairKept M Z) _ (fun _ _ hb => hb.1.pushPort hb.2) _ _ ⟨hv.state, hv.strand⟩).2)
    · split
      · exact ExceptKept.keep hv.state.waitRoom
      · exact BodyKept.ok ((foldl_keeps (PairKept M Z) _ (fun _ _ hb => hb.1.pushPort hb.2) _ _ ⟨hv.state, hv.strand⟩).1)
            ((foldl_keeps (PairKept M Z) _ (fun _ _ hb => hb.1.pushPort hb.2) _ _ ⟨hv.state, hv.strand⟩).2)
  · split
    · exact trivial
    · split
      · exact trivial
      · exact BodyKept.ok hv.state.setCore hv.strand
  · refine iteInduction (fun _ => BodyKept.ok hv.state hv.strand) fun _ => ?_
    refine iteInduction (fun _ => trivial) fun _ => ?_
    split
    next he =>
      exact ExceptKept.error (hv.storeLanes.stop he)
    next he =>
      exact BodyKept.ok ((hv.storeLanes.get he).1) ((hv.storeLanes.get he).2)

theorem Kept.execTileOpStart {core : Nat} (hs : Kept M Z s) : OutKept M Z (execTileOpStart core s) := by
  unfold Machine.execTileOpStart
  dsimp only
  split
  · exact hs
  · refine iteInduction (fun _ => hs) fun _ => ?_
    split
    next he1 =>
      refine Kept.noteMoved ?_
      split
      · exact ((hs.tileRow.get he1).setTile).endUnitPart
      · exact ((hs.tileRow.get he1).setTile).setTileOp
    next he1 =>
      exact (hs.tileRow.held he1)
    · exact hs.tileMiss
    · exact hs.setTile

theorem Kept.execTileUnitStop {core : Nat} (hs : Kept M Z s) : OutKept M Z (execTileUnitStop core s) := by
  unfold Machine.execTileUnitStop
  dsimp only
  split
  · exact hs.setTile
  · exact hs

theorem Kept.execTileOpComplete {core op : Nat} (hs : Kept M Z s) : OutKept M Z (execTileOpComplete core op s) := by
  unfold Machine.execTileOpComplete
  dsimp only
  split
  · exact hs
  · refine OutKept.next ?_
    split
    · split
      · exact hs.completeTile
      · exact hs
    · split
      · exact hs.completeTile
      · exact hs

theorem Kept.execAmaxAtomic {core op : Nat} (hs : Kept M Z s) : OutKept M Z (execAmaxAtomic core op s) := by
  unfold Machine.execAmaxAtomic
  dsimp only
  split
  · exact hs
  · refine iteInduction (fun _ => hs) fun _ => ?_
    split
    · exact hs.tileMiss
    · exact hs
    · exact hs.setTileOp.setCore
    · refine iteInduction (fun _ => hs.setTileOp.setCore) fun _ => ?_
      split
      · exact hs.setTileOp.setCore
      · exact hs.touchEnds.setTileOp.storeCells

theorem noX0_rowStrand {o : TileOp} {row : List (BitVec 32)} : NoX0 Z (rowStrand s o row) := by
  intro _
  simp [Machine.rowStrand, Tab.find_set_ne, Tab.find]

theorem Kept.execRowHandlerDispatch {core : Nat} (hs : Kept M Z s) : OutKept M Z (execRowHandlerDispatch core s) := by
  unfold Machine.execRowHandlerDispatch
  dsimp only
  split
  · exact hs
  · refine iteInduction (fun _ => hs) fun _ => ?_
    split
    · exact hs
    · refine iteInduction (fun _ => hs.setTile) fun _ => ?_
      refine Kept.noteMoved ?_
      split
      · exact ((hs.setStrand noX0_rowStrand.frame).frame).endUnitPart
      · exact ((hs.setStrand noX0_rowStrand.frame).frame).setTileOp

end Sys2Proof.Machine
end

section
/-! O3: what the functions of Sys2Proof.Machine.Merge keep. -/

namespace Sys2Proof.Machine

set_option Elab.async false

variable {M Z : Prop} {s t : State} {st st' : Strand} {v : Vals} {cx : Ctx} {α β : Type}

theorem Kept.setMerge {core : Nat} {m : MergeUnit} (hs : Kept M Z s) : Kept M Z (setMerge s core m) := by
  unfold Machine.setMerge
  dsimp only
  exact hs.setCore

theorem Kept.popFibre {core k coord : Nat} (hs : Kept M Z s) : Kept M Z (popFibre s core k coord) := by
  unfold Machine.popFibre
  dsimp only
  split
  · exact hs
  · refine (Kept.noteMoved ?_).setMerge
    split
    · exact hs.popForGen
    · exact hs

theorem Kept.emitPair {core : Nat} {r : MergeRun} {coord : Nat} {v : BitVec 32} (hs : Kept M Z s) :
    Kept M Z (emitPair s core r coord v) := by
  unfold Machine.emitPair
  dsimp only
  split
  · split
    · exact hs
    · split
      · exact hs.awaitCredit
      · exact hs.noteMoved.sendElem.setMerge
  · split
    · exact hs
    · exact hs.noteMoved.setCore

theorem Kept.mergeGo {fuel core : Nat} (hs : Kept M Z s) : Kept M Z (mergeGo fuel s core) := by
  induction fuel generalizing s with
  | zero => exact hs
  | succ fuel ih =>
    unfold Machine.mergeGo
    dsimp only
    split
    · exact hs
    · split
      · exact hs
      · split
        · exact hs.emitPair
        · split
          · exact hs
          · exact hs
          · exact iteInduction (fun _ => ih hs.popFibre.setMerge) fun _ => ih hs.setMerge
          · exact ih hs.setMerge

theorem Kept.mergeToken {r : MergeRun} {tag : Nat} {payload : Word} (hs : Kept M Z s) :
    (∀ t, mergeToken s r tag payload = .ok t → Kept M Z t) ∧ ∀ t, mergeToken s r tag payload = .error t → Kept M Z t := by
  unfold Machine.mergeToken
  constructor
  · intro t he
    split at he
    · cases he; exact hs
    · split at he
      · cases he
      · split at he <;> cases he
        exact hs.sendElem
  · intro t he
    split at he
    · cases he
    · split at he
      · cases he; exact hs
      · split at he <;> cases he
        exact hs.awaitCredit

theorem kept_readFibres {off n : Nat} : ExceptKept M Z (fun _ => True) (readFibres v off n) := by
  unfold Machine.readFibres
  dsimp only
  split
  next he =>
    exact ExceptKept.error (kept_spadLoad.stop he)
  · exact trivial

theorem Kept.execMcfg {a : Reg} {n : BitVec 6} (hs : Kept M Z s) : OutKept M Z (execMcfg a n s) := by
  unfold Machine.execMcfg
  dsimp only
  refine hs.issue fun v hv => ?_
  refine iteInduction (fun _ => trivial) fun _ => ?_
  split
  next he =>
    exact ExceptKept.error (kept_readFibres.stop he)
  · refine iteInduction (fun _ => trivial) fun _ => ?_
    split
    · exact trivial
    · exact BodyKept.ok hv.state.setMerge hv.strand

theorem Kept.execMrun {out : Reg} {port : Bool} {tag : BitVec 3} {cn : Option (BitVec 4)} (hs : Kept M Z s) :
    OutKept M Z (execMrun out port tag cn s) := by
  unfold Machine.execMrun
  dsimp only
  refine hs.issue fun v hv => ?_
  refine iteInduction (fun _ => trivial) fun _ => ?_
  split
  · exact trivial
  · exact BodyKept.ok hv.state.setCore hv.strand.frame

theorem Kept.execMstat {d : Reg} (hs : Kept M Z s) : OutKept M Z (execMstat d s) := by
  unfold Machine.execMstat
  exact hs.issue (fun _ hv => hv.results)

theorem Kept.execMstop (hs : Kept M Z s) : OutKept M Z (execMstop s) := by
  unfold Machine.execMstop
  dsimp only
  exact hs.issue (fun _ hv => BodyKept.ok hv.state.setMerge hv.strand)

theorem Kept.execMergeEmit {core : Nat} (hs : Kept M Z s) : OutKept M Z (execMergeEmit core s) := by
  unfold Machine.execMergeEmit
  dsimp only
  split
  · exact hs
  · refine iteInduction (fun _ => hs) fun _ => ?_
    split
    · exact hs.mergeGo
    · split
      · exact hs
      · exact hs.setMerge.mergeGo
    · exact hs

theorem Kept.execMergeToken {core : Nat} (hs : Kept M Z s) : OutKept M Z (execMergeToken core s) := by
  unfold Machine.execMergeToken
  dsimp only
  split
  · exact hs
  · refine iteInduction (fun _ => hs) fun _ => ?_
    refine iteInduction (fun _ => hs.setMerge.completeMerge) fun _ => ?_
    refine iteInduction (fun _ => hs) fun _ => ?_
    split
    · refine iteInduction (fun _ => hs.completeMerge) fun _ => ?_
      split
      next he => exact hs.mergeToken.2 _ he
      next he => exact (hs.mergeToken.1 _ he).completeMerge
    · split
      next he => exact hs.mergeToken.2 _ he
      next he =>
        exact iteInduction
          (fun _ => (foldl_keeps (Kept M Z) _ (fun _ _ ht => ht.popForGen) _ _
            (hs.mergeToken.1 _ he).noteMoved).setMerge.completeMerge)
          fun _ => (foldl_keeps (Kept M Z) _ (fun _ _ ht => ht.popForGen) _ _ (hs.mergeToken.1 _ he).noteMoved).setMerge

theorem Kept.execMergeFault {core : Nat} (hs : Kept M Z s) : OutKept M Z (execMergeFault core s) := by
  unfold Machine.execMergeFault
  dsimp only
  split
  · split
    · exact hs
    · exact hs.setCore
  · exact hs

end Sys2Proof.Machine
end

section
/-! O3: what the functions of Sys2Proof.Machine.System keep. -/

namespace Sys2Proof.Machine

set_option Elab.async false

variable {M Z : Prop} {s t : State} {st st' : Strand} {v : Vals} {cx : Ctx} {α β : Type}

theorem Kept.popMissq {core : Nat} (hs : Kept M Z s) : FstKept M Z (popMissq s core) := by
  unfold Machine.popMissq
  dsimp only
  split
  · exact hs
  · exact hs.setCluster

theorem Kept.writeCsr {core : Nat} {n : Nat} {v : Word} (hs : Kept M Z s) (hst : NoX0 Z st) :
    PairKept M Z (writeCsr s core st n v) := by
  unfold Machine.writeCsr
  dsimp only
  refine iteInduction (fun _ => ⟨hs, hst.frame⟩) fun _ => ?_
  refine iteInduction (fun _ => ⟨hs, hst.frame⟩) fun _ => ?_
  refine iteInduction (fun _ => ⟨hs.setTset, hst⟩) fun _ => ?_
  split
  · exact ⟨hs.setCore, hst⟩
  · exact ⟨hs.setCore, hst⟩
  · exact ⟨hs.setCore, hst⟩
  · exact ⟨hs.setCore, hst⟩
  · exact ⟨hs.setCore, hst⟩
  · exact ⟨hs.setCore, hst⟩
  · exact ⟨hs.setCore, hst⟩
  · exact ⟨hs, hst⟩

theorem ValsKept.csrModify {n : Nat} {f : Word} (hv : ValsKept M Z v) : BodyKept M Z (csrModify v n f) := by
  unfold Machine.csrModify
  dsimp only
  refine iteInduction (fun _ => ?_) fun _ => BodyKept.ok ((hv.state.writeCsr hv.strand).1) ((hv.state.writeCsr hv.strand).2)
  split
  next he =>
    exact ExceptKept.error (kept_volumeOf.stop he)
  · refine iteInduction (fun _ => trivial) fun _ => ?_
    split
    · exact ExceptKept.error kept_volumePoison
    · exact BodyKept.ok hv.touched.state.poolPush hv.strand

theorem Kept.execCsrr {d : Reg} {csr : BitVec 12} (hs : Kept M Z s) : OutKept M Z (execCsrr d csr s) := by
  unfold Machine.execCsrr
  dsimp only
  refine hs.issue fun v hv => ?_
  refine iteInduction (fun _ => BodyKept.ok hv.state.popMissq hv.strand) fun _ => ?_
  split
  · split
    next he1 =>
      exact ExceptKept.error (kept_volumeOf.stop he1)
    · refine iteInduction (fun _ => trivial) fun _ => ?_
      split
      · exact ExceptKept.error kept_volumePoison
      · exact hv.touched.results
  · split
    · exact trivial
    · exact hv.results

theorem Kept.execCsrw {csr : BitVec 12} {r0 : Reg} (hs : Kept M Z s) : OutKept M Z (execCsrw csr r0 s) := by
  unfold Machine.execCsrw
  exact hs.issue (fun _ hv => hv.csrModify)

theorem Kept.execCsrset {csr : BitVec 12} {r0 : Reg} (hs : Kept M Z s) : OutKept M Z (execCsrset csr r0 s) := by
  unfold Machine.execCsrset
  exact hs.issue (fun _ hv => hv.csrModify)

theorem Kept.execCsrclr {csr : BitVec 12} {r0 : Reg} (hs : Kept M Z s) : OutKept M Z (execCsrclr csr r0 s) := by
  unfold Machine.execCsrclr
  exact hs.issue (fun _ hv => hv.csrModify)

theorem Kept.execTlbw {a b : Reg} (hs : Kept M Z s) : OutKept M Z (execTlbw a b s) := by
  unfold Machine.execTlbw
  dsimp only
  refine hs.issue fun v hv => ?_
  refine iteInduction (fun _ => trivial) fun _ => ?_
  refine iteInduction (fun _ => BodyKept.ok hv.state.answerMisses hv.strand) fun _ => ?_
  split
  · split
    · exact trivial
    · exact BodyKept.ok hv.state.install.answerMisses hv.strand
  · split
    · exact trivial
    · exact BodyKept.ok hv.state.install.answerMisses hv.strand

theorem Kept.tlbDrop {core : Nat} {p : TlbEntry → Bool} (hs : Kept M Z s) : Kept M Z (tlbDrop s core p) := by
  unfold Machine.tlbDrop
  dsimp only
  exact hs.frame

theorem ValsKept.removal {remove : State → State} {busy : State → Bool} (hv : ValsKept M Z v)
    (hr : ∀ s, Kept M Z s → Kept M Z (remove s)) : BodyKept M Z (removal v remove busy) := by
  have hs := hr _ hv.state
  unfold Machine.removal
  dsimp only
  split
  · split
    · exact trivial
    · exact BodyKept.ok hv.state hv.strand
  · split
    · exact ExceptKept.keep (hs.setStrand hv.strand.frame).stall
    · exact BodyKept.ok hs hv.strand

theorem Kept.execTlbi {a b : Reg} (hs : Kept M Z s) : OutKept M Z (execTlbi a b s) := by
  unfold Machine.execTlbi
  refine hs.issue fun v hv => ?_
  split
  · exact trivial
  · exact hv.removal (fun _ ht => ht.tlbDrop)

theorem Kept.execClbi {a b : Reg} (hs : Kept M Z s) : OutKept M Z (execClbi a b s) := by
  unfold Machine.execClbi
  dsimp only
  refine hs.issue fun v hv => ?_
  split
  · split
    · exact trivial
    · exact BodyKept.ok hv.state.clbDrop hv.strand
  · split
    · exact trivial
    · exact BodyKept.ok hv.state.clbDrop hv.strand

theorem Kept.execMigr {d a b : Reg} (hs : Kept M Z s) : OutKept M Z (execMigr d a b s) := by
  unfold Machine.execMigr
  dsimp only
  exact hs.issue (fun _ hv => BodyKept.ok hv.state.frame hv.strand.frame)

theorem Kept.writeExtent {list i : Nat} {x : Nat × Nat × Nat} (hs : Kept M Z s) : Kept M Z (writeExtent s list i x) := by
  unfold Machine.writeExtent
  exact hs.physWrite.physWrite

theorem Kept.moveExtents {p : Partition} {oid off target : Nat} {x : Nat × Nat × Nat} {idx : Nat} (hs : Kept M Z s) :
    Kept M Z (moveExtents s p oid off target x idx) := by
  unfold Machine.moveExtents
  dsimp only
  split
  · exact hs.writeExtent
  · exact ((foldl_keeps (Kept M Z) _ (fun _ _ ht => ht.writeExtent) _ _ hs).physWrite).writeExtent

theorem Kept.endMove {m : Move} {code : Nat} (hs : Kept M Z s) : Kept M Z (endMove s m code) := by
  unfold Machine.endMove
  dsimp only
  split
  next he =>
    exact hs.frame.setStrand ((hs.frame.strand _ he).deliverX)
  · exact hs.frame

theorem Kept.execMigrationComplete {mig : Nat} (hs : Kept M Z s) : OutKept M Z (execMigrationComplete mig s) := by
  unfold Machine.execMigrationComplete
  split
  · exact hs
  · refine iteInduction (fun _ => hs.endMove) fun _ => ?_
    split
    · exact hs.endMove
    · split
      · exact hs.endMove
      · extract_lets w3 cells s'
        have hs' : Kept M Z s' := hs.physWrite
        clear_value cells s'
        refine iteInduction (fun _ => hs.endMove) fun _ => iteInduction (fun _ => hs.endMove) fun _ => ?_
        refine iteInduction (fun _ => hs) fun _ => iteInduction (fun _ => hs.endMove) fun _ => ?_
        exact hs'.moveExtents.tlbDrop.endMove

theorem Kept.execEcall {n : BitVec 7} (hs : Kept M Z s) : OutKept M Z (execEcall n s) := by
  unfold Machine.execEcall
  exact hs.issue (fun _ hv => BodyKept.ok hv.state hv.strand)

theorem Kept.execEbreak {n : BitVec 7} (hs : Kept M Z s) : OutKept M Z (execEbreak n s) := by
  unfold Machine.execEbreak
  exact hs.issue (fun _ hv => BodyKept.ok hv.state hv.strand)

theorem Kept.execRepart {a : Reg} (hs : Kept M Z s) : OutKept M Z (execRepart a s) := by
  unfold Machine.execRepart
  dsimp only
  refine hs.issue fun v hv => ?_
  refine iteInduction (fun _ => trivial) fun _ => ?_
  split
  · exact trivial
  · exact BodyKept.ok hv.state.setCore hv.strand

end Sys2Proof.Machine
end

section
/-! O3: what the functions of Sys2Proof.Machine.Recovery keep. -/

namespace Sys2Proof.Machine

set_option Elab.async false

variable {M Z : Prop} {s t : State} {st st' : Strand} {v : Vals} {cx : Ctx} {α β : Type}

theorem Kept.discardTiles {core slot gen : Nat} (hs : Kept M Z s) : Kept M Z (discardTiles s core slot gen) := by
  unfold Machine.discardTiles
  dsimp only
  refine foldl_keeps (Kept M Z) _ (fun _ _ ht => ht.completeTile) _ _ ?_
  split
  · exact hs.clearStop
  · exact hs

theorem Kept.discardOps {core gen : Nat} (hs : Kept M Z s) : Kept M Z (discardOps s core gen) := by
  unfold Machine.discardOps
  dsimp only
  exact hs.setCore

theorem Kept.retireStrand {core place slot : Nat} (hs : Kept M Z s) : Kept M Z (retireStrand s core place slot st) := by
  unfold Machine.retireStrand
  dsimp only
  exact hs.discardTiles.discardOps.endStrand

theorem Kept.namedStrand {core : Nat} (hs : Kept M Z s) : OptKept (fun p => NoX0 Z p.2) (namedStrand s core) := by
  unfold Machine.namedStrand
  dsimp only
  split
  next he =>
    split
    · exact OptKept.some (hs.strand _ he)
    · exact OptKept.none
  · exact OptKept.none

theorem Kept.withdrawBars {core : Nat} (hs : Kept M Z s) : Kept M Z (withdrawBars s core) := by
  unfold Machine.withdrawBars
  dsimp only
  refine hs.mapStrands (fun e hst => ?_)
  split
  · exact hst.frame
  · exact hst

theorem Kept.beginPreempt {core : Nat} (hs : Kept M Z s) : Kept M Z (beginPreempt s core) := by
  unfold Machine.beginPreempt
  dsimp only
  exact hs.setCore.withdrawBars

theorem Kept.dropSaved {core : Nat} (hs : Kept M Z s) : Kept M Z (dropSaved s core) := by
  unfold Machine.dropSaved
  refine foldl_keeps (Kept M Z) _ (fun t a ht => ?_) _ _ hs
  split
  · exact ht.endStrand
  · exact ht

theorem Kept.dropSpill {core : Nat} (hs : Kept M Z s) : Kept M Z (dropSpill s core) := by
  unfold Machine.dropSpill
  refine foldl_keeps (Kept M Z) _ (fun t a ht => ?_) _ _ hs
  split
  · exact ht.acknowledge
  · exact ht.dropBeats.endDest

theorem Kept.endForRecord {core : Nat} (hs : Kept M Z s) : Kept M Z (endForRecord s core) := by
  unfold Machine.endForRecord
  dsimp only
  split
  · exact hs.dropSaved.dropSpill.setCore
  · exact hs

theorem Kept.takeHeld {core : Nat} {e : HeldEvent} (hs : Kept M Z s) : Kept M Z (takeHeld s core e) := by
  unfold Machine.takeHeld
  dsimp only
  split
  · exact hs.setCore.endForRecord.setCore.takeEvent
  · exact hs.setCore.endForRecord.setCore.takeEvent
  · refine Kept.takeEvent ?_
    split
    · refine Kept.beginPreempt ?_
      split
      · exact hs.setCore.setCore
      · exact hs.setCore
    · split
      · refine Kept.setCore ?_
        split
        · exact hs.setCore.setCore
        · exact hs.setCore
      · split
        · exact hs.setCore.setCore
        · exact hs.setCore
  · exact hs.setCore.takeEvent
  · split
    next he =>
      exact (hs.setCore.setStrand ((hs.setCore.strand _ he).frame)).takeEvent
    · exact hs.setCore

theorem Kept.takeNext {core : Nat} (hs : Kept M Z s) : Kept M Z (takeNext s core) := by
  unfold Machine.takeNext
  dsimp only
  refine iteInduction (fun _ => hs) fun _ => ?_
  split
  · exact hs.takeHeld
  · exact hs

theorem Kept.takeWhen {core : Nat} {p : HeldEvent → Bool} (hs : Kept M Z s) : Kept M Z (takeWhen s core p) := by
  unfold Machine.takeWhen
  split
  · exact hs.takeNext
  · exact hs

theorem Kept.drainChannel {fuel core chan : Nat} (hs : Kept M Z s) : Kept M Z (drainChannel fuel s core chan) := by
  induction fuel generalizing s with
  | zero => exact hs
  | succ fuel ih =>
    unfold Machine.drainChannel
    exact ih (iteInduction (fun _ => hs.deliverBeat) fun _ => hs.startTransfer)

theorem Kept.replay {core : Nat} {b : Spill} (hs : Kept M Z s) : Kept M Z (replay core s b) := by
  unfold Machine.replay
  dsimp only
  split
  · split
    · exact hs.setCore
    · exact hs.acknowledge
  · exact hs.setCore.drainChannel

theorem Kept.replaySpill {fuel core : Nat} (hs : Kept M Z s) : Kept M Z (replaySpill fuel s core) := by
  induction fuel generalizing s with
  | zero => exact hs
  | succ fuel ih =>
    unfold Machine.replaySpill
    dsimp only
    split
    · exact hs
    · exact iteInduction (fun _ => hs) fun _ => ih hs.setCore.replay

theorem Kept.endPreempt {core : Nat} (hs : Kept M Z s) : Kept M Z (endPreempt s core) := by
  unfold Machine.endPreempt
  dsimp only
  split
  · exact hs.setCore.replaySpill
  · exact hs

theorem Kept.resumeAt {core slot : Nat} {pc : Word} (hs : Kept M Z s) (hst : NoX0 Z st) :
    Kept M Z (resumeAt s core slot st pc) := by
  unfold Machine.resumeAt
  exact (hs.setStrand hst.frame).stopWaiting

theorem Kept.eretEffect {core : Nat} (hs : Kept M Z s) : Kept M Z (eretEffect s core) := by
  unfold Machine.eretEffect
  dsimp only
  refine ((Kept.endPreempt ?_).setCore).takeNext
  split
  next he1 =>
    split
    · exact (hs.resumeAt (hs.namedStrand _ he1)).noteMoved
    · exact hs.resumeAt (hs.namedStrand _ he1)
  · split
    · exact hs.retireStrand.noteMoved
    · exact hs.retireStrand
  · split
    · exact hs.abandon.noteMoved
    · exact hs.abandon
  · split
    · exact hs.noteMoved
    · exact hs

theorem Kept.execEret (hs : Kept M Z s) : OutKept M Z (execEret s) := by
  refine hs.issue fun v hv => ?_
  dsimp only
  refine iteInduction (fun _ => ExceptKept.keep ?_) fun _ =>
    ExceptKept.keep (DoneKept.retire ⟨hv.state, hv.strand⟩).eretEffect
  split
  next he =>
    exact (DoneKept.retire ⟨hv.state.setCore, hv.strand⟩).setStrand
      ((DoneKept.retire ⟨hv.state.setCore, hv.strand⟩).strand _ he).frame
  · exact DoneKept.retire ⟨hv.state.setCore, hv.strand⟩

theorem Kept.execWatchdog {core lid : Nat} (hs : Kept M Z s) : OutKept M Z (execWatchdog core lid s) := by
  unfold Machine.execWatchdog
  exact hs.takeWhen

theorem Kept.execHostInterrupt {core lid reason : Nat} (hs : Kept M Z s) : OutKept M Z (execHostInterrupt core lid reason s) := by
  unfold Machine.execHostInterrupt
  exact hs.takeWhen

theorem Kept.execPreempt {core reason : Nat} (hs : Kept M Z s) : OutKept M Z (execPreempt core reason s) := by
  unfold Machine.execPreempt
  dsimp only
  split
  · exact hs.holdEvent.takeWhen
  · exact hs

theorem Kept.execWatchRunaway {core : Nat} (hs : Kept M Z s) : OutKept M Z (execWatchRunaway core s) := by
  unfold Machine.execWatchRunaway
  exact hs.takeWhen

theorem Kept.execUndeliverable {core slot : Nat} (hs : Kept M Z s) : OutKept M Z (execUndeliverable core slot s) := by
  unfold Machine.execUndeliverable
  exact hs.takeWhen

theorem noX0_porterStrand {core : Nat} {m : Message} {pc : Word} : NoX0 Z (porterStrand s core m pc) := by
  intro _
  simp [Machine.porterStrand, Tab.find_set_ne, Tab.find]

theorem Kept.execPorterRunStart {core : Nat} (hs : Kept M Z s) : OutKept M Z (execPorterRunStart core s) := by
  unfold Machine.execPorterRunStart
  extract_lets c
  -- named apart, so that the kernel does not evaluate the check while it tells the cases apart
  obtain ⟨check, hcheck⟩ : ∃ f, checkHead s { core := core, sup := false, declined := c.porterWait.toList } = f := ⟨_, rfl⟩
  rw [hcheck]
  split
  · exact hs
  · refine iteInduction (fun _ => hs) fun _ => ?_
    extract_lets popped lost
    have hp {t : State} (ht : Kept M Z t) : Kept M Z (popped t) := ht.setCore.replaySpill
    have hl : Kept M Z lost := hp hs.acknowledge
    clear_value popped lost
    split
    · exact hl
    · dsimp only
      split
      · exact hp (hs.setStrand noX0_porterStrand).frame.noteRan
      · exact hp (hs.setStrand noX0_porterStrand).frame.noteRan
      · refine iteInduction (fun _ => hs) fun _ => ?_
        split
        next he => exact (hs.joinMiss _ he).setCore
        · exact hs
      · exact hl

theorem Kept.touchRecord {core : Nat} {w a : Word} (hs : Kept M Z s) : Kept M Z (touchRecord s core w a) := by
  unfold Machine.touchRecord
  exact foldl_keeps (Kept M Z) _ (fun _ _ ht => ht.touchEnds) _ _ hs

theorem kept_recordAt {w a : Word} {write : Bool} : ExceptKept M Z (fun _ => True) (recordAt v w a write) := by
  unfold Machine.recordAt
  refine iteInduction (fun _ => trivial) fun _ => ?_
  split
  · exact ExceptKept.error kept_Fail_stop
  · exact trivial

theorem Kept.execCtxsave {a b : Reg} (hs : Kept M Z s) : OutKept M Z (execCtxsave a b s) := by
  unfold Machine.execCtxsave
  dsimp only
  refine hs.issue fun v hv => ?_
  refine iteInduction (fun _ => trivial) fun _ => ?_
  split
  next he =>
    exact ExceptKept.error (kept_recordAt.stop he)
  · split
    · split
      · exact trivial
      · exact BodyKept.ok hv.state.touchRecord.frame.storeCells hv.strand
    · split
      · exact BodyKept.ok hv.state.touchRecord.storeCells hv.strand
      next he1 =>
        split
        · exact trivial
        · exact BodyKept.ok (((hv.state.touchRecord.storeCells.dropStrand.setStrand
              (hv.state.touchRecord.strand _ he1)).stopWaiting).setCore) hv.strand

/-- Registers read back one by one, x0 left out, list no value for x0 R23. -/
theorem find_zero_of_restored (f : Nat → Word) (ns : List Nat) (xs : Tab Word) (h : xs.find 0 = none) :
    (ns.foldl (fun t n => if n = 0 then t else Tab.set 0 n (f n) t) xs).find 0 = none :=
  foldl_keeps (fun t : Tab Word => t.find 0 = none) _ (fun t n ht => by
    split
    · exact ht
    next hn => exact (Tab.find_set_ne (Ne.symm hn) t).trans ht) ns xs h

theorem noX0_restoreStrand {bs : List Byte} : NoX0 Z (restoreStrand st bs) :=
  fun _ => find_zero_of_restored (fun n => recordWord bs (0x100 + 8 * n)) _ [] rfl

theorem Kept.restoreCore {core : Nat} {bs : List Byte} (hs : Kept M Z s) : Kept M Z (restoreCore s core bs) := by
  unfold Machine.restoreCore
  dsimp only
  refine Kept.setCore ?_
  split
  · exact hs.frame
  · exact hs

theorem Kept.execCtxrest {a b : Reg} (hs : Kept M Z s) : OutKept M Z (execCtxrest a b s) := by
  unfold Machine.execCtxrest
  dsimp only
  refine hs.issue fun v hv => ?_
  refine iteInduction (fun _ => trivial) fun _ => ?_
  split
  next he =>
    exact ExceptKept.error (kept_recordAt.stop he)
  · refine iteInduction (fun _ => trivial) fun _ => ?_
    split
    · split
      · exact trivial
      · exact BodyKept.ok hv.state.touchRecord.restoreCore hv.strand
    · split
      · split
        · exact trivial
        · exact ValsKept.results ⟨hv.state.touchRecord, hv.strand⟩
      · split
        · split
          · exact trivial
          · exact BodyKept.ok ((hv.state.touchRecord.dropStrand.setStrand noX0_restoreStrand).setCore) hv.strand
        · exact trivial

theorem Kept.execCorePowerDown {core : Nat} (hs : Kept M Z s) : OutKept M Z (execCorePowerDown core s) := by
  unfold Machine.execCorePowerDown
  extract_lets c empty queues upToDate n word spad acc regs tile merge s1 lose s2
  clear_value empty upToDate word spad acc
  have hr {st : Strand} : NoX0 Z (regs st) := fun _ => find_zero_of_restored word _ [] rfl
  have h1 : Kept M Z s1 := hs.setCore
  have h2 : Kept M Z s2 := h1.mapStrands fun e he => by
    split
    · exact hr
    · exact he
  clear_value regs s1 s2
  refine iteInduction (fun _ => hs) fun _ => OutKept.next ?_
  split
  · exact h2.setStrand hr
  · exact h2

end Sys2Proof.Machine
end

section
/-! O3: what the functions of Sys2Proof.Machine.Images keep. -/

namespace Sys2Proof.Machine

set_option Elab.async false

variable {M Z : Prop} {s t : State} {st st' : Strand} {v : Vals} {cx : Ctx} {α β : Type}

theorem Kept.take {part image lo n : Nat} (hs : Kept M Z s) : Kept M Z (take s part image lo n) := by
  unfold Machine.take
  split
  · exact hs.frame
  · exact hs

theorem Kept.writeDesc {p : Partition} {oid w0 w1 w2 w3 : Nat} (hs : Kept M Z s) : Kept M Z (writeDesc s p oid w0 w1 w2 w3) := by
  unfold Machine.writeDesc
  exact hs.physWrite

theorem Kept.createDense {part image kind size rights : Nat} {qualifies : Word × Word → Bool} (hs : Kept M Z s) :
    OptKept (fun p => FstKept M Z p) (createDense s part image kind size rights qualifies) := by
  unfold Machine.createDense
  dsimp only
  split
  · exact OptKept.none
  · split
    · split
      · exact OptKept.none
      · exact OptKept.some (FstKept.intro hs.take.take.physWrite.writeDesc)
    · exact OptKept.none

theorem Kept.createVolume {part image : Nat} {o : ObjectInfo} (hs : Kept M Z s) :
    OptKept (fun p => FstKept M Z p) (createVolume s part image o) := by
  unfold Machine.createVolume
  dsimp only
  split
  · exact OptKept.none
  · split
    · exact OptKept.some (FstKept.intro (foldl_keeps (Kept M Z) _ (fun _ _ ht => ht.physWrite) _ _
        hs.take.physWrite.physWrite.setPool).writeDesc)
    · exact OptKept.none

theorem Kept.createObject {part image : Nat} {o : ObjectInfo} (hs : Kept M Z s) :
    OptKept (fun p => FstKept M Z p) (createObject s part image o) := by
  unfold Machine.createObject
  dsimp only
  split
  · exact hs.createVolume
  · exact hs.createDense.map (fun _ hb => hb.physWrite)

theorem Kept.createObjects {part image : Nat} {os : List ObjectInfo} (hs : Kept M Z s) :
    OptKept (fun p => FstKept M Z p) (createObjects s part image os) := by
  induction os generalizing s with
  | nil => exact OptKept.some hs
  | cons o os ih =>
    unfold Machine.createObjects
    split
    · exact OptKept.none
    next he => exact (ih ((hs.createObject _ he).of_eq rfl)).map fun _ hp => hp

theorem Kept.createCode {part image : Nat} {code : List Byte} (hs : Kept M Z s) :
    OptKept (fun p => FstKept M Z p) (createCode s part image code) := by
  unfold Machine.createCode
  refine OptKept.map (p := FstKept M Z) ?_ fun _ hp => hp.physWrite
  exact OptKept.orElse hs.createDense hs.createDense

theorem Kept.loadImage {part : Nat} {a : Word} {i : Image} {l : Loaded} (hs : Kept M Z s)
    (he : loadImage s part a = .ok (t, i, l)) : Kept M Z t := by
  unfold Machine.loadImage at he
  split at he
  · cases he
  · split at he
    · cases he; exact hs
    · split at he
      · cases he
      next hc =>
        split at he
        · cases he
        next ho =>
          extract_lets l' table at he
          split at he
          · cases he
          · obtain rfl := congrArg Prod.fst (Except.ok.inj he)
            have ht := ((hs.createCode _ hc).of_eq rfl).createObjects _ ho
            exact (foldl_keeps (Kept M Z) _ (fun _ _ ht => ht.physWrite) _ _ (ht.of_eq rfl)).frame

end Sys2Proof.Machine
end

section
/-! O3: what the functions of Sys2Proof.Machine.Arming keep. -/

namespace Sys2Proof.Machine

set_option Elab.async false

variable {M Z : Prop} {s t : State} {st st' : Strand} {v : Vals} {cx : Ctx} {α β : Type}

theorem Kept.armRange {l : Launch} {r : WatchRange} {window : Nat → Nat × Nat} (hs : Kept M Z s) :
    OptKept (Kept M Z) (armRange s l r window) := by
  unfold Machine.armRange
  dsimp only
  split
  · exact OptKept.none
  · refine iteInduction (fun _ => OptKept.none) fun _ => ?_
    split
    · exact OptKept.none
    · refine iteInduction (fun _ => OptKept.none) fun _ => ?_
      refine OptKept.some (foldl_keeps (Kept M Z) _ (fun t a ht => ?_) _ _ hs)
      split
      · exact ht
      · exact ht.setEntry

theorem Kept.armAll {l : Launch} {ws : List (WatchInfo × Nat)} (hs : Kept M Z s) : OptKept (Kept M Z) (armAll s l ws) := by
  induction ws generalizing s with
  | nil => exact OptKept.some hs
  | cons w ws ih =>
    unfold Machine.armAll
    split
    next he => exact ih (hs.armRange _ he)
    · exact OptKept.none

theorem Kept.dropEntry {d idx : Nat} (hs : Kept M Z s) : Kept M Z (dropEntry s d idx) := by
  unfold Machine.dropEntry
  dsimp only
  exact hs.setDie

theorem Kept.dropClaims {d idx : Nat} (hs : Kept M Z s) : Kept M Z (dropClaims s d idx) := by
  unfold Machine.dropClaims
  dsimp only
  refine hs.mapStrands (fun e hst => ?_)
  split
  · split
    · exact hst.frame
    · exact hst
  · exact hst

theorem kept_watchOf {i : Instr} {w : Reg} : ExceptKept M Z (fun _ => True) (watchOf v i w) := by
  unfold Machine.watchOf
  split
  · exact trivial
  · exact trivial

theorem Kept.execWarm {w base size : Reg} (hs : Kept M Z s) : OutKept M Z (execWarm w base size s) := by
  unfold Machine.execWarm
  dsimp only
  refine hs.issue fun v hv => ?_
  split
  next he =>
    exact ExceptKept.error (kept_watchOf.stop he)
  · refine iteInduction (fun _ => trivial) fun _ => ?_
    refine iteInduction (fun _ => BodyKept.ok (foldl_keeps (Kept M Z) _ (fun _ _ ht => ht.setEntry) _ _ hv.state) hv.strand)
        fun _ => ?_
    split
    · exact trivial
    next p _ =>
      refine iteInduction (fun _ => trivial) fun _ => ?_
      split
      · exact trivial
      next he2 =>
        exact BodyKept.ok (((foldl_keeps (Kept M Z) _ (fun _ _ ht => ht.dropEntry.dropClaims) _ _ hv.state).armRange) _ he2)
            (OptKept.getD (p := NoX0 Z) ((((foldl_keeps (Kept M Z) _ (fun _ _ ht => ht.dropEntry.dropClaims) _ _
            hv.state).armRange) _ he2).strand) hv.strand)

theorem Kept.execWdisarm {w : Reg} (hs : Kept M Z s) : OutKept M Z (execWdisarm w s) := by
  unfold Machine.execWdisarm
  dsimp only
  refine hs.issue fun v hv => ?_
  split
  next he =>
    exact ExceptKept.error (kept_watchOf.stop he)
  · exact BodyKept.ok ((foldl_keeps (Kept M Z) _ (fun _ _ ht => ht.setEntry) _ _ hv.state).frame) hv.strand

theorem Kept.execWstat {d w : Reg} (hs : Kept M Z s) : OutKept M Z (execWstat d w s) := by
  unfold Machine.execWstat
  refine hs.issue fun v hv => ?_
  split
  next he =>
    exact ExceptKept.error (kept_watchOf.stop he)
  · exact hv.results

theorem Kept.execWack (hs : Kept M Z s) : OutKept M Z (execWack s) := by
  unfold Machine.execWack
  dsimp only
  refine hs.issue fun v hv => ?_
  split
  · exact hv.results
  · exact BodyKept.ok hv.state.endClaim hv.strand.frame

/-- The registers that a trigger starts with leave x0 out (R320). -/
theorem find_zero_triggerRegs (e : WatchEntry) (t : Track) : (triggerRegs e t).find 0 = none := by
  simp [triggerRegs, Tab.find_set_ne, Tab.find]

theorem Kept.execTriggerStart {die entry : Nat} (hs : Kept M Z s) : OutKept M Z (execTriggerStart die entry s) := by
  unfold Machine.execTriggerStart
  dsimp only
  split
  · exact hs
  · split
    · split
      · exact hs
      · split
        · exact hs
        · refine iteInduction (fun _ => hs) fun _ => ?_
          refine (Kept.frame (Kept.setStrand ?_ ?_)).noteRan.noteMoved
          · exact hs.setEntry.setCore
          · exact fun _ => find_zero_triggerRegs _ _
    · exact hs

theorem Kept.execWatchRateWindow {die entry : Nat} (hs : Kept M Z s) : OutKept M Z (execWatchRateWindow die entry s) := by
  unfold Machine.execWatchRateWindow
  split
  · exact hs.setEntry
  · exact hs

end Sys2Proof.Machine
end

section
/-! O3: what the functions of Sys2Proof.Machine.Branch keep. -/

namespace Sys2Proof.Machine

set_option Elab.async false

variable {M Z : Prop} {s t : State} {st st' : Strand} {v : Vals} {cx : Ctx} {α β : Type}

theorem kept_lineTarget {off : ℤ} {head : Nat} : ExceptKept M Z (fun _ => True) (lineTarget v off head) := by
  unfold Machine.lineTarget
  dsimp only
  refine iteInduction (fun _ => trivial) fun _ => ?_
  split
  · exact trivial
  · exact trivial
  · exact trivial
  · exact trivial
  · split
    · exact trivial
    · exact trivial
  · refine iteInduction (fun _ => trivial) fun _ => ?_
    split
    · exact trivial
    · exact trivial

theorem Kept.branch {i : Instr} {src : List Reg} {off : BitVec 21} {head : BitVec 5} {taken : (Reg → Word) → Bool}
    (hs : Kept M Z s) : OutKept M Z (branch i src off head s taken) := by
  unfold Machine.branch
  refine hs.issue fun v hv => ?_
  refine iteInduction (fun _ => ?_) fun _ => hv.results
  split
  next he =>
    exact ExceptKept.error (kept_lineTarget.stop he)
  · exact BodyKept.ok hv.state hv.strand

theorem Kept.execBeq {a : Reg} {hint : Bool} {b : Reg} {off : BitVec 21} {head : BitVec 5} (hs : Kept M Z s) :
    OutKept M Z (execBeq a hint b off head s) := by
  unfold Machine.execBeq
  exact hs.branch

theorem Kept.execBne {a : Reg} {hint : Bool} {b : Reg} {off : BitVec 21} {head : BitVec 5} (hs : Kept M Z s) :
    OutKept M Z (execBne a hint b off head s) := by
  unfold Machine.execBne
  exact hs.branch

theorem Kept.execBlt {a : Reg} {hint : Bool} {b : Reg} {off : BitVec 21} {head : BitVec 5} (hs : Kept M Z s) :
    OutKept M Z (execBlt a hint b off head s) := by
  unfold Machine.execBlt
  exact hs.branch

theorem Kept.execBge {a : Reg} {hint : Bool} {b : Reg} {off : BitVec 21} {head : BitVec 5} (hs : Kept M Z s) :
    OutKept M Z (execBge a hint b off head s) := by
  unfold Machine.execBge
  exact hs.branch

theorem Kept.execBltw {a : Reg} {hint : Bool} {b : Reg} {off : BitVec 21} {head : BitVec 5} (hs : Kept M Z s) :
    OutKept M Z (execBltw a hint b off head s) := by
  unfold Machine.execBltw
  exact hs.branch

theorem Kept.execBgew {a : Reg} {hint : Bool} {b : Reg} {off : BitVec 21} {head : BitVec 5} (hs : Kept M Z s) :
    OutKept M Z (execBgew a hint b off head s) := by
  unfold Machine.execBgew
  exact hs.branch

theorem Kept.execBbs {a : Reg} {hint : Bool} {n : BitVec 6} {off : BitVec 21} {head : BitVec 5} (hs : Kept M Z s) :
    OutKept M Z (execBbs a hint n off head s) := by
  unfold Machine.execBbs
  exact hs.branch

theorem Kept.execBbc {a : Reg} {hint : Bool} {n : BitVec 6} {off : BitVec 21} {head : BitVec 5} (hs : Kept M Z s) :
    OutKept M Z (execBbc a hint n off head s) := by
  unfold Machine.execBbc
  exact hs.branch

theorem Kept.execBz {a : Reg} {hint : Bool} {off : BitVec 21} {head : BitVec 5} (hs : Kept M Z s) :
    OutKept M Z (execBz a hint off head s) := by
  unfold Machine.execBz
  exact hs.branch

theorem Kept.execBnz {a : Reg} {hint : Bool} {off : BitVec 21} {head : BitVec 5} (hs : Kept M Z s) :
    OutKept M Z (execBnz a hint off head s) := by
  unfold Machine.execBnz
  exact hs.branch

theorem Kept.execJmp {off : BitVec 27} {head : BitVec 5} (hs : Kept M Z s) : OutKept M Z (execJmp off head s) := by
  unfold Machine.execJmp
  refine hs.issue fun v hv => ?_
  split
  next he =>
    exact ExceptKept.error (kept_lineTarget.stop he)
  · exact BodyKept.ok hv.state hv.strand

theorem Kept.execJal {d : Reg} {off : BitVec 27} {head : BitVec 5} (hs : Kept M Z s) : OutKept M Z (execJal d off head s) := by
  unfold Machine.execJal
  refine hs.issue fun v hv => ?_
  split
  next he =>
    exact ExceptKept.error (kept_lineTarget.stop he)
  · exact BodyKept.ok hv.state hv.strand

theorem ValsKept.jumpTo {t : Word} (hv : ValsKept M Z v) : BodyKept M Z (jumpTo v t) := by
  unfold Machine.jumpTo
  split
  · exact trivial
  · exact trivial
  · exact trivial
  · exact BodyKept.ok hv.state hv.strand

theorem Kept.execJr {a : Reg} (hs : Kept M Z s) : OutKept M Z (execJr a s) := by
  unfold Machine.execJr
  exact hs.issue (fun _ hv => hv.jumpTo)

theorem Kept.execRet {a : Reg} (hs : Kept M Z s) : OutKept M Z (execRet a s) := by
  unfold Machine.execRet
  exact hs.issue (fun _ hv => hv.jumpTo)

theorem Kept.execLoop {r : Reg} {off : BitVec 21} {head : BitVec 5} (hs : Kept M Z s) : OutKept M Z (execLoop r off head s) := by
  unfold Machine.execLoop
  dsimp only
  refine hs.issue fun v hv => ?_
  refine iteInduction (fun _ => hv.results) fun _ => ?_
  split
  next he =>
    exact ExceptKept.error (kept_lineTarget.stop he)
  · exact BodyKept.ok hv.state hv.strand

end Sys2Proof.Machine
end

section
/-! O3: what the functions of Sys2Proof.Machine.Launches keep. -/

namespace Sys2Proof.Machine

set_option Elab.async false

variable {M Z : Prop} {s t : State} {st st' : Strand} {v : Vals} {cx : Ctx} {α β : Type}

theorem Kept.hostStore {addr : Nat} {bs : List Byte} (hs : Kept M Z s) : Kept M Z (hostStore s addr bs) :=
  hs.withMemories (hostStore_memWf s addr bs)

theorem Kept.setHostQueue {q : Nat} {v : HostQueue} (hs : Kept M Z s) : Kept M Z (setHostQueue s q v) := by
  unfold Machine.setHostQueue
  dsimp only
  exact hs.frame

theorem Kept.advanceQueue {q n : Nat} (hs : Kept M Z s) : Kept M Z (advanceQueue s q n) := by
  unfold Machine.advanceQueue
  dsimp only
  exact hs.setHostQueue.hostStore

theorem Kept.completePacket {q num : Nat} (hs : Kept M Z s) : Kept M Z (completePacket s q num) := by
  unfold Machine.completePacket
  dsimp only
  split
  · exact hs
  · refine iteInduction (fun _ => hs.setHostQueue) fun _ => ?_
    split
    · exact hs.setHostQueue.raiseVector
    · exact hs.setHostQueue

theorem Kept.writeRecord {l : Launch} {code clk : Nat} (hs : Kept M Z s) : Kept M Z (writeRecord s l code clk) := by
  unfold Machine.writeRecord
  dsimp only
  refine iteInduction (fun _ => hs) fun _ => ?_
  split
  · exact hs.hostStore.hostStore
  · split
    · exact hs.storeCells.storeCells
    · exact hs

theorem Kept.concludeLaunch {l : Launch} {code clk : Nat} (hs : Kept M Z s) : Kept M Z (concludeLaunch s l code clk) := by
  unfold Machine.concludeLaunch
  dsimp only
  split
  · exact hs.writeRecord
  · refine Kept.completePacket ?_
    split
    · exact hs.writeRecord
    · exact hs.writeRecord.setHostQueue

theorem Kept.assignLid {part : Nat} (hs : Kept M Z s) : SndKept M Z (assignLid s part) := by
  unfold Machine.assignLid
  dsimp only
  split
  · exact hs
  · exact hs.frame

theorem Kept.startLaunch {part : Nat} {ws : List Word} {packet : Option (Nat × Nat)} (hs : Kept M Z s) :
    FstKept M Z (startLaunch s part ws packet) := by
  unfold Machine.startLaunch
  extract_lets group taken
  have hp : SndKept M Z (if group = 0 then Machine.assignLid s part else (group, s)) :=
    iteInduction (fun _ => hs.assignLid) fun _ => hs
  dsimp only
  split
  · exact FstKept.intro (Kept.concludeLaunch hp)
  next he =>
    have ht := Kept.loadImage hp he
    refine iteInduction (fun _ => ?_) fun _ => iteInduction (fun _ => ?_) fun _ => ?_
    · exact FstKept.intro ht.concludeLaunch
    · exact FstKept.intro ht.concludeLaunch
    · exact FstKept.intro ht.frame

theorem noX0_instStrand {l : Launch} {stage rank gen base : Nat} : NoX0 Z (instStrand l stage rank gen base) := by
  unfold Machine.instStrand
  dsimp only
  exact NoX0.ofEmpty

theorem Kept.onCores {cs : List Nat} {f : Nat → Core → Core} (hs : Kept M Z s) : Kept M Z (onCores s cs f) := by
  unfold Machine.onCores
  exact foldl_keeps (Kept M Z) _ (fun _ _ ht => ht.setCore) _ _ hs

theorem Kept.grantClaim {l0 : Launch} {px py : Nat} (hs : Kept M Z s) : Kept M Z (grantClaim s l0 px py) := by
  unfold Machine.grantClaim
  dsimp only
  split
  · exact hs.frame.concludeLaunch
  · refine iteInduction (fun _ => hs.frame.concludeLaunch) fun _ => ?_
    refine iteInduction (fun _ => hs.frame.concludeLaunch) fun _ => ?_
    refine iteInduction (fun _ => hs.frame.onCores.concludeLaunch) fun _ => ?_
    refine iteInduction (fun _ => hs.frame.onCores.concludeLaunch) fun _ => ?_
    split
    · exact hs.frame.onCores.onCores.onCores.concludeLaunch
    next he1 =>
      exact (foldl_keeps (Kept M Z) _ (fun _ _ ht => ht.setStrand noX0_instStrand) _ _
          (foldl_keeps (Kept M Z) _ (fun _ _ ht => ht.setQueue) _ _ ((hs.frame.onCores.onCores.armAll _ he1).frame))).frame

theorem Kept.execClaimGrant {part : Nat} (hs : Kept M Z s) : OutKept M Z (execClaimGrant part s) := by
  unfold Machine.execClaimGrant
  split
  · exact hs
  · split
    · exact hs
    · refine Kept.grantClaim ?_
      split
      · exact hs.advanceQueue
      · exact hs

theorem Kept.execLaunch {d p : Reg} (hs : Kept M Z s) : OutKept M Z (execLaunch d p s) := by
  refine hs.issue fun v hv => ?_
  extract_lets c st o bs ws record
  clear_value ws record
  refine iteInduction (fun _ => trivial) fun _ => ?_
  split
  · exact trivial
  · split
    · exact hv.results
    · extract_lets recordBad
      clear_value recordBad
      refine iteInduction (fun _ => hv.results) fun _ => iteInduction (fun _ => trivial) fun _ => ?_
      exact BodyKept.ok hv.state.startLaunch hv.strand

theorem Kept.execSlice {d j : Reg} {k : BitVec 6} {what : BitVec 2} {axis : Bool} (hs : Kept M Z s) :
    OutKept M Z (execSlice d j k what axis s) := by
  unfold Machine.execSlice
  dsimp only
  refine hs.issue fun v hv => ?_
  split
  · exact trivial
  · exact hv.results

end Sys2Proof.Machine
end

section
/-! O3: what the functions of Sys2Proof.Machine.Ending keep. -/

namespace Sys2Proof.Machine

set_option Elab.async false

variable {M Z : Prop} {s t : State} {st st' : Strand} {v : Vals} {cx : Ctx} {α β : Type}

theorem Kept.execParkSaveComplete {core area : Nat} (hs : Kept M Z s) : OutKept M Z (execParkSaveComplete core area s) := by
  unfold Machine.execParkSaveComplete
  dsimp only
  exact hs.setCore

theorem Kept.noteWakes (hs : Kept M Z s) : Kept M Z (noteWakes s) := by
  unfold Machine.noteWakes
  dsimp only
  exact hs.frame

theorem Kept.execUnpark {core area : Nat} (hs : Kept M Z s) : OutKept M Z (execUnpark core area s) := by
  unfold Machine.execUnpark
  dsimp only
  split
  next he _ =>
    split
    · exact (hs.noteWakes.dropStrand.setStrand ((hs.noteWakes.strand _ he).frame)).frame
    · exact hs.noteWakes
  · exact hs.noteWakes

theorem Kept.instancesOf {part lid stage : Nat} (hs : Kept M Z s) : ∀ p ∈ instancesOf s part lid stage, NoX0 Z p.2.2 :=
  fun p hp => hs.live p (List.mem_of_mem_filter hp)

theorem Kept.setStage {l : Launch} {stage : Nat} {t : StageInfo} (hs : Kept M Z s) : Kept M Z (setStage s l stage t) := by
  unfold Machine.setStage
  exact hs.setLaunch

theorem Kept.addInstance {l : Launch} {stage core slot : Nat} (hs : Kept M Z s) : Kept M Z (addInstance s l stage core slot) := by
  unfold Machine.addInstance
  dsimp only
  exact (hs.setCore.setStrand noX0_instStrand.frame).frame

theorem Kept.markHighest {insts : List (Nat × Nat × Strand)} (hs : Kept M Z s) (hi : ∀ p ∈ insts, NoX0 Z p.2.2) :
    Kept M Z (markHighest s insts) := by
  unfold Machine.markHighest
  split
  next c place st he =>
    have hst : NoX0 Z (c, place, st).2.2 := hi _ (List.mem_of_find?_eq_some he)
    exact hs.setStrand (NoX0.frame hst)
  · exact hs

theorem Kept.sampleStage {l : Launch} {stage : Nat} {t : StageInfo} (hs : Kept M Z s) : Kept M Z (sampleStage s l stage t) := by
  unfold Machine.sampleStage
  split
  · exact hs
  · dsimp only
    split
    · exact hs.setStage.addInstance
    · exact iteInduction (fun _ => hs.setStage.markHighest hs.instancesOf) fun _ => hs.setStage

theorem Kept.execBalancerSample {lid stage : Nat} (hs : Kept M Z s) : OutKept M Z (execBalancerSample lid stage s) := by
  unfold Machine.execBalancerSample
  dsimp only
  split
  · exact hs
  · split
    · exact hs.sampleStage
    · exact hs

theorem Kept.execElasticEos {core slot : Nat} (hs : Kept M Z s) : OutKept M Z (execElasticEos core slot s) := by
  unfold Machine.execElasticEos
  split
  next he =>
    split
    · exact hs.setStrand ((hs.strand _ he).frame)
    · exact hs
  · exact hs

theorem Kept.execWatchdogStop {lid : Nat} (hs : Kept M Z s) : OutKept M Z (execWatchdogStop lid s) := by
  unfold Machine.execWatchdogStop
  dsimp only
  split
  · exact hs
  · exact ((foldl_keeps (Kept M Z) _ (fun _ _ ht => ht.holdEvent) _ _ hs.endLaunch).raiseEvent).frame

theorem Kept.stopCore {core : Nat} (hs : Kept M Z s) : Kept M Z (stopCore s core) := by
  unfold Machine.stopCore
  dsimp only
  refine (foldl_keeps (Kept M Z) _ (fun t a ht => Kept.leaveGhost ?_) _ _ hs).setCore
  split
  · exact ht.dropStrand.acknowledge
  · exact ht.dropStrand

theorem Kept.dropMessages {core : Nat} (hs : Kept M Z s) : Kept M Z (dropMessages s core) := by
  unfold Machine.dropMessages
  dsimp only
  exact foldl_keeps (Kept M Z) _ (fun _ _ ht => ht.acknowledge) _ _ hs.dropSpill.setCore

theorem Kept.dropTransfers {core : Nat} (hs : Kept M Z s) : Kept M Z (dropTransfers s core) := by
  unfold Machine.dropTransfers
  dsimp only
  exact foldl_keeps (Kept M Z) _ (fun _ _ ht => ht.dropBeats.endDest) _ _ hs.setCore

theorem Kept.finishLaunch {l : Launch} (hs : Kept M Z s) : Kept M Z (finishLaunch s l) := by
  unfold Machine.finishLaunch
  extract_lets cores clear s1 s2 s3 s4
  have h2 : Kept M Z s2 := foldl_keeps (Kept M Z) _ (fun _ _ ht => ht.dropMessages.dropTransfers) _ _ hs.frame
  have h3 : Kept M Z s3 := foldl_keeps (Kept M Z) _ (fun _ _ ht => ht.setCore) _ _ h2
  have h4 : Kept M Z s4 := h3.withStrands fun e he => h3.mem_strands (List.mem_of_mem_filter he)
  exact h4.concludeLaunch

theorem Kept.endTurn {l : Launch} (hs : Kept M Z s) : Kept M Z (endTurn s l) := by
  unfold Machine.endTurn
  refine iteInduction (fun _ => hs.finishLaunch) fun _ => ?_
  refine iteInduction (fun _ => hs) fun _ => ?_
  refine iteInduction (fun _ => foldl_keeps (Kept M Z) _ (fun _ _ ht => ht.stopCore) _ _ hs) fun _ => ?_
  split
  · exact hs.finishLaunch
  · exact hs

theorem Kept.execLaunchEnd {lid : Nat} (hs : Kept M Z s) : OutKept M Z (execLaunchEnd lid s) := by
  unfold Machine.execLaunchEnd
  split
  · exact hs.endTurn
  · exact hs

end Sys2Proof.Machine
end

section
/-! O3: what the functions of Sys2Proof.Machine.FrontEnd keep. -/

namespace Sys2Proof.Machine

set_option Elab.async false

variable {M Z : Prop} {s t : State} {st st' : Strand} {v : Vals} {cx : Ctx} {α β : Type}

theorem Kept.haltQueue {q hcode : Nat} (hs : Kept M Z s) : Kept M Z (haltQueue s q hcode) := by
  unfold Machine.haltQueue
  dsimp only
  exact hs.setHostQueue.raiseVector

theorem Kept.execFrontEndPoll {queue fail : Nat} (hs : Kept M Z s) : OutKept M Z (execFrontEndPoll queue fail s) := by
  unfold Machine.execFrontEndPoll
  extract_lets v w v' s'
  have hs' : Kept M Z s' := hs.setHostQueue
  clear_value w v' s'
  refine iteInduction (fun _ => hs) fun _ => iteInduction (fun _ => hs.haltQueue) fun _ => ?_
  refine iteInduction (fun _ => hs.haltQueue) fun _ => iteInduction (fun _ => hs'.haltQueue) fun _ => ?_
  split
  · exact hs'
  · refine iteInduction (fun _ => hs'.haltQueue) fun _ => ?_
    split
    · exact hs'.haltQueue
    · exact hs'

theorem Kept.beginPacket {q : Nat} {p : Packet} (hs : Kept M Z s) : Kept M Z (beginPacket s q p) := by
  unfold Machine.beginPacket
  dsimp only
  exact hs.setHostQueue

theorem Kept.startNext {q op : Nat} {var : Option Bool} {f : Nat → Packet → State} (hs : Kept M Z s)
    (hf : ∀ k p, Kept M Z (f k p)) : OutKept M Z (startNext s q op var f) := by
  unfold Machine.startNext
  split
  · exact iteInduction (fun _ => hf _ _) fun _ => hs
  · exact hs

theorem Kept.startFinished {q : Nat} {p : Packet} (hs : Kept M Z s) : Kept M Z (startFinished s q p) := by
  unfold Machine.startFinished
  exact hs.beginPacket.advanceQueue

theorem Kept.execCopyin {queue : Nat} {buserr : Bool} (hs : Kept M Z s) : OutKept M Z (execCopyin queue buserr s) := by
  unfold Machine.execCopyin
  dsimp only
  refine hs.startNext (fun k p => ?_)
  refine iteInduction (fun _ => hs.startFinished) fun _ => ?_
  split
  · exact hs.haltQueue
  · refine iteInduction (fun _ => hs) fun _ => ?_
    split
    · exact hs.storeCells.frame.haltQueue
    · exact hs.storeCells.startFinished

theorem Kept.reportError {part : Nat} {bad : Option Nat} (hs : Kept M Z s) : Kept M Z (reportError s part bad) := by
  unfold Machine.reportError
  split
  · exact hs.raiseEvent
  · exact hs

theorem Kept.execCopyout {queue : Nat} (hs : Kept M Z s) : OutKept M Z (execCopyout queue s) := by
  unfold Machine.execCopyout
  dsimp only
  refine hs.startNext (fun k p => ?_)
  refine iteInduction (fun _ => hs.startFinished) fun _ => ?_
  split
  · exact hs.haltQueue
  · split
    · exact hs.haltQueue
    · exact hs.hostStore.reportError.startFinished

theorem Kept.signal {queue : Nat} {add : Bool} (hs : Kept M Z s) : OutKept M Z (signal s queue add) := by
  unfold Machine.signal
  dsimp only
  refine hs.startNext (fun k p => ?_)
  split
  · exact hs.haltQueue
  · refine iteInduction (fun _ => hs) fun _ => ?_
    split
    · exact hs.reportError.startFinished
    · exact hs.storeCells.startFinished

theorem Kept.execSignalSet {queue : Nat} (hs : Kept M Z s) : OutKept M Z (execSignalSet queue s) := by
  unfold Machine.execSignalSet
  exact hs.signal

theorem Kept.execSignalAdd {queue : Nat} (hs : Kept M Z s) : OutKept M Z (execSignalAdd queue s) := by
  unfold Machine.execSignalAdd
  exact hs.signal

theorem Kept.waitSignal {queue : Nat} {eq : Bool} (hs : Kept M Z s) : OutKept M Z (waitSignal s queue eq) := by
  unfold Machine.waitSignal
  refine hs.startNext (fun k p => ?_)
  split
  · exact hs.haltQueue
  · exact hs.beginPacket.advanceQueue

theorem Kept.execWaitsigGe {queue : Nat} (hs : Kept M Z s) : OutKept M Z (execWaitsigGe queue s) := by
  unfold Machine.execWaitsigGe
  exact hs.waitSignal

theorem Kept.execWaitsigEq {queue : Nat} (hs : Kept M Z s) : OutKept M Z (execWaitsigEq queue s) := by
  unfold Machine.execWaitsigEq
  exact hs.waitSignal

theorem Kept.execWaitsigPoll {queue : Nat} (hs : Kept M Z s) : OutKept M Z (execWaitsigPoll queue s) := by
  unfold Machine.execWaitsigPoll
  dsimp only
  split
  · exact hs
  · exact hs.setHostQueue

theorem Kept.execFencePacket {queue : Nat} (hs : Kept M Z s) : OutKept M Z (execFencePacket queue s) := by
  unfold Machine.execFencePacket
  exact hs.startNext (fun _ _ => hs.startFinished)

theorem Kept.execPad {queue : Nat} (hs : Kept M Z s) : OutKept M Z (execPad queue s) := by
  unfold Machine.execPad
  exact hs.startNext (fun _ _ => hs.startFinished)

theorem Kept.execLaunchPacket {queue : Nat} (hs : Kept M Z s) : OutKept M Z (execLaunchPacket queue s) := by
  unfold Machine.execLaunchPacket
  dsimp only
  refine hs.startNext (fun k p => ?_)
  split
  · exact hs.beginPacket.startLaunch.advanceQueue
  · exact hs.beginPacket.startLaunch

theorem Kept.execLaunchLoadOnly {queue : Nat} (hs : Kept M Z s) : OutKept M Z (execLaunchLoadOnly queue s) := by
  refine hs.startNext fun part p => ?_
  dsimp only
  split
  · exact hs.beginPacket.advanceQueue.frame.concludeLaunch
  next he => exact (hs.beginPacket.advanceQueue.frame.loadImage he).concludeLaunch

theorem Kept.execPacketComplete {queue index : Nat} (hs : Kept M Z s) : OutKept M Z (execPacketComplete queue index s) := by
  unfold Machine.execPacketComplete
  split
  · exact hs.completePacket
  · exact hs

theorem Kept.disableQueue {q : Nat} (hs : Kept M Z s) : Kept M Z (disableQueue s q) := by
  unfold Machine.disableQueue
  dsimp only
  exact foldl_keeps (Kept M Z) _ (fun _ _ ht => ht.concludeLaunch) _ _ hs.setHostQueue.frame

theorem Kept.enableQueue {q : Nat} (hs : Kept M Z s) : Kept M Z (enableQueue s q) := by
  unfold Machine.enableQueue
  dsimp only
  split
  · exact hs
  · exact hs.setHostQueue.hostStore

theorem Kept.writeQsize {q : Nat} {val : Word} (hs : Kept M Z s) : Kept M Z (writeQsize s q val) := by
  unfold Machine.writeQsize
  dsimp only
  split
  · refine Kept.enableQueue ?_
    split
    · exact hs
    · exact hs.setHostQueue
  · split
    · exact hs.disableQueue
    · exact hs.setHostQueue

theorem Kept.execQueueEnable {queue : Nat} (hs : Kept M Z s) : OutKept M Z (execQueueEnable queue s) := by
  unfold Machine.execQueueEnable
  split
  · exact hs.enableQueue
  · exact hs

theorem Kept.execQueueDisable {queue : Nat} (hs : Kept M Z s) : OutKept M Z (execQueueDisable queue s) := by
  unfold Machine.execQueueDisable
  split
  · exact hs.disableQueue
  · exact hs

theorem Kept.execQueueResume {queue : Nat} (hs : Kept M Z s) : OutKept M Z (execQueueResume queue s) := by
  unfold Machine.execQueueResume
  dsimp only
  split
  · exact hs.setHostQueue
  · exact hs

end Sys2Proof.Machine
end

section
/-! O3: what the functions of Sys2Proof.Machine.Mailbox keep. -/

namespace Sys2Proof.Machine

set_option Elab.async false

variable {M Z : Prop} {s t : State} {st st' : Strand} {v : Vals} {cx : Ctx} {α β : Type}

theorem Kept.command {op tag : Nat} {f : State → State × Reply} (hs : Kept M Z s)
    (hf : FstKept M Z (f s)) : Kept M Z (command s op tag f) := by
  unfold Machine.command
  dsimp only
  refine iteInduction (fun _ => hs) fun _ => ?_
  refine iteInduction (fun _ => hs.frame) fun _ => ?_
  refine Kept.frame ?_
  split
  · exact hs
  · exact hf

theorem Kept.identCommand (hs : Kept M Z s) : FstKept M Z (identCommand s) := by
  unfold Machine.identCommand
  exact hs

theorem Kept.setpkgCommand (hs : Kept M Z s) : FstKept M Z (setpkgCommand s) := by
  unfold Machine.setpkgCommand
  dsimp only
  refine iteInduction (fun _ => hs) fun _ => ?_
  split
  · exact hs
  · exact hs.frame

theorem Kept.partcfgCommand (hs : Kept M Z s) : FstKept M Z (partcfgCommand s) := by
  unfold Machine.partcfgCommand
  dsimp only
  split
  · exact hs
  · split
    · exact hs
    · exact (foldl_keeps (Kept M Z) _ (fun _ _ ht => ht.disableQueue) _ _ hs).frame

theorem Kept.dropTranslations {part : Nat} {sel : Nat → Bool} (hs : Kept M Z s) : Kept M Z (dropTranslations s part sel) := by
  unfold Machine.dropTranslations
  dsimp only
  exact hs.frame

theorem Kept.freeDesc {p : Partition} {oid : Nat} (hs : Kept M Z s) : Kept M Z (freeDesc s p oid) := by
  unfold Machine.freeDesc
  exact hs.physWrite

theorem Kept.partclrCommand (hs : Kept M Z s) : FstKept M Z (partclrCommand s) := by
  unfold Machine.partclrCommand
  dsimp only
  split
  · exact hs
  · split
    · exact hs
    · exact (foldl_keeps (Kept M Z) _ (fun _ _ ht => ht.freeDesc) _ _
          ((foldl_keeps (Kept M Z) _ (fun _ _ ht => ht.disableQueue) _ _ hs).dropTranslations)).frame

theorem Kept.peermapCommand (hs : Kept M Z s) : FstKept M Z (peermapCommand s) := by
  unfold Machine.peermapCommand
  dsimp only
  exact hs.frame

theorem Kept.unloadCommand (hs : Kept M Z s) : FstKept M Z (unloadCommand s) := by
  unfold Machine.unloadCommand
  dsimp only
  split
  · exact hs
  · exact hs
  · split
    · exact hs
    · exact ((foldl_keeps (Kept M Z) _ (fun _ _ ht => ht.freeDesc) _ _ hs).dropTranslations).frame

theorem Kept.stopRunning {l : Launch} {reason : Nat} (hs : Kept M Z s) : Kept M Z (stopRunning s l reason) := by
  unfold Machine.stopRunning
  exact foldl_keeps (Kept M Z) _ (fun _ _ ht => ht.holdEvent) _ _ hs.endLaunch

theorem Kept.withdrawClaim {l : Launch} {code : Nat} (hs : Kept M Z s) : Kept M Z (withdrawClaim s l code) := by
  unfold Machine.withdrawClaim
  dsimp only
  refine Kept.concludeLaunch ?_
  split
  · exact hs.frame.advanceQueue
  · exact hs.frame

theorem Kept.stopCommand (hs : Kept M Z s) : FstKept M Z (stopCommand s) := by
  unfold Machine.stopCommand
  dsimp only
  split
  · exact hs
  · split
    · exact hs.stopRunning
    · exact hs
    · exact hs.withdrawClaim

theorem Kept.loadRoutines {image : List Byte} (hs : Kept M Z s) : Kept M Z (loadRoutines s image) := by
  unfold Machine.loadRoutines
  dsimp only
  split
  · exact hs
  · exact hs.frame

theorem Kept.fwloadCommand {ok : Bool} (hs : Kept M Z s) : FstKept M Z (fwloadCommand ok s) := by
  unfold Machine.fwloadCommand
  dsimp only
  split
  · exact hs.loadRoutines
  · exact hs

theorem Kept.attestCommand (hs : Kept M Z s) : FstKept M Z (attestCommand s) := by
  unfold Machine.attestCommand
  dsimp only
  refine iteInduction (fun _ => hs) fun _ => ?_
  split
  · exact hs
  · exact hs.hostStore.frame

theorem Kept.winsetCommand (hs : Kept M Z s) : FstKept M Z (winsetCommand s) := by
  unfold Machine.winsetCommand
  dsimp only
  refine iteInduction (fun _ => hs) fun _ => ?_
  split
  · exact hs
  · exact hs.frame

theorem Kept.evreadCommand (hs : Kept M Z s) : FstKept M Z (evreadCommand s) := by
  unfold Machine.evreadCommand
  dsimp only
  split
  · exact hs
  · exact hs.frame

theorem Kept.certsCommand (hs : Kept M Z s) : FstKept M Z (certsCommand s) := by
  unfold Machine.certsCommand
  dsimp only
  split
  · exact hs
  · exact hs.hostStore

theorem Kept.telemCommand (hs : Kept M Z s) : FstKept M Z (telemCommand s) := by
  unfold Machine.telemCommand
  dsimp only
  split
  · exact hs
  · exact hs.hostStore.frame

theorem Kept.execIdent {tag : Nat} (hs : Kept M Z s) : OutKept M Z (execIdent tag s) := by
  unfold Machine.execIdent
  exact hs.command hs.identCommand

theorem Kept.execSetpkg {tag : Nat} (hs : Kept M Z s) : OutKept M Z (execSetpkg tag s) := by
  unfold Machine.execSetpkg
  exact hs.command hs.setpkgCommand

theorem Kept.execPartcfg {tag : Nat} (hs : Kept M Z s) : OutKept M Z (execPartcfg tag s) := by
  unfold Machine.execPartcfg
  exact hs.command hs.partcfgCommand

theorem Kept.execPartclr {tag : Nat} (hs : Kept M Z s) : OutKept M Z (execPartclr tag s) := by
  unfold Machine.execPartclr
  exact hs.command hs.partclrCommand

theorem Kept.execPeermap {tag : Nat} (hs : Kept M Z s) : OutKept M Z (execPeermap tag s) := by
  unfold Machine.execPeermap
  exact hs.command hs.peermapCommand

theorem Kept.execUnload {tag : Nat} (hs : Kept M Z s) : OutKept M Z (execUnload tag s) := by
  unfold Machine.execUnload
  exact hs.command hs.unloadCommand

theorem Kept.execStop {tag : Nat} (hs : Kept M Z s) : OutKept M Z (execStop tag s) := by
  unfold Machine.execStop
  exact hs.command hs.stopCommand

theorem Kept.execFwload {tag : Nat} {ok : Bool} (hs : Kept M Z s) : OutKept M Z (execFwload tag ok s) := by
  unfold Machine.execFwload
  exact hs.command hs.fwloadCommand

theorem Kept.execAttest {tag : Nat} (hs : Kept M Z s) : OutKept M Z (execAttest tag s) := by
  unfold Machine.execAttest
  exact hs.command hs.attestCommand

theorem Kept.execWinset {tag : Nat} (hs : Kept M Z s) : OutKept M Z (execWinset tag s) := by
  unfold Machine.execWinset
  exact hs.command hs.winsetCommand

theorem Kept.execEvread {tag : Nat} (hs : Kept M Z s) : OutKept M Z (execEvread tag s) := by
  unfold Machine.execEvread
  exact hs.command hs.evreadCommand

theorem Kept.execCerts {tag : Nat} (hs : Kept M Z s) : OutKept M Z (execCerts tag s) := by
  unfold Machine.execCerts
  exact hs.command hs.certsCommand

theorem Kept.execTelem {tag : Nat} (hs : Kept M Z s) : OutKept M Z (execTelem tag s) := by
  unfold Machine.execTelem
  exact hs.command hs.telemCommand

theorem Kept.execMailboxComplete (hs : Kept M Z s) : OutKept M Z (execMailboxComplete s) := by
  unfold Machine.execMailboxComplete
  dsimp only
  split
  · exact hs
  · refine OutKept.next ?_
    split
    · exact hs.frame
    · exact hs.frame.raiseVector

theorem Kept.commandOf {op : Nat} {b : State} (hs : Kept M Z b) : FstKept M Z (commandOf op b) := by
  unfold Machine.commandOf
  split
  · exact hs.identCommand
  · exact hs.setpkgCommand
  · exact hs.partcfgCommand
  · exact hs.partclrCommand
  · exact hs.peermapCommand
  · exact hs.unloadCommand
  · exact hs.stopCommand
  · exact hs.fwloadCommand
  · exact hs.attestCommand
  · exact hs.winsetCommand
  · exact hs.evreadCommand
  · exact hs.certsCommand
  · exact hs.telemCommand
  · exact hs

theorem Kept.writeQueueReg {q o : Nat} {val : Word} (hs : Kept M Z s) : Kept M Z (writeQueueReg s q o val) := by
  unfold Machine.writeQueueReg
  dsimp only
  split
  · split
    · exact hs
    · exact hs.setHostQueue
  · exact hs.writeQsize
  · split
    · exact hs
    · exact hs.setHostQueue
  · split
    · exact hs.setHostQueue
    · exact hs
  · exact hs

theorem Kept.raisePending (hs : Kept M Z s) : Kept M Z (raisePending s) := by
  unfold Machine.raisePending
  dsimp only
  exact hs.frame

theorem Kept.writeBar0 {off size : Nat} {val : Word} (hs : Kept M Z s) : Kept M Z (writeBar0 s off size val) := by
  unfold Machine.writeBar0
  dsimp only
  refine iteInduction (fun _ => hs) fun _ => ?_
  refine iteInduction (fun _ => hs.command hs.commandOf) fun _ => ?_
  split
  · split
    · exact hs.frame
    · exact hs.frame
  · refine iteInduction (fun _ => hs.frame) fun _ => ?_
    refine iteInduction (fun _ => hs.frame) fun _ => ?_
    refine iteInduction (fun _ => hs.writeQueueReg) fun _ => ?_
    split
    · exact hs.frame.raisePending
    · exact hs

theorem Kept.execHostRegisterWrite {off : Nat} {val : BarWrite} (hs : Kept M Z s) :
    OutKept M Z (execHostRegisterWrite off val s) := by
  unfold Machine.execHostRegisterWrite
  split
  · exact hs
  · exact hs.writeBar0

theorem Kept.execWindowRead {off size : Nat} (hs : Kept M Z s) : OutKept M Z (execWindowRead off size s) := by
  unfold Machine.execWindowRead
  dsimp only
  split
  · exact hs.frame
  · exact hs.reportError.frame

theorem Kept.windowStore {w : StalledWrite} (hs : Kept M Z s) : OptKept (Kept M Z) (windowStore s w) := by
  unfold Machine.windowStore
  split
  · exact OptKept.some hs
  · split
    · exact OptKept.none
    · exact OptKept.some hs.storeCells

theorem Kept.windowTry {w : StalledWrite} (hs : Kept M Z s) : Kept M Z (windowTry s w) := by
  unfold Machine.windowTry
  dsimp only
  split
  · exact hs.frame
  · exact OptKept.getD (p := Kept M Z) hs.windowStore hs.frame

theorem Kept.windowPut {off : Nat} {bytes : List Byte} (hs : Kept M Z s) : Kept M Z (windowPut s off bytes) := by
  unfold Machine.windowPut
  split
  · exact hs
  · exact hs.windowTry

theorem Kept.execWindowWrite {off size val : Nat} (hs : Kept M Z s) : OutKept M Z (execWindowWrite off size val s) := by
  unfold Machine.execWindowWrite
  exact hs.windowPut

theorem Kept.peerReply {ok : Bool} {w : Word} (hs : Kept M Z s) : Kept M Z (peerReply s ok w) := by
  unfold Machine.peerReply
  dsimp only
  exact hs.frame

theorem Kept.stallPeer {port : Nat} {req : PeerReq} (hs : Kept M Z s) : Kept M Z (stallPeer s port req) := by
  unfold Machine.stallPeer
  dsimp only
  exact hs.frame

theorem Kept.peerPerform {part : Nat} {b : PeerReq} (hs : Kept M Z s) : OptKept (Kept M Z) (peerPerform s part b) := by
  unfold Machine.peerPerform
  dsimp only
  split
  · split
    · split
      · exact OptKept.some hs.peerReply
      · exact OptKept.some hs.peerReply
    · exact OptKept.some hs.peerReply
  · split
    · split
      · exact OptKept.none
      · exact OptKept.some hs.storeCells.peerReply
    · exact OptKept.some hs.peerReply
  · split
    · refine iteInduction (fun _ => OptKept.some hs.peerReply) fun _ => ?_
      refine iteInduction (fun _ => OptKept.none) fun _ => ?_
      split
      · exact OptKept.some hs.peerReply
      · exact OptKept.some hs.storeCells.peerReply
    · exact OptKept.some hs.peerReply
  · refine iteInduction (fun _ => OptKept.some hs.peerReply) fun _ => ?_
    split
    · exact OptKept.none
    · exact OptKept.some hs.acceptMessage.noteMoved

theorem Kept.peerArrive {port : Nat} {req : PeerReq} (hs : Kept M Z s) : OptKept (Kept M Z) (peerArrive s port req) := by
  unfold Machine.peerArrive
  dsimp only
  split
  · exact OptKept.some hs.peerReply
  · exact OptKept.some hs.peerReply
  · exact hs.peerPerform

theorem Kept.execPeerInbound {port : Nat} {req : PeerReq} (hs : Kept M Z s) : OutKept M Z (execPeerInbound port req s) := by
  unfold Machine.execPeerInbound
  exact OptKept.getD (p := Kept M Z) hs.peerArrive hs.stallPeer

theorem Kept.retryStalled (hs : Kept M Z s) : Kept M Z (retryStalled s) := by
  unfold Machine.retryStalled
  dsimp only
  exact foldl_keeps (Kept M Z) _ (fun _ _ ht => OptKept.getD (p := Kept M Z) ht.peerArrive ht.stallPeer) _ _
      (foldl_keeps (Kept M Z) _ (fun _ _ ht => ht.windowTry) _ _ hs.frame)

end Sys2Proof.Machine
end

section
/-! O3: what the functions of Sys2Proof.Machine.Power keep. -/

namespace Sys2Proof.Machine

set_option Elab.async false

variable {M Z : Prop} {s t : State} {st st' : Strand} {v : Vals} {cx : Ctx} {α β : Type}

theorem Kept.raisePortEvent (hs : Kept M Z s) : Kept M Z (raisePortEvent s) := by
  unfold Machine.raisePortEvent
  exact hs.frame.raiseEvent

theorem Kept.countDie {d k n : Nat} (hs : Kept M Z s) : Kept M Z (countDie s d k n) := by
  unfold Machine.countDie
  dsimp only
  exact hs.setDie

theorem Kept.countUpDie {d k : Nat} (hs : Kept M Z s) : Kept M Z (countUpDie s d k) := by
  unfold Machine.countUpDie
  exact hs.countDie

theorem Kept.applyRepairs (hs : Kept M Z s) : Kept M Z (applyRepairs s) := by
  unfold Machine.applyRepairs
  dsimp only
  exact foldl_keeps (Kept M Z) _ (fun _ _ ht => ht.setDie.countDie.countDie.countDie) _ _ hs.frame

theorem Kept.raiseLinkEvent (hs : Kept M Z s) : Kept M Z (raiseLinkEvent s) := by
  unfold Machine.raiseLinkEvent
  exact hs.frame.raiseEvent

theorem Kept.trainLink {l : Nat × Nat} (hs : Kept M Z s) : Kept M Z (trainLink s l) := by
  unfold Machine.trainLink
  dsimp only
  split
  · exact hs.countDie.frame.raiseLinkEvent
  · exact hs.countDie.frame

theorem Kept.trainLinks {r : BootReport} (hs : Kept M Z s) : Kept M Z (trainLinks s r) := by
  unfold Machine.trainLinks
  dsimp only
  exact foldl_keeps (Kept M Z) _ (fun _ _ ht => ht.setDie) _ _
      (foldl_keeps (Kept M Z) _ (fun _ _ ht => ht.countDie) _ _
      (foldl_keeps (Kept M Z) _ (fun _ _ ht => ht.trainLink) _ _ hs.frame))

theorem Kept.bringUpPorts {r : BootReport} (hs : Kept M Z s) : Kept M Z (bringUpPorts s r) := by
  unfold Machine.bringUpPorts
  dsimp only
  exact foldl_keeps (Kept M Z) _ (fun _ _ ht => ht.raisePortEvent) _ _ hs.frame

theorem Kept.setSvecs (hs : Kept M Z s) : Kept M Z (setSvecs s) := by
  unfold Machine.setSvecs
  dsimp only
  exact foldl_keeps (Kept M Z) _ (fun _ _ ht => ht.setCore) _ _ hs

theorem Kept.bootEffect {r : BootReport} {step : Nat} (hs : Kept M Z s) : Kept M Z (bootEffect s r step) := by
  unfold Machine.bootEffect
  split
  · exact hs.applyRepairs
  · exact hs.trainLinks
  · exact hs.bringUpPorts
  · exact hs.setSvecs
  · exact foldl_keeps (Kept M Z) _ (fun _ _ ht => ht.loadRoutines) _ _ hs
  · exact hs

theorem Kept.bootStep (hs : Kept M Z s) : Kept M Z (bootStep s) := by
  unfold Machine.bootStep
  dsimp only
  split
  · exact hs
  · refine iteInduction (fun _ => hs) fun _ => ?_
    split
    · exact hs.frame
    · exact hs.bootEffect.frame

theorem Kept.execPerstRelease {boot : BootReport} (hs : Kept M Z s) : OutKept M Z (execPerstRelease boot s) := by
  unfold Machine.execPerstRelease
  dsimp only
  split
  · exact hs
  · exact hs.frame

theorem Kept.poweredOff (hs : Kept M Z s) : Kept M Z (poweredOff s) :=
  ⟨fun hm => by
    have h := hs.memories hm
    simp only [State.memWf, Bool.and_eq_true] at h ⊢
    exact ⟨rfl, h.2⟩, fun _ => rfl⟩

theorem Kept.execPowerOff (hs : Kept M Z s) : OutKept M Z (execPowerOff s) := by
  unfold Machine.execPowerOff
  exact hs.poweredOff

theorem Kept.execFunctionLevelReset (hs : Kept M Z s) : OutKept M Z (execFunctionLevelReset s) := by
  unfold Machine.execFunctionLevelReset
  dsimp only
  exact (foldl_keeps (Kept M Z) _ (fun _ _ ht => ht.stopRunning) _ _ hs).frame

theorem Kept.execInputVoltageFault (hs : Kept M Z s) : OutKept M Z (execInputVoltageFault s) := by
  unfold Machine.execInputVoltageFault
  exact hs.poweredOff

theorem Kept.execDieTemperatureShutdown {die : Nat} (hs : Kept M Z s) : OutKept M Z (execDieTemperatureShutdown die s) := by
  unfold Machine.execDieTemperatureShutdown
  split
  · exact hs.poweredOff
  · exact hs

theorem Kept.raiseLimit {d : Nat} (hs : Kept M Z s) : Kept M Z (raiseLimit s d) := by
  unfold Machine.raiseLimit
  exact hs.raiseEvent

theorem Kept.setLimit {d source duty : Nat} (hs : Kept M Z s) : Kept M Z (setLimit s d source duty) := by
  unfold Machine.setLimit
  dsimp only
  refine iteInduction (fun _ => ?_) fun _ => hs
  split
  · exact hs.setDie
  · exact hs.setDie.raiseLimit

theorem Kept.setLimits {duty : Nat} (hs : Kept M Z s) : Kept M Z (setLimits s duty) := by
  unfold Machine.setLimits
  exact foldl_keeps (Kept M Z) _ (fun _ _ ht => ht.setLimit) _ _ hs

theorem Kept.execInputPowerLimit {duty : Nat} (hs : Kept M Z s) : OutKept M Z (execInputPowerLimit duty s) := by
  unfold Machine.execInputPowerLimit
  split
  · exact hs.setLimits
  · exact hs

theorem Kept.execInputPowerRecover (hs : Kept M Z s) : OutKept M Z (execInputPowerRecover s) := by
  unfold Machine.execInputPowerRecover
  split
  · exact hs.setLimits
  · exact hs

theorem Kept.execCoolantInletLimit {die duty : Nat} (hs : Kept M Z s) : OutKept M Z (execCoolantInletLimit die duty s) := by
  unfold Machine.execCoolantInletLimit
  split
  · exact hs.setLimit
  · exact hs

theorem Kept.execDieTemperatureLimit {die duty : Nat} (hs : Kept M Z s) : OutKept M Z (execDieTemperatureLimit die duty s) := by
  unfold Machine.execDieTemperatureLimit
  split
  · exact hs.setLimit
  · exact hs

theorem Kept.execDieTemperaturePreempt {die : Nat} (hs : Kept M Z s) : OutKept M Z (execDieTemperaturePreempt die s) := by
  unfold Machine.execDieTemperaturePreempt
  dsimp only
  split
  · exact hs
  · exact ((foldl_keeps (Kept M Z) _ (fun _ _ ht => ht.holdEvent) _ _ hs).setDie).raiseLimit

theorem Kept.execDieTemperatureRecover {die : Nat} (hs : Kept M Z s) : OutKept M Z (execDieTemperatureRecover die s) := by
  unfold Machine.execDieTemperatureRecover
  dsimp only
  split
  · exact foldl_keeps (Kept M Z) _ (fun _ _ ht => ht.setCore) _ _ hs.setDie
  · exact hs

theorem Kept.addRepair {stack : Nat} {e : Repair} (hs : Kept M Z s) : Kept M Z (addRepair s stack e) := by
  unfold Machine.addRepair
  dsimp only
  split
  · exact hs
  · exact hs.frame

theorem Kept.dropPage {page : Nat} (hs : Kept M Z s) : Kept M Z (dropPage s page) := by
  unfold Machine.dropPage
  dsimp only
  exact hs.frame

theorem Kept.countError {cell : Nat} (hs : Kept M Z s) : Kept M Z (countError s cell) := by
  unfold Machine.countError
  split
  · exact hs.countUpDie
  · exact hs.countUpDie

theorem Kept.poisonLine {cell : Nat} (hs : Kept M Z s) : Kept M Z (poisonLine s cell) := by
  unfold Machine.poisonLine
  split
  · exact hs
  · exact hs.frame.countError

theorem Kept.fencePage {line : Nat} (hs : Kept M Z s) : Kept M Z (fencePage s line) := by
  unfold Machine.fencePage
  dsimp only
  split
  · exact hs
  · refine iteInduction (fun _ => hs.poisonLine) fun _ => ?_
    refine iteInduction (fun _ => (foldl_keeps (Kept M Z) _ (fun _ _ ht => ht.endLaunch) _ _
        (foldl_keeps (Kept M Z) _ (fun _ _ ht => ht.withdrawClaim) _ _ hs.poisonLine)).raiseEvent) fun _ => ?_
    refine (Kept.dropPage ?_).raiseEvent
    split
    · refine Kept.addRepair ?_
      split
      · exact hs.poisonLine.frame.countUpDie
      · exact hs.poisonLine.frame
    · split
      · exact hs.poisonLine.frame.countUpDie
      · exact hs.poisonLine.frame

theorem Kept.execPageFence {line : Nat} (hs : Kept M Z s) : OutKept M Z (execPageFence line s) := by
  unfold Machine.execPageFence
  split
  · exact hs
  · exact hs.fencePage

theorem Kept.scrub {sel : Nat → Bool} (hs : Kept M Z s) : Kept M Z (scrub s sel) := by
  unfold Machine.scrub
  dsimp only
  refine foldl_keeps (Kept M Z) _ (fun t a ht => ?_) _ _ hs
  split
  · exact ht
  · exact ht.fencePage

theorem Kept.countScrub {d : Nat} (hs : Kept M Z s) : Kept M Z (countScrub s d) := by
  unfold Machine.countScrub
  dsimp only
  exact hs.setDie

theorem Kept.execPatrolScrub {stack : Nat} (hs : Kept M Z s) : OutKept M Z (execPatrolScrub stack s) := by
  unfold Machine.execPatrolScrub
  split
  · exact hs.scrub.countScrub
  · exact hs

theorem Kept.execLlcScrub {die : Nat} (hs : Kept M Z s) : OutKept M Z (execLlcScrub die s) := by
  unfold Machine.execLlcScrub
  split
  · exact hs.scrub.countScrub
  · exact hs

theorem Kept.execBankSparing {stack chan bank : Nat} (hs : Kept M Z s) : OutKept M Z (execBankSparing stack chan bank s) := by
  unfold Machine.execBankSparing
  dsimp only
  refine iteInduction (fun _ => hs) fun _ => ?_
  split
  · exact hs.addRepair
  · exact hs.frame.countUpDie.addRepair

theorem Kept.abandonOver {link : Nat} (hs : Kept M Z s) : Kept M Z (abandonOver s link) := by
  unfold Machine.abandonOver
  dsimp only
  exact hs.frame

theorem Kept.execLiveLaneRepair {link : Nat} {chan : Option Nat} (hs : Kept M Z s) :
    OutKept M Z (execLiveLaneRepair link chan s) := by
  unfold Machine.execLiveLaneRepair
  dsimp only
  refine iteInduction (fun _ => hs) fun _ => ?_
  split
  · refine iteInduction (fun _ => hs) fun _ => ?_
    split
    · exact hs.frame.countUpDie.countUpDie.addRepair.raiseLinkEvent
    · exact hs.addRepair
  · refine iteInduction (fun _ => hs) fun _ => ?_
    refine iteInduction (fun _ => hs.frame.countUpDie.countUpDie.raiseLinkEvent) fun _ => ?_
    split
    · exact hs.frame.abandonOver
    · exact hs.frame.raiseLinkEvent

theorem Kept.execLinkRetrain {port : Nat} {ok : Bool} (hs : Kept M Z s) : OutKept M Z (execLinkRetrain port ok s) := by
  unfold Machine.execLinkRetrain
  dsimp only
  split
  · exact hs
  · exact hs.frame.raisePortEvent

theorem Kept.correctRow {cell page : Nat} (hs : Kept M Z s) : Kept M Z (correctRow s cell page) := by
  unfold Machine.correctRow
  dsimp only
  split
  · exact hs.countUpDie.frame.addRepair
  · exact hs.countUpDie.frame

theorem Kept.countCoreError {core : Nat} (hs : Kept M Z s) : Kept M Z (countCoreError s core) := by
  unfold Machine.countCoreError
  exact hs.countUpDie

theorem Kept.poisonRegister {core place reg : Nat} (hs : Kept M Z s) : Kept M Z (poisonRegister s core place reg) := by
  unfold Machine.poisonRegister
  split
  next he =>
    split
    · exact (hs.setStrand ((hs.strand _ he).frame)).countCoreError
    · exact hs
  · exact hs

theorem Kept.poisonElement {queue index : Nat} (hs : Kept M Z s) : Kept M Z (poisonElement s queue index) := by
  unfold Machine.poisonElement
  dsimp only
  split
  · split
    · exact hs
    · exact hs.setQueue.countUpDie
  · exact hs

theorem Kept.poisonBuffer {core op : Nat} (hs : Kept M Z s) : Kept M Z (poisonBuffer s core op) := by
  unfold Machine.poisonBuffer
  dsimp only
  split
  · split
    · exact hs
    · exact hs.setOp.countCoreError
  · exact hs

theorem Kept.poisonScratch {core pos : Nat} (hs : Kept M Z s) : Kept M Z (poisonScratch s core pos) := by
  unfold Machine.poisonScratch
  dsimp only
  split
  · exact hs.setCore.countCoreError
  · exact hs

theorem Kept.poisonAccumulator {core i : Nat} (hs : Kept M Z s) : Kept M Z (poisonAccumulator s core i) := by
  unfold Machine.poisonAccumulator
  dsimp only
  split
  · exact hs.setCore.countCoreError
  · exact hs

theorem Kept.upset {b : Upset} (hs : Kept M Z s) : Kept M Z (upset s b) := by
  unfold Machine.upset
  dsimp only
  split
  · split
    · exact hs.countUpDie
    · exact hs
  · split
    · split
      · exact hs.correctRow
      · exact hs
    · exact hs
  · split
    · exact hs.setCore.countUpDie
    · exact hs
  · split
    · exact hs.setCluster.countUpDie
    · exact hs
  · split
    · exact hs.setCore.countUpDie
    · exact hs
  · exact hs.poisonRegister
  · exact hs.poisonElement
  · exact hs.poisonScratch
  · exact hs.poisonAccumulator
  · split
    · exact hs
    · exact hs.countCoreError.doubleTrap
  · exact hs.poisonBuffer
  · split
    · exact hs.poisonLine
    · exact hs

theorem Kept.changeRegion {e : Nat} {a b : Word} (hs : Kept M Z s) : Kept M Z (changeRegion s e a b) := by
  unfold Machine.changeRegion
  dsimp only
  split
  · exact hs
  · exact hs.frame

end Sys2Proof.Machine
end

section
/-! O3: what the functions of Sys2Proof.Machine.Dispatch keep. -/

namespace Sys2Proof.Machine

set_option Elab.async false

variable {M Z : Prop} {s t : State} {st st' : Strand} {v : Vals} {cx : Ctx} {α β : Type}

/-- Every instruction keeps the invariant, one lemma for each. -/
theorem Kept.exec {i : Instr} (hs : Kept M Z s) : OutKept M Z (exec i s) :=
  match i with
  | .add .. => hs.execAdd
  | .sub .. => hs.execSub
  | .and .. => hs.execAnd
  | .or .. => hs.execOr
  | .xor .. => hs.execXor
  | .andn .. => hs.execAndn
  | .sll .. => hs.execSll
  | .srl .. => hs.execSrl
  | .sra .. => hs.execSra
  | .rol .. => hs.execRol
  | .min .. => hs.execMin
  | .max .. => hs.execMax
  | .minw .. => hs.execMinw
  | .maxw .. => hs.execMaxw
  | .mul .. => hs.execMul
  | .mulhs .. => hs.execMulhs
  | .mulhw .. => hs.execMulhw
  | .div .. => hs.execDiv
  | .divw .. => hs.execDivw
  | .rem .. => hs.execRem
  | .remw .. => hs.execRemw
  | .clz .. => hs.execClz
  | .ctz .. => hs.execCtz
  | .popc .. => hs.execPopc
  | .bext .. => hs.execBext
  | .bdep .. => hs.execBdep
  | .mov .. => hs.execMov
  | .sext .. => hs.execSext
  | .zext .. => hs.execZext
  | .seq .. => hs.execSeq
  | .sne .. => hs.execSne
  | .slt .. => hs.execSlt
  | .sge .. => hs.execSge
  | .sltw .. => hs.execSltw
  | .sgew .. => hs.execSgew
  | .addi .. => hs.execAddi
  | .andi .. => hs.execAndi
  | .ori .. => hs.execOri
  | .xori .. => hs.execXori
  | .slli .. => hs.execSlli
  | .srli .. => hs.execSrli
  | .srai .. => hs.execSrai
  | .roli .. => hs.execRoli
  | .mini .. => hs.execMini
  | .maxi .. => hs.execMaxi
  | .slti .. => hs.execSlti
  | .seqi .. => hs.execSeqi
  | .li .. => hs.execLi
  | .li32 .. => hs.execLi32
  | .lih .. => hs.execLih
  | .lea .. => hs.execLea
  | .sel .. => hs.execSel
  | .beq .. => hs.execBeq
  | .bne .. => hs.execBne
  | .blt .. => hs.execBlt
  | .bge .. => hs.execBge
  | .bltw .. => hs.execBltw
  | .bgew .. => hs.execBgew
  | .bbs .. => hs.execBbs
  | .bbc .. => hs.execBbc
  | .bz .. => hs.execBz
  | .bnz .. => hs.execBnz
  | .jmp .. => hs.execJmp
  | .jal .. => hs.execJal
  | .jr .. => hs.execJr
  | .ret .. => hs.execRet
  | .loop .. => hs.execLoop
  | .vadd .. => hs.execVadd
  | .vsub .. => hs.execVsub
  | .vmul .. => hs.execVmul
  | .vmin .. => hs.execVmin
  | .vmax .. => hs.execVmax
  | .vadds .. => hs.execVadds
  | .vsubs .. => hs.execVsubs
  | .vabs .. => hs.execVabs
  | .vneg .. => hs.execVneg
  | .vfma .. => hs.execVfma
  | .vfms .. => hs.execVfms
  | .vand .. => hs.execVand
  | .vor .. => hs.execVor
  | .vxor .. => hs.execVxor
  | .vandn .. => hs.execVandn
  | .vsll .. => hs.execVsll
  | .vsrl .. => hs.execVsrl
  | .vsra .. => hs.execVsra
  | .vcmpeq .. => hs.execVcmpeq
  | .vcmpne .. => hs.execVcmpne
  | .vcmplt .. => hs.execVcmplt
  | .vcmple .. => hs.execVcmple
  | .vcmpgt .. => hs.execVcmpgt
  | .vcmpge .. => hs.execVcmpge
  | .vcmpun .. => hs.execVcmpun
  | .vsel .. => hs.execVsel
  | .vmov .. => hs.execVmov
  | .vbcast .. => hs.execVbcast
  | .vextr .. => hs.execVextr
  | .vins .. => hs.execVins
  | .vperm .. => hs.execVperm
  | .vcompress .. => hs.execVcompress
  | .vexpand .. => hs.execVexpand
  | .vredsum .. => hs.execVredsum
  | .vredmax .. => hs.execVredmax
  | .vredmin .. => hs.execVredmin
  | .vamax .. => hs.execVamax
  | .vscan .. => hs.execVscan
  | .vdiv .. => hs.execVdiv
  | .vsqrt .. => hs.execVsqrt
  | .vrsq .. => hs.execVrsq
  | .vrcp .. => hs.execVrcp
  | .vexp2 .. => hs.execVexp2
  | .vlog2 .. => hs.execVlog2
  | .vcvt .. => hs.execVcvt
  | .vpackmx .. => hs.execVpackmx
  | .vunpackmx .. => hs.execVunpackmx
  | .vnzx .. => hs.execVnzx
  | .load .. => hs.execLoad
  | .loadSigned .. => hs.execLoadSigned
  | .lda .. => hs.execLda
  | .store .. => hs.execStore
  | .stl .. => hs.execStl
  | .ldv .. => hs.execLdv
  | .stv .. => hs.execStv
  | .ldvs .. => hs.execLdvs
  | .stvs .. => hs.execStvs
  | .ldvx .. => hs.execLdvx
  | .stvx .. => hs.execStvx
  | .sld .. => hs.execSld
  | .sldRec .. => hs.execSldRec
  | .sst .. => hs.execSst
  | .sldv .. => hs.execSldv
  | .sstv .. => hs.execSstv
  | .amoadd .. => hs.execAmoadd
  | .amoand .. => hs.execAmoand
  | .amoor .. => hs.execAmoor
  | .amoxor .. => hs.execAmoxor
  | .amomin .. => hs.execAmomin
  | .amomax .. => hs.execAmomax
  | .amominw .. => hs.execAmominw
  | .amomaxw .. => hs.execAmomaxw
  | .amoswap .. => hs.execAmoswap
  | .amocas .. => hs.execAmocas
  | .amofadd .. => hs.execAmofadd
  | .fence .. => hs.execFence
  | .pref .. => hs.execPref
  | .get .. => hs.execGet
  | .put .. => hs.execPut
  | .puts .. => hs.execPuts
  | .ramo .. => hs.execRamo
  | .amsg .. => hs.execAmsg
  | .copy .. => hs.execCopy
  | .send .. => hs.execSend
  | .refs .. => hs.execRefs
  | .sread .. => hs.execSread
  | .swrite .. => hs.execSwrite
  | .fship .. => hs.execFship
  | .ldc .. => hs.execLdc
  | .stc .. => hs.execStc
  | .ldcv .. => hs.execLdcv
  | .stcv .. => hs.execStcv
  | .cprobe .. => hs.execCprobe
  | .ctrim .. => hs.execCtrim
  | .tcfg .. => hs.execTcfg
  | .tzero .. => hs.execTzero
  | .tamax .. => hs.execTamax
  | .trowh .. => hs.execTrowh
  | .tresume => hs.execTresume
  | .tabort => hs.execTabort
  | .tmma .. => hs.execTmma
  | .tmmas .. => hs.execTmmas
  | .tmmax .. => hs.execTmmax
  | .tlacc .. => hs.execTlacc
  | .tsacc .. => hs.execTsacc
  | .tdrain .. => hs.execTdrain
  | .tdrainHandler .. => hs.execTdrainHandler
  | .rowout .. => hs.execRowout
  | .mcfg .. => hs.execMcfg
  | .mrun .. => hs.execMrun
  | .mstat .. => hs.execMstat
  | .mstop => hs.execMstop
  | .qtok .. => hs.execQtok
  | .qtry .. => hs.execQtry
  | .qpeek .. => hs.execQpeek
  | .qlen .. => hs.execQlen
  | .qfence => hs.execQfence
  | .qtvec .. => hs.execQtvec
  | .cpost .. => hs.execCpost
  | .waitc .. => hs.execWaitc
  | .cread .. => hs.execCread
  | .wait .. => hs.execWait
  | .await .. => hs.execAwait
  | .bar => hs.execBar
  | .parkC .. => hs.execParkC
  | .parkA .. => hs.execParkA
  | .parkQ .. => hs.execParkQ
  | .parkT .. => hs.execParkT
  | .yield => hs.execYield
  | .exit => hs.execExit
  | .sprio .. => hs.execSprio
  | .launch .. => hs.execLaunch
  | .slice .. => hs.execSlice
  | .warm .. => hs.execWarm
  | .wdisarm .. => hs.execWdisarm
  | .wstat .. => hs.execWstat
  | .wack => hs.execWack
  | .csrr .. => hs.execCsrr
  | .csrw .. => hs.execCsrw
  | .csrset .. => hs.execCsrset
  | .csrclr .. => hs.execCsrclr
  | .tlbw .. => hs.execTlbw
  | .tlbi .. => hs.execTlbi
  | .clbi .. => hs.execClbi
  | .migr .. => hs.execMigr
  | .ecall .. => hs.execEcall
  | .ebreak .. => hs.execEbreak
  | .eret => hs.execEret
  | .repart .. => hs.execRepart
  | .ctxsave .. => hs.execCtxsave
  | .ctxrest .. => hs.execCtxrest
  | .agedLevel .. => hs.execAgedLevel
  | .yieldExpiry .. => hs.execYieldExpiry
  | .loadReturn .. => hs.execLoadReturn
  | .storePerformed .. => hs.execStorePerformed
  | .fabricPerformed .. => hs.execFabricPerformed
  | .remoteAck .. => hs.execRemoteAck
  | .negativeAck .. => hs.execNegativeAck
  | .shippedOperation .. => hs.execShippedOperation
  | .elementPoppable .. => hs.execElementPoppable
  | .creditReturn .. => hs.execCreditReturn
  | .porterRunStart .. => hs.execPorterRunStart
  | .tileOpStart .. => hs.execTileOpStart
  | .tileUnitStop .. => hs.execTileUnitStop
  | .tileOpComplete .. => hs.execTileOpComplete
  | .amaxAtomic .. => hs.execAmaxAtomic
  | .rowHandlerDispatch .. => hs.execRowHandlerDispatch
  | .mergeEmit .. => hs.execMergeEmit
  | .mergeToken .. => hs.execMergeToken
  | .mergeFault .. => hs.execMergeFault
  | .referencePop .. => hs.execReferencePop
  | .referenceStop .. => hs.execReferenceStop
  | .sectorStep .. => hs.execSectorStep
  | .engineStop .. => hs.execEngineStop
  | .engineComplete .. => hs.execEngineComplete
  | .storageComplete .. => hs.execStorageComplete
  | .channelTransferStart .. => hs.execChannelTransferStart
  | .beatDelivery .. => hs.execBeatDelivery
  | .migrationComplete .. => hs.execMigrationComplete
  | .triggerStart .. => hs.execTriggerStart
  | .watchRateWindow .. => hs.execWatchRateWindow
  | .parkSaveComplete .. => hs.execParkSaveComplete
  | .unpark .. => hs.execUnpark
  | .balancerSample .. => hs.execBalancerSample
  | .elasticEos .. => hs.execElasticEos
  | .watchdogStop .. => hs.execWatchdogStop
  | .watchdog .. => hs.execWatchdog
  | .hostInterrupt .. => hs.execHostInterrupt
  | .preempt .. => hs.execPreempt
  | .watchRunaway .. => hs.execWatchRunaway
  | .undeliverable .. => hs.execUndeliverable
  | .claimGrant .. => hs.execClaimGrant
  | .launchEnd .. => hs.execLaunchEnd
  | .frontEndPoll .. => hs.execFrontEndPoll
  | .launchPacket .. => hs.execLaunchPacket
  | .launchLoadOnly .. => hs.execLaunchLoadOnly
  | .copyin .. => hs.execCopyin
  | .copyout .. => hs.execCopyout
  | .signalSet .. => hs.execSignalSet
  | .signalAdd .. => hs.execSignalAdd
  | .waitsigGe .. => hs.execWaitsigGe
  | .waitsigEq .. => hs.execWaitsigEq
  | .waitsigPoll .. => hs.execWaitsigPoll
  | .fencePacket .. => hs.execFencePacket
  | .pad .. => hs.execPad
  | .packetComplete .. => hs.execPacketComplete
  | .queueEnable .. => hs.execQueueEnable
  | .queueDisable .. => hs.execQueueDisable
  | .queueResume .. => hs.execQueueResume
  | .hostRegisterWrite .. => hs.execHostRegisterWrite
  | .ident .. => hs.execIdent
  | .setpkg .. => hs.execSetpkg
  | .partcfg .. => hs.execPartcfg
  | .partclr .. => hs.execPartclr
  | .peermap .. => hs.execPeermap
  | .unload .. => hs.execUnload
  | .stop .. => hs.execStop
  | .fwload .. => hs.execFwload
  | .attest .. => hs.execAttest
  | .winset .. => hs.execWinset
  | .evread .. => hs.execEvread
  | .certs .. => hs.execCerts
  | .telem .. => hs.execTelem
  | .mailboxComplete => hs.execMailboxComplete
  | .windowRead .. => hs.execWindowRead
  | .windowWrite .. => hs.execWindowWrite
  | .peerInbound .. => hs.execPeerInbound
  | .perstRelease .. => hs.execPerstRelease
  | .powerOff => hs.execPowerOff
  | .functionLevelReset => hs.execFunctionLevelReset
  | .inputVoltageFault => hs.execInputVoltageFault
  | .inputPowerLimit .. => hs.execInputPowerLimit
  | .inputPowerRecover => hs.execInputPowerRecover
  | .coolantInletLimit .. => hs.execCoolantInletLimit
  | .dieTemperatureLimit .. => hs.execDieTemperatureLimit
  | .dieTemperaturePreempt .. => hs.execDieTemperaturePreempt
  | .dieTemperatureRecover .. => hs.execDieTemperatureRecover
  | .dieTemperatureShutdown .. => hs.execDieTemperatureShutdown
  | .pageFence .. => hs.execPageFence
  | .patrolScrub .. => hs.execPatrolScrub
  | .llcScrub .. => hs.execLlcScrub
  | .bankSparing .. => hs.execBankSparing
  | .liveLaneRepair .. => hs.execLiveLaneRepair
  | .linkRetrain .. => hs.execLinkRetrain
  | .corePowerDown .. => hs.execCorePowerDown

end Sys2Proof.Machine
end

section
/-! O3: what the functions of Sys2Proof.Machine.Progress keep. -/

namespace Sys2Proof.Machine

set_option Elab.async false

variable {M Z : Prop} {s t : State} {st st' : Strand} {v : Vals} {cx : Ctx} {α β : Type}

theorem Kept.tick (hs : Kept M Z s) : Kept M Z (tick s) := by
  unfold Machine.tick
  exact hs.frame.noteWakes

theorem OutKept.onNext {f : State → State} {x : Host.Outcome State Fault Refusal} (hx : OutKept M Z x)
    (hf : ∀ s, Kept M Z s → Kept M Z (f s)) : OutKept M Z (onNext f x) := by
  cases x with
  | next s => exact hf s hx
  | fault => exact trivial
  | refused => exact trivial

theorem Kept.issueAt {core slot : Nat} (hs : Kept M Z s) : OutKept M Z (issueAt s core slot) := by
  unfold Machine.issueAt
  dsimp only
  refine iteInduction (fun _ => trivial) fun _ => ?_
  split
  · exact hs.frame.stall
  next he =>
    split
    next he1 =>
      exact ((hs.frame.fetch (hs.frame.current _ he)).get he1)
    · exact hs.frame.fetched.exec

theorem NoX0.settleYield {ready : List Nat} (hst : NoX0 Z st) : NoX0 Z (settleYield ready st) := by
  unfold Machine.settleYield
  dsimp only
  split
  · exact hst.frame
  · exact hst

theorem Kept.mapSlots {core : Nat} {f : Nat → Strand → Strand} (hs : Kept M Z s)
    (hf : ∀ k st, NoX0 Z st → NoX0 Z (f k st)) : Kept M Z (mapSlots s core f) := by
  unfold Machine.mapSlots
  refine hs.mapStrands fun e he => ?_
  split
  · exact hf _ _ he
  · exact he

theorem Kept.noteIssue {level : Option Nat} {core slot : Nat} (hs : Kept M Z s) : Kept M Z (noteIssue level s core slot) := by
  unfold Machine.noteIssue
  dsimp only
  split
  · refine Kept.mapSlots ?_ (fun k st hst => NoX0.settleYield ?_)
    · split
      · exact hs.setCore
      · exact hs
    · split
      · exact hst.frame
      · exact hst.frame
  · refine (Kept.mapSlots ?_ (fun k st hst => NoX0.settleYield ?_)).noteMoved
    · split
      · exact hs.setCore
      · exact hs
    · split
      · exact hst.frame
      · exact hst.frame

theorem Kept.issueFirst {core : Nat} {slots : List Nat} (hs : Kept M Z s) : OutKept M Z (issueFirst core slots s) := by
  induction slots generalizing s with
  | nil => exact hs.stall
  | cons slot slots ih =>
    unfold Machine.issueFirst
    split
    next he => exact iteInduction (fun _ => ih (hs.issueAt.get he)) fun _ => (hs.issueAt.get he).noteIssue
    · exact hs.issueAt

theorem Kept.prepare {core : Nat} (hs : Kept M Z s) : Kept M Z (prepare s core) := by
  unfold Machine.prepare
  dsimp only
  split
  · exact hs.ageStrands.mapSlots (fun _ _ hst => hst.settleYield)
  · exact hs.ageStrands

theorem GoingsKept.nil : GoingsKept M Z [] := nofun

theorem GoingsKept.cons {g : Going} {gs : List Going} (hg : ∀ s, Kept M Z s → OutKept M Z (g s)) (hgs : GoingsKept M Z gs) :
    GoingsKept M Z (g :: gs) :=
  List.forall_mem_cons.mpr ⟨hg, hgs⟩

theorem GoingsKept.one {g : Going} (hg : ∀ s, Kept M Z s → OutKept M Z (g s)) : GoingsKept M Z [g] := .cons hg .nil

theorem GoingsKept.append {gs hs : List Going} (hgs : GoingsKept M Z gs) (hhs : GoingsKept M Z hs) :
    GoingsKept M Z (gs ++ hs) :=
  List.forall_mem_append.mpr ⟨hgs, hhs⟩

theorem GoingsKept.map {f : α → Going} {l : List α} (hf : ∀ a s, Kept M Z s → OutKept M Z (f a s)) :
    GoingsKept M Z (l.map f) :=
  List.forall_mem_map.mpr fun a _ => hf a

theorem GoingsKept.flatMap {f : α → List Going} {l : List α} (hf : ∀ a, GoingsKept M Z (f a)) :
    GoingsKept M Z (l.flatMap f) := by
  intro g hg
  obtain ⟨a, -, ha⟩ := List.mem_flatMap.mp hg
  exact hf a g ha

theorem GoingsKept.ite {c : Prop} [Decidable c] {gs hs : List Going} (hgs : GoingsKept M Z gs) (hhs : GoingsKept M Z hs) :
    GoingsKept M Z (if c then gs else hs) :=
  iteInduction (fun _ => hgs) fun _ => hhs

theorem goingsKept_heldStarts {core : Nat} : GoingsKept M Z (heldStarts s core) :=
  .append (.append (.append (.cons (fun _ hs => hs.execPorterRunStart) (.one fun _ hs => hs.execRowHandlerDispatch))
    (.map fun _ _ hs => hs.execUnpark)) (.map fun _ _ hs => hs.execTriggerStart))
    (.flatMap fun _ => .map fun _ _ hs => hs.execBalancerSample)

/-- After a thing has gone on, where it leaves a next state. -/
theorem GoingKept.leaves {g : Going} (hg : GoingKept M Z g) (hs : Kept M Z s) :
    Kept M Z (match g s with | .next t => t | _ => s) := by
  split
  next he => exact (hg s hs).get he
  · exact hs

theorem Kept.startHeld {core : Nat} (hs : Kept M Z s) : Kept M Z (startHeld s core) := by
  refine Kept.setCore (foldl_keeps (Kept M Z) _ (fun t _ ht => ?_) _ _ hs)
  exact List.foldlRecOn _ _ ht fun u hu g hg => GoingKept.leaves (goingsKept_heldStarts g hg) hu

theorem Kept.coreTurn {core : Nat} (hs : Kept M Z s) : OutKept M Z (coreTurn s core) := by
  unfold Machine.coreTurn
  dsimp only
  refine iteInduction (fun _ => trivial) fun _ => ?_
  refine iteInduction (fun _ => hs.takeNext.frame) fun _ => ?_
  refine (Kept.prepare ?_).issueFirst
  split
  · exact hs.startHeld
  · exact hs

theorem Kept.act {b : Act} (hs : Kept M Z s) : OutKept M Z (act s b) := by
  unfold Machine.act
  split
  · split
    · exact hs.exec
    · exact hs
  · exact hs.coreTurn
  · exact hs.scrivenerAnswer
  · exact hs.bootStep
  · exact hs.retryStalled
  · exact hs.hostStore
  · exact hs.changeRegion
  · exact hs.upset

theorem goingsKept_accessEvents {core place : Nat} {a : Access} : GoingsKept M Z (accessEvents s core place a) :=
  .append
    (.cons (fun _ hs => hs.execLoadReturn) <| .cons (fun _ hs => hs.execStorePerformed) <|
      .cons (fun _ hs => hs.execFabricPerformed) <| .cons (fun _ hs => hs.execRemoteAck) <|
      .one fun _ hs => hs.execShippedOperation)
    (.ite (.one fun _ hs => hs.execNegativeAck) .nil)

theorem goingsKept_strandEvents {key : Nat} : GoingsKept M Z (strandEvents s key st) := by
  refine .append (.append (.append (.flatMap fun _ => goingsKept_accessEvents) ?_) ?_) ?_
  · split
    · exact .one fun _ hs => hs.execYieldExpiry
    · exact .nil
  · exact .ite (.one fun _ hs => hs.execElasticEos) .nil
  · exact .ite (.one fun _ hs => hs.execUnpark) .nil

theorem goingsKept_queueEvents {q : Nat × Queue} : GoingsKept M Z (queueEvents q) :=
  .append (.map fun _ _ hs => hs.execElementPoppable) (.ite .nil (.one fun _ hs => hs.execCreditReturn))

theorem goingsKept_opEvents {core : Nat} {o : EngineOp} : GoingsKept M Z (opEvents core o) :=
  .cons (fun _ hs => hs.execSectorStep) <| .cons (fun _ hs => hs.execReferencePop) <|
    .cons (fun _ hs => hs.execReferenceStop) <| .cons (fun _ hs => hs.execEngineStop) <|
    .cons (fun _ hs => hs.execEngineComplete) <| .one fun _ hs => hs.execStorageComplete

theorem goingsKept_tileEvents {core : Nat} {t : TileUnit} : GoingsKept M Z (tileEvents core t) :=
  .append
    (.ite .nil <| .cons (fun _ hs => hs.execTileUnitStop) <| .cons (fun _ hs => hs.execTileOpStart) <|
      .one fun _ hs => hs.execRowHandlerDispatch)
    (.flatMap fun _ => .cons (fun _ hs => hs.execAmaxAtomic) <| .one fun _ hs => hs.execTileOpComplete)

theorem goingsKept_mergeEvents {core : Nat} {m : MergeUnit} : GoingsKept M Z (mergeEvents core m) :=
  .ite .nil <| .cons (fun _ hs => hs.execMergeFault) <| .cons (fun _ hs => hs.execMergeEmit) <|
    .one fun _ hs => hs.execMergeToken

theorem goingsKept_heldEventsOf {core : Nat} : GoingsKept M Z (heldEventsOf s core) :=
  .ite .nil <| .one fun _ hs => hs.takeNext

theorem goingsKept_coreEvents {core : Nat} {c : Core} : GoingsKept M Z (coreEvents s core c) :=
  .append (.append (.append (.append (.append (.append
    (.ite .nil <| .one fun _ hs => hs.execPorterRunStart) (.flatMap fun _ => goingsKept_opEvents)) goingsKept_tileEvents)
    goingsKept_mergeEvents)
    (.flatMap fun _ => .cons (fun _ hs => hs.execBeatDelivery) <| .cons (fun _ hs => hs.execBeatDelivery) <|
      .one fun _ hs => hs.execChannelTransferStart))
    (.map fun _ _ hs => hs.execParkSaveComplete)) goingsKept_heldEventsOf

theorem goingsKept_launchEvents : GoingsKept M Z (launchEvents s) :=
  .append (.append (.map fun _ _ hs => hs.execMigrationComplete)
    (.flatMap fun _ => .flatMap fun _ => .cons (fun _ hs => hs.execTriggerStart) <|
      .one fun _ hs => hs.execWatchRateWindow))
    (.flatMap fun _ => .append
      (.ite (.one fun _ hs => hs.execClaimGrant) <| .cons (fun _ hs => hs.execLaunchEnd) <|
        .one fun _ hs => hs.execWatchdogStop)
      (.map fun _ _ hs => hs.execBalancerSample))

theorem goingsKept_hostQueueEvents {q : Nat} {v : HostQueue} : GoingsKept M Z (hostQueueEvents q v) :=
  .append (.map fun _ _ hs => hs.execPacketComplete) <|
    .cons (fun _ hs => hs.execWaitsigPoll) <| .cons (fun _ hs => hs.execLaunchPacket) <|
    .cons (fun _ hs => hs.execLaunchLoadOnly) <| .cons (fun _ hs => hs.execCopyin) <|
    .cons (fun _ hs => hs.execCopyout) <| .cons (fun _ hs => hs.execSignalSet) <|
    .cons (fun _ hs => hs.execSignalAdd) <| .cons (fun _ hs => hs.execWaitsigGe) <|
    .cons (fun _ hs => hs.execWaitsigEq) <| .cons (fun _ hs => hs.execFencePacket) <|
    .cons (fun _ hs => hs.execPad) <| .one fun _ hs => hs.execFrontEndPoll

theorem goingsKept_packageEvents : GoingsKept M Z (packageEvents s) :=
  .append (.append (.ite (.one fun _ hs => hs.bootStep) .nil) (.ite (.one fun _ hs => hs.execMailboxComplete) .nil))
    (.ite .nil (.one fun _ hs => hs.retryStalled))

theorem goingsKept_goings : GoingsKept M Z (goings s) :=
  .append (.append (.append (.append (.append (.append (.flatMap fun _ => goingsKept_strandEvents)
    (.flatMap fun _ => goingsKept_queueEvents)) (.flatMap fun _ => goingsKept_coreEvents))
    (.map fun _ _ hs => hs.scrivenerAnswer)) goingsKept_launchEvents) (.flatMap fun _ => goingsKept_hostQueueEvents))
    goingsKept_packageEvents

theorem GoingKept.changes {g : Going} (hg : GoingKept M Z g) (hs : Kept M Z s) : OptKept (Kept M Z) (moves? s g) := by
  unfold moves?
  split
  next he =>
    split
    · exact OptKept.none
    · exact OptKept.some ((hg s hs).get he)
  · exact OptKept.none

theorem Kept.goOn (hs : Kept M Z s) : Kept M Z (goOn s) := by
  refine OptKept.getD (p := Kept M Z) (fun u hu => ?_) hs.frame
  obtain ⟨g, hg, he⟩ := List.exists_of_findSome?_eq_some hu
  exact GoingKept.changes (goingsKept_goings g (List.mem_append.mp hg |>.elim List.mem_of_mem_drop List.mem_of_mem_take))
    hs.frame _ he

theorem Kept.afterTurn (hs : Kept M Z s) : Kept M Z (afterTurn s) := by
  unfold Machine.afterTurn
  dsimp only
  refine Kept.frame ?_
  split
  · exact hs.goOn
  · exact hs

theorem Kept.issueOrGoOn (hs : Kept M Z s) : OutKept M Z (issueOrGoOn s) := by
  unfold Machine.issueOrGoOn
  split
  · exact hs.goOn
  · exact hs.coreTurn.onNext (fun _ ht => ht.afterTurn)

end Sys2Proof.Machine
end

section
/-! O3: what the functions of Sys2Proof.Machine.Step keep. -/

namespace Sys2Proof.Machine

set_option Elab.async false

variable {M Z : Prop} {s t : State} {st st' : Strand} {v : Vals} {cx : Ctx} {α β : Type}

/-- Every step keeps the invariant: a host action or event, an operation that goes on, or an instruction of the cursor. -/
theorem Kept.step (hs : Kept M Z s) : OutKept M Z (step s) := by
  unfold Machine.step
  split
  · exact hs.frame.act.onNext (fun _ ht => ht.tick)
  · exact hs.issueOrGoOn.onNext (fun _ ht => ht.tick)

end Sys2Proof.Machine
end

section
/-! The invariants: at reset (O2), and after every step (O3). -/

namespace Sys2Proof.Machine

/-- Settles O2: reset lists no byte and no strand. -/
theorem resetInvariants : Obligations.ResetInvariants :=
  ⟨reset_memWf, rfl, fun _ he => nomatch he⟩

/-- Settles O3, from what every function of the model keeps: once for the memories, once for x0. -/
theorem stepKeepsMemoryCanonical : Obligations.StepKeepsMemoryCanonical :=
  ⟨fun _ _ hm he => ((Kept.step (M := True) (Z := False) ⟨fun _ => hm, False.elim⟩).get he).memories trivial,
    fun _ _ hz he => ((Kept.step (M := False) (Z := True) ⟨False.elim, fun _ => hz⟩).get he).zeros trivial⟩

end Sys2Proof.Machine
end

section
/-! O30: what a store does up to its issue. -/

namespace Sys2Proof.Machine

open Sys2Proof.Claims

variable {s : State} {cx : Ctx} {i : Instr} {u : Uses}

/-! Instructions that retire. -/

/-- An instruction whose effect is `d` retires with it, once it is ready. -/
theorem completes_of_body {uses : Ctx → Uses} {body : Vals → Except Stop Done} {d : Done} (hx : exec i s = issue i uses s body)
    (h : Ready s cx u) (hb : body (operandsOf s cx) = .ok d) (hc : d.s.cursor = s.cursor) (he : d.ends = false := by rfl)
    (ht : d.trap = none := by rfl) (hp : d.parks = none := by rfl) (hu : uses cx = u := by rfl) :
    Completes i s cx u d (d.jump.getD (successor s.cursor.header cx.st.pc)) := by
  subst hu
  obtain ⟨t0, t, hi, hr, hf⟩ := issue_retires i uses body h hb he ht hp
  rw [hc] at hr
  unfold Followed at hf
  rw [hc] at hf
  exact ⟨t0, t, hx.trans hi, hr, hf⟩

/-! The L1 TLB. -/

theorem touch_cursor (s : State) (core : Nat) (a : Word) : (touch s core a).cursor = s.cursor := by
  unfold touch
  dsimp only
  split <;> rfl

theorem touchEnds_cursor (s : State) (core : Nat) (a : Word) (n : Nat) : (touchEnds s core a n).cursor = s.cursor := by
  unfold touchEnds
  rw [touch_cursor, touch_cursor]

theorem touchAll_cursor (s : State) (core n : Nat) (as : List (Nat × Word)) : (touchAll s core n as).cursor = s.cursor :=
  foldl_field (·.cursor) _ (fun s _ => touchEnds_cursor s core _ n) as s

/-! Addresses, values and counts. -/

theorem effective_eq_addressOf (m : MemRef) (x : Reg → Word) : effective m x = addressOf x m := by
  have hscale (w : Word) (n : Nat) : w <<< n = w * BitVec.ofNat 64 (2 ^ n) :=
    (BitVec.shiftLeft_eq_mul_twoPow w n).trans (congrArg (w * ·) (BitVec.eq_of_toNat_eq (by simp [BitVec.toNat_twoPow])))
  unfold effective addressOf
  rw [hscale]

theorem leBytes_getElem? (n v j : Nat) :
    (leBytes n v)[j]? = if j < n then some (BitVec.ofNat 8 (v / 256 ^ j)) else none := by
  induction n generalizing v j with
  | zero => rfl
  | succ n ih =>
    cases j with
    | zero => simp [leBytes]
    | succ j => simp [leBytes, ih, Nat.div_div_eq_div_mul, Nat.pow_succ']

/-- The bytes of a store: the lowest-order byte goes to the first cell (R4). -/
theorem pairWrites_eq_writesOf (cells : List Nat) (v : Nat) :
    pairWrites cells v = writesOf cells fun j => BitVec.ofNat 8 (v / 256 ^ j) := by
  unfold pairWrites writesOf
  refine List.ext_getElem? fun j => ?_
  by_cases hj : j < cells.length
  · simp [List.getElem?_zip_eq_some, leBytes_getElem?, hj]
  · simp [hj]

theorem countSt_of_lt {st : Strand} (h : st.st < 63) : countSt st = some { st with st := st.st + 1 } := if_pos h

/-! Stores. -/

variable {v : Vals} {a : Word} {n : Nat}

theorem storeAt_ok {val : Nat} {ord : Ord} {scope : Scope} {cells : List Nat} (hst : v.cx.st.st < 63)
    (ha : ord ≠ .plain → a.toNat % n = 0) (hc : accessCells v.s (partyOf v.cx.core v.cx.st) .die true true a n = .ok cells) :
    storeAt v a n val ord scope = .ok
      { s := touchEnds v.s v.cx.core a n
        st := { v.cx.st with st := v.cx.st.st + 1 }.begin { noAccess (.store n) with
          addr := a, ord := ord, scope := scope, spans := [(a, n)],
          writes := writesOf cells fun j => BitVec.ofNat 8 (val / 256 ^ j) } } := by
  unfold storeAt
  rw [countSt_of_lt hst, ← pairWrites_eq_writesOf]
  have hn : ¬(ord ≠ .plain ∧ a.toNat % n ≠ 0) := fun h => h.2 (ha h.1)
  simp only [hn, if_false, hc]

/-- The cells of the elements of a vector access whose every lane passes its checks. -/
theorem elementCells_ok {write : Bool} {ks : List Nat} {addr : Nat → Word} {cells : Nat → List Nat}
    (h : ∀ k ∈ ks, accessCells v.s (partyOf v.cx.core v.cx.st) .die write true (addr k) n (code := true) = .ok (cells k)) :
    elementCells v write n (ks.map fun k => (k, addr k)) = .ok (ks.map fun k => (k, cells k)) := by
  induction ks with
  | nil => rfl
  | cons k ks ih =>
    rw [List.forall_mem_cons] at h
    simp only [List.map_cons, elementCells, h.1, ih h.2]

theorem storeLanes_ok {val : Nat → Nat} {ks : List Nat} {addr : Nat → Word} {cells : Nat → List Nat} (hst : v.cx.st.st < 63)
    (h : ∀ k ∈ ks, accessCells v.s (partyOf v.cx.core v.cx.st) .die true true (addr k) n (code := true) = .ok (cells k)) :
    storeLanes v n val (ks.map fun k => (k, addr k)) = .ok
      { s := touchAll v.s v.cx.core n (ks.map fun k => (k, addr k))
        st := { v.cx.st with st := v.cx.st.st + 1 }.begin { noAccess (.store n) with
          addr := (ks.head?.map addr).getD 0, spans := ks.map fun k => (addr k, n),
          writes := ks.flatMap fun k => writesOf (cells k) fun j => BitVec.ofNat 8 (val k / 256 ^ j) } } := by
  unfold storeLanes
  rw [countSt_of_lt hst]
  simp only [elementCells_ok h, List.head?_map, Option.map_map, List.map_map, List.flatMap_map, pairWrites_eq_writesOf,
    Function.comp_def]

/-- An instruction that stores like `storeAt` retires, once it is ready and its checks pass. -/
theorem completes_of_storeAt {uses : Ctx → Uses} {body : Vals → Except Stop Done} {val : Nat} {ord : Ord} {scope : Scope}
    {cells : List Nat} (hx : exec i s = issue i uses s body)
    (hb : body (operandsOf s cx) = storeAt (operandsOf s cx) a n val ord scope) (h : Ready s cx u)
    (hst : cx.st.st < 63) (ha : ord ≠ .plain → a.toNat % n = 0)
    (hc : accessCells s (partyOf cx.core cx.st) .die true true a n = .ok cells)
    (hu : uses cx = u := by rfl) :
    Completes i s cx u
      { s := touchEnds s cx.core a n
        st := { cx.st with st := cx.st.st + 1 }.begin { noAccess (.store n) with
          addr := a, ord := ord, scope := scope, spans := [(a, n)],
          writes := writesOf cells fun j => BitVec.ofNat 8 (val / 256 ^ j) } } (successor s.cursor.header cx.st.pc) :=
  completes_of_body hx h (hb.trans (storeAt_ok (v := operandsOf s cx) hst ha hc)) (touchEnds_cursor _ _ _ _)
    (hu := hu)

/-- An instruction that stores like `storeLanes` retires, once it is ready and the checks of its active lanes pass. -/
theorem completes_of_storeLanes {uses : Ctx → Uses} {body : Vals → Except Stop Done} {val : Nat → Nat} {ks : List Nat}
    {addr : Nat → Word} {cells : Nat → List Nat} (hx : exec i s = issue i uses s body)
    (hb : body (operandsOf s cx) = storeLanes (operandsOf s cx) n val (ks.map fun k => (k, addr k))) (h : Ready s cx u)
    (hst : cx.st.st < 63)
    (hc : ∀ k ∈ ks, accessCells s (partyOf cx.core cx.st) .die true true (addr k) n (code := true) = .ok (cells k))
    (hu : uses cx = u := by rfl) :
    Completes i s cx u
      { s := touchAll s cx.core n (ks.map fun k => (k, addr k))
        st := { cx.st with st := cx.st.st + 1 }.begin { noAccess (.store n) with
          addr := (ks.head?.map addr).getD 0, spans := ks.map fun k => (addr k, n),
          writes := ks.flatMap fun k => writesOf (cells k) fun j => BitVec.ofNat 8 (val k / 256 ^ j) } }
      (successor s.cursor.header cx.st.pc) :=
  completes_of_body hx h (hb.trans (storeLanes_ok (v := operandsOf s cx) hst hc)) (touchAll_cursor _ _ _ _)
    (hu := hu)

/-- Settles O30: the checks pass, so the store retires with its access outstanding. -/
theorem storesBegin : Obligations.StoresBegin := by
  refine ⟨fun i a n val ord scope s cx cells pc hi h hst ha hc hpc => ?_,
    fun i vs t m addr s cx cells pc hi h hst hc hpc => ?_⟩
  · subst hpc
    unfold storeOf at hi
    split at hi
    next r m sz =>
      cases hi
      refine completes_of_storeAt rfl ?_ h hst (fun ho => absurd rfl ho) hc
      exact congrArg (storeAt _ · _ _ _ _) (effective_eq_addressOf m _)
    next r m scope sz =>
      cases hi
      refine completes_of_storeAt rfl ?_ h hst (fun _ => ha rfl) hc
      exact congrArg (storeAt _ · _ _ _ _) (effective_eq_addressOf m _)
    next v m =>
      cases hi
      refine completes_of_storeAt rfl ?_ h hst (fun ho => absurd rfl ho) hc
      exact congrArg (storeAt _ · _ _ _ _) (effective_eq_addressOf m _)
    · cases hi
  · subst hpc
    unfold elementsOf at hi
    split at hi
    · cases hi
    · cases hi
      exact completes_of_storeLanes rfl rfl h hst hc
    · cases hi
    · cases hi
      exact completes_of_storeLanes rfl rfl h hst hc
    · cases hi

end Sys2Proof.Machine
end

section
/-! O50: the read of STRANDCFG on a core with more parked strands than its count has room for. -/

namespace Sys2Proof.Machine

open Sys2Proof.Claims

variable {s : State} {cx : Ctx} {i : Instr}

/-- Where a next head follows, what an instruction writes to an x register is one value. -/
theorem writes_unique {n : Fin 48} {w w' pc pc' : Word} (hn : n ≠ 0) (hpc : (nextPc s.cursor.header cx.st.pc).isSome)
    (h : Writes s cx i (.x n) w pc) (h' : Writes s cx i (.x n) w' pc') : w = w' := by
  have stays {d : Done} {t0 t : State} (hf : Followed s cx d t0 t) : t = t0 := by
    simpa [Followed, Option.isSome_iff_ne_none.mp hpc] using hf
  obtain ⟨t0, t, he, ⟨⟨st, hst, -, hx, -⟩, -⟩, hf⟩ := h
  obtain ⟨t0', t', he', ⟨⟨st', hst', -, hx', -⟩, -⟩, hf'⟩ := h'
  obtain rfl : t = t' := by simpa using he.symm.trans he'
  obtain rfl := stays hf
  obtain rfl := stays hf'
  obtain rfl : st = st' := by simpa using hst.symm.trans hst'
  have hn' : n.val ≠ 0 := fun h => hn (Fin.ext h)
  simpa [xAfter, hn'] using (hx n.val).symm.trans (hx' n.val)

/-- csrr of STRANDCFG that is ready writes it. -/
theorem csrr_strandcfg {d : Reg} (h : Ready s cx (usesOf s cx (.csrr d 0x100))) :
    Writes s cx (.csrr d 0x100) d (strandcfg s cx.core) (successor s.cursor.header cx.st.pc) := by
  have hx : exec (.csrr d 0x100) s = execCsrr d 0x100 s := rfl
  unfold execCsrr at hx
  refine completes_of_body hx h ?_ rfl
  simp [csrWord, isTsetCsr, isWpCsr, results, operandsOf]

/-- One bit of a word, as a number. -/
theorem field_bit (w : Word) (n : Nat) : field w n n = (w.getLsbD n).toNat := by
  unfold field
  rw [Nat.add_sub_cancel_left, Nat.pow_one, BitVec.getLsbD, Nat.toNat_testBit, Nat.shiftRight_eq_div_pow]

/-- The strands of the crowded core: its supervisor, and others. -/
def crowdedSup : Strand := { kind := .supervisor, gen := 1, stage := 0, rank := 0, lid := 0 }

/-- A core whose supervisor strand issues, with strands listed beside it. -/
def crowded (l : Tab Strand) : State :=
  { strands := (placeKey 0 supervisorSlot, crowdedSup) :: l, cores := [(0, { supRunning := true })]
    cursor := { core := 0, slot := supervisorSlot, header := 0xF800 } }

theorem crowded_strand (l : Tab Strand) : (crowded l).strand 0 supervisorSlot = some crowdedSup := by
  simp [State.strand, crowded, Tab.find]

theorem crowded_core (l : Tab Strand) : (crowded l).core 0 = { supRunning := true } := rfl

theorem crowded_current (l : Tab Strand) :
    current (crowded l) = some { core := 0, slot := supervisorSlot, st := crowdedSup } := by
  have hc : (crowded l).cursor = { core := 0, slot := supervisorSlot, header := 0xF800 } := rfl
  unfold current
  simp [hc, crowded_strand, crowded_core, crowdedSup]

theorem engineFault_none {core : Nat} {st : Strand} {y : Sync} {named : List Nat} (ht : (s.core core).tile.queue = [])
    (he : (s.core core).tile.ended = []) (hm : (s.core core).merge.failed = []) (ho : (s.core core).ops = []) :
    engineFault s core st y named = none := by
  simp [engineFault, engineFault.rest, engineFault.command, ht, he, hm, ho]

theorem usesOf_csrr {d : Reg} {n : BitVec 12} : usesOf s cx (.csrr d n) =
    { dst := [d], illegal := !csrAssigned cx.core n.toNat, privileged := !csrUserReads n.toNat } := rfl

theorem crowded_ready (l : Tab Strand) :
    Ready (crowded l) { core := 0, slot := supervisorSlot, st := crowdedSup }
      (usesOf (crowded l) { core := 0, slot := supervisorSlot, st := crowdedSup } (.csrr (.x 1) 0x100)) where
  strand := crowded_current l
  legal := by
    rw [usesOf_csrr]
    simp [isIllegal, wideShape, crowdedSup, csrAssigned, Reg.present]
  level _ := rfl
  kind := nofun
  bound := rfl
  noFault := engineFault_none rfl rfl rfl rfl
  paid := nofun
  valid _ := rfl
  free := nofun
  acquired h := absurd rfl h
  heads := nofun
  owedNot := nofun
  units h := h.elim (absurd rfl) (absurd rfl)
  outFree := nofun
  data := nofun
  clean := nofun
  room h := absurd rfl h

/-- One place of the park area of core 0, listed more than once. -/
def crowd (n : Nat) : Tab Strand := List.replicate n (placeKey 0 32, { crowdedSup with kind := .inst })

theorem parkedCount_crowd (n : Nat) : parkedCount (crowded (crowd n)) 0 = n := by
  simp [parkedCount, crowded, crowd, placeKey, supervisorSlot]

theorem find_crowd (n : Nat) : (crowded (crowd n)).strands.find (placeKey 0 0) = none := by
  have h : (crowd n).find (placeKey 0 0) = none := by
    induction n with
    | zero => rfl
    | succ n ih => exact ih
  simpa [crowded, Tab.find, placeKey, supervisorSlot] using h

/-- With 65,536 of them the count of parked strands runs into the bit of slot 0. -/
theorem strandcfg_crowd {n : Nat} (hn : n = 65536) : (strandcfg (crowded (crowd n)) 0).getLsbD 24 = true := by
  have h : (put n 8).getLsbD 24 = true := by rw [hn]; decide
  simp [strandcfg, parkedCount_crowd, h]

/-- Refutes O50: the state of the model lists places, and nothing keeps a place from being listed more than once. With a place of
the park area listed 65,536 times the count that STRANDCFG shows from bit 8 on carries into bit 24, which then reads 1 although
slot 0 is empty; the bound on the count is a hypothesis of its own field only. -/
theorem not_systemRegisterReads : ¬ Obligations.SystemRegisterReads := by
  unfold Obligations.SystemRegisterReads
  intro h
  obtain ⟨n, hn⟩ : ∃ n, n = 65536 := ⟨_, rfl⟩
  have hr := crowded_ready (crowd n)
  obtain ⟨-, -, -, -, hcfg, -⟩ := h.1 _ _ _ _ _ hr rfl
  obtain ⟨w, hw, -, -, hslot, -⟩ := hcfg rfl
  obtain rfl := writes_unique (by decide) (show (nextPc 0xF800 0).isSome = true by decide) (csrr_strandcfg hr) hw
  have h24 := (field_bit _ 24).symm.trans (hslot 0 (by simp [crowded_core]))
  rw [strandcfg_crowd hn, find_crowd] at h24
  exact absurd h24 (by decide)

end Sys2Proof.Machine
end

section
/-! O51: what a CSR write does. -/

namespace Sys2Proof.Machine

open Sys2Proof.Claims

variable {s : State} {cx : Ctx} {i : Instr} {k : Nat} {v : Word}

/-! Instructions that trap. -/

/-- A ready instruction whose effect stops with a trap takes it. -/
theorem trapsAt_of_body {uses : Ctx → Uses} {body : Vals → Except Stop Done} {u : Uses} {e : Stop} {c : Cause} {a : Word}
    (hx : exec i s = issue i uses s body) (h : Ready s cx u) (hb : body (operandsOf s cx) = .error e)
    (he : stopped s cx e = trapAt s cx c 0 a) (ht : CanTrap s cx) (hu : uses cx = u) : TrapsAt i s cx c a := by
  subst hu
  exact ⟨_, hx.trans (issue_stops i uses body h hb), he ▸ trapAt_trapped ht c 0 a⟩

/-- An instruction that is illegal for what it is traps ILLEGAL. -/
theorem trapsAt_illegal {uses : Ctx → Uses} {body : Vals → Except Stop Done} (hx : exec i s = issue i uses s body)
    (hc : current s = some cx) (hl : (uses cx).illegal = true) (ht : CanTrap s cx) :
    TrapsAt i s cx .illegal (headTail i) := by
  have hg : gate s i cx (uses cx) = .error (.trap .illegal (headTail i)) :=
    if_pos (by simp [isIllegal, hl])
  exact ⟨_, hx.trans (issue_stopped hc hg), trapAt_trapped ht .illegal 0 _⟩

/-! CSR writes. -/

/-- The effect of a CSR write is that of its value. -/
theorem csrValue_issue (hi : csrValue s cx i = some (k, v)) : ∃ uses body, exec i s = issue i uses s body ∧
    uses cx = usesOf s cx i ∧ body (operandsOf s cx) = csrModify (operandsOf s cx) k v := by
  unfold csrValue at hi
  split at hi
  · cases hi
    exact ⟨_, _, rfl, rfl, rfl⟩
  · cases hi
    exact ⟨_, _, rfl, rfl, rfl⟩
  · cases hi
    exact ⟨_, _, rfl, rfl, rfl⟩
  · cases hi

/-- A CSR write that is ready completes with its effect. -/
theorem csr_completes (hi : csrValue s cx i = some (k, v)) (h : Ready s cx (usesOf s cx i)) {t : State} {st : Strand}
    (hm : csrModify (operandsOf s cx) k v = .ok { s := t, st := st }) (hc : t.cursor = s.cursor) :
    Completes i s cx (usesOf s cx i) { s := t, st := st } (successor s.cursor.header cx.st.pc) := by
  obtain ⟨uses, body, hx, hu, hb⟩ := csrValue_issue hi
  exact completes_of_body hx h (hb.trans hm) hc (hu := hu)

/-- A CSR write that is ready and whose effect stops with a trap takes it. -/
theorem csr_traps (hi : csrValue s cx i = some (k, v)) (h : Ready s cx (usesOf s cx i)) {e : Stop} {c : Cause} {a : Word}
    (hm : csrModify (operandsOf s cx) k v = .error e) (he : stopped s cx e = trapAt s cx c 0 a) (ht : CanTrap s cx) :
    TrapsAt i s cx c a := by
  obtain ⟨uses, body, hx, hu, hb⟩ := csrValue_issue hi
  exact trapsAt_of_body hx h (hb.trans hm) he ht hu

/-- A write of a register other than VPOOLPUSH. -/
theorem csrModify_eq_writeCsr (hk : k ≠ 0x161) : csrModify (operandsOf s cx) k v =
    .ok { s := (writeCsr s cx.core cx.st k v).1, st := (writeCsr s cx.core cx.st k v).2 } := if_neg hk

theorem csr_writes (hi : csrValue s cx i = some (k, v)) (h : Ready s cx (usesOf s cx i)) (hk : k ≠ 0x161) {t : State}
    {st : Strand} (hw : writeCsr s cx.core cx.st k v = (t, st)) (hc : t.cursor = s.cursor := by rfl) :
    Completes i s cx (usesOf s cx i) { s := t, st := st } (successor s.cursor.header cx.st.pc) :=
  csr_completes hi h (by rw [csrModify_eq_writeCsr hk, hw]) hc

/-! Fields. -/

theorem field_eq_bits (w : Word) (hi lo : Nat) : field w hi lo = bits w hi lo := by
  unfold field bits
  rw [Nat.shiftRight_eq_div_pow]

/-- Words that agree on the bits of a field agree on the field. -/
theorem field_congr {w w' : Word} {hi lo : Nat} (h : ∀ j, lo ≤ j → j ≤ hi → w.getLsbD j = w'.getLsbD j) :
    field w hi lo = field w' hi lo := by
  refine Nat.eq_of_testBit_eq fun j => ?_
  unfold field
  rw [Nat.testBit_mod_two_pow, Nat.testBit_mod_two_pow, Nat.testBit_shiftRight, Nat.testBit_shiftRight]
  by_cases hj : j < hi + 1 - lo
  · exact congrArg _ (h (lo + j) (by omega) (by omega))
  · simp [hj]

theorem getLsbD_put (n lo : Nat) {j : Nat} (hj : j < 64) : (put n lo).getLsbD j = (decide (lo ≤ j) && n.testBit (j - lo)) := by
  rw [put, BitVec.getLsbD_ofNat, Nat.testBit_mul_two_pow, decide_eq_true hj, Bool.true_and]

theorem writeFstat_toNat (old new : Word) : (writeFstat old new).toNat =
    bits new 4 0 + 2 ^ 8 * (if bits new 10 8 = 7 then bits old 10 8 else bits new 10 8) := by
  have ha : bits new 4 0 < 2 ^ 5 := Nat.mod_lt _ (by decide)
  have hb : (if bits new 10 8 = 7 then bits old 10 8 else bits new 10 8) < 2 ^ 3 := by
    split
    · exact Nat.mod_lt _ (by decide)
    · exact Nat.mod_lt _ (by decide)
  unfold writeFstat
  generalize bits new 4 0 = a at *
  generalize (if bits new 10 8 = 7 then bits old 10 8 else bits new 10 8) = b at *
  have h := Nat.two_pow_add_eq_or_of_lt (i := 8) (b := a) (by omega) b
  rw [put, put, BitVec.toNat_or, BitVec.toNat_ofNat, BitVec.toNat_ofNat, Nat.mod_eq_of_lt (by omega), Nat.mod_eq_of_lt (by omega),
    Nat.pow_zero, Nat.mul_one, Nat.or_comm, Nat.mul_comm b, ← h, Nat.add_comm]

/-- FSTAT after a write (R88). -/
theorem field_writeFstat (old new : Word) : field (writeFstat old new) 4 0 = field new 4 0 ∧ field (writeFstat old new) 7 5 = 0 ∧
    field (writeFstat old new) 63 11 = 0 ∧
    field (writeFstat old new) 10 8 = if field new 10 8 = 7 then field old 10 8 else field new 10 8 := by
  have ha : bits new 4 0 < 32 := Nat.mod_lt _ (by decide)
  have hb : (if bits new 10 8 = 7 then bits old 10 8 else bits new 10 8) < 8 := by
    split
    · exact Nat.mod_lt _ (by decide)
    · exact Nat.mod_lt _ (by decide)
  have h := writeFstat_toNat old new
  simp only [field_eq_bits]
  generalize (if bits new 10 8 = 7 then bits old 10 8 else bits new 10 8) = b at *
  generalize bits new 4 0 = a at *
  generalize writeFstat old new = w at *
  refine ⟨?_, ?_, ?_, ?_⟩
  all_goals
    unfold bits
    omega

/-- ECAUSE after a write (R380). -/
theorem field_writeEcause (old : Word) {act : Nat} (ha : act < 4) :
    field (put act 62 ||| (old &&& ~~~(put 3 62))) 61 0 = field old 61 0 ∧
      field (put act 62 ||| (old &&& ~~~(put 3 62))) 63 62 = act := by
  constructor
  · refine field_congr fun j _ hj => ?_
    rw [BitVec.getLsbD_or, BitVec.getLsbD_and, BitVec.getLsbD_not, getLsbD_put _ _ (by omega), getLsbD_put _ _ (by omega)]
    have h : ¬ 62 ≤ j := by omega
    have h' : j < 64 := by omega
    simp [h, h']
  · have h : field (put act 62 ||| (old &&& ~~~(put 3 62))) 63 62 = field (put act 62) 63 62 := by
      refine field_congr fun j h1 h2 => ?_
      have h3 : (put 3 62).getLsbD j = true := by
        obtain rfl | rfl : j = 62 ∨ j = 63 := by omega
        · decide
        · decide
      rw [BitVec.getLsbD_or, BitVec.getLsbD_and, BitVec.getLsbD_not, h3]
      simp
    rw [h, field_eq_bits, bits, put, BitVec.toNat_ofNat]
    omega

/-! The pool of VPOOLPUSH. -/

/-- Looking up a page changes the L1 TLB of a core, and the choices left. -/
theorem touch_frame (s : State) (core : Nat) (a : Word) :
    touch s core a = { s with cores := (touch s core a).cores, free := (touch s core a).free } := by
  unfold touch
  dsimp only
  split <;> rfl

theorem physRead_handled (h : Word) (p n : Nat) : physRead (handled s cx h) p n = physRead s p n := by
  unfold handled
  rw [touch_frame]
  rfl

theorem headerPoisoned_handled (h : Word) (p : Nat) : headerPoisoned (handled s cx h) p = headerPoisoned s p := by
  unfold handled
  rw [touch_frame]
  rfl

theorem physWrite_cursor (s : State) (a : Nat) (bs : List Byte) : (physWrite s a bs).cursor = s.cursor := by
  unfold physWrite
  refine foldl_field (·.cursor) _ (fun s p => ?_) _ s
  split <;> rfl

theorem handled_cursor (h : Word) : (handled s cx h).cursor = s.cursor := touch_cursor _ _ _

variable {p tile : Nat} {w : Word}

theorem poolPush_eq : poolPush s p tile =
    if headerPoisoned s p then s
    else if (poolHeader s p).2.2 = (poolHeader s p).2.1 then
      setPool s p (Nat.min 65535 ((poolHeader s p).1 + 1)) (poolHeader s p).2.1 (poolHeader s p).2.2
    else setPool (physWrite s (p + 64 + 8 * (poolHeader s p).2.2) (leBytes 8 tile)) p (poolHeader s p).1 (poolHeader s p).2.1
      ((poolHeader s p).2.2 + 1) := rfl

theorem poolHeader_eq (hw : w = BitVec.ofNat 64 (physRead s p 8)) :
    poolHeader s p = (field w 63 48, field w 47 24, field w 23 0) := by
  simp only [hw, field_eq_bits, poolHeader]

/-- The three fields of a pool header make up its word (R352). -/
theorem header_eq (w : Word) : field w 63 48 * 2 ^ 48 + field w 47 24 * 2 ^ 24 + field w 23 0 = w.toNat := by
  simp only [field_eq_bits, bits]
  omega

/-- A push to a pool with room (R352). -/
theorem poolPush_room (hw : w = BitVec.ofNat 64 (physRead s p 8)) (hp : headerPoisoned s p = false)
    (hr : field w 23 0 ≠ field w 47 24) : poolPush s p tile =
      physWrite (physWrite s (p + 64 + 8 * field w 23 0) (leBytes 8 tile)) p (leBytes 8 (w.toNat + 1)) := by
  rw [poolPush_eq, hp, poolHeader_eq hw, if_neg Bool.false_ne_true, if_neg hr, setPool, ← header_eq w,
    Nat.add_assoc _ (field w 23 0)]

/-- A push to a full pool counts a lost tile (R352). -/
theorem poolPush_full (hw : w = BitVec.ofNat 64 (physRead s p 8)) (hp : headerPoisoned s p = false)
    (hr : field w 23 0 = field w 47 24) (hl : field w 63 48 < 0xFFFF) :
    poolPush s p tile = physWrite s p (leBytes 8 (w.toNat + 2 ^ 48)) := by
  have hmin {l n : Nat} (h : l < n) : Nat.min n (l + 1) = l + 1 := Nat.min_eq_right h
  have hs : Nat.min 65535 (field w 63 48 + 1) * 2 ^ 48 + field w 47 24 * 2 ^ 24 + field w 23 0 = w.toNat + 2 ^ 48 := by
    have h := header_eq w
    rw [hmin hl, ← h, Nat.succ_mul, Nat.add_right_comm _ (2 ^ 48), Nat.add_right_comm _ (2 ^ 48)]
  rw [poolPush_eq, hp, poolHeader_eq hw, if_neg Bool.false_ne_true, if_pos hr, setPool, hs]

/-! The statement. -/

/-- Of VPOOLPUSH. -/
theorem csrModify_push {r : Nat × Volume} (hr : volumeOf (operandsOf s cx) (s.core cx.core).vhandle 0 true
    (s.core cx.core).vhandle = .ok r) : csrModify (operandsOf s cx) 0x161 v =
      if !poolOnDie s (dieOf cx.core) r.2.pool 1 then .error (.trap .objAbsent (s.core cx.core).vhandle)
      else if headerPoisoned s r.2.pool then .error (volumePoison (s.core cx.core).vhandle)
      else .ok { s := poolPush (handled s cx (s.core cx.core).vhandle) r.2.pool v.toNat, st := cx.st } := by
  unfold csrModify
  rw [if_pos rfl]
  simp only [operandsOf] at hr ⊢
  rw [hr]
  rfl

/-- A write of a word of a configuration set (R133). -/
theorem writesSet_of_csr {j f : Nat} (hi : csrValue s cx i = some (k, v)) (h : Ready s cx (usesOf s cx i)) (hj : j < 4) (hf : f < 3)
    (hk : k = 0x10 + 4 * j + f) :
    WritesSet i s cx j f (if f = 0 then v &&& ~~~(put 1023 14 ||| put 3 8) else v) (successor s.cursor.header cx.st.pc) := by
  have ht : isTsetCsr k = true := by simp [isTsetCsr]; omega
  have hj' : (k - 0x10) / 4 = j := by omega
  have hf' : k % 4 = f := by omega
  have hw : writeCsr s cx.core cx.st k v =
      (setTset s cx.core j f (if f = 0 then v &&& ~~~(put 1023 14 ||| put 3 8) else v), cx.st) := by
    unfold writeCsr
    rw [if_neg (by omega), if_neg (by omega), if_pos ht, hj', hf']
  exact ⟨_, fun n => Tab.get_set 0 n _ _ _, csr_writes hi h (by omega) hw⟩

/-- A write of a register of the core. -/
theorem csr_leaves {c : Core} (hi : csrValue s cx i = some (k, v)) (h : Ready s cx (usesOf s cx i)) (hk : k ≠ 0x161)
    (hw : writeCsr s cx.core cx.st k v = (s.setCore cx.core c, cx.st)) :
    Completes i s cx (usesOf s cx i) { s := s.setCore cx.core c, st := cx.st } (successor s.cursor.header cx.st.pc) :=
  csr_writes hi h hk hw

/-- VPOOLPUSH pushes to a pool that is near. -/
theorem csr_pushes {r : Nat × Volume} {h : Word} (hh : h = (s.core cx.core).vhandle) (hi : csrValue s cx i = some (0x161, v))
    (hr : Ready s cx (usesOf s cx i)) (hv : volumeOf (operandsOf s cx) h 0 true h = .ok r)
    (hd : poolOnDie s (dieOf cx.core) r.2.pool 1 = true) (hp : headerPoisoned s r.2.pool = false)
    (hc : (poolPush (handled s cx h) r.2.pool v.toNat).cursor = s.cursor) :
    Completes i s cx (usesOf s cx i) { s := poolPush (handled s cx h) r.2.pool v.toNat, st := cx.st }
      (successor s.cursor.header cx.st.pc) := by
  subst hh
  refine csr_completes hi hr ((csrModify_push hv).trans ?_) hc
  rw [hd, hp]
  rfl

/-- The CSR writes that are illegal: of no register, of one that no level may write where it is not PRIVILEGE, and a set or clear
of VPOOLPUSH. -/
theorem csrWriteIllegal_of {n : Nat} {modify : Bool} (h : csrAssigned cx.core n = false ∨
    (n ∈ readOnlyCsr ∧ (n < 0x100 ∨ cx.st.kind = .supervisor)) ∨ (n = 0x161 ∧ modify = true)) :
    csrWriteIllegal cx n modify = true := by
  rcases h with h | ⟨hn, hl⟩ | ⟨hn, hm⟩
  · simp [csrWriteIllegal, h]
  · have hw : ∀ n ∈ readOnlyCsr, csrWritable n = false := by decide
    have hr : (csrUserReads n || !cx.st.isUser) = true := by
      rcases hl with hl | hl
      · simp [csrUserReads, hl]
      · simp [Strand.isUser, hl]
    simp [csrWriteIllegal, hw n hn, hr]
  · simp [csrWriteIllegal, hn, hm]

/-- Settles O51: the register that a number names is written as its layout says, and the rest is as it was. -/
theorem systemRegisterWrites : Obligations.SystemRegisterWrites := by
  unfold Obligations.SystemRegisterWrites
  constructor
  · rintro i s cx pc k v hi h rfl
    refine ⟨?_, ?_, fun t f ht hf hk => ?_, ?_, ?_, ?_, ?_, ?_, ?_, ?_, ?_, ?_⟩
    · rintro rfl
      obtain ⟨h1, h2, h3, h4⟩ := field_writeFstat cx.st.fstat v
      exact ⟨_, csr_writes hi h (by decide) rfl, h1, h2, h3, h4⟩
    · rintro rfl
      exact csr_writes hi h (by decide) rfl
    · refine ⟨_, writesSet_of_csr hi h ht hf hk, fun h0 => if_neg h0, fun h0 => ?_⟩
      rw [if_pos h0]
      rfl
    · rintro rfl
      have hact : (if bits v 63 62 = 3 then bits (s.core cx.core).ecause 63 62 else bits v 63 62) < 4 := by
        split
        · exact Nat.mod_lt _ (by decide)
        · exact Nat.mod_lt _ (by decide)
      obtain ⟨h1, h2⟩ := field_writeEcause (s.core cx.core).ecause hact
      refine ⟨_, csr_leaves hi h (by decide) rfl, h1, h2.trans ?_⟩
      simp only [field_eq_bits]
    · rintro rfl
      exact csr_leaves hi h (by decide) rfl
    · rintro rfl
      exact csr_leaves hi h (by decide) rfl
    · rintro rfl
      exact csr_writes hi h (by decide) rfl
    · rintro rfl
      exact csr_leaves hi h (by decide) rfl
    · rintro rfl
      rw [show v.toNat % 32 = bits v 4 0 by simp [bits]]
      exact csr_leaves hi h (by decide) rfl
    · rintro rfl
      rw [show v.toNat % 256 = bits v 7 0 by simp [bits]]
      exact csr_leaves hi h (by decide) rfl
    · rintro rfl
      exact csr_leaves hi h (by decide) rfl
    · rintro r rfl hr
      refine ⟨fun hd ht => ?_, fun hd hn ht => ?_, fun hn hne => ?_, fun hn he hl => ?_⟩
      · exact csr_traps hi h ((csrModify_push hr).trans (if_pos (by rw [hd]; rfl))) rfl ht
      · have hp : headerPoisoned s r.2.pool = true := by simpa [hd] using hn
        refine csr_traps hi h ((csrModify_push hr).trans ((if_neg ?_).trans (if_pos hp))) rfl ht
        rw [hd]; exact Bool.false_ne_true
      · obtain ⟨hd, hp⟩ := (Bool.and_eq_true _ _).mp hn
        rw [Bool.not_eq_true'] at hp
        have hpush := poolPush_room (s := handled s cx (s.core cx.core).vhandle) (p := r.2.pool) (tile := v.toNat)
          (by rw [physRead_handled]) (by rw [headerPoisoned_handled, hp]) hne
        rw [← hpush]
        refine csr_pushes rfl hi h hr hd hp ?_
        rw [hpush, physWrite_cursor, physWrite_cursor, handled_cursor]
      · obtain ⟨hd, hp⟩ := (Bool.and_eq_true _ _).mp hn
        rw [Bool.not_eq_true'] at hp
        have hpush := poolPush_full (s := handled s cx (s.core cx.core).vhandle) (p := r.2.pool) (tile := v.toNat)
          (by rw [physRead_handled]) (by rw [headerPoisoned_handled, hp]) he hl
        rw [← hpush]
        refine csr_pushes rfl hi h hr hd hp ?_
        rw [hpush, physWrite_cursor, handled_cursor]
  · rintro i n r s cx (rfl | rfl | rfl) hc ht hl
    · refine trapsAt_illegal rfl hc (csrWriteIllegal_of (hl.imp_right (Or.imp_right ?_))) ht
      exact fun h => absurd rfl h.2
    · refine trapsAt_illegal rfl hc (csrWriteIllegal_of (hl.imp_right (Or.imp_right ?_))) ht
      exact fun h => ⟨congrArg BitVec.toNat h.1, rfl⟩
    · refine trapsAt_illegal rfl hc (csrWriteIllegal_of (hl.imp_right (Or.imp_right ?_))) ht
      exact fun h => ⟨congrArg BitVec.toNat h.1, rfl⟩

end Sys2Proof.Machine
end

section
/-! O5, O6, O7: the decoder and the encoder undo each other. -/

namespace Sys2Proof

/-! Fields side by side in a word. -/

theorem ofBool_getLsbD {n : Nat} (x : BitVec n) (k : Nat) : BitVec.ofBool (x.getLsbD k) = x.extractLsb' k 1 := by
  apply BitVec.eq_of_getLsbD_eq
  intro i hi
  obtain rfl : i = 0 := by omega
  simp

/-- Two fields cut from a word that lie side by side in it are one field of it. -/
theorem extract_append {n lo len len' : Nat} (x : BitVec n) (hi : Nat) (h : hi = lo + len') :
    x.extractLsb' hi len ++ x.extractLsb' lo len' = x.extractLsb' lo (len + len') := by
  subst h
  rw [BitVec.extractLsb'_append_extractLsb'_eq_extractLsb' rfl]

theorem extract_setWidth {n m : Nat} (x : BitVec n) (h : n ≤ m) : (x.setWidth m).extractLsb' 0 n = x := by
  apply BitVec.eq_of_toNat_eq
  rw [BitVec.extractLsb'_toNat, Nat.shiftRight_zero, BitVec.toNat_setWidth_of_le h]
  exact Nat.mod_eq_of_lt x.isLt

theorem setWidth_extract {n m : Nat} (t : BitVec m) (h : t.toNat < 2 ^ n) : (t.extractLsb' 0 n).setWidth m = t := by
  apply BitVec.eq_of_toNat_eq
  rw [BitVec.toNat_setWidth, BitVec.extractLsb'_toNat, Nat.shiftRight_zero, Nat.mod_eq_of_lt h]
  exact Nat.mod_eq_of_lt t.isLt

/-! The layouts of R41 to R43. For each: its tail as fields side by side; its fields are read back from that tail; and a tail is
made up of the fields read from it. -/

theorem F1.tail_eq (f : F1) : f.tail = (f.rs1 ++ f.rs2 ++ f.minor : BitVec (6 + 6 + 4)) := rfl

theorem F1.ofTail_tail (f : F1) : F1.ofTail f.a f.tail = f := by
  simp (disch := decide) only [F1.ofTail, F1.tail_eq, extract_in_left, extract_right, extract_whole, Nat.reduceSub]

theorem F1.tail_ofTail (a : BitVec 7) (t : BitVec 16) : (F1.ofTail a t).tail = t := by
  simp only [F1.ofTail, F1.tail_eq, extract_append]
  exact extract_whole t

theorem F2r.tail_eq (f : F2r) : f.tail =
    (f.rs1 ++ f.rs2 ++ f.rs3 ++ f.minor ++ f.mod :
      BitVec (6 + 6 + 6 + 4 + 10)) := rfl

theorem F2r.ofTail_tail (f : F2r) : F2r.ofTail f.a f.tail = f := by
  simp (disch := decide) only [F2r.ofTail, F2r.tail_eq, extract_in_left, extract_right, extract_whole, Nat.reduceSub]

theorem F2r.tail_ofTail (a : BitVec 7) (t : BitVec 32) : (F2r.ofTail a t).tail = t := by
  simp only [F2r.ofTail, F2r.tail_eq, extract_append]
  exact extract_whole t

theorem F2i.tail_eq (f : F2i) : f.tail = (f.rs1 ++ f.minor ++ f.imm : BitVec (6 + 4 + 22)) := rfl

theorem F2i.ofTail_tail (f : F2i) : F2i.ofTail f.a f.tail = f := by
  simp (disch := decide) only [F2i.ofTail, F2i.tail_eq, extract_in_left, extract_right, extract_whole, Nat.reduceSub]

theorem F2i.tail_ofTail (a : BitVec 7) (t : BitVec 32) : (F2i.ofTail a t).tail = t := by
  simp only [F2i.ofTail, F2i.tail_eq, extract_append]
  exact extract_whole t

theorem F2m.tail_eq (f : F2m) : f.tail =
    (f.base ++ f.idx ++ f.sc ++ f.ord ++ f.scope ++ f.sz ++ f.off :
      BitVec (6 + 6 + 2 + 2 + 2 + 2 + 12)) := rfl

theorem F2m.ofTail_tail (f : F2m) : F2m.ofTail f.a f.tail = f := by
  simp (disch := decide) only [F2m.ofTail, F2m.tail_eq, extract_in_left, extract_right, extract_whole, Nat.reduceSub]

theorem F2m.tail_ofTail (a : BitVec 7) (t : BitVec 32) : (F2m.ofTail a t).tail = t := by
  simp only [F2m.ofTail, F2m.tail_eq, extract_append]
  exact extract_whole t

theorem F2s.tail_eq (f : F2s) : f.tail =
    (f.base ++ f.idx ++ f.sc ++ f.swz ++ BitVec.ofBool f.rcd ++ BitVec.ofBool f.res ++ f.sz ++ f.off :
      BitVec (6 + 6 + 2 + 2 + 1 + 1 + 2 + 12)) := rfl

theorem F2s.ofTail_tail (f : F2s) : F2s.ofTail f.a f.tail = f := by
  simp (disch := decide) only [F2s.ofTail, F2s.tail_eq, extract_in_left, extract_right, extract_whole, Nat.reduceSub,
    getLsbD_in_left, getLsbD_in_right, getLsbD_ofBool_zero]

theorem F2s.tail_ofTail (a : BitVec 7) (t : BitVec 32) : (F2s.ofTail a t).tail = t := by
  simp only [F2s.ofTail, F2s.tail_eq, extract_append, ofBool_getLsbD]
  exact extract_whole t

theorem F2b.tail_eq (f : F2b) : f.tail = (f.rs2 ++ f.off ++ f.head : BitVec (6 + 21 + 5)) := rfl

theorem F2b.ofTail_tail (f : F2b) : F2b.ofTail f.a f.tail = f := by
  simp (disch := decide) only [F2b.ofTail, F2b.tail_eq, extract_in_left, extract_right, extract_whole, Nat.reduceSub]

theorem F2b.tail_ofTail (a : BitVec 7) (t : BitVec 32) : (F2b.ofTail a t).tail = t := by
  simp only [F2b.ofTail, F2b.tail_eq, extract_append]
  exact extract_whole t

theorem F2j.tail_eq (f : F2j) : f.tail = (f.off ++ f.head : BitVec (27 + 5)) := rfl

theorem F2j.ofTail_tail (f : F2j) : F2j.ofTail f.a f.tail = f := by
  simp (disch := decide) only [F2j.ofTail, F2j.tail_eq, extract_in_left, extract_right, extract_whole, Nat.reduceSub]

theorem F2j.tail_ofTail (a : BitVec 7) (t : BitVec 32) : (F2j.ofTail a t).tail = t := by
  simp only [F2j.ofTail, F2j.tail_eq, extract_append]
  exact extract_whole t

theorem F3v.tail_eq (f : F3v) : f.tail =
    (f.vs1 ++ f.vs2 ++ f.vs3 ++ f.mask ++ f.ty ++ f.rm ++ f.minor ++ f.mod :
      BitVec (6 + 6 + 6 + 6 + 4 + 3 + 4 + 13)) := rfl

theorem F3v.ofTail_tail (f : F3v) : F3v.ofTail f.a f.tail = f := by
  simp (disch := decide) only [F3v.ofTail, F3v.tail_eq, extract_in_left, extract_right, extract_whole, Nat.reduceSub]

theorem F3v.tail_ofTail (a : BitVec 7) (t : BitVec 48) : (F3v.ofTail a t).tail = t := by
  simp only [F3v.ofTail, F3v.tail_eq, extract_append]
  exact extract_whole t

theorem F3e.tail_eq (f : F3e) : f.tail =
    (f.a1 ++ f.a2 ++ f.a3 ++ f.a4 ++ f.cnt ++ BitVec.ofBool f.cv ++ f.minor ++ f.scope ++ f.flags :
      BitVec (6 + 6 + 6 + 6 + 4 + 1 + 4 + 2 + 13)) := rfl

theorem F3e.ofTail_tail (f : F3e) : F3e.ofTail f.a f.tail = f := by
  simp (disch := decide) only [F3e.ofTail, F3e.tail_eq, extract_in_left, extract_right, extract_whole, Nat.reduceSub,
    getLsbD_in_left, getLsbD_in_right, getLsbD_ofBool_zero]

theorem F3e.tail_ofTail (a : BitVec 7) (t : BitVec 48) : (F3e.ofTail a t).tail = t := by
  simp only [F3e.ofTail, F3e.tail_eq, extract_append, ofBool_getLsbD]
  exact extract_whole t

theorem F3k.tail_eq (f : F3k) : f.tail = (f.rs1 ++ f.minor ++ f.mod ++ f.imm : BitVec (6 + 4 + 6 + 32)) := rfl

theorem F3k.ofTail_tail (f : F3k) : F3k.ofTail f.a f.tail = f := by
  simp (disch := decide) only [F3k.ofTail, F3k.tail_eq, extract_in_left, extract_right, extract_whole, Nat.reduceSub]

theorem F3k.tail_ofTail (a : BitVec 7) (t : BitVec 48) : (F3k.ofTail a t).tail = t := by
  simp only [F3k.ofTail, F3k.tail_eq, extract_append]
  exact extract_whole t

/-! Heads (R39). -/

theorem headBits_eq (mj : BitVec 7) (len : BitVec 2) (a : BitVec 7) :
    headBits mj len a = (mj ++ len ++ a : BitVec (7 + 2 + 7)) := rfl

theorem headBits_major (mj : BitVec 7) (len : BitVec 2) (a : BitVec 7) : (headBits mj len a).extractLsb' 9 7 = mj := by
  simp (disch := decide) only [headBits_eq, extract_in_left, extract_whole, Nat.reduceSub]

theorem headBits_len (mj : BitVec 7) (len : BitVec 2) (a : BitVec 7) : (headBits mj len a).extractLsb' 7 2 = len := by
  simp (disch := decide) only [headBits_eq, extract_in_left, extract_right, Nat.reduceSub]

theorem headBits_a (mj : BitVec 7) (len : BitVec 2) (a : BitVec 7) : (headBits mj len a).extractLsb' 0 7 = a := by
  rw [headBits_eq, extract_right]

theorem headBits_extract (h : Half) : headBits (h.extractLsb' 9 7) (h.extractLsb' 7 2) (h.extractLsb' 0 7) = h := by
  simp only [headBits_eq, extract_append]
  exact extract_whole h

theorem tailLen_headBits (mj : BitVec 7) (len : BitVec 2) (a : BitVec 7) : tailLen (headBits mj len a) = len.toNat := by
  rw [tailLen, headBits_len]

/-! Heads with their tails. -/

/-- The fields of a head and its tail, read under a layout. -/
def cut (l : Layout) (h : Half) (t : BitVec 48) : Raw := parse l (h.extractLsb' 9 7) (h.extractLsb' 0 7) t

theorem cut_headBits (l : Layout) (mj : BitVec 7) (len : BitVec 2) (a : BitVec 7) (t : BitVec 48) :
    cut l (headBits mj len a) t = parse l mj a t := by
  rw [cut, headBits_major, headBits_a]

/-- The decoder accepts a head and tail exactly when they stand in the layout of their major with its tail length (R40, R58),
and their fields name a well-formed instruction whose fields they are (R45). -/
theorem decode_eq_ok {h : Half} {t : BitVec 48} {i : Instr} : decode h t = .ok i ↔
    ∃ l, layoutOf (h.extractLsb' 9 7) = some l ∧ tailLen h = l.tailLen ∧ ofRaw (cut l h t) = some i ∧
      toRaw i = some (cut l h t) ∧ wellFormed i = true := by
  unfold decode tailLen cut
  dsimp only
  generalize h.extractLsb' 9 7 = mj
  generalize (h.extractLsb' 7 2).toNat = n
  generalize h.extractLsb' 0 7 = a
  constructor
  · intro hd
    split at hd
    · cases hd
    next l hl =>
    split_ifs at hd with hn
    split at hd
    · cases hd
    next j ho =>
    split_ifs at hd with hr hw
    cases hd
    exact ⟨l, hl, not_not.mp hn, ho, not_not.mp hr, hw⟩
  · rintro ⟨l, hl, rfl, ho, hr, hw⟩
    simp [hl, ho, hr, hw]

/-- A head that is put together for a layout is read under that layout. -/
theorem cut_written {l : Layout} {mj : BitVec 7} {len : BitVec 2} {a : BitVec 7} {t : BitVec 48} {r : Raw}
    (hl : layoutOf mj = some l) (hn : len.toNat = l.tailLen) (hr : parse l mj a t = r) :
    ∃ l, layoutOf ((headBits mj len a).extractLsb' 9 7) = some l ∧ tailLen (headBits mj len a) = l.tailLen ∧
      cut l (headBits mj len a) t = r :=
  ⟨l, by rw [headBits_major, hl], by rw [tailLen_headBits, hn], by rw [cut_headBits, hr]⟩

/-- Fields that stand in the layout of their major are read back from the head and tail that they are written as. -/
theorem cut_words {r : Raw} (hp : Laws.Encoding.placed r = true) :
    ∃ l, layoutOf (r.words.1.extractLsb' 9 7) = some l ∧ tailLen r.words.1 = l.tailLen ∧ cut l r.words.1 r.words.2 = r := by
  cases r with
  | f0 mj f => exact cut_written (eq_of_beq hp) rfl rfl
  | f1 mj f => exact cut_written (eq_of_beq hp) rfl (by rw [Raw.words, parse, extract_setWidth _ (by decide), F1.ofTail_tail])
  | f2r mj f => exact cut_written (eq_of_beq hp) rfl (by rw [Raw.words, parse, extract_setWidth _ (by decide), F2r.ofTail_tail])
  | f2i mj f => exact cut_written (eq_of_beq hp) rfl (by rw [Raw.words, parse, extract_setWidth _ (by decide), F2i.ofTail_tail])
  | f2m mj f => exact cut_written (eq_of_beq hp) rfl (by rw [Raw.words, parse, extract_setWidth _ (by decide), F2m.ofTail_tail])
  | f2s mj f => exact cut_written (eq_of_beq hp) rfl (by rw [Raw.words, parse, extract_setWidth _ (by decide), F2s.ofTail_tail])
  | f2b mj f => exact cut_written (eq_of_beq hp) rfl (by rw [Raw.words, parse, extract_setWidth _ (by decide), F2b.ofTail_tail])
  | f2j mj f => exact cut_written (eq_of_beq hp) rfl (by rw [Raw.words, parse, extract_setWidth _ (by decide), F2j.ofTail_tail])
  | f3v mj f => exact cut_written (eq_of_beq hp) rfl (by rw [Raw.words, parse, extract_whole, F3v.ofTail_tail])
  | f3e mj f => exact cut_written (eq_of_beq hp) rfl (by rw [Raw.words, parse, extract_whole, F3e.ofTail_tail])
  | f3k mj f => exact cut_written (eq_of_beq hp) rfl (by rw [Raw.words, parse, extract_whole, F3k.ofTail_tail])

/-- Fields read from a head and a tail of the length of their layout are written as that head and that tail. -/
theorem words_cut {l : Layout} {h : Half} {t : BitVec 48} (hn : tailLen h = l.tailLen) (ht : t.toNat < 2 ^ (16 * tailLen h)) :
    (cut l h t).words = (h, t) := by
  have hh (len : BitVec 2) (e : len.toNat = l.tailLen) : headBits (h.extractLsb' 9 7) len (h.extractLsb' 0 7) = h := by
    rw [BitVec.eq_of_toNat_eq (e.trans hn.symm)]
    exact headBits_extract h
  rw [hn] at ht
  cases l with
  | f0 => exact Prod.ext (hh 0 rfl) (BitVec.eq_of_toNat_eq (Nat.lt_one_iff.mp ht).symm)
  | f1 => exact Prod.ext (hh 1 rfl) ((congrArg _ (F1.tail_ofTail _ _)).trans (setWidth_extract t ht))
  | f2r => exact Prod.ext (hh 2 rfl) ((congrArg _ (F2r.tail_ofTail _ _)).trans (setWidth_extract t ht))
  | f2i => exact Prod.ext (hh 2 rfl) ((congrArg _ (F2i.tail_ofTail _ _)).trans (setWidth_extract t ht))
  | f2m => exact Prod.ext (hh 2 rfl) ((congrArg _ (F2m.tail_ofTail _ _)).trans (setWidth_extract t ht))
  | f2s => exact Prod.ext (hh 2 rfl) ((congrArg _ (F2s.tail_ofTail _ _)).trans (setWidth_extract t ht))
  | f2b => exact Prod.ext (hh 2 rfl) ((congrArg _ (F2b.tail_ofTail _ _)).trans (setWidth_extract t ht))
  | f2j => exact Prod.ext (hh 2 rfl) ((congrArg _ (F2j.tail_ofTail _ _)).trans (setWidth_extract t ht))
  | f3v => exact Prod.ext (hh 3 rfl) ((F3v.tail_ofTail _ _).trans (extract_whole t))
  | f3e => exact Prod.ext (hh 3 rfl) ((F3e.tail_ofTail _ _).trans (extract_whole t))
  | f3k => exact Prod.ext (hh 3 rfl) ((F3k.tail_ofTail _ _).trans (extract_whole t))

/-! The instruction set. -/

namespace Laws.Encoding

/-- The fields that the encoder gives any instruction name it, and stand in the layout of its major. -/
theorem statement (i : Instr) : Statement i := by
  cases i with
  | add => exact add _ _ _
  | sub => exact sub _ _ _
  | and => exact and _ _ _
  | or => exact or _ _ _
  | xor => exact xor _ _ _
  | andn => exact andn _ _ _
  | sll => exact sll _ _ _
  | srl => exact srl _ _ _
  | sra => exact sra _ _ _
  | rol => exact rol _ _ _
  | min => exact min _ _ _
  | max => exact max _ _ _
  | minw => exact minw _ _ _
  | maxw => exact maxw _ _ _
  | mul => exact mul _ _ _
  | mulhs => exact mulhs _ _ _
  | mulhw => exact mulhw _ _ _
  | div => exact div _ _ _
  | divw => exact divw _ _ _
  | rem => exact rem _ _ _
  | remw => exact remw _ _ _
  | clz => exact clz _ _
  | ctz => exact ctz _ _
  | popc => exact popc _ _
  | bext => exact bext _ _ _
  | bdep => exact bdep _ _ _
  | mov => exact mov _ _
  | sext => exact sext _ _ _
  | zext => exact zext _ _ _
  | seq => exact seq _ _ _
  | sne => exact sne _ _ _
  | slt => exact slt _ _ _
  | sge => exact sge _ _ _
  | sltw => exact sltw _ _ _
  | sgew => exact sgew _ _ _
  | addi => exact addi _ _ _
  | andi => exact andi _ _ _
  | ori => exact ori _ _ _
  | xori => exact xori _ _ _
  | slli => exact slli _ _ _
  | srli => exact srli _ _ _
  | srai => exact srai _ _ _
  | roli => exact roli _ _ _
  | mini => exact mini _ _ _
  | maxi => exact maxi _ _ _
  | slti => exact slti _ _ _
  | seqi => exact seqi _ _ _
  | li => exact li _ _
  | li32 => exact li32 _ _
  | lih => exact lih _ _ _
  | lea => exact lea _ _
  | sel => exact sel _ _ _ _
  | beq => exact beq _ _ _ _ _
  | bne => exact bne _ _ _ _ _
  | blt => exact blt _ _ _ _ _
  | bge => exact bge _ _ _ _ _
  | bltw => exact bltw _ _ _ _ _
  | bgew => exact bgew _ _ _ _ _
  | bbs => exact bbs _ _ _ _ _
  | bbc => exact bbc _ _ _ _ _
  | bz => exact bz _ _ _ _
  | bnz => exact bnz _ _ _ _
  | jmp => exact jmp _ _
  | jal => exact jal _ _ _
  | jr => exact jr _
  | ret => exact ret _
  | loop => exact loop _ _ _
  | vadd => exact vadd _ _ _ _ _ _
  | vsub => exact vsub _ _ _ _ _ _
  | vmul => exact vmul _ _ _ _ _ _
  | vmin => exact vmin _ _ _ _ _
  | vmax => exact vmax _ _ _ _ _
  | vadds => exact vadds _ _ _ _ _
  | vsubs => exact vsubs _ _ _ _ _
  | vabs => exact vabs _ _ _ _
  | vneg => exact vneg _ _ _ _
  | vfma => exact vfma _ _ _ _ _ _ _
  | vfms => exact vfms _ _ _ _ _ _ _
  | vand => exact vand _ _ _ _ _
  | vor => exact vor _ _ _ _ _
  | vxor => exact vxor _ _ _ _ _
  | vandn => exact vandn _ _ _ _ _
  | vsll => exact vsll _ _ _ _ _
  | vsrl => exact vsrl _ _ _ _ _
  | vsra => exact vsra _ _ _ _ _
  | vcmpeq => exact vcmpeq _ _ _ _ _
  | vcmpne => exact vcmpne _ _ _ _ _
  | vcmplt => exact vcmplt _ _ _ _ _
  | vcmple => exact vcmple _ _ _ _ _
  | vcmpgt => exact vcmpgt _ _ _ _ _
  | vcmpge => exact vcmpge _ _ _ _ _
  | vcmpun => exact vcmpun _ _ _ _ _
  | vsel => exact vsel _ _ _ _ _
  | vmov => exact vmov _ _ _ _
  | vbcast => exact vbcast _ _ _ _
  | vextr => exact vextr _ _ _ _
  | vins => exact vins _ _ _ _
  | vperm => exact vperm _ _ _ _ _
  | vcompress => exact vcompress _ _ _ _
  | vexpand => exact vexpand _ _ _ _
  | vredsum => exact vredsum _ _ _ _ _
  | vredmax => exact vredmax _ _ _ _
  | vredmin => exact vredmin _ _ _ _
  | vamax => exact vamax _ _ _ _
  | vscan => exact vscan _ _ _ _ _ _
  | vdiv => exact vdiv _ _ _ _ _ _
  | vsqrt => exact vsqrt _ _ _ _ _
  | vrsq => exact vrsq _ _ _ _ _
  | vrcp => exact vrcp _ _ _ _ _
  | vexp2 => exact vexp2 _ _ _ _ _
  | vlog2 => exact vlog2 _ _ _ _ _
  | vcvt => exact vcvt _ _ _ _ _ _ _ _
  | vpackmx => exact vpackmx _ _ _ _ _ _ _ _ _
  | vunpackmx => exact vunpackmx _ _ _ _ _ _ _ _
  | vnzx => exact vnzx _ _ _ _ _ _
  | load => exact load _ _ _
  | loadSigned => exact loadSigned _ _ _
  | lda => exact lda _ _ _ _
  | store => exact store _ _ _
  | stl => exact stl _ _ _ _
  | ldv => exact ldv _ _
  | stv => exact stv _ _
  | ldvs => exact ldvs _ _ _ _ _
  | stvs => exact stvs _ _ _ _ _
  | ldvx => exact ldvx _ _ _ _ _ _
  | stvx => exact stvx _ _ _ _ _ _
  | sld => exact sld _ _ _ _ _
  | sldRec => exact sldRec _ _ _ _
  | sst => exact sst _ _ _ _
  | sldv => exact sldv _ _ _
  | sstv => exact sstv _ _ _
  | amoadd => exact amoadd _ _ _ _
  | amoand => exact amoand _ _ _ _
  | amoor => exact amoor _ _ _ _
  | amoxor => exact amoxor _ _ _ _
  | amomin => exact amomin _ _ _ _
  | amomax => exact amomax _ _ _ _
  | amominw => exact amominw _ _ _ _
  | amomaxw => exact amomaxw _ _ _ _
  | amoswap => exact amoswap _ _ _ _
  | amocas => exact amocas _ _ _ _
  | amofadd => exact amofadd _ _ _ _
  | fence => exact fence _ _
  | pref => exact pref _ _
  | get => exact get _ _ _ _ _ _
  | put => exact put _ _ _ _ _ _
  | puts => exact puts _ _ _ _ _ _
  | ramo => exact ramo _ _ _ _ _ _
  | amsg => exact amsg _ _ _ _ _ _ _
  | copy => exact copy _ _ _ _ _ _ _ _
  | send => exact send _ _ _ _ _ _ _ _ _ _
  | refs => exact refs _ _ _ _ _ _ _ _
  | sread => exact sread _ _ _ _ _ _
  | swrite => exact swrite _ _ _ _ _ _
  | fship => exact fship _ _ _ _ _ _ _ _ _
  | ldc => exact ldc _ _ _ _
  | stc => exact stc _ _ _
  | ldcv => exact ldcv _ _ _
  | stcv => exact stcv _ _ _
  | cprobe => exact cprobe _ _ _
  | ctrim => exact ctrim _ _
  | tcfg => exact tcfg _ _
  | tzero => exact tzero _
  | tamax => exact tamax _ _
  | trowh => exact trowh _ _
  | tresume => exact tresume
  | tabort => exact tabort
  | tmma => exact tmma _ _ _ _ _ _
  | tmmas => exact tmmas _ _ _ _ _ _ _
  | tmmax => exact tmmax _ _ _ _ _ _ _ _ _
  | tlacc => exact tlacc _ _ _ _ _ _
  | tsacc => exact tsacc _ _ _ _ _ _
  | tdrain => exact tdrain _ _ _ _ _ _ _ _ _
  | tdrainHandler => exact tdrainHandler _ _ _ _ _ _
  | rowout => exact rowout _ _ _ _ _ _ _
  | mcfg => exact mcfg _ _
  | mrun => exact mrun _ _ _ _
  | mstat => exact mstat _
  | mstop => exact mstop
  | qtok => exact qtok _ _ _
  | qtry => exact qtry _ _ _
  | qpeek => exact qpeek _ _ _
  | qlen => exact qlen _ _
  | qfence => exact qfence
  | qtvec => exact qtvec _ _
  | cpost => exact cpost _ _
  | waitc => exact waitc _ _
  | cread => exact cread _ _ _
  | wait => exact wait _ _ _ _
  | await => exact await _ _ _
  | bar => exact bar
  | parkC => exact parkC _ _
  | parkA => exact parkA _ _ _
  | parkQ => exact parkQ _
  | parkT => exact parkT _
  | yield => exact yield
  | exit => exact exit
  | sprio => exact sprio _
  | launch => exact launch _ _
  | slice => exact slice _ _ _ _ _
  | warm => exact warm _ _ _
  | wdisarm => exact wdisarm _
  | wstat => exact wstat _ _
  | wack => exact wack
  | csrr => exact csrr _ _
  | csrw => exact csrw _ _
  | csrset => exact csrset _ _
  | csrclr => exact csrclr _ _
  | tlbw => exact tlbw _ _
  | tlbi => exact tlbi _ _
  | clbi => exact clbi _ _
  | migr => exact migr _ _ _
  | ecall => exact ecall _
  | ebreak => exact ebreak _
  | eret => exact eret
  | repart => exact repart _
  | ctxsave => exact ctxsave _ _
  | ctxrest => exact ctxrest _ _
  | _ =>
    intro r h
    cases h

end Laws.Encoding

theorem encode_eq_some {i : Instr} {h : Half} {t : BitVec 48} :
    encode i = some (h, t) ↔ ∃ r, toRaw i = some r ∧ r.words = (h, t) := Option.map_eq_some_iff

/-- The words of an instruction are read under the layout of their major, and their fields are the instruction's. -/
theorem cut_of_encode {i : Instr} {h : Half} {t : BitVec 48} (he : encode i = some (h, t)) :
    ∃ l, layoutOf (h.extractLsb' 9 7) = some l ∧ tailLen h = l.tailLen ∧ ofRaw (cut l h t) = some i ∧
      toRaw i = some (cut l h t) := by
  obtain ⟨r, hr, hwords⟩ := encode_eq_some.mp he
  obtain ⟨hof, hp⟩ := Laws.Encoding.statement i r hr
  obtain ⟨l, hl, hn, hc⟩ := cut_words hp
  rw [hwords] at hl hn hc
  exact ⟨l, hl, hn, hc ▸ hof, hc ▸ hr⟩

/-- Settles O5: the fields are read back from the words, and name the instruction by the law of its constructor. -/
theorem decodeOfEncode : Obligations.DecodeOfEncode := by
  intro i h t hw he
  obtain ⟨l, hl, hn, hof, hr⟩ := cut_of_encode he
  exact decode_eq_ok.mpr ⟨l, hl, hn, hof, hr, hw⟩

/-- Settles O6: the decoder compares with the fields of the instruction that it found, and fields determine head and tail. -/
theorem encodeOfDecode : Obligations.EncodeOfDecode := by
  intro h t i hd ht
  obtain ⟨l, -, hn, -, hr, hw⟩ := decode_eq_ok.mp hd
  exact ⟨hw, encode_eq_some.mpr ⟨_, hr, words_cut hn ht⟩⟩

/-- Settles O7: the decoder evaluates on each of the words. -/
theorem decodeWords : Obligations.DecodeWords := by
  refine ⟨?_, ?_, ?_, ?_, ?_, ?_, ?_, ?_, ?_, ?_, ?_, ?_, ?_, ?_⟩
  all_goals decide

end Sys2Proof
end

section
/-! O10 to O15: the traps and the diversion that the conditions of issue raise. -/

namespace Sys2Proof.Machine

open Sys2Proof.Claims

variable {s : State} {cx : Ctx} {i : Instr} {u : Uses} {k : Nat}

/-! The gate, condition by condition (R60). -/

/-- An instruction whose conditions of issue end in a trap takes it. -/
theorem trapsAt_of_gate {c : Cause} {v : Word} (he : (encode i).isSome = true) (hc : current s = some cx) (ht : CanTrap s cx)
    (hg : gate s i cx (usesOf s cx i) = .error (.trap c v)) : TrapsAt i s cx c v :=
  ⟨_, exec_stopped he hc hg, trapAt_trapped ht c 0 v⟩

theorem gate_illegal (h : isIllegal s cx u = true) : gate s i cx u = .error (.trap .illegal (headTail i)) := if_pos h

/-- A lawful instruction passes the conditions for which an instruction traps ILLEGAL, or waits for what decides that. -/
theorem lawful_passes (h : Lawful s cx u) : isIllegal s cx u = false ∧ (operandNums u).any cx.st.owed.contains = false ∧
    (operandsKnown s cx u && u.invalid (readReg s cx)) = false := by
  obtain ⟨hl, howed, hvalid⟩ := h
  refine ⟨hl, List.any_eq_false.mpr fun n hn => by simpa using howed n hn, ?_⟩
  cases hk : operandsKnown s cx u with
  | false => rfl
  | true => rw [hvalid hk]; rfl

theorem gate_privilege (h : Lawful s cx u) (hp : u.privileged = true) (hk : cx.st.kind ≠ .supervisor) :
    gate s i cx u = .error (.trap .privilege (headTail i)) := by
  obtain ⟨hl, howed, hvalid⟩ := lawful_passes h
  simp [gate, hl, howed, hvalid, hp, Strand.isUser, hk]

theorem gate_blocked (h : Lawful s cx u) (hp : (u.privileged && cx.st.isUser) = false)
    (hk : (isBlockedKind cx.st && (u.blocking || !(sourcePorts u).isEmpty)) = true) :
    gate s i cx u = .error (.trap .handlerBlocked (headTail i)) := by
  obtain ⟨hl, howed, hvalid⟩ := lawful_passes h
  simp only [gate, hl, howed, hvalid, hp, hk, Bool.false_eq_true, if_false, if_true]

theorem gate_unbound (h : Lawful s cx u) (hp : (u.privileged && cx.st.isUser) = false)
    (hk : (isBlockedKind cx.st && (u.blocking || !(sourcePorts u).isEmpty)) = false) (hu : unboundPort cx.st u = some k) :
    gate s i cx u = .error (.trap .queueUnbound (BitVec.ofNat 64 k)) := by
  obtain ⟨hl, howed, hvalid⟩ := lawful_passes h
  simp only [gate, hl, howed, hvalid, hp, hk, hu, Bool.false_eq_true, if_false]

/-! O10. -/

theorem isIllegal_of_namesAbsent (h : NamesAbsent s cx u) : isIllegal s cx u = true := by
  unfold isIllegal
  obtain ⟨hw, n, hn, hm⟩ | ⟨hw, v, hv, hm⟩ | ⟨n, hm⟩ := h
  · have hx : (u.src ++ u.dst).all (Reg.present (wideShape (s.core cx.core) cx.st)) = false :=
      List.all_eq_false.mpr ⟨_, hm, by simpa [hw, Reg.present] using hn⟩
    simp [hx]
  · have hx : (u.vsrc ++ u.vdst).all (vPresent (wideShape (s.core cx.core) cx.st)) = false :=
      List.all_eq_false.mpr ⟨_, hm, by simpa [hw, vPresent] using hv⟩
    simp [hx]
  · exact (Bool.or_eq_true _ _).mpr (.inr (List.any_eq_true.mpr ⟨_, hm, rfl⟩))

/-- Settles O10: such an instruction is illegal, the first of the conditions of issue. -/
theorem absentRegistersTrap : Obligations.AbsentRegistersTrap := by
  intro i s cx he hc ht hn
  exact trapsAt_of_gate he hc ht (gate_illegal (isIllegal_of_namesAbsent hn))

/-! O11. -/

/-- Every instruction of the majors 0x79 and 0x7D, which have the layout F1, needs the supervisor level. -/
theorem privileged_of_fromF1 {mj : BitVec 7} {f : F1} (hm : mj = 0x79#7 ∨ mj = 0x7D#7) (ho : fromF1 mj f = some i) :
    (usesOf s cx i).privileged = true := by
  obtain rfl | rfl := hm
  all_goals
    simp only [fromF1, BitVec.reduceToNat] at ho
    split at ho
    all_goals cases ho
    all_goals rfl

/-- A head's major as its words show it (R39). -/
theorem major_toNat (h : Half) : (h.extractLsb' 9 7).toNat = h.toNat / 512 := by
  rw [BitVec.extractLsb'_toNat, Nat.shiftRight_eq_div_pow]
  omega

/-- The majors that need the supervisor level, 0x7C being eret alone (R61). -/
theorem privileged_of_major {h : Half} {t : BitVec 48} (he : encode i = some (h, t))
    (hm : h.toNat / 512 ∈ [0x79, 0x7C, 0x7D]) : (usesOf s cx i).privileged = true := by
  obtain ⟨l, hl, -, ho, -⟩ := cut_of_encode he
  rw [← major_toNat] at hm
  unfold cut at ho
  generalize h.extractLsb' 9 7 = mj at *
  obtain rfl | rfl | rfl : mj = 0x79#7 ∨ mj = 0x7C#7 ∨ mj = 0x7D#7 := by simpa [BitVec.toNat_eq] using hm
  · cases hl
    exact privileged_of_fromF1 (.inl rfl) ho
  · cases hl
    cases ho
    rfl
  · cases hl
    exact privileged_of_fromF1 (.inr rfl) ho

/-- Settles O11: the level is the next condition after legality. -/
theorem privilegedTraps : Obligations.PrivilegedTraps :=
  ⟨fun _ _ _ _ _ he hm => privileged_of_major he hm,
    fun _ _ _ he hc ht hk hl hp => trapsAt_of_gate he hc ht (gate_privilege hl hp hk)⟩

/-! O12. -/

/-- Settles O12: blocking is the next condition after the level. -/
theorem blockingTraps : Obligations.BlockingTraps := by
  intro i s cx he hc ht hkind hl hp hb
  refine trapsAt_of_gate he hc ht (gate_blocked hl (by rw [hp]; rfl) ?_)
  have hk : isBlockedKind cx.st = true := by
    obtain h | h := hkind
    · simp [isBlockedKind, h]
    · simp [isBlockedKind, h]
  simpa [hk] using hb

/-! O13. -/

/-- The port that is reported is unbound. -/
theorem unbound_of_unboundPort {st : Strand} (h : unboundPort st u = some k) : Unbound st u k := by
  unfold unboundPort at h
  split at h
  next j hj =>
    cases h
    exact .inl ⟨List.mem_of_find?_eq_some hj, by simpa using List.find?_some hj⟩
  split at h
  next j hj =>
    cases h
    exact .inr (.inl ⟨List.mem_of_find?_eq_some hj, by simpa using List.find?_some hj⟩)
  · obtain ⟨⟨j, e⟩, hj, rfl⟩ := Option.map_eq_some_iff.mp h
    have hm := List.mem_of_find?_eq_some hj
    have hp := List.find?_some hj
    obtain - | - | - := e
    · exact .inr (.inr (.inr (.inr ⟨hm, by simpa using hp⟩)))
    · exact .inr (.inr (.inr (.inl ⟨hm, by simpa using hp⟩)))
    · exact .inr (.inr (.inl ⟨hm, by simpa using hp⟩))

/-- Where no port is reported, none is unbound. -/
theorem not_unbound_of_none {st : Strand} (h : unboundPort st u = none) (k : Nat) : ¬ Unbound st u k := by
  unfold unboundPort at h
  split at h
  · cases h
  next hs =>
  split at h
  · cases h
  next hd =>
  rw [List.find?_eq_none] at hs hd
  rw [Option.map_eq_none_iff, List.find?_eq_none] at h
  rintro (⟨hm, hk⟩ | ⟨hm, hk⟩ | ⟨hm, hk⟩ | ⟨hm, hk⟩ | ⟨hm, hk⟩)
  · exact hs _ hm (by rw [hk]; rfl)
  · exact hd _ hm (by rw [hk]; rfl)
  · exact h _ hm (by simp [hk])
  · exact h _ hm (by simp [hk])
  · exact h _ hm (by simp [hk])

/-- Settles O13: the gate reports one of the unbound ports. -/
theorem unboundPortsTrap : Obligations.UnboundPortsTrap := by
  rintro i s cx he hc ht hl hp hb ⟨k, hk⟩
  cases hu : unboundPort cx.st (usesOf s cx i) with
  | none => exact absurd hk (not_unbound_of_none hu k)
  | some j =>
    have hpriv : ((usesOf s cx i).privileged && cx.st.isUser) = false := by
      cases h : (usesOf s cx i).privileged with
      | false => rfl
      | true => simp [Strand.isUser, hp h]
    have hblock : (isBlockedKind cx.st &&
        ((usesOf s cx i).blocking || !(sourcePorts (usesOf s cx i)).isEmpty)) = false := by
      cases h : isBlockedKind cx.st with
      | false => rfl
      | true => simp [hb h]
    obtain ⟨t, hx, htr⟩ := trapsAt_of_gate he hc ht (gate_unbound hl hpriv hblock hu)
    exact ⟨t, j, unbound_of_unboundPort hu, hx, htr⟩

/-! O14 and O15. -/

theorem sourcePorts_ascend (u : Uses) : (sourcePorts u).Pairwise (· < ·) := List.pairwise_lt_range.filter _

/-- The first source port that holds a token is the lowest. -/
theorem find_token {e : Elem} (hk : k ∈ sourcePorts u) (he : headOf s cx.st k = some e) (ht : e.tag ≠ 0)
    (hlow : ∀ j ∈ sourcePorts u, j < k → ∀ f, headOf s cx.st j = some f → f.tag = 0) :
    ((sourcePorts u).map fun k => (k, headOf s cx.st k)).find? (fun h => h.2.any fun e => e.tag != 0) = some (k, some e) := by
  obtain ⟨before, after, hs⟩ := List.append_of_mem hk
  have hasc := sourcePorts_ascend u
  rw [hs, List.pairwise_append] at hasc
  rw [hs] at hlow ⊢
  have hb : (before.map fun k => (k, headOf s cx.st k)).find? (fun h => h.2.any fun e => e.tag != 0) = none := by
    rw [List.find?_eq_none]
    intro p hp
    obtain ⟨j, hj, rfl⟩ := List.mem_map.mp hp
    have hz := hlow j (List.mem_append_left _ hj) (hasc.2.2 j hj k List.mem_cons_self)
    cases hf : headOf s cx.st j with
    | none => simp
    | some f => simp [hz f hf]
  rw [List.map_append, List.find?_append, hb, List.map_cons, he]
  simp [ht]

/-- The token at the lowest of its ports that hold one decides what an instruction does that has come to its operands. -/
theorem gate_token {e : Elem} (h : Checked s cx u) (hk : k ∈ sourcePorts u) (he : headOf s cx.st k = some e) (ht : e.tag ≠ 0)
    (hlow : ∀ j ∈ sourcePorts u, j < k → ∀ f, headOf s cx.st j = some f → f.tag = 0) :
    gate s i cx u = .error (divert s cx k e) := by
  rw [gate_checked i h, find_token hk he ht hlow]
  rfl

variable {e : Elem} {p : Port}

theorem divert_noTarget (hp : portOf cx.st k = some p) (ht : p.target = 0) :
    divert s cx k e = .trap .tokenNoTarget (BitVec.ofNat 64 k) := by
  simp [divert, hp, ht]

theorem divert_bad (hp : portOf cx.st k = some p) (ht : p.target ≠ 0)
    (hb : checkHead s (partyOf cx.core cx.st) p.target = .bad) : divert s cx k e = .trap .targetBad p.target := by
  simpa [divert, hp, hb] using ht

theorem divert_good (hp : portOf cx.st k = some p) (ht : p.target ≠ 0)
    (hg : checkHead s (partyOf cx.core cx.st) p.target = .good) :
    divert s cx k e = .keep (stopWaiting ((popPort s cx.st k).1.setStrand cx.core cx.slot { (popPort s cx.st k).2 with
      e5 := divertWord k e, pc := p.target, wait := none, declines := [], staying := false }) cx.st.gen) := by
  have hgen : (popPort s cx.st k).2.gen = cx.st.gen := by rw [(popPort_frame s cx.st k).2]
  simpa [divert, hp, hg, hgen] using ht

/-- Settles O14: the gate stops at the first token, and its diversion is the state that is kept. -/
theorem tokenDiverts : Obligations.TokenDiverts := by
  intro i s cx k e p he h hk hh htag hlow hp ht hg
  exact exec_stopped he h.strand ((gate_token h hk hh htag hlow).trans (congrArg _ (divert_good hp ht hg)))

/-- Settles O15: the gate stops at the first token, and its diversion ends in the trap of its target. -/
theorem tokenWithoutTarget : Obligations.TokenWithoutTarget := by
  intro i s cx k e p he h hc hk hh htag hlow hp
  have trap {c : Cause} {v : Word} (hd : divert s cx k e = .trap c v) : TrapsAt i s cx c v :=
    trapsAt_of_gate he h.strand hc ((gate_token h hk hh htag hlow).trans (congrArg _ hd))
  by_cases ht : p.target = 0
  · obtain ⟨t, hx⟩ := trap (divert_noTarget hp ht)
    exact ⟨t, fun _ => hx, fun h => absurd ht h⟩
  by_cases hb : checkHead s (partyOf cx.core cx.st) p.target = .bad
  · obtain ⟨t, hx⟩ := trap (divert_bad hp ht hb)
    exact ⟨t, fun h => absurd h ht, fun _ _ => hx⟩
  · exact ⟨s, fun h => absurd h ht, fun _ h => absurd h hb⟩

end Sys2Proof.Machine
end

section
/-! O8, O9: fetching, and the turns of a core. -/

namespace Sys2Proof.Machine

open Sys2Proof.Claims

variable {s : State} {core slot : Nat} {cx : Ctx} {i : Instr} {bytes : List Byte}

/-! What a strand fetches (R34, R35, R37, R59). -/

/-- The program counter of a strand names a head of its line. -/
def AtHead (cx : Ctx) (bytes : List Byte) : Prop :=
  cx.st.pc.toNat % 2 = 0 ∧ 1 ≤ headOfPc cx.st.pc ∧ headOfPc cx.st.pc ≤ headCount (halfAt bytes 0)

/-- The head and tail that the program counter of a strand names in its line decode to this. -/
def decoded (cx : Ctx) (bytes : List Byte) : Except DecodeError Instr :=
  decode (halfAt bytes (headOfPc cx.st.pc)) (tailOf bytes (headOfPc cx.st.pc))

theorem not_atHead_iff : ¬ AtHead cx bytes ↔
    cx.st.pc.toNat % 2 = 1 ∨ headOfPc cx.st.pc = 0 ∨ headCount (halfAt bytes 0) < headOfPc cx.st.pc := by
  unfold AtHead
  omega

section
variable (hl : codeLine s (partyOf cx.core cx.st) cx.st.pc = .ok bytes)
include hl

theorem fetch_malformed (hm : malformed bytes = true) :
    fetch s cx = .stop (trapAt s cx .lineMalformed 0 (lineOf cx.st.pc)) := by
  simp only [fetch, hl, hm, if_true, lineOf]

theorem fetch_noHead (hm : malformed bytes = false) (hh : ¬ AtHead cx bytes) :
    fetch s cx = .stop (trapAt s cx .targetBad 0 cx.st.pc) := by
  have hn := not_atHead_iff.mp hh
  unfold headOfPc at hn
  simp only [fetch, hl, hm, hn, Bool.false_eq_true, if_false, if_true]

theorem fetch_atHead (hm : malformed bytes = false) (hh : AtHead cx bytes) :
    (∀ e, decoded cx bytes = .error e → fetch s cx =
      .stop (trapAt s cx .illegal 0 (tailOf bytes (headOfPc cx.st.pc) ++ halfAt bytes (headOfPc cx.st.pc)))) ∧
    (∀ i, decoded cx bytes = .ok i → fetch s cx = .instr i (halfAt bytes 0)) := by
  have hn := mt not_atHead_iff.mpr (not_not_intro hh)
  unfold decoded
  unfold headOfPc at *
  simp only [fetch, hl, hm, hn, Bool.false_eq_true, if_false]
  exact ⟨fun e he => by rw [he], fun i hi => by rw [hi]⟩

end

/-! The issue of a slot. -/

section
variable (hcore : core < coreCount) (hc : current (atCursor s core slot) = some cx)
include hcore hc

theorem issueAt_stop {t : State} (hf : fetch (atCursor s core slot) cx = .stop t) : issueAt s core slot = .next t := by
  have hc' := hc
  unfold atCursor at hc' hf
  simp only [issueAt, Nat.not_le.mpr hcore, if_false, hc', hf]

theorem issueAt_instr {h : Half} (hf : fetch (atCursor s core slot) cx = .instr i h) :
    issueAt s core slot = exec i (fetched (atCursor s core slot) cx h) := by
  have hc' := hc
  unfold atCursor at hc' hf ⊢
  simp only [issueAt, Nat.not_le.mpr hcore, if_false, hc', hf]

/-- A fetch that ends in a trap takes it. -/
theorem issueAt_traps {c : Cause} {v : Word} (ht : CanTrap (atCursor s core slot) cx)
    (hf : fetch (atCursor s core slot) cx = .stop (trapAt (atCursor s core slot) cx c 0 v)) :
    ∃ t, issueAt s core slot = .next t ∧ Trapped (atCursor s core slot) cx c 0 v t :=
  ⟨_, issueAt_stop hcore hc hf, trapAt_trapped ht c 0 v⟩

end

/-- Settles O9: the fetch ends in the trap of the first check that fails. -/
theorem fetchTraps : Obligations.FetchTraps := by
  intro s core slot cx bytes hcore hc ht hl
  cases hm : malformed bytes with
  | true =>
    obtain ⟨t, hx⟩ := issueAt_traps hcore hc ht (fetch_malformed hl hm)
    exact ⟨t, fun _ => hx, nofun, nofun⟩
  | false =>
    by_cases hh : AtHead cx bytes
    · obtain ⟨htrap, -⟩ := fetch_atHead hl hm hh
      have hnot := mt not_atHead_iff.mpr (not_not_intro hh)
      cases hd : decoded cx bytes with
      | error e =>
        obtain ⟨t, hx⟩ := issueAt_traps hcore hc ht (htrap e hd)
        exact ⟨t, nofun, fun _ h => absurd h hnot, fun _ _ _ _ _ _ => hx⟩
      | ok i =>
        refine ⟨s, nofun, fun _ h => absurd h hnot, fun e _ _ _ _ he => ?_⟩
        cases hd.symm.trans he
    · obtain ⟨t, hx⟩ := issueAt_traps hcore hc ht (fetch_noHead hl hm hh)
      exact ⟨t, nofun, fun _ _ => hx, fun _ _ h0 h1 h2 _ => absurd ⟨h0, h1, h2⟩ hh⟩

/-! The turn of a core. -/

/-- A core whose supervisor takes no held event has its arbiter issue (R279, R389). -/
theorem coreTurn_issues (hcore : core < coreCount)
    (hn : (s.core core).supRunning = true ∨ (s.core core).halted = true ∨ nextHeld s core = none) :
    coreTurn s core = issueFirst core
      (candidates (prepare (if (s.core core).resuming && !(s.core core).frozen then startHeld s core else s) core) core)
      (prepare (if (s.core core).resuming && !(s.core core).frozen then startHeld s core else s) core) := by
  have hheld : (!(s.core core).supRunning && !(s.core core).halted && (nextHeld s core).isSome) = false := by
    obtain h | h | h := hn
    · simp [h]
    · simp [h]
    · simp [h]
  simp only [coreTurn, Nat.not_le.mpr hcore, hheld, Bool.false_eq_true, if_false]

theorem step_coreTurn (ha : s.agenda = []) (ho : s.cursor.others = false) :
    step s = onNext tick (onNext afterTurn (coreTurn s s.cursor.core)) := by
  simp only [step, ha, issueOrGoOn, ho, Bool.false_eq_true, if_false]

theorem step_act {a : Act} {rest : List Act} (ha : s.agenda = a :: rest) :
    step s = onNext tick (act { s with agenda := rest } a) := by
  simp only [step, ha]

/-- Settles O8: the slot's issue runs what the fetch decodes, and the arbiter's turn and the step are made of such issues. -/
theorem stepRunsDecoded : Obligations.StepRunsDecoded := by
  refine ⟨fun s core slot cx bytes i hcore hc hl hm h0 h1 h2 hd => ?_, fun s i rest ha he => ?_⟩
  · have hi := issueAt_instr hcore hc ((fetch_atHead hl hm ⟨h0, h1, h2⟩).2 i hd)
    refine ⟨hi, fun r rest hr hcand hn => ?_⟩
    have hturn : coreTurn r core = issueFirst core (slot :: rest) s := by
      rw [coreTurn_issues hcore hn, hr, hcand]
    unfold issueFirst at hturn
    rw [hi] at hturn
    refine ⟨fun ha ho hcur => ?_, fun q acts hq hrq => ?_⟩
    · rw [step_coreTurn ha ho, hcur]
      exact congrArg (fun o => onNext tick (onNext afterTurn o)) hturn
    · rw [step_act hq, ← hrq]
      exact congrArg (onNext tick) hturn
  · have hraw : toRaw i = none := Option.map_eq_none_iff.mp he
    simp only [step_act ha, act, hraw, Option.isNone_none, if_true]

end Sys2Proof.Machine
end

section
/-! O22, O23: control transfer. -/

namespace Sys2Proof.Machine

open Sys2Proof.Claims

variable {s : State} {cx : Ctx} {i : Instr} {u : Uses} {n : Nat} {off : BitVec n} {h : BitVec 5} {bytes : List Byte}

/-! Line-relative targets (R36). -/

/-- The head at index h of the line off lines away. -/
def targetHead (cx : Ctx) {n : Nat} (off : BitVec n) (h : BitVec 5) : Word := targetLine cx off + BitVec.ofNat 64 (2 * h.toNat)

theorem targetLine_eq : cx.st.pc - BitVec.ofNat 64 (cx.st.pc.toNat % 64) + BitVec.ofInt 64 (off.toInt * 64) =
    targetLine cx off := congrArg (lineOf cx.st.pc + ·) (BitVec.ofInt_mul ..)

theorem toNat_eq_zero : h.toNat = 0 ↔ h = 0 := by
  rw [← BitVec.toNat_inj]
  rfl

/-- The cause of a line that its object does not let a strand fetch (R36). -/
def objectCause : LineFail → Option Cause
  | .bounds => some .objBounds
  | .permission => some .objPermission
  | .absent => some .objAbsent
  | _ => none

/-- The verdict on the head at index h of the line off lines away. -/
abbrev verdict (s : State) (cx : Ctx) {n : Nat} (off : BitVec n) (h : BitVec 5) : Except Stop Word :=
  lineTarget (operandsOf s cx) off.toInt h.toNat

theorem verdict_otherObject (ho : oidOf (targetLine cx off) ≠ oidOf cx.st.pc) :
    verdict s cx off h = .error (.trap (if h = 0 then .targetBad else .objBounds) (targetHead cx off h)) := by
  simp only [lineTarget, operandsOf, targetLine_eq, toNat_eq_zero, ho, ne_eq, not_false_eq_true, if_true]
  rfl

section
variable (ho : oidOf (targetLine cx off) = oidOf cx.st.pc)
include ho

theorem verdict_malformed (hl : codeLine s (partyOf cx.core cx.st) (targetLine cx off) = .ok bytes)
    (hm : malformed bytes = true) : verdict s cx off h = .error (.trap .lineMalformed (targetLine cx off)) := by
  simp [lineTarget, operandsOf, targetLine_eq, ho, hl, hm]

theorem verdict_noHead (hl : codeLine s (partyOf cx.core cx.st) (targetLine cx off) = .ok bytes)
    (hm : malformed bytes = false) (hh : h = 0 ∨ headCount (halfAt bytes 0) < h.toNat) :
    verdict s cx off h = .error (.trap .targetBad (targetHead cx off h)) := by
  rw [← toNat_eq_zero] at hh
  simp only [lineTarget, operandsOf, targetLine_eq, ho, hl, hm, hh, ne_eq, not_true_eq_false, Bool.false_eq_true, if_false,
    if_true]
  rfl

theorem verdict_good (hl : codeLine s (partyOf cx.core cx.st) (targetLine cx off) = .ok bytes)
    (hm : malformed bytes = false) (h1 : 1 ≤ h.toNat) (h2 : h.toNat ≤ headCount (halfAt bytes 0)) :
    verdict s cx off h = .ok (targetHead cx off h) := by
  have hn : ¬(h.toNat = 0 ∨ headCount (halfAt bytes 0) < h.toNat) := by omega
  simp only [lineTarget, operandsOf, targetLine_eq, ho, hl, hm, hn, ne_eq, not_true_eq_false, Bool.false_eq_true, if_false]
  rfl

theorem verdict_poisoned (hl : codeLine s (partyOf cx.core cx.st) (targetLine cx off) = .error .poisoned) :
    verdict s cx off h = if h = 0 then .error (.trap .targetBad (targetHead cx off h)) else .ok (targetHead cx off h) := by
  simp only [lineTarget, operandsOf, targetLine_eq, toNat_eq_zero, ho, hl, ne_eq, not_true_eq_false, if_false]
  rfl

/-- A line that its object does not let the strand fetch (R36). -/
theorem verdict_refused {f : LineFail} {c : Cause} (hc : objectCause f = some c)
    (hl : codeLine s (partyOf cx.core cx.st) (targetLine cx off) = .error f) :
    verdict s cx off h = .error (.trap (if h = 0 then .targetBad else c) (targetHead cx off h)) := by
  cases f
  all_goals cases hc
  all_goals
    simp only [lineTarget, operandsOf, targetLine_eq, toNat_eq_zero, ho, hl, ne_eq, not_true_eq_false, if_false]
    rfl

end

/-- An instruction that is ready and whose effect is to go to a line-relative target, writing results `xs`, follows the rule of
such targets. -/
theorem targetRule_of_body {uses : Ctx → Uses} {body : Vals → Except Stop Done} {xs : List (Reg × Word)}
    (hx : exec i s = issue i uses s body) (hr : Ready s cx u)
    (hstop : ∀ e, lineTarget (operandsOf s cx) off.toInt h.toNat = .error e → body (operandsOf s cx) = .error e)
    (hgo : ∀ t, lineTarget (operandsOf s cx) off.toInt h.toNat = .ok t →
      body (operandsOf s cx) = .ok { s := s, st := cx.st, jump := some t, xs := xs })
    (hu : uses cx = u := by rfl) :
    TargetRule i s cx (targetLine cx off) h
      (Completes i s cx u { s := s, st := cx.st, jump := some (targetHead cx off h), xs := xs } (targetHead cx off h)) := by
  have go (hv : verdict s cx off h = .ok (targetHead cx off h)) :=
    completes_of_body hx hr (hgo _ hv) rfl (hu := hu)
  have trap {c : Cause} {a : Word} (ht : CanTrap s cx) (hv : verdict s cx off h = .error (.trap c a)) : TrapsAt i s cx c a :=
    trapsAt_of_body hx hr (hstop _ hv) rfl ht hu
  refine ⟨fun ⟨ho, bytes, hl, hm, h1, h2⟩ => go (verdict_good ho hl hm h1 h2),
    fun ho hz hl => go ((verdict_poisoned ho hl).trans (if_neg hz)),
    fun ht => ⟨fun ho => trap ht (verdict_otherObject ho), fun ho => ⟨fun bytes hl => ⟨?_, ?_⟩, ?_, ?_, ?_, ?_⟩⟩⟩
  · exact fun hm => trap ht (verdict_malformed ho hl hm)
  · exact fun hm hh => trap ht (verdict_noHead ho hl hm hh)
  · exact fun hl => trap ht (verdict_refused ho rfl hl)
  · exact fun hl => trap ht (verdict_refused ho rfl hl)
  · exact fun hl => trap ht (verdict_refused ho rfl hl)
  · exact fun hl hz => trap ht ((verdict_poisoned ho hl).trans (if_pos hz))

/-! Branches (R110). -/

/-- A branch of R110 is the issue of its sources and condition. -/
theorem branchOf_issue {f : (Reg → Word) → Bool} {off : BitVec 21} (hi : branchOf i = some (f, off, h)) :
    ∃ src taken, exec i s = branch i src off h s taken ∧ usesOf s cx i = { src := src } ∧ ∀ x, taken x = f x := by
  unfold branchOf at hi
  split at hi
  next a _ b _ _ =>
    cases hi
    exact ⟨[a, b], fun x => x a == x b, rfl, rfl, fun x => rfl⟩
  next a _ b _ _ =>
    cases hi
    exact ⟨[a, b], fun x => x a != x b, rfl, rfl, fun x => Bool.eq_iff_iff.mpr (by simp)⟩
  next a _ b _ _ =>
    cases hi
    exact ⟨[a, b], fun x => (x a).slt (x b), rfl, rfl, fun x => rfl⟩
  next a _ b _ _ =>
    cases hi
    exact ⟨[a, b], fun x => !(x a).slt (x b), rfl, rfl, fun x => Bool.eq_iff_iff.mpr (by simp [BitVec.slt])⟩
  next a _ b _ _ =>
    cases hi
    exact ⟨[a, b], fun x => (x a).ult (x b), rfl, rfl, fun x => rfl⟩
  next a _ b _ _ =>
    cases hi
    exact ⟨[a, b], fun x => !(x a).ult (x b), rfl, rfl, fun x => Bool.eq_iff_iff.mpr (by simp [BitVec.ult])⟩
  next a _ n _ _ =>
    cases hi
    exact ⟨[a], fun x => bit (x a) n.toNat, rfl, rfl, fun x => rfl⟩
  next a _ n _ _ =>
    cases hi
    exact ⟨[a], fun x => !bit (x a) n.toNat, rfl, rfl, fun x => rfl⟩
  next a _ _ _ =>
    cases hi
    exact ⟨[a], fun x => x a == 0, rfl, rfl, fun x => rfl⟩
  next a _ _ _ =>
    cases hi
    exact ⟨[a], fun x => x a != 0, rfl, rfl, fun x => Bool.eq_iff_iff.mpr (by simp)⟩
  · cases hi

/-- Settles O22: a branch that is not taken has no effect of its own, and one that is taken follows the rule of its target. -/
theorem branchResults : Obligations.BranchResults := by
  intro i f off h s cx hi hr
  obtain ⟨src, taken, hx, hu, hf⟩ := branchOf_issue (s := s) (cx := cx) hi
  unfold branch at hx
  refine ⟨?_, fun ht => ?_⟩
  · rintro hn pc rfl
    refine completes_of_body hx hr ?_ rfl (hu := hu.symm)
    rw [hf, show f (operandsOf s cx).x = false from hn]
    rfl
  · have htaken : taken (operandsOf s cx).x = true := (hf _).trans ht
    refine targetRule_of_body hx hr (fun e he => ?_) (fun t he => ?_) (hu := hu.symm)
    · rw [if_pos htaken, he]
    · rw [if_pos htaken, he]
      rfl

/-! Jumps (R112, R113). -/

theorem jumpTo_good {t : Word} (hg : checkHead s (partyOf cx.core cx.st) t = .good) :
    jumpTo (operandsOf s cx) t = .ok { s := s, st := cx.st, jump := some t } := by
  simp [jumpTo, operandsOf, hg]

theorem jumpTo_bad {t : Word} (hb : checkHead s (partyOf cx.core cx.st) t = .bad) :
    jumpTo (operandsOf s cx) t = .error (.trap .targetBad t) := by
  simp [jumpTo, operandsOf, hb]

theorem jumpTo_malformed {t line : Word} {holds : Bool} (hm : checkHead s (partyOf cx.core cx.st) t = .malformed line holds) :
    jumpTo (operandsOf s cx) t = .error (.trap .lineMalformed line) := by
  simp [jumpTo, operandsOf, hm]

/-- The line that is found malformed is that of the value. -/
theorem line_of_checkHead {p : Party} {t line : Word} {holds : Bool} (hm : checkHead s p t = .malformed line holds) :
    line = lineOf t := by
  unfold checkHead at hm
  dsimp only at hm
  split at hm
  · cases hm
  · split_ifs at hm
  · cases hm
  · split_ifs at hm
    cases hm
    rfl

/-- The issue of jr and ret. -/
theorem register_jump {a : Reg} (hi : i = .jr a ∨ i = .ret a) :
    exec i s = issue i (fun _ => { src := [a] }) s (fun v => jumpTo v (v.x a)) ∧ usesOf s cx i = { src := [a] } := by
  obtain rfl | rfl := hi
  · exact ⟨rfl, rfl⟩
  · exact ⟨rfl, rfl⟩

/-- The sequential successor of a head (R36). -/
theorem successor_eq (header : Half) (pc : Word) :
    successor header pc = if headOfPc pc < headCount header then pc + 2 else lineOf pc + 66 := by
  unfold successor nextPc
  dsimp only
  by_cases hk : pc.toNat % 64 / 2 < headCount header
  · rw [if_pos hk, if_pos (show headOfPc pc < _ from hk)]
    rfl
  · rw [if_neg hk, if_neg (show ¬ headOfPc pc < _ from hk)]
    split
    · rfl
    · rfl

/-! Heads that do not decode (R59). -/

/-- A head and tail that do not decode trap ILLEGAL wherever they are met. -/
theorem trapsWhenMet_of_decode {head : Half} {tail : BitVec 48} {e : DecodeError} (hd : decode head tail = .error e) :
    TrapsWhenMet head tail := by
  intro s core slot cx bytes hcore hc ht hl hm h0 h1 h2 hhead htail
  have hdec : decoded cx bytes = .error e := by
    unfold decoded
    rw [hhead, htail, hd]
  have hf := (fetch_atHead hl hm ⟨h0, h1, h2⟩).1 e hdec
  rw [hhead, htail] at hf
  exact issueAt_traps hcore hc ht hf

/-- The specifiers of the ports and the e registers name no x register (R25). -/
theorem isX_ofBits {b : BitVec 6} (h : 48 ≤ b.toNat) : (Reg.ofBits b).isX = false := by
  unfold Reg.ofBits
  rw [dif_neg (Nat.not_lt.mpr h)]
  split
  · rfl
  · rfl

/-- A loop whose A field names no x register does not decode (R114). -/
theorem decode_loop_error {a : Nat} (tail : BitVec 48) (h1 : 48 ≤ a) (h2 : a < 64) :
    ∃ e, decode (BitVec.ofNat 16 (0x3B00 + 2 * a)) tail = .error e := by
  generalize hh : BitVec.ofNat 16 (0x3B00 + 2 * a) = head
  have hhead : head.toNat = 0x3B00 + 2 * a := by
    rw [← hh, BitVec.toNat_ofNat]
    omega
  have hmajor : head.extractLsb' 9 7 = 0x1D#7 := BitVec.eq_of_toNat_eq (by rw [major_toNat, hhead, BitVec.toNat_ofNat]; omega)
  have hspec : (aSpec (head.extractLsb' 0 7)).toNat = a := by
    rw [aSpec, BitVec.extractLsb'_toNat, BitVec.extractLsb'_toNat, Nat.shiftRight_eq_div_pow, Nat.shiftRight_eq_div_pow, hhead]
    omega
  cases hd : decode head tail with
  | error e => exact ⟨e, rfl⟩
  | ok i =>
    obtain ⟨l, hl, -, ho, -, hw⟩ := decode_eq_ok.mp hd
    rw [hmajor] at hl
    rw [cut, hmajor] at ho
    cases hl
    cases ho
    have hx : (Reg.ofBits (aSpec (head.extractLsb' 0 7))).isX = true := hw
    rw [isX_ofBits (by rw [hspec]; exact h1)] at hx
    cases hx

/-- Settles O23: jmp, jal and a loop that goes on follow the rule of their target, jr and ret the verdict of R37, and a loop
without an x register is refused as ill-formed. -/
theorem jumpsAndLoops : Obligations.JumpsAndLoops := by
  refine ⟨fun off h s cx hr => ?_, fun d off h s cx hr => ?_, fun i a s cx hi hr => ?_,
    fun r off h s cx hr => ⟨?_, fun hn => ?_⟩, fun a tail h1 h2 => ?_⟩
  · have hx : exec (.jmp off h) s = execJmp off h s := rfl
    unfold execJmp at hx
    exact targetRule_of_body hx hr (fun e he => by rw [he]) (fun t he => by rw [he]; rfl)
  · have hx : exec (.jal d off h) s = execJal d off h s := rfl
    unfold execJal at hx
    rw [← successor_eq]
    exact targetRule_of_body hx hr (fun e he => by rw [he]) (fun t he => by rw [he]; rfl)
  · obtain ⟨hx, hu⟩ := register_jump (s := s) (cx := cx) hi
    refine ⟨fun hg => completes_of_body hx hr (jumpTo_good hg) rfl (hu := hu.symm),
      fun ht => ⟨fun hb => ?_, fun line holds hm => ?_⟩⟩
    · exact trapsAt_of_body hx hr (jumpTo_bad hb) rfl ht hu.symm
    · exact ⟨line_of_checkHead hm, trapsAt_of_body hx hr (jumpTo_malformed hm) rfl ht hu.symm⟩
  · rintro h1 pc rfl
    have hx : exec (.loop r off h) s = execLoop r off h s := rfl
    unfold execLoop at hx
    refine completes_of_body hx hr ?_ rfl
    have hz : (operandsOf s cx).x r - 1 = 0 := by
      rw [show (operandsOf s cx).x r = 1 from h1]
      rfl
    simp only [hz, if_true]
    rfl
  · have hx : exec (.loop r off h) s = execLoop r off h s := rfl
    unfold execLoop at hx
    have hz : (operandsOf s cx).x r - 1 ≠ 0 := sub_ne_zero.mpr hn
    refine targetRule_of_body hx hr (fun e he => ?_) (fun t he => ?_)
    · simp only [hz, if_false, he]
    · simp only [hz, if_false, he]
      rfl
  · obtain ⟨e, he⟩ := decode_loop_error tail h1 h2
    exact trapsWhenMet_of_decode he

end Sys2Proof.Machine
end

section
/-! Lanes of a vector register (R29, R101, R116): what is read back from the lanes that an instruction writes. -/

namespace Sys2Proof.Machine

variable {w k : Nat}

theorem lane_lt (w : Nat) (v : VWord) (k : Nat) : lane w v k < 2 ^ w := Nat.mod_lt _ (Nat.two_pow_pos w)

/-- The number whose digits of w bits are given, lowest first. -/
def packLanes (w : Nat) (ls : List Nat) : Nat := ls.foldr (fun l acc => l % 2 ^ w + 2 ^ w * acc) 0

theorem packLanes_lt (w : Nat) (ls : List Nat) : packLanes w ls < 2 ^ (w * ls.length) := by
  induction ls with
  | nil => exact Nat.one_pos
  | cons l ls ih =>
    have hl : l % 2 ^ w < 2 ^ w := Nat.mod_lt _ (Nat.two_pow_pos w)
    calc l % 2 ^ w + 2 ^ w * packLanes w ls
        < 2 ^ w * 1 + 2 ^ w * packLanes w ls := by omega
      _ = 2 ^ w * (packLanes w ls + 1) := by rw [← Nat.mul_add, Nat.add_comm]
      _ ≤ 2 ^ w * 2 ^ (w * ls.length) := Nat.mul_le_mul_left _ ih
      _ = 2 ^ (w * (ls.length + 1)) := by rw [← Nat.pow_add, Nat.mul_succ, Nat.add_comm]

theorem packLanes_digit (w : Nat) (ls : List Nat) (k : Nat) :
    packLanes w ls / 2 ^ (w * k) % 2 ^ w = ls.getD k 0 % 2 ^ w := by
  induction ls generalizing k with
  | nil => simp [packLanes]
  | cons l ls ih =>
    cases k with
    | zero => simp [packLanes]
    | succ k =>
      have hl : (l % 2 ^ w + 2 ^ w * packLanes w ls) / 2 ^ w = packLanes w ls := by
        rw [Nat.add_mul_div_left _ _ (Nat.two_pow_pos w), Nat.div_eq_of_lt (Nat.mod_lt _ (Nat.two_pow_pos w)), Nat.zero_add]
      calc (l % 2 ^ w + 2 ^ w * packLanes w ls) / 2 ^ (w * (k + 1)) % 2 ^ w
          = packLanes w ls / 2 ^ (w * k) % 2 ^ w := by
            rw [Nat.mul_succ, Nat.add_comm (w * k), Nat.pow_add, ← Nat.div_div_eq_div_mul, hl]
        _ = (l :: ls).getD (k + 1) 0 % 2 ^ w := by rw [ih, List.getD_cons_succ]

theorem toNat_ofNat_packLanes {n : Nat} {ls : List Nat} (hw : w * ls.length ≤ n) :
    (BitVec.ofNat n (packLanes w ls)).toNat = packLanes w ls :=
  (BitVec.toNat_ofNat _ _).trans
    (Nat.mod_eq_of_lt ((packLanes_lt w ls).trans_le (Nat.pow_le_pow_right Nat.two_pos hw)))

/-- A vector holds in each lane the low bits of the number it was made from. -/
theorem lane_ofLanes {ls : List Nat} (hw : w * ls.length ≤ 512) (k : Nat) :
    lane w (ofLanes w ls) k = ls.getD k 0 % 2 ^ w := by
  have hn : (ofLanes w ls).toNat = packLanes w ls := toNat_ofNat_packLanes hw
  rw [lane, hn, packLanes_digit]

/-- An active lane takes its result, an inactive one keeps its bits (R116). -/
theorem lane_mergeLanes {old : VWord} {act : Nat → Bool} {f : Nat → Nat × Nat} (hk : k < 512 / w) :
    lane w (mergeLanes w old act f).1 k = if act k then (f k).1 % 2 ^ w else lane w old k := by
  unfold mergeLanes
  rw [lane_ofLanes (by simpa using Nat.mul_div_le 512 w)]
  cases ha : act k with
  | true => simp [hk, ha]
  | false => simp [hk, ha, Nat.mod_eq_of_lt (lane_lt w old k)]

end Sys2Proof.Machine
end

section
/-! Results fit the width of their type (R70, R78, R79). -/

namespace Sys2Proof.Machine

variable {t : ElemTy} {f : Fmt}

/-- The greatest finite magnitude of a format, as it is encoded (R72, R79). -/
def Fmt.greatest (f : Fmt) : Nat := f.top + ((f.emax : Int) - f.emin).toNat * 2 ^ (f.p - 1)

/-- The magnitude of an infinity of a format, as it is encoded (R70). -/
def Fmt.infinite (f : Fmt) : Nat := (2 ^ (f.w - f.p) - 1) * 2 ^ (f.p - 1)

/-- A format whose magnitudes leave the sign bit free. -/
structure Fmt.Fits (f : Fmt) : Prop where
  width : 0 < f.w
  precision : 0 < f.p
  normal : 2 ^ (f.p - 1) ≤ f.top
  range : f.emin < f.emax
  nan : f.nan < 2 ^ (f.w - 1)
  infinite : f.infinite < 2 ^ (f.w - 1)
  greatest : f.greatest < 2 ^ (f.w - 1)

theorem fmtOf_fits (t : ElemTy) : (fmtOf t).Fits := by
  cases t
  all_goals constructor
  all_goals decide

theorem fmtOf_w (h : isFloat t = true) : (fmtOf t).w = widthOf t := by
  revert h
  cases t <;> decide

theorem widthOf_pos (t : ElemTy) : 0 < widthOf t := by cases t <;> decide

/-- A sign bit and a magnitude that leaves it free fit the width. -/
theorem signBit_add_lt (hw : 0 < f.w) (neg : Bool) {n : Nat} (hn : n < 2 ^ (f.w - 1)) : signBit f neg + n < 2 ^ f.w := by
  have hs : signBit f neg ≤ 2 ^ (f.w - 1) := by
    unfold signBit
    split
    · exact le_rfl
    · exact Nat.zero_le _
  have h2 := Nat.two_pow_pred_add_two_pow_pred hw
  omega

/-- A magnitude rounds to one of the two multiples that enclose it (R78). -/
theorem roundUnits_le (neg : Bool) (m : Nat) (e : Int) (more : Bool) (qe : Int) (rm : Rnd) (rnd : Nat) :
    (roundUnits neg m e more qe rm rnd).1 ≤ m * 2 ^ (e - qe).toNat / 2 ^ (qe - e).toNat + 1 := by
  have hround (away : Bool) (lo : Nat) : (if away then lo + 1 else lo) ≤ lo + 1 := by
    split
    · exact le_rfl
    · exact Nat.le_succ _
  unfold roundUnits
  dsimp only
  split
  · exact Nat.le_succ _
  · exact hround _ _

/-- A magnitude has fewer than p bits left of the unit p places below the one above its leading bit. -/
theorem units_lt {m p : Nat} {e qe : Int} (hq : topExp m e - (p : Int) + 1 ≤ qe) :
    m * 2 ^ (e - qe).toNat / 2 ^ (qe - e).toNat < 2 ^ p := by
  have hm : m < 2 ^ (m.log2 + 1) := Nat.lt_log2_self
  unfold topExp at hq
  obtain h | h := Int.le_total qe e
  · rw [Int.toNat_of_nonpos (by omega : qe - e ≤ 0), Nat.pow_zero, Nat.div_one]
    calc m * 2 ^ (e - qe).toNat < 2 ^ (m.log2 + 1) * 2 ^ (e - qe).toNat :=
          Nat.mul_lt_mul_of_pos_right hm (Nat.two_pow_pos _)
      _ = 2 ^ (m.log2 + 1 + (e - qe).toNat) := (Nat.pow_add ..).symm
      _ ≤ 2 ^ p := Nat.pow_le_pow_right Nat.two_pos (by omega)
  · rw [Int.toNat_of_nonpos (by omega : e - qe ≤ 0), Nat.pow_zero, Nat.mul_one]
    refine Nat.div_lt_of_lt_mul (hm.trans_le ?_)
    rw [← Nat.pow_add]
    exact Nat.pow_le_pow_right Nat.two_pos (by omega)

theorem overflow_lt (hf : f.Fits) (neg : Bool) (rm : Rnd) (sat : Bool) : (overflow f neg rm sat).1 < 2 ^ f.w := by
  have hmax := signBit_add_lt hf.width neg hf.greatest
  have hinf := signBit_add_lt hf.width neg hf.infinite
  have hnan := signBit_add_lt hf.width neg hf.nan
  unfold overflow
  dsimp only
  split
  · exact hmax
  · split
    · split
      · exact hnan
      · exact hmax
    · split
      · exact hmax
      · exact hinf

/-- Units that a value of the format's range has been rounded to are encoded within the greatest magnitude (R71, R79). -/
theorem encoded_le_greatest (hf : f.Fits) {qe : Int} {y : Nat} (hy : y ≤ 2 ^ f.p)
    (hq : ¬(decide ((f.emax : Int) - f.p + 1 < qe) || (qe == (f.emax : Int) - f.p + 1 && decide (f.top < y))) = true) :
    (qe - (f.emin - f.p + 1)).toNat * 2 ^ (f.p - 1) + y ≤ f.greatest := by
  simp only [Bool.or_eq_true, Bool.and_eq_true, decide_eq_true_eq, beq_iff_eq, not_or, not_and, not_lt] at hq
  obtain ⟨hle, htop⟩ := hq
  have hr := hf.range
  unfold Fmt.greatest
  obtain rfl | hne := eq_or_ne qe ((f.emax : Int) - f.p + 1)
  · rw [show ((f.emax : Int) - f.p + 1 - (f.emin - f.p + 1)) = (f.emax : Int) - f.emin by omega, Nat.add_comm f.top]
    exact Nat.add_le_add_left (htop rfl) _
  · have hp := Nat.two_pow_pred_add_two_pow_pred hf.precision
    have hu : (qe - (f.emin - f.p + 1)).toNat + 1 ≤ ((f.emax : Int) - f.emin).toNat := by omega
    have hm := Nat.mul_le_mul_right (2 ^ (f.p - 1)) hu
    have hn := hf.normal
    rw [Nat.add_mul, Nat.one_mul] at hm
    omega

theorem roundFin_lt (t : ElemTy) (neg : Bool) (m : Nat) (e : Int) (more : Bool) (rm : Rnd) (sat : Bool) (rnd : Nat) :
    (roundFin t neg m e more rm sat rnd).1 < 2 ^ (fmtOf t).w := by
  have hf := fmtOf_fits t
  unfold roundFin
  dsimp only
  split
  · exact signBit_add_lt hf.width neg (Nat.two_pow_pos _)
  · generalize hqe : (if topExp m e < (fmtOf t).emin then (fmtOf t).emin - ((fmtOf t).p : Int) + 1
      else topExp m e - ((fmtOf t).p : Int) + 1) = qe
    have hq : topExp m e - ((fmtOf t).p : Int) + 1 ≤ qe := by
      subst hqe
      split <;> omega
    have hy : (roundUnits neg m e more qe rm rnd).1 ≤ 2 ^ (fmtOf t).p :=
      (roundUnits_le ..).trans (units_lt hq)
    split
    · exact overflow_lt hf neg rm sat
    · next hno =>
      rw [Nat.add_assoc]
      exact signBit_add_lt hf.width neg ((encoded_le_greatest hf hy hno).trans_lt hf.greatest)

/-- What a value is rounded to fits the width of the format (R78, R81, R82). -/
theorem roundTo_lt (t : ElemTy) (v : FVal) (rm : Rnd) (sat : Bool) (rnd : Nat) :
    (roundTo t v rm sat rnd).1 < 2 ^ (fmtOf t).w := by
  have hf := fmtOf_fits t
  unfold roundTo
  cases v with
  | nan neg signalling =>
    dsimp only
    split
    · exact (Nat.le_add_left ..).trans_lt (signBit_add_lt hf.width false hf.nan)
    · exact Nat.two_pow_pos _
  | inf neg =>
    dsimp only
    split
    · exact signBit_add_lt hf.width neg hf.infinite
    · split
      · exact signBit_add_lt hf.width neg hf.greatest
      · exact signBit_add_lt hf.width neg hf.nan
  | fin neg m e more => exact roundFin_lt ..

variable {a b : Nat}

theorem finish_lt (h : isFloat t = true) (r : FVal × Bool) (rm : Rnd) (rnd : Nat) : (finish t r rm rnd).1 < 2 ^ widthOf t :=
  fmtOf_w h ▸ roundTo_lt t r.1 rm false rnd

theorem fminmax_lt (h : isFloat t = true) (greatest : Bool) (ha : a < 2 ^ widthOf t) (hb : b < 2 ^ widthOf t) :
    (fminmax t greatest a b).1 < 2 ^ widthOf t := by
  have hf := fmtOf_fits t
  unfold fminmax
  dsimp only
  split
  · exact fmtOf_w h ▸ (Nat.le_add_left ..).trans_lt (signBit_add_lt hf.width false hf.nan)
  · dsimp only
    split
    · exact hb
    · exact ha

theorem laneMax_lt (ha : a < 2 ^ widthOf t) (hb : b < 2 ^ widthOf t) : (laneMax t a b).1 < 2 ^ widthOf t := by
  unfold laneMax
  split
  · next h => exact fminmax_lt h true ha hb
  · dsimp only
    split
    · exact hb
    · exact ha

theorem laneMin_lt (ha : a < 2 ^ widthOf t) (hb : b < 2 ^ widthOf t) : (laneMin t a b).1 < 2 ^ widthOf t := by
  unfold laneMin
  split
  · next h => exact fminmax_lt h false ha hb
  · dsimp only
    split
    · exact hb
    · exact ha

theorem sumIdentity_lt (t : ElemTy) : sumIdentity t < 2 ^ widthOf t := by cases t <;> decide

theorem maxIdentity_lt (t : ElemTy) : maxIdentity t < 2 ^ widthOf t := by cases t <;> decide

theorem minIdentity_lt (t : ElemTy) : minIdentity t < 2 ^ widthOf t := by cases t <;> decide

end Sys2Proof.Machine
end

section
/-! Integer lanes wrap (R68). -/

namespace Sys2Proof.Machine

open Sys2Proof.Claims

variable {t : ElemTy}

/-- The integer that bits stand for differs from them by a multiple of the type's modulus. -/
theorem ival_emod (t : ElemTy) (a : Nat) : ival t a % 2 ^ widthOf t = (a : Int) % 2 ^ widthOf t := by
  unfold ival signed
  dsimp only
  split
  · split
    · simp
    · simp
  · simp

/-- A sum of lanes is that of their bits, cut to the width (R68). -/
theorem wrapInt_ival_add (t : ElemTy) (a b : Nat) : wrapInt t (ival t a + ival t b) = (a + b) % 2 ^ widthOf t := by
  have h : (ival t a + ival t b) % 2 ^ widthOf t = (((a + b) % 2 ^ widthOf t : Nat) : Int) := by
    rw [Int.add_emod, ival_emod, ival_emod, ← Int.add_emod]
    norm_cast
  rw [wrapInt, h, Int.toNat_natCast]

/-- The lane sum, by the kind of its type (R77, R118). -/
theorem laneAdd_eq_byKind (t : ElemTy) (rm : Rnd) (r a b : Nat) :
    laneAdd t rm r a b = byKind t rm r ((a + b) % 2 ^ widthOf t) (addVal (fval t a) (fval t b) rm) := by
  unfold laneAdd byKind
  rw [wrapInt_ival_add]

theorem byKind_sum_lt (t : ElemTy) (rm : Rnd) (r a b : Nat) (v : FVal × Bool) :
    (byKind t rm r ((a + b) % 2 ^ widthOf t) v).1 < 2 ^ widthOf t := by
  unfold byKind
  split
  · next h => exact finish_lt h v rm r
  · exact Nat.mod_lt _ (Nat.two_pow_pos _)

end Sys2Proof.Machine
end

section
/-! O26: the running results of vscan. -/

namespace Sys2Proof.Machine

open Sys2Proof.Claims

/-- The running result at each lane (R96): lane 0 as it stands, and every later lane combined with the result before it. -/
def running (op : Nat → Nat → Nat → Nat × Nat) (x : Nat → Nat) : Nat → Nat
  | 0 => x 0
  | k + 1 => (op (k + 1) (running op x k) (x (k + 1))).1

/-- The flags of the step to the lane after lane k. -/
def runningFlags (op : Nat → Nat → Nat → Nat × Nat) (x : Nat → Nat) (k : Nat) : Nat :=
  (op (k + 1) (running op x k) (x (k + 1))).2

section
variable (op : Nat → Nat → Nat → Nat × Nat) (x : Nat → Nat)

theorem scanFrom_running (i n : Nat) : (scanFrom op (i + 1) (running op x i) ((List.range' (i + 1) n).map x)).1 =
    (List.range' (i + 1) n).map (running op x) := by
  induction n generalizing i with
  | zero => rfl
  | succ n ih =>
    rw [List.range'_succ, List.map_cons, List.map_cons, scanFrom]
    exact congrArg _ (ih (i + 1))

theorem scanFrom_flags (i n j : Nat) : (scanFrom op (i + 1) (running op x i) ((List.range' (i + 1) n).map x)).2.testBit j =
    (List.range' i n).any fun k => (runningFlags op x k).testBit j := by
  induction n generalizing i with
  | zero => simp [scanFrom]
  | succ n ih =>
    rw [List.range'_succ, List.map_cons, scanFrom, List.range'_succ, List.any_cons, ← ih (i + 1)]
    exact Nat.testBit_or ..

/-- The scan of the first n lanes lists their running results, and its flags are those of its steps (R90, R96). -/
theorem scan_running (n : Nat) : (scan op ((List.range n).map x)).1 = (List.range n).map (running op x) := by
  cases n with
  | zero => rfl
  | succ n =>
    rw [List.range_eq_range', List.range'_succ, List.map_cons, List.map_cons, scan]
    exact congrArg _ (scanFrom_running op x 0 n)

theorem scan_flags (n j : Nat) : (scan op ((List.range n).map x)).2.testBit j =
    (List.range (n - 1)).any fun k => (runningFlags op x k).testBit j := by
  cases n with
  | zero => simp [scan]
  | succ n =>
    rw [List.range_eq_range', List.range'_succ, List.map_cons, scan, List.range_eq_range', Nat.add_sub_cancel]
    exact scanFrom_flags op x 0 n j

end

theorem running_lt {op : Nat → Nat → Nat → Nat × Nat} {x : Nat → Nat} {b : Nat} (hx : ∀ k, x k < b)
    (hop : ∀ k a c, a < b → c < b → (op k a c).1 < b) (k : Nat) : running op x k < b := by
  induction k with
  | zero => exact hx 0
  | succ k ih => exact hop _ _ _ ih (hx _)

/-- The identity that an inactive lane contributes to a scan (R95, R123). -/
def scanIdentity (t : ElemTy) (op : BitVec 2) : Nat :=
  if op = 0 then sumIdentity t else if op = 1 then maxIdentity t else minIdentity t

/-- The step of a scan to lane k (R96, R123). -/
def scanStep (v : Vals) (t : ElemTy) (md : Rnd) (op : BitVec 2) (k a b : Nat) : Nat × Nat :=
  if op = 0 then laneAdd t md (draw v md k) a b else if op = 1 then laneMax t a b else laneMin t a b

theorem scanIdentity_lt (t : ElemTy) (op : BitVec 2) : scanIdentity t op < 2 ^ widthOf t := by
  unfold scanIdentity
  split
  · exact sumIdentity_lt t
  · split
    · exact maxIdentity_lt t
    · exact minIdentity_lt t

theorem scanStep_lt (v : Vals) (t : ElemTy) (md : Rnd) (op : BitVec 2) (k : Nat) {a b : Nat} (ha : a < 2 ^ widthOf t)
    (hb : b < 2 ^ widthOf t) : (scanStep v t md op k a b).1 < 2 ^ widthOf t := by
  unfold scanStep
  split
  · rw [laneAdd_eq_byKind]
    exact byKind_sum_lt ..
  · split
    · exact laneMax_lt ha hb
    · exact laneMin_lt ha hb

/-- What lane k contributes to a scan: its bits where it is active, the identity elsewhere (R95). -/
def scanLane (v : Vals) (va : VReg) (m : Reg) (t : ElemTy) (op : BitVec 2) (k : Nat) : Nat :=
  if active v m k then lane (widthOf t) (v.v va) k else scanIdentity t op

theorem scanLane_lt (v : Vals) (va : VReg) (m : Reg) (t : ElemTy) (op : BitVec 2) (k : Nat) :
    scanLane v va m t op k < 2 ^ widthOf t := by
  unfold scanLane
  split
  · exact lane_lt ..
  · exact scanIdentity_lt t op

/-- Settles O26: the scan lists the running results, which fit their lanes, and the union of the flags of its steps. -/
theorem vectorScan : Obligations.VectorScan := by
  rintro vd va m t rm op s cx _ - hr rfl v md act x step
  have hx : x = scanLane v va m t op := rfl
  have hstep : step = scanStep v t md op := by
    funext k a b
    unfold step scanStep
    rw [laneAdd_eq_byKind]
  have hlt (k : Nat) : running step x k < 2 ^ widthOf t :=
    running_lt (fun k => hx ▸ scanLane_lt v va m t op k) (fun k a b ha hb => hstep ▸ scanStep_lt v t md op k ha hb) k
  let r := scan step ((List.range (laneCount t)).map x)
  let w := (mergeLanes (widthOf t) (cx.st.v vd.val) act fun k => (r.1.getD k 0, 0)).1
  refine ⟨running step x, w, BitVec.ofNat 64 r.2, rfl, fun k _ => rfl, fun k hk => ?_, fun j hj => ?_, ?_⟩
  · have hget : r.1.getD k 0 = running step x k := by
      simp [r, scan_running, List.getD, hk, laneCount]
    rw [lane_mergeLanes hk, hget, Nat.mod_eq_of_lt (hlt k)]
  · rw [BitVec.getLsbD_ofNat, decide_eq_true hj, Bool.true_and]
    exact scan_flags step x _ j
  · have hexec : exec (.vscan vd va m t rm op) s = execVscan vd va m t rm op s := rfl
    unfold execVscan vectorOp at hexec
    refine completes_of_body hexec hr ?_ rfl
    simp only [w, r, hstep]
    rfl

end Sys2Proof.Machine
end

section
/-! O48: a drain to a port that has counted more pushed elements than a row has. -/

namespace Sys2Proof.Machine

open Sys2Proof.Claims

/-- The data of the elements on their way to queue 0. -/
def sentData (s : State) : Option (List (Option Word)) := (s.queue 0).map fun q => q.transit.map (·.data)

/-- The queue at the port: it has one credit. -/
def overrunQueue : Queue := { gen := 0, lid := 0, kind := 0, die := 0, depth := 1, credits := 1 }

/-- A drain of row 0 to a port as s8, which counts 8 elements of 8 bytes as pushed: all that the row has. -/
def overrunOp : TileOp := { id := 3, slot := 0, gen := 1, kind := .drain, acc := 0, dest := 2, dtype := .s8, part := 8 }

/-- The unit of core 0 works on that drain; its row holds zeros, and the row after it begins with 1.0. -/
def overrun : State :=
  { cores := [(0, { tile := { acc := [(64, 0x3F800000)], queue := [overrunOp] } })], queues := [(0, overrunQueue)] }

theorem overrun_works : UnitWorks overrun 0 overrunOp := ⟨rfl, by decide⟩

/-- The model takes nothing from beyond the row: the element that it pushes is 0. -/
theorem overrun_sends_zero {t : State} (h : exec (.tileOpStart 0) overrun = .next t) : sentData t = some [some 0] := by
  have hrun : (match exec (.tileOpStart 0) overrun with | .next t => sentData t | _ => none) = some [some 0] := by decide
  rwa [h] at hrun

/-- Elements 64 to 71 of row 0, as the statement counts them, are the first of row 1. -/
theorem overrun_claims_one : BitVec.ofNat 64 (little (fun b =>
    BitVec.ofNat 8 (rowValue overrun 0 overrunOp ((8 * overrunOp.part + b) / 1) / 256 ^ ((8 * overrunOp.part + b) % 1))) 8) = 1 := by
  decide

/-- Refutes O48: nothing in the statement bounds the count of elements that a drain to a port has pushed of its row. Of a row
that is spent the model pushes 0, while the statement goes on with the columns after the last, which are those of the next row. -/
theorem not_tileEvents : ¬ Obligations.TileEvents := by
  unfold Obligations.TileEvents
  intro h
  obtain ⟨-, -, -, -, -, hport, -⟩ := h
  obtain ⟨-, hpush⟩ := hport overrun 0 overrunOp overrunQueue overrun_works rfl rfl (by decide) rfl (by decide)
  obtain ⟨t, ht, -, -, -, hqueues, -, -⟩ := hpush (by decide)
  have hsent : sentData t = some [some 1] := by
    rw [← overrun_claims_one]
    exact congrArg (fun qs : Tab Queue => (qs.find 0).map fun q => q.transit.map (·.data)) hqueues
  rw [overrun_sends_zero ht] at hsent
  exact absurd hsent (by decide)

end Sys2Proof.Machine
end

section
/-! O49: a run over queues on a core that lists one place twice. -/

namespace Sys2Proof.Machine

open Sys2Proof.Claims

/-- The pairs that a run takes at a coordinate from fibre k on, and the state with them popped; none where a fibre shows no head or an
error, or the steps run out. -/
def drawn (core cur : Nat) : Nat → State → Nat → Option (List (BitVec 32) × State)
  | 0, _, _ => none
  | n + 1, s, k => match (s.core core).merge.fibres[k]? with
    | none => some ([], s)
    | some f => match fibreHead s core f with
      | .pair c v => if c = cur then (drawn core cur n (popFibre s core k cur) k).map fun p => (v :: p.1, p.2)
        else drawn core cur n s (k + 1)
      | .ended | .token _ _ => drawn core cur n s (k + 1)
      | .none | .bad _ => none

theorem draws_of_drawn {core cur n : Nat} {s u : State} {k : Nat} {vs : List (BitVec 32)}
    (h : drawn core cur n s k = some (vs, u)) : Draws core cur s k vs u := by
  induction n generalizing s k vs with
  | zero => cases h
  | succ n ih =>
    unfold drawn at h
    split at h
    next hk =>
      cases h
      exact .done _ _ hk
    next f hk =>
      split at h
      next c v hf =>
        split at h
        next hc =>
          subst hc
          obtain ⟨p, hp, he⟩ := Option.map_eq_some_iff.mp h
          cases he
          exact .pair _ _ _ _ _ _ hk hf (ih hp)
        next hc => exact .next _ _ _ _ _ hk (.inr (.inr ⟨c, v, hf, hc⟩)) (ih h)
      next hf => exact .next _ _ _ _ _ hk (.inl hf) (ih h)
      next tag payload hf => exact .next _ _ _ _ _ hk (.inr (.inl ⟨tag, payload, hf⟩)) (ih h)
      · cases h
      · cases h

/-- A strand of a generation whose port 0 consumes a queue. -/
def consumerOf (gen queue : Nat) : Strand :=
  { kind := .inst, gen := gen, stage := 0, rank := 0, lid := 0, ports := [(0, { queue := queue, out := false })] }

/-- A queue that holds pairs of these coordinates, each with the value 0. -/
def queueOfPairs (coords : List Nat) : Queue :=
  { gen := 0, lid := 0, kind := 0, die := 0, depth := 16
    ring := coords.map fun c => { tag := 0, data := some (BitVec.ofNat 64 c), gen := 0, rank := 0, seq := 0 } }

/-- The fibre that pops a queue for the strand of a generation. -/
def queueFibre (gen queue : Nat) : Fibre := { isQueue := true, queue := queue, gen := gen, port := 0, count := 0, off := 0 }

/-- The run of the strand of generation 1, which writes its pairs to scratchpad. -/
def doubledRun : MergeRun :=
  { slot := 0, gen := 1, op := 0, toPort := false, out := 0, tag := 0, cn := none, spadBase := 0, spadSize := 4096, seq := 0, rank := 0 }

/-- Core 1 lists slot 0 twice, for generations 1 and 2, and generation 1 once more in slot 1, bound to a longer queue. The fibres
of its run pop queue 2 for generation 2, then queue 1 for generation 1. -/
def doubled : State :=
  { strands := [(placeKey 1 0, consumerOf 1 1), (placeKey 1 0, consumerOf 2 2), (placeKey 1 1, consumerOf 1 3)]
    cores := [(1, { merge := { fibres := [queueFibre 2 2, queueFibre 1 1], run := some doubledRun } })]
    queues := [(1, queueOfPairs [5]), (2, queueOfPairs [5, 7]), (3, queueOfPairs [5, 5, 5, 5, 5, 5, 7])] }

theorem doubled_going : Claims.Going doubled 1 doubledRun := ⟨rfl, rfl, rfl, rfl⟩

theorem doubled_bound : FibresBound doubled 1 := by
  intro f hf _ place st hst
  have hf' : f ∈ [queueFibre 2 2, queueFibre 1 1] := hf
  simp only [List.mem_cons, List.not_mem_nil, or_false] at hf'
  obtain rfl | rfl := hf'
  · cases (show some (0, consumerOf 2 2) = some (place, st) from hst)
    exact ⟨_, rfl, rfl⟩
  · cases (show some (0, consumerOf 1 1) = some (place, st) from hst)
    exact ⟨_, rfl, rfl⟩

theorem doubled_heads : fibreHeads doubled 1 = [.pair 5 0, .pair 5 0] := by decide

/-- The statement's run takes every pair of coordinate 5: one of queue 2, then the six of queue 3. -/
theorem doubled_draws : ∃ vs u, Draws 1 5 doubled 0 vs u ∧ outputBad (u.core 1) doubledRun = none := by
  have h : (drawn 1 5 10 doubled 0).any (fun p => (outputBad (p.2.core 1) doubledRun).isNone) = true := by decide
  obtain ⟨⟨vs, u⟩, hd, hb⟩ := (Option.any_eq_true _ _).mp h
  exact ⟨vs, u, draws_of_drawn hd, Option.isNone_iff_eq_none.mp hb⟩

/-- The model's steps, counted by queues 1 and 2, run out before the pair is emitted. -/
theorem doubled_emits_none {t : State} (h : exec (.mergeEmit 1) doubled = .next t) : (t.core 1).merge.pairs = 0 := by
  have hrun : (match exec (.mergeEmit 1) doubled with | .next t => (t.core 1).merge.pairs | _ => 1) = 0 := by decide
  rwa [h] at hrun

/-- Refutes O49: nothing keeps a place from being listed more than once. Where slot 0 of a core is listed for two strands, a pop for the
second writes it over the first, and the first one's generation is then found in another slot, at another queue. That queue is
longer than the one by which the model counts the steps of the coordinate, so the run stops before it emits the pair. -/
theorem not_mergeRuns : ¬ Obligations.MergeRuns := by
  unfold Obligations.MergeRuns
  intro h
  obtain ⟨-, -, -, -, -, hemit, -⟩ := h
  obtain ⟨vs, u, hdraws, hbad⟩ := doubled_draws
  have hheads (g : FibreHead) (hg : g ∈ fibreHeads doubled 1) : g = .pair 5 0 := by
    simpa [doubled_heads] using hg
  obtain ⟨t, ht, -, -, -, hmerge, -⟩ := hemit doubled 1 doubledRun 5 vs u doubled_going doubled_bound rfl
    (fun g hg => by simp [hheads g hg]) ⟨0, by simp [doubled_heads]⟩ (fun c v hc => by cases hheads _ hc; exact le_rfl)
    hdraws hbad
  have hpairs : (t.core 1).merge.pairs = 1 := congrArg (·.pairs) hmerge
  rw [doubled_emits_none ht] at hpairs
  exact absurd hpairs (by decide)

end Sys2Proof.Machine
end

section
/-! O16: the trap at a poisoned source. -/

namespace Sys2Proof.Machine

open Sys2Proof.Claims

variable {s : State} {cx : Ctx} {i : Instr} {u : Uses} {n : Nat} {p : Nat × Word}

/-- Of an instruction that has come to its operands, and that no destination holds back, a poisoned source is reported. -/
theorem gate_poisoned (h : Checked s cx u) (hdata : ∀ k ∈ sourcePorts u, ∀ e, headOf s cx.st k = some e → e.tag = 0)
    (howed : ∀ m ∈ writeNums u, m ∉ cx.st.owed) (hunits : u.vsrc ≠ [] ∨ u.vdst ≠ [] → unitsOff s cx.core = false)
    (hfree : ∀ k ∈ destPorts u ++ u.named.map (·.1), portHeld s cx k = false) (hn : n ∈ readNums u)
    (hp : cx.st.poison.find n = some p) :
    ∃ m q, m ∈ readNums u ∧ cx.st.poison.find m = some q ∧ gate s i cx u = .error (.detail .memUncorrectable q.1 q.2) := by
  have htoken : ((sourcePorts u).map fun k => (k, headOf s cx.st k)).find? (fun h => h.2.any fun e => e.tag != 0) = none := by
    rw [List.find?_eq_none]
    intro a ha
    obtain ⟨k, hk, rfl⟩ := List.mem_map.mp ha
    obtain ⟨e, he, -⟩ := h.heads k hk
    simp [he, hdata k hk e he]
  have hwrites : (writeNums u).any cx.st.owed.contains = false :=
    List.any_eq_false.mpr fun m hm => by simpa using howed m hm
  have hpower : (!(u.vsrc.isEmpty && u.vdst.isEmpty) && unitsOff s cx.core) = false := by
    cases hs : u.vsrc with
    | cons a l => simp [hunits (.inl (by simp [hs]))]
    | nil =>
      cases hd : u.vdst with
      | cons a l => simp [hunits (.inr (by simp [hd]))]
      | nil => rfl
  have hports : (destPorts u ++ u.named.map (·.1)).any (portHeld s cx) = false :=
    List.any_eq_false.mpr fun k hk => by simp [hfree k hk]
  rw [gate_checked i h]
  simp only [htoken, hwrites, hpower, hports, Bool.false_eq_true, if_false]
  cases hm : (readNums u).find? (fun n => (cx.st.poison.find n).isSome) with
  | none => exact absurd (List.find?_eq_none.mp hm n hn) (by simp [hp])
  | some m =>
    have hsome : (cx.st.poison.find m).isSome = true := List.find?_some (p := fun n => (cx.st.poison.find n).isSome) hm
    obtain ⟨q, hq⟩ := Option.isSome_iff_exists.mp hsome
    exact ⟨m, q, List.mem_of_find?_eq_some hm, hq, by simp [hq]⟩

/-- Settles O16: the poisoned source that the gate finds is trapped at. -/
theorem poisonedReadTraps : Obligations.PoisonedReadTraps := by
  intro i s cx n p he h ht hdata howed hunits hfree hn hp
  obtain ⟨m, q, hm, hq, hg⟩ := gate_poisoned h hdata howed hunits hfree hn hp
  exact ⟨_, m, q, hm, hq, exec_stopped he h.strand hg, trapAt_trapped ht .memUncorrectable q.1 q.2⟩

end Sys2Proof.Machine
end

section
/-! O18, O19, O20: the results of the scalar instructions. -/

namespace Sys2Proof.Machine

open Sys2Proof.Claims

variable {s : State} {cx : Ctx} {i : Instr}

/-- A computation writes the value of its function at the operands that are read. -/
theorem writes_of_compute {d : Reg} {src : List Reg} {g : (Reg → Word) → Word} (hx : exec i s = compute i d src s g)
    (hu : usesOf s cx i = { src := src, dst := [d] }) (h : Ready s cx (usesOf s cx i)) :
    Writes s cx i d (g (readReg s cx)) (successor s.cursor.header cx.st.pc) := by
  unfold compute at hx
  exact completes_of_body hx h rfl rfl (hu := hu.symm)

/-- An instruction computes a function of its sources: its issue, and the value. -/
def Computes (s : State) (cx : Ctx) (i : Instr) (d : Reg) (f : (Reg → Word) → Word) : Prop :=
  ∃ src g, exec i s = compute i d src s g ∧ usesOf s cx i = { src := src, dst := [d] } ∧ ∀ x, g x = f x

theorem Computes.writes {d : Reg} {f : (Reg → Word) → Word} (hc : Computes s cx i d f) (h : Ready s cx (usesOf s cx i)) :
    Writes s cx i d (f (readReg s cx)) (successor s.cursor.header cx.st.pc) := by
  obtain ⟨src, g, hx, hu, hf⟩ := hc
  exact hf _ ▸ writes_of_compute hx hu h
/-! The 64-bit operations by their bits and values (R102 to R104). -/

theorem amount_eq (b : Word) : (b.extractLsb' 0 6).toNat = amount b := by
  rw [BitVec.extractLsb'_toNat, Nat.shiftRight_zero]
  rfl

theorem minS_eq (a b : Word) : minS a b = if b.slt a then b else a := by
  unfold minS
  rw [BitVec.slt_eq_decide]
  by_cases h : a.toInt ≤ b.toInt
  · simp [h, Int.not_lt.mpr h]
  · simp [h, Int.not_le.mp h]

theorem maxS_eq (a b : Word) : maxS a b = if a.slt b then b else a := by
  unfold maxS
  rw [BitVec.slt_eq_decide]
  by_cases h : a.toInt < b.toInt
  · simp [h, Int.le_of_lt h]
  · by_cases hab : a.toInt ≤ b.toInt
    · simp [BitVec.eq_of_toInt_eq (Int.le_antisymm hab (Int.not_lt.mp h))]
    · simp [h, hab]

theorem minW_eq (a b : Word) : minW a b = if b < a then b else a := by
  unfold minW
  simp only [BitVec.lt_def]
  by_cases h : a.toNat ≤ b.toNat
  · simp [h, Nat.not_lt.mpr h]
  · simp [h, Nat.not_le.mp h]

theorem maxW_eq (a b : Word) : maxW a b = if a < b then b else a := by
  unfold maxW
  simp only [BitVec.lt_def]
  by_cases h : a.toNat < b.toNat
  · simp [h, Nat.le_of_lt h]
  · by_cases hab : a.toNat ≤ b.toNat
    · simp [BitVec.eq_of_toNat_eq (Nat.le_antisymm hab (Nat.not_lt.mp h))]
    · simp [h, hab]

theorem mul_low (a b : Word) : (a.setWidth 128 * b.setWidth 128).extractLsb' 0 64 = a * b := by
  rw [← BitVec.setWidth_eq_extractLsb' (by decide), BitVec.setWidth_mul _ _ (by decide)]
  simp

theorem mulHighW_eq (a b : Word) : mulHighW a b = (a.setWidth 128 * b.setWidth 128).extractLsb' 64 64 := by
  have h : a.toNat * b.toNat < 2 ^ 128 :=
    calc a.toNat * b.toNat < 2 ^ 64 * 2 ^ 64 := Nat.mul_lt_mul'' a.isLt b.isLt
      _ = 2 ^ 128 := by norm_num
  apply BitVec.eq_of_toNat_eq
  simp only [mulHighW, BitVec.toNat_ofNat, BitVec.extractLsb'_toNat, BitVec.toNat_mul, BitVec.toNat_setWidth,
    Nat.shiftRight_eq_div_pow]
  rw [Nat.mod_eq_of_lt (a.isLt.trans (by norm_num)), Nat.mod_eq_of_lt (b.isLt.trans (by norm_num)), Nat.mod_eq_of_lt h]

theorem mulHighS_eq (a b : Word) : mulHighS a b = (a.signExtend 128 * b.signExtend 128).extractLsb' 64 64 := by
  have hprod : a.signExtend 128 * b.signExtend 128 = BitVec.ofInt 128 (a.toInt * b.toInt) := (BitVec.ofInt_mul _ _).symm
  rw [hprod]
  apply BitVec.eq_of_toNat_eq
  simp only [mulHighS, BitVec.toNat_ofInt, BitVec.extractLsb'_toNat, Nat.shiftRight_eq_div_pow]
  generalize a.toInt * b.toInt = z
  omega

theorem quoS_eq (a b : Word) : quoS a b = if b = 0 then BitVec.allOnes 64 else a.sdiv b := by
  unfold quoS
  congr 1
  exact BitVec.eq_of_toInt_eq (by rw [BitVec.toInt_ofInt, BitVec.toInt_sdiv])

theorem remS_eq (a b : Word) : remS a b = if b = 0 then a else a.srem b := by
  unfold remS
  rw [← BitVec.toInt_srem, BitVec.ofInt_toInt]

theorem quoW_eq (a b : Word) : quoW a b = if b = 0 then BitVec.allOnes 64 else a / b := by
  unfold quoW
  congr 1
  exact BitVec.eq_of_toNat_eq (by rw [BitVec.toNat_ofNat, BitVec.toNat_udiv, Nat.mod_eq_of_lt]; exact (Nat.div_le_self _ _).trans_lt a.isLt)

theorem remW_eq (a b : Word) : remW a b = if b = 0 then a else a % b := by
  unfold remW
  congr 1
  exact BitVec.eq_of_toNat_eq (by rw [BitVec.toNat_ofNat, BitVec.toNat_umod, Nat.mod_eq_of_lt]; exact (Nat.mod_le _ _).trans_lt a.isLt)

/-- The first number below n with a property, else n, is the index at which a search of 0 .. n - 1 ends. -/
theorem firstBelow_getD (n : Nat) (p : Nat → Bool) : (firstBelow n p).getD n = (List.range n).findIdx p := by
  unfold firstBelow
  cases h : (List.range n).find? p with
  | none =>
    rw [List.findIdx_eq_length_of_false (by simpa using h), List.length_range]
    rfl
  | some k =>
    obtain ⟨hp, hk, hlow⟩ := List.find?_range_eq_some.mp h
    exact ((List.findIdx_eq (by simpa using hk)).mpr ⟨by simpa using hp, fun j hj => by simpa using hlow j hj⟩).symm

theorem countTrailing_eq (a : Word) : countTrailing a = BitVec.ofNat 64 ((List.range 64).findIdx a.getLsbD) :=
  congrArg (BitVec.ofNat 64) (firstBelow_getD 64 a.getLsbD)

theorem countLeading_eq (a : Word) : countLeading a = BitVec.ofNat 64 (if a = 0 then 64 else 63 - a.toNat.log2) := by
  unfold countLeading firstBelow
  split
  next h => subst h; rfl
  next h =>
    have hz : a.toNat ≠ 0 := fun hz => h (BitVec.eq_of_toNat_eq hz)
    have hl : a.toNat.log2 < 64 := (Nat.log2_lt hz).mpr a.isLt
    have hf : (List.range 64).find? (fun k => bit a (63 - k)) = some (63 - a.toNat.log2) := by
      rw [List.find?_range_eq_some]
      refine ⟨?_, by simp; omega, fun j hj => ?_⟩
      · rw [show 63 - (63 - a.toNat.log2) = a.toNat.log2 by omega]
        exact Nat.testBit_log2 hz
      · have hlt : a.toNat < 2 ^ (63 - j) := (Nat.log2_lt hz).mp (by omega)
        simp [bit, BitVec.getLsbD, Nat.testBit_lt_two_pow hlt]
    rw [hf]
    rfl

theorem sext_eq (n : Nat) (a : Word) : sext n a.toNat = (a.setWidth n).signExtend 64 := by
  unfold sext signed BitVec.signExtend
  rw [BitVec.toInt_eq_toNat_cond, BitVec.toNat_setWidth]

theorem zext_eq (n : Nat) (a : Word) : zext n a.toNat = (a.setWidth n).setWidth 64 :=
  BitVec.eq_of_toNat_eq (by simp [zext])

/-! Numbers made of bits at rising positions. -/

/-- A sum of powers of two at rising positions has its ones at the positions whose power it counts. -/
theorem testBit_sum_two_pow {α : Type} {l : List α} {pos : α → Nat} (hl : (l.map pos).Pairwise (· < ·)) (f : α → Bool)
    (k : Nat) : ((l.map fun a => if f a then 2 ^ pos a else 0).foldl (· + ·) 0).testBit k =
      l.any fun a => f a && pos a == k := by
  have hsum : ((l.map fun a => if f a then 2 ^ pos a else 0).foldl (· + ·) 0) =
      (((l.filter f).map pos).map (2 ^ ·)).sum := by
    rw [← List.sum_eq_foldl]
    clear hl
    induction l with
    | nil => rfl
    | cons a l ih =>
      cases hf : f a with
      | true => simp [hf, ih]
      | false => simp [hf, ih]
  have hsorted : ((l.filter f).map pos).SortedLT :=
    List.sortedLT_iff_pairwise.mpr (hl.sublist (List.filter_sublist.map pos))
  rw [hsum, Bool.eq_iff_iff, ← Nat.mem_bitIndices, Nat.bitIndices_sum_map_two_pow hsorted]
  simp [and_assoc]

/-! Gathering and scattering bits (R104). -/

theorem onePositions_ascend (m : Word) : (onePositions m).Pairwise (· < ·) := List.pairwise_lt_range.filter _

theorem onePositions_length (m : Word) : (onePositions m).length = rank m 64 := rfl

/-- A one of a mask is listed at its rank. -/
theorem onePositions_rank {m : Word} {k : Nat} (hk : k < 64) (hb : m.getLsbD k = true) :
    (onePositions m)[rank m k]? = some k := by
  have hsplit : List.range 64 = List.range k ++ k :: (List.range (63 - k)).map (k + 1 + ·) := by
    rw [show 64 = (k + 1) + (63 - k) by omega, List.range_add, List.range_succ]
    simp
  unfold onePositions
  rw [hsplit, List.filter_append, List.filter_cons_of_pos (p := bit m) hb]
  exact (List.getElem?_append_right le_rfl).trans (by rw [Nat.sub_self]; rfl)

/-- What is listed at a place is a one of the mask, of that rank. -/
theorem onePositions_getElem? {m : Word} {j k : Nat} :
    (onePositions m)[j]? = some k ↔ k < 64 ∧ m.getLsbD k = true ∧ rank m k = j := by
  refine ⟨fun h => ?_, fun ⟨hk, hb, hj⟩ => hj ▸ onePositions_rank hk hb⟩
  obtain ⟨hk, hb⟩ : k < 64 ∧ m.getLsbD k = true := by
    simpa [onePositions, bit] using List.mem_of_getElem? h
  refine ⟨hk, hb, ?_⟩
  have hrank := onePositions_rank hk hb
  exact (List.getElem?_inj (List.getElem?_eq_some_iff.mp hrank).1 ((onePositions_ascend m).imp Nat.ne_of_lt)).mp
    (hrank.trans h.symm)

theorem gatherBits_bit (a m : Word) {j : Nat} (hj : j < 64) :
    (gatherBits a m).getLsbD j = ((onePositions m)[j]?).any a.getLsbD := by
  have hpos : ((onePositions m).zipIdx.map (·.2)).Pairwise (· < ·) := by
    rw [List.zipIdx_map_snd]
    exact List.pairwise_lt_range'
  unfold gatherBits
  rw [BitVec.getLsbD_ofNat, decide_eq_true hj, Bool.true_and,
    testBit_sum_two_pow hpos (fun p => bit a p.1) j, Bool.eq_iff_iff]
  simp only [List.any_eq_true, List.mem_zipIdx_iff_getElem?, Option.any_eq_true, Bool.and_eq_true, beq_iff_eq]
  exact ⟨fun ⟨p, hp, hb, he⟩ => ⟨p.1, he ▸ hp, hb⟩, fun ⟨k, hk, hb⟩ => ⟨(k, j), hk, hb, rfl⟩⟩

theorem scatterBits_bit (a m : Word) {k : Nat} (hk : k < 64) :
    (scatterBits a m).getLsbD k = (m.getLsbD k && a.getLsbD (rank m k)) := by
  have hpos : ((onePositions m).zipIdx.map (·.1)).Pairwise (· < ·) := by
    rw [List.zipIdx_map_fst]
    exact onePositions_ascend m
  unfold scatterBits
  rw [BitVec.getLsbD_ofNat, decide_eq_true hk, Bool.true_and,
    testBit_sum_two_pow hpos (fun p => bit a p.2) k, Bool.eq_iff_iff]
  simp only [List.any_eq_true, List.mem_zipIdx_iff_getElem?, onePositions_getElem?, Bool.and_eq_true, beq_iff_eq]
  refine ⟨?_, fun ⟨hm, ha⟩ => ⟨(k, rank m k), ⟨hk, hm, rfl⟩, ha, rfl⟩⟩
  rintro ⟨⟨i, j⟩, ⟨-, hm, hr⟩, ha, he⟩
  obtain rfl : rank m i = j := hr
  obtain rfl : i = k := he
  exact ⟨hm, ha⟩


/-! What the instructions compute (R102 to R109). -/

theorem toInt_imm22 (k : BitVec 22) : (imm22 k).toInt = k.toInt := BitVec.toInt_signExtend_of_le (by decide)

theorem slt_imm22 (a : Word) (k : BitVec 22) : a.slt (imm22 k) = decide (a.toInt < k.toInt) := by
  rw [BitVec.slt_eq_decide, toInt_imm22]

theorem minS_imm22 (a : Word) (k : BitVec 22) : minS a (imm22 k) = if k.toInt < a.toInt then k.signExtend 64 else a := by
  rw [minS_eq, BitVec.slt_eq_decide, toInt_imm22]
  simp only [decide_eq_true_eq, imm22]

theorem maxS_imm22 (a : Word) (k : BitVec 22) : maxS a (imm22 k) = if a.toInt < k.toInt then k.signExtend 64 else a := by
  rw [maxS_eq, slt_imm22]
  simp only [decide_eq_true_eq, imm22]

theorem append_low_eq (k : BitVec 32) (a : Word) : (k ++ a.setWidth 32 : BitVec (32 + 32)) =
    (k.setWidth 64 <<< 32) ||| (a.setWidth 32).setWidth 64 := by
  apply BitVec.eq_of_toNat_eq
  rw [BitVec.toNat_append, BitVec.toNat_or, BitVec.toNat_shiftLeft, BitVec.toNat_setWidth, BitVec.toNat_setWidth,
    Nat.shiftLeft_eq, Nat.shiftLeft_eq]
  have hk := k.isLt
  have ha := (a.setWidth 32).isLt
  congr 1
  omega

theorem effective_eq (m : MemRef) (x : Reg → Word) : effective m x =
    x m.base + (if m.idx = .x 0 then 0 else x m.idx * BitVec.ofNat 64 (2 ^ m.sc.toNat)) + m.off.signExtend 64 :=
  effective_eq_addressOf m x

variable {d : Reg} {f : (Reg → Word) → Word}

theorem arithmetic_computes (hi : arithmetic i = some (d, f)) : Computes s cx i d f := by
  unfold arithmetic at hi
  split at hi
  next d a b =>
    cases hi
    exact ⟨[a, b], fun x => x a + x b, rfl, rfl, fun x => rfl⟩
  next d a b =>
    cases hi
    exact ⟨[a, b], fun x => x a - x b, rfl, rfl, fun x => rfl⟩
  next d a b =>
    cases hi
    exact ⟨[a, b], fun x => x a &&& x b, rfl, rfl, fun x => rfl⟩
  next d a b =>
    cases hi
    exact ⟨[a, b], fun x => x a ||| x b, rfl, rfl, fun x => rfl⟩
  next d a b =>
    cases hi
    exact ⟨[a, b], fun x => x a ^^^ x b, rfl, rfl, fun x => rfl⟩
  next d a b =>
    cases hi
    exact ⟨[a, b], fun x => x a &&& ~~~x b, rfl, rfl, fun x => rfl⟩
  next d a b =>
    cases hi
    exact ⟨[a, b], fun x => x a <<< amount (x b), rfl, rfl, fun x => congrArg (x a <<< ·) (amount_eq _).symm⟩
  next d a b =>
    cases hi
    exact ⟨[a, b], fun x => x a >>> amount (x b), rfl, rfl, fun x => congrArg (x a >>> ·) (amount_eq _).symm⟩
  next d a b =>
    cases hi
    exact ⟨[a, b], fun x => (x a).sshiftRight (amount (x b)), rfl, rfl, fun x => congrArg (x a).sshiftRight (amount_eq _).symm⟩
  next d a b =>
    cases hi
    exact ⟨[a, b], fun x => (x a).rotateLeft (amount (x b)), rfl, rfl, fun x => congrArg (x a).rotateLeft (amount_eq _).symm⟩
  next d a b =>
    cases hi
    exact ⟨[a, b], fun x => minS (x a) (x b), rfl, rfl, fun x => minS_eq _ _⟩
  next d a b =>
    cases hi
    exact ⟨[a, b], fun x => maxS (x a) (x b), rfl, rfl, fun x => maxS_eq _ _⟩
  next d a b =>
    cases hi
    exact ⟨[a, b], fun x => minW (x a) (x b), rfl, rfl, fun x => minW_eq _ _⟩
  next d a b =>
    cases hi
    exact ⟨[a, b], fun x => maxW (x a) (x b), rfl, rfl, fun x => maxW_eq _ _⟩
  next d a b =>
    cases hi
    exact ⟨[a, b], fun x => x a * x b, rfl, rfl, fun x => (mul_low _ _).symm⟩
  next d a b =>
    cases hi
    exact ⟨[a, b], fun x => mulHighS (x a) (x b), rfl, rfl, fun x => mulHighS_eq _ _⟩
  next d a b =>
    cases hi
    exact ⟨[a, b], fun x => mulHighW (x a) (x b), rfl, rfl, fun x => mulHighW_eq _ _⟩
  next d a b =>
    cases hi
    exact ⟨[a, b], fun x => quoS (x a) (x b), rfl, rfl, fun x => quoS_eq _ _⟩
  next d a b =>
    cases hi
    exact ⟨[a, b], fun x => remS (x a) (x b), rfl, rfl, fun x => remS_eq _ _⟩
  next d a b =>
    cases hi
    exact ⟨[a, b], fun x => quoW (x a) (x b), rfl, rfl, fun x => quoW_eq _ _⟩
  next d a b =>
    cases hi
    exact ⟨[a, b], fun x => remW (x a) (x b), rfl, rfl, fun x => remW_eq _ _⟩
  next d a =>
    cases hi
    exact ⟨[a], fun x => countLeading (x a), rfl, rfl, fun x => countLeading_eq _⟩
  next d a =>
    cases hi
    exact ⟨[a], fun x => countTrailing (x a), rfl, rfl, fun x => countTrailing_eq _⟩
  next d a =>
    cases hi
    exact ⟨[a], fun x => countOnes (x a), rfl, rfl, fun x => rfl⟩
  next d a =>
    cases hi
    exact ⟨[a], fun x => x a, rfl, rfl, fun x => rfl⟩
  next d a n =>
    cases hi
    exact ⟨[a], fun x => sext (n.toNat + 1) (x a).toNat, rfl, rfl, fun x => sext_eq _ _⟩
  next d a n =>
    cases hi
    exact ⟨[a], fun x => zext (n.toNat + 1) (x a).toNat, rfl, rfl, fun x => zext_eq _ _⟩
  · cases hi

theorem comparison_computes (hi : comparison i = some (d, f)) : Computes s cx i d f := by
  unfold comparison at hi
  split at hi
  next d a b =>
    cases hi
    exact ⟨[a, b], fun x => ofBool (x a == x b), rfl, rfl, fun x => rfl⟩
  next d a b =>
    cases hi
    exact ⟨[a, b], fun x => ofBool (x a != x b), rfl, rfl, fun x => congrArg ofBool (Bool.eq_iff_iff.mpr (by simp))⟩
  next d a b =>
    cases hi
    exact ⟨[a, b], fun x => ofBool ((x a).slt (x b)), rfl, rfl, fun x => rfl⟩
  next d a b =>
    cases hi
    exact ⟨[a, b], fun x => ofBool !(x a).slt (x b), rfl, rfl, fun x => congrArg ofBool (Bool.eq_iff_iff.mpr (by simp [BitVec.slt]))⟩
  next d a b =>
    cases hi
    exact ⟨[a, b], fun x => ofBool ((x a).ult (x b)), rfl, rfl, fun x => rfl⟩
  next d a b =>
    cases hi
    exact ⟨[a, b], fun x => ofBool !(x a).ult (x b), rfl, rfl, fun x => congrArg ofBool (Bool.eq_iff_iff.mpr (by simp [BitVec.ult]))⟩
  · cases hi

theorem immediate_computes (hi : immediate i = some (d, f)) : Computes s cx i d f := by
  unfold immediate at hi
  split at hi
  next d a k =>
    cases hi
    exact ⟨[a], fun x => x a + imm22 k, rfl, rfl, fun x => rfl⟩
  next d a k =>
    cases hi
    exact ⟨[a], fun x => x a &&& imm22 k, rfl, rfl, fun x => rfl⟩
  next d a k =>
    cases hi
    exact ⟨[a], fun x => x a ||| imm22 k, rfl, rfl, fun x => rfl⟩
  next d a k =>
    cases hi
    exact ⟨[a], fun x => x a ^^^ imm22 k, rfl, rfl, fun x => rfl⟩
  next d a k =>
    cases hi
    exact ⟨[a], fun x => x a <<< k.toNat, rfl, rfl, fun x => rfl⟩
  next d a k =>
    cases hi
    exact ⟨[a], fun x => x a >>> k.toNat, rfl, rfl, fun x => rfl⟩
  next d a k =>
    cases hi
    exact ⟨[a], fun x => (x a).sshiftRight k.toNat, rfl, rfl, fun x => rfl⟩
  next d a k =>
    cases hi
    exact ⟨[a], fun x => (x a).rotateLeft k.toNat, rfl, rfl, fun x => rfl⟩
  next d a k =>
    cases hi
    exact ⟨[a], fun x => minS (x a) (imm22 k), rfl, rfl, fun x => minS_imm22 _ _⟩
  next d a k =>
    cases hi
    exact ⟨[a], fun x => maxS (x a) (imm22 k), rfl, rfl, fun x => maxS_imm22 _ _⟩
  next d a k =>
    cases hi
    exact ⟨[a], fun x => ofBool ((x a).slt (imm22 k)), rfl, rfl, fun x => congrArg ofBool (slt_imm22 _ _)⟩
  next d a k =>
    cases hi
    exact ⟨[a], fun x => ofBool (x a == imm22 k), rfl, rfl, fun x => rfl⟩
  next d k =>
    cases hi
    exact ⟨[], fun x => imm22 k, rfl, rfl, fun x => rfl⟩
  next d k =>
    cases hi
    exact ⟨[], fun x => imm32 k, rfl, rfl, fun x => rfl⟩
  next d a k =>
    cases hi
    exact ⟨[a], fun x => k ++ (x a).setWidth 32, rfl, rfl, fun x => append_low_eq k _⟩
  next d m =>
    cases hi
    exact ⟨[m.base, m.idx], fun x => effective m x, rfl, rfl, fun x => effective_eq _ _⟩
  next d c a b =>
    cases hi
    exact ⟨[c, a, b], fun x => if x c = 0 then x b else x a, rfl, rfl, fun x => (ite_not ..).symm⟩
  · cases hi

/-- Settles O18: each instruction computes the value that its row gives; the bits that bext gathers and bdep scatters are those of
their ranks. -/
theorem arithmeticResults : Obligations.ArithmeticResults := by
  refine ⟨fun i d f s cx pc hi h hpc => hpc ▸ (arithmetic_computes hi).writes h, fun d a b s cx pc h hpc => ?_,
    fun d a b s cx pc h hpc => ?_⟩
  · refine ⟨gatherBits (readReg s cx a) (readReg s cx b),
      hpc ▸ writes_of_compute (g := fun x => gatherBits (x a) (x b)) rfl rfl h, fun k hk hb => ?_, fun j hj => ?_⟩
    · have hrank := onePositions_rank hk hb
      have hlt := (List.getElem?_eq_some_iff.mp hrank).1
      rw [gatherBits_bit _ _ (hlt.trans_le (List.length_filter_le ..)), hrank]
      rfl
    · by_cases h64 : j < 64
      · rw [gatherBits_bit _ _ h64, List.getElem?_eq_none ((onePositions_length _).trans_le hj)]
        rfl
      · exact BitVec.getLsbD_of_ge _ _ (by omega)
  · exact ⟨scatterBits (readReg s cx a) (readReg s cx b),
      hpc ▸ writes_of_compute (g := fun x => scatterBits (x a) (x b)) rfl rfl h, fun k hk => scatterBits_bit _ _ hk⟩

/-- Settles O20: each instruction computes the value that its row gives. -/
theorem immediateResults : Obligations.ImmediateResults :=
  fun _ _ _ _ _ _ hi h hpc => hpc ▸ (immediate_computes hi).writes h

/-! Encodings of the comparisons (R105). -/

theorem bits_specifier (r : Reg) : r.bits.toNat = specifier r := by
  cases r with
  | x n => exact Nat.mod_eq_of_lt (n.isLt.trans (by decide))
  | q k => exact Nat.mod_eq_of_lt (show 48 + k.val < 64 by omega)
  | e n => exact Nat.mod_eq_of_lt (show 56 + n.val < 64 by omega)

/-- Fields side by side, as numbers. -/
theorem toNat_append_eq {n m : Nat} (x : BitVec n) (y : BitVec m) : (x ++ y).toNat = x.toNat * 2 ^ m + y.toNat := by
  rw [BitVec.toNat_append, ← Nat.shiftLeft_add_eq_or_of_lt y.isLt, Nat.shiftLeft_eq]

/-- The words of the layout F1 for three registers and a minor of major 0x03 (R39, R41). -/
theorem words_comparison (d a b : Reg) (minor : BitVec 4) :
    some (Raw.words (.f1 0x3#7 { a := aReg d false, rs1 := a.bits, rs2 := b.bits, minor := minor })) =
      formF1 0x0680 (specifier d) (specifier a) (specifier b) minor.toNat := by
  rw [← bits_specifier, ← bits_specifier, ← bits_specifier]
  have hd := d.bits.isLt
  have ha := a.bits.isLt
  have hb := b.bits.isLt
  have hm := minor.isLt
  refine congrArg some (Prod.ext (BitVec.eq_of_toNat_eq ?_) (BitVec.eq_of_toNat_eq ?_))
  · show ((0x3#7 ++ 1#2 ++ (d.bits ++ 0#1) : BitVec (7 + 2 + (6 + 1)))).toNat = _
    simp only [toNat_append_eq, BitVec.toNat_ofNat]
    omega
  · show ((a.bits ++ b.bits ++ minor : BitVec (6 + 6 + 4)).setWidth 48).toNat = _
    simp only [toNat_append_eq, BitVec.toNat_ofNat, BitVec.toNat_setWidth]
    omega

/-- Major 0x03 has the minors 0 to 5 (R105). -/
theorem minor_of_comparison {f : F1} {i : Instr} (ho : fromF1 0x3#7 f = some i) : f.minor.toNat < 6 := by
  by_contra hm
  simp only [fromF1, BitVec.reduceToNat] at ho
  split at ho
  case h_7 => cases ho
  all_goals omega

theorem decode_comparison_error {head : Half} {tail : BitVec 48} (hh : head.toNat / 512 = 3) (hm : 6 ≤ tail.toNat % 16) :
    ∃ e, decode head tail = .error e := by
  have hmajor : head.extractLsb' 9 7 = 0x3#7 := BitVec.eq_of_toNat_eq (by rw [major_toNat, hh]; rfl)
  cases hd : decode head tail with
  | error e => exact ⟨e, rfl⟩
  | ok i =>
    obtain ⟨l, hl, -, ho, -⟩ := decode_eq_ok.mp hd
    rw [hmajor] at hl
    rw [cut, hmajor] at ho
    cases hl
    have hlt : ((tail.extractLsb' 0 16).extractLsb' 0 4).toNat < 6 := minor_of_comparison ho
    rw [BitVec.extractLsb'_toNat, BitVec.extractLsb'_toNat] at hlt
    omega

/-- Settles O19: each comparison computes its condition, the words are those of its fields, and no other minor decodes. -/
theorem compareResults : Obligations.CompareResults := by
  refine ⟨fun i d f s cx pc hi h hpc => hpc ▸ (comparison_computes hi).writes h, fun d a b => ?_,
    fun d a b minor hd ha hb h6 h16 => ?_⟩
  · exact ⟨words_comparison d a b 0, words_comparison d a b 1, words_comparison d a b 2, words_comparison d a b 3,
      words_comparison d a b 4, words_comparison d a b 5⟩
  · have hhead : (BitVec.ofNat 16 (0x0680 + 2 * d)).toNat / 512 = 3 := by
      rw [BitVec.toNat_ofNat]
      omega
    have htail : 6 ≤ (BitVec.ofNat 48 (1024 * a + 16 * b + minor)).toNat % 16 := by
      rw [BitVec.toNat_ofNat]
      omega
    obtain ⟨e, he⟩ := decode_comparison_error hhead htail
    exact trapsWhenMet_of_decode he

end Sys2Proof.Machine
end

section
/-! O24: the lanes that a lane instruction writes. -/

namespace Sys2Proof.Machine

open Sys2Proof.Claims

section
variable {t : ElemTy} {a b : Nat}

/-- The same bits of a lane of a type, and the same flags. -/
def LaneEq (t : ElemTy) (x y : Nat × Nat) : Prop := x.1 % 2 ^ widthOf t = y.1 % 2 ^ widthOf t ∧ x.2 = y.2

theorem ival_modEq (t : ElemTy) (a : Nat) : ival t a ≡ a [ZMOD 2 ^ widthOf t] := ival_emod t a

theorem ival_inj (ha : a < 2 ^ widthOf t) (hb : b < 2 ^ widthOf t) (h : ival t a = ival t b) : a = b := by
  have hab : (a : Int) ≡ b [ZMOD 2 ^ widthOf t] := (ival_modEq t a).symm.trans (h ▸ ival_modEq t b)
  have hn : a ≡ b [MOD 2 ^ widthOf t] := Int.natCast_modEq_iff.mp (by push_cast; exact hab)
  exact hn.eq_of_lt_of_lt ha hb

/-- An integer wraps to the bits of the number that it is congruent to (R68). -/
theorem wrapInt_of_modEq {x : Int} {n : Nat} (h : x ≡ n [ZMOD 2 ^ widthOf t]) : wrapInt t x = n % 2 ^ widthOf t := by
  have hx : x % 2 ^ widthOf t = ((n % 2 ^ widthOf t : Nat) : Int) := by
    push_cast
    exact h
  rw [wrapInt, hx, Int.toNat_natCast]

/-- A difference of lanes is that of their bits over the modulus (R68). -/
theorem sub_modEq (x : Int) (hb : b ≤ 2 ^ widthOf t) :
    x - ival t b ≡ x + (2 ^ widthOf t - b : Nat) [ZMOD 2 ^ widthOf t] := by
  rw [Nat.cast_sub hb, Nat.cast_pow, Nat.cast_ofNat, ← add_sub_assoc]
  exact Int.ModEq.sub (by simp [Int.ModEq]) (ival_modEq t b)

theorem byKind_laneEq {rm : Rnd} {r n n' : Nat} {v : FVal × Bool} (h : n % 2 ^ widthOf t = n' % 2 ^ widthOf t) :
    LaneEq t (byKind t rm r n v) (byKind t rm r n' v) := by
  unfold byKind
  split
  · exact ⟨rfl, rfl⟩
  · exact ⟨h, rfl⟩

theorem laneAdd_laneEq (rm : Rnd) (r : Nat) :
    LaneEq t (laneAdd t rm r a b) (byKind t rm r (a + b) (addVal (fval t a) (fval t b) rm)) := by
  rw [laneAdd_eq_byKind]
  exact byKind_laneEq (Nat.mod_mod _ _)

theorem laneSub_laneEq (rm : Rnd) (r : Nat) (hb : b ≤ 2 ^ widthOf t) : LaneEq t (laneSub t rm r a b)
    (byKind t rm r (a + (2 ^ widthOf t - b)) (addVal (fval t a) (fval t b).neg rm)) := by
  have hmod : ival t a - ival t b ≡ (a + (2 ^ widthOf t - b) : Nat) [ZMOD 2 ^ widthOf t] :=
    (sub_modEq _ hb).trans (by push_cast; exact (ival_modEq t a).add_right _)
  exact byKind_laneEq (by rw [wrapInt_of_modEq hmod, Nat.mod_mod])

theorem laneMul_laneEq (rm : Rnd) (r : Nat) :
    LaneEq t (laneMul t rm r a b) (byKind t rm r (a * b) (mulVal (fval t a) (fval t b))) := by
  have hmod : ival t a * ival t b ≡ (a * b : Nat) [ZMOD 2 ^ widthOf t] := by
    push_cast
    exact (ival_modEq t a).mul (ival_modEq t b)
  exact byKind_laneEq (by rw [wrapInt_of_modEq hmod, Nat.mod_mod])

theorem laneMin_eq (ha : a < 2 ^ widthOf t) (hb : b < 2 ^ widthOf t) : laneMin t a b =
    if isFloat t then fminmax t false a b else (if ival t a < ival t b then a else b, 0) := by
  unfold laneMin
  split
  · rfl
  · obtain h | h | h := Int.lt_trichotomy (ival t a) (ival t b)
    · rw [if_neg (Int.lt_asymm h), if_pos h]
    · rw [ival_inj ha hb h, ite_self]
    · rw [if_pos h, if_neg (Int.lt_asymm h)]

theorem laneMax_eq (ha : a < 2 ^ widthOf t) (hb : b < 2 ^ widthOf t) : laneMax t a b =
    if isFloat t then fminmax t true a b else (if ival t b < ival t a then a else b, 0) := by
  unfold laneMax
  split
  · rfl
  · obtain h | h | h := Int.lt_trichotomy (ival t a) (ival t b)
    · rw [if_pos h, if_neg (Int.lt_asymm h)]
    · rw [ival_inj ha hb h, ite_self]
    · rw [if_neg (Int.lt_asymm h), if_pos h]

theorem clampInt_eq (t : ElemTy) (x : Int) : clampInt t x = clampTo t x := by
  have hclamp (l h : Int) (hlh : l ≤ h) : Max.max l (Min.min h x) = if x < l then l else if h < x then h else x := by
    omega
  have hp : (1 : Int) ≤ 2 ^ (widthOf t - 1) := by exact_mod_cast Nat.one_le_two_pow
  have hw : (1 : Int) ≤ 2 ^ widthOf t := by exact_mod_cast Nat.one_le_two_pow
  unfold clampInt clampTo wrapInt
  dsimp only
  split
  · rw [hclamp _ _ (by omega)]
    simp [Nat.one_le_two_pow]
  · rw [hclamp _ _ (by omega)]
    simp [Nat.one_le_two_pow]

theorem laneAbs_laneEq (ha : a < 2 ^ widthOf t) : LaneEq t (laneAbs t a) (if isFloat t then
    if (fval t a).isNan then ((fmtOf t).nan, flagIf (fval t a).signals flagNv) else (a % 2 ^ (widthOf t - 1), 0)
    else (if ival t a < 0 then 2 ^ widthOf t - a else a, 0)) := by
  unfold laneAbs
  split
  · exact ⟨rfl, rfl⟩
  · refine ⟨?_, rfl⟩
    dsimp only
    split
    next h =>
      have hneg : ((ival t a).natAbs : Int) ≡ (2 ^ widthOf t - a : Nat) [ZMOD 2 ^ widthOf t] := by
        rw [Int.ofNat_natAbs_of_nonpos h.le]
        simpa using sub_modEq 0 ha.le
      rw [wrapInt_of_modEq hneg, Nat.mod_mod]
    next h =>
      have hpos : ((ival t a).natAbs : Int) ≡ a [ZMOD 2 ^ widthOf t] := by
        rw [Int.natAbs_of_nonneg (Int.not_lt.mp h)]
        exact ival_modEq t a
      rw [wrapInt_of_modEq hpos, Nat.mod_mod]

/-- Inverting the top bit adds it over the modulus. -/
theorem xor_top {p : Nat} (ha : a < 2 ^ (p + 1)) : a ^^^ 2 ^ p = (a + 2 ^ p) % 2 ^ (p + 1) := by
  have hlow {c : Nat} (hc : c < 2 ^ p) : c ^^^ 2 ^ p = 2 ^ p + c := by
    refine Nat.eq_of_testBit_eq fun j => ?_
    obtain h | rfl | h := Nat.lt_trichotomy j p
    · rw [Nat.testBit_two_pow_add_gt h, Nat.testBit_xor, Nat.testBit_two_pow_of_ne h.ne', Bool.xor_false]
    · rw [Nat.testBit_two_pow_add_eq, Nat.testBit_xor, Nat.testBit_two_pow_self, Bool.xor_true]
    · have hp : 2 ^ p + c < 2 ^ j := by
        have := Nat.pow_le_pow_right Nat.two_pos (show p + 1 ≤ j from h)
        omega
      rw [Nat.testBit_lt_two_pow hp, Nat.testBit_xor, Nat.testBit_two_pow_of_ne h.ne,
        Nat.testBit_lt_two_pow (Nat.lt_of_le_of_lt (Nat.le_add_left _ _) hp), Bool.xor_false]
  obtain h | h := Nat.lt_or_ge a (2 ^ p)
  · rw [hlow h, Nat.mod_eq_of_lt (by omega), Nat.add_comm]
  · obtain ⟨c, rfl⟩ := Nat.exists_eq_add_of_le h
    have hc : c < 2 ^ p := by omega
    rw [← hlow hc, Nat.xor_assoc, Nat.xor_self, Nat.xor_zero, hlow hc,
      show 2 ^ p + c + 2 ^ p = c + 2 ^ (p + 1) by omega, Nat.add_mod_right, Nat.mod_eq_of_lt (by omega)]

theorem laneNeg_laneEq (ha : a < 2 ^ widthOf t) : LaneEq t (laneNeg t a) (if isFloat t then
    if (fval t a).isNan then ((fmtOf t).nan, flagIf (fval t a).signals flagNv)
    else ((a + 2 ^ (widthOf t - 1)) % 2 ^ widthOf t, 0)
    else (2 ^ widthOf t - a, 0)) := by
  unfold laneNeg
  split
  · have hw : widthOf t - 1 + 1 = widthOf t := Nat.sub_add_cancel (widthOf_pos t)
    have hx : a ^^^ 2 ^ (widthOf t - 1) = (a + 2 ^ (widthOf t - 1)) % 2 ^ widthOf t := by
      simpa only [hw] using xor_top (p := widthOf t - 1) (hw.symm ▸ ha)
    rw [hx]
    exact ⟨rfl, rfl⟩
  · have hmod : -ival t a ≡ (2 ^ widthOf t - a : Nat) [ZMOD 2 ^ widthOf t] := by simpa using sub_modEq 0 ha.le
    exact ⟨by dsimp only; rw [wrapInt_of_modEq hmod, Nat.mod_mod], rfl⟩

/-- The bits of a lane that another does not have. -/
theorem xor_and_eq {w : Nat} (ha : a < 2 ^ w) (hb : b < 2 ^ w) : a ^^^ (a &&& b) = a &&& (2 ^ w - 1 - b) := by
  refine Nat.eq_of_testBit_eq fun j => ?_
  rw [show 2 ^ w - 1 - b = 2 ^ w - (b + 1) by omega, Nat.testBit_xor, Nat.testBit_and, Nat.testBit_and,
    Nat.testBit_two_pow_sub_succ hb]
  by_cases hj : j < w
  · cases a.testBit j <;> simp [hj]
  · have hz : a.testBit j = false :=
      Nat.testBit_lt_two_pow (ha.trans_le (Nat.pow_le_pow_right Nat.two_pos (Nat.not_lt.mp hj)))
    simp [hz]

/-- An arithmetic right shift shifts a negative lane as the complement of its complement (R119). -/
theorem laneSra_eq {w : Nat} (hw : 0 < w) (ha : a < 2 ^ w) : laneSra w a b =
    if a < 2 ^ (w - 1) then a >>> (b % w) else 2 ^ w - 1 - ((2 ^ w - 1 - a) >>> (b % w)) := by
  have htop := Nat.two_pow_pred_add_two_pow_pred hw
  have hk : (0 : Int) < 2 ^ (b % w) := by positivity
  unfold laneSra signed
  rw [Nat.mod_eq_of_lt ha, Nat.shiftRight_eq_div_pow, Nat.shiftRight_eq_div_pow]
  generalize b % w = k at hk ⊢
  split
  next h =>
    rw [if_pos (by omega)]
    have hle : a / 2 ^ k < 2 ^ w := (Nat.div_le_self _ _).trans_lt ha
    have hmod : (a : Int) / 2 ^ k % 2 ^ w = ((a / 2 ^ k : Nat) : Int) := by
      rw [← Nat.mod_eq_of_lt hle]
      norm_cast
    rw [hmod, Int.toNat_natCast]
  next h =>
    rw [if_neg (by omega)]
    generalize hc : 2 ^ w - 1 - a = c
    have hneg : (a : Int) - (2 ^ w : Nat) = Int.negSucc c := by omega
    have hle : c / 2 ^ k ≤ c := Nat.div_le_self _ _
    have hmod : (-((c : Int) / 2 ^ k + 1)) % 2 ^ w = ((2 ^ w - 1 - c / 2 ^ k : Nat) : Int) := by
      have hq : -((c : Int) / 2 ^ k + 1) + 2 ^ w = ((2 ^ w - 1 - c / 2 ^ k : Nat) : Int) := by
        rw [Nat.cast_sub (by omega), Nat.cast_sub (by omega)]
        push_cast
        ring
      have hlt : 2 ^ w - 1 - c / 2 ^ k < 2 ^ w := (Nat.sub_le _ _).trans_lt (Nat.sub_one_lt (Nat.two_pow_pos w).ne')
      rw [← Int.add_emod_right, hq, Int.emod_eq_of_lt (Int.natCast_nonneg _) (by exact_mod_cast hlt)]
    rw [hneg, Int.negSucc_ediv _ hk]
    exact (congrArg Int.toNat hmod).trans (Int.toNat_natCast _)

end

/-! What an instruction writes that fills the lanes of a row. -/

theorem testBit_unionFlags (fs : List Nat) (j : Nat) : (unionFlags fs).testBit j = fs.any (·.testBit j) := by
  have hfold (acc : Nat) : (fs.foldl (· ||| ·) acc).testBit j = (acc.testBit j || fs.any (·.testBit j)) := by
    induction fs generalizing acc with
    | nil => simp
    | cons f fs ih => rw [List.foldl_cons, ih, Nat.testBit_or, List.any_cons, Bool.or_assoc]
  exact (hfold 0).trans (by simp)

/-- The bits and flags that a row asks for: each written lane's result, every other lane's old bits, the union of the flags of the
written lanes (R90, R116). -/
structure Fills (r : LaneRow) (x : VWord × Nat) : Prop where
  lanes : ∀ k < 512 / r.width, lane r.width x.1 k = if r.act k then (r.f k).1 % 2 ^ r.width else lane r.width r.old k
  flags : ∀ j, x.2.testBit j = (List.range (512 / r.width)).any fun k => r.act k && (r.f k).2.testBit j

/-- Lanes that are merged with results which agree with those of a row fill it. -/
theorem fills_mergeLanes {r : LaneRow} {g : Nat → Nat × Nat}
    (hg : ∀ k, (g k).1 % 2 ^ r.width = (r.f k).1 % 2 ^ r.width ∧ (g k).2 = (r.f k).2) :
    Fills r (mergeLanes r.width r.old r.act g) where
  lanes k hk := by rw [lane_mergeLanes hk, (hg k).1]
  flags j := by
    unfold mergeLanes
    dsimp only
    rw [testBit_unionFlags, List.any_map, List.any_map]
    refine congrArg _ (funext fun k => ?_)
    cases ha : r.act k with
    | true => simp [ha, (hg k).2]
    | false => simp [ha]

section
variable {s : State} {cx : Ctx} {i : Instr} {r : LaneRow}

/-- A vector instruction whose result fills a row writes it. -/
theorem writesLanes_of_fills {vsrc : List VReg} {src : List Reg} {rm : Rnd} {f : Vals → Rnd → VWord × Nat}
    (hx : exec i s = vectorOp i r.vd vsrc src rm s f) (hu : usesOf s cx i = { src := src, vsrc := vsrc, vdst := [r.vd] })
    (hm : resolveRnd cx.st rm = r.mode) (hf : Fills r (f (operandsOf s cx) r.mode)) (h : Ready s cx (usesOf s cx i)) :
    WritesLanes s cx i r (successor s.cursor.header cx.st.pc) := by
  refine ⟨(f (operandsOf s cx) r.mode).1, BitVec.ofNat 64 (f (operandsOf s cx) r.mode).2, hf.lanes, fun j hj => ?_, ?_⟩
  · rw [BitVec.getLsbD_ofNat, decide_eq_true hj, Bool.true_and, hf.flags]
  · unfold vectorOp at hx
    refine completes_of_body hx h ?_ rfl (hu := hu.symm)
    rw [← hm]
    rfl

variable {vd va vb vc : VReg} {m : Reg} {t : ElemTy} {rm : Rnd} {g : Nat → Nat × Nat}

theorem lanes1_writes {f : Rnd → Nat → Nat → Nat × Nat} (hx : exec i s = lanes1 i vd va m t rm s f)
    (hu : usesOf s cx i = { src := [m], vsrc := [va], vdst := [vd] })
    (hf : ∀ k, LaneEq t (f (resolveRnd cx.st rm) (draw (operandsOf s cx) (resolveRnd cx.st rm) k)
      (lane (widthOf t) (cx.st.v va.val) k)) (g k)) (h : Ready s cx (usesOf s cx i)) :
    WritesLanes s cx i (masked (operandsOf s cx) vd m t g (resolveRnd cx.st rm)) (successor s.cursor.header cx.st.pc) :=
  writesLanes_of_fills hx hu rfl (fills_mergeLanes hf) h

theorem lanes2_writes {f : Rnd → Nat → Nat → Nat → Nat × Nat} (hx : exec i s = lanes2 i vd va vb m t rm s f)
    (hu : usesOf s cx i = { src := [m], vsrc := [va, vb], vdst := [vd] })
    (hf : ∀ k, LaneEq t (f (resolveRnd cx.st rm) (draw (operandsOf s cx) (resolveRnd cx.st rm) k)
      (lane (widthOf t) (cx.st.v va.val) k) (lane (widthOf t) (cx.st.v vb.val) k)) (g k)) (h : Ready s cx (usesOf s cx i)) :
    WritesLanes s cx i (masked (operandsOf s cx) vd m t g (resolveRnd cx.st rm)) (successor s.cursor.header cx.st.pc) :=
  writesLanes_of_fills hx hu rfl (fills_mergeLanes hf) h

theorem lanes3_writes {f : Rnd → Nat → Nat → Nat → Nat → Nat × Nat} (hx : exec i s = lanes3 i vd va vb vc m t rm s f)
    (hu : usesOf s cx i = { src := [m], vsrc := [va, vb, vc], vdst := [vd] })
    (hf : ∀ k, LaneEq t (f (resolveRnd cx.st rm) (draw (operandsOf s cx) (resolveRnd cx.st rm) k)
      (lane (widthOf t) (cx.st.v va.val) k) (lane (widthOf t) (cx.st.v vb.val) k) (lane (widthOf t) (cx.st.v vc.val) k)) (g k))
    (h : Ready s cx (usesOf s cx i)) :
    WritesLanes s cx i (masked (operandsOf s cx) vd m t g (resolveRnd cx.st rm)) (successor s.cursor.header cx.st.pc) :=
  writesLanes_of_fills hx hu rfl (fills_mergeLanes hf) h

theorem LaneEq.refl (x : Nat × Nat) : LaneEq t x x := ⟨rfl, rfl⟩

theorem LaneEq.of_eq {x y : Nat × Nat} (h : x = y) : LaneEq t x y := h ▸ .refl x

theorem LaneEq.of_bits {a b : Nat} (h : a = b) : LaneEq t (a, 0) (b, 0) := h ▸ .refl _

/-- The active lanes of a vector, packed to the bottom, fill the row that lists them (R121). -/
theorem fills_compress (v : Vals) (hits : List Nat) (hl : hits.length ≤ laneCount t) :
    Fills (masked v vd (.x 0) t fun k => ((hits[k]?.map (lane (widthOf t) (v.v va))).getD 0, 0))
      (ofLanes (widthOf t) (hits.map (lane (widthOf t) (v.v va))), 0) where
  lanes k _ := by
    have hw : widthOf t * (hits.map (lane (widthOf t) (v.v va))).length ≤ 512 := by
      rw [List.length_map]
      exact (Nat.mul_le_mul_left _ hl).trans (Nat.mul_div_le ..)
    exact (lane_ofLanes hw k).trans (by simp [masked, List.getD])
  flags j := by simp [masked]

theorem laneRow_writes (hi : laneRow (operandsOf s cx) i = some r) :
    Ready s cx (usesOf s cx i) → WritesLanes s cx i r (successor s.cursor.header cx.st.pc) := by
  unfold laneRow at hi
  split at hi
  next vd va vb m t rm =>
    cases hi
    exact lanes2_writes (f := laneAdd t) rfl rfl fun k => laneAdd_laneEq _ _
  next vd va vb m t rm =>
    cases hi
    exact lanes2_writes (f := laneSub t) rfl rfl fun k => laneSub_laneEq _ _ (lane_lt ..).le
  next vd va vb m t rm =>
    cases hi
    exact lanes2_writes (f := laneMul t) rfl rfl fun k => laneMul_laneEq _ _
  next vd va vb vc m t rm =>
    cases hi
    exact lanes3_writes (f := fun md r a b c => finish t (fmaVal (fval t a) (fval t b) (fval t c) md) md r) rfl rfl
      fun k => .refl _
  next vd va vb vc m t rm =>
    cases hi
    exact lanes3_writes (f := fun md r a b c => finish t (fmaVal (fval t a) (fval t b) (fval t c).neg md) md r) rfl rfl
      fun k => .refl _
  next vd va vb m t =>
    cases hi
    exact lanes2_writes (rm := .rne) (f := fun _ _ => laneMin t) rfl rfl fun k => .of_eq (laneMin_eq (lane_lt ..) (lane_lt ..))
  next vd va vb m t =>
    cases hi
    exact lanes2_writes (rm := .rne) (f := fun _ _ => laneMax t) rfl rfl fun k => .of_eq (laneMax_eq (lane_lt ..) (lane_lt ..))
  next vd va vb m t =>
    cases hi
    exact lanes2_writes (rm := .rne) (f := fun _ _ a b => (clampInt t (ival t a + ival t b), 0)) rfl rfl
      fun k => .of_bits (clampInt_eq t _)
  next vd va vb m t =>
    cases hi
    exact lanes2_writes (rm := .rne) (f := fun _ _ a b => (clampInt t (ival t a - ival t b), 0)) rfl rfl
      fun k => .of_bits (clampInt_eq t _)
  next vd va m t =>
    cases hi
    exact lanes1_writes (rm := .rne) (f := fun _ _ => laneAbs t) rfl rfl fun k => laneAbs_laneEq (lane_lt ..)
  next vd va m t =>
    cases hi
    exact lanes1_writes (rm := .rne) (f := fun _ _ => laneNeg t) rfl rfl fun k => laneNeg_laneEq (lane_lt ..)
  next vd va vb m t =>
    cases hi
    exact lanes2_writes (rm := .rne) (f := fun _ _ a b => (a &&& b, 0)) rfl rfl fun k => .refl _
  next vd va vb m t =>
    cases hi
    exact lanes2_writes (rm := .rne) (f := fun _ _ a b => (a ||| b, 0)) rfl rfl fun k => .refl _
  next vd va vb m t =>
    cases hi
    exact lanes2_writes (rm := .rne) (f := fun _ _ a b => (a ^^^ b, 0)) rfl rfl fun k => .refl _
  next vd va vb m t =>
    cases hi
    exact lanes2_writes (rm := .rne) (f := fun _ _ a b => (a ^^^ (a &&& b), 0)) rfl rfl
      fun k => .of_bits (xor_and_eq (lane_lt ..) (lane_lt ..))
  next vd va vb m t =>
    cases hi
    exact lanes2_writes (rm := .rne) (f := fun _ _ a b => (a * 2 ^ (b % widthOf t), 0)) rfl rfl
      fun k => .of_bits (Nat.shiftLeft_eq ..).symm
  next vd va vb m t =>
    cases hi
    exact lanes2_writes (rm := .rne) (f := fun _ _ a b => (a / 2 ^ (b % widthOf t), 0)) rfl rfl
      fun k => .of_bits (Nat.shiftRight_eq_div_pow ..).symm
  next vd va vb m t =>
    cases hi
    exact lanes2_writes (rm := .rne) (f := fun _ _ a b => (laneSra (widthOf t) a b, 0)) rfl rfl
      fun k => .of_bits (laneSra_eq (widthOf_pos t) (lane_lt ..))
  next vd va vb m t =>
    cases hi
    exact writesLanes_of_fills (vsrc := [va, vb]) (src := [m]) (rm := .rne)
      (f := fun v _ => mergeLanes (widthOf t) (v.v vb) (active v m) fun k => (lane (widthOf t) (v.v va) k, 0))
      rfl rfl rfl (fills_mergeLanes fun _ => ⟨rfl, rfl⟩)
  next vd va m t =>
    cases hi
    exact lanes1_writes (rm := .rne) (f := fun _ _ a => (a, 0)) rfl rfl fun k => .refl _
  next vd xs m t =>
    cases hi
    exact writesLanes_of_fills (vsrc := []) (src := [xs, m]) (rm := .rne)
      (f := fun v _ => mergeLanes (widthOf t) (v.cx.st.v vd.val) (active v m) fun _ => ((v.x xs).toNat, 0))
      rfl rfl rfl (fills_mergeLanes fun _ => ⟨rfl, rfl⟩)
  next vd xs xi t =>
    cases hi
    exact writesLanes_of_fills (vsrc := []) (src := [xs, xi]) (rm := .rne)
      (f := fun v _ => mergeLanes (widthOf t) (v.cx.st.v vd.val) (fun k => k == (v.x xi).toNat % laneCount t) fun _ => ((v.x xs).toNat, 0))
      rfl rfl rfl (fills_mergeLanes fun _ => ⟨rfl, rfl⟩)
  next vd va vb m t =>
    cases hi
    exact writesLanes_of_fills (vsrc := [va, vb]) (src := [m]) (rm := .rne)
      (f := fun v _ => mergeLanes (widthOf t) (v.cx.st.v vd.val) (active v m)
        fun k => (lane (widthOf t) (v.v va) (lane (widthOf t) (v.v vb) k % laneCount t), 0))
      rfl rfl rfl (fills_mergeLanes fun _ => ⟨rfl, rfl⟩)
  next vd va m t =>
    cases hi
    exact writesLanes_of_fills (vsrc := [va]) (src := [m]) (rm := .rne) (f := fun v _ =>
      (ofLanes (widthOf t) (((List.range (laneCount t)).filter (active v m)).map (lane (widthOf t) (v.v va))), 0))
      rfl rfl rfl (fills_compress _ _ ((List.length_filter_le ..).trans List.length_range.le))
  next vd va m t =>
    cases hi
    exact writesLanes_of_fills (vsrc := [va]) (src := [m]) (rm := .rne)
      (f := fun v _ => mergeLanes (widthOf t) (v.cx.st.v vd.val) (active v m)
        fun k => (lane (widthOf t) (v.v va) ((List.range k).filter (active v m)).length, 0))
      rfl rfl rfl (fills_mergeLanes fun _ => ⟨rfl, rfl⟩)
  next vd va vb m t rm =>
    cases hi
    exact lanes2_writes (f := fun md r a b => roundFn t (divVal (fval t a) (fval t b)) md r) rfl rfl fun k => .refl _
  next vd va m t rm =>
    cases hi
    exact lanes1_writes (f := fun md r a => roundFn t (sqrtVal (fval t a)) md r) rfl rfl fun k => .refl _
  next vd va m t rm =>
    cases hi
    exact lanes1_writes (f := fun md r a => roundFn t (rsqVal (fval t a)) md r) rfl rfl fun k => .refl _
  next vd va m t rm =>
    cases hi
    exact lanes1_writes (f := fun md r a => roundFn t (rcpVal (fval t a)) md r) rfl rfl fun k => .refl _
  next vd va m t rm =>
    cases hi
    exact lanes1_writes (f := fun md r a => roundFn t (exp2Val (fval t a)) md r) rfl rfl fun k => .refl _
  next vd va m t rm =>
    cases hi
    exact lanes1_writes (f := fun md r a => roundFn t (log2Val (fval t a)) md r) rfl rfl fun k => .refl _
  · cases hi

/-- Settles O24: each instruction merges, or packs, the lanes of its row. -/
theorem vectorLanes : Obligations.VectorLanes :=
  fun _ _ _ _ _ _ h hi hpc => hpc ▸ laneRow_writes hi h

end

end Sys2Proof.Machine
end

section
/-! O25: the elements that a conversion writes. -/

namespace Sys2Proof.Machine

open Sys2Proof.Claims

/-! Conversions (R125). -/

theorem mergeLanes_congr {w : Nat} {old : VWord} {act act' : Nat → Bool} {f f' : Nat → Nat × Nat}
    (h : ∀ k < 512 / w, act k = act' k ∧ (act' k = true → f k = f' k)) : mergeLanes w old act f = mergeLanes w old act' f' := by
  have hrs : ((List.range (512 / w)).map fun k => if act k then f k else (lane w old k, 0)) =
      (List.range (512 / w)).map fun k => if act' k then f' k else (lane w old k, 0) := by
    refine List.map_congr_left fun k hk => ?_
    obtain ⟨ha, hf⟩ := h k (List.mem_range.mp hk)
    rw [ha]
    split
    next h1 => exact hf h1
    next => rfl
  unfold mergeLanes
  rw [hrs]

/-- The elements of a part are lanes that are merged: those at and after its base, as many as the shorter list has. -/
theorem convertPart_eq_mergeLanes (old src : VWord) (st t : ElemTy) (part : Nat) (act : Nat → Bool) (f : Nat → Nat → Nat × Nat)
    {cnt base : Nat} (hc : cnt = Nat.min (laneCount st) (laneCount t))
    (hb : base = if laneCount st < laneCount t then part * cnt else 0) :
    convertPart old src st t part act f = mergeLanes (widthOf t) old
      (fun k => decide (base ≤ k) && decide (k < base + cnt) && act (k - base))
      fun k => f k (lane (widthOf st) src (k - base + if laneCount t < laneCount st then part * cnt else 0)) := by
  subst hc hb
  unfold convertPart mergeLanes
  simp only [Bool.and_eq_true, decide_eq_true_eq, and_assoc]
  rfl

variable {s : State} {cx : Ctx} {i : Instr} {r : LaneRow}

theorem convertPart_eq_partRow (v : Vals) (vd va : VReg) (m : Reg) (t st : ElemTy) (part : Nat) (md : Rnd)
    (f : Nat → Nat → Nat × Nat) (hr : r = partRow v vd va m t st part md f) :
    convertPart (v.cx.st.v vd.val) (v.v va) st t part (active v m) f = mergeLanes r.width r.old r.act r.f := by
  subst hr
  rw [convertPart_eq_mergeLanes _ _ _ _ _ _ _ rfl rfl]
  refine mergeLanes_congr fun k hk => ?_
  unfold partRow
  have hk : k < laneCount t := hk
  change _ = (if laneCount st < laneCount t then _ else _) ∧ (_ → _ = if laneCount st < laneCount t then _ else _)
  by_cases h : laneCount st < laneCount t
  · have hcnt : Nat.min (laneCount st) (laneCount t) = laneCount st := Nat.min_eq_left h.le
    simp only [if_pos h, if_neg h.asymm, hcnt]
    exact ⟨rfl, fun _ => rfl⟩
  · have hcnt : Nat.min (laneCount st) (laneCount t) = laneCount t := Nat.min_eq_right (Nat.not_lt.mp h)
    simp only [if_neg h, hcnt, Nat.sub_zero, Nat.zero_le, Nat.zero_add, decide_true, hk, Bool.true_and]
    exact ⟨rfl, fun _ => rfl⟩

/-- A conversion of one part fills the row of that part. -/
theorem convertPart_writes {vd va : VReg} {m : Reg} {t st : ElemTy} {rm : Rnd} {part : Nat} {src : List Reg}
    {f : Vals → Rnd → Nat → Nat → Nat × Nat}
    (hx : exec i s = vectorOp i vd [va] src rm s fun v md =>
      convertPart (v.cx.st.v vd.val) (v.v va) st t part (active v m) (f v md))
    (hu : usesOf s cx i = { src := src, vsrc := [va], vdst := [vd] })
    (hr : r = partRow (operandsOf s cx) vd va m t st part (resolveRnd cx.st rm) (f (operandsOf s cx) (resolveRnd cx.st rm)))
    (h : Ready s cx (usesOf s cx i)) : WritesLanes s cx i r (successor s.cursor.header cx.st.pc) := by
  have hfill : Fills r (mergeLanes r.width r.old r.act r.f) := fills_mergeLanes fun _ => ⟨rfl, rfl⟩
  rw [← convertPart_eq_partRow _ _ _ _ _ _ _ _ _ hr] at hfill
  subst hr
  exact writesLanes_of_fills hx hu rfl hfill h

theorem nanScale_eq (t : ElemTy) :
    ((fmtOf t).nan, flagIf (t == .e2m1) flagNv) = if t = .e2m1 then (0, 16) else ((fmtOf t).nan, 0) := by
  cases t <;> rfl

theorem scale_eq (w : Word) : (w.setWidth 8).toNat = w.toNat % 256 := BitVec.toNat_setWidth ..

theorem conversionRow_writes (hi : conversionRow (operandsOf s cx) i = some r) :
    Ready s cx (usesOf s cx i) → WritesLanes s cx i r (successor s.cursor.header cx.st.pc) := by
  unfold conversionRow at hi
  split at hi
  next vd va m t rm st part sat =>
    cases hi
    exact convertPart_writes (f := fun v md k a => convert st t a md sat (draw v md k)) rfl rfl rfl
  next vd va xs m t rm st part sat =>
    cases hi
    refine convertPart_writes (f := fun v md k a => if (v.x xs).toNat % 256 = 255 then ((fmtOf t).nan, flagIf (t == .e2m1) flagNv)
      else roundTo t ((fval st a).scale (127 - ((v.x xs).toNat % 256 : Nat))) md sat (draw v md k)) rfl rfl ?_
    simp only [nanScale_eq, scale_eq]
    rfl
  next vd va xs m t rm st part =>
    cases hi
    refine convertPart_writes (f := fun v md k a => if (v.x xs).toNat % 256 = 255 then ((fmtOf t).nan, 0)
      else roundTo t ((fval st a).scale (((v.x xs).toNat % 256 : Nat) - 127)) md false (draw v md k)) rfl rfl ?_
    simp only [scale_eq]
    rfl
  · cases hi

/-- Settles O25: each conversion merges the elements of its part. -/
theorem vectorConversions : Obligations.VectorConversions :=
  fun _ _ _ _ _ _ h hi hpc => hpc ▸ conversionRow_writes hi h

end Sys2Proof.Machine
end

section
/-! O27: the scalars of vector comparisons, extractions and reductions. -/

namespace Sys2Proof.Machine

open Sys2Proof.Claims

variable {s : State} {cx : Ctx} {i : Instr} {d : Reg} {m : Reg} {t : ElemTy} {rm : Rnd}

/-- An instruction that computes one scalar of vector lanes retires with it. -/
theorem scalarOp_completes {vsrc : List VReg} {src : List Reg} {f : Vals → Rnd → Word × Nat}
    (hx : exec i s = scalarOp i d vsrc src rm s f) (hu : usesOf s cx i = { src := src, vsrc := vsrc, dst := [d] })
    (h : Ready s cx (usesOf s cx i)) :
    Completes i s cx (usesOf s cx i)
      { s := s, st := cx.st, xs := [(d, (f (operandsOf s cx) (resolveRnd cx.st rm)).1)]
        flags := BitVec.ofNat 64 (f (operandsOf s cx) (resolveRnd cx.st rm)).2, sto := decide (resolveRnd cx.st rm = .sto) }
      (successor s.cursor.header cx.st.pc) := by
  unfold scalarOp at hx
  exact completes_of_body hx h rfl rfl (hu := hu.symm)

/-! Comparisons (R120). -/

/-- Whether two lanes are unordered. -/
def unordered (t : ElemTy) (a b : Nat) : Bool := isFloat t && ((fval t a).isNan || (fval t b).isNan)

/-- A number whose sign is the order of two lanes. -/
def orderOf (t : ElemTy) (a b : Nat) : Int := if isFloat t then cmpVal (fval t a) (fval t b) else ival t a - ival t b

theorem cmpVal_sign (a b : FVal) : (cmpVal a b).sign = cmpVal a b := by
  have hsgn (n : Bool) : (if n then (-1 : Int) else 1).sign = if n then -1 else 1 := by cases n <;> rfl
  have hord (z : Int) : (if z < 0 then (-1 : Int) else if z = 0 then 0 else 1).sign =
      if z < 0 then -1 else if z = 0 then 0 else 1 := by
    split
    · rfl
    · split <;> rfl
  unfold cmpVal
  dsimp only
  split
  · split
    · rfl
    · exact hsgn _
  · exact hsgn _
  · rw [Int.sign_neg, hsgn]
  · exact hord _
  · rfl

theorem laneOrder_fst (t : ElemTy) (a b : Nat) :
    (laneOrder t a b).1 = if unordered t a b then none else some (orderOf t a b).sign := by
  unfold laneOrder unordered orderOf
  cases isFloat t with
  | true => simp [cmpVal_sign]
  | false =>
    obtain h | h | h := Int.lt_trichotomy (ival t a) (ival t b)
    · simp [h, Int.sign_eq_neg_one_of_neg (Int.sub_neg_of_lt h)]
    · simp [h]
    · simp [h.not_gt, h.ne', Int.sign_eq_one_of_pos (Int.sub_pos_of_lt h)]

theorem laneOrder_snd (t : ElemTy) (a b : Nat) :
    (laneOrder t a b).2 = flagIf (isFloat t && ((fval t a).signals || (fval t b).signals)) flagNv := by
  unfold laneOrder
  cases isFloat t <;> rfl

theorem unionFlags_flagIf (l : List Nat) (q : Nat → Bool) (n : Nat) :
    unionFlags (l.map fun k => flagIf (q k) n) = flagIf (l.any q) n := by
  have hbit (b : Bool) (j : Nat) : (flagIf b n).testBit j = (b && n.testBit j) := by cases b <;> simp [flagIf]
  refine Nat.eq_of_testBit_eq fun j => ?_
  rw [testBit_unionFlags, List.any_map, hbit]
  induction l with
  | nil => rfl
  | cons k l ih => rw [List.any_cons, List.any_cons, ih, Function.comp_apply, hbit, Bool.and_or_distrib_right]

theorem compare_completes {va vb : VReg} {p : Option Int → Bool} {c : Nat → Nat → Bool}
    (hx : exec i s = compare i d va vb m t s p) (hu : usesOf s cx i = { src := [m], vsrc := [va, vb], dst := [d] })
    (hc : ∀ a b, p (laneOrder t a b).1 = c a b) (h : Ready s cx (usesOf s cx i)) :
    let x := fun k => lane (widthOf t) (cx.st.v va.val) k
    let y := fun k => lane (widthOf t) (cx.st.v vb.val) k
    let act := fun k => decide (k < 512 / widthOf t) && (decide (m = .x 0) || (readReg s cx m).getLsbD k)
    ∃ r : Word, (∀ k < 64, r.getLsbD k = (act k && c (x k) (y k))) ∧
      Completes i s cx (usesOf s cx i)
        { s := s, st := cx.st, xs := [(d, r)],
          flags := if (((List.range (512 / widthOf t)).any fun k => act k && isFloat t &&
          ((fval t (x k)).signals || (fval t (y k)).signals)) = true) then 16 else 0 } (successor s.cursor.header cx.st.pc) := by
  intro x y act
  let on (k : Nat) : Bool := decide (m = .x 0) || (readReg s cx m).getLsbD k
  let rs := (List.range (laneCount t)).map fun k =>
    if on k then (if p (laneOrder t (x k) (y k)).1 then 2 ^ k else 0, (laneOrder t (x k) (y k)).2) else (0, 0)
  have hbits : rs.map (·.1) = (List.range (laneCount t)).map fun k => if on k && c (x k) (y k) then 2 ^ k else 0 := by
    rw [List.map_map]
    refine List.map_congr_left fun k _ => ?_
    rw [Function.comp_apply, hc]
    cases on k <;> rfl
  have hflags : rs.map (·.2) = (List.range (512 / widthOf t)).map fun k =>
      flagIf (act k && isFloat t && ((fval t (x k)).signals || (fval t (y k)).signals)) flagNv := by
    rw [List.map_map]
    refine List.map_congr_left fun k hk => ?_
    have hact : act k = on k := by simp [act, on, show k < 512 / widthOf t from List.mem_range.mp hk]
    rw [Function.comp_apply, hact, laneOrder_snd, Bool.and_assoc]
    cases on k <;> rfl
  refine ⟨BitVec.ofNat 64 ((rs.map (·.1)).foldl (· + ·) 0), fun k hk => ?_, ?_⟩
  · have hrange : ((List.range (laneCount t)).map id).Pairwise (· < ·) := by
      rw [List.map_id]
      exact List.pairwise_lt_range
    rw [BitVec.getLsbD_ofNat, decide_eq_true hk, Bool.true_and, hbits]
    refine (testBit_sum_two_pow hrange (fun k => on k && c (x k) (y k)) k).trans ?_
    rw [Bool.eq_iff_iff]
    simp only [List.any_eq_true, List.mem_range, Bool.and_eq_true, beq_iff_eq, act, decide_eq_true_eq, id]
    exact ⟨fun ⟨j, hj, ⟨hon, hcj⟩, hjk⟩ => hjk ▸ ⟨⟨hj, hon⟩, hcj⟩,
      fun ⟨⟨hj, hon⟩, hcj⟩ => ⟨k, hj, ⟨hon, hcj⟩, rfl⟩⟩
  · have hnv (b : Bool) : BitVec.ofNat 64 (flagIf b flagNv) = if b = true then 16 else 0 := by cases b <;> rfl
    rw [← hnv, ← unionFlags_flagIf]
    unfold compare at hx
    have hdone := scalarOp_completes hx hu h
    rw [← hflags]
    exact hdone

/-- A comparison by the order of two lanes, where its condition is given by whether they are unordered and by the sign of their order. -/
theorem compares_of {va vb : VReg} (p : Option Int → Bool) (h : Bool → Int → Bool) (hx : exec i s = compare i d va vb m t s p)
    (hu : usesOf s cx i = { src := [m], vsrc := [va, vb], dst := [d] })
    (hc : ∀ a b, compareHolds i t a b = h (unordered t a b) (orderOf t a b)) (hun : ∀ c, p none = h true c)
    (hord : ∀ c : Int, p (some c.sign) = h false c) :
    ∃ p, exec i s = compare i d va vb m t s p ∧ usesOf s cx i = { src := [m], vsrc := [va, vb], dst := [d] } ∧
      ∀ a b, p (laneOrder t a b).1 = compareHolds i t a b := by
  refine ⟨p, hx, hu, fun a b => ?_⟩
  rw [hc, laneOrder_fst]
  cases unordered t a b with
  | true => exact hun _
  | false => exact hord _

/-- The condition of each comparison, of the order that it is given, is the one that its row names. -/
theorem comparesLanes_compare {va vb : VReg} (hi : comparesLanes i = some (d, va, vb, m, t)) :
    ∃ p, exec i s = compare i d va vb m t s p ∧ usesOf s cx i = { src := [m], vsrc := [va, vb], dst := [d] } ∧
      ∀ a b, p (laneOrder t a b).1 = compareHolds i t a b := by
  unfold comparesLanes at hi
  split at hi
  next =>
    cases hi
    exact compares_of (fun o => o == some 0) (fun un c => !un && decide (c = 0)) rfl rfl (fun _ _ => rfl) (fun _ => rfl)
      fun c => Bool.eq_iff_iff.mpr (by simp)
  next =>
    cases hi
    exact compares_of (fun o => o != some 0) (fun un c => un || decide (c ≠ 0)) rfl rfl (fun _ _ => rfl) (fun _ => rfl)
      fun c => Bool.eq_iff_iff.mpr (by simp)
  next =>
    cases hi
    exact compares_of (fun o => o == some (-1)) (fun un c => !un && decide (c < 0)) rfl rfl (fun _ _ => rfl) (fun _ => rfl)
      fun c => Bool.eq_iff_iff.mpr (by simp [Int.sign_eq_neg_one_iff_neg])
  next =>
    cases hi
    exact compares_of (fun o => o == some (-1) || o == some 0) (fun un c => !un && decide (c ≤ 0)) rfl rfl (fun _ _ => rfl) (fun _ => rfl)
      fun c => Bool.eq_iff_iff.mpr (by simp [Int.sign_eq_neg_one_iff_neg, Int.le_iff_lt_or_eq])
  next =>
    cases hi
    exact compares_of (fun o => o == some 1) (fun un c => !un && decide (0 < c)) rfl rfl (fun _ _ => rfl) (fun _ => rfl)
      fun c => Bool.eq_iff_iff.mpr (by simp [Int.sign_eq_one_iff_pos])
  next =>
    cases hi
    exact compares_of (fun o => o == some 1 || o == some 0) (fun un c => !un && decide (0 ≤ c)) rfl rfl (fun _ _ => rfl) (fun _ => rfl)
      fun c => Bool.eq_iff_iff.mpr (by simp [Int.sign_eq_one_iff_pos]; omega)
  next =>
    cases hi
    exact compares_of (fun o => o == none) (fun un _ => un) rfl rfl (fun _ _ => rfl) (fun _ => rfl) fun _ => rfl
  · cases hi

/-! Lanes as scalars (R121, R122). -/

theorem extend_eq (t : ElemTy) (b : Nat) :
    extend t b = if isSignedTy t then BitVec.ofInt 64 (ival t b) else BitVec.ofNat 64 (b % 2 ^ widthOf t) := by
  unfold extend sext ival
  cases isSignedTy t <;> rfl

/-! The tree of R95. -/

section
variable (op : Nat → Nat → Nat → Nat × Nat)

/-- The node of a level that combines its two children. -/
def treeNode (leaf : Nat → Nat) (l k : Nat) : Nat × Nat := op (64 * l + k) (level op leaf l (2 * k)) (level op leaf l (2 * k + 1))

theorem pairUp_nodes (g : Nat → Nat) (i n : Nat) :
    (pairUp op i ((List.range' (2 * i) (2 * n)).map g)).1 = (List.range' i n).map (fun k => (op k (g (2 * k)) (g (2 * k + 1))).1) ∧
      ∀ j, (pairUp op i ((List.range' (2 * i) (2 * n)).map g)).2.testBit j =
        (List.range' i n).any fun k => (op k (g (2 * k)) (g (2 * k + 1))).2.testBit j := by
  induction n generalizing i with
  | zero => exact ⟨rfl, fun j => by simp [pairUp]⟩
  | succ n ih =>
    obtain ⟨hv, hf⟩ := ih (i + 1)
    rw [Nat.mul_succ, List.range'_succ, List.range'_succ, List.map_cons, List.map_cons, pairUp]
    refine ⟨?_, fun j => ?_⟩
    · rw [List.range'_succ, List.map_cons]
      exact congrArg _ hv
    · rw [List.range'_succ, List.any_cons, ← hf]
      exact Nat.testBit_or ..

/-- The tree over the nodes of a level ends in the one node of the level n above it, and its flags are those of the nodes
between. -/
theorem tree_level (leaf : Nat → Nat) (n l : Nat) :
    (tree op n (l + 1) ((List.range (2 ^ n)).map (level op leaf l))).1 = level op leaf (l + n) 0 ∧
      ∀ j, (tree op n (l + 1) ((List.range (2 ^ n)).map (level op leaf l))).2.testBit j =
        (List.range n).any fun i => (List.range (2 ^ (n - 1 - i))).any fun k => (treeNode op leaf (l + i) k).2.testBit j := by
  induction n generalizing l with
  | zero => exact ⟨rfl, fun j => by simp [tree]⟩
  | succ n ih =>
    obtain ⟨hv, hf⟩ := ih (l + 1)
    obtain ⟨hpv, hpf⟩ := pairUp_nodes (fun i => op ((l + 1 - 1) * 64 + i)) (level op leaf l) 0 (2 ^ n)
    have hnode (k : Nat) : op ((l + 1 - 1) * 64 + k) (level op leaf l (2 * k)) (level op leaf l (2 * k + 1)) =
        treeNode op leaf l k := by rw [Nat.add_sub_cancel, Nat.mul_comm l 64, treeNode]
    rw [← Nat.pow_succ', ← List.range_eq_range', ← List.range_eq_range'] at hpv hpf
    have hnext : (pairUp (fun i => op ((l + 1 - 1) * 64 + i)) 0 ((List.range (2 ^ (n + 1))).map (level op leaf l))).1 =
        (List.range (2 ^ n)).map (level op leaf (l + 1)) :=
      hpv.trans (List.map_congr_left fun k _ => congrArg (·.1) (hnode k))
    unfold tree
    dsimp only
    rw [hnext]
    refine ⟨by rw [hv, Nat.add_right_comm, Nat.add_assoc], fun j => ?_⟩
    rw [Nat.testBit_or, hpf, hf, List.range_succ_eq_map, List.any_cons, List.any_map]
    refine congr (congrArg _ (congrArg _ (funext fun k => congrArg (·.2.testBit j) (hnode k)))) (congrArg _ (funext fun i => ?_))
    rw [Function.comp_apply, show n + 1 - 1 - (i + 1) = n - 1 - i by omega, show l + (i + 1) = l + 1 + i by omega]

end

/-! Reductions (R122). -/

theorem two_pow_log2_laneCount (t : ElemTy) : 2 ^ (512 / widthOf t).log2 = 512 / widthOf t := by cases t <;> rfl

/-- A reduction retires with the top of the tree over its leaves, extended, and with the flags of its nodes (R95, R122). -/
def ReducesTo (s : State) (cx : Ctx) (i : Instr) (d : Reg) (t : ElemTy) (md : Rnd) (leaf : Nat → Nat)
    (op : Nat → Nat → Nat → Nat × Nat) (ext : Nat → Word) : Prop :=
  ∃ fl : Word, (∀ j < 64, fl.getLsbD j = levelFlag op leaf (512 / widthOf t).log2 j) ∧
    Completes i s cx (usesOf s cx i)
      { s := s, st := cx.st, xs := [(d, ext (level op leaf (512 / widthOf t).log2 0))],
        flags := fl, sto := decide (md = .sto) } (successor s.cursor.header cx.st.pc)

/-- The leaf of a lane: its bits, or the identity of the operation for an inactive lane. -/
def leafOf (s : State) (cx : Ctx) (va : VReg) (m : Reg) (t : ElemTy) (ident : Nat) (pre : Nat → Nat) (k : Nat) : Nat :=
  pre (if decide (m = .x 0) || (readReg s cx m).getLsbD k then lane (widthOf t) (cx.st.v va.val) k else ident)

theorem reduce_completes {va : VReg} {md : Rnd} {ident : Nat} {pre : Nat → Nat} {f : Rnd → Nat → Nat → Nat → Nat × Nat}
    {op : Nat → Nat → Nat → Nat × Nat} {ext ext' : Nat → Word} (hx : exec i s = reduce i d va m t rm ident s pre f ext)
    (hu : usesOf s cx i = { src := [m], vsrc := [va], dst := [d] }) (hm : resolveRnd cx.st rm = md)
    (hop : ∀ k a b, f md (draw (operandsOf s cx) md k) a b = op k a b) (he : ∀ n, ext n = ext' n)
    (h : Ready s cx (usesOf s cx i)) :
    ReducesTo s cx i d t md (leafOf s cx va m t ident pre) op ext' := by
  obtain rfl : (fun k => f md (draw (operandsOf s cx) md k)) = op := funext fun k => funext fun a => funext fun b => hop k a b
  obtain rfl : ext = ext' := funext he
  subst hm
  set leaf := leafOf s cx va m t ident pre
  set op := fun k => f (resolveRnd cx.st rm) (draw (operandsOf s cx) (resolveRnd cx.st rm) k)
  obtain ⟨hv, hf⟩ := tree_level op leaf (512 / widthOf t).log2 0
  have hleaves : (activeLanes (operandsOf s cx) m t va ident).map pre =
      (List.range (2 ^ (512 / widthOf t).log2)).map (level op leaf 0) := by
    rw [two_pow_log2_laneCount, activeLanes, List.map_map]
    rfl
  rw [← hleaves] at hv hf
  refine ⟨BitVec.ofNat 64 (tree op (512 / widthOf t).log2 1 ((activeLanes (operandsOf s cx) m t va ident).map pre)).2,
    fun j hj => ?_, ?_⟩
  · rw [BitVec.getLsbD_ofNat, decide_eq_true hj, Bool.true_and]
    refine (hf j).trans ?_
    simp only [Nat.zero_add]
    rfl
  · rw [← hv.trans (congrArg (level op leaf · 0) (Nat.zero_add _))]
    unfold reduce at hx
    exact scalarOp_completes hx hu h

theorem reduction_completes {va : VReg} {md : Rnd} {ident : Nat} {pre : Nat → Nat} {op : Nat → Nat → Nat → Nat × Nat}
    {ext : Nat → Word} (hi : reduction (operandsOf s cx) i = some (d, va, m, t, md, ident, pre, op, ext)) :
    Ready s cx (usesOf s cx i) →
    ReducesTo s cx i d t md (leafOf s cx va m t ident pre) op ext := by
  unfold reduction at hi
  split at hi
  next d va m t rm =>
    cases hi
    exact reduce_completes (rm := rm) (f := laneAdd t) rfl rfl rfl (fun k a b => laneAdd_eq_byKind ..) (extend_eq t)
  next d va m t =>
    cases hi
    exact reduce_completes (rm := .rne) (f := fun _ _ => laneMax t) rfl rfl rfl (fun _ _ _ => rfl) (extend_eq t)
  next d va m t =>
    cases hi
    exact reduce_completes (rm := .rne) (f := fun _ _ => laneMin t) rfl rfl rfl (fun _ _ _ => rfl) (extend_eq t)
  next d va m t =>
    cases hi
    exact reduce_completes (i := .vamax d va m t) (rm := .rne)
      (f := fun _ _ a b => if isFloat t then fminmax t true a b else (Nat.max a b, 0))
      rfl rfl rfl (fun _ a b => by rw [show Nat.max a b = if a < b then b else a from max_def_lt a b]) fun _ => rfl
  · cases hi

/-- Settles O27: a comparison sums the bits of its lanes, an extraction extends its lane, and a reduction is the tree over its
leaves. -/
theorem vectorScalars : Obligations.VectorScalars := by
  refine ⟨fun i d a b m t s cx pc hi _ h hpc => ?_, fun d va xi t s cx pc h hpc => ?_,
    fun i d va m t md ident pre op ext s cx pc hi _ h hpc => hpc ▸ reduction_completes hi h⟩
  · obtain ⟨p, hx, hu, hp⟩ := comparesLanes_compare (s := s) (cx := cx) hi
    exact hpc ▸ compare_completes hx hu hp h
  · have hd := scalarOp_completes (i := .vextr d va xi t) (rm := .rne) (f := fun v _ =>
      (extend t (lane (widthOf t) (v.v va) ((v.x xi).toNat % laneCount t)), 0)) rfl rfl h
    rw [hpc]
    intro e
    have he : extend t e = if isSignedTy t then BitVec.ofInt 64 (ival t e) else BitVec.ofNat 64 e := by
      rw [extend_eq, Nat.mod_eq_of_lt (lane_lt ..)]
    rw [← he]
    exact hd

end Sys2Proof.Machine
end

section
/-! O28: what vnzx pushes, and when it waits. -/

namespace Sys2Proof.Machine

open Sys2Proof.Claims

/-! Pushes. -/

theorem pushPort_cursor (s : State) (st : Strand) (k tag : Nat) (data : Option Word) (batch : Nat) :
    (pushPort s st k tag data batch).1.cursor = s.cursor := by
  unfold pushPort
  split
  · rfl
  · dsimp only
    split
    · rw [sendElem_frame]
    · rw [sendElem_frame]

/-- In a list without repetition the place of an element is the number of its first occurrence. -/
theorem zipIdx_eq_map_idxOf {l : List Nat} (hl : l.Nodup) : l.zipIdx = l.map fun k => (k, l.idxOf k) :=
  List.ext_getElem (by simp) fun j _ hj => by
    simp [hl.idxOf_getElem j (by simpa using hj)]

/-- The state and the strand after pushes in turn: of each its port, its data, and how many become visible with it. -/
def pushAll (p : State × Strand) (es : List (Nat × Word × Nat)) : State × Strand :=
  es.foldl (fun (p : State × Strand) e => pushPort p.1 p.2 e.1 0 (some e.2.1) e.2.2) p

/-- The elements that a port gets of lanes, each with how many follow it (R129). -/
def laneElems (hits : List Nat) (port : Nat) (f : Nat → Word) : List (Nat × Word × Nat) :=
  hits.map fun k => (port, f k, hits.length - 1 - hits.idxOf k)

/-- Pushes of lanes to one port in turn, each with its place. -/
def pushLanes (hits : List Nat) (port : Nat) (f : Nat → Word) (p : State × Strand) : State × Strand :=
  hits.zipIdx.foldl (fun p i => pushPort p.1 p.2 port 0 (some (f i.1)) (batch := hits.length - 1 - i.2)) p

theorem pushAll_laneElems {hits : List Nat} (hn : hits.Nodup) (port : Nat) (f : Nat → Word) (p : State × Strand) :
    pushAll p (laneElems hits port f) = pushLanes hits port f p := by
  unfold pushAll laneElems pushLanes
  rw [zipIdx_eq_map_idxOf hn, List.foldl_map, List.foldl_map]

theorem pushAll_append (p : State × Strand) (es fs : List (Nat × Word × Nat)) :
    pushAll p (es ++ fs) = pushAll (pushAll p es) fs := List.foldl_append

theorem pushAll_cursor (es : List (Nat × Word × Nat)) (p : State × Strand) : (pushAll p es).1.cursor = p.1.cursor :=
  foldl_field (·.1.cursor) _ (fun _ _ => pushPort_cursor ..) es p

/-! Room. -/

/-- The ports of a strand that are bound to cross-die rings. -/
def farPorts (s : State) (st : Strand) (ports : List Nat) : List Nat :=
  ports.filter fun k => (portOf st k).any fun p => (s.queue p.queue).any fun q => q.kind == 2

/-- Room for n elements at each occurrence of a port, those for cross-die rings together within the count (R22, R129). -/
def RoomAt (s : State) (st : Strand) (ports : List Nat) (n : Nat) : Prop :=
  (∀ k ∈ ports, hasRoom s st k (n * ports.count k) = true) ∧
    (farPorts s st ports ≠ [] → st.remote + n * (farPorts s st ports).length ≤ 4095)

theorem portFull_eq_none_iff (s : State) (st : Strand) (ports : List Nat) (n : Nat) :
    portFull s st ports n = none ↔ RoomAt s st ports n := by
  have hfull : portFull s st ports n = ports.find? fun k => !hasRoom s st k (n * ports.count k) ||
      ((farPorts s st ports).contains k && decide (4095 < st.remote + n * (farPorts s st ports).length)) := rfl
  rw [hfull, List.find?_eq_none]
  constructor
  · intro h
    refine ⟨fun k hk => ?_, fun hfar => ?_⟩
    · simpa using (by simpa using h k hk : _ ∧ _).1
    · obtain ⟨k, hk⟩ := List.exists_mem_of_ne_nil _ hfar
      have hcount := (by simpa using h k (List.mem_filter.mp hk).1 : _ ∧ _).2
      exact hcount hk
  · rintro ⟨hroom, hfar⟩ k hk
    have hcount : k ∈ farPorts s st ports → st.remote + n * (farPorts s st ports).length ≤ 4095 :=
      fun h => hfar (List.ne_nil_of_mem h)
    simpa [hroom k hk] using hcount

/-- The elements of a queue: in its ring, on their way, and held. -/
def elementsAt (s : State) (q : Nat) : Option (List Elem × List Elem × List Elem) :=
  (s.queue q).map fun e => (e.ring, e.transit, e.held)

/-- Waiting for room notes a producer at the queue, and nothing else of a state but that the strand stands. -/
theorem awaitCredit_keeps (s : State) (qn : Nat) (w : Waiter) :
    awaitCredit s qn w = { s with queues := (awaitCredit s qn w).queues } ∧
      ∀ q, elementsAt (awaitCredit s qn w) q = elementsAt s q := by
  unfold awaitCredit
  split
  next e he =>
    split
    · exact ⟨rfl, fun _ => rfl⟩
    · refine ⟨rfl, fun q => ?_⟩
      unfold elementsAt
      rw [State.queue_setQueue]
      split
      next h => rw [h, he]; rfl
      · rfl
  · exact ⟨rfl, fun _ => rfl⟩

/-- A state in which a strand stands: of another state only what queues note of waiting producers differs. -/
structure StandsStill (s t : State) : Prop where
  stalled : t.cursor.stalled = true
  strands : t.strands = s.strands
  mem : t.mem = s.mem
  elements : ∀ q, elementsAt t q = elementsAt s q

theorem stall_standsStill (s : State) : StandsStill s (stall s) := ⟨rfl, rfl, rfl, fun _ => rfl⟩

theorem waitRoom_standsStill (s : State) (st : Strand) (k : Nat) : StandsStill s (waitRoom s st k) := by
  unfold waitRoom
  split
  next p hp =>
    obtain ⟨hs, hq⟩ := awaitCredit_keeps s p.queue { rank := st.rank, gen := st.gen }
    exact ⟨rfl, congrArg (·.strands) hs, congrArg (·.mem) hs, hq⟩
  · exact stall_standsStill s

/-! vnzx. -/

section
variable {s : State} {cx : Ctx} {qi qv xb m : Reg} {va : VReg} {t : ElemTy}

/-- The active non-zero lanes of a vector, in ascending order (R128). -/
def nonzeroLanes (s : State) (cx : Ctx) (va : VReg) (m : Reg) (t : ElemTy) : List Nat :=
  (List.range (laneCount t)).filter fun i =>
    active (operandsOf s cx) m i && laneNonzero t (lane (widthOf t) (cx.st.v va.val) i)

/-- The ports that vnzx pushes to. -/
def vnzxPorts (qi qv : Reg) : List Nat := portNum qi :: if qv = .x 0 then [] else [portNum qv]

/-- What vnzx pushes: to its index port base + lane, to its value port the lane (R128). -/
def vnzxPushed (s : State) (cx : Ctx) (qi : Reg) (va : VReg) (qv xb m : Reg) (t : ElemTy) : List (Nat × Word × Nat) :=
  let hits := nonzeroLanes s cx va m t
  laneElems hits (portNum qi) (fun k => readReg s cx xb + BitVec.ofNat 64 k) ++
    if qv = .x 0 then []
    else laneElems hits (portNum qv) fun k => BitVec.ofNat 64 (lane (widthOf t) (cx.st.v va.val) k)

theorem pushAll_vnzxPushed (p : State × Strand) : pushAll p (vnzxPushed s cx qi va qv xb m t) =
    let hits := nonzeroLanes s cx va m t
    let p := pushLanes hits (portNum qi) (fun k => readReg s cx xb + BitVec.ofNat 64 k) p
    if qv = .x 0 then p
    else pushLanes hits (portNum qv) (fun k => BitVec.ofNat 64 (lane (widthOf t) (cx.st.v va.val) k)) p := by
  have hn : (nonzeroLanes s cx va m t).Nodup := List.nodup_range.filter _
  unfold vnzxPushed
  dsimp only
  rw [pushAll_append, pushAll_laneElems hn]
  split
  · rfl
  · exact pushAll_laneElems hn ..

/-- What vnzx does with its operands: it waits, or pushes what it has (R128, R129). -/
def vnzxEffect (s : State) (cx : Ctx) (qi : Reg) (va : VReg) (qv xb m : Reg) (t : ElemTy) : Except Stop Done :=
  let k := (nonzeroLanes s cx va m t).length
  if k ≠ 0 ∧ fenced s cx.st then .error .stall
  else match if k = 0 then none else portFull s cx.st (vnzxPorts qi qv) k with
  | some port => .error (.keep (waitRoom s cx.st port))
  | none =>
    let p := pushAll (s, cx.st) (vnzxPushed s cx qi va qv xb m t)
    .ok { s := p.1, st := { p.2 with qfence := p.2.qfence && k == 0 } }

theorem exec_vnzx : ∃ uses body, exec (.vnzx qi va qv xb m t) s = issue (.vnzx qi va qv xb m t) uses s body ∧
    uses cx = usesOf s cx (.vnzx qi va qv xb m t) ∧ body (operandsOf s cx) = vnzxEffect s cx qi va qv xb m t := by
  refine ⟨_, _, rfl, rfl, ?_⟩
  unfold vnzxEffect
  rw [pushAll_vnzxPushed]
  rfl

theorem vnzxEffect_pushes (h : nonzeroLanes s cx va m t = [] ∨ (fenced s cx.st = false ∧
    RoomAt s cx.st (vnzxPorts qi qv) (nonzeroLanes s cx va m t).length)) :
    let p := pushAll (s, cx.st) (vnzxPushed s cx qi va qv xb m t)
    vnzxEffect s cx qi va qv xb m t =
      .ok { s := p.1, st := { p.2 with qfence := p.2.qfence && (nonzeroLanes s cx va m t).isEmpty } } := by
  unfold vnzxEffect
  rcases h with h | ⟨hf, hr⟩
  · simp [h]
  · have hk : ((nonzeroLanes s cx va m t).length == 0) = (nonzeroLanes s cx va m t).isEmpty := by
      cases nonzeroLanes s cx va m t <;> rfl
    simp [hf, (portFull_eq_none_iff ..).mpr hr, hk]

/-- With a lane to push and no room for all, vnzx leaves its strand where it stands. -/
theorem vnzxEffect_waits (hk : nonzeroLanes s cx va m t ≠ [])
    (hr : ¬RoomAt s cx.st (vnzxPorts qi qv) (nonzeroLanes s cx va m t).length) :
    ∃ e, vnzxEffect s cx qi va qv xb m t = .error e ∧ StandsStill s (stopped s cx e) := by
  unfold vnzxEffect
  simp only [ne_eq, List.length_eq_zero_iff, hk, not_false_eq_true, true_and, if_false]
  by_cases hf : fenced s cx.st
  · exact ⟨_, if_pos hf, stall_standsStill s⟩
  · obtain ⟨k, hfull⟩ := Option.ne_none_iff_exists'.mp (mt (portFull_eq_none_iff ..).mp hr)
    exact ⟨.keep (waitRoom s cx.st k), by rw [if_neg hf, hfull], waitRoom_standsStill s cx.st k⟩

end

/-- Settles O28: vnzx pushes the elements of its lanes when all have room, and stands otherwise. -/
theorem vnzxPushes : Obligations.VnzxPushes := by
  intro qi va qv xb m t s cx h
  obtain ⟨uses, body, hx, hu, hb⟩ := exec_vnzx (qi := qi) (va := va) (qv := qv) (xb := xb) (m := m) (t := t) (s := s) (cx := cx)
  have hlanes : nonzeroLanes s cx va m t = (List.range (512 / widthOf t)).filter fun k =>
      (decide (m = .x 0) || (readReg s cx m).getLsbD k) &&
      (if isFloat t then decide (lane (widthOf t) (cx.st.v va.val) k % 2 ^ (widthOf t - 1) ≠ 0)
        else decide (lane (widthOf t) (cx.st.v va.val) k ≠ 0)) := by
    refine List.filter_congr fun k _ => congrArg₂ _ rfl ?_
    unfold laneNonzero
    split
    · exact Bool.eq_iff_iff.mpr (by simp)
    · exact Bool.eq_iff_iff.mpr (by simp)
  intro w hits
  have hhits : hits = nonzeroLanes s cx va m t := hlanes.symm
  clear_value hits
  subst hhits
  intro ports far room left pushed
  refine ⟨fun hp pc hpc => ?_, fun hk hr => ?_⟩
  · subst hpc
    exact completes_of_body hx h (hb.trans (vnzxEffect_pushes hp)) (pushAll_cursor _ _) (hu := hu)
  · obtain ⟨e, he, hstill⟩ := vnzxEffect_waits hk hr
    exact ⟨_, hx.trans (issue_stops _ uses body (hu ▸ h) (hb.trans he)), hstill.stalled, hstill.strands, hstill.mem,
      hstill.elements⟩

end Sys2Proof.Machine
end

section
/-! O42: the arbiter's order and the level of a strand. -/

namespace Sys2Proof.Machine

open Sys2Proof.Claims

/-- Core 0 with two ready strands: one of level 0 in slot 0, one of level 4 in slot 1, neither passed over. -/
def levelsApart : State :=
  { strands := [(placeKey 0 0, { kind := .inst, gen := 1, stage := 0, rank := 0, lid := 0, level := 0 }),
      (placeKey 0 1, { kind := .inst, gen := 2, stage := 0, rank := 0, lid := 0, level := 4 })] }

theorem candidates_levelsApart : candidates levelsApart 0 = [1, 0] := by decide

theorem not_before_of_pair {a b : Nat} (h : a ≠ b) : ¬Before [b, a] a b := by
  rintro ⟨us, vs, ws, hxs⟩
  cases us with
  | nil => exact h (List.cons.inj hxs).1.symm
  | cons u us =>
    have hlen := congrArg List.length hxs
    simp only [List.length_cons, List.length_nil, List.length_append] at hlen
    omega

/-- Refutes O42: no field of the state bounds the level of a strand, and the arbiter's aged level lists the strands of level 4
with the aged ones, so that of two ready strands that have not been passed over the one of level 4 comes before the one of level 0. -/
theorem not_arbiterAndQueueEvents : ¬ Obligations.ArbiterAndQueueEvents := by
  rintro ⟨-, -, -, -, horder⟩
  have hboth : 0 ∈ candidates levelsApart 0 ∧ 1 ∈ candidates levelsApart 0 := by
    rw [candidates_levelsApart]
    exact ⟨by simp, by simp⟩
  have hclass : issueClass levelsApart 0 0 = 3 ∧ issueClass levelsApart 0 1 = 7 := by decide
  have hbefore := (horder levelsApart 0 0 1 hboth.1 hboth.2).1 (by rw [hclass.1, hclass.2]; decide)
  rw [candidates_levelsApart] at hbefore
  exact not_before_of_pair (by decide) hbefore

end Sys2Proof.Machine
end

section
/-! O47: a row handler in the slot of the supervisor strand, with a message to acknowledge to that strand. -/

namespace Sys2Proof.Machine

open Sys2Proof.Claims

/-- A row handler with the message of generation 0, which is the supervisor strand's. -/
def messagedHandler : Strand :=
  { kind := .handler, gen := 1, stage := 0, rank := 0, lid := 0
    message := some { handler := 0, payload := [], sender := 0, senderPkg := 0, lid := 0, depth := 0, part := none
                      source := some 0, gen := 0, seq := 0 } }

/-- It issues from the supervisor slot of core 0, a dense core. -/
def handlerInSupervisorSlot : State :=
  { strands := [(placeKey 0 supervisorSlot, messagedHandler)], cores := [(0, { supRunning := true })]
    cursor := { core := 0, slot := supervisorSlot } }

/-- The handler as it issues. -/
def messagedContext : Ctx := { core := 0, slot := supervisorSlot, st := messagedHandler }

/-- A row out to scratchpad whose mask, x1, names no column. -/
def emptyRowout : Instr := .rowout (.x 1) (.x 1) 0 .bf16 .rne 1 false

theorem emptyRowout_columns : Claims.columnsOf handlerInSupervisorSlot messagedContext (.x 1) = [] := by decide

theorem emptyRowout_ready :
    Ready handlerInSupervisorSlot messagedContext (usesOf handlerInSupervisorSlot messagedContext emptyRowout) where
  strand := rfl
  legal := by decide
  level := nofun
  kind _ := by decide
  bound := by decide
  noFault := engineFault_none rfl rfl rfl rfl
  paid := nofun
  valid _ := rfl
  free := by decide
  acquired h := absurd (by decide) h
  heads := by decide
  owedNot := nofun
  units _ := rfl
  outFree := by decide
  data := by decide
  clean _ _ := rfl
  room h := absurd rfl h

/-- The acknowledgement lists the supervisor strand in the slot that the handler has left. -/
theorem emptyRowout_leaves_strand {t : State} (h : exec emptyRowout handlerInSupervisorSlot = .next t) :
    (t.strands.find (placeKey 0 supervisorSlot)).isSome = true := by
  have hrun : (match exec emptyRowout handlerInSupervisorSlot with
    | .next t => (t.strands.find (placeKey 0 supervisorSlot)).isSome
    | _ => false) = true := by decide
  rwa [h] at hrun

/-- Refutes O47: nothing keeps a row handler out of the supervisor slot, nor from holding a message. Where a handler there ends
with a message of the supervisor strand of its core, the acknowledgement of the message lists that strand in the slot, which the
statement says is empty. -/
theorem not_tileIssue : ¬ Obligations.TileIssue := by
  rintro ⟨-, -, -, -, -, -, -, -, -, -, hpad, -, -⟩
  have hnone {p : Nat → Prop} : ∀ j ∈ Claims.columnsOf handlerInSupervisorSlot messagedContext (.x 1), p j := by
    simp [emptyRowout_columns]
  obtain ⟨t, ht, -, hslot, -⟩ := hpad (.x 1) (.x 1) 0 .bf16 .rne false handlerInSupervisorSlot messagedContext
    emptyRowout_ready (.inl rfl) hnone (by decide)
  have hstays := emptyRowout_leaves_strand ht
  rw [show t.strands.find (placeKey 0 supervisorSlot) = none from hslot] at hstays
  exact absurd hstays (by decide)

end Sys2Proof.Machine
end

section
/-! O33: what atomics, fences and pref do up to their issue. -/

namespace Sys2Proof.Machine

open Sys2Proof.Claims

variable {s : State} {cx : Ctx} {i : Instr}

/-- A ready instruction whose effect must wait leaves the machine as it is. -/
theorem waits_of_body {uses : Ctx → Uses} {body : Vals → Except Stop Done} {u : Uses} (hx : exec i s = issue i uses s body)
    (h : Ready s cx u) (hb : body (operandsOf s cx) = .error .stall) (hu : uses cx = u := by rfl) : Waits i s := by
  subst hu
  exact hx.trans (issue_stops i uses body h hb)

/-! Atomics. -/

theorem reserve_cursor (s : State) (st : Strand) (d : Reg) : (reserve s st d).1.cursor = s.cursor := by
  unfold reserve
  split
  · split <;> rfl
  · exact pushPort_cursor ..
  · rfl

theorem zipIdx_swap_eq_readsOf (cells : List Nat) : cells.zipIdx.map (fun c => (c.2, c.1)) = readsOf cells := by
  simp only [readsOf, Nat.zero_add]

theorem placeReach_eq (p : BitVec 2) : placeReach p.toNat = if p = 2 then .ship else .die :=
  if_congr (BitVec.toNat_eq (y := 2)).symm rfl rfl

theorem atomicOf_exec {op : AmoOp} {d a b : Reg} {md : AmoMod} (hi : atomicOf i = some (op, d, a, b, md)) :
    exec i s = atomic i op d a b md s ∧ usesOf s cx i = regs (if op = .cas then [a, b, d] else [a, b]) [d] := by
  unfold atomicOf at hi
  split at hi
  all_goals cases hi
  all_goals exact ⟨rfl, rfl⟩

/-! Fences. -/

theorem strandReading_eq_false_iff : strandReading s cx.core cx.st = false ↔
    (∀ a ∈ cx.st.pend, a.op.reads = true → a.performed = true) ∧
      ∀ o ∈ (s.core cx.core).ops, o.gen = cx.st.gen → o.seq < cx.st.nextSeq → o.readsLeft = false := by
  simp [strandReading, earlierOps]

theorem passesRelease_iff (scope : Scope) (a : Access) : passesRelease scope a = true ↔ settled scope a := by
  unfold passesRelease settled
  cases a.op <;> cases scope <;> simp

theorem ringsOf_contains_iff (scope : Scope) (k : Nat) : (ringsOf scope).contains k = true ↔
    k = 0 ∨ (k = 1 ∧ scope ≠ .core) ∨ (k = 2 ∧ scope ≠ .core ∧ scope ≠ .die) := by
  cases scope <;> simp [ringsOf]

theorem releaseReady_iff (scope : Scope) :
    releaseReady s cx.core cx.st cx.st.nextSeq scope = true ↔ releaseWaitsMet s cx scope := by
  unfold releaseReady releaseWaitsMet
  rw [Bool.and_eq_true, Bool.and_eq_true, and_assoc]
  refine and_congr ?_ (and_congr ?_ ?_)
  · simp [passesRelease_iff]
  · simp only [List.all_eq_true, Bool.or_eq_true, Bool.not_eq_true', ← ringsOf_contains_iff]
    refine forall₂_congr fun q _ => ?_
    cases (ringsOf scope).contains q.2.kind <;> simp
  · simp [earlierOps, or_assoc, imp_iff_not_or]

/-- What an atomic leaves outstanding: `st` is its strand with the operation counted. -/
def atomicBegins (s : State) (cx : Ctx) (op : AmoOp) (d a b : Reg) (md : AmoMod) (cells : List Nat) : Done :=
  let n := if md.wide then 8 else 4
  let r := reserve (touchEnds s cx.core (readReg s cx a) n) { cx.st with st := cx.st.st + 1 } d
  { s := r.1
    st := r.2.1.begin { noAccess (.atomic op md.wide md.place.toNat (readReg s cx b) (if op = .cas then readReg s cx d else 0)) with
      addr := readReg s cx a, ord := md.ord, scope := md.scope, dest := r.2.2, spans := [(readReg s cx a, n)],
      reads := readsOf cells, writes := cells.map fun c => (c, 0) } }

/-- What stops a fence: a read outstanding before an acquire, a wait of its release not met. -/
def fenceHeld (s : State) (cx : Ctx) (scope : Scope) (ord : Ord) : Prop :=
  ((ord == .acq || ord == .acqrel) = true ∧ strandReading s cx.core cx.st = true) ∨
    ((ord == .rel || ord == .acqrel) = true ∧ releaseReady s cx.core cx.st cx.st.nextSeq scope = false)

theorem not_fenceHeld_iff {scope : Scope} {ord : Ord} (hord : ord ≠ .plain) : ¬fenceHeld s cx scope ord ↔
    (ord ≠ .rel → (∀ a ∈ cx.st.pend, a.op.reads = true → a.performed = true) ∧
      ∀ o ∈ (s.core cx.core).ops, o.gen = cx.st.gen → o.seq < cx.st.nextSeq → o.readsLeft = false) ∧
    (ord ≠ .acq → releaseWaitsMet s cx scope) := by
  unfold fenceHeld
  rw [not_or, ← strandReading_eq_false_iff, ← releaseReady_iff]
  cases ord with
  | plain => exact absurd rfl hord
  | acq => simp
  | rel => simp
  | acqrel => simp

/-- Settles O33: the checks pass, so an atomic retires with its operation outstanding; a fence waits exactly as long as one of its
waits is not met; pref has no effect. -/
theorem atomicsFencesPref : Obligations.AtomicsFencesPref := by
  refine ⟨fun i op d a b md s cx hi h hst => ?_, fun scope ord s cx hord h => ?_, fun level m s cx pc h hpc => ?_⟩
  · obtain ⟨hx, hu⟩ := atomicOf_exec (s := s) (cx := cx) hi
    rw [hu] at h ⊢
    unfold atomic at hx
    refine ⟨fun ht hal => ?_, fun hal cells pc hc hpc => ?_⟩
    · refine trapsAt_of_body hx h (e := .trap .misaligned _) ?_ rfl ht rfl
      simp only [countSt_of_lt (st := (operandsOf s cx).cx.st) hst]
      exact if_pos hal
    · subst hpc
      refine completes_of_body (d := atomicBegins s cx op d a b md cells) hx h ?_
        ((reserve_cursor _ _ _).trans (touchEnds_cursor _ _ _ _))
      have hn : ¬(readReg s cx a).toNat % (if md.wide = true then 8 else 4) ≠ 0 := not_not.mpr hal
      simp only [operandsOf, countSt_of_lt hst, hn, if_false, placeReach_eq, hc, zipIdx_swap_eq_readsOf]
      rfl
  · intro met
    rw [show met ↔ _ from (not_fenceHeld_iff hord).symm]
    have hx : exec (.fence scope ord) s = execFence scope ord s := rfl
    unfold execFence at hx
    refine ⟨fun hm pc hpc => ?_, fun hm => waits_of_body hx h ?_⟩
    · subst hpc
      obtain ⟨hacq, hrel⟩ := not_or.mp hm
      refine completes_of_body hx h ?_ rfl
      exact (if_neg hacq).trans (if_neg hrel)
    · refine (em _).elim (fun hacq => if_pos hacq) fun hacq => (if_neg hacq).trans (if_pos ?_)
      exact (not_not.mp hm).resolve_left hacq
  · subst hpc
    exact completes_of_body (body := fun v => results v []) rfl h rfl rfl

end Sys2Proof.Machine
end

section
/-! O39: the report of a token whose tag does not fit in the three bits of a tag. -/

namespace Sys2Proof.Machine

open Sys2Proof.Claims

/-- A consumer of queue 0 at its port 0. -/
def peeker : Strand := { kind := .inst, gen := 1, stage := 0, rank := 0, lid := 0, ports := [(0, { queue := 0, out := false })] }

/-- The queue holds a token of tag 8 that the consumer has not taken. -/
def wideToken : Queue :=
  { gen := 0, lid := 0, kind := 0, die := 0, depth := 1
    ring := [{ tag := 8, data := some 0, gen := 2, rank := 0, seq := 0, left := [1] }] }

/-- The consumer issues from slot 0 of core 0, at the first head of a line of 31. -/
def tagged : State :=
  { strands := [(placeKey 0 0, peeker)], queues := [(0, wideToken)], cursor := { core := 0, slot := 0, header := 0xF800 } }

/-- The consumer as it issues. -/
def peekContext : Ctx := { core := 0, slot := 0, st := peeker }

/-- It reports the head into x1 and x2. -/
def peek : Instr := .qpeek (.x 1) (.x 2) (.q 0)

theorem peek_ready : Ready tagged peekContext (usesOf tagged peekContext peek) where
  strand := by decide
  legal := by decide
  level := nofun
  kind := nofun
  bound := by decide
  noFault := engineFault_none rfl rfl rfl rfl
  paid := nofun
  valid _ := rfl
  free := nofun
  acquired h := absurd rfl h
  heads := nofun
  owedNot := nofun
  units h := h.elim (absurd rfl) (absurd rfl)
  outFree := by decide
  data := nofun
  clean := nofun
  room h := absurd rfl h

/-- The report reads 8, as that of a data element does: bit 3 of the tag falls on the bit that says an element is present. -/
theorem peek_reports {t : State} (h : exec peek tagged = .next t) : (t.strand 0 0).map (·.x 2) = some 8 := by
  have hrun : (match exec peek tagged with
    | .next t => (t.strand 0 0).map (·.x 2)
    | _ => none) = some 8 := by decide
  rwa [h] at hrun

/-- Refutes O39: the model holds the tag of an element as a number, and nothing keeps it below 8. Of a head token of tag 8 the
statement asks the report 8 + 8, but qpeek sets bit 3 beside the bits of the tag and writes 8. -/
theorem not_queueInstructions : ¬ Obligations.QueueInstructions := by
  rintro ⟨-, hreport, -⟩
  obtain ⟨-, htoken, -⟩ := hreport peek (.x 1) (.x 2) 0 tagged peekContext _ _ (.inr rfl) peek_ready rfl rfl rfl
  obtain ⟨t0, t, ht, ⟨⟨st, hst, -, hx, -⟩, -, -⟩, rfl⟩ := htoken _ rfl rfl (by decide)
  have hreads := peek_reports ht
  rw [show t.strand 0 0 = some st from hst, Option.map_some, hx 2] at hreads
  exact absurd hreads (by decide)

end Sys2Proof.Machine
end

section
/-! O44: what refs, sread and swrite do up to their acceptance. -/

namespace Sys2Proof.Machine

open Sys2Proof.Claims

variable {s : State} {cx : Ctx} {i : Instr} {v : Vals} {r : Fin 48} {cn : Option (BitVec 4)} {pc : Word}

/-! Commands that complete at once, and commands that are accepted. -/

theorem statusWord_ok : statusWord true 0 0 0 = 1 := by decide

theorem statusWord_failed (cause : Nat) : statusWord false cause 0 0 = failed cause := by
  simp [statusWord, failed, put, putBit, Nat.mul_comm]

section

variable {uses : Ctx → Uses} {body : Vals → Except Stop Done} (hx : exec i s = issue i uses s body)
  (hu : uses cx = usesOf s cx i) (h : Ready s cx (usesOf s cx i)) (hv : v.cx = cx) (hc : v.s.cursor = s.cursor)
  (hpc : pc = successor s.cursor.header cx.st.pc)

include hx hu h hv hc hpc

theorem endsAtOnce_of_doneAtOnce {ok : Bool} {cause : Nat}
    (hb : body (operandsOf s cx) = doneAtOnce v (.x r) cn ok cause) :
    EndsAtOnce i s v.s cx (.x r) cn (statusWord ok cause 0 0) pc := by
  subst hpc hv
  refine ⟨fun hcp => ?_, fun hcp => waits_of_body hx h (hb.trans (if_pos hcp)) hu⟩
  exact completes_of_body hx h (hb.trans (if_neg (Nat.not_le.mpr hcp))) hc (hu := hu)

theorem accepts_of_accept {o : EngineOp} {locks : List RangeLock} (hb : body (operandsOf s cx) = accept v o locks) :
    Accepts i s v.s cx o locks pc := by
  subst hpc hv
  unfold accept at hb
  refine ⟨fun c hcp hl => ?_, fun hw => waits_of_body hx h ?_ hu⟩
  · simp only [Nat.not_le.mpr hcp, if_false, hl] at hb
    exact completes_of_body hx h hb hc (hu := hu)
  · by_cases hcp : 63 ≤ v.cx.st.cp
    · exact hb.trans (if_pos hcp)
    · simpa only [hcp, if_false, hw.resolve_left hcp] using hb

end

/-! The ranges of a command. -/

/-- A touch of the L1 TLB leaves the rest of each core. -/
theorem core_touch (s : State) (core : Nat) (a : Word) (k : Nat) : ∃ l, (touch s core a).core k = { s.core k with tlb := l } := by
  unfold touch
  dsimp only
  split
  · by_cases hk : k = core
    · subst hk
      exact ⟨_, State.core_setCore_self ..⟩
    · exact ⟨_, (State.core_setCore ..).trans (if_neg hk)⟩
  · exact ⟨_, rfl⟩

theorem touch_nextOp (s : State) (core : Nat) (a : Word) (k : Nat) : ((touch s core a).core k).nextOp = (s.core k).nextOp := by
  obtain ⟨l, h⟩ := core_touch s core a k
  rw [h]

theorem touchedBy_nextOp (rs : List (Word × Nat)) : ((touchedBy s cx rs).core cx.core).nextOp = (s.core cx.core).nextOp :=
  foldl_field (fun s => (s.core cx.core).nextOp) _ (fun _ _ => (touch_nextOp ..).trans (touch_nextOp ..)) rs s

theorem touchedBy_cursor (rs : List (Word × Nat)) : (touchedBy s cx rs).cursor = s.cursor :=
  foldl_field (·.cursor) _ (fun _ _ => touchEnds_cursor ..) rs s

/-- The operands of a command once the translations of its ranges are in the L1 TLB. -/
def touchedOperands (s : State) (cx : Ctx) (rs : List (Word × Nat)) : Vals := { operandsOf s cx with s := touchedBy s cx rs }

theorem newOp_touchedOperands (rs : List (Word × Nat)) (kind : EngineKind) (r : Reg) (scope : Scope) :
    newOp (touchedOperands s cx rs) kind r cn scope = newOp (operandsOf s cx) kind r cn scope := by
  unfold newOp
  rw [show ((touchedOperands s cx rs).s.core (touchedOperands s cx rs).cx.core).nextOp = _ from touchedBy_nextOp rs]
  rfl

/-- A command whose ranges pass their checks goes on with their translations in the L1 TLB. -/
theorem checkRanges_of_good {rs : List (Bool × Word × Nat)} (h : ∀ r ∈ rs, RangeGood s cx r.1 r.2.1 r.2.2) :
    checkRanges (operandsOf s cx) rs = .ok (touchedOperands s cx (rs.map (·.2))) := by
  have hf : failedRange (operandsOf s cx) rs = none := by
    induction rs with
    | nil => rfl
    | cons r rs ih =>
      unfold failedRange
      rw [show rangeCheck (operandsOf s cx).s (partyOf (operandsOf s cx).cx.core (operandsOf s cx).cx.st) r.1 r.2.1 r.2.2 = _ from
        h r List.mem_cons_self]
      exact ih fun q hq => h q (List.mem_cons_of_mem _ hq)
  unfold checkRanges touchedOperands touchedBy
  rw [hf, List.foldl_map]
  rfl

/-! Storage commands. -/

/-- What an sread or swrite does once it is ready. -/
def storageEffect (s : State) (cx : Ctx) (write : Bool) (r ns lba count mem : Reg) (cn : Option (BitVec 4)) : Except Stop Done :=
  let h := readReg s cx ns
  let cnt := (readReg s cx count).toNat
  let a := readReg s cx mem
  let port := bits h 34 32
  let part := (partOf s cx.core).bind s.parts.find
  if cnt = 0 then doneAtOnce (operandsOf s cx) r cn true 0
  else if bits h 63 35 ≠ 0 ∨ 65536 < cnt then doneAtOnce (operandsOf s cx) r cn false 1
  else match namespaceAt s port (bits h 31 0), s.pkg.rootPorts.contains port && part.any fun p => p.ports.testBit port with
  | some nsp, true =>
    match checkRanges (operandsOf s cx) [(!write, a, cnt * nsp.blockBytes)] with
    | .error e => .error e
    | .ok v =>
      if nsp.blocks < (v.x lba).toNat + cnt then doneAtOnce v r cn false 6
      else
        let o0 := newOp v (if write then .swrite else .sread) r cn .core
        let o := { o0 with
          src := if write then a else o0.src, dst := if write then o0.dst else a, len := cnt * nsp.blockBytes, port := port
          nsid := bits h 31 0, lba := (v.x lba).toNat, count := cnt }
        accept v o (if onDie v.s v.cx.core a (cnt * nsp.blockBytes) then [memRange o 4 (!write) a (cnt * nsp.blockBytes)] else [])
  | _, _ => doneAtOnce (operandsOf s cx) r cn false 7

/-- The instruction of a storage command. -/
def storage (write : Bool) (r ns lba count mem : Reg) (cn : Option (BitVec 4)) : Instr :=
  if write then .swrite r ns lba count mem cn else .sread r ns lba count mem cn

theorem exec_storage (write : Bool) (r ns lba count mem : Reg) : ∃ uses body,
    exec (storage write r ns lba count mem cn) s = issue (storage write r ns lba count mem cn) uses s body ∧
      uses cx = usesOf s cx (storage write r ns lba count mem cn) ∧
      body (operandsOf s cx) = storageEffect s cx write r ns lba count mem cn := by
  cases write
  · exact ⟨_, _, rfl, rfl, rfl⟩
  · exact ⟨_, _, rfl, rfl, rfl⟩

/-- The reach of a namespace, as the issue of a storage command finds it. -/
theorem reaches_iff (port : Nat) (part : Option Partition) :
    (s.pkg.rootPorts.contains port && part.any fun p => p.ports.testBit port) = true ↔
      s.pkg.rootPorts.contains port = true ∧ ∃ p, part = some p ∧ p.ports.testBit port = true := by
  cases part <;> simp

section

variable {write : Bool} {r0 ns lba count mem : Reg} (hcnt : (readReg s cx count).toNat ≠ 0)
  (hvalid : ¬(bits (readReg s cx ns) 63 35 ≠ 0 ∨ 65536 < (readReg s cx count).toNat))

include hcnt hvalid

theorem storageEffect_unreached (hno : ¬(s.pkg.rootPorts.contains (bits (readReg s cx ns) 34 32) = true ∧
      ∃ p, (partOf s cx.core).bind s.parts.find = some p ∧ p.ports.testBit (bits (readReg s cx ns) 34 32) = true) ∨
      namespaceAt s (bits (readReg s cx ns) 34 32) (bits (readReg s cx ns) 31 0) = none) :
    storageEffect s cx write r0 ns lba count mem cn = doneAtOnce (operandsOf s cx) r0 cn false 7 := by
  refine (if_neg hcnt).trans ((if_neg hvalid).trans ?_)
  rw [← reaches_iff] at hno
  split
  next hn hreach => exact absurd hreach (hno.resolve_right (by simp [hn]))
  · rfl

theorem storageEffect_reached {n : Namespace} (hreach : s.pkg.rootPorts.contains (bits (readReg s cx ns) 34 32) = true ∧
      ∃ p, (partOf s cx.core).bind s.parts.find = some p ∧ p.ports.testBit (bits (readReg s cx ns) 34 32) = true)
    (hn : namespaceAt s (bits (readReg s cx ns) 34 32) (bits (readReg s cx ns) 31 0) = some n)
    (hg : RangeGood s cx (!write) (readReg s cx mem) ((readReg s cx count).toNat * n.blockBytes)) :
    storageEffect s cx write r0 ns lba count mem cn =
      let a := readReg s cx mem
      let len := (readReg s cx count).toNat * n.blockBytes
      let v := touchedOperands s cx [(a, len)]
      if n.blocks < (readReg s cx lba).toNat + (readReg s cx count).toNat then doneAtOnce v r0 cn false 6
      else
        let o0 := newOp (operandsOf s cx) (if write then .swrite else .sread) r0 cn .core
        let o := { o0 with
          src := if write then a else o0.src, dst := if write then o0.dst else a, len := len
          port := bits (readReg s cx ns) 34 32, nsid := bits (readReg s cx ns) 31 0, lba := (readReg s cx lba).toNat
          count := (readReg s cx count).toNat }
        accept v o (if onDie v.s cx.core a len then [memRange o 4 (!write) a len] else []) := by
  refine (if_neg hcnt).trans ((if_neg hvalid).trans ?_)
  rw [← reaches_iff] at hreach
  have hc := checkRanges_of_good (rs := [(!write, readReg s cx mem, (readReg s cx count).toNat * n.blockBytes)]) (by simpa using hg)
  simp only [hn, hreach, hc, newOp_touchedOperands]
  rfl

end

theorem field_eq : field = bits := funext fun w => funext fun hi => funext fun lo => field_eq_bits w hi lo

/-- Settles O44: each command runs through its tests in order, to a completion at once or to its acceptance. -/
theorem streamsAndStorageBegin : Obligations.StreamsAndStorageBegin := by
  unfold Obligations.StreamsAndStorageBegin
  rw [field_eq]
  refine ⟨?_, ?_⟩
  · intro r base qi qo ring row par cn s cx pc p q i h hpc hp hq w size bad free
    have hx : exec i s = execRefs (.x r) base (.q qi) (.q qo) ring row par cn s := rfl
    unfold execRefs at hx
    refine ⟨fun hfree => waits_of_body hx h (if_pos (Nat.not_lt.mp hfree)), fun hfree hbad => ?_, fun hfree hgood => ?_⟩
    · exact statusWord_failed 1 ▸ endsAtOnce_of_doneAtOnce (v := operandsOf s cx) hx rfl h rfl rfl hpc
        ((if_neg (Nat.not_le.mpr hfree)).trans (if_pos hbad))
    · intro o
      refine accepts_of_accept (v := operandsOf s cx) (o := o) hx rfl h rfl rfl hpc
        ((if_neg (Nat.not_le.mpr hfree)).trans ((if_neg hgood).trans ?_))
      simp only [operandsOf, portNum, hp, hq]
      rfl
  · intro r ns lba count mem cn write s cx pc i h hpc w cnt a port part reach
    obtain ⟨uses, body, hx, hu, hb⟩ := exec_storage (cn := cn) (s := s) (cx := cx) write (.x r) ns lba count mem
    have ends {v : Vals} {ok : Bool} {cause : Nat} := endsAtOnce_of_doneAtOnce (v := v) (r := r) (cn := cn) (ok := ok)
      (cause := cause) (pc := pc) hx hu h
    refine ⟨fun h0 => ?_, fun h0 hbad => ?_, fun h0 hres hcnt => ?_⟩
    · exact statusWord_ok ▸ ends rfl rfl hpc (hb.trans (if_pos h0))
    · exact statusWord_failed 1 ▸ ends rfl rfl hpc (hb.trans ((if_neg h0).trans (if_pos hbad)))
    · have hvalid : ¬(bits w 63 35 ≠ 0 ∨ 65536 < cnt) := by omega
      refine ⟨fun hno => ?_, fun n hreach hn hg => ?_⟩
      · exact statusWord_failed 7 ▸ ends rfl rfl hpc (hb.trans (storageEffect_unreached h0 hvalid hno))
      · have hb := hb.trans (storageEffect_reached h0 hvalid hreach hn hg)
        refine ⟨fun hend => ?_, fun hend => ?_⟩
        · exact statusWord_failed 6 ▸ ends rfl (touchedBy_cursor _) hpc (hb.trans (if_pos hend))
        · intro o0 o
          exact accepts_of_accept (v := touchedOperands s cx [(a, cnt * n.blockBytes)]) (o := o) hx hu h rfl (touchedBy_cursor _)
            hpc (hb.trans (if_neg (Nat.not_lt.mpr hend)))

end Sys2Proof.Machine
end

section
/-! The operations of a core's engines, and what a step of one leaves alone (O45). -/

namespace Sys2Proof.Machine

open Sys2Proof.Claims

variable {s t : State} {core id : Nat} {o : EngineOp}

/-! Operations. -/

theorem findOp_id (h : findOp s core id = some o) : o.id = id := by
  simpa using List.find?_some h

/-- What a core holds beside its operations is the same after one is replaced. -/
theorem core_setOp (s : State) (c : Nat) (o : EngineOp) (k : Nat) :
    (setOp s c o).core k = { s.core k with ops := ((setOp s c o).core k).ops } := by
  unfold setOp
  rw [State.core_setCore]
  split
  next hk => rw [hk]
  · rfl

theorem setOp_frame (s : State) (c : Nat) (o : EngineOp) : setOp s c o = { s with cores := (setOp s c o).cores } := rfl

/-- An operation is found as it was last put. -/
theorem findOp_setOp {o' : EngineOp} (h : findOp s core id = some o) (hid : o'.id = o.id) :
    findOp (setOp s core o') core id = some o' := by
  have hsame : ((fun p : EngineOp => p.id == id) ∘ fun p => if p.id == o'.id then o' else p) = fun p => p.id == id := by
    funext p
    by_cases hp : p.id = o'.id <;> simp [hp]
  unfold findOp setOp at *
  rw [State.core_setCore_self, List.find?_map, hsame, h]
  simp [hid]

theorem findOp_congr (h : ∀ c, (t.core c).ops = (s.core c).ops) (c k : Nat) : findOp t c k = findOp s c k := by
  unfold findOp
  rw [h]

theorem onOp_next {p : EngineOp → Bool} {f : EngineOp → State} (h : findOp s core id = some o) (hp : p o = true) :
    onOp s core id p f = .next (f o) := by
  unfold onOp
  rw [h]
  exact if_pos hp

/-! The watchdog's note. -/

theorem moved_noteMoved (s : State) (core : Nat) : Moved s (noteMoved s core) := by
  unfold noteMoved
  split <;> rfl

theorem noteMoved_mem (s : State) (core : Nat) : (noteMoved s core).mem = s.mem := by
  unfold noteMoved
  split <;> rfl

theorem noteMoved_strands (s : State) (core : Nat) : (noteMoved s core).strands = s.strands := by
  unfold noteMoved
  split <;> rfl

theorem noteMoved_queues (s : State) (core : Nat) : (noteMoved s core).queues = s.queues := by
  unfold noteMoved
  split <;> rfl

theorem moved_core (h : Moved s t) (c : Nat) : t.core c = s.core c := by rw [h]; rfl

theorem moved_mem (h : Moved s t) : t.mem = s.mem := by rw [h]

theorem moved_strands (h : Moved s t) : t.strands = s.strands := by rw [h]

theorem moved_queues (h : Moved s t) : t.queues = s.queues := by rw [h]

theorem moved_pkg (h : Moved s t) : t.pkg = s.pkg := by rw [h]

theorem moved_findOp (h : Moved s t) (c k : Nat) : findOp t c k = findOp s c k := findOp_congr (fun c => by rw [moved_core h]) c k

/-! Writes at their homes. -/

/-- What the watches note of a write: their own entries, the events that they hold, and the stamp. -/
structure Noted (s t : State) : Prop where
  cores : ∀ c, t.core c = { s.core c with held := (t.core c).held }
  dies : ∀ d, t.die d = { s.die d with watch := (t.die d).watch }
  rest : t = { s with dies := t.dies, cores := t.cores, stamp := t.stamp }

theorem Noted.refl (s : State) : Noted s s := ⟨fun _ => rfl, fun _ => rfl, rfl⟩

theorem Noted.trans {u : State} (h : Noted s t) (g : Noted t u) : Noted s u where
  cores c := by rw [g.cores, h.cores]
  dies d := by rw [g.dies, h.dies]
  rest := by rw [g.rest, h.rest]

theorem noted_stamp (s : State) (n : Nat) : Noted s { s with stamp := n } := ⟨fun _ => rfl, fun _ => rfl, rfl⟩

theorem noted_setEntry (s : State) (d idx : Nat) (e : WatchEntry) : Noted s (setEntry s d idx e) where
  cores _ := rfl
  dies d' := by
    unfold setEntry
    rw [State.die_setDie]
    split
    next hd => rw [hd]
    · rfl
  rest := rfl

theorem noted_raiseRunaway (s : State) (d idx : Nat) (e : WatchEntry) (n why : Nat) : Noted s (raiseRunaway s d idx e n why) := by
  unfold raiseRunaway
  split
  · refine ⟨fun c => ?_, fun _ => rfl, rfl⟩
    unfold holdEvent
    rw [State.core_setCore]
    split
    next hc => rw [hc]
    · rfl
  · exact .refl s

theorem noted_noteGranule (s : State) (cell : Nat) (old new : List Byte) (depth : Nat) :
    Noted s (noteGranule s cell old new depth) := by
  refine foldl_keeps (Noted s) _ (fun t en h => h.trans ?_) _ s (.refl s)
  split
  · refine iteInduction (fun _ => .refl t) fun _ => iteInduction (fun _ => noted_setEntry ..) fun _ => ?_
    split
    · exact (noted_setEntry ..).trans (noted_stamp ..)
    · exact ((noted_setEntry ..).trans (noted_stamp ..)).trans (noted_raiseRunaway ..)
  · exact .refl t

theorem writeCells_frame (s : State) (ws : List (Nat × Byte)) : writeCells s ws = { s with mem := (writeCells s ws).mem } :=
  foldl_keeps (fun t : State => t = { s with mem := t.mem }) _ (fun t w h => by rw [h]; rfl) ws s rfl

theorem cell_writeCells (s : State) (ws : List (Nat × Byte)) (k : Nat) : (writeCells s ws).cell k = written ws s.cell k := by
  unfold written
  induction ws generalizing s with
  | nil => rfl
  | cons w ws ih =>
    rw [show writeCells s (w :: ws) = writeCells (s.setCell w.1 w.2) ws from rfl, ih, State.cell_setCell, List.foldl_cons]
    simp only [eq_comm]

/-- A state after the watches have compared a write (R318), before its bytes are there. -/
def noteCells (s : State) (ws : List (Nat × Byte)) (depth : Nat) : State :=
  (granulesOf ws).foldl (fun t g =>
    let old := (List.range 64).map fun i => s.cell (g + i)
    noteGranule t g old (applyTo g old ws) depth) s

theorem storeCells_eq_writeCells (s : State) (ws : List (Nat × Byte)) (depth : Nat) :
    storeCells s ws depth = writeCells (noteCells s ws depth) ws := rfl

theorem noted_noteCells (s : State) (ws : List (Nat × Byte)) (depth : Nat) : Noted s (noteCells s ws depth) :=
  foldl_keeps (Noted s) _ (fun _ _ h => h.trans (noted_noteGranule ..)) _ s (.refl s)

/-- A write at its homes leaves exactly its bytes, beside what the watches note of it. -/
theorem stored_storeCells (s : State) (ws : List (Nat × Byte)) (depth : Nat) : Stored s ws (storeCells s ws depth) := by
  have hn := noted_noteCells s ws depth
  have hw := writeCells_frame (noteCells s ws depth) ws
  refine ⟨fun k => ?_, fun c => ?_, fun d => ?_, ?_⟩
  · rw [State.cell, storeCells_mem, ← State.cell, cell_writeCells]
  · rw [storeCells_eq_writeCells, hw]
    exact hn.cores c
  · rw [storeCells_eq_writeCells, hw]
    exact hn.dies d
  · have hstamp : (writeCells (noteCells s ws depth) ws).stamp = (noteCells s ws depth).stamp := by rw [hw]
    rw [storeCells_eq_writeCells, writeCells_dies, writeCells_cores, hstamp]
    exact hw.trans (congrArg (fun u : State => { u with mem := (writeCells (noteCells s ws depth) ws).mem }) hn.rest)

end Sys2Proof.Machine
end

section
/-! The scratchpad: where its bytes lie, and what a write to an allocation leaves (R163, R187, R209). -/

namespace Sys2Proof.Machine

open Sys2Proof.Claims

/-! Places. -/

theorem swizzle_field (o a b c : Nat) : o ^^^ (o / 2 ^ a % 2 ^ b * 2 ^ c) = o ^^^ ((o >>> a &&& (2 ^ b - 1)) <<< c) := by
  rw [Nat.and_two_pow_sub_one_eq_mod, Nat.shiftRight_eq_div_pow, Nat.shiftLeft_eq]

theorem spadPos_eq_padIn : spadPos = padIn := by
  funext base size mode o
  refine congrArg (base + ·) ?_
  match mode with
  | 0 => rfl
  | 1 => exact swizzle_field _ 7 3 4
  | 2 => exact swizzle_field _ 8 3 5
  | _ + 3 => exact swizzle_field _ 10 4 6

/-- A field of higher bits set into lower ones by exclusive or comes out by doing so again. -/
theorem xor_field_twice {n m k : Nat} (h : m + k ≤ n) (o : Nat) :
    let f := fun o : Nat => o ^^^ (o / 2 ^ n % 2 ^ m * 2 ^ k)
    f (f o) = o := by
  intro f
  have hlt : o / 2 ^ n % 2 ^ m * 2 ^ k < 2 ^ n :=
    calc o / 2 ^ n % 2 ^ m * 2 ^ k < 2 ^ m * 2 ^ k := Nat.mul_lt_mul_of_pos_right (Nat.mod_lt _ (by positivity)) (by positivity)
      _ = 2 ^ (m + k) := (pow_add 2 m k).symm
      _ ≤ 2 ^ n := Nat.pow_le_pow_right (by decide) h
  have hdiv : f o / 2 ^ n = o / 2 ^ n := by
    show (o ^^^ _) / 2 ^ n = _
    rw [Nat.xor_div_two_pow, Nat.div_eq_of_lt hlt, Nat.xor_zero]
  show f o ^^^ (f o / 2 ^ n % 2 ^ m * 2 ^ k) = o
  rw [hdiv]
  show o ^^^ _ ^^^ _ = o
  rw [Nat.xor_assoc, Nat.xor_self, Nat.xor_zero]

theorem swizzle_twice (mode o : Nat) : swizzle mode (swizzle mode o) = o := by
  match mode with
  | 0 => rfl
  | 1 => exact xor_field_twice (n := 7) (m := 3) (k := 4) (by decide) o
  | 2 => exact xor_field_twice (n := 8) (m := 3) (k := 5) (by decide) o
  | _ + 3 => exact xor_field_twice (n := 10) (m := 4) (k := 6) (by decide) o

/-- Offsets of an allocation that lie less than its size apart have places of their own. -/
theorem spadPos_injective {base size mode o n a b : Nat} (hn : n ≤ size) (ha : a < n) (hb : b < n)
    (h : spadPos base size mode (o + a) = spadPos base size mode (o + b)) : a = b := by
  have hs : swizzle mode ((o + a) % size) = swizzle mode ((o + b) % size) := Nat.add_left_cancel h
  have hm : (o + a) % size = (o + b) % size := by simpa only [swizzle_twice] using congrArg (swizzle mode) hs
  exact (Nat.ModEq.add_left_cancel' o hm).eq_of_lt_of_lt (by omega) (by omega)

/-! Errors. -/

theorem spadBad_eq_none_iff {c : Core} {base size mode o n : Nat} :
    spadBad c base size mode o n = none ↔ ∀ i < n, padIn base size mode (o + i) ∉ c.bad := by
  simp [spadBad, spadPos_eq_padIn]

theorem spadBad_isSome_iff {c : Core} {base size mode o n : Nat} :
    (spadBad c base size mode o n).isSome = true ↔ ∃ i < n, padIn base size mode (o + i) ∈ c.bad := by
  simp [spadBad, spadPos_eq_padIn]

/-! Writes. -/

theorem get_foldl_set_other {f : Nat → Nat} {p : Nat} (bs : List Byte) (j : Nat) (t : Tab Byte)
    (h : ∀ k < bs.length, p ≠ f (j + k)) :
    Tab.get 0 p ((bs.zipIdx j).foldl (fun t e => Tab.set 0 (f e.2) e.1 t) t) = Tab.get 0 p t := by
  induction bs generalizing j t with
  | nil => rfl
  | cons b bs ih =>
    rw [List.zipIdx_cons, List.foldl_cons, ih, Tab.get_set, if_neg]
    · exact h 0 (by simp)
    · intro k hk
      have := h (k + 1) (by simpa using hk)
      rwa [show j + 1 + k = j + (k + 1) by omega]

theorem get_foldl_set {f : Nat → Nat} (bs : List Byte) (j : Nat) (t : Tab Byte)
    (hf : ∀ a < bs.length, ∀ b < bs.length, f (j + a) = f (j + b) → a = b) {k : Nat} (hk : k < bs.length) :
    Tab.get 0 (f (j + k)) ((bs.zipIdx j).foldl (fun t e => Tab.set 0 (f e.2) e.1 t) t) = bs.getD k 0 := by
  induction bs generalizing j t k with
  | nil => cases hk
  | cons b bs ih =>
    rw [List.zipIdx_cons, List.foldl_cons]
    have hstep (a : Nat) : j + 1 + a = j + (a + 1) := by omega
    cases k with
    | zero =>
      rw [get_foldl_set_other, Tab.get_set]
      · simp
      · intro a ha he
        rw [hstep] at he
        exact absurd (hf 0 hk (a + 1) (by simpa using ha) he) (by omega)
    | succ k =>
      rw [← hstep, ih]
      · simp
      · intro a ha c hc he
        rw [hstep, hstep] at he
        have := hf (a + 1) (by simpa using ha) (c + 1) (by simpa using hc) he
        omega
      · simpa using hk

section

variable {c : Core} {base size mode o : Nat} {bs : List Byte}

/-- A write of no more bytes than an allocation has leaves each byte at its place. -/
theorem spadWrite_get (hn : bs.length ≤ size) {k : Nat} (hk : k < bs.length) :
    (spadWrite c base size mode o bs).spad.get 0 (padIn base size mode (o + k)) = bs.getD k 0 := by
  have h := get_foldl_set (f := fun i => spadPos base size mode (o + i)) bs 0 c.spad
    (fun a ha b hb he => spadPos_injective hn ha hb (by simpa using he)) hk
  rw [← spadPos_eq_padIn]
  simp only [Nat.zero_add] at h
  exact h

theorem spadWrite_get_other {p : Nat} (h : ∀ k < bs.length, p ≠ padIn base size mode (o + k)) :
    (spadWrite c base size mode o bs).spad.get 0 p = c.spad.get 0 p := by
  rw [← spadPos_eq_padIn] at h
  exact get_foldl_set_other (f := fun i => spadPos base size mode (o + i)) bs 0 c.spad fun k hk => by simpa using h k hk

theorem mem_spadWrite_bad {p : Nat} : p ∈ (spadWrite c base size mode o bs).bad ↔
    p ∈ c.bad ∧ ∀ k < bs.length, p ≠ padIn base size mode (o + k) := by
  unfold spadWrite spadPlaces
  rw [List.mem_filter, spadPos_eq_padIn]
  simp only [Bool.not_eq_true', List.contains_eq_mem, decide_eq_false_iff_not, List.mem_map, List.mem_range, not_exists, not_and]
  exact and_congr_right fun _ => forall₂_congr fun _ _ => not_congr eq_comm

end

end Sys2Proof.Machine
end

section
/-! A step of an engine: the sector that it begins (R239). -/

namespace Sys2Proof.Machine

open Sys2Proof.Claims

variable {s : State} {core id : Nat} {o : EngineOp}

/-! What a choice selects. -/

theorem exists_pick {α : Type} {l : List α} {x : α} (h : x ∈ l) : ∃ k, pick l k = some x := by
  obtain ⟨k, hk, hx⟩ := List.getElem_of_mem h
  refine ⟨k, ?_⟩
  rw [pick, Nat.mod_eq_of_lt (lt_of_lt_of_le hk (Nat.le_max_left ..)), List.getElem?_eq_getElem hk, hx]

/-! Whether every sector is done. -/

theorem sectorsDone_iff : sectorsDone o = true ↔ o.len ≤ 4096 * o.sector ∧ o.unread = [] ∧ o.flight = [] := by
  simp [sectorsDone, and_assoc]

theorem sectorsDone_of_left (h : 4096 * o.sector < o.len ∨ o.unread ≠ [] ∨ o.flight ≠ []) : sectorsDone o = false := by
  rw [← Bool.not_eq_true, sectorsDone_iff]
  rintro ⟨hlen, hu, hf⟩
  rcases h with h | h | h
  · omega
  · exact h hu
  · exact h hf

/-- Whether a sector is in progress: beats of it are to be read, or to be written. -/
theorem begun_iff : (o.unread.isEmpty && o.flight.isEmpty) = false ↔ o.unread ≠ [] ∨ o.flight ≠ [] := by
  rw [← Bool.not_eq_true, Bool.and_eq_true, List.isEmpty_iff, List.isEmpty_iff, not_and_or]

/-! The step. -/

/-- An operation that may take a step of its sectors. -/
structure Steppable (s : State) (core id : Nat) (o : EngineOp) : Prop where
  working : Working s core id o
  kind : o.kind ≠ .refs
  here : o.pkg = none
  cause : o.cause ∉ [4, 8, 11]
  left : sectorsDone o = false

theorem Steppable.enabled (h : Steppable s core id o) :
    (o.kind != .refs && o.cause != 8 && o.cause != 11 && o.cause != 4 && !sectorsDone o && opMayWork s core o) = true := by
  obtain ⟨h4, h8, h11⟩ : o.cause ≠ 4 ∧ o.cause ≠ 8 ∧ o.cause ≠ 11 := by simpa using h.cause
  simp [h.kind, h.left, h.working.may, h4, h8, h11]

/-- The sector that an operation begins, once the check of it has given bytes and cells. -/
theorem sectorStep_opens (h : Steppable s core id o) (k : Nat) {bytes : List Byte} {src cells : List Nat} (hu : o.unread = []) (hf : o.flight = [])
    (hs : sectorState s core o = .data bytes src cells) :
    exec (.sectorStep core ⟨id, k⟩) s = .next (openSector (touchSector s core o) core o bytes src cells) := by
  refine (onOp_next h.working.op h.enabled).trans ?_
  simp [h.here, hu, hf, hs]

/-- A sector with a fault is left to the stop. -/
theorem sectorStep_of_fault (h : Steppable s core id o) (k : Nat) {a : Word} {c : Nat} (hu : o.unread = []) (hf : o.flight = [])
    (hs : sectorState s core o = .fault a c) : exec (.sectorStep core ⟨id, k⟩) s = .next s := by
  refine (onOp_next h.working.op h.enabled).trans ?_
  simp [h.here, hu, hf, hs]

theorem sectorStep_reads (h : Steppable s core id o) {b : Nat} (hb : b ∈ o.unread) :
    ∃ k, exec (.sectorStep core ⟨id, k⟩) s = .next (readBeat s core o b) := by
  let writes := if o.kind == .copy || o.kind == .sread then o.flight else []
  obtain ⟨k, hk⟩ := exists_pick (List.mem_append_left (writes.map Sum.inr) (List.mem_map_of_mem (f := Sum.inl) hb))
  refine ⟨k, (onOp_next h.working.op h.enabled).trans ?_⟩
  rw [if_neg (by simp [h.here]), if_neg (by rw [begun_iff.2 (.inl (List.ne_nil_of_mem hb))]; simp)]
  simp only [writes] at hk
  simp only [hk]

theorem sectorStep_writes (h : Steppable s core id o) (hk : o.kind = .copy ∨ o.kind = .sread) {f : Nat × List Byte} (hf : f ∈ o.flight) :
    ∃ k, exec (.sectorStep core ⟨id, k⟩) s = .next (writeBeat s core o f.1 f.2) := by
  have hw : (if o.kind == .copy || o.kind == .sread then o.flight else []) = o.flight := if_pos (by simpa using hk)
  obtain ⟨k, hk⟩ := exists_pick (List.mem_append_right (o.unread.map Sum.inl) (List.mem_map_of_mem (f := Sum.inr) hf))
  refine ⟨k, (onOp_next h.working.op h.enabled).trans ?_⟩
  rw [if_neg (by simp [h.here]), if_neg (by rw [begun_iff.2 (.inr (List.ne_nil_of_mem hf))]; simp)]
  simp only [hw, hk]

/-! What the next sector finds. -/

theorem writesMemory_iff (h : o.pkg = none) : o.writesMemory = true ↔ o.kind = .copy ∨ o.kind = .sread := by
  simp [EngineOp.writesMemory, h]

/-- The bytes of a sector that come from a storage device. -/
def deviceBytes (s : State) (o : EngineOp) : List Byte :=
  if o.kind = .sread then (List.range (sectorAt o).2).map fun i => deviceByte s o ((sectorAt o).1 + i) else []

/-- The source of a sector passes (R239, R240). -/
def SourcePasses (s : State) (core : Nat) (o : EngineOp) (cells : List Nat) : Prop :=
  let a := after o.src (sectorAt o).1
  if o.kind = .sread then cells = []
  else if o.fromSpad then cells = [] ∧ spadBad (s.core core) o.spadBase o.spadSize 0 a.toNat (sectorAt o).2 = none
  else accessCells s (partyOp core o) (if o.kind = .swrite then .any else .die) false false a (sectorAt o).2 = .ok cells ∧
    ∀ c ∈ cells, isPoisoned s c = false

theorem sectorSource_of_passes {cells : List Nat} (h : SourcePasses s core o cells) :
    sectorSource s core o = .data (deviceBytes s o) cells [] := by
  unfold SourcePasses at h
  unfold sectorSource deviceBytes
  by_cases hk : o.kind = .sread
  · rw [if_pos hk] at h
    rw [h, if_pos hk, hk]
    rfl
  rw [if_neg hk] at h
  rw [if_neg hk]
  by_cases hp : o.fromSpad = true
  · rw [if_pos hp] at h
    simp [hp, h.1, h.2]
  · rw [if_neg hp] at h
    obtain ⟨hcells, hgood⟩ := h
    simp only [hp, beq_iff_eq, hcells]
    simpa using hgood

/-- A sector whose source passes, with a destination in memory that passes but may be locked (R208). -/
theorem sectorState_of_source {src cells : List Nat} (hsrc : SourcePasses s core o src) (hw : o.writesMemory = true)
    (hcells : accessCells s (partyOp core o) .any true false (after o.dst (sectorAt o).1) (sectorAt o).2 = .ok cells) :
    sectorState s core o =
      if memLocked (s.core core) (after o.dst (sectorAt o).1) (sectorAt o).2 (some o.id) then
        .fault (after o.dst (sectorAt o).1) Cause.rangeLocked.code
      else .data (deviceBytes s o) src cells := by
  unfold sectorState
  simp only [sectorSource_of_passes hsrc, hw, if_true, hcells]

theorem arrivalCells_of_passes {cells : List Nat}
    (h : if o.arr = 0 then cells = [] else accessCells s (partyOp core o) .any true false o.arr 8 = .ok cells) :
    arrivalCells s core o = .data [] [] cells := by
  unfold arrivalCells
  split at h
  next ha => rw [if_pos ha, h]
  next ha => rw [if_neg ha, h]

theorem sectorState_of_passes {src cells : List Nat} (hpkg : o.pkg = none) (h : SectorPasses s core o src cells) :
    sectorState s core o = .data (deviceBytes s o) src cells := by
  obtain ⟨hsrc, hdst⟩ := h
  by_cases hw : o.kind = .copy ∨ o.kind = .sread
  · rw [if_pos hw] at hdst
    obtain ⟨hcells, hlock⟩ := hdst
    rw [sectorState_of_source hsrc ((writesMemory_iff hpkg).2 hw) hcells]
    exact if_neg (Bool.eq_false_iff.1 hlock)
  rw [if_neg hw] at hdst
  have hw' : ¬o.writesMemory = true := (writesMemory_iff hpkg).not.2 hw
  unfold sectorState
  simp only [sectorSource_of_passes hsrc, hw', beq_iff_eq]
  by_cases hk : o.kind = .send
  · have harr : arrivalCells s core o = .data [] [] cells := by
      refine arrivalCells_of_passes ?_
      by_cases ha : o.arr = 0
      · rw [if_neg (fun h => h.2 ha)] at hdst
        rwa [if_pos ha]
      · rw [if_pos ⟨hk, ha⟩] at hdst
        rwa [if_neg ha]
    simp [hk, harr]
  · rw [if_neg (fun h => hk h.1)] at hdst
    simp [hk, hdst]

/-! The state after it. -/

theorem touchSector_eq (hpkg : o.pkg = none) : touchSector s core o = sectorTouched s core o := by
  unfold touchSector sectorTouched
  simp only [writesMemory_iff hpkg]
  rfl

theorem getElem_range_drop_take {α : Type} (f : Nat → α) (n i : Nat) :
    (((List.range n).map f).drop (64 * i)).take 64 = (List.range (min 64 (n - 64 * i))).map fun j => f (64 * i + j) := by
  apply List.ext_getElem
  · simp
  · intro j h1 h2
    simp

/-- The beats in which a sector of a device's bytes arrives. -/
theorem deviceBeats (f : Nat → Byte) (lo n : Nat) :
    ((beatsAt lo n).map fun b => (b, (((List.range n).map fun i => f (lo + i)).drop (b - lo)).take 64)) =
      (beatsAt lo n).map fun b => (b, (List.range (min 64 (lo + n - b))).map fun i => f (b + i)) := by
  refine List.map_congr_left fun b hb => ?_
  obtain ⟨i, -, rfl⟩ := List.mem_map.1 hb
  rw [Nat.add_sub_cancel_left, Nat.add_sub_add_left, getElem_range_drop_take]
  simp only [Nat.add_assoc]

/-- What an operation holds of the sector that it begins (R239). -/
theorem openSector_eq (t : State) {src cells : List Nat} (hpkg : o.pkg = none) (hu : o.unread = []) (hf : o.flight = []) :
    openSector t core o (deviceBytes s o) src cells =
      let lo := (sectorBytes o).1
      let n := (sectorBytes o).2
      let beats := (List.range ((n + 63) / 64)).map fun i => lo + 64 * i
      setOp t core { o with
        sector := o.sector + 1, wait := none, srcCells := src
        dstCells := if o.kind = .copy ∨ o.kind = .sread then cells else [], arrCells := if o.kind = .send then cells else []
        bytes := if o.kind = .send then o.bytes else lo
        unread := if o.kind = .sread then [] else beats
        flight := if o.kind = .sread then beats.map fun b =>
          (b, (List.range (min 64 (lo + n - b))).map fun i => deviceByte s o (b + i)) else [] } := by
  unfold openSector deviceBytes
  by_cases hk : o.kind = .sread
  · have hb := deviceBeats (deviceByte s o) (sectorAt o).1 (sectorAt o).2
    simp [hk, writesMemory_iff hpkg, hu, hb, -List.map_map]
    rfl
  · simp [hk, writesMemory_iff hpkg, hf]
    rfl

theorem sectorStep_begins {from_ to_ : List Nat} (hw : Working s core id o) (hk : o.kind ≠ .refs) (hpkg : o.pkg = none)
    (hc : o.cause ∉ [4, 8, 11]) (hu : o.unread = []) (hf : o.flight = []) (hlen : 4096 * o.sector < o.len)
    (hs : SectorPasses s core o from_ to_) (k : Nat) :
    exec (.sectorStep core ⟨id, k⟩) s = .next (openSector (sectorTouched s core o) core o (deviceBytes s o) from_ to_) := by
  rw [sectorStep_opens ⟨hw, hk, hpkg, hc, sectorsDone_of_left (.inl hlen)⟩ k hu hf (sectorState_of_passes hpkg hs), touchSector_eq hpkg]

end Sys2Proof.Machine
end

section
/-! A step of an engine: the beats that it reads and writes (R184, R211, R239, R241, R243). -/

namespace Sys2Proof.Machine

open Sys2Proof.Claims

variable {s t : State} {core id : Nat} {o : EngineOp} {b : Nat}

/-! A beat's source. -/

theorem beatBad_iff : beatBad s core o b = true ↔ BeatBad s core o b := by
  unfold beatBad BeatBad
  split
  · exact spadBad_isSome_iff
  · exact List.any_eq_true

/-- An operation that has read one more beat of its sector. -/
def withBeat (s : State) (core : Nat) (o : EngineOp) (b : Nat) : EngineOp :=
  { o with unread := o.unread.erase b, flight := o.flight ++ [(b, beatBytes s core o b)] }

/-- The bytes of a sector in progress with one more beat read. -/
def sectorData (s : State) (core : Nat) (o : EngineOp) (b : Nat) : List Byte :=
  gather (o.flight ++ [(b, beatBytes s core o b)]) (beatsAt (4096 * (o.sector - 1)) 4096)

/-- What a beat's reading leaves, when nothing forbids it: the last one of a sector ends it, when there is room for its beats. -/
theorem readBeat_eq (hb : ¬BeatBad s core o b) (hr : opMayRead s core o (o.src + BitVec.ofNat 64 b) (min 64 (o.len - b)) = true) :
    readBeat s core o b =
      if (o.unread.erase b).isEmpty then
        if o.kind == .send && !beatRoom s o (4096 * (o.sector - 1)) (sectorData s core o b) then s
        else noteMoved (sectorRead s core (withBeat s core o b)) core
      else noteMoved (setOp s core (withBeat s core o b)) core := by
  have hbytes : (if o.fromSpad then spadRead (s.core core) o.spadBase o.spadSize 0 (o.src.toNat + b) (beatLen o b)
      else readCells s (beatCells o o.srcCells b)) = beatBytes s core o b := by
    unfold spadRead
    rw [spadPos_eq_padIn]
    rfl
  unfold readBeat
  rw [if_neg]
  · simp only [hbytes]
    rfl
  · rw [Bool.or_eq_true, beatBad_iff, not_or]
    exact ⟨hb, by rw [show opMayRead s core o (after o.src b) (beatLen o b) = true from hr]; simp⟩

/-! A sector of a send. -/

theorem sectorRead_of_send (hk : o.kind = .send) :
    sectorRead s core o =
      let out := (o.dests.filter fun d => !d.ended).map fun d =>
        (d, beatsOf (shareOf d (4096 * (o.sector - 1)) (gather o.flight (beatsAt (4096 * (o.sector - 1)) 4096))) o.arrCells)
      (out.filter fun p => !p.2.isEmpty).foldl (fun s p => putBeats s core o p.1 p.2) (setOp s core { o with
        flight := [], adds := o.adds + (out.map fun p => (p.2.filter fun b => !b.arr.isEmpty).length).sum }) := by
  unfold sectorRead
  simp only [hk, List.foldl_filter, List.sum_eq_foldl, Bool.not_eq_true']
  congr 1
  funext u p
  cases p.2.isEmpty <;> rfl

theorem sectorRead_of_copy (hk : o.kind = .copy) : sectorRead s core o = setOp s core o := by
  unfold sectorRead
  rw [hk]

/-! A sector of a swrite. -/

/-- Whether an entry of the storage devices is a block of a namespace. -/
def isBlock (port nsid b : Nat) (e : Nat × Nat × Nat × List Byte) : Bool := e.1 == port && e.2.1 == nsid && e.2.2.1 == b

theorem find_diskWrite (s : State) (port nsid b b' : Nat) (bs : List Byte) :
    (diskWrite s port nsid b bs).pkg.disk.find? (isBlock port nsid b') =
      if b' = b then some (port, nsid, b, bs) else s.pkg.disk.find? (isBlock port nsid b') := by
  show ((s.pkg.disk.filter fun e => !isBlock port nsid b e) ++ [(port, nsid, b, bs)]).find? _ = _
  rw [List.find?_append, List.find?_filter]
  by_cases hb : b' = b
  · have hnone : (fun e => decide ((!isBlock port nsid b e) = true ∧ isBlock port nsid b' e = true)) = fun _ => false := by
      funext e
      rw [hb]
      cases isBlock port nsid b e <;> rfl
    rw [hnone, if_pos hb, List.find?_eq_none.2 (by simp), List.find?_singleton, if_pos (by simp [isBlock, hb]), Option.none_or]
  · have hother : (fun e => decide ((!isBlock port nsid b e) = true ∧ isBlock port nsid b' e = true)) = isBlock port nsid b' := by
      funext e
      by_cases he : e.2.2.1 = b' <;> simp [isBlock, he, hb, Bool.beq_eq_decide_eq]
    rw [hother, if_neg hb, List.find?_singleton, if_neg (by simp [isBlock, Ne.symm hb]), Option.or_none]

theorem diskByte_eq (s : State) (port nsid b i : Nat) :
    diskByte s port nsid b i =
      ((s.pkg.disk.find? (isBlock port nsid b)).map fun e => e.2.2.2.getD i 0).getD (Config.diskByte port nsid b i) := by
  unfold diskByte
  show (match s.pkg.disk.find? (isBlock port nsid b) with | some e => _ | none => _) = _
  cases s.pkg.disk.find? (isBlock port nsid b) <;> rfl

theorem diskByte_diskWrite (s : State) (port nsid b b' i : Nat) (bs : List Byte) :
    diskByte (diskWrite s port nsid b bs) port nsid b' i = if b' = b then bs.getD i 0 else diskByte s port nsid b' i := by
  rw [diskByte_eq, diskByte_eq, find_diskWrite]
  split <;> rfl

/-- The blocks of a sector are written in turn (R184). -/
def diskBlocks (s : State) (port nsid first : Nat) (block : Nat → List Byte) (n : Nat) : State :=
  (List.range n).foldl (fun s i => diskWrite s port nsid (first + i) (block i)) s

theorem diskBlocks_frame (s : State) (port nsid first : Nat) (block : Nat → List Byte) (n : Nat) :
    diskBlocks s port nsid first block n =
      { s with pkg := { s.pkg with disk := (diskBlocks s port nsid first block n).pkg.disk } } :=
  foldl_keeps (fun t : State => t = { s with pkg := { s.pkg with disk := t.pkg.disk } }) _ (fun t i h => by rw [h]; rfl) _ s rfl

theorem diskBlocks_mem (s : State) (port nsid first : Nat) (block : Nat → List Byte) (n : Nat) :
    (diskBlocks s port nsid first block n).mem = s.mem := by rw [diskBlocks_frame]

theorem diskBlocks_strands (s : State) (port nsid first : Nat) (block : Nat → List Byte) (n : Nat) :
    (diskBlocks s port nsid first block n).strands = s.strands := by rw [diskBlocks_frame]

theorem findOp_diskBlocks (s : State) (port nsid first : Nat) (block : Nat → List Byte) (n core id : Nat) :
    findOp (diskBlocks s port nsid first block n) core id = findOp s core id := by
  rw [diskBlocks_frame]
  rfl

theorem diskByte_diskBlocks (s : State) (port nsid first : Nat) (block : Nat → List Byte) {n j : Nat} (hj : j < n) (i : Nat) :
    diskByte (diskBlocks s port nsid first block n) port nsid (first + j) i = (block j).getD i 0 := by
  induction n with
  | zero => cases hj
  | succ n ih =>
    unfold diskBlocks
    rw [List.range_succ, List.foldl_append, List.foldl_cons, List.foldl_nil, diskByte_diskWrite]
    split
    next h => rw [Nat.add_left_cancel h]
    next h => exact ih (by omega)

theorem sectorRead_of_swrite (hk : o.kind = .swrite) {n : Namespace} (hn : namespaceAt s o.port o.nsid = some n) :
    sectorRead s core o =
      let lo := 4096 * (o.sector - 1)
      let bytes := gather o.flight (beatsAt lo 4096)
      diskBlocks (setOp s core { o with flight := [], bytes := o.bytes + bytes.length }) o.port o.nsid (o.lba + lo / n.blockBytes)
        (fun i => (bytes.drop (n.blockBytes * i)).take n.blockBytes) (bytes.length / n.blockBytes) := by
  unfold sectorRead
  simp only [hk, hn]
  rfl

theorem deviceByte_congr (h : t.pkg = s.pkg) (o : EngineOp) (i : Nat) : deviceByte t o i = deviceByte s o i := by
  unfold deviceByte namespaceAt diskByte
  rw [h]

/-- A sector's bytes written in whole blocks of its namespace are the device's bytes from the sector on. -/
theorem deviceByte_diskBlocks {n : Namespace} {lo i : Nat} {bytes : List Byte} (hn : namespaceAt s o.port o.nsid = some n)
    (hpos : 0 < n.blockBytes) (hlo : n.blockBytes ∣ lo) (hlen : n.blockBytes ∣ bytes.length) (hi : i < bytes.length) :
    deviceByte (diskBlocks s o.port o.nsid (o.lba + lo / n.blockBytes)
      (fun i => (bytes.drop (n.blockBytes * i)).take n.blockBytes) (bytes.length / n.blockBytes)) o (lo + i) = bytes.getD i 0 := by
  have hn' : ∀ first block k, namespaceAt (diskBlocks s o.port o.nsid first block k) o.port o.nsid = some n := by
    intro first block k
    rw [← hn, diskBlocks_frame s o.port o.nsid first block k]
    rfl
  obtain ⟨q, rfl⟩ := hlo
  have hdiv : (n.blockBytes * q + i) / n.blockBytes = n.blockBytes * q / n.blockBytes + i / n.blockBytes := by
    rw [Nat.mul_add_div hpos, Nat.mul_div_cancel_left _ hpos]
  unfold deviceByte
  simp only [hn', Option.map_some, Option.getD_some]
  rw [hdiv, ← Nat.add_assoc, diskByte_diskBlocks _ _ _ _ _ (Nat.div_lt_div_of_lt_of_dvd hlen hi), Nat.mul_add_mod,
    List.getD_eq_getElem?_getD, List.getD_eq_getElem?_getD, List.getElem?_take_of_lt (Nat.mod_lt _ hpos), List.getElem?_drop,
    Nat.div_add_mod]

end Sys2Proof.Machine
end

section
/-! What a beat's reading and writing leave of the machine (R184, R239, R241). -/

namespace Sys2Proof.Machine

open Sys2Proof.Claims

variable {s : State} {core id : Nat} {o : EngineOp} {b : Nat}

/-! Reading. -/

section

variable (hb : ¬BeatBad s core o b) (hr : opMayRead s core o (o.src + BitVec.ofNat 64 b) (min 64 (o.len - b)) = true)

include hb hr

theorem readBeat_of_copy_or_more (h : o.kind = .copy ∨ o.unread.erase b ≠ []) :
    Moved (setOp s core (withBeat s core o b)) (readBeat s core o b) := by
  rw [readBeat_eq hb hr]
  split
  next hnil =>
    have hk : o.kind = .copy := h.resolve_right (not_not.2 (List.isEmpty_iff.1 hnil))
    rw [if_neg (by simp [hk]), sectorRead_of_copy (o := withBeat s core o b) hk]
    exact moved_noteMoved ..
  · exact moved_noteMoved ..

/-- A sector of which the last beat is read, when there is room for it. -/
theorem readBeat_of_last (hnil : o.unread.erase b = [])
    (hroom : o.kind = .send → beatRoom s o (4096 * (o.sector - 1)) (sectorData s core o b) = true) :
    Moved (sectorRead s core { withBeat s core o b with unread := [] }) (readBeat s core o b) := by
  have hw : { withBeat s core o b with unread := [] } = withBeat s core o b := by
    unfold withBeat
    rw [hnil]
  rw [readBeat_eq hb hr, hnil, hw, if_pos List.isEmpty_nil, if_neg]
  · exact moved_noteMoved ..
  · rw [Bool.and_eq_true, beq_iff_eq]
    rintro ⟨hk, hno⟩
    rw [hroom hk] at hno
    cases hno

theorem readBeat_of_send (hk : o.kind = .send) (hnil : o.unread.erase b = [])
    (hroom : beatRoom s o (4096 * (o.sector - 1)) (sectorData s core o b) = true) :
    let out := (o.dests.filter fun d => !d.ended).map fun d =>
      (d, beatsOf (shareOf d (4096 * (o.sector - 1)) (sectorData s core o b)) o.arrCells)
    Moved ((out.filter fun p => !p.2.isEmpty).foldl (fun s p => putBeats s core o p.1 p.2) (setOp s core { o with
      unread := [], flight := []
      adds := o.adds + (out.map fun p => (p.2.filter fun b => !b.arr.isEmpty).length).sum })) (readBeat s core o b) := by
  have h := readBeat_of_last hb hr hnil fun _ => hroom
  rwa [sectorRead_of_send (by exact hk)] at h

theorem readBeat_of_swrite (hid : findOp s core id = some o) (hk : o.kind = .swrite) (hnil : o.unread.erase b = []) {n : Namespace}
    (hn : namespaceAt s o.port o.nsid = some n) (hpos : 0 < n.blockBytes) (hpage : n.blockBytes ∣ 4096)
    (hlen : n.blockBytes ∣ (sectorData s core o b).length) :
    let t := readBeat s core o b
    t.mem = s.mem ∧ t.strands = s.strands ∧
      findOp t core id = some { o with unread := [], flight := [], bytes := o.bytes + (sectorData s core o b).length } ∧
      ∀ i < (sectorData s core o b).length, deviceByte t o (4096 * (o.sector - 1) + i) = (sectorData s core o b).getD i 0 := by
  intro t
  have hm : Moved _ t := readBeat_of_last hb hr hnil fun h => by rw [hk] at h; cases h
  rw [sectorRead_of_swrite (by exact hk) (by exact hn)] at hm
  refine ⟨?_, ?_, ?_, fun i hi => ?_⟩
  · exact (moved_mem hm).trans (diskBlocks_mem ..)
  · exact (moved_strands hm).trans (diskBlocks_strands ..)
  · rw [moved_findOp hm, findOp_diskBlocks]
    exact findOp_setOp hid rfl
  · rw [deviceByte_congr (moved_pkg hm)]
    exact deviceByte_diskBlocks (by exact hn) hpos (hpage.mul_right _) hlen hi

end

/-! Writing. -/

theorem writeBeat_of_free {bytes : List Byte} (hpkg : o.pkg = none)
    (hl : memLocked (s.core core) (o.dst + BitVec.ofNat 64 b) (min 64 (o.len - b)) (some o.id) = false)
    (hw : opMayWrite s core o (o.dst + BitVec.ofNat 64 b) bytes.length = true) :
    ∃ t0, Stored (setOp s core { o with flight := o.flight.filter (fun f => f.1 != b), bytes := o.bytes + bytes.length })
      ((beatCells o o.dstCells b).zip bytes) t0 ∧ Moved t0 (writeBeat s core o b bytes) := by
  have hlock : beatLocked s core o b = false := by
    unfold beatLocked
    exact Bool.and_eq_false_iff.2 (.inr hl)
  have hmay : opMayWrite s core o (after o.dst b) bytes.length = true := hw
  refine ⟨_, stored_storeCells _ _ o.depth, ?_⟩
  unfold writeBeat
  simp only [hpkg, hlock, hmay]
  exact moved_noteMoved ..

end Sys2Proof.Machine
end

section
/-! What stops a copy (R208, R239, R240). -/

namespace Sys2Proof.Machine

open Sys2Proof.Claims

variable {s : State} {core id : Nat} {o : EngineOp}

theorem stopWord_eq (a : Word) (c : Nat) : stopWord a c = stopAt a c := by
  unfold stopWord stopAt put
  rw [pow_zero, Nat.mul_one]

/-- A copy that a stop may come to. -/
structure CopyLeft (s : State) (core id : Nat) (o : EngineOp) : Prop where
  working : Working s core id o
  kind : o.kind = .copy
  cause : o.cause = 0
  here : o.pkg = none
  kept : o.lost = false
  left : sectorsDone o = false

theorem CopyLeft.steppable (h : CopyLeft s core id o) : Steppable s core id o where
  working := h.working
  kind := by rw [h.kind]; decide
  here := h.here
  cause := by rw [h.cause]; decide
  left := h.left

theorem CopyLeft.enabled (h : CopyLeft s core id o) :
    (o.kind != .refs && (!sectorsDone o || o.lost) && o.cause != 8 && o.cause != 11 && o.cause != 4 && opMayWork s core o) = true := by
  simp [h.kind, h.cause, h.left, h.working.may]

theorem CopyLeft.writesMemory (h : CopyLeft s core id o) : o.writesMemory = true := (writesMemory_iff h.here).2 (.inl h.kind)

theorem engineStop_of_fault (h : CopyLeft s core id o) (hu : o.unread = []) (hf : o.flight = []) {a : Word} {c : Nat}
    (hs : sectorState s core o = .fault a c) :
    exec (.engineStop core id) s = .next (setOp s core { o with stop := some (stopAt a c) }) := by
  refine (onOp_next h.working.op h.enabled).trans ?_
  simp [h.kept, hu, hf, hs, h.kind, stopWord_eq]

/-- A sector in progress is begun again where it began. -/
theorem sectorStart_of_begun (h : o.unread ≠ [] ∨ o.flight ≠ []) : sectorStart o = o.sector - 1 := by
  unfold sectorStart
  rw [begun_iff.2 h]
  rfl

theorem engineStop_of_bad (h : CopyLeft s core id o) {b : Nat} (hb : b ∈ o.unread) (hbad : BeatBad s core o b) :
    exec (.engineStop core id) s = .next (setOp s core { o with
      unread := [], flight := [], sector := o.sector - 1, dead := true
      stop := some (stopAt (o.src + BitVec.ofNat 64 (4096 * (o.sector - 1))) 0x13) }) := by
  have hbegun : o.unread ≠ [] ∨ o.flight ≠ [] := .inl (List.ne_nil_of_mem hb)
  have hany : o.unread.any (beatBad s core o) = true := List.any_eq_true.2 ⟨b, hb, beatBad_iff.2 hbad⟩
  refine (onOp_next h.working.op h.enabled).trans ?_
  simp only [h.kept, begun_iff.2 hbegun, hany, h.kind, sectorStart_of_begun hbegun, stopWord_eq]
  rfl

theorem engineStop_of_locked (h : CopyLeft s core id o) {b : Nat} {bytes : List Byte} (hb : (b, bytes) ∈ o.flight)
    (hgood : ∀ c ∈ o.unread, ¬BeatBad s core o c)
    (hl : memLocked (s.core core) (o.dst + BitVec.ofNat 64 b) (min 64 (o.len - b)) (some o.id) = true) :
    exec (.engineStop core id) s = .next (setOp s core { o with
      unread := [], flight := [], sector := o.sector - 1
      stop := some (stopAt (o.dst + BitVec.ofNat 64 (4096 * (o.sector - 1))) 0x0E) }) := by
  have hbegun : o.unread ≠ [] ∨ o.flight ≠ [] := .inr (List.ne_nil_of_mem hb)
  have hnone : o.unread.any (beatBad s core o) = false := List.any_eq_false.2 fun c hc => beatBad_iff.not.2 (hgood c hc)
  have hlock : beatLocked s core o b = true := by
    unfold beatLocked
    rw [h.writesMemory]
    exact hl
  have hany : (o.flight.any fun f => beatLocked s core o f.1) = true := List.any_eq_true.2 ⟨_, hb, hlock⟩
  refine (onOp_next h.working.op h.enabled).trans ?_
  simp only [h.kept, begun_iff.2 hbegun, hnone, hany, h.kind, sectorStart_of_begun hbegun, stopWord_eq]
  rfl

/-- A copy whose source passes but whose destination another operation holds (R208). -/
theorem sectorState_of_locked {src cells : List Nat} (h : CopyLeft s core id o) (hpad : o.fromSpad = false)
    (hsrc : accessCells s (partyOp core o) .die false false (o.src + BitVec.ofNat 64 (sectorBytes o).1) (sectorBytes o).2 = .ok src)
    (hgood : ∀ c ∈ src, isPoisoned s c = false)
    (hdst : accessCells s (partyOp core o) .any true false (o.dst + BitVec.ofNat 64 (sectorBytes o).1) (sectorBytes o).2 = .ok cells)
    (hl : memLocked (s.core core) (o.dst + BitVec.ofNat 64 (sectorBytes o).1) (sectorBytes o).2 (some o.id) = true) :
    sectorState s core o = .fault (o.dst + BitVec.ofNat 64 (sectorBytes o).1) 0x0E := by
  have hpass : SourcePasses s core o src := by
    unfold SourcePasses
    simp only [h.kind, hpad]
    exact ⟨hsrc, hgood⟩
  rw [sectorState_of_source hpass h.writesMemory hdst]
  exact if_pos hl

end Sys2Proof.Machine
end

section
/-! Inbound channels: a transfer starts, and its beats are written in turn (R209, R211, R244). -/

namespace Sys2Proof.Machine

open Sys2Proof.Claims

variable {s : State} {core chan : Nat} {t0 : Transfer}

/-! A transfer starts. -/

theorem startTransfer_of_lock {rest : List Transfer} {place : Nat} {st : Strand} {c : Core}
    (hbusy : ((s.core core).channels.get {} chan).busy = false) (hwait : ((s.core core).channels.get {} chan).waiting = t0 :: rest)
    (hlive : s.liveGen core t0.gen = some (place, st)) (hfit : t0.total ≤ st.spadSize)
    (hlock : takeLocks (s.core core) [inboundLock chan t0 st] = some c) :
    startTransfer s core chan = s.setCore core { c with
      channels := c.channels.insert chan { (s.core core).channels.get {} chan with
        busy := true, slot := t0.slot, stop := t0.off + t0.total, wp := t0.off, current := some t0, waiting := rest } } := by
  have hl : takeLocks (s.core core) [{
      index := 0, op := chanLock chan, written := true, spad := true, chan := some chan, slot := t0.slot, engine := 5,
      first := t0.off % st.spadSize, span := t0.total - 1, base := st.spadBase, size := st.spadSize }] = some c := hlock
  unfold startTransfer
  simp only [hbusy, hwait, hlive, if_neg (Nat.not_lt.2 hfit), hl]

/-! A change of one operation. -/

/-- An operation of a core is changed, where the core still has it. -/
def onOperation (s : State) (core id : Nat) (f : EngineOp → EngineOp) : State :=
  match findOp s core id with
  | some o => setOp s core (f o)
  | none => s

theorem core_onOperation (s : State) (core id : Nat) (f : EngineOp → EngineOp) (k : Nat) :
    (onOperation s core id f).core k = { s.core k with ops := ((onOperation s core id f).core k).ops } := by
  unfold onOperation
  split
  · exact core_setOp ..
  · rfl

theorem onOperation_frame (s : State) (core id : Nat) (f : EngineOp → EngineOp) :
    onOperation s core id f = { s with cores := (onOperation s core id f).cores } := by
  unfold onOperation
  split <;> rfl

theorem onOperation_mem (s : State) (core id : Nat) (f : EngineOp → EngineOp) : (onOperation s core id f).mem = s.mem := by
  rw [onOperation_frame]

theorem onOperation_strands (s : State) (core id : Nat) (f : EngineOp → EngineOp) : (onOperation s core id f).strands = s.strands := by
  rw [onOperation_frame]

theorem onOperation_queues (s : State) (core id : Nat) (f : EngineOp → EngineOp) : (onOperation s core id f).queues = s.queues := by
  rw [onOperation_frame]

theorem onOperation_pkg (s : State) (core id : Nat) (f : EngineOp → EngineOp) : (onOperation s core id f).pkg = s.pkg := by
  rw [onOperation_frame]

theorem findOp_onOperation {id : Nat} {f : EngineOp → EngineOp} {o : EngineOp} (h : findOp s core id = some o) (hf : (f o).id = o.id) :
    findOp (onOperation s core id f) core id = some (f o) := by
  unfold onOperation
  rw [h]
  exact findOp_setOp h hf

theorem findOp_setCore (c : Core) (hops : c.ops = (s.core core).ops) (k id : Nat) : findOp (s.setCore core c) k id = findOp s k id := by
  refine findOp_congr (fun j => ?_) k id
  rw [State.core_setCore]
  split
  next h => rw [h, hops]
  · rfl

theorem endDest_eq (s : State) (t : Transfer) (cause : Nat) :
    endDest s t cause = onOperation s t.srcCore t.op fun o => { o with
      cause := lowerCause o.cause cause
      dests := o.dests.map fun d => if d.d == t.dest then { d with ended := true } else d } := rfl

theorem dropBeats_eq (s : State) (t : Transfer) :
    dropBeats s t = onOperation s t.srcCore t.op fun o => { o with adds := o.adds - (t.beats.filter fun b => !b.arr.isEmpty).length } := rfl

theorem lowerCause_zero (a : Nat) : lowerCause a 0 = a := by
  unfold lowerCause
  split
  next h => exact h.symm
  · rfl

/-! The end of a transfer. -/

theorem endTransfer_core (s : State) (core chan : Nat) (t : Transfer) (cause : Nat) :
    (endTransfer s core chan t cause).core core = { releaseLocks (s.core core) (chanLock chan) with
      channels := (s.core core).channels.insert chan { (s.core core).channels.get {} chan with busy := false, current := none }
      ops := ((endTransfer s core chan t cause).core core).ops } := by
  unfold endTransfer
  rw [endDest_eq, core_onOperation, dropBeats_eq, core_onOperation, State.core_setCore_self]

theorem endTransfer_frame (s : State) (core chan : Nat) (t : Transfer) (cause : Nat) :
    endTransfer s core chan t cause = { s with cores := (endTransfer s core chan t cause).cores } := by
  unfold endTransfer
  rw [endDest_eq, onOperation_frame, dropBeats_eq, onOperation_frame]
  rfl

/-- A transfer with no beat left ends well: only its destination is noted at its sender. -/
theorem findOp_endTransfer {o : EngineOp} (hbeats : t0.beats = []) (h : findOp s t0.srcCore t0.op = some o) :
    findOp (endTransfer s core chan t0 0) t0.srcCore t0.op =
      some { o with dests := o.dests.map fun d => if d.d = t0.dest then { d with ended := true } else d } := by
  unfold endTransfer
  rw [endDest_eq, findOp_onOperation (o := o)]
  · simp [lowerCause_zero]
  · rw [dropBeats_eq, findOp_onOperation (o := o)]
    · rw [hbeats]
      rfl
    · rw [findOp_setCore _ (by rfl)]
      exact h
    · rfl
  · rfl

end Sys2Proof.Machine
end

section
/-! The delivery of a beat (R209, R211, R244). -/

namespace Sys2Proof.Machine

open Sys2Proof.Claims

variable {s : State} {core chan place : Nat} {t0 : Transfer} {b : Beat} {more : List Beat} {st : Strand}

/-- The add that a beat leaves for its arrival word (R211). -/
def addOf (t0 : Transfer) (b : Beat) : Add :=
  { srcCore := t0.srcCore, op := t0.op, issuer := t0.issuer, arr := t0.arr, cells := b.arr, count := b.bytes.length
    scope := t0.scope, depth := t0.depth }

/-- A channel with the first beat of its transfer written. -/
def channelAfter (h : Channel) (t0 : Transfer) (b : Beat) (more : List Beat) : Channel :=
  { h with wp := h.wp + b.bytes.length, current := some { t0 with beats := more }
           adds := if b.arr = [] then h.adds else h.adds ++ [addOf t0 b] }

/-- A core with the first beat of a channel's transfer in the scratchpad of its strand. -/
def coreAfter (c : Core) (chan : Nat) (t0 : Transfer) (b : Beat) (more : List Beat) (st : Strand) : Core :=
  let h := c.channels.get {} chan
  { spadWrite c st.spadBase st.spadSize t0.swz h.wp b.bytes with
    locks := c.locks.map fun l => if l.op == chanLock chan then
      { l with first := (h.wp + b.bytes.length) % st.spadSize, span := h.stop - (h.wp + b.bytes.length) - 1 } else l
    channels := c.channels.insert chan (channelAfter h t0 b more) }

/-- The state with a beat written and counted at its sender. -/
def beatWritten (s : State) (core chan : Nat) (t0 : Transfer) (b : Beat) (more : List Beat) (st : Strand) : State :=
  onOperation (noteMoved (s.setCore core (coreAfter (s.core core) chan t0 b more st)) core) t0.srcCore t0.op
    fun o => { o with bytes := o.bytes + b.bytes.length }

theorem deliverBeat_eq (hcur : ((s.core core).channels.get {} chan).current = some t0) (hbeats : t0.beats = b :: more)
    (hlive : s.liveGen core t0.gen = some (place, st))
    (hlet : beatLet s ((s.core core).channels.get {} chan) t0 st.spadSize b.bytes.length = true) :
    deliverBeat s core chan =
      if ((s.core core).channels.get {} chan).stop ≤ ((s.core core).channels.get {} chan).wp + b.bytes.length then
        endTransfer (beatWritten s core chan t0 b more st) core chan { t0 with beats := more } 0
      else beatWritten s core chan t0 b more st := by
  unfold deliverBeat
  simp only [hcur, hbeats, hlive, hlet]
  simp only [Bool.not_true, Bool.false_eq_true, if_false, List.isEmpty_iff]
  rfl

theorem core_beatWritten : (beatWritten s core chan t0 b more st).core core =
    { coreAfter (s.core core) chan t0 b more st with ops := ((beatWritten s core chan t0 b more st).core core).ops } := by
  unfold beatWritten
  rw [core_onOperation, moved_core (moved_noteMoved ..), State.core_setCore_self]

theorem beatWritten_channel :
    ((beatWritten s core chan t0 b more st).core core).channels.get {} chan = channelAfter ((s.core core).channels.get {} chan) t0 b more := by
  rw [core_beatWritten]
  simp [coreAfter, Tab.get_insert]

theorem findOp_beatWritten {o : EngineOp} (h : findOp s t0.srcCore t0.op = some o) :
    findOp (beatWritten s core chan t0 b more st) t0.srcCore t0.op = some { o with bytes := o.bytes + b.bytes.length } := by
  unfold beatWritten
  refine findOp_onOperation (f := fun o => { o with bytes := o.bytes + b.bytes.length }) ?_ rfl
  rw [moved_findOp (moved_noteMoved ..), findOp_setCore]
  · exact h
  · rfl

theorem beatWritten_mem : (beatWritten s core chan t0 b more st).mem = s.mem :=
  (onOperation_mem ..).trans (noteMoved_mem ..)

theorem beatWritten_strands : (beatWritten s core chan t0 b more st).strands = s.strands :=
  (onOperation_strands ..).trans (noteMoved_strands ..)

/-- What a delivery leaves of the scratchpad and its marks (R209, log 107), whatever it leaves of the rest of the core. -/
theorem spad_of_delivered {d : Core} (hn : b.bytes.length ≤ st.spadSize) (hspad : d.spad = (coreAfter (s.core core) chan t0 b more st).spad)
    (hbad : d.bad = (coreAfter (s.core core) chan t0 b more st).bad) :
    let wp := ((s.core core).channels.get {} chan).wp
    let n := b.bytes.length
    (∀ k < n, d.spad.get 0 (padPlace st t0.swz (wp + k)) = b.bytes.getD k 0) ∧
      (∀ p, (∀ k < n, p ≠ padPlace st t0.swz (wp + k)) → d.spad.get 0 p = (s.core core).spad.get 0 p) ∧
      (∀ p, p ∈ d.bad ↔ p ∈ (s.core core).bad ∧ ∀ k < n, p ≠ padPlace st t0.swz (wp + k)) := by
  rw [hspad, hbad]
  exact ⟨fun k hk => spadWrite_get hn hk, fun p hp => spadWrite_get_other hp, fun p => mem_spadWrite_bad⟩

theorem beatDelivery_of_let (hpre : (s.core core).preempted = false) (hcur : ((s.core core).channels.get {} chan).current = some t0)
    (hbeats : t0.beats = b :: more) (hlive : s.liveGen core t0.gen = some (place, st))
    (hlet : beatLet s ((s.core core).channels.get {} chan) t0 st.spadSize b.bytes.length = true) :
    exec (.beatDelivery core ⟨chan, 0⟩) s = .next (
      if ((s.core core).channels.get {} chan).stop ≤ ((s.core core).channels.get {} chan).wp + b.bytes.length then
        endTransfer (beatWritten s core chan t0 b more st) core chan { t0 with beats := more } 0
      else beatWritten s core chan t0 b more st) := by
  rw [← deliverBeat_eq hcur hbeats hlive hlet]
  refine (show exec _ s = execBeatDelivery core ⟨chan, 0⟩ s from rfl).trans ?_
  unfold execBeatDelivery
  simp [hpre]

/-- What the end of a transfer adds to a beat's writing. -/
theorem endTransfer_beatWritten (u : State) (hu : u = endTransfer (beatWritten s core chan t0 b more st) core chan { t0 with beats := more } 0)
    (hmore : more = []) :
    u.mem = s.mem ∧ u.strands = s.strands ∧
      (u.core core).channels.get {} chan =
        { channelAfter ((s.core core).channels.get {} chan) t0 b more with busy := false, current := none } ∧
      (∀ l ∈ (u.core core).locks, l.op ≠ chanLock chan) ∧
      (∀ o, findOp s t0.srcCore t0.op = some o → findOp u t0.srcCore t0.op = some { o with
        bytes := o.bytes + b.bytes.length, dests := o.dests.map fun d => if d.d = t0.dest then { d with ended := true } else d }) ∧
      (u.core core).spad = (coreAfter (s.core core) chan t0 b more st).spad ∧
      (u.core core).bad = (coreAfter (s.core core) chan t0 b more st).bad := by
  let c := coreAfter (s.core core) chan t0 b more st
  have hcore : u.core core = { releaseLocks c (chanLock chan) with
      channels := c.channels.insert chan { c.channels.get {} chan with busy := false, current := none }
      ops := (u.core core).ops } := by
    rw [hu, endTransfer_core, core_beatWritten]
    dsimp only [releaseLocks, c]
  have hframe : u = { beatWritten s core chan t0 b more st with cores := u.cores } := by rw [hu, endTransfer_frame]
  refine ⟨?_, ?_, ?_, fun l hl => ?_, fun o ho => ?_, ?_, ?_⟩
  · exact (congrArg State.mem hframe).trans beatWritten_mem
  · exact (congrArg State.strands hframe).trans beatWritten_strands
  · rw [hcore]
    simp [c, coreAfter, Tab.get_insert]
  · rw [hcore] at hl
    simpa using (List.mem_filter.1 hl).2
  · rw [hu]
    exact findOp_endTransfer (t0 := { t0 with beats := more }) hmore (findOp_beatWritten ho)
  · rw [hcore]
    rfl
  · rw [hcore]
    rfl

end Sys2Proof.Machine
end

section
/-! Numbers of bytes in order, and the adds of arrival words (R191, R196, R211). -/

namespace Sys2Proof.Machine

open Sys2Proof.Claims

variable {s : State} {core chan : Nat}

/-! Numbers. -/

theorem little_congr {f g : Nat → Byte} {n : Nat} (h : ∀ k < n, f k = g k) : little f n = little g n := by
  induction n with
  | zero => rfl
  | succ n ih =>
    unfold little
    rw [ih fun k hk => h k (by omega), h n (by omega)]

theorem ofLe_concat (bs : List Byte) (b : Byte) : ofLe (bs ++ [b]) = ofLe bs + b.toNat * 256 ^ bs.length := by
  induction bs with
  | nil => simp [ofLe]
  | cons c bs ih =>
    simp only [List.cons_append, ofLe, ih, List.length_cons, pow_succ]
    ring

/-- The two ways to read bytes as a number agree. -/
theorem ofLe_eq_little (bs : List Byte) : ofLe bs = little (fun k => bs.getD k 0) bs.length := by
  induction bs using List.reverseRecOn with
  | nil => rfl
  | append_singleton bs b ih =>
    rw [ofLe_concat, ih, List.length_append, List.length_singleton]
    refine congrArg₂ (· + ·) (little_congr fun k hk => ?_) ?_
    · rw [List.getD_append _ _ _ _ hk]
    · simp

theorem extendTo_eq_widened : extendTo = widened := by
  funext n sgn x
  refine congrArg₂ (ite (sgn = true)) ?_ ?_
  · unfold sext signed BitVec.signExtend
    rw [BitVec.toInt_eq_toNat_cond, BitVec.toNat_ofNat]
  · exact BitVec.eq_of_toNat_eq (by simp [zext])

/-! Adds. -/

/-- The state with an add taken from its channel and counted at its sender. -/
def addTaken (s : State) (core chan : Nat) (a : Add) : State :=
  let c := s.core core
  let h := c.channels.get {} chan
  onOperation (s.setCore core { c with channels := c.channels.insert chan { h with adds := h.adds.erase a } }) a.srcCore a.op
    fun o => { o with adds := o.adds - 1, lost := o.lost || a.cells.any (isPoisoned s) }

theorem addTaken_adds (s : State) (core chan : Nat) (a : Add) :
    (((addTaken s core chan a).core core).channels.get {} chan).adds = (((s.core core).channels.get {} chan).adds).erase a := by
  unfold addTaken
  rw [core_onOperation, State.core_setCore_self]
  simp [Tab.get_insert]

theorem performAdd_eq {a : Add} (hgood : ∀ c ∈ a.cells, isPoisoned s c = false) :
    performAdd s core chan a = storeCells (addTaken s core chan a)
      (pairWrites a.cells (ofLe (readCells (addTaken s core chan a) a.cells) + a.count)) a.depth := by
  have hbad : a.cells.any (isPoisoned s) = false := List.any_eq_false.2 fun c hc => Bool.eq_false_iff.1 (hgood c hc)
  unfold performAdd
  rw [if_neg]
  · rfl
  · exact Bool.eq_false_iff.1 hbad

theorem addTaken_frame (s : State) (core chan : Nat) (a : Add) :
    (addTaken s core chan a).mem = s.mem ∧ (addTaken s core chan a).strands = s.strands ∧ (addTaken s core chan a).queues = s.queues :=
  ⟨onOperation_mem .., onOperation_strands .., onOperation_queues ..⟩

theorem byteAt_addTaken (a : Add) (k : Nat) : (addTaken s core chan a).byteAt k = s.byteAt k :=
  State.byteAt_congr (onOperation_mem ..) (onOperation_pkg ..) k

/-- The number that an arrival word holds. -/
theorem arrivalNumber {a : Add} (h8 : a.cells.length = 8) :
    ofLe (readCells (addTaken s core chan a) a.cells) = little (fun i => s.byteAt (a.cells.getD i 0)) 8 := by
  have hlen : (readCells (addTaken s core chan a) a.cells).length = 8 := by rw [readCells, List.length_map, h8]
  rw [ofLe_eq_little, hlen]
  refine little_congr fun k hk => ?_
  have hk' : k < a.cells.length := by omega
  rw [readCells, List.getD_eq_getElem?_getD, List.getD_eq_getElem?_getD, List.getElem?_map, List.getElem?_eq_getElem hk', ← byteAt_addTaken a]
  rfl

theorem beatDelivery_of_add {a : Add} (ha : a ∈ ((s.core core).channels.get {} chan).adds) (h8 : a.cells.length = 8)
    (hgood : ∀ c ∈ a.cells, isPoisoned s c = false) (hlet : addLet s a = true) :
    ∃ k t, exec (.beatDelivery core ⟨chan, k⟩) s = .next t ∧ Stored (addTaken s core chan a) (writesOf a.cells fun j =>
      BitVec.ofNat 8 ((little (fun i => s.byteAt (a.cells.getD i 0)) 8 + a.count) / 256 ^ j)) t := by
  obtain ⟨k, hk⟩ := exists_pick ha
  refine ⟨k + 1, performAdd s core chan a, ?_, ?_⟩
  · refine (show exec _ s = execBeatDelivery core ⟨chan, k + 1⟩ s from rfl).trans ?_
    unfold execBeatDelivery
    simp only [Nat.add_sub_cancel, hk, hlet]
    rfl
  · rw [performAdd_eq hgood, arrivalNumber h8, pairWrites_eq_writesOf]
    exact stored_storeCells ..

end Sys2Proof.Machine
end

section
/-! Reference streams: the steps that one can take (R247). -/

namespace Sys2Proof.Machine

open Sys2Proof.Claims

variable {s : State} {core id : Nat} {o : EngineOp} {e : Elem} {qo : Queue}

/-! What pops, pushes and completions leave alone. -/

theorem popForGen_frame (s : State) (core gen port qn : Nat) :
    popForGen s core gen port qn =
      { s with queues := (popForGen s core gen port qn).queues, strands := (popForGen s core gen port qn).strands } := by
  unfold popForGen
  split
  · simp only
    rw [(popPort_frame s _ port).1]
    rfl
  · rw [popQueue_frame]

theorem popForGen_mem (s : State) (core gen port qn : Nat) : (popForGen s core gen port qn).mem = s.mem := by rw [popForGen_frame]

theorem popForGen_core (s : State) (core gen port qn k : Nat) : (popForGen s core gen port qn).core k = s.core k := by
  rw [popForGen_frame]
  rfl

theorem sendElem_mem (s : State) (q : Nat) (e : Elem) : (sendElem s q e).mem = s.mem := by rw [sendElem_frame]

theorem sendElem_core (s : State) (q : Nat) (e : Elem) (k : Nat) : (sendElem s q e).core k = s.core k := by
  rw [sendElem_frame]
  rfl

theorem findOp_sendElem (s : State) (q : Nat) (e : Elem) (c k : Nat) : findOp (sendElem s q e) c k = findOp s c k :=
  findOp_congr (fun c => by rw [sendElem_core]) c k

theorem sendElem_queues_congr {t : State} (h : t.queues = s.queues) (q : Nat) (e : Elem) :
    (sendElem t q e).queues = (sendElem s q e).queues := by
  unfold sendElem State.queue
  rw [h]
  split
  · simp only [State.setQueue, h]
  · exact h

theorem enginePush_eq (s : State) (o : EngineOp) (tag : Nat) (data : Word) :
    enginePush s o tag data = sendElem s o.qout (streamElem o tag data) := rfl

theorem onGen_frame (s : State) (core gen : Nat) (f : Strand → Strand) :
    s.onGen core gen f = { s with strands := (s.onGen core gen f).strands } := by
  unfold State.onGen
  split <;> rfl

/-- A core without an operation and its range locks. -/
def coreWithout (c : Core) (o : EngineOp) : Core :=
  { c with ops := c.ops.filter (fun p => p.id != o.id), locks := c.locks.filter fun l => l.op != o.id }

/-- What the end of an operation gives its strand (R219, R238). -/
def strandDone (o : EngineOp) (ok : Bool) (cause detail : Nat) (st : Strand) : Strand :=
  { (st.deliverX o.reg (statusWord ok cause detail o.bytes)).complete o.cn with cp := st.cp - 1 }

theorem completeEngine_eq (s : State) (core : Nat) (o : EngineOp) (ok : Bool) (cause detail : Nat) :
    completeEngine s core o ok cause detail =
      (s.setCore core (coreWithout (s.core core) o)).onGen core o.gen (strandDone o ok cause detail) := rfl

theorem completeEngine_mem (s : State) (core : Nat) (o : EngineOp) (ok : Bool) (cause detail : Nat) :
    (completeEngine s core o ok cause detail).mem = s.mem := by
  rw [completeEngine_eq, onGen_frame]
  rfl

theorem completeEngine_queues (s : State) (core : Nat) (o : EngineOp) (ok : Bool) (cause detail : Nat) :
    (completeEngine s core o ok cause detail).queues = s.queues := by
  rw [completeEngine_eq, onGen_frame]
  rfl

theorem completeEngine_core (s : State) (core : Nat) (o : EngineOp) (ok : Bool) (cause detail : Nat) :
    (completeEngine s core o ok cause detail).core core = coreWithout (s.core core) o := by
  rw [completeEngine_eq, onGen_frame]
  exact State.core_setCore_self ..

theorem mem_ops_coreWithout {c : Core} {p : EngineOp} (h : p ∈ (coreWithout c o).ops) : p.id ≠ o.id := by
  simpa using (List.mem_filter.1 h).2

/-! The steps of a stream whose index queue has data at its head. -/

theorem exists_streamStep (hw : Working s core id o) (hk : o.kind = .refs) (hhead : indexHead s core o = some e)
    (hqo : s.queue o.qout = some qo) (htag : e.tag = 0) (hflight : inFlight s core o = o.fetches) {x : StreamStep}
    (hx : x ∈ streamSteps s core o) :
    ∃ k, exec (.referencePop core ⟨id, k⟩) s = .next (streamStep s core o qo x) := by
  obtain ⟨k, hpick⟩ := exists_pick hx
  have hhead' : streamHead s core o = some e := hhead
  have ho : { o with fetches := inFlight s core o } = o := by rw [hflight]
  refine ⟨k, (onOp_next hw.op (by simp [hk, hw.may])).trans ?_⟩
  simp only [hhead', hqo, htag, ho, hpick]
  rfl

theorem take_mem_streamSteps {x : Elem} (hpre : (s.core core).preempted = false) (hroom : o.fetches.length < 256)
    (hx : (streamIndices s core o)[o.fetches.length]? = some x) (hgood : x.bad = false) :
    StreamStep.take x ∈ streamSteps s core o := by
  refine List.mem_append_right _ ?_
  rw [if_pos (by simp [hpre, hroom]), hx]
  simp [Option.filter, hgood]

theorem read_mem_streamSteps {j b : Nat} {f : Fetch} (hf : o.fetches[j]? = some f) (hb : b ∈ f.unread) :
    StreamStep.read j b f ∈ streamSteps s core o := by
  refine List.mem_append_left _ (List.mem_append_right _ (List.mem_flatMap.2 ⟨(f, j), ?_, List.mem_map.2 ⟨b, hb, rfl⟩⟩))
  exact List.mk_mem_zipIdx_iff_getElem?.2 hf

theorem push_mem_streamSteps {f : Fetch} {rest : List Fetch} (hf : o.fetches = f :: rest) (hread : f.unread = []) :
    StreamStep.push f ∈ streamSteps s core o := by
  refine List.mem_append_left _ (List.mem_append_left _ ?_)
  rw [hf]
  simp [Option.filter, hread]

theorem streamStep_take {x : Elem} {cells : List Nat}
    (hc : accessCells s (partyOp core o) .die false false (o.src + x.data.getD 0 * BitVec.ofNat 64 o.size) o.size = .ok cells) :
    streamStep s core o qo (.take x) =
      setOp (touchEnds s core (o.src + x.data.getD 0 * BitVec.ofNat 64 o.size) o.size) core { o with
        wait := none, fetches := o.fetches ++ [{ idx := x.data.getD 0, cells := cells, unread := linesOf cells }] } := by
  have href : reference s core o (x.data.getD 0) = .data [] cells [] := by
    unfold reference referenceAt
    rw [hc]
  simp only [streamStep, href]
  rfl

theorem streamStep_read {j b : Nat} {f : Fetch} (hgood : ∀ c ∈ lineCells f.cells b, isPoisoned s c = false)
    (hmay : opMayRead s core o (o.src + f.idx * BitVec.ofNat 64 o.size) o.size = true) :
    streamStep s core o qo (.read j b f) = setOp s core { o with fetches := o.fetches.set j { f with
      unread := f.unread.erase b, flight := f.flight ++ [(b, (lineCells f.cells b).map s.byteAt)] } } := by
  have hbad : (lineCells f.cells b).any (isPoisoned s) = false := List.any_eq_false.2 fun c hc => Bool.eq_false_iff.1 (hgood c hc)
  have hmay' : opMayRead s core o (referenceAt o f.idx) o.size = true := hmay
  simp only [streamStep, hbad, hmay']
  rfl


/-! The push of the oldest reference. -/

/-- A state with the oldest index of a stream popped and its reference about to be pushed. -/
def popped (s : State) (core : Nat) (o : EngineOp) (n : Nat) : State :=
  noteMoved (setOp (popForGen s core o.gen o.portIn o.qin) core
    { o with placed := o.placed + 1, bytes := o.bytes + n, fetches := o.fetches.drop 1 }) core

theorem popped_mem (n : Nat) : (popped s core o n).mem = s.mem := (noteMoved_mem ..).trans (popForGen_mem ..)

theorem popped_queues (n : Nat) : (popped s core o n).queues = (popForGen s core o.gen o.portIn o.qin).queues :=
  noteMoved_queues ..

theorem popped_core (n : Nat) : (popped s core o n).core core = { s.core core with ops := ((popped s core o n).core core).ops } := by
  unfold popped
  rw [moved_core (moved_noteMoved ..), core_setOp, popForGen_core]

theorem findOp_popped (h : findOp s core id = some o) (n : Nat) :
    findOp (popped s core o n) core id = some { o with placed := o.placed + 1, bytes := o.bytes + n, fetches := o.fetches.drop 1 } := by
  unfold popped
  rw [moved_findOp (moved_noteMoved ..)]
  refine findOp_setOp (o := o) ?_ rfl
  exact (findOp_congr (fun c => by rw [popForGen_core]) core id).trans h

/-- The state with a row in its ring (R247). -/
def placedRow (s : State) (core : Nat) (o : EngineOp) (bytes : List Byte) : State :=
  s.setCore core (spadWrite (s.core core) o.spadBase o.spadSize 0 (ringAt o) bytes)

theorem placedRow_queues (bytes : List Byte) : (placedRow s core o bytes).queues = s.queues := rfl

theorem findOp_placedRow (bytes : List Byte) (c k : Nat) : findOp (placedRow s core o bytes) c k = findOp s c k :=
  findOp_setCore (spadWrite ..) rfl c k

theorem ringFull_eq_false_iff : ringFull s o = false ↔ (o.row = true → rowsOut s o ≤ o.slots - 2) := by
  simp [ringFull]

theorem ringLocked_eq_false_iff : ringLocked s core o = false ↔
    (o.row = true → spadLocked (s.core core) o.spadBase o.spadSize ((o.ring + o.placed % o.slots * o.size) % o.spadSize) o.size (some o.id) =
      false) := by
  simp [ringLocked, ringAt]

theorem streamStep_push {f : Fetch} (hcred : 0 < creditsOf qo o.gen)
    (hring : o.row = true → rowsOut s o ≤ o.slots - 2 ∧
      spadLocked (s.core core) o.spadBase o.spadSize ((o.ring + o.placed % o.slots * o.size) % o.spadSize) o.size (some o.id) = false) :
    streamStep s core o qo (.push f) =
      let bytes := gather f.flight (linesOf f.cells)
      let u := popped s core o bytes.length
      if o.row then sendElem (placedRow u core o bytes) o.qout (streamElem o 0 (BitVec.ofNat 64 (ringAt o)))
      else sendElem u o.qout (streamElem o 0 (widened o.size o.signed (ofLe bytes))) := by
  have hfull : (ringFull s o || creditsOf qo o.gen == 0) = false :=
    Bool.or_eq_false_iff.2 ⟨ringFull_eq_false_iff.2 fun h => (hring h).1, beq_false_of_ne hcred.ne'⟩
  have hlock : ringLocked s core o = false := ringLocked_eq_false_iff.2 fun h => (hring h).2
  simp only [streamStep, hfull, hlock]
  unfold pushReference
  rw [extendTo_eq_widened]
  rfl

/-- What the push of a reference leaves (R247): nothing in memory, the element in its queue, a row in its ring. -/
theorem push_leaves {f : Fetch} {rest : List Fetch} (hop : findOp s core id = some o) (hf : o.fetches = f :: rest)
    (hcred : 0 < creditsOf qo o.gen) (hlen : (gather f.flight (linesOf f.cells)).length = o.size) (hsize : o.size ≤ o.spadSize)
    (hring : o.row = true → rowsOut s o ≤ o.slots - 2 ∧
      spadLocked (s.core core) o.spadBase o.spadSize ((o.ring + o.placed % o.slots * o.size) % o.spadSize) o.size (some o.id) = false) :
    let p := (o.ring + o.placed % o.slots * o.size) % o.spadSize
    let bytes := gather f.flight (linesOf f.cells)
    let t := streamStep s core o qo (.push f)
    t.mem = s.mem ∧
      findOp t core id = some { o with placed := o.placed + 1, bytes := o.bytes + o.size, fetches := rest } ∧
      t.queues = (sendElem (popForGen s core o.gen o.portIn o.qin) o.qout (streamElem o 0
        (if o.row then BitVec.ofNat 64 p else widened o.size o.signed (little (fun k => bytes.getD k 0) o.size)))).queues ∧
      (o.row = false → (t.core core).spad = (s.core core).spad) ∧
      (o.row = true → ∀ k < o.size, (t.core core).spad.get 0 (o.spadBase + (p + k) % o.spadSize) = bytes.getD k 0) := by
  intro p bytes t
  have hpush := streamStep_push (f := f) hcred hring
  have hfind : findOp (popped s core o bytes.length) core id =
      some { o with placed := o.placed + 1, bytes := o.bytes + o.size, fetches := rest } := by
    rw [findOp_popped hop, hlen, hf]
    rfl
  by_cases hrow : o.row = true
  · have ht : t = sendElem (placedRow (popped s core o bytes.length) core o bytes) o.qout (streamElem o 0 (BitVec.ofNat 64 p)) :=
      hpush.trans (if_pos hrow)
    rw [ht, if_pos hrow]
    refine ⟨?_, ?_, ?_, fun h => absurd hrow (Bool.eq_false_iff.1 h), fun _ k hk => ?_⟩
    · exact (sendElem_mem ..).trans (popped_mem ..)
    · rw [findOp_sendElem, findOp_placedRow, hfind]
    · exact sendElem_queues_congr ((placedRow_queues bytes).trans (popped_queues ..)) ..
    · rw [sendElem_core, placedRow, State.core_setCore_self]
      exact spadWrite_get (mode := 0) (hlen.trans_le hsize) (hlen ▸ hk)
  · have ht : t = sendElem (popped s core o bytes.length) o.qout (streamElem o 0 (widened o.size o.signed (ofLe bytes))) :=
      hpush.trans (if_neg hrow)
    rw [ht, if_neg hrow, ← hlen, ← ofLe_eq_little, hlen]
    refine ⟨?_, ?_, ?_, fun _ => ?_, fun h => absurd h hrow⟩
    · exact (sendElem_mem ..).trans (popped_mem ..)
    · rw [findOp_sendElem, ← hfind, hlen]
    · exact sendElem_queues_congr (popped_queues ..) ..
    · rw [sendElem_core, popped_core]

end Sys2Proof.Machine
end

section
/-! Reference streams: tokens and stops (R240, R247, R248). -/

namespace Sys2Proof.Machine

open Sys2Proof.Claims

variable {s : State} {core id : Nat} {o : EngineOp} {e : Elem} {qo : Queue}

/-! Tokens. -/

/-- A state with the token at the head of a stream's index queue passed on. -/
def tokenPassed (s : State) (core : Nat) (o : EngineOp) (e : Elem) : State :=
  sendElem (popForGen s core o.gen o.portIn o.qin) o.qout (streamElem o e.tag (e.data.getD 0))

theorem referencePop_of_token (hw : Working s core id o) (hk : o.kind = .refs) (hhead : indexHead s core o = some e)
    (hqo : s.queue o.qout = some qo) (htag : e.tag ≠ 0) (hgood : e.bad = false) (hcred : 0 < creditsOf qo o.gen) (k : Nat) :
    exec (.referencePop core ⟨id, k⟩) s = .next (
      if e.tag = 4 then completeEngine (tokenPassed s core o e) core o true 0 0 else tokenPassed s core o e) := by
  have hhead' : streamHead s core o = some e := hhead
  refine (onOp_next hw.op (by simp [hk, hw.may])).trans ?_
  simp only [hhead', hqo, ne_eq, htag, not_false_eq_true, if_true, hgood, Bool.false_eq_true, if_false, hcred.ne', enginePush_eq, tokenPassed]

theorem tokenPassed_mem : (tokenPassed s core o e).mem = s.mem := (sendElem_mem ..).trans (popForGen_mem ..)

/-- A token is passed on, and eos ends the stream (R247). -/
theorem token_leaves :
    let t := if e.tag = 4 then completeEngine (tokenPassed s core o e) core o true 0 0 else tokenPassed s core o e
    t.mem = s.mem ∧ t.queues = (tokenPassed s core o e).queues ∧ (e.tag = 4 → ∀ p ∈ (t.core core).ops, p.id ≠ o.id) := by
  intro t
  by_cases h : e.tag = 4
  · have ht : t = completeEngine (tokenPassed s core o e) core o true 0 0 := if_pos h
    rw [ht]
    refine ⟨(completeEngine_mem ..).trans tokenPassed_mem, completeEngine_queues .., fun _ p hp => ?_⟩
    rw [completeEngine_core] at hp
    exact mem_ops_coreWithout hp
  · have ht : t = tokenPassed s core o e := if_neg h
    rw [ht]
    exact ⟨tokenPassed_mem, rfl, fun h' => absurd h' h⟩

/-! Stops. -/

/-- An operation of a stream with a stop word for the index at the head of its queue (R248). -/
def streamStopped (o : EngineOp) (e : Elem) (cause : Nat) (dead : Bool) : EngineOp :=
  { o with fetches := [], stop := some (stopAt ((e.data.getD 0) <<< 8) cause), dead := dead }

section

variable (hw : Working s core id o) (hk : o.kind = .refs) (hhead : indexHead s core o = some e)

include hw hk hhead

theorem referenceStop_of_badIndex (hbad : e.bad = true) : exec (.referenceStop core id) s = .next (setOp s core (streamStopped o e 0x13 true)) := by
  have hhead' : streamHead s core o = some e := hhead
  refine (onOp_next hw.op (by simp [hk, hw.may])).trans ?_
  simp only [hhead', hbad, if_true, stopWord_eq]
  rfl

variable (hgood : e.bad = false) (htag : e.tag = 0)

include hgood htag

theorem referenceStop_of_trap {c : Cause} {v : Word} (hflight : inFlight s core o = [])
    (hc : accessCells s (partyOp core o) .die false false (o.src + e.data.getD 0 * BitVec.ofNat 64 o.size) o.size = .error (.trap c v)) :
    exec (.referenceStop core id) s = .next (setOp s core (streamStopped o e c.code false)) := by
  have hhead' : streamHead s core o = some e := hhead
  have href : reference s core o (e.data.getD 0) = .fault (e.data.getD 0 <<< 8) c.code := by
    unfold reference referenceAt
    rw [hc]
    rfl
  refine (onOp_next hw.op (by simp [hk, hw.may])).trans ?_
  simp only [hhead', hgood, htag, hflight, href, stopWord_eq]
  rfl

variable {f : Fetch} {rest : List Fetch} (hflight : inFlight s core o = f :: rest)

include hflight

theorem referenceStop_of_badLine {b : Nat} (hb : b ∈ f.unread) {c : Nat} (hc : c ∈ lineCells f.cells b) (hbad : isPoisoned s c = true) :
    exec (.referenceStop core id) s = .next (setOp s core (streamStopped o e 0x13 true)) := by
  have hhead' : streamHead s core o = some e := hhead
  have hany : (f.unread.any fun b => (lineCells f.cells b).any (isPoisoned s)) = true :=
    List.any_eq_true.2 ⟨b, hb, List.any_eq_true.2 ⟨c, hc, hbad⟩⟩
  refine (onOp_next hw.op (by simp [hk, hw.may])).trans ?_
  simp only [hhead', hgood, htag, hflight, hany, stopWord_eq]
  rfl

theorem referenceStop_of_lockedRing (hread : f.unread = []) (hrow : o.row = true) (hroom : rowsOut s o ≤ o.slots - 2)
    (hlock : spadLocked (s.core core) o.spadBase o.spadSize ((o.ring + o.placed % o.slots * o.size) % o.spadSize) o.size (some o.id) = true) :
    exec (.referenceStop core id) s = .next (setOp s core (streamStopped o e 0x0E false)) := by
  have hhead' : streamHead s core o = some e := hhead
  have hlocked : ringLocked s core o = true := by
    unfold ringLocked
    rw [hrow]
    exact hlock
  have hfull : ringFull s o = false := ringFull_eq_false_iff.2 fun _ => hroom
  refine (onOp_next hw.op (by simp [hk, hw.may])).trans ?_
  simp only [hhead', hgood, htag, hflight, hread, hlocked, hfull, stopWord_eq]
  rfl

end

end Sys2Proof.Machine
end

section
/-! How engine operations complete (R210, R238, R241, R249). -/

namespace Sys2Proof.Machine

open Sys2Proof.Claims

variable {s : State} {core id : Nat} {o : EngineOp}

theorem mayEnd_iff : mayEnd s core o = true ↔ (s.core core).preempted = false ∧ o.lost = false := by
  simp [mayEnd]

theorem putBit_zero (ok : Bool) : putBit ok 0 = if ok then 1 else 0 := by
  cases ok <;> rfl

/-- What a completed operation leaves: its core without it, and its strand with the status word, the counter and cp less 1. -/
theorem completeEngine_of_byGen {place : Nat} {st : Strand} (hst : s.byGen core o.gen = some (place, st)) (ok : Bool) (cause detail : Nat) :
    completeEngine s core o ok cause detail =
      (s.setCore core { s.core core with
        ops := (s.core core).ops.filter (fun p => p.id != o.id)
        locks := (s.core core).locks.filter fun l => l.op != o.id }).setStrand
      core place { (st.deliverX o.reg (put (o.bytes % 2 ^ 32) 32 ||| put detail 8 ||| put cause 1 ||| if ok then 1 else 0)).complete o.cn with
        cp := st.cp - 1 } := by
  have hst' : (s.setCore core (coreWithout (s.core core) o)).byGen core o.gen = some (place, st) := hst
  rw [completeEngine_eq, State.onGen, hst', ← putBit_zero]
  rfl

section

variable (hop : findOp s core id = some o) (hend : mayEnd s core o = true)

include hop hend

theorem engineComplete_of_copy (hk : o.kind = .copy) (hpkg : o.pkg = none) (hstop : o.stop = none) (hdone : sectorsDone o = true) (ext : Nat) :
    exec (.engineComplete core id ext) s = .next (completeEngine s core o true 0 0) := by
  refine (onOp_next hop (by simp [hk, hend])).trans ?_
  simp [hk, hpkg, hstop, hdone]

/-- A copy to another package ends by what the peer does (R241). -/
theorem engineComplete_of_peer (hk : o.kind = .copy) {p : Nat} (hpkg : o.pkg = some p) {ext : Nat} {ok : Bool} {cause detail : Nat}
    (h : (peerReaches s core p = false ∧ ok = false ∧ cause = 2 ∧ detail = 0) ∨
      (peerReaches s core p = true ∧ ext ≠ 0 ∧ ok = false ∧ cause = 3 ∧ detail = 0) ∨
      (peerReaches s core p = true ∧ ext = 0 ∧ o.stop = none ∧ sectorsDone o = true ∧ ok = true ∧ cause = 0 ∧ detail = 0)) :
    exec (.engineComplete core id ext) s = .next (completeEngine s core o ok cause detail) := by
  refine (onOp_next hop (by simp [hk, hend])).trans ?_
  rcases h with ⟨hreach, rfl, rfl, rfl⟩ | ⟨hreach, hext, rfl, rfl, rfl⟩ | ⟨hreach, rfl, hstop, hdone, rfl, rfl, rfl⟩
  · simp [hpkg, hreach]
  · simp [hpkg, hreach, hext]
  · simp [hpkg, hreach, hstop, hdone]

theorem engineComplete_of_send (hk : o.kind = .send) (hpkg : o.pkg = none) (hstop : o.stop = none) (hdone : sectorsDone o = true)
    (hadds : o.adds = 0) (hdests : ∀ d ∈ o.dests, d.ended = true) (ext : Nat) :
    exec (.engineComplete core id ext) s = .next (completeEngine s core o (decide (o.cause = 0)) o.cause 0) := by
  have hall : o.dests.all (·.ended) = true := List.all_eq_true.2 hdests
  refine (onOp_next hop (by simp [hk, hend])).trans ?_
  simp [hk, hpkg, hstop, hdone, hadds, hall, Bool.beq_eq_decide_eq]

theorem storageComplete_of_status (hk : o.kind = .sread ∨ o.kind = .swrite) {status : Nat} {ok : Bool} {cause detail : Nat}
    (h : (o.cause ≠ 0 ∧ ok = false ∧ cause = o.cause ∧ detail = 0) ∨
      (o.cause = 0 ∧ status % 2048 ≠ 0 ∧ ok = false ∧ cause = 5 ∧ detail = status % 2048) ∨
      (o.cause = 0 ∧ status % 2048 = 0 ∧ sectorsDone o = true ∧ ok = true ∧ cause = 0 ∧ detail = 0)) :
    exec (.storageComplete core id status) s = .next (completeEngine s core o ok cause detail) := by
  have hkind : (o.kind == .sread || o.kind == .swrite) = true := by simpa using hk
  refine (onOp_next hop (by rw [hkind, hend]; rfl)).trans ?_
  rcases h with ⟨hc, rfl, rfl, rfl⟩ | ⟨hc, hs, rfl, rfl, rfl⟩ | ⟨hc, hs, hdone, rfl, rfl, rfl⟩
  · simp [hc]
  · simp [hc, hs]
  · simp [hc, hs, hdone]

end

end Sys2Proof.Machine
end

section
/-! The engines' steps (O45), clause by clause. -/

namespace Sys2Proof.Machine

open Sys2Proof.Claims

/-- Settles O45: each clause is what the lemmas above say of the step that it names. -/
theorem engineSteps : Obligations.EngineSteps := by
  refine ⟨?sector, ?read, ?write, ?stop, ?start, ?deliver, ?add, ?stream, ?streamStop, ?complete⟩
  case sector =>
    intro s core id k o from_ to_ hw hk hpkg hc hu hf hlen hs
    exact (sectorStep_begins hw hk hpkg hc hu hf hlen hs k).trans (congrArg _ (openSector_eq _ hpkg hu hf))
  case read =>
    intro s core id o b hw hk hpkg hc hb hgood hr
    have hnot : o.kind ≠ .refs := by rcases hk with h | h | h <;> rw [h] <;> decide
    obtain ⟨k, hstep⟩ := sectorStep_reads ⟨hw, hnot, hpkg, hc, sectorsDone_of_left (.inr (.inl (List.ne_nil_of_mem hb)))⟩ hb
    exact ⟨k, _, hstep, readBeat_of_copy_or_more hgood hr, readBeat_of_send hgood hr,
      fun n hk hnil hn hpos hpage hlen => readBeat_of_swrite hgood hr hw.op hk hnil hn hpos hpage hlen⟩
  case write =>
    intro s core id o b bytes hw hk hpkg hc hb hl hm
    have hnot : o.kind ≠ .refs := by rcases hk with h | h <;> rw [h] <;> decide
    obtain ⟨k, hstep⟩ := sectorStep_writes ⟨hw, hnot, hpkg, hc, sectorsDone_of_left (.inr (.inr (List.ne_nil_of_mem hb)))⟩ hk hb
    obtain ⟨t0, hstored, hmoved⟩ := writeBeat_of_free hpkg hl hm
    exact ⟨k, t0, _, hstep, hstored, hmoved⟩
  case stop =>
    intro s core id o hw hk hc hpkg hlost lo n
    have hleft : sectorsDone o = false → CopyLeft s core id o := fun h => ⟨hw, hk, hc, hpkg, hlost, h⟩
    refine ⟨fun from_ to_ hu hf hlen hpad hsrc hgood hdst hl => ?_, fun b bytes hb hgood hl => ?_, fun b hb hbad => ?_⟩
    · have hcopy := hleft (sectorsDone_of_left (.inl hlen))
      have hfault := sectorState_of_locked hcopy hpad hsrc hgood hdst hl
      exact ⟨fun k => sectorStep_of_fault hcopy.steppable k hu hf hfault, engineStop_of_fault hcopy hu hf hfault⟩
    · exact engineStop_of_locked (hleft (sectorsDone_of_left (.inr (.inr (List.ne_nil_of_mem hb))))) hb hgood hl
    · exact engineStop_of_bad (hleft (sectorsDone_of_left (.inr (.inl (List.ne_nil_of_mem hb))))) hb hbad
  case start =>
    intro s core chan t0 rest place st c hpre hbusy hwait hlive hfit hlock
    refine (show exec _ s = execChannelTransferStart core chan s from rfl).trans ?_
    rw [execChannelTransferStart, if_neg (Bool.eq_false_iff.1 hpre), startTransfer_of_lock hbusy hwait hlive hfit hlock]
  case deliver =>
    intro s core chan t0 b more place st hpre hcur hbeats hlive h n hn hlet hlast h'
    have hstep := beatDelivery_of_let hpre hcur hbeats hlive hlet
    by_cases hend : h.stop ≤ h.wp + n
    · rw [if_pos hend] at hstep
      obtain ⟨hmem, hstrands, hchan, hlocks, hop, hspad, hbad⟩ :=
        endTransfer_beatWritten (s := s) (core := core) (chan := chan) (b := b) (st := st) _ rfl (hlast.resolve_left (Nat.not_lt.2 hend))
      exact ⟨_, hstep, hmem, hstrands, fun hlt => absurd hlt (Nat.not_lt.2 hend), fun _ => ⟨hchan, hlocks, hop⟩,
        spad_of_delivered hn hspad hbad⟩
    · rw [if_neg hend] at hstep
      refine ⟨_, hstep, beatWritten_mem, beatWritten_strands, fun _ => ⟨beatWritten_channel, fun _ => findOp_beatWritten⟩,
        fun hle => absurd hle hend, spad_of_delivered (more := more) hn ?_ ?_⟩ <;> rw [core_beatWritten]
  case add =>
    intro s core chan a ha h8 hgood hlet
    obtain ⟨k, t, hstep, hstored⟩ := beatDelivery_of_add ha h8 hgood hlet
    obtain ⟨hmem, hstrands, hqueues⟩ := addTaken_frame s core chan a
    exact ⟨k, addTaken s core chan a, t, hstep, hmem, hstrands, hqueues, addTaken_adds s core chan a, hstored⟩
  case stream =>
    intro s core id o e qo hw hk hhead hqo
    refine ⟨fun htag hflight => ?_, fun htag hgood hcred k => ?_⟩
    · have hstep {x : StreamStep} (hx : x ∈ streamSteps s core o) := exists_streamStep hw hk hhead hqo htag hflight hx
      refine ⟨fun x cells hpre hroom hx hgood hc => ?_, fun j f b hf hb hgood hmay => ?_, fun f rest hf hread hcred hlen hsize hring => ?_⟩
      · obtain ⟨k, hk⟩ := hstep (take_mem_streamSteps hpre hroom hx hgood)
        exact ⟨k, hk.trans (congrArg _ (streamStep_take hc))⟩
      · obtain ⟨k, hk⟩ := hstep (read_mem_streamSteps hf hb)
        exact ⟨k, hk.trans (congrArg _ (streamStep_read hgood hmay))⟩
      · obtain ⟨k, hk⟩ := hstep (push_mem_streamSteps hf hread)
        exact ⟨k, _, hk, push_leaves hw.op hf hcred hlen hsize hring⟩
    · exact ⟨_, referencePop_of_token hw hk hhead hqo htag hgood hcred k, token_leaves⟩
  case streamStop =>
    intro s core id o e hw hk hhead stops
    refine ⟨referenceStop_of_badIndex hw hk hhead, fun c v hgood htag hflight hc => ?_, fun f rest hgood htag hflight => ⟨?_, ?_⟩⟩
    · exact referenceStop_of_trap hw hk hhead hgood htag hflight hc
    · rintro ⟨b, hb, c, hc, hbad⟩
      exact referenceStop_of_badLine hw hk hhead hgood htag hflight hb hc hbad
    · exact referenceStop_of_lockedRing hw hk hhead hgood htag hflight
  case complete =>
    intro i s core id o ok cause detail place st hop hst hpre hlost moved h
    have hend := mayEnd_iff.2 ⟨hpre, hlost⟩
    rw [← completeEngine_of_byGen hst]
    rcases h with ⟨rfl, hk, hpkg, hstop, hmoved, rfl, rfl, rfl⟩ | ⟨p, ext, rfl, hk, hpkg, h⟩ |
        ⟨rfl, hk, hpkg, hstop, hmoved, hadds, hdests, rfl, rfl, rfl⟩ | ⟨status, rfl, hk, h⟩
    · exact engineComplete_of_copy hop hend hk hpkg hstop (sectorsDone_iff.2 hmoved) 0
    · exact engineComplete_of_peer hop hend hk hpkg (by rwa [sectorsDone_iff])
    · exact engineComplete_of_send hop hend hk hpkg hstop (sectorsDone_iff.2 hmoved) hadds hdests 0
    · exact storageComplete_of_status hop hend hk (by rwa [sectorsDone_iff])

end Sys2Proof.Machine
end

section
/-! O43: what copy and send do up to their acceptance. -/

namespace Sys2Proof.Machine

open Sys2Proof.Claims

variable {s : State} {cx : Ctx} {i : Instr}

/-! The checks of several ranges. -/

/-- The first range that fails stops the command. -/
theorem checkRanges_of_trap {rs rest : List (Bool × Word × Nat)} (h : ∀ r ∈ rs, RangeGood s cx r.1 r.2.1 r.2.2) {write : Bool} {a : Word}
    {n : Nat} {c : Cause} {v : Word} (hbad : rangeCheck s (partyOf cx.core cx.st) write a n = .error (.trap c v)) :
    checkRanges (operandsOf s cx) (rs ++ (write, a, n) :: rest) = .error (.trap c v) := by
  have hf : failedRange (operandsOf s cx) (rs ++ (write, a, n) :: rest) = some (.trap c v) := by
    induction rs with
    | nil =>
      show failedRange (operandsOf s cx) ((write, a, n) :: rest) = _
      unfold failedRange
      rw [show rangeCheck (operandsOf s cx).s (partyOf (operandsOf s cx).cx.core (operandsOf s cx).cx.st) write a n = _ from hbad]
    | cons r rs ih =>
      rw [List.cons_append]
      unfold failedRange
      rw [show rangeCheck (operandsOf s cx).s (partyOf (operandsOf s cx).cx.core (operandsOf s cx).cx.st) r.1 r.2.1 r.2.2 = _ from
        h r List.mem_cons_self]
      exact ih fun q hq => h q (List.mem_cons_of_mem _ hq)
  unfold checkRanges
  rw [hf]
  rfl

/-- What a command does once its ranges are checked, as the issue of each command writes it out. -/
def afterChecks (k : Vals → Except Stop Done) : Except Stop Vals → Except Stop Done
  | .error e => .error e
  | .ok v => k v

theorem afterChecks_ok {x : Except Stop Vals} {v : Vals} {k : Vals → Except Stop Done} (h : x = .ok v) : afterChecks k x = k v := by
  rw [h]
  rfl

theorem afterChecks_error {x : Except Stop Vals} {e : Stop} {k : Vals → Except Stop Done} (h : x = .error e) :
    afterChecks k x = .error e := by
  rw [h]
  rfl

/-! What the checks leave alone. -/

theorem touch_lid (s : State) (core : Nat) (a : Word) (k : Nat) : ((touch s core a).core k).lid = (s.core k).lid := by
  obtain ⟨l, h⟩ := core_touch s core a k
  rw [h]

theorem touch_partOf (s : State) (core : Nat) (a : Word) (k : Nat) : partOf (touch s core a) k = partOf s k := by
  rw [touch_frame]
  rfl

theorem touch_launchOf (s : State) (core : Nat) (a : Word) (k : Nat) : launchOf (touch s core a) k = launchOf s k := by
  unfold launchOf
  rw [touch_lid, touch_partOf, touch_frame]
  rfl

theorem touchedBy_partOf (rs : List (Word × Nat)) (k : Nat) : partOf (touchedBy s cx rs) k = partOf s k :=
  foldl_field (partOf · k) _ (fun _ _ => (touch_partOf ..).trans (touch_partOf ..)) rs s

theorem touchedBy_launchOf (rs : List (Word × Nat)) (k : Nat) : launchOf (touchedBy s cx rs) k = launchOf s k :=
  foldl_field (launchOf · k) _ (fun _ _ => (touch_launchOf ..).trans (touch_launchOf ..)) rs s

/-! The words of the statement and of the model. -/

theorem packageNamed_eq : packageNamed = fun s cx p => packageOf (operandsOf s cx) p := by
  funext s cx p
  have h : ((readReg s cx p).extractLsb' 0 16).toNat = (readReg s cx p).toNat % 65536 := by simp
  unfold packageNamed packageOf
  simp only [h]
  rfl

theorem padWord_eq : padWord = fun s cx o => BitVec.ofNat 64 (ofLe (spadRead (s.core cx.core) cx.st.spadBase cx.st.spadSize 0 o 8)) := by
  funext s cx o
  unfold padWord
  rw [ofLe_eq_little, spadRead, List.length_map, List.length_range, spadPos_eq_padIn]
  refine congrArg _ (little_congr fun k hk => ?_)
  simp [hk, padPlace]

theorem rangesMeet_iff {a b : Word} {n : Nat} (hn : 0 < n) :
    rangesMeet a n b n = true ↔ oidOf a = oidOf b ∧ offOf a < offOf b + n ∧ offOf b < offOf a + n := by
  simp [rangesMeet, oidOf, offOf, hn, and_assoc]

/-! The ranges of a copy. -/

/-- The ranges that a copy checks: its source in memory, its destination in this package. -/
def copyRanges (spad : Bool) (p : Option Nat) (a b : Word) (n : Nat) : List (Bool × Word × Nat) :=
  (if spad then [] else [(false, a, n)]) ++ if p.isSome then [] else [(true, b, n)]

section

variable {spad : Bool} {p : Option Nat} {a b : Word} {n : Nat}

theorem checkRanges_copy (ha : spad = false → RangeGood s cx false a n) (hb : p = none → RangeGood s cx true b n) :
    checkRanges (operandsOf s cx) (copyRanges spad p a b n) =
      .ok (touchedOperands s cx ((if spad then [] else [(a, n)]) ++ if p.isSome then [] else [(b, n)])) := by
  have hmap : (copyRanges spad p a b n).map (·.2) = (if spad then [] else [(a, n)]) ++ if p.isSome then [] else [(b, n)] := by
    cases spad <;> cases p <;> rfl
  rw [← hmap]
  refine checkRanges_of_good fun r hr => ?_
  rcases List.mem_append.1 hr with hr | hr
  · cases spad with
    | false => exact List.mem_singleton.1 hr ▸ ha rfl
    | true => cases hr
  · cases p with
    | none => exact List.mem_singleton.1 hr ▸ hb rfl
    | some => cases hr

theorem checkRanges_copy_source {c : Cause} {v : Word} (hspad : spad = false)
    (h : rangeCheck s (partyOf cx.core cx.st) false a n = .error (.trap c v)) :
    checkRanges (operandsOf s cx) (copyRanges spad p a b n) = .error (.trap c v) := by
  subst hspad
  exact checkRanges_of_trap (rs := []) (by simp) h

theorem checkRanges_copy_dest {c : Cause} {v : Word} (ha : spad = true ∨ RangeGood s cx false a n) (hp : p = none)
    (h : rangeCheck s (partyOf cx.core cx.st) true b n = .error (.trap c v)) :
    checkRanges (operandsOf s cx) (copyRanges spad p a b n) = .error (.trap c v) := by
  subst hp
  cases spad with
  | false => exact checkRanges_of_trap (rs := [(false, a, n)]) (by simpa using ha) h
  | true => exact checkRanges_of_trap (rs := []) (by simp) h

/-- Whether the two ranges of a copy within this package overlap in one object (R241). -/
theorem copyMeets_iff (hn : 0 < n) : (!spad && p.isNone && rangesMeet a n b n) = true ↔
    spad = false ∧ p = none ∧ oidOf a = oidOf b ∧ offOf a < offOf b + n ∧ offOf b < offOf a + n := by
  rw [Bool.and_eq_true, Bool.and_eq_true, Bool.not_eq_true', Option.isNone_iff_eq_none, rangesMeet_iff hn, and_assoc]

end

/-! The ranges and the descriptor of a send. -/

/-- The ranges that a send checks: its source in memory and its arrival word. -/
def sendRanges (spad : Bool) (arr : Reg) (a w : Word) (n : Nat) : List (Bool × Word × Nat) :=
  (if spad then [] else [(false, a, n)]) ++ if arr ≠ .x 0 then [(true, w, 8)] else []

section

variable {spad : Bool} {arr : Reg} {a w : Word} {n : Nat}

theorem checkRanges_send (ha : spad = false → RangeGood s cx false a n) (hw : arr ≠ .x 0 → RangeGood s cx true w 8) :
    checkRanges (operandsOf s cx) (sendRanges spad arr a w n) =
      .ok (touchedOperands s cx ((if spad then [] else [(a, n)]) ++ if arr = .x 0 then [] else [(w, 8)])) := by
  have hmap : (sendRanges spad arr a w n).map (·.2) = (if spad then [] else [(a, n)]) ++ if arr = .x 0 then [] else [(w, 8)] := by
    unfold sendRanges
    by_cases harr : arr = .x 0 <;> cases spad <;> simp [harr]
  rw [← hmap]
  refine checkRanges_of_good fun r hr => ?_
  rcases List.mem_append.1 hr with hr | hr
  · cases spad with
    | false => exact List.mem_singleton.1 hr ▸ ha rfl
    | true => cases hr
  · by_cases harr : arr = .x 0
    · rw [if_neg (not_not.2 harr)] at hr
      cases hr
    · rw [if_pos harr] at hr
      exact List.mem_singleton.1 hr ▸ hw harr

theorem checkRanges_send_source {c : Cause} {v : Word} (hspad : spad = false)
    (h : rangeCheck s (partyOf cx.core cx.st) false a n = .error (.trap c v)) :
    checkRanges (operandsOf s cx) (sendRanges spad arr a w n) = .error (.trap c v) := by
  subst hspad
  exact checkRanges_of_trap (rs := []) (by simp) h

theorem checkRanges_send_arrival {c : Cause} {v : Word} (ha : spad = false → RangeGood s cx false a n) (harr : arr ≠ .x 0)
    (h : rangeCheck s (partyOf cx.core cx.st) true w 8 = .error (.trap c v)) :
    checkRanges (operandsOf s cx) (sendRanges spad arr a w n) = .error (.trap c v) := by
  unfold sendRanges
  rw [if_pos harr]
  cases spad with
  | false => exact checkRanges_of_trap (rs := [(false, a, n)]) (by simpa using ha) h
  | true => exact checkRanges_of_trap (rs := []) (by simp) h

end

/-- What a send does with a descriptor in its registers, or in the 32 bytes of a slab. -/
def afterSlab (e : Except Stop Done) : Option Nat → Except Stop Done
  | some o => .error (.detail .memUncorrectable 1 (BitVec.ofNat 64 o))
  | none => e

theorem afterSlab_none {x : Option Nat} {e : Except Stop Done} (h : x = none) : afterSlab e x = e := by
  rw [h]
  rfl

/-- The destinations that a send's descriptor names (R242, R243). -/
def sendFound (s : State) (part lid : Nat) (slab : Bool) (w0 w1 w2 : Word) (n : Nat) : List SendDest × Bool :=
  if slab then
    sendDests s part lid (bits w0 7 0) (bits w0 50 48) (bits w0 31 16) (bits w0 47 32) (bits w1 31 0) (bits w2 18 0) n
  else sendDests s part lid (bits w0 55 48) (bits w0 31 29) (bits w0 47 32) 1 n (bits w0 18 0) n

/-- What becomes of a send with its descriptor read: cause 1 for a bad one, cause 2 with no launch or no destination (R242, R243). -/
def sendOutcome (u : Vals) (r0 : Reg) (cn : Option (BitVec 4)) (bad : Prop) [Decidable bad] (l : Option Launch)
    (found : List SendDest × Bool) (op : List SendDest × Bool → EngineOp) (lock : EngineOp → RangeLock) : Except Stop Done :=
  if bad then doneAtOnce u r0 cn false 1
  else if l.isNone ∨ found.1.isEmpty then doneAtOnce u r0 cn false 2
  else accept u (op found) [lock (op found)]

/-- The operation of a send, from what its issue leaves of an operation to be filled in. -/
def sendOp (o : EngineOp) (spad : Bool) (a w : Word) (n : Nat) (arr : Reg) (swz : BitVec 2) (found : List SendDest × Bool) : EngineOp :=
  { o with src := a, fromSpad := spad, len := n, arr := if arr ≠ .x 0 then w else 0, swz := swz.toNat, dests := found.1
           cause := if found.2 then 2 else 0 }

/-- A send has an arrival word when it names a register for it. -/
theorem sendOp_eq (o : EngineOp) (spad : Bool) (a w : Word) (n : Nat) (arr : Reg) (swz : BitVec 2) :
    sendOp o spad a w n arr swz = fun found => { o with
      src := a, fromSpad := spad, len := n, arr := if arr = .x 0 then 0 else w, swz := swz.toNat, dests := found.1
      cause := if found.2 then 2 else 0 } := by
  unfold sendOp
  rw [ite_not]

/-- Settles O43: each command runs through its tests in order, to a trap, a completion at once or its acceptance. -/
theorem copyAndSendBegin : Obligations.CopyAndSendBegin := by
  unfold Obligations.CopyAndSendBegin
  rw [field_eq, packageNamed_eq, padWord_eq]
  refine ⟨?copy, ?send⟩
  case copy =>
    intro r src dst len pkg scope spad cn s cx pc i h hpc n a b p meet
    have hx : exec i s = execCopy (.x r) src dst len pkg scope spad cn s := rfl
    unfold execCopy at hx
    have ends {v : Vals} {ok : Bool} {cause : Nat} := endsAtOnce_of_doneAtOnce (v := v) (r := r) (cn := cn) (ok := ok)
      (cause := cause) (pc := pc) hx rfl h
    refine ⟨fun h0 => ?_, fun h32 => ?_, fun h0 h32 => ?_⟩
    · exact statusWord_ok ▸ ends (v := operandsOf s cx) rfl rfl hpc (if_pos h0)
    · have h0 : n ≠ 0 := by omega
      exact statusWord_failed 1 ▸ ends (v := operandsOf s cx) rfl rfl hpc ((if_neg h0).trans (if_pos h32))
    have traps {c : Cause} {v : Word} (ht : CanTrap s cx)
        (hc : checkRanges (operandsOf s cx) (copyRanges spad p a b n) = .error (.trap c v)) : TrapsAt i s cx c v :=
      trapsAt_of_body (e := .trap c v) hx h ((if_neg h0.ne').trans ((if_neg (Nat.not_le.2 h32)).trans (afterChecks_error hc))) rfl ht rfl
    refine ⟨fun c v hspad hbad ht => traps ht (checkRanges_copy_source hspad hbad),
      fun c v ha hp hbad ht => traps ht (checkRanges_copy_dest ha hp hbad), fun ha hb => ?_⟩
    have hc := checkRanges_copy (p := p) ha hb
    refine ⟨fun hmeet => ?_, fun hmeet => ?_⟩
    · refine statusWord_failed 1 ▸ ends (v := touchedOperands s cx _) rfl (touchedBy_cursor _) hpc
        ((if_neg h0.ne').trans ((if_neg (Nat.not_le.2 h32)).trans ((afterChecks_ok hc).trans (if_pos ((copyMeets_iff h0).2 hmeet)))))
    · intro o
      refine accepts_of_accept (v := touchedOperands s cx _) (o := o) hx rfl h rfl (touchedBy_cursor _) hpc
        ((if_neg h0.ne').trans ((if_neg (Nat.not_le.2 h32)).trans ((afterChecks_ok hc).trans ((if_neg ((copyMeets_iff h0).not.2 hmeet)).trans ?_))))
      rw [newOp_touchedOperands]
      rfl
  case send =>
    intro r src len dest arr scope spad slab swz cn s cx pc i h hpc n a w at0 w0 w1 w2 bad
    have hx : exec i s = execSend (.x r) src len dest arr scope spad slab swz cn s := rfl
    unfold execSend at hx
    have ends {v : Vals} {ok : Bool} {cause : Nat} := endsAtOnce_of_doneAtOnce (v := v) (r := r) (cn := cn) (ok := ok)
      (cause := cause) (pc := pc) hx rfl h
    refine ⟨fun h0 => ?_, fun h32 => ?_, fun h0 h32 => ⟨fun ht harr hmis => ?_, ?_⟩⟩
    · exact statusWord_ok ▸ ends (v := operandsOf s cx) rfl rfl hpc (if_pos h0)
    · have h0 : n ≠ 0 := by omega
      exact statusWord_failed 1 ▸ ends (v := operandsOf s cx) rfl rfl hpc ((if_neg h0).trans (if_pos h32))
    · exact trapsAt_of_body (e := .trap .misaligned w) hx h ((if_neg h0.ne').trans ((if_neg (Nat.not_le.2 h32)).trans (if_pos ⟨harr, hmis⟩)))
        rfl ht rfl
    have traps {c : Cause} {v : Word} (ht : CanTrap s cx) (hal : arr ≠ .x 0 → w.toNat % 8 = 0)
        (hc : checkRanges (operandsOf s cx) (sendRanges spad arr a w n) = .error (.trap c v)) : TrapsAt i s cx c v :=
      trapsAt_of_body (e := .trap c v) hx h ((if_neg h0.ne').trans ((if_neg (Nat.not_le.2 h32)).trans
        ((if_neg fun hm => hm.2 (hal hm.1)).trans (afterChecks_error hc)))) rfl ht rfl
    refine ⟨fun c v ht hal hspad hbad => traps ht hal (checkRanges_send_source hspad hbad),
      fun c v ht harr hal ha hbad => traps ht (fun _ => hal) (checkRanges_send_arrival ha harr hbad), fun hw ha hslab => ?_⟩
    have hc := checkRanges_send ha fun harr => (hw harr).2
    have hs : (if slab then spadBad (s.core cx.core) cx.st.spadBase cx.st.spadSize 0 at0 32 else none) = none := by
      split
      next hsl => exact spadBad_eq_none_iff.2 (hslab hsl).2
      · rfl
    let rs := (if spad then [] else [(a, n)]) ++ if arr = .x 0 then [] else [(w, 8)]
    obtain ⟨uses, body, hx, hu, hb⟩ : ∃ uses body, exec i s = issue i uses s body ∧ uses cx = usesOf s cx i ∧
        body (operandsOf s cx) = sendOutcome (touchedOperands s cx rs) (.x r) cn bad (launchOf (touchedBy s cx rs) cx.core)
          (sendFound (touchedBy s cx rs) ((partOf (touchedBy s cx rs) cx.core).getD 0)
            (((launchOf (touchedBy s cx rs) cx.core).map (·.lid)).getD 0) slab w0 w1 w2 n)
          (sendOp (newOp (touchedOperands s cx rs) .send (.x r) cn scope) spad a w n arr swz) (sourceLock · spad a n) := by
      refine ⟨_, _, rfl, rfl, (if_neg h0.ne').trans ((if_neg (Nat.not_le.2 h32)).trans
        ((if_neg fun hm => hm.2 (hw hm.1).1).trans ((afterChecks_ok hc).trans ((afterSlab_none hs).trans ?_))))⟩
      rfl
    rw [touchedBy_launchOf, touchedBy_partOf, newOp_touchedOperands, sendOp_eq] at hb
    have ends {ok : Bool} {cause : Nat} (hb : body (operandsOf s cx) = doneAtOnce (touchedOperands s cx rs) (.x r) cn ok cause) :=
      endsAtOnce_of_doneAtOnce (pc := pc) hx hu h rfl (touchedBy_cursor _) hpc hb
    refine ⟨fun hbad => ?_, fun hbad hl => ?_, fun l hbad hl => ⟨fun hf => ?_, fun hf => ?_⟩⟩
    · exact statusWord_failed 1 ▸ ends (hb.trans (if_pos hbad))
    · exact statusWord_failed 2 ▸ ends (hb.trans ((if_neg hbad).trans (if_pos (.inl (by rw [hl]; rfl)))))
    · rw [hl] at hb
      exact statusWord_failed 2 ▸ ends (hb.trans ((if_neg hbad).trans (if_pos (.inr (List.isEmpty_iff.2 hf)))))
    · intro o
      rw [hl] at hb
      refine accepts_of_accept (v := touchedOperands s cx rs) (o := o) hx hu h rfl (touchedBy_cursor _) hpc
        (hb.trans ((if_neg hbad).trans (if_neg ?_)))
      rintro (hno | hno)
      · cases hno
      · exact hf (List.isEmpty_iff.1 hno)

end Sys2Proof.Machine
end

section
/-! O29: what a load does up to its issue. -/

namespace Sys2Proof.Machine

open Sys2Proof.Claims

variable {s : State} {cx : Ctx} {i : Instr} {u : Uses} {v : Vals} {a : Word} {n : Nat}

theorem countLd_of_lt {st : Strand} (h : st.ld < 63) : countLd st = some { st with ld := st.ld + 1 } := if_pos h

/-! Scalar loads. -/

/-- A scalar load outstanding: counted, with its destination reserved. -/
def loadBegins (s : State) (cx : Ctx) (d : Reg) (a : Word) (n : Nat) (sgn : Bool) (ord : Ord) (scope : Scope) (cells : List Nat) : Done :=
  let r := reserve (touchEnds s cx.core a n) { cx.st with ld := cx.st.ld + 1 } d
  { s := r.1
    st := r.2.1.begin { noAccess (.load n sgn) with
      addr := a, ord := ord, scope := scope, dest := r.2.2, spans := [(a, n)], reads := readsOf cells } }

theorem loadAt_ok {d : Reg} {sgn : Bool} {ord : Ord} {scope : Scope} {cells : List Nat} (hld : v.cx.st.ld < 63)
    (ha : ord ≠ .plain → a.toNat % n = 0)
    (hc : accessCells v.s (partyOf v.cx.core v.cx.st) .die false false a n (code := true) = .ok cells) :
    loadAt v d a n sgn ord scope = .ok (loadBegins v.s v.cx d a n sgn ord scope cells) := by
  have hn : ¬(ord ≠ .plain ∧ a.toNat % n ≠ 0) := fun h => h.2 (ha h.1)
  unfold loadAt
  simp only [countLd_of_lt hld, hn, if_false, hc, zipIdx_swap_eq_readsOf]
  rfl

/-- An instruction that loads like `loadAt` retires, once it is ready and its checks pass. -/
theorem completes_of_loadAt {uses : Ctx → Uses} {body : Vals → Except Stop Done} {d : Reg} {sgn : Bool} {ord : Ord} {scope : Scope}
    {cells : List Nat} (hx : exec i s = issue i uses s body)
    (hb : body (operandsOf s cx) = loadAt (operandsOf s cx) d a n sgn ord scope) (h : Ready s cx u)
    (hld : cx.st.ld < 63) (ha : ord ≠ .plain → a.toNat % n = 0)
    (hc : accessCells s (partyOf cx.core cx.st) .die false false a n (code := true) = .ok cells) (hu : uses cx = u := by rfl) :
    Completes i s cx u (loadBegins s cx d a n sgn ord scope cells) (successor s.cursor.header cx.st.pc) :=
  completes_of_body hx h (hb.trans (loadAt_ok (v := operandsOf s cx) hld ha hc))
    ((reserve_cursor _ _ _).trans (touchEnds_cursor _ _ _ _)) (hu := hu)

/-! Vector loads. -/

/-- A vector load outstanding: counted, with its vector register owed. -/
def loadVecBegins (s : State) (st : Strand) (vd : VReg) (a : Word) (chunk : Nat) (spans : List (Word × Nat))
    (reads : List (Nat × Nat)) : Done :=
  { s := s
    st := { st with ld := st.ld + 1, owed := st.owed ++ [64 + vd.val] }.begin { noAccess (.loadVec chunk) with
      addr := a, spans := spans, dest := .v vd.val, reads := reads, base := st.v vd.val } }

theorem loadVecAt_ok {t : State} {vd : VReg} {chunk : Nat} {spans : List (Word × Nat)} {reads : List (Nat × Nat)}
    (hld : v.cx.st.ld < 63) : loadVecAt v t vd a chunk spans reads = .ok (loadVecBegins t v.cx.st vd a chunk spans reads) := by
  unfold loadVecAt
  rw [countLd_of_lt hld]
  rfl

/-- Elements that are loaded from the lanes `ks`, lane k from `addr k` and so from `cells k`. -/
def elementsBegin (s : State) (cx : Ctx) (vd : VReg) (n : Nat) (ks : List Nat) (addr : Nat → Word) (cells : Nat → List Nat) : Done :=
  loadVecBegins (touchAll s cx.core n (ks.map fun k => (k, addr k))) cx.st vd ((ks.head?.map addr).getD 0) n
    (ks.map fun k => (addr k, n)) (ks.flatMap fun k => readsOf (cells k) (n * k))

theorem loadElements_ok {vd : VReg} {t : ElemTy} {ks : List Nat} {addr : Nat → Word} {cells : Nat → List Nat} (hld : v.cx.st.ld < 63)
    (h : ∀ k ∈ ks, accessCells v.s (partyOf v.cx.core v.cx.st) .die false true (addr k) (widthOf t / 8) (code := true) = .ok (cells k)) :
    loadElements v vd t (ks.map fun k => (k, addr k)) = .ok (elementsBegin v.s v.cx vd (widthOf t / 8) ks addr cells) := by
  unfold loadElements
  simp only [elementCells_ok h, loadVecAt_ok hld, List.head?_map, Option.map_map, List.map_map, List.flatMap_map, Function.comp_def]
  rfl

/-- An instruction that loads like `loadElements` retires, once it is ready and the checks of its active lanes pass. -/
theorem completes_of_loadElements {uses : Ctx → Uses} {body : Vals → Except Stop Done} {vd : VReg} {t : ElemTy} {ks : List Nat}
    {addr : Nat → Word} {cells : Nat → List Nat} (hx : exec i s = issue i uses s body)
    (hb : body (operandsOf s cx) = loadElements (operandsOf s cx) vd t (ks.map fun k => (k, addr k))) (h : Ready s cx u)
    (hld : cx.st.ld < 63)
    (hc : ∀ k ∈ ks, accessCells s (partyOf cx.core cx.st) .die false true (addr k) (widthOf t / 8) (code := true) = .ok (cells k))
    (hu : uses cx = u := by rfl) :
    Completes i s cx u (elementsBegin s cx vd (widthOf t / 8) ks addr cells) (successor s.cursor.header cx.st.pc) :=
  completes_of_body hx h (hb.trans (loadElements_ok (v := operandsOf s cx) hld hc)) (touchAll_cursor _ _ _ _) (hu := hu)

/-- Settles O29: the checks pass, so the load retires with its access outstanding and its destination owed. -/
theorem loadsBegin : Obligations.LoadsBegin := by
  refine ⟨fun i d a n sgn ord scope s cx cells pc hi h hld ha hc hpc => ?scalar, fun vd m s cx cells pc h hld hc hpc => ?vector,
    fun i vd t m addr s cx cells pc hi h hld hc hpc => ?elements⟩
  case scalar =>
    subst hpc
    unfold loadOf at hi
    split at hi
    next d m sz =>
      cases hi
      exact completes_of_loadAt rfl (congrArg (loadAt _ _ · _ _ _ _) (effective_eq_addressOf m _)) h hld (fun ho => absurd rfl ho) hc
    next d m sz =>
      cases hi
      exact completes_of_loadAt rfl (congrArg (loadAt _ _ · _ _ _ _) (effective_eq_addressOf m _)) h hld (fun ho => absurd rfl ho) hc
    next d m scope sz =>
      cases hi
      exact completes_of_loadAt rfl (congrArg (loadAt _ _ · _ _ _ _) (effective_eq_addressOf m _)) h hld (fun _ => ha rfl) hc
    · cases hi
  case vector =>
    subst hpc
    have hx : exec (.ldv vd m) s = execLdv vd m s := rfl
    unfold execLdv at hx
    refine completes_of_body hx h ?_ (touchEnds_cursor _ _ _ _)
    rw [← effective_eq_addressOf] at hc ⊢
    simp only [operandsOf, hc, zipIdx_swap_eq_readsOf]
    exact loadVecAt_ok (v := operandsOf s cx) hld
  case elements =>
    subst hpc
    unfold elementsOf at hi
    split at hi
    · cases hi
      exact completes_of_loadElements rfl rfl h hld hc
    · cases hi
    · cases hi
      exact completes_of_loadElements rfl rfl h hld hc
    · cases hi
    · cases hi

end Sys2Proof.Machine
end

section
/-! O34: what a fabric operation does up to its issue. -/

namespace Sys2Proof.Machine

open Sys2Proof.Claims

variable {s : State} {cx : Ctx} {i : Instr} {u : Uses} {v : Vals} {a : Word} {n : Nat} {pkg : Option Nat} {ord : Ord} {scope : Scope}
  {cells : List Nat}

theorem countRemote_of_lt {st : Strand} (h : st.remote < 4095) : countRemote st = some { st with remote := st.remote + 1 } := if_pos h

/-! The cells of an access. -/

/-- A test that fails with an error has passed where the answer is a value. -/
theorem passes_of_ok {ε α : Type} {p : Prop} [Decidable p] {e : ε} {x : Except ε α} {y : α}
    (h : (if p then .error e else x) = .ok y) : x = .ok y := by
  split at h
  · cases h
  · exact h

theorem homeCells_length {core : Nat} {reach : Reach} {phys : List Nat} (h : homeCells s core reach a phys = .ok cells) :
    cells.length = phys.length := by
  unfold homeCells at h
  replace h := passes_of_ok (passes_of_ok h)
  dsimp only at h
  split at h
  · cases h
  · cases h
    exact List.length_map _

/-- An access has a cell for each of its bytes. -/
theorem accessCells_length {p : Party} {reach : Reach} {write locked reads code : Bool}
    (h : accessCells s p reach write locked a n reads code = .ok cells) : cells.length = n := by
  unfold accessCells at h
  replace h := passes_of_ok h
  split at h
  case isTrue =>
    simpa using homeCells_length (passes_of_ok (passes_of_ok (passes_of_ok h)))
  case isFalse =>
    replace h := passes_of_ok (passes_of_ok h)
    split at h
    · cases h
    · replace h := passes_of_ok (passes_of_ok (passes_of_ok (passes_of_ok h)))
      split at h
      · cases h
      next hc =>
        obtain rfl := Except.ok.inj (passes_of_ok h)
        simpa using homeCells_length hc

theorem fabricReaches_iff {reach : Reach} {write reads : Bool} :
    FabricReaches s cx pkg reach write a n reads cells ↔ fabricCells (operandsOf s cx) pkg reach write a n reads = .ok cells := by
  cases pkg with
  | none => exact Iff.rfl
  | some p =>
    show cells = _ ↔ Except.ok _ = Except.ok cells
    rw [Except.ok.injEq]
    exact eq_comm

theorem fabricCells_length {reach : Reach} {write reads : Bool} (h : fabricCells v pkg reach write a n reads = .ok cells) :
    cells.length = n := by
  cases pkg with
  | none => exact accessCells_length h
  | some p =>
    obtain rfl := Except.ok.inj h
    simp

theorem touchFabric_cursor (s : State) (core : Nat) (pkg : Option Nat) (a : Word) (n : Nat) :
    (touchFabric s core pkg a n).cursor = s.cursor := by
  unfold touchFabric
  split
  · rfl
  · exact touchEnds_cursor ..

/-! The bytes of a write. -/

theorem leBytes_eq_map_range (n v : Nat) : leBytes n v = (List.range n).map fun j => BitVec.ofNat 8 (v / 256 ^ j) := by
  refine List.ext_getElem? fun j => ?_
  rw [leBytes_getElem?]
  by_cases hj : j < n <;> simp [hj]

/-- Bytes listed by a function go to their cells in order. -/
theorem zip_range_eq_writesOf (h : cells.length = n) (byte : Nat → Byte) : cells.zip ((List.range n).map byte) = writesOf cells byte := by
  unfold writesOf
  subst h
  refine List.ext_getElem? fun j => ?_
  by_cases hj : j < cells.length
  · simp [hj]
  · simp [hj]

/-! Gets. -/

/-- A get outstanding: counted, with its destination reserved. -/
def getBegins (s : State) (cx : Ctx) (d : Reg) (a : Word) (pkg : Option Nat) (n : Nat) (ord : Ord) (scope : Scope) (cells : List Nat) : Done :=
  let r := reserve (touchFabric s cx.core pkg a n) { cx.st with ld := cx.st.ld + 1 } d
  { s := r.1
    st := r.2.1.begin { noAccess (.get n) with
      addr := a, ord := ord, scope := scope, dest := r.2.2, pkg := pkg, spans := [(a, n)], reads := readsOf cells } }

theorem get_begins {d ra p : Reg} {sz : BitVec 2} (h : Ready s cx (usesOf s cx (.get d ra p ord scope sz))) (hld : cx.st.ld < 63)
    (hal : (readReg s cx ra).toNat % 2 ^ sz.toNat = 0)
    (hc : fabricCells (operandsOf s cx) (packageOf (operandsOf s cx) p) .any false (readReg s cx ra) (2 ^ sz.toNat) true = .ok cells) :
    Completes (.get d ra p ord scope sz) s cx (usesOf s cx (.get d ra p ord scope sz))
      (getBegins s cx d (readReg s cx ra) (packageOf (operandsOf s cx) p) (2 ^ sz.toNat) ord scope cells)
      (successor s.cursor.header cx.st.pc) := by
  have hx : exec (.get d ra p ord scope sz) s = execGet d ra p ord scope sz s := rfl
  unfold execGet at hx
  refine completes_of_body hx h ?_ ((reserve_cursor _ _ _).trans (touchFabric_cursor _ _ _ _ _))
  dsimp only [operandsOf, sizeOf] at hc ⊢
  simp only [countLd_of_lt hld, hal, ne_eq, not_true_eq_false, if_false, hc, zipIdx_swap_eq_readsOf]
  rfl

/-! Puts. -/

/-- A put outstanding: counted, with the bytes that it writes. -/
def putBegins (s : State) (cx : Ctx) (a : Word) (pkg : Option Nat) (n : Nat) (byte : Nat → Byte) (block : Bool) (ord : Ord) (scope : Scope)
    (cells : List Nat) : Done :=
  { s := touchFabric s cx.core pkg a n
    st := { cx.st with remote := cx.st.remote + 1 }.begin { noAccess (.put block) with
      addr := a, ord := ord, scope := scope, pkg := pkg, spans := [(a, n)], writes := writesOf cells byte } }

theorem putAt_ok {byte : Nat → Byte} {block : Bool} (hr : v.cx.st.remote < 4095)
    (hc : fabricCells v pkg .any true a n false = .ok cells) :
    putAt v a pkg ((List.range n).map byte) block ord scope = .ok (putBegins v.s v.cx a pkg n byte block ord scope cells) := by
  unfold putAt
  simp only [countRemote_of_lt hr, List.length_map, List.length_range, hc, zip_range_eq_writesOf (fabricCells_length hc)]
  rfl

theorem put_begins {ra w p : Reg} {sz : BitVec 2} (h : Ready s cx (usesOf s cx (.put ra w p ord scope sz))) (hr : cx.st.remote < 4095)
    (hal : (readReg s cx ra).toNat % 2 ^ sz.toNat = 0)
    (hc : fabricCells (operandsOf s cx) (packageOf (operandsOf s cx) p) .any true (readReg s cx ra) (2 ^ sz.toNat) false = .ok cells) :
    Completes (.put ra w p ord scope sz) s cx (usesOf s cx (.put ra w p ord scope sz))
      (putBegins s cx (readReg s cx ra) (packageOf (operandsOf s cx) p) (2 ^ sz.toNat)
        (fun j => BitVec.ofNat 8 ((readReg s cx w).toNat / 256 ^ j)) false ord scope cells)
      (successor s.cursor.header cx.st.pc) := by
  have hx : exec (.put ra w p ord scope sz) s = execPut ra w p ord scope sz s := rfl
  unfold execPut at hx
  simp only [leBytes_eq_map_range] at hx
  exact completes_of_body hx h ((if_neg (not_not.2 hal)).trans (putAt_ok (v := operandsOf s cx) hr hc)) (touchFabric_cursor _ _ _ _ _)

theorem puts_begins {ra o p : Reg} {k : BitVec 3} (h : Ready s cx (usesOf s cx (.puts ra o p ord scope k))) (hr : cx.st.remote < 4095)
    (hal : (readReg s cx ra).toNat % 8 = 0) (hline : (readReg s cx ra).toNat % 64 + 8 * (k.toNat + 1) ≤ 64)
    (hacq : cx.st.acquiring = false)
    (hgood : ∀ j < 8 * (k.toNat + 1), padPlace cx.st 0 ((readReg s cx o).toNat + j) ∉ (s.core cx.core).bad)
    (hc : fabricCells (operandsOf s cx) (packageOf (operandsOf s cx) p) .any true (readReg s cx ra) (8 * (k.toNat + 1)) false = .ok cells) :
    Completes (.puts ra o p ord scope k) s cx (usesOf s cx (.puts ra o p ord scope k))
      (putBegins s cx (readReg s cx ra) (packageOf (operandsOf s cx) p) (8 * (k.toNat + 1))
        (fun j => (s.core cx.core).spad.get 0 (padPlace cx.st 0 ((readReg s cx o).toNat + j))) true ord scope cells)
      (successor s.cursor.header cx.st.pc) := by
  have hx : exec (.puts ra o p ord scope k) s = execPuts ra o p ord scope k s := rfl
  unfold execPuts spadRead at hx
  have hnone := spadBad_eq_none_iff.2 hgood
  have hput := putAt_ok (v := operandsOf s cx) (ord := ord) (scope := scope) (block := true)
    (byte := fun j => (s.core cx.core).spad.get 0 (padPlace cx.st 0 ((readReg s cx o).toNat + j))) hr hc
  refine completes_of_body hx h ((if_neg (by simp [operandsOf, hal, hline])).trans ?_) (touchFabric_cursor _ _ _ _ _)
  simp only [spadPos_eq_padIn]
  dsimp only [operandsOf, padPlace] at hput ⊢
  simp only [hacq, hput, hnone, Bool.false_eq_true, if_false]

/-! Remote atomics. -/

/-- A ramo outstanding: counted, with its destination reserved and its operands at hand. -/
def ramoBegins (s : State) (cx : Ctx) (d : Reg) (op : AmoOp) (a : Word) (b : Reg) (pkg : Option Nat) (md : AmoMod) (cells : List Nat) : Done :=
  let n := if md.wide then 8 else 4
  let r := reserve (touchFabric s cx.core pkg a n) { cx.st with remote := cx.st.remote + 1 } d
  { s := r.1
    st := r.2.1.begin { noAccess (.ramo op md.wide md.place.toNat (readReg s cx b) (if op = .cas then readReg s cx d else 0)) with
      addr := a, ord := md.ord, scope := md.scope, dest := r.2.2, pkg := pkg, spans := [(a, n)],
      reads := readsOf cells, writes := cells.map fun c => (c, 0) } }

theorem ramo_begins {d ra b p : Reg} {op : AmoOp} {md : AmoMod} (h : Ready s cx (usesOf s cx (.ramo d op ra b p md)))
    (hr : cx.st.remote < 4095) (hal : (readReg s cx ra).toNat % (if md.wide then 8 else 4) = 0)
    (hc : fabricCells (operandsOf s cx) (packageOf (operandsOf s cx) p) (if md.place = 2 then .ship else .any) true (readReg s cx ra)
      (if md.wide then 8 else 4) true = .ok cells) :
    Completes (.ramo d op ra b p md) s cx (usesOf s cx (.ramo d op ra b p md))
      (ramoBegins s cx d op (readReg s cx ra) b (packageOf (operandsOf s cx) p) md cells) (successor s.cursor.header cx.st.pc) := by
  have hx : exec (.ramo d op ra b p md) s = execRamo d op ra b p md s := rfl
  unfold execRamo at hx
  refine completes_of_body hx h ?_ ((reserve_cursor _ _ _).trans (touchFabric_cursor _ _ _ _ _))
  dsimp only [operandsOf] at hc ⊢
  simp only [countRemote_of_lt hr, hal, ne_eq, not_true_eq_false, if_false, hc, zipIdx_swap_eq_readsOf]
  rfl

/-! Misaligned operations. -/

theorem get_misaligned {d ra p : Reg} {sz : BitVec 2} (h : Ready s cx (usesOf s cx (.get d ra p ord scope sz))) (hld : cx.st.ld < 63)
    (ht : CanTrap s cx) (hal : (readReg s cx ra).toNat % 2 ^ sz.toNat ≠ 0) :
    TrapsAt (.get d ra p ord scope sz) s cx .misaligned (readReg s cx ra) := by
  have hx : exec (.get d ra p ord scope sz) s = execGet d ra p ord scope sz s := rfl
  unfold execGet at hx
  refine trapsAt_of_body hx h (e := .trap .misaligned _) ?_ rfl ht rfl
  simp only [countLd_of_lt (st := (operandsOf s cx).cx.st) hld]
  exact if_pos hal

theorem ramo_misaligned {d ra b p : Reg} {op : AmoOp} {md : AmoMod} (h : Ready s cx (usesOf s cx (.ramo d op ra b p md)))
    (hr : cx.st.remote < 4095) (ht : CanTrap s cx) (hal : (readReg s cx ra).toNat % (if md.wide then 8 else 4) ≠ 0) :
    TrapsAt (.ramo d op ra b p md) s cx .misaligned (readReg s cx ra) := by
  have hx : exec (.ramo d op ra b p md) s = execRamo d op ra b p md s := rfl
  unfold execRamo at hx
  refine trapsAt_of_body hx h (e := .trap .misaligned _) ?_ rfl ht rfl
  simp only [countRemote_of_lt (st := (operandsOf s cx).cx.st) hr]
  exact if_pos hal

/-- Settles O34: each operation traps when misaligned, and else, its checks passed, retires with the operation outstanding. -/
theorem fabricOperationsBegin : Obligations.FabricOperationsBegin := by
  unfold Obligations.FabricOperationsBegin
  simp only [packageNamed_eq, fabricReaches_iff]
  refine ⟨fun d a p ord scope sz s cx h hld => ⟨get_misaligned h hld, fun hal cells pc hc hpc => hpc ▸ get_begins h hld hal hc⟩,
    ?puts, fun a w o p ord scope sz k s cx ht => ⟨fun h hal => ?_, fun h hal => ?_⟩,
    fun d op a b p md s cx h hr => ⟨ramo_misaligned h hr, fun hal cells pc hc hpc => hpc ▸ ramo_begins h hr hal hc⟩⟩
  case puts =>
    intro i a w o p ord scope sz k s cx n byte hi h hr cells pc hc hpc
    subst hpc
    obtain ⟨rfl, rfl, hal, rfl⟩ | ⟨rfl, rfl, hal, hline, hacq, -, hgood, rfl⟩ := hi
    · exact put_begins h hr hal hc
    · exact puts_begins h hr hal hline hacq hgood hc
  · have hx : exec (.put a w p ord scope sz) s = execPut a w p ord scope sz s := rfl
    unfold execPut at hx
    exact trapsAt_of_body hx h (if_pos hal) rfl ht rfl
  · have hx : exec (.puts a o p ord scope k) s = execPuts a o p ord scope k s := rfl
    unfold execPuts at hx
    exact trapsAt_of_body hx h (if_pos hal) rfl ht rfl

end Sys2Proof.Machine
end

section
/-! O35: what amsg and fship do up to their issue. -/

namespace Sys2Proof.Machine

open Sys2Proof.Claims

variable {s : State} {cx : Ctx} {i : Instr} {u : Uses} {scope : Scope} {cells : List Nat}

/-! Messages. -/

/-- A message is illegal when it names another package below scope sys, or another core at scope core. -/
theorem amsgBad_iff (w : Word) : amsgBad s cx scope w = true ↔
    (scope ≠ .sys ∧ bits w 31 16 ≠ 0 ∧ bits w 31 16 ≠ s.pkg.id) ∨ (scope = .core ∧ amsgCore w ≠ cx.core) := by
  simp [amsgBad, and_assoc]

/-- An instruction whose operands make it illegal, once they are known, fails the conditions of issue. -/
theorem gate_invalid (hl : isIllegal s cx u = false) (howed : ∀ n ∈ operandNums u, n ∉ cx.st.owed) (hk : operandsKnown s cx u = true)
    (hv : u.invalid (readReg s cx) = true) : gate s i cx u = .error (.trap .illegal (headTail i)) := by
  have hfree : (operandNums u).any cx.st.owed.contains = false := List.any_eq_false.mpr fun n hn => by simpa using howed n hn
  simp [gate, hl, hfree, hk, hv]

/-- A message of a strand, as it leaves: its destination word, what it carries, and who sends it. -/
def messageOf (s : State) (cx : Ctx) (w : Word) (a b c d : Reg) : Message :=
  { handler := bits w 63 32, payload := [readReg s cx a, readReg s cx b, readReg s cx c, readReg s cx d], sender := e2Of cx.core
    part := partOf s cx.core, source := some cx.core, senderPkg := s.pkg.id, lid := (envReg s cx.core cx.st 3).toNat
    depth := cx.st.depth, gen := cx.st.gen, seq := cx.st.nextSeq }

/-- A message outstanding: counted, with the package that it leaves for. -/
def amsgBegins (s : State) (cx : Ctx) (w : Word) (a b c d : Reg) (scope : Scope) (cn : Option (BitVec 4)) : Done :=
  let target := if scope = .sys ∧ bits w 31 16 ≠ s.pkg.id then some (bits w 31 16) else none
  { s := s
    st := { cx.st with remote := cx.st.remote + 1 }.begin
      { noAccess (.amsg (messageOf s cx w a b c d) (amsgCore w) (target.getD s.pkg.id) (cn.map BitVec.toNat)) with
        addr := w, scope := scope, pkg := target } }

theorem amsg_begins {dest a b c d : Reg} {cn : Option (BitVec 4)} (h : Ready s cx (usesOf s cx (.amsg dest a b c d scope cn)))
    (hgood : amsgBad s cx scope (readReg s cx dest) ≠ true) (hr : cx.st.remote < 4095) :
    Completes (.amsg dest a b c d scope cn) s cx (usesOf s cx (.amsg dest a b c d scope cn))
      (amsgBegins s cx (readReg s cx dest) a b c d scope cn) (successor s.cursor.header cx.st.pc) := by
  have hx : exec (.amsg dest a b c d scope cn) s = execAmsg dest a b c d scope cn s := rfl
  unfold execAmsg at hx
  refine completes_of_body hx h ((if_neg hgood).trans ?_) rfl
  simp only [operandsOf, countRemote_of_lt hr]
  rfl

/-! Shipped routines. -/

/-- A shipped routine outstanding: counted, with its result reserved and its status register owed. -/
def fshipBegins (s : State) (cx : Ctx) (r : Fin 48) (a b c res : Reg) (scope : Scope) (ord : Ord) (n : BitVec 6) (cn : Option (BitVec 4))
    (cells : List Nat) : Done :=
  let line := lineOf (readReg s cx a)
  let q := reserve (touchEnds s cx.core line 64) { cx.st with cp := cx.st.cp + 1 } res
  { s := q.1
    st := { q.2.1 with owed := if r.val = 0 then q.2.1.owed else q.2.1.owed ++ [r.val] }.begin
      { noAccess (.fship n.toNat (readReg s cx b) (readReg s cx c) r.val (cn.map BitVec.toNat)) with
        addr := readReg s cx a, ord := ord, scope := scope, dest := q.2.2, spans := [(line, 64)], reads := readsOf cells } }

section

variable {r : Fin 48} {a b c res : Reg} {ord : Ord} {n : BitVec 6} {cn : Option (BitVec 4)}
  (h : Ready s cx (usesOf s cx (.fship (.x r) a b c res scope ord n cn))) (hcp : cx.st.cp < 63)

include h hcp

theorem fship_begins (hc : accessCells s (partyOf cx.core cx.st) .ship true false (lineOf (readReg s cx a)) 64 true = .ok cells) :
    Completes (.fship (.x r) a b c res scope ord n cn) s cx (usesOf s cx (.fship (.x r) a b c res scope ord n cn))
      (fshipBegins s cx r a b c res scope ord n cn cells) (successor s.cursor.header cx.st.pc) := by
  have hx : exec (.fship (.x r) a b c res scope ord n cn) s = execFship (.x r) a b c res scope ord n cn s := rfl
  unfold execFship at hx
  refine completes_of_body hx h ((if_neg (Nat.not_le.2 hcp)).trans ?_) ((reserve_cursor _ _ _).trans (touchEnds_cursor _ _ _ _))
  unfold lineOf at hc
  simp only [operandsOf, hc, zipIdx_swap_eq_readsOf]
  rfl

theorem fship_traps {k : Cause} {value : Word} (ht : CanTrap s cx)
    (hc : accessCells s (partyOf cx.core cx.st) .ship true false (lineOf (readReg s cx a)) 64 true = .error (.trap k value)) :
    TrapsAt (.fship (.x r) a b c res scope ord n cn) s cx k (readReg s cx a) := by
  have hx : exec (.fship (.x r) a b c res scope ord n cn) s = execFship (.x r) a b c res scope ord n cn s := rfl
  unfold execFship at hx
  refine trapsAt_of_body hx h (e := .trap k _) ((if_neg (Nat.not_le.2 hcp)).trans ?_) rfl ht rfl
  unfold lineOf at hc
  simp only [operandsOf, hc]

end

/-- The fields of a destination word, as the statement reads them. -/
theorem extractLsb'_toNat_eq_bits (w : Word) (lo n : Nat) (hi : Nat) (h : hi + 1 - lo = n) : (w.extractLsb' lo n).toNat = bits w hi lo := by
  subst h
  rw [BitVec.extractLsb'_toNat, Nat.shiftRight_eq_div_pow]
  rfl

/-- Settles O35: the destination word decides whether a message is illegal; a legal message and a routine whose line passes its
checks retire with their operation outstanding. -/
theorem messagesAndShippingBegin : Obligations.MessagesAndShippingBegin := by
  refine ⟨?amsg,
    fun r a b c res scope ord n cn s cx h hcp => ⟨fun cells pc hc hpc => hpc ▸ fship_begins h hcp hc,
      fun k value ht hc => fship_traps h hcp ht hc⟩⟩
  case amsg =>
    intro dest a b c d scope cn s cx hcur i w px py pkg core far off
    have hpx : px = bits w 7 0 := extractLsb'_toNat_eq_bits w 0 8 7 rfl
    have hpy : py = bits w 15 8 := extractLsb'_toNat_eq_bits w 8 8 15 rfl
    have hpkg : pkg = bits w 31 16 := extractLsb'_toNat_eq_bits w 16 16 31 rfl
    have hhandler : (w.extractLsb' 32 32).toNat = bits w 63 32 := extractLsb'_toNat_eq_bits w 32 32 63 rfl
    have hcore : core = amsgCore w := by
      unfold core amsgCore
      rw [hpx, hpy]
    have hbad : amsgBad s cx scope w = true ↔ far ∨ off := by
      unfold far off
      rw [amsgBad_iff, hpkg, hcore]
    refine ⟨fun ht hfo hl howed hk => ⟨_, stops_amsg _ _ _ _ _ _ _ s cx _ hcur (gate_invalid hl howed hk (hbad.2 hfo)),
      trapAt_trapped ht .illegal 0 _⟩, fun h hfar hoff hr pc hpc => ?_⟩
    rw [hpkg, hcore, hhandler, hpc]
    exact amsg_begins h (mt hbad.1 (not_or.2 ⟨hfar, hoff⟩)) hr

end Sys2Proof.Machine
end

section
/-! O57: the taking of events (R389 to R394). -/

namespace Sys2Proof.Machine

open Sys2Proof.Claims

variable {s t u : State} {core : Nat} {e : HeldEvent} {p : HeldEvent → Bool}

/-! Which event is taken, and when. -/

theorem takeWhen_of_busy (h : (s.core core).supRunning = true ∨ (s.core core).halted = true) : takeWhen s core p = s := by
  have hn : takeNext s core = s := if_pos (Bool.or_eq_true_iff.2 h)
  unfold takeWhen
  rw [hn, ite_self]

theorem takeWhen_of_next (hrun : (s.core core).supRunning = false) (hhalt : (s.core core).halted = false)
    (hn : nextHeld s core = some e) (hp : p e = true) : takeWhen s core p = takeHeld s core e := by
  have hidle : ¬((s.core core).supRunning || (s.core core).halted) = true := by simp [hrun, hhalt]
  unfold takeWhen takeNext
  rw [hn, if_pos (show (some e).any p = true from hp)]
  exact if_neg hidle

/-- A core that held no event holds one that arrives, and takes it next. -/
theorem heldEvents_holdEvent (h : heldEvents s core = []) (e : HeldEvent) : heldEvents (holdEvent s core e) core = [e] := by
  obtain ⟨hheld, hbits⟩ := List.append_eq_nil_iff.1 h
  unfold heldEvents
  rw [holdEvent, State.core_setCore_self, hheld]
  exact congrArg ([] ++ [e] ++ ·) hbits

theorem nextHeld_holdEvent (h : heldEvents s core = []) (e : HeldEvent) : nextHeld (holdEvent s core e) core = some e := by
  unfold nextHeld
  rw [heldEvents_holdEvent h]
  simp

/-! The supervisor is entered. -/

theorem takeEvent_entered (hv : svecGood s core = true) (c : Cause) (epc value estrand : Word) :
    Entered s core (ecauseWord 0 0 false true c) value epc estrand (takeEvent s core c epc value estrand) :=
  enterSupervisor_entered _ _ _ _ ((svecGood_setCore s core _ (by rfl)).trans hv)

/-- Entering from a state is entering from one with the same cores and the same everything else. -/
theorem entered_of_sameCores {ecause value epc estrand : Word} (h : Entered s core ecause value epc estrand u)
    (hc : ∀ k, t.core k = s.core k) (hr : t = { s with cores := t.cores }) : Entered t core ecause value epc estrand u := by
  have hs : t.strands = s.strands := by rw [hr]
  obtain ⟨hregs, ⟨v, hv, hu⟩, hcores, hstrands, hrest⟩ := h
  refine ⟨by rw [hc, hregs], ⟨v, ?_, by rw [hc, hu]⟩, fun k hk => by rw [hc, hcores k hk], fun k hk => by rw [hs, hstrands k hk], ?_⟩
  · rw [← hv]
    unfold State.strand
    rw [hs]
  · rw [hr]
    exact hrest

/-! Events for the record, runaways, and dropped operations. -/

/-- The state in which a core takes an event that it held: the event is held no longer. -/
def heldTaken (s : State) (core : Nat) (e : HeldEvent) (noAct : Bool) : State :=
  s.setCore core { s.core core with held := (s.core core).held.erase e, noAct := noAct }

theorem heldTaken_svecGood (hv : svecGood s core = true) (e : HeldEvent) (noAct : Bool) : svecGood (heldTaken s core e noAct) core = true :=
  (svecGood_setCore s core _ (by rfl)).trans hv

theorem heldTaken_preempted (s : State) (core : Nat) (e : HeldEvent) (noAct : Bool) :
    ((heldTaken s core e noAct).core core).preempted = (s.core core).preempted := by
  rw [heldTaken, State.core_setCore_self]

/-- An event for the record of a core that is not pre-empted has no other effect. -/
theorem endForRecord_heldTaken (hp : (s.core core).preempted = false) (e : HeldEvent) (noAct : Bool) :
    endForRecord (heldTaken s core e noAct) core = heldTaken s core e noAct :=
  if_neg (by simp [heldTaken_preempted, hp])

theorem record_entered (hv : svecGood s core = true) (c : Cause) (value : Word) :
    Entered (heldTaken s core e true) core (ecauseWord 0 0 false true c) value 0 estrandNone
      (takeEvent ((heldTaken s core e false).setCore core { (heldTaken s core e false).core core with noAct := true }) core c 0 value
        estrandNone) := by
  refine entered_of_sameCores (takeEvent_entered ?_ ..) (fun k => ?_) rfl
  · exact (svecGood_setCore _ core _ (by rfl)).trans (heldTaken_svecGood hv e false)
  · unfold heldTaken
    by_cases hk : k = core
    · rw [hk, State.core_setCore_self, State.core_setCore_self, State.core_setCore_self]
    · rw [State.core_setCore, if_neg hk, State.core_setCore, if_neg hk, State.core_setCore, if_neg hk]

theorem takeHeld_watchdog (hp : (s.core core).preempted = false) (lid : Nat) : takeHeld s core (.watchdog lid) =
    takeEvent ((heldTaken s core (.watchdog lid) false).setCore core
      { (heldTaken s core (.watchdog lid) false).core core with noAct := true }) core .watchdog 0 (put (lid % 2 ^ 32) 0) estrandNone := by
  rw [← endForRecord_heldTaken hp]
  rfl

theorem takeHeld_hostInterrupt (hp : (s.core core).preempted = false) (lid r : Nat) : takeHeld s core (.hostInterrupt lid r) =
    takeEvent ((heldTaken s core (.hostInterrupt lid r) false).setCore core
      { (heldTaken s core (.hostInterrupt lid r) false).core core with noAct := true }) core .hostInterrupt 0 (reasonWord lid r)
      estrandNone := by
  rw [← endForRecord_heldTaken hp]
  rfl

theorem put_zero (n : Nat) : put n 0 = BitVec.ofNat 64 n := by
  rw [put, Nat.pow_zero, Nat.mul_one]

/-- A number above another in one word. -/
theorem put_or_ofNat {b lo : Nat} (hb : b < 2 ^ lo) (a : Nat) : put a lo ||| BitVec.ofNat 64 b = BitVec.ofNat 64 (a * 2 ^ lo + b) := by
  rw [put, ← BitVec.ofNat_or, Nat.mul_comm, Nat.two_pow_add_eq_or_of_lt hb]

theorem reasonWord_eq (lid r : Nat) : reasonWord lid r = BitVec.ofNat 64 (r % 256 * 2 ^ 32 + lid % 2 ^ 32) := by
  rw [reasonWord, put_zero, put_or_ofNat (Nat.mod_lt _ (by decide))]

section

variable (hrun : (s.core core).supRunning = false) (hhalt : (s.core core).halted = false) (hv : svecGood s core = true)

include hrun hhalt

/-- An event of an idle core is taken as the next one that it holds. -/
theorem takes_of_next {i : Instr} {c : Cause} {epc value estrand : Word} (hx : exec i s = .next (takeWhen s core p))
    (hn : nextHeld s core = some e) (hp : p e = true)
    (h : Entered t core (ecauseWord 0 0 false true c) value epc estrand (takeHeld s core e)) : Takes i s t core c epc value estrand :=
  ⟨_, hx.trans (congrArg Host.Outcome.next (takeWhen_of_next hrun hhalt hn hp)), h⟩

include hv

theorem takes_watchdog (hp : (s.core core).preempted = false) {lid : Nat} (hn : nextHeld s core = some (.watchdog lid)) :
    Takes (.watchdog core lid) s (heldTaken s core (.watchdog lid) true) core .watchdog 0 (BitVec.ofNat 64 (lid % 2 ^ 32)) estrandNone := by
  refine takes_of_next hrun hhalt rfl hn (beq_self_eq_true _) ?_
  rw [takeHeld_watchdog hp, put_zero]
  exact record_entered hv ..

theorem takes_hostInterrupt (hp : (s.core core).preempted = false) {lid r : Nat} (hn : nextHeld s core = some (.hostInterrupt lid r)) :
    Takes (.hostInterrupt core lid r) s (heldTaken s core (.hostInterrupt lid r) true) core .hostInterrupt 0
      (BitVec.ofNat 64 (r % 256 * 2 ^ 32 + lid % 2 ^ 32)) estrandNone := by
  refine takes_of_next hrun hhalt rfl hn (beq_self_eq_true _) ?_
  rw [takeHeld_hostInterrupt hp, reasonWord_eq]
  exact record_entered hv ..

theorem takes_runaway {value : Word} (hn : nextHeld s core = some (.runaway value)) :
    Takes (.watchRunaway core) s (heldTaken s core (.runaway value) false) core .watchRunaway 0 value estrandNone :=
  takes_of_next hrun hhalt rfl hn rfl (takeEvent_entered (heldTaken_svecGood hv _ _) ..)

theorem takes_undeliverable {slot : Nat} {st : Strand} (hn : nextHeld s core = some (.undeliverable slot))
    (hst : s.strand core slot = some st) (hheld : HeldEvent.undeliverable slot ∉ (s.core core).held)
    (hdrops : st.drops < 2 ^ 32) (hfirst : st.firstDrop.toNat < 2 ^ 32) :
    Takes (.undeliverable core slot) s
      ((s.setCore core { s.core core with noAct := false }).setStrand core slot { st with undeliverable := false, drops := 0, firstDrop := 0 })
      core .undeliverable st.pc (BitVec.ofNat 64 (st.drops * 2 ^ 32 + st.firstDrop.toNat)) (estrandWord st slot) := by
  have hvalue : put (st.drops % 2 ^ 32) 32 ||| st.firstDrop = BitVec.ofNat 64 (st.drops * 2 ^ 32 + st.firstDrop.toNat) := by
    rw [Nat.mod_eq_of_lt hdrops, ← put_or_ofNat hfirst, BitVec.ofNat_toNat, BitVec.setWidth_eq]
  have htaken : heldTaken s core (.undeliverable slot) false = s.setCore core { s.core core with noAct := false } := by
    rw [heldTaken, List.erase_of_not_mem hheld]
  have htake : takeHeld s core (.undeliverable slot) = takeEvent ((heldTaken s core (.undeliverable slot) false).setStrand core slot
      { st with undeliverable := false, drops := 0, firstDrop := 0 }) core .undeliverable st.pc
      (put (st.drops % 2 ^ 32) 32 ||| st.firstDrop) (estrandWord st slot) := by
    unfold takeHeld heldTaken
    simp only [State.strand_setCore, hst]
  refine takes_of_next hrun hhalt rfl hn (beq_self_eq_true _) ?_
  rw [← htaken, ← hvalue, htake]
  exact takeEvent_entered ((svecGood_setStrand ..).trans (heldTaken_svecGood hv _ _)) ..

end

/-! Pre-emption and restoring. -/

/-- What the taking of PREEMPT leaves as it was before the supervisor is entered: all but cores, strands and launches, and of its
core SVEC and the events held. -/
structure PreemptKeeps (core : Nat) (s t : State) : Prop where
  rest : t = { s with cores := t.cores, strands := t.strands, launches := t.launches }
  svec : (t.core core).svec = (s.core core).svec
  held : (t.core core).held = (s.core core).held

theorem PreemptKeeps.refl (s : State) : PreemptKeeps core s s := ⟨rfl, rfl, rfl⟩

theorem PreemptKeeps.trans (h : PreemptKeeps core s t) (g : PreemptKeeps core t u) : PreemptKeeps core s u where
  rest := by rw [g.rest, h.rest]
  svec := g.svec.trans h.svec
  held := g.held.trans h.held

theorem preemptKeeps_setCore {v : Core} (hsvec : v.svec = (s.core core).svec) (hheld : v.held = (s.core core).held) :
    PreemptKeeps core s (s.setCore core v) := by
  refine ⟨rfl, ?_, ?_⟩
  · rw [State.core_setCore_self, hsvec]
  · rw [State.core_setCore_self, hheld]

theorem PreemptKeeps.svecGood (h : PreemptKeeps core s t) : svecGood t core = svecGood s core := by
  unfold Machine.svecGood
  rw [h.svec, h.rest]
  rfl

theorem preemptKeeps_beginPreempt (s : State) (core : Nat) : PreemptKeeps core s (beginPreempt s core) :=
  (preemptKeeps_setCore (s := s) (core := core) (by rfl) (by rfl)).trans ⟨rfl, rfl, rfl⟩

theorem beginPreempt_preempted (s : State) (core : Nat) : ((beginPreempt s core).core core).preempted = true :=
  congrArg Core.preempted (State.core_setCore_self s core _)

/-- The units of a die that was too hot go down with the pre-emption of a core (R414). -/
def unitsCooled (s : State) (core : Nat) (hot : Bool) : State :=
  if hot then s.setCore core { s.core core with unitsDown := true } else s

theorem preemptKeeps_unitsCooled (s : State) (core : Nat) (hot : Bool) : PreemptKeeps core s (unitsCooled s core hot) := by
  unfold unitsCooled
  split
  · exact preemptKeeps_setCore rfl rfl
  · exact .refl s

/-- What a PREEMPT of a reason makes of its core: pre-empted, or pre-empted no longer once it is restored (R394, R401). -/
def reasonDone (s : State) (core r : Nat) (preempted : Bool) : State :=
  if r = 1 && !preempted then beginPreempt s core
  else if r = 2 && preempted then s.setCore core { s.core core with restoring := true, poweredDown := false } else s

theorem preemptKeeps_reasonDone (s : State) (core r : Nat) (b : Bool) : PreemptKeeps core s (reasonDone s core r b) := by
  unfold reasonDone
  split
  · exact preemptKeeps_beginPreempt s core
  · split
    · exact preemptKeeps_setCore rfl rfl
    · exact .refl s

theorem reasonDone_preempts (hp : (s.core core).preempted = preempted) : ((reasonDone s core 1 preempted).core core).preempted = true := by
  cases preempted with
  | true => exact hp
  | false => exact beginPreempt_preempted s core

theorem reasonDone_restores (s : State) (core : Nat) : ((reasonDone s core 2 true).core core).restoring = true := by
  show ((s.setCore core _).core core).restoring = true
  rw [State.core_setCore_self]

/-- The state in which a core takes the PREEMPT that it holds, its reason done. -/
def preemptDone (s : State) (core lid r : Nat) : State :=
  reasonDone (unitsCooled (heldTaken s core (.preempt lid r) false) core (r == 1 && (s.die (dieOf core)).unitsDown)) core r
    (s.core core).preempted

theorem takeHeld_preempt (s : State) (core lid r : Nat) : takeHeld s core (.preempt lid r) =
    takeEvent (preemptDone s core lid r) core .preempt 0 (reasonWord lid r) estrandNone := rfl

theorem preemptKeeps_preemptDone (s : State) (core lid r : Nat) :
    PreemptKeeps core (heldTaken s core (.preempt lid r) false) (preemptDone s core lid r) :=
  (preemptKeeps_unitsCooled ..).trans (preemptKeeps_reasonDone ..)

theorem unitsCooled_preempted (s : State) (core : Nat) (hot : Bool) :
    ((unitsCooled s core hot).core core).preempted = (s.core core).preempted := by
  unfold unitsCooled
  split
  · rw [State.core_setCore_self]
  · rfl

theorem preemptDone_preempts (s : State) (core lid : Nat) : ((preemptDone s core lid 1).core core).preempted = true :=
  reasonDone_preempts ((unitsCooled_preempted ..).trans (heldTaken_preempted ..))

theorem preemptDone_restores (hp : (s.core core).preempted = true) (lid : Nat) :
    ((preemptDone s core lid 2).core core).restoring = true := by
  unfold preemptDone
  rw [hp]
  exact reasonDone_restores ..

/-- PREEMPT that arrives at an idle core without held events is taken at once: it is held no longer, its reason is done, and the
supervisor is entered. -/
theorem preempt_taken {reason : Nat} (hcore : core < coreCount) (hr : reason = 1 ∨ reason = 2)
    (hrun : (s.core core).supRunning = false) (hhalt : (s.core core).halted = false) (hv : svecGood s core = true)
    (hnone : heldEvents s core = []) : ∃ u t, exec (.preempt core reason) s = .next t ∧
      Entered u core (ecauseWord 0 0 false true .preempt)
        (BitVec.ofNat 64 (reason * 2 ^ 32 + (s.core core).lid.getD 0 % 2 ^ 32)) 0 estrandNone t ∧
      u.mem = s.mem ∧ u.queues = s.queues ∧ (u.core core).held = [] ∧ (reason = 1 → (u.core core).preempted = true) ∧
      (reason = 2 → (s.core core).preempted = true → (u.core core).restoring = true) := by
  obtain ⟨lid, hlid⟩ : ∃ lid, (s.core core).lid.getD 0 = lid := ⟨_, rfl⟩
  obtain ⟨h, hh⟩ : ∃ h, holdEvent s core (.preempt lid reason) = h := ⟨_, rfl⟩
  have hc : h.core core = { s.core core with held := (s.core core).held ++ [.preempt lid reason] } :=
    hh ▸ State.core_setCore_self s core _
  have hnext : nextHeld h core = some (.preempt lid reason) := hh ▸ nextHeld_holdEvent hnone _
  have hheld : (s.core core).held = [] := (List.append_eq_nil_iff.1 hnone).1
  have hexec : exec (.preempt core reason) s = .next (takeHeld h core (.preempt lid reason)) := by
    have ht := takeWhen_of_next (p := (· == .preempt lid reason)) (by rw [hc]; exact hrun) (by rw [hc]; exact hhalt) hnext
      (beq_self_eq_true _)
    rw [← ht, ← hh, ← hlid]
    exact if_pos ⟨hcore, hr⟩
  have hkeep := preemptKeeps_preemptDone h core lid reason
  have hgood : svecGood (preemptDone h core lid reason) core = true := by
    rw [hkeep.svecGood]
    exact heldTaken_svecGood (hh ▸ (svecGood_setCore s core _ (by rfl)).trans hv) _ _
  have hvalue : reasonWord lid reason = BitVec.ofNat 64 (reason * 2 ^ 32 + lid % 2 ^ 32) := by
    rw [reasonWord_eq, Nat.mod_eq_of_lt (a := reason) (by omega)]
  refine ⟨preemptDone h core lid reason, _, hexec, ?_, ?_, ?_, ?_, ?_, ?_⟩
  · rw [takeHeld_preempt, hvalue, hlid]
    exact takeEvent_entered hgood ..
  · rw [hkeep.rest, ← hh]
    rfl
  · rw [hkeep.rest, ← hh]
    rfl
  · rw [hkeep.held, heldTaken, State.core_setCore_self, hc, hheld]
    simp
  · rintro rfl
    exact preemptDone_preempts ..
  · rintro rfl hp
    exact preemptDone_restores (by rw [hc]; exact hp) _

end Sys2Proof.Machine
end

section
/-! O57: what the replay of a spill buffer leaves as it was (R384, R396). -/

namespace Sys2Proof

/-- A key of a table has one entry, with this value. -/
structure Tab.Lone {α : Type} (k : Nat) (x : α) (t : Tab α) : Prop where
  found : t.find k = some x
  only : ∀ y, (k, y) ∈ t → y = x

theorem Tab.not_mem_of_find {α : Type} {k : Nat} {t : Tab α} (h : t.find k = none) (y : α) : (k, y) ∉ t := by
  induction t with
  | nil => exact List.not_mem_nil
  | cons e t ih =>
    obtain ⟨k', v⟩ := e
    unfold Tab.find at h
    split at h
    · cases h
    next hk => simpa [hk] using ih h

/-- A value put under a key that had none stands there alone. -/
theorem Tab.lone_insert_new {α : Type} {k : Nat} {t : Tab α} (h : t.find k = none) (x : α) : Tab.Lone k x (t.insert k x) where
  found := Tab.find_insert_self k x t
  only y hy := (Tab.mem_insert hy).elim (fun h => congrArg Prod.snd h) fun hm => absurd hm (Tab.not_mem_of_find h y)

/-- A value stays alone under its key when it is put there again, and when another key is written. -/
theorem Tab.Lone.insert {α : Type} {j k : Nat} {x y : α} {t : Tab α} (h : Tab.Lone k x t) (hy : j = k → y = x) :
    Tab.Lone k x (t.insert j y) where
  found := by
    rw [Tab.find_insert]
    split
    next hk => rw [hy hk.symm]
    · exact h.found
  only z hz := by
    obtain heq | hm := Tab.mem_insert hz
    · obtain ⟨rfl, rfl⟩ := Prod.mk.inj heq
      exact hy rfl
    · exact h.only z hm

namespace Machine

variable {s t u : State} {core : Nat}

/-! Launches. -/

/-- Whether a launch is the running or ending one of an id in a partition. -/
def namesLaunch (part lid : Nat) (l : Launch) : Bool := l.lid == lid && l.part == part && l.phase != .waiting

theorem namesLaunch_iff {part lid : Nat} {l : Launch} : namesLaunch part lid l = true ↔ l.lid = lid ∧ l.part = part ∧ l.phase ≠ .waiting := by
  simp [namesLaunch, and_assoc]

theorem namesLaunch_of_launch {part lid : Nat} {l : Launch} (h : s.launch part lid = some l) : namesLaunch part lid l = true :=
  List.find?_some (p := namesLaunch part lid) h

/-- A launch in the place of the one of its id. -/
def replaceLaunch (l m : Launch) : Launch := if namesLaunch l.part l.lid m then l else m

/-- Replacing a running or ending launch leaves the launch of every id under its id. -/
theorem namesLaunch_replaceLaunch {l : Launch} (hl : l.phase ≠ .waiting) (part lid : Nat) (m : Launch) :
    namesLaunch part lid (replaceLaunch l m) = namesLaunch part lid m := by
  unfold replaceLaunch
  split
  next h =>
    obtain ⟨hlid, hpart, hphase⟩ := namesLaunch_iff.1 h
    simp only [namesLaunch, hlid, hpart, bne_iff_ne.2 hl, bne_iff_ne.2 hphase]
  · rfl

theorem launch_setLaunch {l : Launch} (hl : l.phase ≠ .waiting) (part lid : Nat) :
    (s.setLaunch l).launch part lid = (s.launch part lid).map (replaceLaunch l) := by
  have hsame : namesLaunch part lid ∘ replaceLaunch l = namesLaunch part lid := funext (namesLaunch_replaceLaunch hl part lid)
  show (s.launches.map (replaceLaunch l)).find? (namesLaunch part lid) = (s.launches.find? (namesLaunch part lid)).map (replaceLaunch l)
  rw [List.find?_map, hsame]

theorem launchOf_iff {l : Launch} : launchOf s core = some l ↔
    ∃ lid part, (s.core core).lid = some lid ∧ partOf s core = some part ∧ s.launch part lid = some l := by
  unfold launchOf
  split
  next hlid hpart => simp [hlid, hpart]
  next h =>
    simp only [reduceCtorEq, false_iff]
    rintro ⟨lid, part, hlid, hpart, -⟩
    exact h lid part hlid hpart

theorem takeLocks_frame {c c' : Core} {ls : List RangeLock} (h : takeLocks c ls = some c') : c' = { c with locks := c'.locks } := by
  unfold takeLocks at h
  dsimp only at h
  split at h
  · cases h
  · obtain rfl := Option.some.inj h
    rfl

/-! The strand of a generation. -/

/-- A strand that stands alone at a place is the one that is found there by its generation. -/
theorem byGen_lone {c gen place k : Nat} {x y : Strand} (hy : s.byGen c gen = some (place, y)) (hk : placeKey c place = k)
    (h : Tab.Lone k x s.strands) : y = x := by
  unfold State.byGen at hy
  split at hy
  · obtain ⟨z, hz, heq⟩ := Option.map_eq_some_iff.1 hy
    obtain ⟨rfl, rfl⟩ := Prod.mk.inj heq
    unfold State.strand at hz
    rw [hk, h.found] at hz
    exact (Option.some.inj hz).symm
  · split at hy
    next k' z hz =>
      obtain ⟨rfl, rfl⟩ := Prod.mk.inj (Option.some.inj hy)
      have hc := List.find?_some hz
      have hkey : k' = k := by
        rw [← hk, placeKey, ← of_decide_eq_true (Bool.and_eq_true_iff.1 hc).1, Nat.div_add_mod']
      exact h.only z (hkey ▸ List.mem_of_find?_eq_some hz)
    · cases hy

/-! The replay. -/

/-- What the replay of a core's spill buffer leaves: all but cores, strands, launches and answers to peers; each core its launch;
to the core its messages, with more behind them; a strand without outstanding accesses that stands alone at its place; and of
each launch when its first strand began. -/
structure ReplayKeeps (core : Nat) (s t : State) : Prop where
  rest : t = { s with cores := t.cores, strands := t.strands, launches := t.launches, pkg := t.pkg }
  lid : ∀ c, (t.core c).lid = (s.core c).lid
  inbox : ∃ more, (t.core core).inbox = (s.core core).inbox ++ more
  strands : ∀ k x, x.pend = [] → Tab.Lone k x s.strands → Tab.Lone k x t.strands
  launches : ∀ part lid l, s.launch part lid = some l → ∃ l', t.launch part lid = some l' ∧ l'.ran = l.ran

namespace ReplayKeeps

theorem refl (s : State) : ReplayKeeps core s s where
  rest := rfl
  lid _ := rfl
  inbox := ⟨[], (List.append_nil _).symm⟩
  strands _ _ _ h := h
  launches _ _ l h := ⟨l, h, rfl⟩

theorem trans (h : ReplayKeeps core s t) (g : ReplayKeeps core t u) : ReplayKeeps core s u where
  rest := by rw [g.rest, h.rest]
  lid c := (g.lid c).trans (h.lid c)
  inbox := by
    obtain ⟨a, ha⟩ := h.inbox
    obtain ⟨b, hb⟩ := g.inbox
    exact ⟨a ++ b, by rw [hb, ha, List.append_assoc]⟩
  strands k x hx hk := g.strands k x hx (h.strands k x hx hk)
  launches part lid l hl := by
    obtain ⟨l', hl', hran⟩ := h.launches part lid l hl
    obtain ⟨l'', hl'', hran'⟩ := g.launches part lid l' hl'
    exact ⟨l'', hl'', hran'.trans hran⟩

/-- A change of cores that leaves their launches and messages. -/
theorem of_cores (hr : t = { s with cores := t.cores }) (hl : ∀ c, (t.core c).lid = (s.core c).lid)
    (hi : (t.core core).inbox = (s.core core).inbox) : ReplayKeeps core s t where
  rest := by rw [hr]
  lid := hl
  inbox := ⟨[], by rw [hi, List.append_nil]⟩
  strands k x _ h := by
    rw [hr]
    exact h
  launches part lid l h := by
    rw [hr]
    exact ⟨l, h, rfl⟩

theorem setCore {v : Core} {more : List Message} (hl : v.lid = (s.core core).lid) (hi : v.inbox = (s.core core).inbox ++ more) :
    ReplayKeeps core s (s.setCore core v) where
  rest := rfl
  lid c := by
    rw [State.core_setCore]
    split
    next h => rw [h, hl]
    · rfl
  inbox := ⟨more, by rw [State.core_setCore_self, hi]⟩
  strands _ _ _ h := h
  launches _ _ l h := ⟨l, h, rfl⟩

theorem setCore_same {v : Core} (hl : v.lid = (s.core core).lid) (hi : v.inbox = (s.core core).inbox) :
    ReplayKeeps core s (s.setCore core v) :=
  setCore hl (more := []) (by rw [hi, List.append_nil])

theorem onOperation (s : State) (c id : Nat) (f : EngineOp → EngineOp) : ReplayKeeps core s (onOperation s c id f) :=
  of_cores (onOperation_frame ..) (fun k => by rw [core_onOperation]) (by rw [core_onOperation])

theorem endTransfer (s : State) (chan : Nat) (t0 : Transfer) (cause : Nat) : ReplayKeeps core s (endTransfer s core chan t0 cause) := by
  unfold Machine.endTransfer
  dsimp only
  rw [endDest_eq, dropBeats_eq]
  exact ((setCore_same (by rfl) (by rfl)).trans (onOperation ..)).trans (onOperation ..)

theorem dropped (s : State) (t0 : Transfer) (cause : Nat) : ReplayKeeps core s (endDest (dropBeats s t0) t0 cause) := by
  rw [endDest_eq, dropBeats_eq]
  exact (onOperation ..).trans (onOperation ..)

theorem noteMoved (s : State) (c : Nat) : ReplayKeeps core s (noteMoved s c) := by
  unfold Machine.noteMoved
  split
  next l hl =>
    obtain ⟨lid0, part0, -, -, hl0⟩ := launchOf_iff.1 hl
    obtain ⟨hlid, hpart, hphase⟩ := namesLaunch_iff.1 (namesLaunch_of_launch hl0)
    refine ⟨rfl, fun _ => rfl, ⟨[], (List.append_nil _).symm⟩, fun _ _ _ h => h, fun part lid m hm => ?_⟩
    refine ⟨_, by rw [launch_setLaunch (by exact hphase), hm]; rfl, ?_⟩
    unfold replaceLaunch
    split
    next hk =>
      obtain ⟨hlid', hpart', -⟩ := namesLaunch_iff.1 hk
      obtain ⟨hlid'', hpart'', -⟩ := namesLaunch_iff.1 (namesLaunch_of_launch hm)
      dsimp only at hlid' hpart'
      obtain rfl : m = l := Option.some.inj (hm.symm.trans (by rw [← hl0, ← hlid'', ← hpart'', hlid', hpart', hlid, hpart]))
      rfl
    · rfl
  · exact refl s

theorem joinTransfer (s : State) (chan : Nat) (t0 : Transfer) :
    ReplayKeeps core s (s.setCore core (joinTransfer (s.core core) chan t0)) := setCore_same (by rfl) (by rfl)

theorem startTransfer (s : State) (chan : Nat) : ReplayKeeps core s (startTransfer s core chan) := by
  unfold Machine.startTransfer
  dsimp only
  split
  · split
    · exact (setCore_same (by rfl) (by rfl)).trans (dropped ..)
    · split
      · exact (setCore_same (by rfl) (by rfl)).trans (dropped ..)
      · split
        · exact refl s
        next hlock =>
          rw [takeLocks_frame hlock]
          exact setCore_same (by rfl) (by rfl)
  · exact refl s

theorem beatWritten (s : State) (chan : Nat) (t0 : Transfer) (b : Beat) (more : List Beat) (st : Strand) :
    ReplayKeeps core s (beatWritten s core chan t0 b more st) :=
  ((setCore_same (by rfl) (by rfl)).trans (noteMoved ..)).trans (onOperation ..)

theorem deliverBeat (s : State) (chan : Nat) : ReplayKeeps core s (deliverBeat s core chan) := by
  cases hcur : ((s.core core).channels.get {} chan).current with
  | none =>
    have h : Machine.deliverBeat s core chan = s := by simp only [Machine.deliverBeat, hcur]
    rw [h]
    exact refl s
  | some t0 => cases hlive : s.liveGen core t0.gen with
    | none =>
      have h : Machine.deliverBeat s core chan = Machine.endTransfer s core chan t0 2 := by simp only [Machine.deliverBeat, hcur, hlive]
      rw [h]
      exact endTransfer ..
    | some x =>
      obtain ⟨place, st⟩ := x
      cases hbeats : t0.beats with
      | nil =>
        unfold Machine.deliverBeat
        simp only [hcur, hlive, hbeats]
        split
        · exact endTransfer ..
        · exact refl s
      | cons b more =>
        by_cases hlet : beatLet s ((s.core core).channels.get {} chan) t0 st.spadSize b.bytes.length = true
        · rw [deliverBeat_eq hcur hbeats hlive hlet]
          split
          · exact (beatWritten ..).trans (endTransfer ..)
          · exact beatWritten ..
        · have h : Machine.deliverBeat s core chan = s := by
            simp only [Machine.deliverBeat, hcur, hlive, hbeats, hlet, Bool.not_false, if_true]
          rw [h]
          exact refl s

theorem drainChannel (fuel : Nat) (s : State) (chan : Nat) : ReplayKeeps core s (drainChannel fuel s core chan) := by
  induction fuel generalizing s with
  | zero => exact refl s
  | succ fuel ih =>
    unfold Machine.drainChannel
    dsimp only
    split
    · exact (deliverBeat s chan).trans (ih _)
    · exact (startTransfer s chan).trans (ih _)

/-- A change of the strand of a generation that leaves a strand without outstanding accesses. -/
theorem onGen {f : Strand → Strand} (hf : ∀ x, x.pend = [] → f x = x) (s : State) (c gen : Nat) :
    ReplayKeeps core s (s.onGen c gen f) := by
  unfold State.onGen
  split
  next place y hy =>
    exact ⟨rfl, fun _ => rfl, ⟨[], (List.append_nil _).symm⟩,
      fun k x hx h => h.insert fun hk => by rw [byGen_lone hy hk h, hf x hx], fun _ _ l h => ⟨l, h, rfl⟩⟩
  · exact refl s

theorem acknowledge (s : State) (m : Message) (d : Bool) : ReplayKeeps core s (acknowledge s m d) := by
  unfold Machine.acknowledge
  split
  · exact ⟨rfl, fun _ => rfl, ⟨[], (List.append_nil _).symm⟩, fun _ _ _ h => h, fun _ _ l h => ⟨l, h, rfl⟩⟩
  · refine onGen (fun x hx => ?_) ..
    rw [hx, List.map_nil, ← hx]

theorem replay (s : State) (e : Spill) : ReplayKeeps core s (replay core s e) := by
  cases e with
  | message m =>
    refine iteInduction (motive := ReplayKeeps core s) (fun _ => ?_) fun _ => acknowledge s m true
    exact setCore (more := [m]) rfl rfl
  | beats chan t0 => exact (joinTransfer s chan t0).trans (drainChannel ..)

theorem replaySpill (n : Nat) (s : State) : ReplayKeeps core s (replaySpill n s core) := by
  induction n generalizing s with
  | zero => exact refl s
  | succ n ih =>
    unfold Machine.replaySpill
    dsimp only
    split
    · exact refl s
    · refine iteInduction (motive := ReplayKeeps core s) (fun _ => refl s) fun _ => ?_
      exact ((setCore_same (by rfl) (by rfl)).trans (replay ..)).trans (ih _)

end ReplayKeeps

end Machine

end Sys2Proof
end

section
/-! O57: the porter strand's messages (R236, R237), and the statement. -/

namespace Sys2Proof.Machine

open Sys2Proof.Claims

variable {s : State} {core : Nat} {m : Message} {rest : List Message} {l : Launch}

/-! The porter strand. -/

theorem porterStrand_x (s : State) (core : Nat) (m : Message) (pc : Word) :
    (∀ k < 4, (porterStrand s core m pc).x (k + 1) = m.payload.getD k 0) ∧
      (porterStrand s core m pc).x 5 = put (m.senderPkg % 65536) 16 ||| put (m.sender % 65536) 0 ∧
      ∀ n, n = 0 ∨ 5 < n → (porterStrand s core m pc).x n = 0 := by
  refine ⟨fun k hk => ?_, ?_, fun n hn => ?_⟩
  · unfold Strand.x porterStrand
    simp only [Tab.get_set]
    obtain rfl | rfl | rfl | rfl : k = 0 ∨ k = 1 ∨ k = 2 ∨ k = 3 := by omega
    all_goals rfl
  · unfold Strand.x porterStrand
    simp only [Tab.get_set]
    rfl
  · unfold Strand.x porterStrand
    obtain rfl | hn := hn
    · rfl
    · rw [if_neg (by omega)]
      simp only [Tab.get_set]
      rw [if_neg (by omega), if_neg (by omega), if_neg (by omega), if_neg (by omega), if_neg (by omega)]
      rfl

/-- The sender that x5 of a porter strand names (R237). -/
theorem field_senderWord {a b : Nat} (ha : a < 65536) (hb : b < 65536) :
    field (put a 16 ||| put b 0) 31 16 = a ∧ field (put a 16 ||| put b 0) 15 0 = b := by
  rw [put_zero, put_or_ofNat (by omega), field_eq_bits, field_eq_bits]
  unfold bits
  rw [BitVec.toNat_ofNat]
  omega

/-! The start of a run. -/

/-- The oldest message of a core is taken from its buffer: what spilled follows (R396). -/
def messageTaken (s : State) (core : Nat) (rest : List Message) (u : State) : State :=
  replaySpill (s.core core).spill.length (u.setCore core { u.core core with inbox := rest, porterWait := none }) core

/-- A porter strand starts for a message, as one of its launch. -/
def porterStarted (s : State) (core : Nat) (m : Message) (pc : Word) (l : Launch) : State :=
  noteRan { s.setStrand core porterSlot (porterStrand s core m pc) with nextGen := s.nextGen + 1 } l

/-- The head that a message names, in the code of its core's launch (R237). -/
def handlerHead (l : Launch) (m : Message) : Word := put l.codeOid 48 ||| put (m.handler % 2 ^ 32) 0

/-- The party as which a message's head is checked. -/
def porterParty (s : State) (core : Nat) : Party := { core := core, sup := false, declined := (s.core core).porterWait.toList }

/-- What becomes of the oldest message of a core that is free for it, by what the check of a head says. -/
def porterOutcome (s : State) (core : Nat) (m : Message) (rest : List Message) (check : Word → HeadCheck) :
    Host.Outcome State Fault Refusal :=
  match (launchOf s core).filter fun l => l.lid == m.lid with
  | none => .next (messageTaken s core rest (acknowledge s m true))
  | some l => match check (handlerHead l m) with
    | .good | .malformed _ true => .next (messageTaken s core rest (porterStarted s core m (handlerHead l m) l))
    | .miss page =>
      if (s.core core).porterWait.any fun w => w.2 == 0 then .next s
      else match joinMiss s core page 2 with
      | some s => .next (s.setCore core { s.core core with porterWait := some (page, 0) })
      | none => .next s
    | _ => .next (messageTaken s core rest (acknowledge s m true))

theorem porterRunStart_empty (h : (s.core core).inbox = []) : exec (.porterRunStart core) s = .next s := by
  show execPorterRunStart core s = _
  unfold execPorterRunStart
  simp only [h]

/-- A core that is halted or pre-empted, has no slot for it, or waits for the run before, starts no porter run. -/
def porterBusy (s : State) (core : Nat) : Bool :=
  (s.core core).halted || (s.core core).preempted || !slotFree s core porterSlot || !porterQuiet s core

theorem porterRunStart_cons (hin : (s.core core).inbox = m :: rest) : exec (.porterRunStart core) s =
    if porterBusy s core = true then .next s else porterOutcome s core m rest (checkHead s (porterParty s core)) := by
  show execPorterRunStart core s = _
  unfold execPorterRunStart
  extract_lets c
  -- named apart, so that the kernel does not evaluate the check where it compares the two sides
  obtain ⟨check, hcheck⟩ : ∃ f, checkHead s (porterParty s core) = f := ⟨_, rfl⟩
  rw [hcheck, show checkHead s { core := core, sup := false, declined := c.porterWait.toList } = check from hcheck]
  simp only [c, hin]
  rfl

theorem porterRunStart_busy (h : (s.core core).halted = true ∨ (s.core core).preempted = true ∨ slotFree s core porterSlot = false ∨
    porterQuiet s core = false) : exec (.porterRunStart core) s = .next s := by
  cases hin : (s.core core).inbox with
  | nil => exact porterRunStart_empty hin
  | cons m rest =>
    have hbusy : porterBusy s core = true := by
      unfold porterBusy
      obtain h | h | h | h := h
      all_goals simp [h]
    rw [porterRunStart_cons hin, if_pos hbusy]

theorem porterRunStart_eq (hin : (s.core core).inbox = m :: rest) (hhalt : (s.core core).halted = false)
    (hpre : (s.core core).preempted = false) (hslot : slotFree s core porterSlot = true) (hquiet : porterQuiet s core = true) :
    exec (.porterRunStart core) s = porterOutcome s core m rest (checkHead s (porterParty s core)) := by
  have hmay : porterBusy s core ≠ true := by simp [porterBusy, hhalt, hpre, hslot, hquiet]
  rw [porterRunStart_cons hin, if_neg hmay]

variable {check : Word → HeadCheck}

theorem porterOutcome_foreign (hl : ∀ l, launchOf s core = some l → m.lid ≠ l.lid) :
    porterOutcome s core m rest check = .next (messageTaken s core rest (acknowledge s m true)) := by
  have hnone : (launchOf s core).filter (fun l => l.lid == m.lid) = none := by
    rw [Option.filter_eq_none_iff]
    intro l hs
    simpa using (hl l hs).symm
  unfold porterOutcome
  rw [hnone]

section

variable (hl : launchOf s core = some l) (hlid : m.lid = l.lid)

include hl hlid

theorem filter_launchOf : (launchOf s core).filter (fun l => l.lid == m.lid) = some l := by
  simp [hl, hlid]

theorem porterOutcome_lost (h : check (handlerHead l m) = .bad ∨ ∃ why, check (handlerHead l m) = .malformed why false) :
    porterOutcome s core m rest check = .next (messageTaken s core rest (acknowledge s m true)) := by
  unfold porterOutcome
  rw [filter_launchOf hl hlid]
  obtain h | ⟨why, h⟩ := h
  · simp only [h]
  · simp only [h]

theorem porterOutcome_starts (h : check (handlerHead l m) = .good ∨ ∃ why, check (handlerHead l m) = .malformed why true) :
    porterOutcome s core m rest check = .next (messageTaken s core rest (porterStarted s core m (handlerHead l m) l)) := by
  unfold porterOutcome
  rw [filter_launchOf hl hlid]
  obtain h | ⟨why, h⟩ := h
  · simp only [h]
  · simp only [h]

end

/-! What a message leaves. -/

/-- A message that is taken leaves all but cores, strands, launches and answers to peers, and to its core the messages after it. -/
theorem messageTaken_keeps (u : State) : ReplayKeeps core (u.setCore core { u.core core with inbox := rest, porterWait := none })
    (messageTaken s core rest u) := ReplayKeeps.replaySpill ..

/-- The porter strand of a message stands at its slot, as it started, also once what spilled has followed. -/
theorem porterStarted_strand (hfree : slotFree s core porterSlot = true) (pc : Word) :
    (messageTaken s core rest (porterStarted s core m pc l)).strand core porterSlot = some (porterStrand s core m pc) := by
  have hparts := hfree
  simp only [slotFree, Bool.and_eq_true, Option.isNone_iff_eq_none] at hparts
  obtain ⟨⟨⟨hnone, -⟩, -⟩, -⟩ := hparts
  have hlone := (messageTaken_keeps (s := s) (core := core) (rest := rest) (porterStarted s core m pc l)).strands
    (placeKey core porterSlot) (porterStrand s core m pc) rfl (Tab.lone_insert_new hnone _)
  unfold State.strand
  rw [hlone.found]

/-- The launch of a porter strand has begun, at the latest with it (R264). -/
theorem porterStarted_launch (hl : launchOf s core = some l) (pc : Word) :
    ∃ l', launchOf (messageTaken s core rest (porterStarted s core m pc l)) core = some l' ∧ l'.ran = some (l.ran.getD s.clk) := by
  obtain ⟨lid, part, hlid, hpart, hs⟩ := launchOf_iff.1 hl
  obtain ⟨rfl, rfl, hphase⟩ := namesLaunch_iff.1 (namesLaunch_of_launch hs)
  have hkeep := messageTaken_keeps (s := s) (core := core) (rest := rest) (porterStarted s core m pc l)
  have hran : (porterStarted s core m pc l).launch l.part l.lid = some { l with ran := some (l.ran.getD s.clk) } := by
    refine (launch_setLaunch (by exact hphase) l.part l.lid).trans ?_
    refine (congrArg (Option.map _) hs).trans (congrArg some ?_)
    exact if_pos (namesLaunch_of_launch hs)
  obtain ⟨l', hl', hran'⟩ := hkeep.launches _ _ _ hran
  refine ⟨l', launchOf_iff.2 ⟨l.lid, l.part, ?_, ?_, hl'⟩, hran'⟩
  · rw [hkeep.lid, State.core_setCore_self]
    exact hlid
  · rw [hkeep.rest]
    exact hpart

/-- Settles O57: a busy core keeps its events; an idle one takes its next event, and the porter strand its oldest message, whatever
of the spill buffer follows. -/
theorem eventsBetweenInstructions : Obligations.EventsBetweenInstructions := by
  refine ⟨?held, ?preemptHeld, ?record, ?undeliverable, ?preempt, ?porter, fun s core h => porterRunStart_busy h,
    fun s core h => porterRunStart_empty h⟩
  case held =>
    intro i s core lid reason slot hi hbusy
    obtain rfl | rfl | rfl | rfl := hi
    all_goals exact congrArg Host.Outcome.next (takeWhen_of_busy hbusy)
  case preemptHeld =>
    intro s core reason hcore hr hbusy
    refine (if_pos ⟨hcore, hr⟩).trans (congrArg Host.Outcome.next (takeWhen_of_busy ?_))
    rw [holdEvent, State.core_setCore_self]
    exact hbusy
  case record =>
    intro i s core e c value hrun hhalt hp hv hn
    refine ⟨?_, ?_⟩
    · rintro (⟨lid, rfl, rfl, rfl, rfl⟩ | ⟨lid, r, rfl, rfl, rfl, rfl⟩)
      · exact takes_watchdog hrun hhalt hv hp hn
      · exact takes_hostInterrupt hrun hhalt hv hp hn
    · rintro rfl rfl
      exact takes_runaway hrun hhalt hv hn
  case undeliverable =>
    intro s core slot st hrun hhalt hv hn hst hheld hdrops hfirst
    exact takes_undeliverable hrun hhalt hv hn hst hheld hdrops hfirst
  case preempt =>
    intro s core reason hcore hr hrun hhalt hv hnone
    obtain ⟨u, t, ht, hent, hmem, hqueues, hheld, hpre, hrest⟩ := preempt_taken hcore hr hrun hhalt hv hnone
    refine ⟨t, ht, ?_, ?_, ?_⟩
    · rw [hent.rest, ← hmem]
    · rw [hent.rest, ← hqueues]
    · rw [hent.regs]
      exact ⟨rfl, rfl, rfl, rfl, rfl, rfl, hheld, hpre, hrest⟩
  case porter =>
    intro s core m rest hin hslot hhalt hpre hquiet gone lost
    have hexec := porterRunStart_eq hin hhalt hpre hslot hquiet
    have hlost (h : exec (.porterRunStart core) s = .next (messageTaken s core rest (acknowledge s m true))) : lost := by
      refine ⟨fun src place st hsrc hgen => ?_, fun hsrc => ?_⟩
      · rw [h, acknowledge, hsrc]
        dsimp only
        rw [State.onGen, hgen]
        rfl
      · rw [h, acknowledge, hsrc]
        rfl
    refine ⟨?ours, fun hl => hlost (hexec.trans (porterOutcome_foreign hl))⟩
    intro l hl hlid pc found
    have hpc : handlerHead l m = pc := by
      unfold handlerHead
      rw [put_zero]
      rfl
    have hfound : checkHead s (porterParty s core) (handlerHead l m) = found := hpc ▸ rfl
    refine ⟨fun hbad => hlost (hexec.trans (porterOutcome_lost hl hlid (by rwa [hfound]))), fun hgood => ?_⟩
    have hkeep := messageTaken_keeps (s := s) (core := core) (rest := rest) (porterStarted s core m (handlerHead l m) l)
    obtain ⟨hpay, hx5, hzero⟩ := porterStrand_x s core m (handlerHead l m)
    obtain ⟨hpkg, hsender⟩ := field_senderWord (Nat.mod_lt m.senderPkg (by decide : 0 < 65536)) (Nat.mod_lt m.sender (by decide : 0 < 65536))
    obtain ⟨more, hmore⟩ := hkeep.inbox
    refine ⟨_, porterStrand s core m (handlerHead l m), hexec.trans (porterOutcome_starts hl hlid (by rwa [hfound])), ?_, ?_,
      porterStarted_strand hslot _, rfl, hpc, rfl, rfl, hpay, by rw [hx5, hpkg], by rw [hx5, hsender], hzero,
      ⟨more, by rw [hmore, State.core_setCore_self]⟩, porterStarted_launch hl _⟩
    · rw [hkeep.rest]
      rfl
    · rw [hkeep.rest]
      rfl

end Sys2Proof.Machine
end
